-- ==== Sys2Proof/Word.lean ====
section
/-!
DEFINITION. Words, bytes and the sparse map that every indexed family of State is held in.
-/

namespace Sys2Proof

/-- A byte (R8). -/
abbrev Byte := BitVec 8
/-- A 32-bit register (R8). -/
abbrev W32 := BitVec 32
/-- A 64-bit register or counter (R8). -/
abbrev W64 := BitVec 64
/-- A Traern data word (R180). -/
abbrev Word := BitVec 128

/-- A sparse map from natural keys: pairs with strictly rising keys and no entry equal to the default. -/
abbrev SMap (α : Type) := List (Nat × α)

namespace SMap

variable {α : Type}

/-- The value at key `k`; a key that is not listed reads as the default `d`. -/
def get (d : α) (m : SMap α) (k : Nat) : α :=
  match m with
  | [] => d
  | (k', v) :: r => if k = k' then v else get d r k

/-- `m` without key `k`. -/
def erase (m : SMap α) (k : Nat) : SMap α :=
  match m with
  | [] => []
  | (k', v) :: r => if k = k' then erase r k else (k', v) :: erase r k

/-- `m` with key `k` holding `v`, listed. -/
def insert (m : SMap α) (k : Nat) (v : α) : SMap α :=
  match m with
  | [] => [(k, v)]
  | (k', v') :: r =>
    if k = k' then (k, v) :: r else if k < k' then (k, v) :: (k', v') :: r else (k', v') :: insert r k v

/-- `m` with key `k` holding `v`, in canonical form: the default is not listed. -/
def set [DecidableEq α] (d : α) (m : SMap α) (k : Nat) (v : α) : SMap α :=
  if v = d then erase m k else insert m k v

/-- Every listed value changed by `f`, the canonical form kept. -/
def mapVals [DecidableEq α] (d : α) (f : Nat → α → α) (m : SMap α) : SMap α :=
  match m with
  | [] => []
  | (k, v) :: r => if f k v = d then erase (mapVals d f r) k else (k, f k v) :: mapVals d f r

/-- The keys rise strictly from above `lo`, and no listed value is the default. -/
def wfFrom [DecidableEq α] (d : α) (lo : Nat) (m : SMap α) : Bool :=
  match m with
  | [] => true
  | (k, v) :: r => decide (lo ≤ k) && decide (v ≠ d) && wfFrom d (k + 1) r

/-- The canonical form of a sparse map. -/
def wf [DecidableEq α] (d : α) (m : SMap α) : Bool := wfFrom d 0 m

end SMap

end Sys2Proof
end

