-- ==== Sys2Proof/Syntax.lean ====
section
/-!
DEFINITION. The commands of the block: one constructor of Instr per row of spec/opcode_table.json. A command carries
what comes from outside the device with it (a register value, data the device reads from host memory or from a part,
a measured value, the moment's choice among events); nothing of the device's own state.
-/

namespace Sys2Proof

/-- Who makes a register access (R50). A VF's access may carry the T bit of a selective IDE stream (R77). -/
inductive Requester where
  | pf
  | vf (n : Nat) (stream : Option Nat := none)
  | umpire
  deriving DecidableEq, Repr

/-- A register page (R56); instances as R19 numbers them. -/
inductive PageId where
  | chip
  | chipInt
  | heat
  | pcx
  | msh
  | klg
  | fn (n : Nat)
  | adm (n : Nat)
  | ctx
  | meas (i : Nat)
  | rgn (r : Nat)
  | egt (e : Nat)
  | qad (r : Nat)
  | pke (r : Nat)
  | rng
  | ump
  | wdg
  | tmp
  | aod
  | erg
  | fgt
  | psq
  | cci
  | lcs
  | dbg
  | bst
  | otp
  | evidence
  /-- Mirror k of R57, in the order of its table: LCS, TMP, WDG evidence, ERG, FGT, MEAS. -/
  | mirror (k : Nat)
  deriving DecidableEq, Repr

/-- An AER report (R82). -/
inductive Aer where
  | poisonedTlp
  | completionTimeout
  | unexpectedCompletion
  | unsupportedRequest
  | malformedTlp
  | receiverOverflow
  | flowControl
  | ideCheckFailed
  | uncorrectableInternal
  deriving DecidableEq, Repr

/-- A configuration-space field that the host writes and that has no step of its own (R68, R71, R72, R73, R78, R82,
R83). -/
inductive CfgReg where
  | msixEnable
  | msixFnMask
  | pasidEnable
  | atsEnable
  | ariHierarchy
  | pmeEnable
  | linkL2
  | memEnable
  | busMaster
  | bar0
  | bar2
  | vfMse
  | vfBar0
  | vfBar2
  | maxPayload
  | maxRead
  | powerState
  | aspmL1
  | l11
  | l12
  | ctoRange
  | ctoDisable
  | aerStatus (e : Aer)
  | aerMask (e : Aer)
  deriving DecidableEq, Repr

/-- Where a register access goes: a byte offset in the requester's BAR0 (R57, R62), an Umpire bank, word and lane (R63),
a configuration-space field of a function, or a byte offset in the requester's BAR2 (R71, R73). -/
inductive RegAddr where
  | bar (off : Nat)
  | bank (bank word lane : Nat)
  | cfg (fn : Nat) (r : CfgReg)
  | bar2 (off : Nat)
  deriving DecidableEq, Repr

/-- One scatter-gather entry as read from memory (R119). -/
structure Sge where
  addr : Nat
  len : Nat
  flags : W32
  deriving DecidableEq, Repr

/-- The scatter-gather lists a request names, as the device reads them (R119). -/
structure Sgls where
  inL : List Sge := []
  outL : List Sge := []
  aadL : List Sge := []
  deriving DecidableEq, Repr

/-- An IDE_KM message (R76): stream none is the link stream, key set 0 or 1. -/
inductive IdeKm where
  | query
  | keyProg (stream : Option Nat) (set : Bool) (key : BitVec 256)
  | setGo (stream : Option Nat) (set : Bool)
  | setStop (stream : Option Nat)
  deriving DecidableEq, Repr

/-- What a non-posted read of the device was for (R78, R82). -/
inductive ReadFor where
  | admRing (fn : Nat)
  | ring (fn : Nat) (ch : Nat)
  | list (req : Nat)
  | data (req : Nat)
  | frame (job : Nat)
  /-- An ATS translation request (R78): the page, the access the translation grants, and what the access it was sent for needs. -/
  | xlat (fn : Nat) (pasid : Option (BitVec 20)) (page : Nat) (write : Bool) (read : Bool) (need : ReadFor)
  deriving DecidableEq, Repr

/-- How a read completed (R82); `denied` is a translation that denies the access (R78). -/
inductive CplStatus where
  | data
  | poisoned
  | ur
  | ca
  | short
  | denied
  deriving DecidableEq, Repr

/-- A Traern core: stroke slot k of the cox of eight e, or the Umpire (R181). -/
inductive Core where
  | cox (e : Nat) (k : Nat)
  | umpire
  deriving DecidableEq, Repr

/-- The operand fields of a Traern instruction and its extension fields in order (R186, R189). -/
structure Enc where
  vlm1 : BitVec 4 := 0
  opa : BitVec 8 := 0xFF
  opb : BitVec 8 := 0xFF
  opc : BitVec 8 := 0xFF
  f : List (BitVec 18) := []
  deriving DecidableEq, Repr

/-- The kind of a block (R11). -/
inductive BlockKind where
  | eight
  | quad
  | pair
  deriving DecidableEq, Repr

/-- Where a stroke ended: a stroke slot of an eight, or a digest cell by its global index (R136). -/
inductive StrokeAt where
  | slot (e : Nat) (k : Nat)
  | cell (c : Nat)
  deriving DecidableEq, Repr

/-- What meets the writing of a stroke's output (R82, R456). -/
inductive StrokeErr where
  | none
  | denied
  | poisoned
  deriving DecidableEq, Repr

/-- What a PKE command meets outside the slice: IN and AAD as read, the busy time, and whether a produced signature fails its
self-check through a fault (R265). -/
structure PkeIn where
  inp : List Byte := []
  aad : List Byte := []
  ns : Nat := 0
  fault : Bool := false
  deriving DecidableEq, Repr

/-- The transport of an MCTP or DOE message (R347, R419). -/
inductive Transport where
  | doe
  | vdm
  | i3c
  deriving DecidableEq, Repr

/-- A downstream flash part as the gate reads it (R326): ID bytes, SFDP image, erase opcodes with their sizes, density, modes. -/
structure Part where
  id : List Byte := []
  sfdp : List Byte := []
  erase : List (Nat × Nat) := []
  density : Nat := 0
  /-- Bit p: the part has every mode of profile p, at the data rate R325 asks for. -/
  modes : BitVec 8 := 0
  deriving DecidableEq, Repr

/-- How a card command ended (R379): the response field, the end token, the data read, and the link errors. -/
structure CardDone where
  resp : BitVec 120 := 0
  token : BitVec 3 := 0
  data : List Byte := []
  respTo : Bool := false
  respCrc : Bool := false
  dataCrc : Bool := false
  busyTo : Bool := false
  deriving DecidableEq, Repr

/-- A DBG_CORE operation (R395). -/
inductive CoreOp where
  | halt
  | resume
  | step
  | readPc
  | readP (n : Nat)
  | writeP (n : Nat) (v : BitVec 18)
  | setBreak (a : BitVec 30)
  | clearBreak (a : BitVec 30)
  deriving DecidableEq, Repr

/-- An object that the inserted card's custody volume holds (R376, R377): TYPE, bytes, PARAM, and TARGET (empty: zero). -/
structure CardObj where
  kind : BitVec 8
  data : List Byte
  param : BitVec 16 := 0
  target : List Byte := []
  deriving DecidableEq, Repr

/-- The memory a scrub reads (R455): its DETAIL code, the instance of the block that owns it, the word in it, and whether the word
is control state of the Marshal, the ledger or the context cache (R456). For the context cache `unit` names the job whose entry
it is, for the key ledger `word` names the slot. -/
structure MemLoc where
  mem : Nat
  unit : Nat := 0
  word : Nat := 0
  ctrl : Bool := false
  /-- The slot, cell or slice whose unit of work uses the word, or the request whose data stands in Marshal staging; none: nothing
  uses it, and the scrubber found it. -/
  used : Option Nat := none
  /-- The read is the read-back of a wipe (R463). -/
  wipe : Bool := false
  deriving DecidableEq, Repr

/-- The function that an access over the link reaches, and the selective IDE stream whose T bit its TLP carries (R77). -/
structure LinkFn where
  fn : Nat
  stream : Option Nat := none
  deriving DecidableEq, Repr

/-- An address space of ATS: a function's, or that of one of its PASIDs (R78, R79). -/
structure AddrSpace where
  fn : Nat
  pasid : Option (BitVec 20) := none
  deriving DecidableEq, Repr

/-- Where a block alarm comes: the slot, cell or slice, and how many bytes of an ended stroke's output are out (R14, R169). -/
structure AlarmAt where
  slot : Nat
  sent : Nat := 0
  deriving DecidableEq, Repr

/-- The bytes of a register read: the first offset and how many. -/
structure Span where
  off : Nat
  width : Nat
  deriving DecidableEq, Repr

/-- The commands. Each constructor is the row of spec/opcode_table.json that its comment opens with. -/
inductive Instr where
  /-- POWER_GOOD (R468). Every monitored rail has been in range for 2 ms, so the boot ROM starts, advances the boot count and begins secure boot. -/
  | powerGood (perstLow : Bool) (crystal : Bool) (d0 : Part) (d1 : Part) (stimFail : List Nat)
  /-- MAIN_POWER_LOSS (R469). VAOD_MAIN leaves its range, and the always-on domain changes over to VBAT. -/
  | mainPowerLoss
  /-- PERST_ASSERT (R80). PERST# is asserted, which starts an accelerator-domain reset. -/
  | perstAssert
  /-- PERST_RELEASE (R25). PERST# is released, and configuration requests receive Request Retry Status until the reset work ends. -/
  | perstRelease (speed : BitVec 4) (width : BitVec 5) (flit : Bool)
  /-- LINK_DOWN (R80). A hot reset, link disable or DL_Down occurs, which starts an accelerator-domain reset. -/
  | linkDown
  /-- ACC_RESET_COMPLETE (R285). The wipe ends, the Umpire re-derives the roots, reloads the programs and the tamper quarantine, and ACC_READY reads 1. -/
  | accResetComplete (readBackOk : Bool)
  /-- PF_FLR (R80). A PF Function Level Reset clears the function state of the PF and of every VF and destroys all channels. -/
  | pfFlr
  /-- VF_FLR (R80). A VF Function Level Reset clears that VF's function state, channels, MSI-X table and ATS cache. -/
  | vfFlr (vf : Nat)
  /-- NUMVFS_WRITE (R72). A write to NumVFs is stored, ignored or brings VF Enable into effect, depending on the VF Enable state. -/
  | numvfsWrite (v : BitVec 16)
  /-- VF_ENABLE_WRITE (R72). VF Enable is set, or it is cleared, which acts as a VF FLR on every VF and removes each VF from its domain. -/
  | vfEnableWrite (on : Bool)
  /-- GUARDED_CONFIG_WRITE (R77). The host changes a guarded configuration register of a locked TDISP interface. -/
  | guardedConfigWrite (vf : Nat)
  /-- VECTOR_UNMASK (R73). A pending MSI-X vector is unmasked, so one message is sent and its PBA bit clears. -/
  | vectorUnmask (via : LinkFn) (vec : Nat)
  /-- DOE_DISCOVERY (R74). A DOE Discovery object lists the supported data object types. -/
  | doeDiscovery (index : Nat)
  /-- DOE_ABORT (R74). DOE Abort discards the object in transfer, and the mailbox is ready within 10 ms. -/
  | doeAbort
  /-- IDE_KM (R76). An IDE_KM message over a secured SPDM session programs or manages the IDE stream keys. -/
  | ideKm (m : IdeKm)
  /-- IDE_CHECK_FAILED (R76). A received TLP fails its IDE integrity check: it is discarded, its stream goes Insecure and AER is reported. -/
  | ideCheckFailed (stream : Option Nat)
  /-- ATS_INVALIDATION (R79). An ATS invalidation arrives, and the device stops using the covered translations at once. -/
  | atsInvalidation (tag : Nat) (space : AddrSpace) (lo : Nat) (hi : Nat)
  /-- ATS_INVALIDATION_COMPLETE (R79). The affected reads have completed and the writes have been sent, so the invalidation completion is sent. -/
  | atsInvalidationComplete (tag : Nat)
  /-- READ_COMPLETION (R82). A read completion arrives: data, poisoned data, UR or CA status, or a short completion. -/
  | readCompletion (f : ReadFor) (st : CplStatus)
  /-- COMPLETION_TIMEOUT (R82). A non-posted read times out, and the affected request completes with DMA_ERROR. -/
  | completionTimeout (f : ReadFor)
  /-- UNSUPPORTED_REQUEST (R69). A memory request outside the BARs, or an unsupported message, is completed as Unsupported Request. -/
  | unsupportedRequest (fn : Nat)
  /-- MALFORMED_TLP (R82). A malformed TLP, receiver overflow or flow-control error is reported as fatal. -/
  | malformedTlp (kind : Nat)
  /-- LINK_RETRAIN (R83). The link retrains, and RETRAIN and possibly DEGRADED set. -/
  | linkRetrain (speed : BitVec 4) (width : BitVec 5) (flit : Bool)
  /-- REGISTER_WRITE (R49). A write to a register that has no step of its own updates the field under the access rules. -/
  | registerWrite (who : Requester) (a : RegAddr) (width : Nat) (v : W64)
  /-- ERR_REC_CLR (R44). Writing PG_CTRL.ERR_REC_CLR empties all four error records. -/
  | errRecClr (who : Requester) (p : PageId)
  /-- PG_STATUS_CLEAR (R51). A write of 1 clears sticky PG_STATUS bits, and a simultaneous hardware set is ordered after the clear. -/
  | pgStatusClear (who : Requester) (p : PageId) (mask : W32) (hwSet : W32)
  /-- PG_INT_EN_WRITE (R43). A write of PG_INT_EN recomputes PG_INT_PEND and may request an interrupt. -/
  | pgIntEnWrite (who : Requester) (p : PageId) (v : W32)
  /-- PG_LOCK_WRITE (R47). Writing 1 to a PG_LOCK bit locks its RWL fields until a reset of the page's domain. -/
  | pgLockWrite (who : Requester) (p : PageId) (v : W32)
  /-- MIRROR_REFRESH (R60). The Umpire rewrites a mirror page under MIRROR_SEQ after a source change, or at least every 100 ms. -/
  | mirrorRefresh (p : PageId)
  /-- ADM_ENABLE (R89). ADM_CFG.ENABLE changes from 0 to 1: the bases and sizes are checked, and READY or ERROR results. -/
  | admEnable (via : LinkFn)
  /-- ADM_DISABLE (R89). ADM_CFG.ENABLE changes from 1 to 0: the running command completes, the others are discarded and READY clears. -/
  | admDisable (via : LinkFn)
  /-- ADMIN_DOORBELL (R102). A write to ADM_DB updates the admin queue's tail and head, or is refused. -/
  | adminDoorbell (via : LinkFn) (v : W64) (width : Nat)
  /-- CREATE_CHANNEL (R104). The admin command creates a channel at the least recently destroyed index and returns its handle. -/
  | createChannel (fn : Nat) (dw : List W32)
  /-- DESTROY_CHANNEL (R107). The admin command stops fetching for the channel and drains or aborts its requests. -/
  | destroyChannel (fn : Nat) (dw : List W32)
  /-- DESTROY_CHANNEL_COMPLETE (R107). The last fetched request has completed, so the contexts are discarded, the generation advances and the admin completion is written. -/
  | destroyChannelComplete (fn : Nat) (ch : Nat)
  /-- MODIFY_CHANNEL (R106). The admin command changes the interrupt, moderation, priority or default-program settings. -/
  | modifyChannel (fn : Nat) (dw : List W32)
  /-- QUERY_CHANNEL (R106). The admin command reports the channel's indices, state and completion count. -/
  | queryChannel (fn : Nat) (dw : List W32)
  /-- SET_SPILL_AREA (R94). The admin command sets the function's context-spill area. -/
  | setSpillArea (fn : Nat) (dw : List W32)
  /-- CREATE_DOMAIN (R94). The admin command creates a domain, derives its root from the salt and records it in the domain table. -/
  | createDomain (fn : Nat) (dw : List W32)
  /-- DESTROY_DOMAIN (R94). The admin command invalidates a domain root, which orphans the domain's key tree. -/
  | destroyDomain (fn : Nat) (dw : List W32)
  /-- ASSIGN_FUNCTION (R94). The admin command assigns a VF to a domain with a channel limit, or unassigns it. -/
  | assignFunction (fn : Nat) (dw : List W32)
  /-- SET_DOMAIN_WEIGHT (R140). The admin command sets a domain's scheduling weight. -/
  | setDomainWeight (fn : Nat) (dw : List W32)
  /-- ADMIN_RESERVED_OPCODE (R93). An admin command with a reserved opcode completes with DESC_FORMAT. -/
  | adminReservedOpcode (fn : Nat) (dw : List W32)
  /-- DOORBELL_WRITE (R101). A channel doorbell write applies a new submission tail, completion head and re-arm. -/
  | doorbellWrite (via : LinkFn) (idx : Nat) (v : W64) (width : Nat)
  /-- MOD_TIME_EXPIRY (R105). The oldest unsignalled completion reaches MOD_TIME, so the channel requests a message. -/
  | modTimeExpiry (fn : Nat) (ch : Nat)
  /-- DESCRIPTOR_FETCH (R99). The device fetches a descriptor or a whole chain once the completion ring has room, and checks its format. -/
  | descriptorFetch (fn : Nat) (ch : Nat) (descs : List (List W32))
  /-- REQUEST_ADMIT (R32). A request is validated and its keys are resolved, so it is admitted once ordering and context room allow. -/
  | requestAdmit (req : Nat) (sgl : Sgls)
  /-- SYM (R112). A SYM request runs a mode program on an eight. -/
  | sym (req : Nat) (ivt : List Byte)
  /-- DIGEST (R235). A DIGEST request hashes its input and writes the result to OUT. -/
  | digest (req : Nat)
  /-- EXTEND (R235). A DIGEST EXTEND request hashes its input and extends a measurement register. -/
  | extend (req : Nat)
  /-- COMPARE (R237). A DIGEST COMPARE request compares the digest with a reference in constant time. -/
  | compare (req : Nat)
  /-- KEY_IMPORT (R293). A KEY IMPORT request unwraps a Zelisk key blob into a new slot. -/
  | keyImport (req : Nat) (data : List Byte) (ns : Nat)
  /-- KEY_DERIVE (R289). A KEY DERIVE request derives a child key from a SECRET parent. -/
  | keyDerive (req : Nat) (data : List Byte)
  /-- KEY_WRITE (R291). A KEY WRITE request places a clear key in a domain. -/
  | keyWrite (req : Nat) (data : List Byte)
  /-- KEY_DESTROY (R296). A KEY DESTROY request invalidates a slot, which then retires. -/
  | keyDestroy (req : Nat)
  /-- KEY_QUERY (R292). A KEY QUERY request writes the slot's 32-byte metadata record. -/
  | keyQuery (req : Nat)
  /-- CTX_SAVE (R152). A CTX SAVE request writes the open message as a saved blob and closes it. -/
  | ctxSave (req : Nat)
  /-- CTX_RESTORE (R152). A CTX RESTORE request checks a blob and reopens the message. -/
  | ctxRestore (req : Nat) (data : List Byte)
  /-- CTX_DISCARD (R116). A CTX DISCARD request closes the open message and writes nothing. -/
  | ctxDiscard (req : Nat)
  /-- FENCE_REQUEST (R126). A FENCE request orders its channel's requests and completes with OK. -/
  | fenceRequest (req : Nat)
  /-- NOP_REQUEST (R117). A NOP request completes with OK and returns PARAM. -/
  | nopRequest (req : Nat)
  /-- RESERVED_TYPE (R110). A descriptor with a reserved TYPE completes with DESC_FORMAT. -/
  | reservedType (req : Nat)
  /-- LOAD (R259). A PKE LOAD command writes a public value into an operand slot. -/
  | load (req : Nat) (x : PkeIn)
  /-- LOAD_KEY (R259). A PKE LOAD_KEY command writes a key component, tainted, into an operand slot. -/
  | loadKey (req : Nat) (x : PkeIn)
  /-- READ (R257). A PKE READ command writes an untainted operand slot to OUT. -/
  | read (req : Nat) (x : PkeIn)
  /-- CLEAR (R259). A PKE CLEAR command empties an operand slot. -/
  | clear (req : Nat) (x : PkeIn)
  /-- MOD_ADD (R259). A PKE command computes (A + B) mod M into DEST. -/
  | modAdd (req : Nat) (x : PkeIn)
  /-- MOD_SUB (R259). A PKE command computes (A − B) mod M into DEST. -/
  | modSub (req : Nat) (x : PkeIn)
  /-- MOD_MUL (R259). A PKE command computes (A × B) mod M into DEST. -/
  | modMul (req : Nat) (x : PkeIn)
  /-- MOD_INV (R259). A PKE command computes the inverse of A mod M into DEST. -/
  | modInv (req : Nat) (x : PkeIn)
  /-- MOD_EXP (R259). A PKE command computes A^B mod M into DEST. -/
  | modExp (req : Nat) (x : PkeIn)
  /-- PUBKEY (R257). A PKE command writes the public key of a ledger key. -/
  | pubkey (req : Nat) (x : PkeIn)
  /-- ECDSA_SIGN (R265). A PKE command signs a digest with ECDSA and self-checks the result before release. -/
  | ecdsaSign (req : Nat) (x : PkeIn)
  /-- ECDSA_VERIFY (R263). A PKE command verifies an ECDSA signature. -/
  | ecdsaVerify (req : Nat) (x : PkeIn)
  /-- ECDH (R257). A PKE command computes an ECDH shared x-coordinate. -/
  | ecdh (req : Nat) (x : PkeIn)
  /-- EDDSA_SIGN (R265). A PKE command produces a pure EdDSA signature. -/
  | eddsaSign (req : Nat) (x : PkeIn)
  /-- EDDSA_VERIFY (R263). A PKE command verifies an EdDSA signature. -/
  | eddsaVerify (req : Nat) (x : PkeIn)
  /-- XDH (R263). A PKE command computes an X25519 or X448 shared secret. -/
  | xdh (req : Nat) (x : PkeIn)
  /-- RSA_PRIV (R265). A PKE command performs an RSA private operation with CRT and a check. -/
  | rsaPriv (req : Nat) (x : PkeIn)
  /-- RSA_PUB (R263). A PKE command performs an RSA public operation. -/
  | rsaPub (req : Nat) (x : PkeIn)
  /-- MLDSA_SIGN (R265). A PKE command produces a hedged ML-DSA-87 signature of a message. -/
  | mldsaSign (req : Nat) (x : PkeIn)
  /-- MLDSA_SIGN_MU (R258). A PKE command signs a caller-formed μ with ML-DSA-87. -/
  | mldsaSignMu (req : Nat) (x : PkeIn)
  /-- MLDSA_VERIFY (R263). A PKE command verifies an ML-DSA-87 signature. -/
  | mldsaVerify (req : Nat) (x : PkeIn)
  /-- MLKEM_ENCAPS (R264). A PKE command performs ML-KEM-1024 encapsulation. -/
  | mlkemEncaps (req : Nat) (x : PkeIn)
  /-- MLKEM_DECAPS (R263). A PKE command performs ML-KEM-1024 decapsulation, with implicit rejection. -/
  | mlkemDecaps (req : Nat) (x : PkeIn)
  /-- STROKE_START (R137). The Marshal starts a stroke or PKE segment on a unit under deficit round robin, once slots and credit allow. -/
  | strokeStart (job : Nat) (data : List Byte) (aad : List Byte)
  /-- STROKE_END (R166). A stroke completes, and its output is written in address order and recorded for metering. -/
  | strokeEnd (u : StrokeAt) (ref : List Byte) (err : StrokeErr)
  /-- PKE_SEGMENT_END (R266). A PKE slice reaches a yield point and keeps the job's state in its frame. -/
  | pkeSegmentEnd (slice : Nat) (ns : Nat) (stateBytes : Nat)
  /-- SPILL_WRITE_SENT (R148). The last write of a context blob is sent, so the cache entry is freed. -/
  | spillWriteSent (job : Nat) (ok : Bool)
  /-- FRAME_READBACK (R151). A spill frame is read back, checked and restored into the cache, or the message is closed. -/
  | frameReadback (job : Nat) (data : List Byte)
  /-- CELL_FAULT (R12). A cell detects a fault and retries its current unit of work once. -/
  | cellFault (k : BlockKind) (unit : Nat) (slot : Nat) (cells : BitVec 8) (code : BitVec 8)
  /-- BLOCK_ALARM (R14). A block erases its working keys, completes the stroke's request with BLOCK_FAULT and records the alarm. -/
  | blockAlarm (k : BlockKind) (unit : Nat) (slot : AlarmAt) (code : BitVec 8) (detail : BitVec 5)
  /-- RANDOMNESS_WAIT_TIMEOUT (R169). A cell waits more than 1 ms for randomness, which raises a block alarm with code 0x88. -/
  | randomnessWaitTimeout (k : BlockKind) (unit : Nat) (slot : Nat) (cell : Nat)
  /-- EIGHT_CADENCE_UPDATE (R28). An eight publishes its cadence, and CHIP_CADENCE is recomputed. -/
  | eightCadenceUpdate (e : Nat) (blocks : W32) (norm : W32)
  /-- MASK_FALLBACK_END (R163). 600 s pass after the last triggering record, so the chip-wide fall-back ends. -/
  | maskFallbackEnd
  /-- PROGRAM_LOAD (R220). The Umpire checks a mode program image and loads it into a free slot, or rejects it. -/
  | programLoad (image : List Byte)
  /-- NOP (R191). The Traern instruction does nothing. -/
  | nop (c : Core) (x : Enc)
  /-- END (R198). The instruction fences, checks OUT_LEFT, saves the counter and hands back the context to end the stroke. -/
  | end_ (c : Core) (x : Enc)
  /-- FENCE (R204). The instruction waits until the pending seat, field-unit and FLD results of the slot have landed. -/
  | fence (c : Core) (x : Enc)
  /-- MOV (R191). The instruction copies B to A, element by element. -/
  | mov (c : Core) (x : Enc)
  /-- FLD (R203). The far load reads a word whose result lands two instructions later. -/
  | fld (c : Core) (x : Enc)
  /-- FLD_LAND (R203). The value of a pending FLD is written to its destination at its fixed point, after any wait for the data. -/
  | fldLand (c : Core)
  /-- FST (R191). The far store writes a word to a named bank. -/
  | fst (c : Core) (x : Enc)
  /-- STM (R213). The masked store writes the selected 32-bit lanes. -/
  | stm (c : Core) (x : Enc)
  /-- MFSR (R183). The instruction reads a special register. -/
  | mfsr (c : Core) (x : Enc)
  /-- MTSR (R183). The instruction writes a special register. -/
  | mtsr (c : Core) (x : Enc)
  /-- XOR (R191). The instruction computes A := B XOR C. -/
  | xor (c : Core) (x : Enc)
  /-- AND (R191). The instruction computes A := B AND C. -/
  | and (c : Core) (x : Enc)
  /-- OR (R191). The instruction computes A := B OR C. -/
  | or (c : Core) (x : Enc)
  /-- ANDN (R191). The instruction computes A := B AND NOT C. -/
  | andn (c : Core) (x : Enc)
  /-- XRED (R191). The instruction XORs the elements of B into A. -/
  | xred (c : Core) (x : Enc)
  /-- ADD_W (R192). The instruction adds lane-wise in 32-bit lanes. -/
  | addW (c : Core) (x : Enc)
  /-- ADD_D (R192). The instruction adds lane-wise in 64-bit lanes. -/
  | addD (c : Core) (x : Enc)
  /-- ADD_Q (R192). The instruction adds 128-bit words. -/
  | addQ (c : Core) (x : Enc)
  /-- SUB_W (R192). The instruction subtracts lane-wise in 32-bit lanes. -/
  | subW (c : Core) (x : Enc)
  /-- SUB_D (R192). The instruction subtracts lane-wise in 64-bit lanes. -/
  | subD (c : Core) (x : Enc)
  /-- SUB_Q (R192). The instruction subtracts 128-bit words. -/
  | subQ (c : Core) (x : Enc)
  /-- SHL_W (R192). The instruction shifts left in 32-bit lanes. -/
  | shlW (c : Core) (x : Enc)
  /-- SHL_D (R192). The instruction shifts left in 64-bit lanes. -/
  | shlD (c : Core) (x : Enc)
  /-- SHL_Q (R192). The instruction shifts a 128-bit word left. -/
  | shlQ (c : Core) (x : Enc)
  /-- SHR_W (R192). The instruction shifts right logically in 32-bit lanes. -/
  | shrW (c : Core) (x : Enc)
  /-- SHR_D (R192). The instruction shifts right logically in 64-bit lanes. -/
  | shrD (c : Core) (x : Enc)
  /-- SHR_Q (R192). The instruction shifts a 128-bit word right logically. -/
  | shrQ (c : Core) (x : Enc)
  /-- BFI (R193). The instruction inserts a bit field. -/
  | bfi (c : Core) (x : Enc)
  /-- BFX (R193). The instruction extracts a bit field. -/
  | bfx (c : Core) (x : Enc)
  /-- CLZ (R191). The instruction counts leading zero bits. -/
  | clz (c : Core) (x : Enc)
  /-- BPERM (R194). The instruction permutes bytes. -/
  | bperm (c : Core) (x : Enc)
  /-- ENC (R195). The instruction issues AES encryptions to the seats, with the results pending until FENCE. -/
  | enc (c : Core) (x : Enc)
  /-- DEC (R195). The instruction issues AES decryptions to the seats, with the results pending until FENCE. -/
  | dec (c : Core) (x : Enc)
  /-- GFMUL_G (R195). The instruction multiplies in GF(2^128) in the GCM convention on a field unit. -/
  | gfmulG (c : Core) (x : Enc)
  /-- GFMUL_X (R195). The instruction multiplies in GF(2^128) in the XTS convention on a field unit. -/
  | gfmulX (c : Core) (x : Enc)
  /-- TCMP (R196). The instruction compares tags in constant time and feeds the message verdict. -/
  | tcmp (c : Core) (x : Enc)
  /-- BEQ (R197). The instruction branches if A equals B. -/
  | beq (c : Core) (x : Enc)
  /-- BNE (R197). The instruction branches if A differs from B. -/
  | bne (c : Core) (x : Enc)
  /-- BLT (R197). The instruction branches on a signed less-than comparison. -/
  | blt (c : Core) (x : Enc)
  /-- BGE (R197). The instruction branches on a signed greater-or-equal comparison. -/
  | bge (c : Core) (x : Enc)
  /-- BLTU (R197). The instruction branches on an unsigned less-than comparison. -/
  | bltu (c : Core) (x : Enc)
  /-- BGEU (R197). The instruction branches on an unsigned greater-or-equal comparison. -/
  | bgeu (c : Core) (x : Enc)
  /-- BBS (R197). The instruction branches if the selected bit of A is set. -/
  | bbs (c : Core) (x : Enc)
  /-- BBC (R197). The instruction branches if the selected bit of A is clear. -/
  | bbc (c : Core) (x : Enc)
  /-- JMP (R197). The instruction jumps to its target. -/
  | jmp (c : Core) (x : Enc)
  /-- CALL (R201). The instruction pushes a return address under the stack limit and jumps. -/
  | call (c : Core) (x : Enc)
  /-- RET (R201). The instruction pops a return address and continues there. -/
  | ret (c : Core) (x : Enc)
  /-- LOOP (R200). The instruction opens a hardware loop level. -/
  | loop (c : Core) (x : Enc)
  /-- JMPI (R210). The Umpire instruction jumps to the address held in A. -/
  | jmpi (c : Core) (x : Enc)
  /-- CALLI (R210). The Umpire instruction calls the address held in A. -/
  | calli (c : Core) (x : Enc)
  /-- ERET (R212). The Umpire instruction returns from an exception and restores IE. -/
  | eret (c : Core) (x : Enc)
  /-- WFI (R210). The Umpire instruction waits until an enabled interrupt is pending. -/
  | wfi (c : Core) (x : Enc)
  /-- RESERVED_OPCODE (R214). A reserved opcode has a confined, undefined effect. -/
  | reservedOpcode (c : Core) (opcode : BitVec 8) (x : Enc)
  /-- INSTRUCTION_BUDGET_EXCEEDED (R206). A stroke passes 1,048,576 instructions, which is a program fault. -/
  | instructionBudgetExceeded (e : Nat) (k : Nat)
  /-- UMPIRE_INTERRUPT (R212). An enabled pending interrupt is taken between instructions. -/
  | umpireInterrupt
  /-- DIRECT_START (R246). QAD_DIR_CTRL.START starts a direct-port digest job. -/
  | directStart (who : Requester) (r : Nat)
  /-- DIRECT_ABORT (R246). QAD_DIR_CTRL.ABORT abandons the direct job, and nothing is extended. -/
  | directAbort (who : Requester) (r : Nat)
  /-- DIRECT_DONE (R246). A direct job ends, and it writes the result, extends the register and sets DONE, or fails. -/
  | directDone (r : Nat) (flash : Option (List Byte))
  /-- QAD_DIR_OUT_READ (R247). A read of QAD_DIR_OUT before DONE returns zero and sets EARLY_READ. -/
  | qadDirOutRead (who : Requester) (r : Nat) (span : Span)
  /-- MEAS_ACL_WRITE (R241). A write of a measurement access list takes effect, or is ignored as frozen. -/
  | measAclWrite (who : Requester) (n : Nat) (v : W64)
  /-- MODE_WRITE (R249). A write of PKE_CFG.MODE starts a slice mode change and sets MAC_OWNER. -/
  | modeWrite (who : Requester) (slice : Nat) (mac : Bool)
  /-- MODE_CHANGE_DONE (R249). The running segment has ended and the slice has vacated and wiped, so it enters the new mode. -/
  | modeChangeDone (slice : Nat)
  /-- PKE_ABORT (R267). PKE_CTRL.ABORT stops the slice's jobs at a yield point, wipes the slice and completes the jobs with ABORTED. -/
  | pkeAbort (who : Requester) (slice : Nat)
  /-- MAC_CLEAR (R270). The MAC operation sets ACC to 0, untainted. -/
  | macClear (who : Requester) (slice : Nat) (a : BitVec 13) (b : BitVec 13)
  /-- MULACC (R270). The MAC operation adds W[A] × W[B] into ACC. -/
  | mulacc (who : Requester) (slice : Nat) (a : BitVec 13) (b : BitVec 13)
  /-- ADDW (R270). The MAC operation adds W[A] into ACC. -/
  | addw (who : Requester) (slice : Nat) (a : BitVec 13) (b : BitVec 13)
  /-- MAC_SHR (R270). The MAC operation shifts ACC right by 256 bits. -/
  | macShr (who : Requester) (slice : Nat) (a : BitVec 13) (b : BitVec 13)
  /-- MAC_STORE (R270). The MAC operation stores the low 256 bits of ACC into W[A]. -/
  | macStore (who : Requester) (slice : Nat) (a : BitVec 13) (b : BitVec 13)
  /-- READW (R270). The MAC operation copies W[A] into the data window, giving zeros if the word is tainted. -/
  | readw (who : Requester) (slice : Nat) (a : BitVec 13) (b : BitVec 13)
  /-- WRITEW (R270). The MAC operation writes the data window into W[A], untainted. -/
  | writew (who : Requester) (slice : Nat) (a : BitVec 13) (b : BitVec 13)
  /-- LOADKEY (R270). The MAC operation copies a device-internal key into W[A] onward, tainted, for the Umpire only. -/
  | loadkey (who : Requester) (slice : Nat) (a : BitVec 13) (b : BitVec 13)
  /-- INVALIDATION_DRAIN_DONE (R296). No stroke under a retiring slot remains loaded, so the DESTROY or DESTROY_DOMAIN completion is written. -/
  | invalidationDrainDone (slot : Nat)
  /-- INVALIDATION_RELEASE (R296). The last admitted request under a retiring slot completes, so the material is erased, the descendants are orphaned and the slot is freed. -/
  | invalidationRelease (slot : Nat)
  /-- KLG_QUOTA_WRITE (R300). A write sets the selected domain's occupied-slot quota, or is refused for a domain that does not exist. -/
  | klgQuotaWrite (who : Requester) (v : W32)
  /-- QUOTA_TABLE_COPY (R287). The Umpire copies a changed quota into the domain table within 1 s. -/
  | quotaTableCopy
  /-- PGOOD_RISE (R313). A power step's PGOOD_IN rises, so its delay begins and the input is armed for loss. -/
  | pgoodRise (i : Nat)
  /-- POWER_STEP_DELAY_EXPIRY (R313). A power step's DELAY_MS ends, so the next step starts. -/
  | powerStepDelayExpiry (phase : Nat)
  /-- POWER_STEP_TIMEOUT (R319). A PGOOD does not rise within TIMEOUT_MS, so the group's steps are turned off. -/
  | powerStepTimeout (phase : Nat)
  /-- POWER_RETRY_TIMER (R319). The 1 s wait after a power failure ends, so the steps or the verification are tried again. -/
  | powerRetryTimer (group : Nat)
  /-- PGOOD_FALL (R302). A watched PGOOD_IN falls, so the hardware drives the group's PRST_OUT low within 10 µs. -/
  | pgoodFall (i : Nat)
  /-- COUNTER_COMMIT (R309). 600 s of clean watchdog periods after full release raise the anti-rollback counters and end any firmware trial. -/
  | counterCommit
  /-- FLASH_READ (R330). An upstream read is decided by the rules, then forwarded, redirected or denied. -/
  | flashRead (port : Bool) (op : BitVec 8) (addr : Nat) (data : List Byte)
  /-- FLASH_STATUS (R328). A status read is decided by the rules, with WEL reflecting the held enable. -/
  | flashStatus (port : Bool) (op : BitVec 8) (data : List Byte)
  /-- FLASH_PROGRAM (R328). A program command is forwarded with a write enable if allowed, or denied. -/
  | flashProgram (port : Bool) (op : BitVec 8) (addr : Nat) (data : List Byte)
  /-- FLASH_ERASE (R331). An erase is allowed only if its whole block lies in the deciding range. -/
  | flashErase (port : Bool) (op : BitVec 8) (addr : Nat)
  /-- FLASH_CHIP_ERASE (R327). A chip erase is always denied. -/
  | flashChipErase (port : Bool) (op : BitVec 8)
  /-- FLASH_CONFIG_WRITE (R328). A configuration write is forwarded with a write enable if allowed, or denied. -/
  | flashConfigWrite (port : Bool) (op : BitVec 8) (data : List Byte)
  /-- FLASH_SUSPEND (R330). A suspend or resume command is decided by the rules. -/
  | flashSuspend (port : Bool) (op : BitVec 8)
  /-- FLASH_RESET (R330). A reset command is decided by the rules. -/
  | flashReset (port : Bool) (op : BitVec 8)
  /-- FLASH_RDID (R326). RDID is answered by the gate with the downstream part's ID bytes. -/
  | flashRdid (port : Bool)
  /-- FLASH_SFDP (R326). An SFDP read is answered by the gate from the synthesised tables. -/
  | flashSfdp (port : Bool) (addr : Nat) (len : Nat)
  /-- FLASH_WRITE_ENABLE (R328). 0x06 sets the gate's held write enable. -/
  | flashWriteEnable (port : Bool)
  /-- FLASH_WRITE_DISABLE (R328). 0x04 clears the gate's held write enable. -/
  | flashWriteDisable (port : Bool)
  /-- FLASH_ENTER_4B (R327). 0xB7 sets the upstream address width to 4 bytes. -/
  | flashEnter4b (port : Bool)
  /-- FLASH_EXIT_4B (R327). 0xE9 sets the upstream address width to 3 bytes. -/
  | flashExit4b (port : Bool)
  /-- FLASH_POWER_DOWN (R327). 0xB9 has no effect, and the port stays responsive. -/
  | flashPowerDown (port : Bool)
  /-- FLASH_RELEASE_POWER_DOWN (R327). 0xAB has no effect. -/
  | flashReleasePowerDown (port : Bool)
  /-- FLASH_UNKNOWN_OP (R327). An unknown opcode is denied, counted and logged. -/
  | flashUnknownOp (port : Bool) (op : BitVec 8)
  /-- FGT_SWAP (R335). A write of FGT_CTRL.SWAP requests that the shadow bank become live. -/
  | fgtSwap
  /-- BANK_SWAP (R335). At a decision boundary the banks swap, the latched set is formed and the held enables clear. -/
  | bankSwap
  /-- PORT_ENABLE_WRITE (R324). A write of U0_EN or U1_EN enables or disables an upstream port, after any running Umpire write ends. -/
  | portEnableWrite (u0 : Bool) (u1 : Bool)
  /-- LOG_ENTRY_READ (R341). A read of FGT_LOG_HI removes the oldest gate log entry. -/
  | logEntryRead
  /-- GET_VERSION (R347). The SPDM request returns the supported versions. -/
  | getVersion (t : Transport)
  /-- GET_CAPABILITIES (R347). The SPDM request returns the capabilities. -/
  | getCapabilities (t : Transport) (version : BitVec 8)
  /-- NEGOTIATE_ALGORITHMS (R347). The SPDM request selects the algorithms, preferring ML-DSA-87. -/
  | negotiateAlgorithms (t : Transport) (mldsa : Bool) (ecdsa : Bool) (mlkem : Bool)
  /-- GET_DIGESTS (R348). The SPDM request returns the digests of the certificate slots. -/
  | getDigests (t : Transport)
  /-- GET_CERTIFICATE (R346). The SPDM request returns a chain with the current alias certificate appended. -/
  | getCertificate (t : Transport) (slot : Nat) (off : Nat) (len : Nat)
  /-- CHALLENGE (R348). The SPDM request is answered with a signature by the slot's alias key. -/
  | challenge (t : Transport) (slot : Nat) (nonce : List Byte)
  /-- GET_MEASUREMENTS (R350). The SPDM request captures and reports measurement registers. -/
  | getMeasurements (t : Transport) (index : BitVec 8) (sign : Bool) (nonce : List Byte)
  /-- KEY_EXCHANGE (R348). The SPDM request starts a session key exchange. -/
  | keyExchange (t : Transport) (slot : Nat) (rsid : BitVec 16) (data : List Byte)
  /-- FINISH (R348). The SPDM request completes session establishment. -/
  | finish (t : Transport) (sid : W32) (ok : Bool)
  /-- END_SESSION (R348). The SPDM request ends a session. -/
  | endSession (t : Transport) (sid : W32)
  /-- HEARTBEAT (R348). The SPDM request keeps a session alive. -/
  | heartbeat (t : Transport) (sid : W32)
  /-- KEY_UPDATE (R348). The SPDM request updates the session keys. -/
  | keyUpdate (t : Transport) (sid : W32) (op : BitVec 8)
  /-- GET_CSR (R348). The SPDM request returns a CSR for the DeviceID key in MAKER or INTEGRATOR. -/
  | getCsr (t : Transport)
  /-- SET_CERTIFICATE (R346). The SPDM request stores a checked chain in a certificate slot. -/
  | setCertificate (t : Transport) (slot : Nat) (chain : List Byte)
  /-- CHUNK_SEND (R348). The SPDM request receives one chunk of a large message. -/
  | chunkSend (t : Transport) (handle : BitVec 8) (seq : BitVec 16) (last : Bool) (data : List Byte)
  /-- CHUNK_GET (R348). The SPDM request returns one chunk of a large response. -/
  | chunkGet (t : Transport) (handle : BitVec 8) (seq : BitVec 16)
  /-- RESPOND_IF_READY (R348). The SPDM request retrieves a response that was deferred with ResponseNotReady. -/
  | respondIfReady (t : Transport) (token : BitVec 8)
  /-- SPDM_UNSUPPORTED_REQUEST (R348). Any other SPDM request receives ERROR UnsupportedRequest. -/
  | spdmUnsupportedRequest (t : Transport) (code : BitVec 8)
  /-- GET_DOMAIN_CERTS (R353). The vendor request returns a domain's attestation and import certificates. -/
  | getDomainCerts (t : Transport) (args : List Byte)
  /-- GET_DEVICE_ID (R353). The vendor request returns the DeviceID digest. -/
  | getDeviceId (t : Transport) (args : List Byte)
  /-- GET_TDISP_VERSION (R352). The TDISP request returns version 1.0. -/
  | getTdispVersion (vf : Nat)
  /-- GET_TDISP_CAPABILITIES (R352). The TDISP request returns the capabilities. -/
  | getTdispCapabilities (vf : Nat)
  /-- LOCK_INTERFACE_REQUEST (R352). The TDISP request moves a VF interface to CONFIG_LOCKED. -/
  | lockInterfaceRequest (vf : Nat) (stream : Nat)
  /-- GET_DEVICE_INTERFACE_REPORT (R352). The TDISP request returns the interface report with its domain area. -/
  | getDeviceInterfaceReport (vf : Nat)
  /-- GET_DEVICE_INTERFACE_STATE (R352). The TDISP request returns the interface state. -/
  | getDeviceInterfaceState (vf : Nat)
  /-- START_INTERFACE_REQUEST (R352). The TDISP request moves a locked interface to RUN. -/
  | startInterfaceRequest (vf : Nat) (nonceOk : Bool)
  /-- STOP_INTERFACE_REQUEST (R77). The TDISP request wipes the VF's function state and returns the interface to CONFIG_UNLOCKED. -/
  | stopInterfaceRequest (vf : Nat)
  /-- CARD_INSERTED (R370). CC_DET_N has been low for 50 ms, so card power comes on and start-up begins. -/
  | cardInserted
  /-- CARD_VSEL_SWITCH (R370). After the clock stop and wait, CC_VSEL rises and the link is confirmed at 1.8 V. -/
  | cardVselSwitch
  /-- CARD_REMOVED (R372). CC_DET_N rises, so the hardware stops the link, removes card power and marks the transaction. -/
  | cardRemoved
  /-- GO_RESET (R366). The card command resets the card state and rolls back an open transaction. -/
  | goReset
  /-- IDENTIFY (R366). The card command returns the identification and readiness of the card. -/
  | identify (pattern : BitVec 8)
  /-- NEGOTIATE (R366). The card command selects the link mode. -/
  | negotiate (mode : BitVec 2)
  /-- SELECT (R366). The card command selects the card by serial number. -/
  | select (serial : W32)
  /-- READ_BLOCKS (R367). The card command reads data blocks. -/
  | readBlocks (first : BitVec 24) (count1 : BitVec 8)
  /-- WRITE_BLOCKS (R367). The card command writes data blocks in the open transaction. -/
  | writeBlocks (first : BitVec 24) (count1 : BitVec 8)
  /-- SET_TXN (R366). The card command opens a journalled transaction. -/
  | setTxn (id : BitVec 16)
  /-- JOURNAL_QUERY (R366). The card command reports the recorded outcome of a transaction. -/
  | journalQuery (id : BitVec 16)
  /-- JOURNAL_RESOLVE (R366). The card command discards the journal record. -/
  | journalResolve (id : BitVec 16)
  /-- SET_TEMP_WP (R366). The card command sets temporary write protection. -/
  | setTempWp
  /-- CLEAR_TEMP_WP (R366). The card command clears temporary write protection. -/
  | clearTempWp
  /-- SET_PERM_WP (R366). The card command sets permanent write protection. -/
  | setPermWp (arg : W32)
  /-- READ_WP (R366). The card command reports the protection bits. -/
  | readWp
  /-- POWER_DOWN (R366). The card command rolls back an open transaction and makes the card safe to power off. -/
  | powerDown
  /-- CCI_COMMAND_DONE (R379). A card command ends with its response, data, token and busy, or with a timeout or CRC error. -/
  | cciCommandDone (d : CardDone)
  /-- LIFECYCLE_TRANSITION_REQUEST (R388). A transition request object is checked and accepted or refused. -/
  | lifecycleTransitionRequest (obj : List Byte)
  /-- DEBUG_GRANT (R392). A debug grant object is checked on arrival and stored in the grant slot. -/
  | debugGrant (obj : List Byte)
  /-- OWNER_KEY_UPDATE (R391). An owner-key update programs a trust-anchor hash slot. -/
  | ownerKeyUpdate (obj : List Byte)
  /-- EXTEST (R395). The JTAG instruction drives the boundary, with the BOUNDARY right. -/
  | extest (bits : List Byte)
  /-- IDCODE (R395). The JTAG instruction returns the IDCODE value. -/
  | idcode
  /-- SAMPLE_PRELOAD (R395). The JTAG instruction samples or preloads the boundary, with the BOUNDARY right. -/
  | samplePreload (bits : List Byte)
  /-- DBG_STATUS (R395). The JTAG instruction reads the status pages, with the STATUS right. -/
  | dbgStatus (p : PageId) (off : Nat)
  /-- DBG_TRACE (R395). The JTAG instruction reads the event log and trace, with the TRACE right. -/
  | dbgTrace (index : Nat)
  /-- DBG_PERF (R395). The JTAG instruction reads the performance counters, with the PERF right. -/
  | dbgPerf (p : PageId) (off : Nat)
  /-- DBG_CORE (R395). The JTAG instruction halts, steps or accesses the Umpire core and freezes the watchdog, with the UMP_HALT right. -/
  | dbgCore (op : CoreOp)
  /-- DBG_MEM (R395). The JTAG instruction reads or writes Umpire SRAM and pages, with the UMP_MEM right. -/
  | dbgMem (bank : Nat) (addr : Nat) (wr : Option Word)
  /-- DBG_ACC (R395). The JTAG instruction reads or writes the accelerator pages, with the ACC_PAGES right. -/
  | dbgAcc (p : PageId) (off : Nat) (wr : Option W32)
  /-- SCAN (R395). Selecting a SCAN instruction zeroises the service root and resets both domains. -/
  | scan (n : BitVec 4)
  /-- BYPASS (R395). The JTAG instruction selects the bypass register, as does any denied instruction. -/
  | bypass (code : BitVec 8)
  /-- TAP_RESET (R395). TRST_N resets only the TAP. -/
  | tapReset
  /-- SHIELD (R399). A shield net mismatch is recorded, and its class response follows. -/
  | shield (i : Nat)
  /-- SUPPLY_UV_DETECT (R400). A main rail falls below its UV threshold, and classification begins. -/
  | supplyUvDetect (rail : Nat) (mv : BitVec 16)
  /-- SUPPLY_UV (R400). The rail recovers or 10 ms pass, so a SUPPLY_UV record and its response follow. -/
  | supplyUv (rail : Nat) (mv : BitVec 16)
  /-- SUPPLY_OV (R399). A rail rises above its OV threshold and is recorded. -/
  | supplyOv (rail : Nat) (mv : BitVec 16)
  /-- THERMAL_HIGH (R399). A diode reads above 125 °C twice and is recorded. -/
  | thermalHigh (i : Nat) (temp : BitVec 16)
  /-- THERMAL_LOW (R399). A diode reads below −55 °C twice and is recorded. -/
  | thermalLow (i : Nat) (temp : BitVec 16)
  /-- LIGHT (R399). A photodiode exceeds its trimmed level for 10 µs and is recorded. -/
  | light (i : Nat)
  /-- EMP (R399). A sense loop detects an induced pulse and is recorded. -/
  | emp (i : Nat)
  /-- CELL_REMOVED (R399). The backup cell is absent under main power and is recorded. -/
  | cellRemoved
  /-- CELL_LOW (R399). VBAT below 2.5 V is recorded. -/
  | cellLow
  /-- TLOOP (R399). A tamper loop pattern mismatch is recorded, deferred if on the cell. -/
  | tloop (n : Nat)
  /-- XTAL_FAIL (R399). The crystal stops or drifts, so it is recorded and the counter runs on a fallback oscillator. -/
  | xtalFail
  /-- STATE_INVALID (R402). A wide-distance state encoding reads as a non-code word, which gives a class A record. -/
  | stateInvalid (machine : Nat)
  /-- TAMPER_REL (R403). A write of TMP_CTRL.TAMPER_REL releases TAMPER_N after the response. -/
  | tamperRel
  /-- TAMPER_HOLD_EXPIRY (R403). TAMPER_N's minimum low time of 10 ms ends. -/
  | tamperHoldExpiry
  /-- TMP_TEST_START (R414). TMP_TEST.START stimulates one source index if MON_TEST is in force. -/
  | tmpTestStart
  /-- STIMULATION_WINDOW_END (R414). The suppression window closes, with PASS or with FAIL handled as a real record. -/
  | stimulationWindowEnd (detected : Bool)
  /-- TMP_CLASS_WRITE (R406). A write of TMP_CLASS changes the response classes, and a class field written 0 keeps its value. -/
  | tmpClassWrite (v : W32)
  /-- UMP_KICK (R420). Any write renews the heartbeat for 10 ms. -/
  | umpKick
  /-- HEARTBEAT_LAPSE (R420). 10 ms pass without a kick, so UMP_ALIVE holds its level. -/
  | heartbeatLapse
  /-- UMP_TIMER_WRITE (R421). A write starts or stops the Umpire one-shot timer. -/
  | umpTimerWrite (v : W32)
  /-- UMP_TIMER_EXPIRY (R421). The one-shot timer expires, and its interrupt is pending. -/
  | umpTimerExpiry
  /-- GET_STATUS (R423). The management request returns the chip, boot, life-cycle, tamper and evidence status. -/
  | getStatus (t : Transport) (seq : BitVec 8) (args : List Byte)
  /-- GROUP_RESET (R320). The management request resets a group, re-verifies it and releases it. -/
  | groupReset (t : Transport) (seq : BitVec 8) (args : List Byte)
  /-- RECOVER (R357). The management request starts recovery of a group from a named source. -/
  | recover (t : Transport) (seq : BitVec 8) (args : List Byte)
  /-- ISSUE_CHALLENGE (R384). The management request issues a new challenge and returns the signed object. -/
  | issueChallenge (t : Transport) (seq : BitVec 8) (args : List Byte)
  /-- APPLY_CARD (R377). The management request applies the inserted card's objects. -/
  | applyCard (t : Transport) (seq : BitVec 8) (args : List Byte) (objs : List CardObj)
  /-- EXPORT_AUDIT (R378). The management request writes an audit export to the card. -/
  | exportAudit (t : Transport) (seq : BitVec 8) (args : List Byte)
  /-- ERASE_GRANT (R392). The management request erases the stored debug grant, with effect at the next start. -/
  | eraseGrant (t : Transport) (seq : BitVec 8) (args : List Byte)
  /-- QUAR_RELEASE (R423). The management request self-tests the named regions and releases those that pass. -/
  | quarRelease (t : Transport) (seq : BitVec 8) (args : List Byte) (failed : BitVec 4)
  /-- SET_MEAS_ACL (R241). The management request writes a measurement access list. -/
  | setMeasAcl (t : Transport) (seq : BitVec 8) (args : List Byte)
  /-- DISABLE_SOURCE (R407). The management request blows tamper-source disable fuses. -/
  | disableSource (t : Transport) (seq : BitVec 8) (args : List Byte)
  /-- PROGRAM_MON_CONFIG (R406). The management request programs the next OTP monitor configuration slot. -/
  | programMonConfig (t : Transport) (seq : BitVec 8) (args : List Byte)
  /-- SET_WDG_FUSES (R423). The management request blows the WDG_WIN and WDG_REP fuses. -/
  | setWdgFuses (t : Transport) (seq : BitVec 8) (args : List Byte)
  /-- ERG_MEASURE (R438). The management request starts an erg chain measurement. -/
  | ergMeasure (t : Transport) (seq : BitVec 8) (args : List Byte)
  /-- GET_EVENTS (R424). The management request returns up to 64 event-log entries. -/
  | getEvents (t : Transport) (seq : BitVec 8) (args : List Byte)
  /-- MGMT_UNSUPPORTED (R422). A management request with an unknown code returns UNSUPPORTED. -/
  | mgmtUnsupported (t : Transport) (seq : BitVec 8) (code : BitVec 8)
  /-- EVENT_LOG_COPY (R424). Every 60 s the Umpire copies its event log to D2. -/
  | eventLogCopy
  /-- GET_TID (R425). The PLDM base command returns the terminus ID. -/
  | getTid (t : Transport)
  /-- GET_PLDM_VERSION (R425). The PLDM base command returns the versions. -/
  | getPldmVersion (t : Transport) (type : BitVec 8)
  /-- GET_PLDM_TYPES (R425). The PLDM base command returns the supported types. -/
  | getPldmTypes (t : Transport)
  /-- GET_PLDM_COMMANDS (R425). The PLDM base command returns the supported commands. -/
  | getPldmCommands (t : Transport) (type : BitVec 8)
  /-- SET_EVENT_RECEIVER (R425). The PLDM command registers the event receiver. -/
  | setEventReceiver (t : Transport) (enable : BitVec 8) (eid : BitVec 8)
  /-- GET_PDR_REPOSITORY_INFO (R425). The PLDM command returns the PDR repository information. -/
  | getPdrRepositoryInfo (t : Transport)
  /-- GET_PDR (R425). The PLDM command returns a PDR. -/
  | getPdr (t : Transport) (handle : W32)
  /-- GET_SENSOR_READING (R425). The PLDM command returns a numeric sensor reading. -/
  | getSensorReading (t : Transport) (sensor : Nat)
  /-- GET_STATE_SENSOR_READINGS (R425). The PLDM command returns the state sensor readings. -/
  | getStateSensorReadings (t : Transport) (sensor : Nat)
  /-- SET_NUMERIC_SENSOR_ENABLE (R425). The PLDM command enables or disables a numeric sensor. -/
  | setNumericSensorEnable (t : Transport) (sensor : Nat) (op : BitVec 8)
  /-- TEMP_THRESHOLD_CROSSING (R425). A sensor crosses a threshold, so an event is sent, and at the fatal level new strokes are held. -/
  | tempThresholdCrossing (diode : Nat) (temp : Int)
  /-- QUERY_DEVICE_IDENTIFIERS (R426). The PLDM Type 5 command returns the device identifiers. -/
  | queryDeviceIdentifiers (t : Transport)
  /-- GET_FIRMWARE_PARAMETERS (R426). The PLDM Type 5 command returns the firmware parameters. -/
  | getFirmwareParameters (t : Transport)
  /-- REQUEST_UPDATE (R426). The PLDM Type 5 command starts an update. -/
  | requestUpdate (t : Transport)
  /-- PASS_COMPONENT_TABLE (R426). The PLDM Type 5 command passes the component table, and components not allowed are refused. -/
  | passComponentTable (t : Transport) (comp : BitVec 16) (param : BitVec 16)
  /-- UPDATE_COMPONENT (R426). The PLDM Type 5 command starts the transfer of one component. -/
  | updateComponent (t : Transport) (comp : BitVec 16) (param : BitVec 16) (size : Nat)
  /-- REQUEST_FIRMWARE_DATA (R426). A 4,096-byte part of the component arrives in answer to the device's request. -/
  | requestFirmwareData (off : Nat) (data : List Byte)
  /-- TRANSFER_COMPLETE (R426). The component transfer ends, and the device reports it. -/
  | transferComplete (ok : Bool)
  /-- VERIFY_COMPLETE (R426). The component check ends, and the device reports the result code. -/
  | verifyComplete (staged : List Byte)
  /-- APPLY_COMPLETE (R426). The component is applied, and the device reports it. -/
  | applyComplete
  /-- ACTIVATE_FIRMWARE (R427). The PLDM command sets the preferred and trial bits and restarts the chip on the new image. -/
  | activateFirmware (t : Transport)
  /-- PLDM_GET_STATUS (R426). The PLDM Type 5 GetStatus command returns the update status. -/
  | pldmGetStatus (t : Transport)
  /-- CANCEL_UPDATE_COMPONENT (R426). The PLDM command cancels the transfer of a component. -/
  | cancelUpdateComponent (t : Transport)
  /-- CANCEL_UPDATE (R426). The PLDM command cancels the update. -/
  | cancelUpdate (t : Transport)
  /-- WDG_CATCH (R430). A write of CATCH to WDG_KEY arms the service sequence. -/
  | wdgCatch
  /-- WDG_FINISH (R430). A write of FINISH after CATCH services the watchdog, accepted, refused or early. -/
  | wdgFinish
  /-- WDG_KEY_FAULT (R430). A wrong key or order resets the sequence and counts a key fault. -/
  | wdgKeyFault
  /-- WDG_TASK_CHECKIN (R431). A task checks in and is marked in SEEN or DOUBLE. -/
  | wdgTaskCheckin (task : BitVec 4)
  /-- WDG_WINDOW_OPEN (R429). The window-open tick is reached, and service becomes allowed. -/
  | wdgWindowOpen
  /-- WDG_WARN (R429). Tick 7P/8 passes without a service, so WARN sets. -/
  | wdgWarn
  /-- WDG_EXPIRY (R434). An expiry records evidence, raises the consecutive count and takes the ladder step. -/
  | wdgExpiry (late : Bool)
  /-- WDG_CLOCK_STOP (R428). A watchdog time base stops, so an expiry or a status change follows and the other base is used. -/
  | wdgClockStop (rc : Bool)
  /-- ERG_MEASUREMENT (R438). All erg chains are measured and normalised, and ERG_WORST and the projection are updated. -/
  | ergMeasurement (counts : List (BitVec 16)) (slow : List (BitVec 16)) (months : BitVec 16)
  /-- MEASURE (R442). A write of ERG_CTRL.MEASURE starts a measurement at once. -/
  | measure
  /-- AVS_STEP (R439). The AVS loop raises or lowers VCORE by 5 mV, at most once per millisecond. -/
  | avsStep (up : Bool) (ack : Bool)
  /-- HEAT_TIMER_EXPIRY (R445). PERIOD_S has passed since the last close, so the heat closes. -/
  | heatTimerExpiry
  /-- HEAT_IN_EDGE (R480). An accepted rising edge on HEAT_IN pulses HEAT_OUT and closes a heat when IN_EN is set. -/
  | heatInEdge
  /-- HEAT_CTRL_CLOSE (R445). A write of HEAT_CTRL.CLOSE closes the heat. -/
  | heatCtrlClose (who : Requester)
  /-- HELD_CLOSE_RELEASE (R446). 1 ms after the previous token, a held close takes place with every held cause. -/
  | heldCloseRelease
  /-- HEAT_IN_TIMEOUT (R447). No edge arrives for IN_TIMEOUT_S seconds, so IN_TIMEOUT sets and the timer fallback may begin. -/
  | heatInTimeout
  /-- BANK_READY (R448). A snapshot bank completes, and READY sets. -/
  | bankReady (b : Bool)
  /-- HEAT_REPORT_WRITE (R450). The Umpire builds, signs and writes a domain's heat report once the ring has room. -/
  | heatReportWrite (heat : BitVec 48) (domain : Nat)
  /-- HEAT_RPT_TAIL_WRITE (R451). Software advances the report ring tail, which frees room for waiting reports. -/
  | heatRptTailWrite (who : Requester) (v : W32)
  /-- PATROL_SCRUB (R455). The scrubber reads a word and writes back a corrected word, unless a write got there first. -/
  | patrolScrub (m : MemLoc) (symbols : Nat) (overwritten : Bool)
  /-- TRNG_HEALTH_FAIL (R459). A TRNG health test fails: the batch is discarded, and repeated failures stop the DRBGs. -/
  | trngHealthFail
  /-- TRNG_STARTUP_TEST_DONE (R459). The TRNG start-up test passes, so the DRBG instances are seeded and output resumes. -/
  | trngStartupTestDone
  /-- DRBG_RESEED (R458). After 2^20 outputs or 10 ms, a DRBG instance reseeds. -/
  | drbgReseed (i : Nat)
  /-- BST_START (R460). BST_CMD.START begins a self-test on a quarantined target. -/
  | bstStart
  /-- BST_ABORT (R462). BST_CMD.ABORT ends the running test without a result. -/
  | bstAbort
  /-- BST_RELEASE (R461). BST_CMD.RELEASE releases a target that passed from quarantine and isolation. -/
  | bstRelease
  /-- BST_DONE (R460). A self-test ends with its doubled result pair. -/
  | bstDone (pass : Bool) (sig : W64) (failAddr : BitVec 30)
  /-- CELL_REMOVAL_ON_BATTERY (R413). The backup cell is removed, or VBAT collapses, while main power is absent, so the always-on domain and its service root, tamper log and counters are lost. -/
  | cellRemovalOnBattery
  /-- CRYSTAL_START (R477). The 32.768 kHz crystal starts, or runs again after a failure, and the real-time counter and the watchdog time base can use it. -/
  | crystalStart
  /-- TAMPER_CONDITION_CLEAR (R410). A monitor's check finds that a persisting tamper condition has cleared at an index, which re-arms logging at that index. -/
  | tamperConditionClear (source : Nat) (index : Nat)
  /-- DOWNSTREAM_FLASH_OPERATION_DONE (R336). A program or erase that the Umpire issued on a downstream flash port ends, including the part's busy time, and a deferred write of U*_EN then takes effect. -/
  | downstreamFlashOperationDone (port : Bool)
  /-- CARD_STARTUP_RETRY (R370). 500 ms after a failed 1.8 V confirmation, the device powers the card again and repeats start-up at a mode no higher than 1. -/
  | cardStartupRetry
  /-- I3C_DYNAMIC_ADDRESS_ASSIGNMENT (R475). An I3C controller assigns the device a dynamic address, so management traffic moves from SMBus to I3C. -/
  | i3cDynamicAddressAssignment (addr : BitVec 7)
  deriving DecidableEq, Repr

end Sys2Proof
end

