-- ==== Sys2Proof/Decode.lean ====
section
/-!
DEFINITION. Command words. No row of spec/opcode_table.json has bits: a command of this block arrives on a pin, a link or a page,
and none is spelled by a word.
-/

namespace Sys2Proof

/-- The command that a word spells by the table's bits: none, for the table gives no row any. -/
def decodeTableWord (_nbits _w : Nat) : Option Instr := none

end Sys2Proof
end

