-- ==== Sys2Proof/Config.lean ====
section
/-!
DEFINITION. What the spec leaves open or takes from an algorithm standard that the model does not write out. Every
constant here is opaque: no proof can see its value, so a claim holds whatever it is.
-/

namespace Sys2Proof.Config

/-- Draw `i` of the TRNG or of a DRBG instance, of width `w` (R264, R282, R284). A free value (log entry 3). -/
opaque drbg (w : Nat) (i : Nat) : BitVec w

/-- The free value numbered `i`, of width `w`, where the spec leaves a value undefined (R214). -/
opaque free (w : Nat) (i : Nat) : BitVec w

/-- The word of the OTP window at which the identity-root field of 512 bits begins (R64): the spec gives no place. -/
opaque otpIdentityAt : Nat

/-- Word `i` of the boot ROM (R63): the spec gives no contents. -/
opaque bootRom : Nat → Word

/-- The expected LBIST signature fused for a kind of target (R461). -/
opaque bstExpected : Nat → W64

/-- The standard library that the Umpire firmware carries, by program ID (R221, R227): VERSION, SVN, the digest of the signed image,
and, but for GCM-ENC, code and constants, none of which the spec gives. -/
opaque libVersion : Nat → W32
@[inherit_doc libVersion]
opaque libSvn : Nat → BitVec 8
@[inherit_doc libVersion]
opaque libDigest : Nat → List Byte
@[inherit_doc libVersion]
opaque libCode : Nat → List (BitVec 36)
@[inherit_doc libVersion]
opaque libConsts : Nat → List Word

/-- The Doloth program key that the Umpire firmware carries (R219). -/
opaque programKey : List Byte

/-- The Doloth grant and authority keys that the Umpire firmware carries (R386, R388). -/
opaque authorityKey : Nat → List Byte

/-- The hashes of the Doloth firmware signing keys fused in OTP (R306). -/
opaque firmwareKeyHash : Nat → List Byte

/-- The 64-bit unique part of the device that the identity key ceremony fuses (R299), as a free 512-bit draw. -/
opaque identityDraw : BitVec 512

/-- The life-cycle code words fused as INTENT and DONE (R381): 64-bit words of a wide-distance code. -/
opaque codeWord : Nat → W64

/-- The hash of the Doloth life-cycle key set that the Umpire firmware carries (R386). -/
opaque lifeCycleKeyHash : List Byte

/-- The revision of the boot ROM that register 0 measures (R304). -/
opaque romRevision : List Byte

/-! ### Certificates and SPDM (R344 to R348), log entry 8 -/

/-- The DER encoding of a certificate the device issues: kind 0 and 1 the alias certificate in ML-DSA-87 and P-384, 2 a domain
attestation certificate, 3 a domain import certificate; subject public key, issuer key, and the fields R345 lists. -/
opaque certificate (kind : Nat) (subject issuer fields : List Byte) : List Byte

/-- The digest of the Doloth identity root's public key that the Umpire firmware carries: ML-DSA-87 (true) or P-384. -/
opaque identityRootDigest (mldsa : Bool) : List Byte

/-- A certificate signing request for a DeviceID key. -/
opaque csr (key : List Byte) : List Byte

/-- The signature of an SPDM message by an alias key over the transcript the SPDM standard names, with hedging bytes. -/
opaque spdmSign (mldsa : Bool) (key msg rnd : List Byte) : List Byte

/-! ### ML-DSA-87 (FIPS 204) and ML-KEM-1024 (FIPS 203), log entry 7 -/

/-- What a rejection sampler takes past the part of its stream that the model squeezes: a free value. -/
opaque latticeTail (seed : List Byte) (i : Nat) : Nat

/-- The signature of an ML-DSA rejection loop of more than 814 turns: a free value. -/
opaque mldsaLate (mu seed : List Byte) : List Byte

/-- The device-internal layout of a digest or PKE context in the body of a blob (R149): the spec gives none. -/
opaque ctxLayout (kind : Nat) (running : List Byte) : List Byte

end Sys2Proof.Config
end

