-- ==== Sys2Proof/Machine/Bytes.lean ====
section
/-!
DEFINITION. Byte strings: little- and big-endian numbers, 128-bit words as blocks, dwords (R8, R180).
-/

namespace Sys2Proof.Machine

/-- The low byte of a number. -/
def byteOf (n : Nat) : Byte := BitVec.ofNat 8 n

/-- `k` bytes of `n`, least significant first (R8). -/
def leBytes : Nat → Nat → List Byte
  | 0, _ => []
  | k + 1, n => byteOf n :: leBytes k (n / 256)

/-- `k` bytes of `n`, most significant first. -/
def beBytes (k n : Nat) : List Byte := (leBytes k n).reverse

/-- The number that bytes give, least significant first. -/
def ofLe : List Byte → Nat
  | [] => 0
  | b :: r => b.toNat + 256 * ofLe r

/-- The number that bytes give, most significant first. -/
def ofBe (l : List Byte) : Nat := ofLe l.reverse

/-- The 16 bytes of a word, byte 0 first (R180). -/
def wordBytes (w : Word) : List Byte := leBytes 16 w.toNat

/-- The word whose bytes are the first 16 of `l`, zeros beyond its end (R180, R202). -/
def wordOf (l : List Byte) : Word := BitVec.ofNat 128 (ofLe (l.take 16))

/-- `l` cut or zero-padded to `n` bytes. -/
def padTo (n : Nat) (l : List Byte) : List Byte := l.take n ++ List.replicate (n - l.length) 0

/-- Blocks of `n` bytes, the last one as short as it is; `fuel` bounds their number. -/
def chunksF : Nat → Nat → List Byte → List (List Byte)
  | 0, _, _ => []
  | fuel + 1, n, l => if l.isEmpty then [] else l.take n :: chunksF fuel n (l.drop n)

/-- Blocks of `n` bytes, the last one as short as it is. -/
def chunks (n : Nat) (l : List Byte) : List (List Byte) := chunksF l.length n l

/-- The words of a byte string, the last one zero-padded. -/
def wordsOf (l : List Byte) : List Word := (chunks 16 l).map wordOf

/-- Bytewise exclusive or, as long as the shorter string. -/
def xorBytes (a b : List Byte) : List Byte := List.zipWith (· ^^^ ·) a b

/-- The bytes of an ASCII text (R285: labels are ASCII without a terminator). -/
def ascii (t : String) : List Byte := t.toList.map fun c => byteOf c.toNat

/-- Bytes `off` to `off + n - 1`. -/
def cut (l : List Byte) (off n : Nat) : List Byte := (l.drop off).take n

/-- The little-endian number in bytes `off` to `off + n - 1`; bytes beyond the end read zero. -/
def leAt (l : List Byte) (off n : Nat) : Nat := ofLe (cut l off n)

/-- Dword `i` of a list of dwords; a missing one is zero. -/
def dwAt (d : List W32) (i : Nat) : W32 := d.getD i 0

/-- The 64-bit number in dwords `i` and `i + 1`. -/
def qwAt (d : List W32) (i : Nat) : Nat := (dwAt d i).toNat + 4294967296 * (dwAt d (i + 1)).toNat

/-- Bits [hi:lo] of a dword, as a number. -/
def bits (w : W32) (hi lo : Nat) : Nat := w.toNat / 2 ^ lo % 2 ^ (hi + 1 - lo)

/-- Bits [hi:lo] of a 64-bit value, as a number. -/
def bits64 (w : W64) (hi lo : Nat) : Nat := w.toNat / 2 ^ lo % 2 ^ (hi + 1 - lo)

/-- Bit `i` of a dword. -/
def bit (w : W32) (i : Nat) : Bool := w.getLsbD i

/-- A Bool as the number 1 or 0. -/
def b2n (b : Bool) : Nat := if b then 1 else 0

/-- The number of set bits below position `n`. -/
def popBelow (w : W32) : Nat → Nat
  | 0 => 0
  | n + 1 => b2n (w.getLsbD n) + popBelow w n

/-- `n` rounded up to a multiple of `k`. -/
def roundUp (n k : Nat) : Nat := (n + k - 1) / k * k

/-- CRC-32 (R375): ISO-HDLC, reflected, initial value and final XOR all ones. -/
def crcStep (c : W32) (b : Byte) : W32 :=
  (List.range 8).foldl (fun (c : W32) _ => if c.getLsbD 0 then (c >>> 1) ^^^ 0xEDB88320#32 else c >>> 1) (c ^^^ b.setWidth 32)

/-- CRC-32 of bytes. -/
def crc32 (l : List Byte) : W32 := ~~~(l.foldl crcStep 0xFFFFFFFF)

/-! ### Frames of the custody card (R364) -/

/-- One bit through a CRC register of the card link: the feedback bit selects the constant. -/
def cardCrcStep {w : Nat} (poly crc : BitVec w) (b : Bool) : BitVec w := if b != crc.msb then (crc <<< 1) ^^^ poly else crc <<< 1

/-- CRC7 of the bits of a frame. -/
def crc7 (l : List Bool) : BitVec 7 := l.foldl (cardCrcStep 0x4B) 0x7F

/-- CRC16 of the data bits of a line. -/
def crc16 (l : List Bool) : BitVec 16 := l.foldl (cardCrcStep 0x8005) 0xFFFF

/-- The bits of a field, least significant first. -/
def lsbFirst {w : Nat} (x : BitVec w) : List Bool := (List.range w).map x.getLsbD

/-- A command frame of 48 bits: start bit, index, argument, CRC7 most significant bit first, type bit, stop bit. -/
def cardFrame (index : BitVec 6) (arg : W32) : List Bool :=
  let covered := lsbFirst index ++ lsbFirst arg
  false :: covered ++ (lsbFirst (crc7 covered)).reverse ++ [true, true]

/-- A line's part of a data block: start pattern, data bits, CRC16, two stop bits. -/
def lineFrame (bs : List Bool) : List Bool := [false, false, true, false] ++ bs ++ (lsbFirst (crc16 bs)).reverse ++ [true, true]

/-- Bit `n` of the low, then of the high nibble of each byte: what CC_DAT[n] carries in the 4-bit modes. -/
def nibbleBits (n : Nat) (l : List Byte) : List Bool := l.flatMap fun b => [b.getLsbD n, b.getLsbD (n + 4)]

/-- The lines of a data block: CC_DAT0 alone in mode 0, else CC_DAT[3:0]. -/
def blockLines (wide : Bool) (l : List Byte) : List (List Bool) :=
  if wide then (List.range 4).map fun n => lineFrame (nibbleBits n l) else [lineFrame (l.flatMap lsbFirst)]

end Sys2Proof.Machine
end

