-- ==== Sys2Proof/Machine/Crypto.lean ====
section
/-!
DEFINITION. The algorithms the spec names by their standards (PRESUMED, log entry 6): AES (FIPS 197), GF(2^128) in both
conventions (R195), GCM (SP 800-38D), key wrap (RFC 3394, RFC 5649), SHA-2 (FIPS 180-4), SHA-3 and SHAKE (FIPS 202),
cSHAKE and KMAC (SP 800-185), HMAC (FIPS 198-1).
-/

namespace Sys2Proof.Machine

/-! ### AES (R155) -/

/-- Multiplication by x in GF(2^8). -/
def xtime (a : Byte) : Byte := (a <<< 1) ^^^ (if a.msb then 0x1B else 0)

/-- Multiplication in GF(2^8), over the low `n` bits of `b`. -/
def gf8 : Nat → Byte → Byte → Byte
  | 0, _, _ => 0
  | n + 1, a, b => (if b.getLsbD 0 then a else 0) ^^^ gf8 n (xtime a) (b >>> 1)

/-- Multiplication in GF(2^8). -/
def gfm (a b : Byte) : Byte := gf8 8 a b

/-- The inverse in GF(2^8), a^254; 0 for 0. -/
def gf8Inv (a : Byte) : Byte :=
  let a2 := gfm a a
  let a4 := gfm a2 a2
  let a8 := gfm a4 a4
  let a16 := gfm a8 a8
  let a32 := gfm a16 a16
  let a64 := gfm a32 a32
  let a128 := gfm a64 a64
  gfm a2 (gfm a4 (gfm a8 (gfm a16 (gfm a32 (gfm a64 a128)))))

/-- The AES S-box. -/
def sbox (a : Byte) : Byte :=
  let i := gf8Inv a
  i ^^^ i.rotateLeft 1 ^^^ i.rotateLeft 2 ^^^ i.rotateLeft 3 ^^^ i.rotateLeft 4 ^^^ 0x63

/-- The inverse S-box. -/
def invSbox (a : Byte) : Byte := gf8Inv (a.rotateLeft 1 ^^^ a.rotateLeft 3 ^^^ a.rotateLeft 6 ^^^ 0x05)

/-- A linear mix of one column by the circulant row. -/
def mixCol (m : List Byte) (c : List Byte) : List Byte :=
  (List.range 4).map fun r =>
    (List.range 4).foldl (fun acc k => acc ^^^ gfm (m.getD ((k + 4 - r) % 4) 0) (c.getD k 0)) 0

/-- MixColumns with the row `m`. -/
def mixColumns (m : List Byte) (s : List Byte) : List Byte := (chunks 4 s).flatMap (mixCol m)

/-- ShiftRows. -/
def shiftRows (s : List Byte) : List Byte := (List.range 16).map fun i => s.getD ((i + 4 * (i % 4)) % 16) 0

/-- InvShiftRows. -/
def invShiftRows (s : List Byte) : List Byte := (List.range 16).map fun i => s.getD ((i + 12 * (i % 4)) % 16) 0

/-- The round constant byte of index `i`. -/
def rcon : Nat → Byte
  | 0 => 1
  | i + 1 => xtime (rcon i)

/-- One more word of the key schedule; the words so far are newest first. -/
def expandWord (nk i : Nat) (ws : List (List Byte)) : List (List Byte) :=
  let prev := ws.headD []
  let t := if i % nk = 0 then
      xorBytes ((prev.drop 1 ++ prev.take 1).map sbox) [rcon (i / nk - 1), 0, 0, 0]
    else if 6 < nk && i % nk = 4 then prev.map sbox else prev
  xorBytes t (ws.getD (nk - 1) []) :: ws

/-- The key schedule: round keys of 16 bytes. -/
def keySchedule (key : List Byte) : List (List Byte) :=
  let nk := key.length / 4
  let ws := (List.range (4 * (nk + 7) - nk)).foldl (fun ws j => expandWord nk (j + nk) ws) (chunks 4 key).reverse
  chunks 16 ws.reverse.flatten

/-- The AES forward cipher of a block under 16-, 24- or 32-byte keys. -/
def aesEnc (key : List Byte) (blk : List Byte) : List Byte :=
  match keySchedule key with
  | [] => blk
  | k0 :: ks =>
    let s := ks.dropLast.foldl (fun s k => xorBytes (mixColumns [2, 3, 1, 1] (shiftRows (s.map sbox))) k) (xorBytes blk k0)
    xorBytes (shiftRows (s.map sbox)) (ks.getLastD [])

/-- The AES inverse cipher of a block. -/
def aesDec (key : List Byte) (blk : List Byte) : List Byte :=
  match (keySchedule key).reverse with
  | [] => blk
  | k0 :: ks =>
    let s := ks.dropLast.foldl
      (fun s k => mixColumns [14, 11, 13, 9] (xorBytes ((invShiftRows s).map invSbox) k)) (xorBytes blk k0)
    xorBytes ((invShiftRows s).map invSbox) (ks.getLastD [])

/-- The seat operation on a word (R155, R195). -/
def aesEncW (key : List Byte) (w : Word) : Word := wordOf (aesEnc key (wordBytes w))

/-- The inverse seat operation on a word (R155, R195). -/
def aesDecW (key : List Byte) (w : Word) : Word := wordOf (aesDec key (wordBytes w))

/-! ### GF(2^128) (R170, R195) -/

/-- The product in GF(2^128) of polynomials with bit 0 least significant, over the low `n` bits of `b`. -/
def gf128 : Nat → Word → Word → Word
  | 0, _, _ => 0
  | n + 1, a, b =>
    (if b.getLsbD 0 then a else 0) ^^^ gf128 n ((a <<< 1) ^^^ (if a.msb then 0x87 else 0)) (b >>> 1)

/-- GFMUL.X: the IEEE 1619 convention, byte 0 least significant (R195). -/
def gfmulX (a b : Word) : Word := gf128 128 a b

/-- The bits of a byte in the other order. -/
def revByte (b : Byte) : Byte := b.reverse

/-- A block with the bits of every byte in the other order. -/
def revBits (w : Word) : Word := wordOf ((wordBytes w).map revByte)

/-- GFMUL.G: the bit order of SP 800-38D, block byte 0 carrying the highest-order coefficients (R195). -/
def gfmulG (a b : Word) : Word := revBits (gf128 128 (revBits a) (revBits b))

/-! ### GCM (R150, R293) -/

/-- GHASH of whole blocks under H. -/
def ghash (h : Word) (bs : List Word) : Word := bs.foldl (fun x b => gfmulG (x ^^^ b) h) 0

/-- A counter block with its last four bytes advanced by `n`, big-endian, modulo 2^32. -/
def incBlock (j : List Byte) (n : Nat) : List Byte := j.take 12 ++ beBytes 4 (ofBe (j.drop 12) + n)

/-- GCTR from counter block `j`. -/
def gctr (key j : List Byte) (x : List Byte) : List Byte :=
  ((chunks 16 x).zipIdx.map fun p => xorBytes p.1 (aesEnc key (incBlock j p.2))).flatten

/-- The GCM tag of AAD and ciphertext for a 96-bit IV. -/
def gcmTag (key iv aad ct : List Byte) : List Byte :=
  let h := wordOf (aesEnc key (List.replicate 16 0))
  let x := ghash h (wordsOf aad ++ wordsOf ct ++ [wordOf (beBytes 8 (8 * aad.length) ++ beBytes 8 (8 * ct.length))])
  xorBytes (wordBytes x) (aesEnc key (iv ++ [0, 0, 0, 1]))

/-- AES-GCM encryption for a 96-bit IV: ciphertext and 16-byte tag. -/
def gcmSeal (key iv aad pt : List Byte) : List Byte × List Byte :=
  let ct := gctr key (iv ++ [0, 0, 0, 2]) pt
  (ct, gcmTag key iv aad ct)

/-- AES-GCM decryption for a 96-bit IV: the plaintext if the tag matches. -/
def gcmOpen (key iv aad ct tag : List Byte) : Option (List Byte) :=
  if gcmTag key iv aad ct = tag then some (gctr key (iv ++ [0, 0, 0, 2]) ct) else none

/-! ### Key wrap with padding (R293) -/

/-- One step of the RFC 3394 unwrapping: A, the registers, and the step number t. -/
def unwrapStep (key : List Byte) (st : List Byte × List (List Byte)) (t : Nat) : List Byte × List (List Byte) :=
  let n := st.2.length
  let i := (t - 1) % n
  let b := aesDec key (xorBytes st.1 (beBytes 8 t) ++ st.2.getD i [])
  (b.take 8, st.2.set i (b.drop 8))

/-- RFC 5649 unwrapping: the plaintext if the integrity value holds. -/
def kwpUnwrap (key c : List Byte) : Option (List Byte) :=
  let regs := chunks 8 c
  let n := regs.length - 1
  let (a, rs) :=
    if n = 1 then
      let b := aesDec key c
      (b.take 8, [b.drop 8])
    else
      ((List.range (6 * n)).map fun j => 6 * n - j).foldl (unwrapStep key) (regs.headD [], regs.drop 1)
  let p := rs.flatten
  let mli := ofBe (a.drop 4)
  if a.take 4 = [0xA6, 0x59, 0x59, 0xA6] ∧ 8 * (n - 1) < mli ∧ mli ≤ 8 * n ∧ (p.drop mli).all (· = 0) then
    some (p.take mli)
  else none

/-! ### SHA-2

FIPS 180-4 takes its constants from the fractional parts of the roots of the first primes, so they are computed here. -/

/-- The primes below 410: the first eighty. -/
def primes80 : List Nat := (List.range 410).filter fun n => decide (2 ≤ n) && (List.range n).all fun d => decide (d < 2) || n % d != 0

/-- The first 64 fractional bits of the `k`-th root of `p`, found bit by bit; `k` is 2 or 3 and `p` below 410. -/
def rootBits (k p : Nat) : Nat :=
  (List.range 69).foldl (fun r i => if (r + 2 ^ (68 - i)) ^ k ≤ p * 2 ^ (64 * k) then r + 2 ^ (68 - i) else r) 0 % 2 ^ 64

/-- Round constants in 64 bits: the cube roots. -/
def cubeWords : List Nat := primes80.map (rootBits 3)

/-- The square roots of the eight primes from the `i`-th on: an initial value in 64 bits. -/
def squareWords (i : Nat) : List Nat := ((primes80.drop i).take 8).map (rootBits 2)

/-- `x` rotated right by each amount, exclusive-ored. -/
def xorRots {w : Nat} (x : BitVec w) (rs : List Nat) : BitVec w := rs.foldl (fun acc r => acc ^^^ x.rotateRight r) 0

/-- The state between two rounds: working words a to d, working words e to h, and the next sixteen schedule words. -/
structure ShaState (w : Nat) where
  top : List (BitVec w)
  low : List (BitVec w)
  next : List (BitVec w)

/-- The rotation amounts of Σ0, Σ1, σ0 and σ1, in that order; the last one of a σ is a shift. -/
def shaRots (w : Nat) : List (List Nat) :=
  if w = 32 then [[2, 13, 22], [6, 11, 25], [7, 18], [17, 19]] else [[28, 34, 39], [14, 18, 41], [1, 8], [19, 61]]

/-- The shift amounts of σ0 and σ1. -/
def shaShifts (w : Nat) : Nat × Nat := if w = 32 then (3, 10) else (7, 6)

/-- One round under round constant `k`; the schedule moves on by one word. -/
def ShaState.round {w : Nat} (st : ShaState w) (k : Nat) : ShaState w :=
  let rs := shaRots w
  let word := fun (l : List (BitVec w)) i => l.getD i 0
  let (a, b, c) := (word st.top 0, word st.top 1, word st.top 2)
  let (e, f, g) := (word st.low 0, word st.low 1, word st.low 2)
  let t := word st.low 3 + xorRots e (rs.getD 1 []) + (g ^^^ (e &&& (f ^^^ g))) + BitVec.ofNat w k + word st.next 0
  let old := word st.next 1
  let new := word st.next 14
  { top := (t + xorRots a (rs.getD 0 []) + ((a &&& (b ||| c)) ||| (b &&& c))) :: st.top.take 3
    low := (word st.top 3 + t) :: st.low.take 3
    next := st.next.drop 1 ++ [word st.next 0 + (xorRots old (rs.getD 2 []) ^^^ (old >>> (shaShifts w).1)) + word st.next 9
      + (xorRots new (rs.getD 3 []) ^^^ (new >>> (shaShifts w).2))] }

/-- The chaining value after one more block of sixteen words. -/
def shaBlock {w : Nat} (ks : List Nat) (hv : List (BitVec w)) (blk : List Byte) : List (BitVec w) :=
  let words := (chunks (w / 8) blk).map fun x => BitVec.ofNat w (ofBe x)
  let fin := ks.foldl ShaState.round ⟨hv.take 4, hv.drop 4, words⟩
  (hv.zip (fin.top ++ fin.low)).map fun x => x.1 + x.2

/-- The message with its closing bit, zeros and length, a whole number of `2 w`-byte blocks. -/
def shaPad (w : Nat) (m : List Byte) : List Byte :=
  let whole := roundUp (m.length + 1 + w / 4) (2 * w)
  padTo (whole - w / 4) (m ++ [0x80]) ++ beBytes (w / 4) (8 * m.length)

/-- A SHA-2 hash with words of `w` bits: round constants, initial value, and the digest's length in bytes. -/
def sha2 (w : Nat) (ks iv : List Nat) (n : Nat) (m : List Byte) : List Byte :=
  (((chunks (2 * w) (shaPad w m)).foldl (shaBlock ks) (iv.map (BitVec.ofNat w))).flatMap
    fun x => beBytes (w / 8) x.toNat).take n

/-- The upper halves of 64-bit words: SHA-256 takes the first 32 fractional bits. -/
def upperHalves (l : List Nat) : List Nat := l.map (· / 2 ^ 32)

/-- SHA-256. -/
def sha256 (m : List Byte) : List Byte := sha2 32 (upperHalves (cubeWords.take 64)) (upperHalves (squareWords 0)) 32 m

/-- SHA-384. -/
def sha384 (m : List Byte) : List Byte := sha2 64 cubeWords (squareWords 8) 48 m

/-- SHA-512. -/
def sha512 (m : List Byte) : List Byte := sha2 64 cubeWords (squareWords 0) 64 m

/-! ### Keccak -/

/-- The round constants of Keccak-f[1600]. -/
def keccakRc : List Nat :=
  [0x0000000000000001, 0x0000000000008082, 0x800000000000808a, 0x8000000080008000,
   0x000000000000808b, 0x0000000080000001, 0x8000000080008081, 0x8000000000008009,
   0x000000000000008a, 0x0000000000000088, 0x0000000080008009, 0x000000008000000a,
   0x000000008000808b, 0x800000000000008b, 0x8000000000008089, 0x8000000000008003,
   0x8000000000008002, 0x8000000000000080, 0x000000000000800a, 0x800000008000000a,
   0x8000000080008081, 0x8000000000008080, 0x0000000080000001, 0x8000000080008008]

/-- The rotation offsets, lane x + 5y. -/
def keccakRot : List Nat :=
  [0, 1, 62, 28, 27,
   36, 44, 6, 55, 20,
   3, 10, 43, 25, 39,
   41, 45, 15, 21, 8,
   18, 2, 61, 56, 14]

/-- One round of Keccak-f[1600] on 25 lanes. -/
def keccakRound (a : List W64) (rc : Nat) : List W64 :=
  let l := fun (s : List W64) (x y : Nat) => s.getD (x % 5 + 5 * (y % 5)) 0
  let c := (List.range 5).map fun x => l a x 0 ^^^ l a x 1 ^^^ l a x 2 ^^^ l a x 3 ^^^ l a x 4
  let d := (List.range 5).map fun x => c.getD ((x + 4) % 5) 0 ^^^ (c.getD ((x + 1) % 5) 0).rotateLeft 1
  let t := (List.range 25).map fun i => a.getD i 0 ^^^ d.getD (i % 5) 0
  let b := (List.range 25).map fun i =>
    let y := i % 5
    let x := (3 * (i / 5) + y) % 5
    (l t x y).rotateLeft (keccakRot.getD (x + 5 * y) 0)
  let e := (List.range 25).map fun i =>
    let x := i % 5
    let y := i / 5
    l b x y ^^^ (~~~(l b (x + 1) y) &&& l b (x + 2) y)
  match e with
  | e0 :: r => (e0 ^^^ BitVec.ofNat 64 rc) :: r
  | [] => []

/-- Keccak-f[1600]. -/
def keccakF (a : List W64) : List W64 := keccakRc.foldl keccakRound a

/-- One absorbed block of `rate` bytes. -/
def absorbBlock (a : List W64) (blk : List Byte) : List W64 :=
  keccakF (List.zipWith (· ^^^ ·) a ((chunks 8 (padTo 200 blk)).map fun x => BitVec.ofNat 64 (ofLe x)))

/-- The bytes of the lanes. -/
def laneBytes (a : List W64) : List Byte := a.flatMap fun x => leBytes 8 x.toNat

/-- Squeezing `n` blocks of `rate` bytes. -/
def squeeze (rate : Nat) : Nat → List W64 → List Byte
  | 0, _ => []
  | n + 1, a => (laneBytes a).take rate ++ squeeze rate n (keccakF a)

/-- The sponge of FIPS 202 with domain byte `dom`, `n` output bytes. -/
def sponge (rate : Nat) (dom : Byte) (m : List Byte) (n : Nat) : List Byte :=
  let z := rate - m.length % rate
  let pad := if z = 1 then [dom ||| 0x80] else dom :: (List.replicate (z - 2) 0 ++ [0x80])
  let a := (chunks rate (m ++ pad)).foldl absorbBlock (List.replicate 25 0)
  (squeeze rate (n / rate + 1) a).take n

/-- SHA3 with an `n`-byte digest. -/
def sha3 (n : Nat) (m : List Byte) : List Byte := sponge (200 - 2 * n) 0x06 m n

/-- SHA3-512, the digest of every measurement (R238). -/
def sha3_512 (m : List Byte) : List Byte := sha3 64 m

/-- SHAKE of security strength 128 or 256. -/
def shake (c : Nat) (m : List Byte) (n : Nat) : List Byte := sponge (200 - c / 4) 0x1F m n

/-- The bytes of `n`, most significant first, at least one. -/
def minBe (n : Nat) : List Byte := if n < 256 then [byteOf n] else beBytes (Nat.log2 n / 8 + 1) n

/-- left_encode of SP 800-185. -/
def leftEncode (n : Nat) : List Byte := byteOf (minBe n).length :: minBe n

/-- right_encode of SP 800-185. -/
def rightEncode (n : Nat) : List Byte := minBe n ++ [byteOf (minBe n).length]

/-- encode_string of SP 800-185. -/
def encodeString (x : List Byte) : List Byte := leftEncode (8 * x.length) ++ x

/-- bytepad of SP 800-185. -/
def bytepad (x : List Byte) (w : Nat) : List Byte :=
  let y := leftEncode w ++ x
  padTo (roundUp y.length w) y

/-- KMAC of strength 128 or 256 with `n` output bytes and customisation `s`. -/
def kmac (c : Nat) (key x : List Byte) (n : Nat) (s : List Byte) : List Byte :=
  let rate := 200 - c / 4
  sponge rate 0x04
    (bytepad (encodeString (ascii "KMAC") ++ encodeString s) rate ++ bytepad (encodeString key) rate ++ x ++ rightEncode (8 * n)) n

/-- HMAC over a hash with block size `blk`; the key never exceeds the block (R233). -/
def hmac (h : List Byte → List Byte) (blk : Nat) (key m : List Byte) : List Byte :=
  let k := padTo blk key
  h (k.map (· ^^^ 0x5C) ++ h (k.map (· ^^^ 0x36) ++ m))

/-! ### The algorithm table of a digest cell (R113, R229) -/

/-- The digest size of a fixed-length algorithm, 0 for SHAKE and KMAC; none for a reserved code (R113). -/
def digestSize (alg : Nat) : Option Nat :=
  match alg with
  | 0x01 | 0x21 => some 32
  | 0x02 | 0x22 => some 48
  | 0x03 | 0x23 => some 64
  | 0x10 | 0x30 => some 28
  | 0x11 | 0x31 => some 32
  | 0x12 | 0x32 => some 48
  | 0x13 | 0x33 => some 64
  | 0x18 | 0x19 | 0x38 | 0x39 => some 0
  | _ => none

/-- A keyed algorithm: HMAC or KMAC (R113). -/
def algKeyed (alg : Nat) : Bool := [0x21, 0x22, 0x23, 0x30, 0x31, 0x32, 0x33, 0x38, 0x39].contains alg

/-- KMAC128 or KMAC256 (R113). -/
def algKmac (alg : Nat) : Bool := alg == 0x38 || alg == 0x39

/-- An algorithm with a chosen output length (R113). -/
def algXof (alg : Nat) : Bool := alg == 0x18 || alg == 0x19 || algKmac alg

/-- The result of a digest algorithm: key, customisation string, message and output length (R113, R235). -/
def digestOf (alg : Nat) (key cust m : List Byte) (xof : Nat) : List Byte :=
  match alg with
  | 0x01 => sha256 m
  | 0x02 => sha384 m
  | 0x03 => sha512 m
  | 0x10 => sha3 28 m
  | 0x11 => sha3 32 m
  | 0x12 => sha3 48 m
  | 0x13 => sha3 64 m
  | 0x18 => shake 128 m xof
  | 0x19 => shake 256 m xof
  | 0x21 => hmac sha256 64 key m
  | 0x22 => hmac sha384 128 key m
  | 0x23 => hmac sha512 128 key m
  | 0x30 => hmac (sha3 28) 144 key m
  | 0x31 => hmac (sha3 32) 136 key m
  | 0x32 => hmac (sha3 48) 104 key m
  | 0x33 => hmac (sha3 64) 72 key m
  | 0x38 => kmac 128 key m xof cust
  | 0x39 => kmac 256 key m xof cust
  | _ => []

/-- The KMAC-based KDF with S = "ZK7 KDF" (R285). -/
def kdf (key x : List Byte) (n : Nat) : List Byte := kmac 256 key x n (ascii "ZK7 KDF")

end Sys2Proof.Machine
end

