-- ==== Sys2Proof/Machine/Curve.lean ====
section
/-!
DEFINITION. The long-integer and curve arithmetic of a PKE slice (R256 to R265): modular arithmetic, the NIST curves
(FIPS 186-5, SP 800-186), EdDSA (RFC 8032), X25519 and X448 (RFC 7748), RSA. The standards are PRESUMED (log entry 6).
-/

namespace Sys2Proof.Machine

/-- b^e mod m over the low `n` bits of `e`. -/
def powF : Nat → Nat → Nat → Nat → Nat
  | 0, _, _, m => 1 % m
  | n + 1, b, e, m =>
    let r := powF n (b * b % m) (e / 2) m
    if e % 2 = 1 then b * r % m else r

/-- b^e mod m. -/
def powMod (b e m : Nat) : Nat := powF (Nat.log2 e + 1) (b % m) e m

/-- The extended Euclid of `a` and `m` by `n` divisions at most: the gcd and the coefficient of `a`. -/
def egcdF : Nat → Int → Int → Int → Int → Int × Int
  | 0, r0, _, s0, _ => (r0, s0)
  | n + 1, r0, r1, s0, s1 => if r1 = 0 then (r0, s0) else egcdF n r1 (r0 % r1) s1 (s0 - r0 / r1 * s1)

/-- The inverse of `a` modulo `m`, if there is one. -/
def invMod (a m : Nat) : Option Nat :=
  let g := egcdF (2 * Nat.log2 m + 4) (Int.ofNat (a % m)) (Int.ofNat m) 1 0
  if g.1 = 1 then some (g.2 % Int.ofNat m).toNat else none

/-- The inverse modulo a prime, 0 for 0. -/
def invP (a p : Nat) : Nat := (invMod a p).getD 0

/-- a − b modulo p. -/
def subM (a b p : Nat) : Nat := (a + (p - b % p)) % p

/-! ### Short Weierstrass curves with a = −3 -/

/-- A NIST curve: field, constant b, order, base point, byte length L (R256). -/
structure WCurve where
  p : Nat
  b : Nat
  n : Nat
  gx : Nat
  gy : Nat
  len : Nat

/-- P-256. -/
def p256 : WCurve where
  p := 2 ^ 256 - 2 ^ 224 + 2 ^ 192 + 2 ^ 96 - 1
  b := 0x5ac635d8aa3a93e7b3ebbd55769886bc651d06b0cc53b0f63bce3c3e27d2604b
  n := 0xffffffff00000000ffffffffffffffffbce6faada7179e84f3b9cac2fc632551
  gx := 0x6b17d1f2e12c4247f8bce6e563a440f277037d812deb33a0f4a13945d898c296
  gy := 0x4fe342e2fe1a7f9b8ee7eb4a7c0f9e162bce33576b315ececbb6406837bf51f5
  len := 32

/-- P-384. -/
def p384 : WCurve where
  p := 2 ^ 384 - 2 ^ 128 - 2 ^ 96 + 2 ^ 32 - 1
  b := 0xb3312fa7e23ee7e4988e056be3f82d19181d9c6efe8141120314088f5013875ac656398d8a2ed19d2a85c8edd3ec2aef
  n := 0xffffffffffffffffffffffffffffffffffffffffffffffffc7634d81f4372ddf581a0db248b0a77aecec196accc52973
  gx := 0xaa87ca22be8b05378eb1c71ef320ad746e1d3b628ba79b9859f741e082542a385502f25dbf55296c3a545e3872760ab7
  gy := 0x3617de4a96262c6f5d9e98bf9292dc29f8f41dbd289a147ce9da3113b5f0b8c00a60b1ce1d7e819d7a431d7c90ea0e5f
  len := 48

/-- P-521. -/
def p521 : WCurve where
  p := 2 ^ 521 - 1
  b := 0x51953eb9618e1c9a1f929a21a0b68540eea2da725b99b315f3b8b489918ef109e156193951ec7e937b1652c0bd3bb1bf073573df883d2c34f1ef451fd46b503f00
  n := 2 ^ 521 - 2 ^ 259 + 0x251868783bf2f966b7fcc0148f709a5d03bb5c9b8899c47aebb6fb71e91386409
  gx := 0xc6858e06b70404e9cd9e3ecb662395b4429c648139053fb521f828af606b4d3dbaa14b5e77efe75928fe1dc127a2ffa8de3348b3c1856a429bf97e7e31c2e5bd66
  gy := 0x11839296a789a3bc0045c8a5fb42c7d1bd998f54449579b446817afbd17273e662c97ee72995ef42640c550b9013fad0761353c7086a272c24088be94769fd16650
  len := 66

/-- The curve of a parameter set 0x01 to 0x03. -/
def wCurve (set : Nat) : WCurve := match set with
  | 1 => p256
  | 2 => p384
  | _ => p521

/-- Point addition; none is the point at infinity. -/
def wAdd (c : WCurve) (a b : Option (Nat × Nat)) : Option (Nat × Nat) :=
  match a, b with
  | none, q => q
  | q, none => q
  | some (x1, y1), some (x2, y2) =>
    if x1 = x2 ∧ (y1 + y2) % c.p = 0 then none
    else
      let l := if x1 = x2 then (3 * x1 * x1 + (c.p - 3)) * invP (2 * y1) c.p % c.p
        else subM y2 y1 c.p * invP (subM x2 x1 c.p) c.p % c.p
      let x := subM (subM (l * l) x1 c.p) x2 c.p
      some (x, subM (l * subM x1 x c.p) y1 c.p)

/-- Scalar multiplication over the low `n` bits of `k`. -/
def wMulF (c : WCurve) : Nat → Nat → Option (Nat × Nat) → Option (Nat × Nat)
  | 0, _, _ => none
  | n + 1, k, q =>
    let r := wMulF c n (k / 2) (wAdd c q q)
    if k % 2 = 1 then wAdd c q r else r

/-- Scalar multiplication. -/
def wMul (c : WCurve) (k : Nat) (q : Option (Nat × Nat)) : Option (Nat × Nat) := wMulF c (Nat.log2 k + 1) k q

/-- The base point. -/
def wBase (c : WCurve) : Option (Nat × Nat) := some (c.gx, c.gy)

/-- A point from x ‖ y: on the curve, coordinates below p, not at infinity (R258, R263). -/
def wDecode (c : WCurve) (l : List Byte) : Option (Nat × Nat) :=
  let x := ofBe (l.take c.len)
  let y := ofBe (cut l c.len c.len)
  if x < c.p ∧ y < c.p ∧ (y * y) % c.p = (x * x * x + (c.p - 3) * x + c.b) % c.p then some (x, y) else none

/-- x ‖ y of a point, all zero at infinity (R258). -/
def wEncode (c : WCurve) (q : Option (Nat × Nat)) : List Byte :=
  match q with
  | none => List.replicate (2 * c.len) 0
  | some (x, y) => beBytes c.len x ++ beBytes c.len y

/-- The leftmost bits of a digest, up to the bit length of n (R258). -/
def ecdsaE (c : WCurve) (d : List Byte) : Nat := ofBe d / 2 ^ (8 * d.length - (Nat.log2 c.n + 1))

/-- An ECDSA signature r ‖ s with the nonce `k` (R264). -/
def ecdsaSign (c : WCurve) (key k : Nat) (d : List Byte) : List Byte :=
  let r := match wMul c k (wBase c) with
    | none => 0
    | some (x, _) => x % c.n
  let s := invP k c.n * (ecdsaE c d + r * key) % c.n
  beBytes c.len r ++ beBytes c.len s

/-- The ECDSA verification equation for a decoded point and r, s in range. -/
def ecdsaCheck (c : WCurve) (q : Option (Nat × Nat)) (r s : Nat) (d : List Byte) : Bool :=
  let w := invP s c.n
  match wAdd c (wMul c (ecdsaE c d * w % c.n) (wBase c)) (wMul c (r * w % c.n) q) with
  | none => false
  | some (x, _) => x % c.n == r

/-! ### Edwards curves (RFC 8032) -/

/-- A (twisted) Edwards curve a x² + y² = 1 + d x² y²; its encoding length. -/
structure ECurve where
  p : Nat
  a : Nat
  d : Nat
  l : Nat
  gx : Nat
  gy : Nat
  len : Nat
  ed448 : Bool

/-- Ed25519. -/
def ed25519 : ECurve where
  p := 2 ^ 255 - 19
  a := 2 ^ 255 - 20
  d := 0x52036cee2b6ffe738cc740797779e89800700a4d4141d8ab75eb4dca135978a3
  l := 2 ^ 252 + 27742317777372353535851937790883648493
  gx := 0x216936d3cd6e53fec0a4e231fdd6dc5c692cc7609525a7b2c9562d608f25d51a
  gy := 0x6666666666666666666666666666666666666666666666666666666666666658
  len := 32
  ed448 := false

/-- Ed448. -/
def ed448 : ECurve where
  p := 2 ^ 448 - 2 ^ 224 - 1
  a := 1
  d := 2 ^ 448 - 2 ^ 224 - 1 - 39081
  l := 2 ^ 446 - 13818066809895115352007386748515426880336692474882178609894547503885
  gx := 224580040295924300187604334099896036246789641632564134246125461686950415467406032909029192869357953282578032075146446173674602635247710
  gy := 298819210078481492676017930443930673437544040154080242095928241372331506189835876003536878655418784733982303233503462500531545062832660
  len := 57
  ed448 := true

/-- Edwards addition. -/
def eAdd (c : ECurve) (u v : Nat × Nat) : Nat × Nat :=
  let k := c.d * u.1 % c.p * v.1 % c.p * u.2 % c.p * v.2 % c.p
  ((u.1 * v.2 + u.2 * v.1) * invP (1 + k) c.p % c.p,
   subM (u.2 * v.2) (c.a * u.1 % c.p * v.1) c.p * invP (subM 1 k c.p) c.p % c.p)

/-- Scalar multiplication over the low `n` bits of `k`. -/
def eMulF (c : ECurve) : Nat → Nat → Nat × Nat → Nat × Nat
  | 0, _, _ => (0, 1)
  | n + 1, k, q =>
    let r := eMulF c n (k / 2) (eAdd c q q)
    if k % 2 = 1 then eAdd c q r else r

/-- Scalar multiplication. -/
def eMul (c : ECurve) (k : Nat) (q : Nat × Nat) : Nat × Nat := eMulF c (Nat.log2 k + 1) k q

/-- The encoding of a point: y with the sign of x in the top bit. -/
def eEncode (c : ECurve) (q : Nat × Nat) : List Byte := leBytes c.len (q.2 + q.1 % 2 * 2 ^ (8 * c.len - 1))

/-- A square root modulo p of `w`, if there is one: p is 5 mod 8 or 3 mod 4. -/
def sqrtP (p w : Nat) : Option Nat :=
  let r := if p % 4 = 3 then powMod w ((p + 1) / 4) p
    else
      let s := powMod w ((p + 3) / 8) p
      if s * s % p = w % p then s else s * powMod 2 ((p - 1) / 4) p % p
  if r * r % p = w % p then some r else none

/-- The decoding of a point (RFC 8032): none if y ≥ p or no x exists. -/
def eDecode (c : ECurve) (l : List Byte) : Option (Nat × Nat) :=
  let v := ofLe (l.take c.len)
  let y := v % 2 ^ (8 * c.len - 1)
  let sgn := v / 2 ^ (8 * c.len - 1) % 2
  if c.p ≤ y then none
  else
    match sqrtP c.p (subM (y * y) 1 c.p * invP (subM (c.d * y % c.p * y) c.a c.p) c.p) with
    | none => none
    | some x => if x = 0 ∧ sgn = 1 then none else some (if x % 2 = sgn then x else c.p - x, y)

/-- The hash of EdDSA with the domain prefix of Ed448. -/
def eHash (c : ECurve) (ctx m : List Byte) : List Byte :=
  if c.ed448 then shake 256 (ascii "SigEd448" ++ [0, byteOf ctx.length] ++ ctx ++ m) 114 else sha512 m

/-- The secret scalar and prefix of a private key. -/
def eSecret (c : ECurve) (key : List Byte) : Nat × List Byte :=
  if c.ed448 then
    let h := shake 256 key 114
    let v := ofLe (h.take 56)
    (v % 2 ^ 447 / 4 * 4 + 2 ^ 447, h.drop 57)
  else
    let h := sha512 key
    (ofLe (h.take 32) % 2 ^ 254 / 8 * 8 + 2 ^ 254, h.drop 32)

/-- The public key of a private key. -/
def ePublic (c : ECurve) (key : List Byte) : List Byte := eEncode c (eMul c (eSecret c key).1 (c.gx, c.gy))

/-- The pure EdDSA signature (R258, R264: deterministic). -/
def eSign (c : ECurve) (key ctx m : List Byte) : List Byte :=
  let (s, pre) := eSecret c key
  let a := ePublic c key
  let r := ofLe (eHash c ctx (pre ++ m)) % c.l
  let rr := eEncode c (eMul c r (c.gx, c.gy))
  let k := ofLe (eHash c ctx (rr ++ a ++ m)) % c.l
  rr ++ leBytes c.len ((r + k * s) % c.l)

/-- The outcome of an EdDSA verification: R undecodable or S out of range fails (R263). -/
def eVerify (c : ECurve) (a : List Byte) (pt : Nat × Nat) (sig ctx m : List Byte) : Bool :=
  match eDecode c (sig.take c.len) with
  | none => false
  | some r =>
    let s := ofLe (sig.drop c.len)
    let k := ofLe (eHash c ctx (sig.take c.len ++ a ++ m)) % c.l
    decide (s < c.l) && decide (eMul c s (c.gx, c.gy) = eAdd c r (eMul c k pt))

/-! ### X25519 and X448 (RFC 7748) -/

/-- One ladder step. -/
def ladderStep (p a24 u : Nat) (st : Nat × Nat × Nat × Nat) : Nat × Nat × Nat × Nat :=
  let (x2, z2, x3, z3) := st
  let a := (x2 + z2) % p
  let aa := a * a % p
  let b := subM x2 z2 p
  let bb := b * b % p
  let e := subM aa bb p
  let da := subM x3 z3 p * a % p
  let cb := (x3 + z3) % p * b % p
  let s := (da + cb) % p
  let t := subM da cb p
  (aa * bb % p, e * (aa + a24 * e) % p, s * s % p, u * (t * t % p) % p)

/-- The Montgomery ladder over bits `n - 1` to 0 of `k`. -/
def ladderF (p a24 u k : Nat) : Nat → Nat × Nat × Nat × Nat → Nat × Nat × Nat × Nat
  | 0, st => st
  | n + 1, st =>
    let sw := fun (q : Nat × Nat × Nat × Nat) => (q.2.2.1, q.2.2.2, q.1, q.2.1)
    ladderF p a24 u k n (if k / 2 ^ n % 2 = 1 then sw (ladderStep p a24 u (sw st)) else ladderStep p a24 u st)

/-- X25519 (set 0x04) or X448 (set 0x05) of scalar bytes and a u-coordinate. -/
def xdhOf (set : Nat) (key : List Byte) (u : Nat) : List Byte :=
  if set = 4 then
    let p := 2 ^ 255 - 19
    let k := ofLe (key.take 32) % 2 ^ 254 / 8 * 8 + 2 ^ 254
    let (x, z, _, _) := ladderF p 121665 u k 255 (1, 0, u, 1)
    leBytes 32 (x * invP z p % p)
  else
    let p := 2 ^ 448 - 2 ^ 224 - 1
    let k := ofLe (key.take 56) % 2 ^ 447 / 4 * 4 + 2 ^ 447
    let (x, z, _, _) := ladderF p 39081 u k 448 (1, 0, u, 1)
    leBytes 56 (x * invP z p % p)

/-- The peer u-coordinate, the top bit of an X25519 u cleared, and the field it must lie below (R263). -/
def xdhU (set : Nat) (l : List Byte) : Nat × Nat :=
  if set = 4 then (ofLe (l.take 32) % 2 ^ 255, 2 ^ 255 - 19) else (ofLe (l.take 56), 2 ^ 448 - 2 ^ 224 - 1)

/-! ### RSA (R280, R291) -/

/-- The CRT result of x under p, q, dp, dq, qinv (R265). -/
def rsaCrt (x p q dp dq qinv : Nat) : Nat :=
  let m1 := powMod x dp p
  let m2 := powMod x dq q
  m2 + q * (qinv * subM m1 m2 p % p)

/-- Whether each 12-bit coefficient of an ML-KEM-1024 encapsulation key lies below q (R263). -/
def mlkemEkOk (ek : List Byte) : Bool :=
  (chunks 3 (ek.take 1536)).all fun t =>
    let v := ofLe t
    decide (v % 4096 < 3329) && decide (v / 4096 < 3329)

end Sys2Proof.Machine
end

