-- ==== Sys2Proof/Machine/Lattice.lean ====
section
/-!
DEFINITION. The lattice arithmetic of a PKE slice: ML-DSA-87 (FIPS 204) and ML-KEM-1024 (FIPS 203), which R258, R260, R263 and R264
name. The standards are PRESUMED (log entry 7). A polynomial is the list of its 256 coefficients modulo q.
-/

namespace Sys2Proof.Machine

/-! ### Both rings -/

/-- A polynomial: 256 coefficients from the one of degree 0 up. -/
abbrev Poly := List Nat

/-- A transform of Z_q[X]/(X^256 + 1): the modulus, the root of unity, the number of halvings (8: down to degree 0; 7: to degree 1). -/
structure PolyRing where
  q : Nat
  root : Nat
  depth : Nat

/-- The ring of ML-DSA. -/
def dsaRing : PolyRing where
  q := 8380417
  root := 1753
  depth := 8

/-- The ring of ML-KEM. -/
def kemRing : PolyRing where
  q := 3329
  root := 17
  depth := 7

/-- The low `w` bits of `m`, in the other order. -/
def flipBits : Nat → Nat → Nat
  | 0, _ => 0
  | w + 1, m => m % 2 * 2 ^ w + flipBits w (m / 2)

/-- The factor at node `m` of the halving tree; its root is node 1 and the halves of node m are nodes 2m and 2m + 1. -/
def PolyRing.twiddle (g : PolyRing) (m : Nat) : Nat := powMod g.root (flipBits g.depth m) g.q

/-- `d` halvings below node `m`: X^(2h) − z² is split into X^h − z and X^h + z. -/
def PolyRing.halve (g : PolyRing) : Nat → Nat → Poly → Poly
  | 0, _, f => f
  | d + 1, m, f =>
    let lo := f.take (f.length / 2)
    let hi := (f.drop (f.length / 2)).map fun x => x * g.twiddle m % g.q
    g.halve d (2 * m) (List.zipWith (fun x y => (x + y) % g.q) lo hi) ++
      g.halve d (2 * m + 1) (List.zipWith (fun x y => subM x y g.q) lo hi)

/-- The halvings undone. -/
def PolyRing.join (g : PolyRing) : Nat → Nat → Poly → Poly
  | 0, _, f => f
  | d + 1, m, f =>
    let a := g.join d (2 * m) (f.take (f.length / 2))
    let b := g.join d (2 * m + 1) (f.drop (f.length / 2))
    let half := (g.q + 1) / 2
    let back := half * invP (g.twiddle m) g.q % g.q
    List.zipWith (fun x y => (x + y) * half % g.q) a b ++ List.zipWith (fun x y => subM x y g.q * back % g.q) a b

/-- The transform. -/
def PolyRing.ntt (g : PolyRing) (f : Poly) : Poly := g.halve g.depth 1 f

/-- The inverse transform. -/
def PolyRing.unntt (g : PolyRing) (f : Poly) : Poly := g.join g.depth 1 f

/-- The sum. -/
def PolyRing.add (g : PolyRing) (a b : Poly) : Poly := List.zipWith (fun x y => (x + y) % g.q) a b

/-- The difference. -/
def PolyRing.sub (g : PolyRing) (a b : Poly) : Poly := List.zipWith (fun x y => subM x y g.q) a b

/-- The product of transformed polynomials whose parts have degree 1, from part `i` on: part i is taken modulo X² − ζ^(2 brv(i) + 1). -/
def PolyRing.pairs (g : PolyRing) : Nat → Poly → Poly → Poly
  | i, a0 :: a1 :: a, b0 :: b1 :: b =>
    let z := powMod g.root (2 * flipBits g.depth i + 1) g.q
    (a0 * b0 + a1 * b1 % g.q * z) % g.q :: (a0 * b1 + a1 * b0) % g.q :: g.pairs (i + 1) a b
  | _, _, _ => []

/-- The product of transformed polynomials. -/
def PolyRing.mul (g : PolyRing) (a b : Poly) : Poly :=
  if g.depth = 8 then List.zipWith (fun x y => x * y % g.q) a b else g.pairs 0 a b

/-- The zero polynomial. -/
def zeroPoly : Poly := List.replicate 256 0

/-- The scalar product of two vectors of transformed polynomials. -/
def PolyRing.dot (g : PolyRing) (a b : List Poly) : Poly := (List.zipWith g.mul a b).foldl g.add zeroPoly

/-- Coefficients packed to `d` bits each, the first lowest. -/
def packBits (d : Nat) (f : Poly) : List Byte := leBytes (f.length * d / 8) (f.foldr (fun c r => c % 2 ^ d + 2 ^ d * r) 0)

/-- `n` fields of `d` bits of a number. -/
def fieldsOf (d : Nat) : Nat → Nat → Poly
  | 0, _ => []
  | n + 1, x => x % 2 ^ d :: fieldsOf d n (x / 2 ^ d)

/-- The 256 fields of `d` bits of a byte string. -/
def unpackBits (d : Nat) (l : List Byte) : Poly := fieldsOf d 256 (ofLe l)

/-- The first 256 of the accepted candidates of a stream. A stream too short for them (the standards squeeze on without end) goes on
in free values. -/
def sampled (g : PolyRing) (seed : List Byte) (accepted : List Nat) : Poly :=
  (accepted ++ (List.range (256 - accepted.length)).map fun i => Config.latticeTail seed i % g.q).take 256

/-- The polynomials of a vector, from `n` strings of `w` bytes. -/
def polysAt (dec : List Byte → Poly) (l : List Byte) (w n : Nat) : List Poly := (List.range n).map fun i => dec (cut l (w * i) w)

/-! ### ML-DSA-87: k = 8, l = 7, η = 2, τ = 60, γ1 = 2^19, γ2 = (q − 1)/32, ω = 75, d = 13 -/

/-- The entry at row `r`, column `c` of the matrix, transformed, from SHAKE128 candidates of 23 bits. -/
def dsaEntry (rho : List Byte) (r c : Nat) : Poly :=
  let seed := rho ++ [byteOf c, byteOf r]
  sampled dsaRing seed ((fieldsOf 24 336 (ofLe (shake 128 seed 1008))).map (· % 2 ^ 23) |>.filter (· < dsaRing.q))

/-- A row of the matrix times a transformed vector, transformed back. -/
def dsaRows (rho : List Byte) (v : List Poly) : List Poly :=
  (List.range 8).map fun r => dsaRing.unntt (dsaRing.dot ((List.range 7).map (dsaEntry rho r)) v)

/-- A short polynomial of coefficients −2 to 2 from SHAKE256 half-bytes. -/
def dsaShort (seed : List Byte) (n : Nat) : Poly :=
  let x := seed ++ leBytes 2 n
  sampled dsaRing x (((fieldsOf 4 1088 (ofLe (shake 256 x 544))).filter (· < 15)).map fun z => subM 2 (z % 5) dsaRing.q)

/-- A coefficient as the integer of least size, and that size. -/
def dsaSize (x : Nat) : Nat := if 2 * x ≤ dsaRing.q then x else dsaRing.q - x

/-- Whether every coefficient of a vector lies below `b` in size. -/
def dsaBelow (b : Nat) (v : List Poly) : Bool := v.all fun f => f.all fun x => decide (dsaSize x < b)

/-- Power2Round: the high part, and the low 13 bits as a residue. -/
def dsaRound (x : Nat) : Nat × Nat :=
  let t := (x + 4095) / 8192
  (t, subM x (t * 8192) dsaRing.q)

/-- Decompose with 2 γ2 = 523,776: the high part of 0 to 15, and the low part as a residue. -/
def dsaDecompose (x : Nat) : Nat × Nat :=
  let h := (x + 261887) / 523776
  (h % 16, subM x (h % 16 * 523776) dsaRing.q)

/-- The high parts of a vector. -/
def dsaHigh (v : List Poly) : List Poly := v.map fun f => f.map fun x => (dsaDecompose x).1

/-- The challenge polynomial of a digest: 60 coefficients of ±1, placed by the accepted bytes of the stream. -/
def dsaChallenge (ct : List Byte) : Poly :=
  let st := shake 256 ct 272
  let signs := ofLe (st.take 8)
  ((List.range 60).foldl (fun (x : Poly × List Byte) i =>
    let rest := x.2.dropWhile fun b => decide (196 + i < b.toNat)
    let j := match rest with
      | b :: _ => b.toNat
      | [] => Config.latticeTail ct i % (197 + i)
    ((x.1.set (196 + i) (x.1.getD j 0)).set j (if signs / 2 ^ i % 2 = 1 then dsaRing.q - 1 else 1), rest.drop 1))
    (zeroPoly, st.drop 8)).1

/-- What a seed ξ expands to. -/
structure DsaKey where
  rho : List Byte
  key : List Byte
  s1 : List Poly
  s2 : List Poly
  t : List Poly

/-- The expansion of a seed ξ (R260). -/
def dsaExpand (seed : List Byte) : DsaKey :=
  let h := shake 256 (seed ++ [8, 7]) 128
  let s1 := (List.range 7).map (dsaShort (cut h 32 64))
  let s2 := (List.range 8).map fun n => dsaShort (cut h 32 64) (n + 7)
  { rho := h.take 32, key := h.drop 96, s1 := s1, s2 := s2
    t := List.zipWith dsaRing.add (dsaRows (h.take 32) (s1.map dsaRing.ntt)) s2 }

/-- The 2,592 bytes of its public key. -/
def DsaKey.pk (k : DsaKey) : List Byte := k.rho ++ k.t.flatMap fun f => packBits 10 (f.map fun x => (dsaRound x).1)

/-- The public key of a seed. -/
def mldsaPk (seed : List Byte) : List Byte := (dsaExpand seed).pk

/-- μ: the digest of a message with a context under a public key. -/
def dsaMu (pk msg ctx : List Byte) : List Byte :=
  shake 256 (shake 256 pk 64 ++ [0, byteOf ctx.length] ++ ctx ++ msg) 64

/-- The hints as 83 bytes: the places of the ones, then how many stand before the end of each polynomial. -/
def dsaHintBytes (h : List (List Nat)) : List Byte :=
  (h.flatten ++ List.replicate (75 - h.flatten.length) 0 ++ (List.range 8).map fun i => (h.take (i + 1)).flatten.length).map byteOf

/-- The hint places of the 8 polynomials from 83 bytes; none where the encoding is malformed. -/
def dsaHints (y : List Byte) : Option (List (List Nat)) :=
  let ends := 0 :: (y.drop 75).map BitVec.toNat
  let places := (y.take 75).map BitVec.toNat
  let parts := List.zipWith (fun a b => (places.take b).drop a) ends ends.tail
  if ends.Pairwise (· ≤ ·) ∧ ends.getLastD 0 ≤ 75 ∧ (∀ p ∈ parts, p.Pairwise (· < ·)) ∧
    ∀ x ∈ places.drop (ends.getLastD 0), x = 0 then some parts else none

/-- One turn of the rejection loop: the signature, if this turn's one is accepted. -/
def DsaKey.attempt (k : DsaKey) (mu seed : List Byte) (turn : Nat) : Option (List Byte) :=
  let g := dsaRing
  let y := (List.range 7).map fun r =>
    (unpackBits 20 (shake 256 (seed ++ leBytes 2 (7 * turn + r)) 640)).map fun v => subM (2 ^ 19) v g.q
  let w := dsaRows k.rho (y.map g.ntt)
  let ct := shake 256 (mu ++ (dsaHigh w).flatMap (packBits 4)) 64
  let c := g.ntt (dsaChallenge ct)
  let times := fun (v : List Poly) => v.map fun f => g.unntt (g.mul c (g.ntt f))
  let z := List.zipWith g.add y (times k.s1)
  let r := List.zipWith g.sub w (times k.s2)
  let ct0 := times (k.t.map fun f => f.map fun x => (dsaRound x).2)
  let hints := List.zipWith (fun a b => (List.range 256).filter fun i =>
    (dsaDecompose (a.getD i 0)).1 != (dsaDecompose (b.getD i 0)).1) (List.zipWith g.add r ct0) r
  if dsaBelow (2 ^ 19 - 120) z = true ∧ dsaBelow (261888 - 120) (r.map fun f => f.map fun x => (dsaDecompose x).2) = true ∧
      dsaBelow 261888 ct0 = true ∧ hints.flatten.length ≤ 75 then
    some (ct ++ (z.flatMap fun f => packBits 20 (f.map fun x => subM (2 ^ 19) x g.q)) ++ dsaHintBytes hints)
  else none

/-- The rejection loop from turn `turn`, at most `n` turns more: the signature and the turns it took. A loop that takes longer has a
free value for its result. -/
def DsaKey.loop (k : DsaKey) (mu seed : List Byte) : Nat → Nat → List Byte × Nat
  | 0, turn => (Config.mldsaLate mu seed, turn)
  | n + 1, turn => match k.attempt mu seed turn with
    | some g => (g, turn + 1)
    | none => k.loop mu seed n (turn + 1)

/-- The hedged signature of a 64-byte μ, and the number of rejection-loop iterations (R258, R261, R264). -/
def mldsaSignMu (seed mu rnd : List Byte) : List Byte × Nat :=
  let k := dsaExpand seed
  k.loop mu (shake 256 (k.key ++ rnd ++ mu) 64) 814 0

/-- The hedged signature of a message under a context, and the number of rejection-loop iterations. -/
def mldsaSign (seed msg ctx rnd : List Byte) : List Byte × Nat := mldsaSignMu seed (dsaMu (mldsaPk seed) msg ctx) rnd

/-- The verification of a signature of a 64-byte μ; a malformed signature encoding does not verify (R263). -/
def mldsaVerifyMu (pk sig mu : List Byte) : Bool :=
  let g := dsaRing
  match dsaHints (cut sig 4544 83) with
  | none => false
  | some hints =>
    let z := (polysAt (unpackBits 20) (cut sig 64 4480) 640 7).map fun f => f.map fun v => subM (2 ^ 19) v g.q
    let c := g.ntt (dsaChallenge (sig.take 64))
    let t1 := (polysAt (unpackBits 10) (cut pk 32 2560) 320 8).map fun f => f.map (· * 8192 % g.q)
    let w := List.zipWith g.sub (dsaRows (pk.take 32) (z.map g.ntt)) (t1.map fun f => g.unntt (g.mul c (g.ntt f)))
    let high := List.zipWith (fun h f => (List.range 256).map fun i =>
      let (a, b) := dsaDecompose (f.getD i 0)
      if h.contains i then (if 0 < b ∧ 2 * b < g.q then (a + 1) % 16 else (a + 15) % 16) else a) hints w
    sig.length == 4627 && dsaBelow (2 ^ 19 - 120) z &&
      shake 256 (mu ++ high.flatMap (packBits 4)) 64 == sig.take 64

/-- The verification of a signature of a message under a context. -/
def mldsaVerify (pk sig msg ctx : List Byte) : Bool := mldsaVerifyMu pk sig (dsaMu pk msg ctx)

/-! ### ML-KEM-1024: k = 4, η = 2, du = 11, dv = 5 -/

/-- The entry at row `r`, column `c` of the matrix, transformed. -/
def kemEntry (rho : List Byte) (r c : Nat) : Poly :=
  let seed := rho ++ [byteOf c, byteOf r]
  sampled kemRing seed ((fieldsOf 12 672 (ofLe (shake 128 seed 1008))).filter (· < kemRing.q))

/-- A polynomial of the centred binomial distribution: the difference of two sums of two bits. -/
def kemNoise (seed : List Byte) (n : Nat) : Poly :=
  (unpackBits 4 (shake 256 (seed ++ [byteOf n]) 128)).map fun x =>
    subM (x % 2 + x / 2 % 2) (x / 4 % 2 + x / 8) kemRing.q

/-- A coefficient rounded to `d` bits. -/
def kemCompress (d x : Nat) : Nat := (2 * x * 2 ^ d + kemRing.q) / (2 * kemRing.q) % 2 ^ d

/-- A coefficient from `d` bits. -/
def kemExpandBits (d y : Nat) : Nat := (2 * kemRing.q * y + 2 ^ d) / 2 ^ (d + 1)

/-- The secret vector, transformed, and the encapsulation key of a seed d ‖ z. -/
def kemKey (seed : List Byte) : List Poly × List Byte :=
  let g := kemRing
  let h := sha3_512 (seed.take 32 ++ [4])
  let s := (List.range 4).map fun n => g.ntt (kemNoise (h.drop 32) n)
  let e := (List.range 4).map fun n => g.ntt (kemNoise (h.drop 32) (n + 4))
  let t := List.zipWith g.add ((List.range 4).map fun r => g.dot ((List.range 4).map (kemEntry (h.take 32) r)) s) e
  (s, t.flatMap (packBits 12) ++ h.take 32)

/-- The encapsulation key of a seed d ‖ z. -/
def mlkemEk (seed : List Byte) : List Byte := (kemKey seed).2

/-- The ciphertext of the 32 bytes `m` under `ek`, with randomness `r`. -/
def kemEncrypt (ek m r : List Byte) : List Byte :=
  let g := kemRing
  let rho := cut ek 1536 32
  let y := (List.range 4).map fun n => g.ntt (kemNoise r n)
  let u := (List.range 4).map fun i =>
    g.add (g.unntt (g.dot ((List.range 4).map fun j => kemEntry rho j i) y)) (kemNoise r (i + 4))
  let v := g.add (g.add (g.unntt (g.dot (polysAt (unpackBits 12) ek 384 4) y)) (kemNoise r 8)) ((unpackBits 1 m).map (kemExpandBits 1))
  (u.flatMap fun f => packBits 11 (f.map (kemCompress 11))) ++ packBits 5 (v.map (kemCompress 5))

/-- Encapsulation with randomness `m`: the shared key and the ciphertext. -/
def mlkemEncaps (ek m : List Byte) : List Byte × List Byte :=
  let h := sha3_512 (m ++ sha3 32 ek)
  (h.take 32, kemEncrypt ek m (h.drop 32))

/-- Decapsulation: the implicit-rejection key where the ciphertext is not the one that encapsulation gives (R263). -/
def mlkemDecaps (seed ct : List Byte) : List Byte :=
  let g := kemRing
  let (s, ek) := kemKey seed
  let u := (polysAt (unpackBits 11) ct 352 4).map fun f => f.map (kemExpandBits 11)
  let v := (unpackBits 5 (cut ct 1408 160)).map (kemExpandBits 5)
  let m := packBits 1 ((g.sub v (g.unntt (g.dot s (u.map g.ntt)))).map (kemCompress 1))
  let h := sha3_512 (m ++ sha3 32 ek)
  if kemEncrypt ek m (h.drop 32) = ct then h.take 32 else shake 256 (seed.drop 32 ++ ct) 32

end Sys2Proof.Machine
end

