-- ==== Sys2Proof/Machine/State.lean ====
section
/-!
DEFINITION. The state of the block: every register, FIFO, buffer, counter, mode and pin the spec gives it, as plain
data. A field's default is its reset value; a default that the spec does not give is named in notes/assumptions/2.md.
-/

namespace Sys2Proof.Machine

/-- The variants (R1). -/
inductive Variant where
  | zk7160
  | zk7140
  | zk7120
  deriving DecidableEq, Repr

/-- Who waits for an invalidation's drain (R296): a KEY DESTROY request, or the admin command of a function. -/
inductive Drain where
  | request (req : Nat)
  | admin (fn : Nat) (slot : Nat) (cmdId : BitVec 16)
  deriving DecidableEq, Repr

/-- The admin command a function's queue waits for (R90): its ring slot and CMD_ID. -/
inductive AdmBusy where
  | destroyChannel (ch : Nat) (slot : Nat) (cmdId : BitVec 16)
  | destroyDomain (d : Nat) (slot : Nat) (cmdId : BitVec 16)
  deriving DecidableEq, Repr

/-- The attributes of a posted write that the device sends: its PASID (R104), the selective stream whose T bit it carries (R77),
Relaxed Ordering (R83). -/
structure Tlp where
  pasid : Option (BitVec 20) := none
  stream : Option Nat := none
  relaxed : Bool := false
  deriving DecidableEq, Repr

/-- What leaves the device: posted writes, messages, answers and pulses, oldest first (R33, R69). -/
inductive OutEvent where
  /-- Output data, IV, tag, blob or report bytes written to host memory. -/
  | dma (fn : Nat) (x : Tlp) (addr : Nat) (data : List Byte)
  /-- A channel completion entry (R127). -/
  | cqe (fn : Nat) (ch : Nat) (x : Tlp) (addr : Nat) (dw : List W32)
  /-- An admin completion entry (R92). -/
  | admCqe (fn : Nat) (x : Tlp) (addr : Nat) (dw : List W32)
  /-- An MSI-X message: the address and the data that software has put into the vector's table entry (R69, R73). -/
  | msix (fn : Nat) (vector : Nat) (x : Tlp) (addr : W64) (data : W32)
  | aer (fn : Nat) (e : Aer) (fatal : Bool)
  | errFatal
  /-- A request completed as Unsupported Request (R82). -/
  | unsupported
  /-- A configuration request answered with Request Retry Status (R25). -/
  | retryStatus
  /-- The Umpire's access to an accelerator page during a reset completes with an error indication (R24). -/
  | accessError
  /-- A translation request (R78). -/
  | atsRequest (fn : Nat) (pasid : Option (BitVec 20)) (page : Nat)
  | atsComplete (tag : Nat)
  | doe (obj : List Byte)
  | spdm (t : Nat) (msg : List Byte)
  /-- A management response (R422): transport, code, sequence, status, detail, result. -/
  | mgmt (t : Nat) (code seq status detail : BitVec 8) (result : List Byte)
  | pldm (t : Nat) (cmd : BitVec 8) (code : BitVec 8) (data : List Byte)
  /-- A PlatformEventMessage (R425): sensor and reading. -/
  | pldmEvent (sensor : Nat) (value : Int)
  /-- A command forwarded on a downstream flash port (R330): port, opcode, address, write enable first. -/
  | flashDown (port : Nat) (opcode : BitVec 8) (addr : Option Nat) (data : List Byte) (wren : Bool)
  /-- An image that the Umpire writes on a downstream port (R336, R359). -/
  | imageWrite (port addr : Nat) (data : List Byte)
  /-- Data driven to the upstream master (R328). -/
  | flashUp (port : Nat) (data : List Byte)
  /-- A command frame on CC_CMD, its bits in the order sent (R364). -/
  | cardCmd (frame : List Bool)
  /-- Data blocks to the card (R364): per block the bits of each data line in use, in the order sent. -/
  | cardBlocks (lines : List (List (List Bool)))
  | jtag (data : List Byte)
  | avs (mv : Nat)
  | heatPulse
  | register (data : W64)
  deriving DecidableEq, Repr
/-- A first-error record PG_ERR_REC_n (R44); a held record is VALID. -/
structure ErrRec where
  code   : BitVec 8
  level  : BitVec 2
  detail : BitVec 5
  heat   : BitVec 48
  deriving DecidableEq, Repr

/-- The common page header's changing registers (R36 to R47). -/
structure Hdr where
  /-- PG_STATUS (R41). -/
  status : W32 := 0
  /-- PG_STATUS_CNT (R42). -/
  statusCnt : W32 := 0
  /-- PG_INT_EN (R43). -/
  intEn : W32 := 0
  /-- PG_ERR_REC_0 to 3 in fill order, at most four (R44). -/
  errs : List ErrRec := []
  /-- PG_LOCK (R47). -/
  lock : W32 := 0
  /-- PG_PRESENT.QUARANTINED (R39). -/
  quar : Bool := false
  deriving DecidableEq, Repr

/-- One mirror page: the copied image of its source's 4 KiB and MIRROR_SEQ (R60, R61). -/
structure Mirror where
  /-- The copied words, by word offset in the page. -/
  words : SMap W32 := []
  /-- MIRROR_SEQ. -/
  seq : W32 := 0
  deriving DecidableEq, Repr

/-! ### Chip page (R66, R67) -/
structure Chip where
  /-- CHIP_CADENCE.GBPS. -/
  cadence : BitVec 16 := 0
  /-- CHIP_CADENCE_NORM.GBPS. -/
  cadenceNorm : BitVec 16 := 0
  /-- CHIP_RATING.GBPS; the ZK7160's reset value. -/
  rating : BitVec 16 := 0x0640
  ignWrCnt : BitVec 16 := 0
  accReady : Bool := false
  safeHold : Bool := false
  maskFallback : Bool := false
  rePlan : Bool := false
  ratingReduced : Bool := false
  anyQuar : Bool := false
  /-- CHIP_STATUS.AOD_COLD, set by the start. -/
  aodCold : Bool := false
  /-- CHIP_INT_VEC.VECTOR. -/
  intVec : BitVec 11 := 0
  /-- CHIP_INT_SRC.PAGES as last evaluated, for the 0 to 1 change (R67). -/
  intSrc : W64 := 0
  /-- An accelerator-domain reset is in progress (R24, R55). -/
  accReset : Bool := false
  /-- The reset in progress was started by the Umpire with the link up (R55). -/
  resetByUmpire : Bool := false
  /-- Real-time tick at which the chip-wide fall-back ends (R163). -/
  maskUntil : Nat := 0
  /-- New strokes are held at the fatal temperature (R425). -/
  thermalHold : Bool := false
  /-- The programs have been loaded since the last accelerator-domain reset began (R221). -/
  progsLoaded : Bool := false
  /-- Region, page key and tick of each block quarantine of the past minute (R18). -/
  quarAt : List (Nat × Nat × Nat) := []
  deriving DecidableEq, Repr

/-! ### PCI Express endpoint (R68 to R84) -/

/-- The state of an IDE stream (R76). -/
inductive IdeState where
  | insecure
  | secure
  deriving DecidableEq, Repr

/-- One IDE stream: key sets 0 and 1 and the K bit (R76). Keys are never readable. -/
structure IdeStream where
  state : IdeState := .insecure
  key0 : Option (BitVec 256) := none
  key1 : Option (BitVec 256) := none
  kbit : Bool := false
  deriving DecidableEq, Repr

/-- An outstanding ATS invalidation (R79). -/
structure Inval where
  tag : Nat
  fn : Nat
  pasid : Option (BitVec 20)
  lo : Nat
  hi : Nat
  deriving DecidableEq, Repr

/-- A cached ATS translation (R78). -/
structure Xlat where
  fn : Nat
  pasid : Option (BitVec 20)
  page : Nat
  allowWrite : Bool
  allowRead : Bool
  deriving DecidableEq, Repr

/-- The endpoint's configuration space and link. -/
structure Pcie where
  linkUp : Bool := false
  perstLow : Bool := true
  /-- Configuration requests receive Request Retry Status (R25). -/
  crs : Bool := true
  /-- PCX_LINK. -/
  speed : BitVec 4 := 0
  width : BitVec 5 := 0
  flit : Bool := false
  /-- PCX_CTRL. -/
  roData : Bool := false
  wakeEn : Bool := false
  /-- SR-IOV (R72). -/
  ari : Bool := false
  numVfs : BitVec 16 := 0
  vfEnable : Bool := false
  /-- VF Memory Space Enable, VF BAR0/1 and VF BAR2/3 (R71, R72). -/
  vfMse : Bool := false
  vfBar0 : W64 := 0
  vfBar2 : W64 := 0
  /-- NumVFs in effect while VF Enable is in effect. -/
  vfsInEffect : Option Nat := none
  ideLink : IdeStream := {}
  /-- Selective streams 0 to 7. -/
  ideSel : SMap IdeStream := []
  invals : List Inval := []
  xlats : List Xlat := []
  /-- DOE mailbox: the object in transfer, and whether an abort is being honoured (R74). -/
  doeObj : Option (List Byte) := none
  doeReady : Bool := true
  pmeEn : Bool := false
  inL2 : Bool := false
  deriving DecidableEq, Repr

/-! ### Functions, admin queues and channels (R85 to R108) -/

/-- TDISP interface state (R77). -/
inductive Tdisp where
  | configUnlocked
  | configLocked
  | run
  | error
  deriving DecidableEq, Repr

/-- The admin queue of one function (R88 to R90). -/
structure Adm where
  sqBase : W64 := 0
  cqBase : W64 := 0
  sqLog : BitVec 4 := 6
  cqLog : BitVec 4 := 6
  vector : BitVec 11 := 0
  irqEn : Bool := false
  enable : Bool := false
  ready : Bool := false
  error : Bool := false
  sqHead : Nat := 0
  sqTail : Nat := 0
  cqHead : Nat := 0
  cqTail : Nat := 0
  phase : Bool := true
  /-- The command in execution (R90): a DESTROY whose drain is waited for. -/
  busy : Option AdmBusy := none
  deriving DecidableEq, Repr

/-- The configuration registers of a function that software writes (R68, R71, R82). -/
structure Cfg where
  memEn : Bool := false
  busMaster : Bool := false
  /-- BAR0/1 and BAR2/3 of the PF; a VF's lie in the SR-IOV capability. -/
  bar0 : W64 := 0
  bar2 : W64 := 0
  /-- Max_Payload_Size and Max_Read_Request_Size, as powers of two above 128 bytes. -/
  mps : BitVec 3 := 0
  mrrs : BitVec 3 := 2
  /-- The power state is D3hot (else D0); ASPM L1, L1.1 and L1.2 enabled. -/
  d3hot : Bool := false
  aspmL1 : Bool := false
  l11 : Bool := false
  l12 : Bool := false
  /-- Completion timeout: the range selected, 0 the default of 50 ms; disabled. -/
  ctoRange : BitVec 4 := 0
  ctoOff : Bool := false
  /-- AER: errors whose status is set, and errors masked. -/
  aerStatus : List Aer := []
  aerMask : List Aer := []
  deriving DecidableEq, Repr

/-- One PCIe function: FN page registers, admin queue, MSI-X table, TDISP state. -/
structure Fn where
  /-- FN_INFO.DOMAIN with DOMAIN_VALID. -/
  domain : Option (BitVec 12) := none
  limit : BitVec 17 := 0
  spillBase : W64 := 0
  spillKib : W32 := 0
  dbErrIndex : BitVec 16 := 0
  dbErrCause : BitVec 3 := 0
  dbErrAdmin : Bool := false
  chErr : W32 := 0
  intVec : BitVec 11 := 0
  adm : Adm := {}
  tdisp : Tdisp := .configUnlocked
  /-- The selective stream a TDISP interface is bound to. -/
  tdispStream : Nat := 0
  msixEn : Bool := false
  msixFnMask : Bool := false
  /-- Vectors whose per-vector mask bit is clear. -/
  unmasked : List Nat := []
  /-- Message address and message data of each MSI-X table entry (R73). -/
  msixAddr : SMap W64 := []
  msixData : SMap W32 := []
  /-- Vectors whose PBA bit is set. -/
  pba : List Nat := []
  pasidEn : Bool := false
  atsEn : Bool := false
  /-- Device Status: Fatal Error Detected (R82). -/
  fatalDet : Bool := false
  cfg : Cfg := {}
  deriving DecidableEq, Repr

/-- The state of a channel (R104, R107, R108). -/
inductive ChState where
  | active
  | error (cause : Nat)
  /-- DESTROY_CHANNEL has started; `errored`: the channel was or fell into ERROR (R107, R108). -/
  | destroying (abort : Bool) (errored : Bool)
  deriving DecidableEq, Repr

/-- The open message of a channel (R123). -/
structure OpenMsg where
  /-- Its job, while the message is held on chip. -/
  job : Nat
  /-- DIGEST message (else SYM). -/
  digest : Bool
  /-- Status with which the next part completes, once the message is lost (R123, R151). -/
  lost : Option Nat := none
  deriving DecidableEq, Repr

/-- One channel (R104). -/
structure Chan where
  handle : W32
  state : ChState := .active
  sqBase : W64 := 0
  cqBase : W64 := 0
  sqLog : Nat := 6
  cqLog : Nat := 6
  prio : Nat := 0
  pasidEn : Bool := false
  pasid : BitVec 20 := 0
  vector : BitVec 11 := 0
  irqEn : Bool := false
  oneShot : Bool := false
  modCount : Nat := 0
  modTime : Nat := 0
  defProg : BitVec 16 := 0
  account : W32 := 0
  sqHead : Nat := 0
  sqTail : Nat := 0
  cqHead : Nat := 0
  cqTail : Nat := 0
  phase : Bool := true
  armed : Bool := true
  unsignalled : Nat := 0
  /-- Descriptors fetched and completions written since creation. -/
  fetched : Nat := 0
  completed : Nat := 0
  /-- Channel sequence number of blobs, and the last saved sequence (R151, R152). -/
  seq : Nat := 1
  lastSaved : Option Nat := none
  openMsg : Option OpenMsg := none
  deriving DecidableEq, Repr
/-! ### Requests, jobs and the Marshal (R109 to R154) -/

/-- A fetched request: its 16 dwords and its place (R109, R124, R127). -/
structure Req where
  fn : Nat
  ch : Nat
  slot : Nat
  dwords : List W32
  /-- Position in its chain; last member; the requests of its chain in order. -/
  chainPos : Nat := 0
  chainLast : Bool := true
  chain : List Nat := []
  /-- DEFAULT_PROGRAM at the fetch (R106). -/
  defProg : BitVec 16 := 0
  /-- Admitted (R32). -/
  admitted : Bool := false
  /-- The ledger slot resolved at admission. -/
  keySlot : Option Nat := none
  /-- Domain of its function at admission. -/
  domain : Nat := 0
  /-- IN, OUT and AAD ranges as (address, length) (R119). -/
  inR : List (Nat × Nat) := []
  outR : List (Nat × Nat) := []
  aadR : List (Nat × Nat) := []
  /-- The handle that the member its chain key reference names has returned (R118). -/
  result : W32 := 0
  /-- Its job, once it runs on a unit. -/
  job : Option Nat := none
  /-- The IV drawn from the slot's nonce counter at admission (R172). -/
  nonce : List Byte := []
  /-- Set while a DESTROY_CHANNEL ABORT or PKE abort waits to stop it (R107). -/
  abort : Bool := false
  /-- Program store slot that a SYM request was bound to at its admission (R222). -/
  prog : Option Nat := none
  /-- It waits for a context (R147). -/
  ctxWait : Bool := false
  deriving DecidableEq, Repr

/-- The kind of unit a job runs on. -/
inductive UnitKind where
  | eight
  | quad
  | pair
  deriving DecidableEq, Repr

/-- A pass of an AEAD decryption (R173, R174). -/
inductive Pass where
  | single
  | tag
  | decrypt
  deriving DecidableEq, Repr

/-- An operand slot of a job frame (R254, R255). -/
structure Operand where
  bytes : List Byte
  taint : Bool
  deriving DecidableEq, Repr

/-- A message or PKE job in progress. -/
structure Job where
  kind : UnitKind
  /-- The current request (part), and the channel it belongs to. -/
  req : Nat
  fn : Nat
  ch : Nat
  domain : Nat
  prio : Nat := 0
  keySlot : Option Nat := none
  /-- Program store slot of a SYM message. -/
  prog : Nat := 0
  /-- OP, SUBOP and PARAM of the message's first part (R226, R231); OP names the program selected (R222). -/
  op : W32 := 0
  subop : Nat := 0
  param : W32 := 0
  /-- Version of the program of a SYM message (R222). -/
  version : W32 := 0
  /-- Global index of the home unit: eight, digest cell or slice (R135). -/
  home : Option Nat := none
  /-- The quad or pair on which the job was placed, while it waits there for its cell or slice (R137). -/
  block : Option Nat := none
  /-- A stroke of the message, or of its current pass, has ended (R226). -/
  begun : Bool := false
  pass : Pass := .single
  /-- An AEAD decryption under R173 to R175. -/
  hold : Bool := false
  /-- Pages of the home eight's hold area reserved for it (R173). -/
  holdPages : Nat := 0
  /-- Completes with BLOCK_FAULT at its next scheduling (R268). -/
  fault : Bool := false
  /-- Input bytes of the message consumed in the current pass; of the current part. -/
  done : Nat := 0
  partDone : Nat := 0
  partLen : Nat := 0
  /-- The 32-word message context handed over at END (R185). -/
  ctx : List Word := []
  /-- The context lies in a cache entry, or in a spill frame. -/
  resident : Bool := false
  entries : Nat := 0
  frame : Option Nat := none
  /-- A stroke is in execution or loaded. -/
  running : Bool := false
  /-- The cached context is marked poisoned (R456). -/
  poison : Bool := false
  /-- Digest message bytes so far (the cell's running state). -/
  absorbed : List Byte := []
  /-- The key under which a digest message began: its keyed midstate (R234). -/
  dkey : List Byte := []
  /-- IV, produced tag, verdict of the TCMPs so far (R196). -/
  iv : List Byte := []
  drewNonce : Bool := false
  /-- The counter block of all ones has been delivered: no further block is available (R171, R199). -/
  cbgFull : Bool := false
  /-- TAG as read from IVT_ADDR offset 64 (R112). -/
  tagIn : Word := 0
  tagOut : Option Word := none
  tcmpSeen : Bool := false
  tcmpOk : Bool := true
  /-- Plaintext held until the tag has matched (R173). -/
  held : List Byte := []
  /-- Bytes written to OUT by this request, in stream order. -/
  written : Nat := 0
  /-- Cells that have faulted in the current unit of work, which now runs for the second time (R12, R167). -/
  faults : List Nat := []
  /-- Segments run; busy nanoseconds of the request. -/
  segments : Nat := 0
  /-- Bytes of yield state that a PKE job keeps in its frame (R251, R266). -/
  yield : Nat := 0
  /-- Operand slots 0 to 5 of a PKE job (R251, R254). -/
  ops : SMap (Option Operand) := []
  busyNs : Nat := 0
  deriving DecidableEq, Repr

/-- A spill frame in use (R146): the job whose blob lies there, and SEQ and BLOB_CTR expected. -/
structure Frame where
  job : Nat
  /-- Index of the blob within the state (R149). -/
  part : Nat := 0
  seq : Nat
  blobCtr : Nat
  deriving DecidableEq, Repr

/-- The Marshal (R133 to R154). -/
structure Msh where
  strokeLog : BitVec 5 := 0x0E
  spillCnt : W64 := 0
  fillCnt : W64 := 0
  blobCtr : Nat := 0
  weightSel : BitVec 12 := 0
  /-- Deficit-round-robin credit of each domain, per scheduler (R138). -/
  creditEight : SMap Int := []
  creditQuad : SMap Int := []
  creditPair : SMap Int := []
  /-- The turns of the channels of one class (R141): by scheduler and channel, the number of its last start; starts so far. -/
  turns : SMap Nat := []
  starts : Nat := 0
  /-- Jobs whose context waits for a cache entry, oldest first (R145, R148). -/
  entryWait : List Nat := []
  /-- Least recently used first: the jobs with resident contexts (R145). -/
  lru : List Nat := []
  /-- Spill frames in use, keyed by function * 2^24 + frame. -/
  frames : SMap (Option Frame) := []
  /-- The message of the blob each channel saved last (R152), as the restored blob brings it back; by channel key. -/
  saved : SMap (Option Job) := []
  deriving DecidableEq, Repr

/-! ### Traern cores, eights and program store (R155 to R222) -/

/-- A pending FLD: its destination, a special operand by its index (R188) or a bank and address; value, and instructions left
(R203). -/
structure PendFld where
  special : Option Nat
  bank : Nat
  addr : Nat
  val : Word
  left : Nat
  /-- Address of the FLD, for EPC of an exception at its landing (R212). -/
  pc : BitVec 30 := 0
  /-- The data access was refused: its bank and short address, for the exception 0x06 when it lands (R212). -/
  refused : Option Nat := none
  deriving DecidableEq, Repr

/-- A pending seat or field-unit result (R204). -/
structure PendRes where
  bank : Nat
  addr : Nat
  val : Word
  deriving DecidableEq, Repr

/-- The registers of a core or a stroke slot (R183, R211). -/
structure Regs where
  /-- P0 to P15, as 16 pointer registers of 18 bits. -/
  p : Vector (BitVec 18) 16 := Vector.replicate 16 0
  pc : BitVec 18 := 0
  pbk : BitVec 12 := 0
  dbk : BitVec 12 := 0
  sl : BitVec 18 := 0
  ldepth : BitVec 2 := 0
  ls : Vector (BitVec 30) 3 := Vector.replicate 3 0
  le : Vector (BitVec 30) 3 := Vector.replicate 3 0
  lc : Vector W32 3 := Vector.replicate 3 0
  fld : List PendFld := []
  res : List PendRes := []
  deriving DecidableEq, Repr

/-- One stroke slot of a cox (R181). -/
structure Slot where
  /-- The job whose stroke runs here; none: free. -/
  job : Option Nat := none
  /-- END has been executed (or the stroke failed); STROKE_END takes the result. -/
  ended : Bool := false
  regs : Regs := {}
  /-- Data window words 0x000 to 0x3FF. -/
  win : SMap Word := []
  cbgCfg : BitVec 2 := 0
  cbg : Word := 0
  cbgRefused : Bool := false
  /-- The counter block of all ones has been delivered (R171). -/
  cbgFull : Bool := false
  inData : List Byte := []
  aadData : List Byte := []
  inLeft : Nat := 0
  outLeft : Nat := 0
  aadLeft : Nat := 0
  ivLen : BitVec 8 := 0
  tagLen : BitVec 8 := 0
  param : W32 := 0
  msgFlags : BitVec 4 := 0
  done : W64 := 0
  tagIn : Word := 0
  tagOut : Option Word := none
  outBuf : List Byte := []
  tcmpSeen : Bool := false
  tcmpOk : Bool := true
  /-- The context that END has handed over, the stroke's own once it ends (R185). -/
  ctxOut : List Word := []
  /-- K0 and K1 schedules bound (R224): the key bytes. -/
  k0 : Option (List Byte) := none
  k1 : Option (List Byte) := none
  instrs : Nat := 0
  seatOps : Nat := 0
  /-- The dummy-round level in force, and the SCA level of the key (R160). -/
  dummyLevel : BitVec 2 := 2
  sca : Nat := 0
  /-- Dummy round-steps run, and whether the last block took the masked path (R158, R162). -/
  dummySteps : Nat := 0
  masked : Bool := false
  bytes : Nat := 0
  deriving DecidableEq, Repr

/-- One eight (R155 to R179). -/
structure Eight where
  dummyLevel : BitVec 2 := 2
  maskForce : Bool := false
  cadence : W32 := 0
  cadenceNorm : W32 := 0
  isolated : BitVec 8 := 0
  /-- Tick of the last fault of each seat (R13). -/
  lastFault : SMap (Option Nat) := []
  /-- Cached schedules, least recently used first: twice the ledger slot, plus 1 for the second of an XTS key (R157). -/
  keyCache : List Nat := []
  holdPages : Nat := 0
  blocks : W64 := 0
  alarmSlot : BitVec 16 := 0
  alarmValid : Bool := false
  slots : SMap Slot := []
  deriving DecidableEq, Repr

/-- A loaded mode program (R218). -/
structure Prog where
  id : BitVec 16
  version : W32
  svn : BitVec 8
  flags : BitVec 8
  keys : BitVec 8
  usage : BitVec 8
  ivMin : Nat
  ivMax : Nat
  tagMin : Nat
  tagMax : Nat
  outRule : Nat
  inAlign : Nat
  inMin : Nat
  inMax : Nat
  tagSet : BitVec 16
  lenRule : Nat
  code : List (BitVec 36)
  consts : List Word
  /-- SHA3-512 of the whole image, which each load measures (R221). -/
  digest : List Byte := []
  /-- The ID selects this slot for new admissions (R222). -/
  selected : Bool := true
  deriving DecidableEq, Repr

/-! ### Digest quads and measurement registers (R229 to R247) -/
structure Quad where
  isolated : BitVec 4 := 0
  busy : BitVec 4 := 0
  direct : BitVec 4 := 0
  lastFault : SMap (Option Nat) := []
  /-- Cells to be isolated at the end of the unit of work they hold (R13). -/
  pendIso : BitVec 4 := 0
  /-- The direct job runs for the second time after a fault of its cell (R12). -/
  dirFault : Bool := false
  bytes : W64 := 0
  dirAlg : BitVec 8 := 0
  dirMreg : BitVec 6 := 0
  dirExtend : Bool := false
  dirXof : BitVec 7 := 0
  dirBusy : Bool := false
  dirDone : Bool := false
  dirError : Bool := false
  dirCode : BitVec 8 := 0
  dirSrc : BitVec 30 := 0
  dirPort : BitVec 2 := 0
  dirFaddr : W32 := 0
  dirLen : W64 := 0
  dirKey : W32 := 0
  dirOut : List Byte := []
  deriving DecidableEq, Repr

/-- One measurement register (R238). -/
structure Meas where
  val : List Byte := List.replicate 64 0
  cnt : W64 := 0
  acl : W64 := 0
  deriving DecidableEq, Repr

/-! ### PKE slices (R248 to R271) -/

/-- The owner a slice is bound to (R252). -/
inductive Owner where
  | umpire
  | domain (d : Nat)
  deriving DecidableEq, Repr

/-- A word of the MAC-mode array (R270). -/
structure MacWord where
  val : BitVec 256 := 0
  taint : Bool := false
  deriving DecidableEq, Repr

/-- One PKE slice. -/
structure Slice where
  /-- PKE_CFG.MODE as written, and the mode in force: true is MAC mode. -/
  mode : Bool := false
  modeActive : Bool := false
  /-- MAC_OWNER: true is PF. -/
  macOwnerPf : Bool := false
  busy : Bool := false
  isolated : Bool := false
  lastFault : Option Nat := none
  /-- To be isolated at the end of the unit of work it holds (R13). -/
  pendIso : Bool := false
  /-- Key area: the key material of the running job (R251). -/
  keyArea : List Byte := []
  bound : Option Owner := none
  /-- Jobs in frames 0 to 3, least recently run first, at most four (R251, R252). -/
  frames : List Nat := []
  running : Option Nat := none
  jobs : W64 := 0
  busyNs : W64 := 0
  wipes : W32 := 0
  acc : BitVec 1024 := 0
  accTaint : Bool := false
  macError : Bool := false
  macCause : BitVec 4 := 0
  macKey : W32 := 0
  macData : BitVec 256 := 0
  w : SMap MacWord := []
  deriving DecidableEq, Repr

/-! ### Key ledger and domains (R273 to R300) -/

/-- The condition of a ledger slot (R292, R296). -/
inductive SlotState where
  | free
  | valid
  | retiring
  | orphaned
  | failed
  deriving DecidableEq, Repr

/-- One ledger slot (R277). ICODE is a function of these fields and of the integrity key (R282). -/
structure KSlot where
  state : SlotState := .free
  material : List Byte := []
  alg : BitVec 8 := 0
  usage : BitVec 8 := 0
  attr : BitVec 8 := 0
  life : BitVec 8 := 0
  domain : BitVec 12 := 0
  parent : BitVec 16 := 0
  keyLen : BitVec 8 := 0
  run : BitVec 8 := 0
  fixed : W32 := 0
  counter : W64 := 0
  /-- A DESTROY or DESTROY_DOMAIN waits for the drain: its request, or the admin queue's function. -/
  drain : Option Drain := none
  /-- The drain limit has been met and the completion written (R296 step 2). -/
  drained : Bool := false
  /-- An integrity failure has met the slot while it was retiring (R297). -/
  broken : Bool := false
  deriving DecidableEq, Repr

/-- KLG page fields and ledger-wide state. -/
structure Klg where
  clearWriteEn : Bool := false
  debugRoot : Bool := false
  rootsReady : Bool := false
  failSlot : Option (BitVec 16) := none
  svcId : W64 := 0
  quotaSel : BitVec 12 := 0
  /-- KLG_QUOTA values written and not yet copied into the domain table (R287), by domain. -/
  quotaNew : SMap (Option (BitVec 17)) := []
  invalidations : W64 := 0
  /-- Slots freed, least recently freed first, since the last reset (R276). -/
  freed : List Nat := []
  /-- Times (ticks) of the alarm reports naming each slot (R168). -/
  alarms : List (Nat × Nat) := []
  /-- Ledger integrity key (R282), drawn from the TRNG. -/
  integrityKey : BitVec 256 := 0
  /-- Debug root while service-root derivation is blocked (R288). -/
  debugRootVal : BitVec 512 := 0
  deriving DecidableEq, Repr

/-- A record of the domain table (R287). -/
structure Domain where
  salt : List Byte
  weight : BitVec 8 := 16
  quota : BitVec 17 := 0
  /-- DESTROY_DOMAIN has completed and the root slot is still retiring (R94). -/
  ending : Bool := false
  deriving DecidableEq, Repr
/-! ### Metering heats (R443 to R453) -/

/-- A metering record of a domain or a channel: 32 counters by index, and its flags (R443, R448). -/
structure Rec where
  cnt : SMap Nat := []
  /-- Channel handle and ACCOUNT; zero in a domain's record. -/
  handle : W32 := 0
  account : W32 := 0
  fn : Nat := 0
  /-- The domain of the channel's function, and the salt of a domain's record (R443, R450). -/
  dom : Option Nat := none
  salt : List Byte := []
  destroyed : Bool := false
  created : Bool := false
  deriving DecidableEq, Repr

/-- A snapshot bank or the live counters. -/
structure Bank where
  heat : BitVec 48 := 0
  cause : BitVec 4 := 0
  ready : Bool := false
  /-- By domain, and by handle-distinct channel record. -/
  domains : SMap (Option Rec) := []
  channels : List Rec := []
  openTicks : Nat := 0
  closeTicks : Nat := 0
  epoch : W32 := 0
  aodCold : Bool := false
  maskFallback : Bool := false
  deriving DecidableEq, Repr

/-- The HEAT page and the metering unit. -/
structure Heat where
  periodS : BitVec 16 := 0x3C
  outAll : Bool := false
  inEn : Bool := false
  fallback : Bool := false
  inTimeoutS : BitVec 8 := 0x78
  snapIndex : BitVec 16 := 0
  snapFn : BitVec 8 := 0
  snapKind : Bool := false
  snapSrc : BitVec 2 := 0
  rptBase : W64 := 0
  rptKib : W32 := 0
  rptTail : W32 := 0
  rptHead : W32 := 0
  bankA : Bank := {}
  bankB : Bank := {}
  live : Bank := {}
  /-- Tick of the last close token, of the last accepted HEAT_IN edge or IN_EN set (R447). -/
  lastClose : Nat := 0
  lastIn : Nat := 0
  inTimedOut : Bool := false
  /-- Causes of a held close (R446). -/
  heldCause : BitVec 4 := 0
  /-- Reports still to be written: (heat, domain), and domains whose report was lost (R451). -/
  due : List (BitVec 48 × Nat) := []
  prevLost : List Nat := []
  /-- The Umpire's copy of the values closed by a RESET (R23). -/
  resetCopy : Option Bank := none
  deriving DecidableEq, Repr

/-! ### Always-on domain and OTP (R20, R66, R383, R384, R408 to R418, R436) -/

/-- A tamper-log record (R408); CRC is computed when it is read. -/
structure TRec where
  seq : BitVec 48
  ticks : BitVec 48
  source : BitVec 8
  flags : BitVec 8
  mode : BitVec 8
  regions : BitVec 8
  index : BitVec 16
  value : BitVec 16
  bootCnt : W32
  deriving DecidableEq, Repr

/-- The watchdog evidence page (R436). -/
structure Evidence where
  pc : BitVec 30 := 0
  svc : BitVec 48 := 0
  missing : BitVec 16 := 0
  double : BitVec 16 := 0
  cause : BitVec 4 := 0
  late : Bool := false
  trial : Bool := false
  repechage : BitVec 3 := 0
  limit : BitVec 3 := 3
  safeHold : Bool := false
  time : BitVec 48 := 0
  total : W32 := 0
  deriving DecidableEq, Repr

/-- The always-on domain. -/
structure Aod where
  rtc : BitVec 48 := 0
  /-- Main power is absent: the AOD runs from the cell. -/
  onCell : Bool := true
  /-- The contents were lost; the next start finds the AOD cold (R413). -/
  lost : Bool := true
  log : SMap (Option TRec) := []
  head : BitVec 8 := 0
  logLost : W32 := 0
  seqNext : BitVec 48 := 1
  exportSeq : BitVec 48 := 1
  quar : BitVec 4 := 0
  deferQuar : BitVec 4 := 0
  pending : Bool := false
  /-- SEQ of the first deferred record, and whether a deferred class A record exists (R412). -/
  deferSeq : Option (BitVec 48) := none
  deferA : Bool := false
  serviceRoot : Option (BitVec 512) := none
  challenge : Option (BitVec 256) := none
  /-- Bits [23:0] of LCS_BOOT_CNT. -/
  bootLow : BitVec 24 := 0
  prefSlotB : Bool := false
  prefManifestB : Bool := false
  trial : Bool := false
  epoch : W32 := 0
  heatNo : BitVec 48 := 1
  ev : Evidence := {}
  /-- ROM recovery verdict of slots A and B (R307). -/
  romVerdict : BitVec 8 × BitVec 8 := (0, 0)
  xtalRunning : Bool := false
  deriving DecidableEq, Repr

/-- A hash slot (R391): the hash and whether VALID is complete. -/
structure HashSlot where
  hash : List Byte
  valid : Bool
  deriving DecidableEq, Repr

/-- A monitor configuration slot (R406). -/
structure MonCfg where
  cls : W32
  region : W64
  valid : Bool
  deriving DecidableEq, Repr

/-- The OTP (R219, R306, R308, R381, R383, R391, R406, R407, R429). -/
structure Otp where
  /-- Transition pairs used so far: INTENT and DONE words, in order (R381). -/
  pairs : List (W64 × W64) := []
  coldCounter : Nat := 0
  identityRoot : Option (BitVec 512) := none
  /-- Anti-rollback counter values by index (R308). -/
  counters : SMap Nat := []
  /-- Revocation fuses of the Doloth firmware key hashes 0 and 1 (R306). -/
  fwRevoked : BitVec 2 := 0
  owner : List HashSlot := []
  platform : List HashSlot := []
  program : List HashSlot := []
  mon : List MonCfg := []
  disable : BitVec 14 := 0
  wdgWin : Option (BitVec 2) := none
  wdgRep : Option (BitVec 3) := none
  deriving DecidableEq, Repr

/-! ### Watchdog, tamper page, ERG, FGT, PSQ, CCI, LCS, DBG, BST, RNG -/
structure Wdg where
  clkRc : Bool := false
  periodMs : BitVec 16 := 0x0FA0
  taskMask : BitVec 16 := 0
  seen : BitVec 16 := 0
  double : BitVec 16 := 0
  windowOpen : Bool := false
  armed : Bool := false
  keyFaults : BitVec 2 := 0
  frozen : Bool := false
  xtalOk : Bool := true
  rcOk : Bool := true
  /-- Ticks elapsed in the period, and the period and mask in force for it (R429, R431). -/
  elapsed : Nat := 0
  curMs : BitVec 16 := 0x0FA0
  curMask : BitVec 16 := 0
  /-- A service of this period was refused (R431). -/
  refused : Bool := false
  /-- Consecutive-expiry count c (R434). -/
  consec : Nat := 0
  deriving DecidableEq, Repr

structure Tmp where
  cls : W32 := 0x4EABBFFD
  region : W64 := 0x00FFFFFFF0000FF0
  respA : Bool := false
  respB : Bool := false
  /-- TAMPER_N is driven low, and its minimum low time has not ended (R403). -/
  tamperLow : Bool := false
  holdMin : Bool := false
  relWritten : Bool := false
  timeApprox : Bool := false
  cntA : BitVec 16 := 0
  cntB : BitVec 16 := 0
  cntC : BitVec 16 := 0
  testSource : BitVec 4 := 0
  testIndex : BitVec 6 := 0
  testBusy : Bool := false
  testPass : Bool := false
  testFail : Bool := false
  testDenied : Bool := false
  /-- Conditions that persist: (source, index) (R410). -/
  persist : List (Nat × Nat) := []
  /-- Tick of the last class C entry of each source (R410). -/
  lastC : SMap (Option Nat) := []
  /-- A rail below its UV threshold awaiting classification: rail, tick (R400). -/
  uvPending : List (Nat × Nat) := []
  deriving DecidableEq, Repr

structure Erg where
  avsEn : Bool := true
  setMv : BitVec 10 := 750
  worst : BitVec 16 := 0
  worstChain : BitVec 6 := 0
  proj : BitVec 16 := 0xFFFF
  hours : W32 := 0
  last : BitVec 48 := 0
  sel : BitVec 6 := 0
  now : SMap (BitVec 16) := []
  t0 : SMap (BitVec 16) := []
  measuring : Bool := false
  /-- Tick since which q > 1.03 (R439), and tick of the last step. -/
  highSince : Option Nat := none
  lastStep : Option Nat := none
  deriving DecidableEq, Repr

/-- A flash-gate log entry (R341). -/
structure FLog where
  addr : W32
  opcode : BitVec 8
  port : Bool
  rule : BitVec 8
  outcome : BitVec 2
  ticks : BitVec 48
  deriving DecidableEq, Repr

/-- A flash-gate rule: four dwords (R329). -/
structure Rule where
  d0 : W32 := 0
  base : W32 := 0
  limit : W32 := 0
  delta : W32 := 0
  deriving DecidableEq, Repr

/-- One upstream port (R324, R327, R328). -/
structure UPort where
  en : Bool := false
  /-- A write of 1 to its enable waits for a running Umpire write (R336). -/
  enDeferred : Bool := false
  held : Bool := false
  addr4 : Bool := false
  profile : BitVec 8 := 3
  /-- Downstream ID bytes, SFDP image, and 4 KiB erase sizes by opcode from the SFDP (R326, R331). -/
  idBytes : List Byte := []
  sfdp : List Byte := []
  eraseSize : SMap Nat := []
  density : Nat := 0
  /-- The modes of the part that the profiles need (R325, R326). -/
  modes : BitVec 8 := 0
  /-- An Umpire program or erase runs on the downstream port (R336). -/
  umpireOp : Bool := false
  deriving DecidableEq, Repr

structure Fgt where
  u0 : UPort := {}
  u1 : UPort := {}
  liveBank : Bool := false
  swapPending : Bool := false
  latched : Bool := false
  frozen : Bool := false
  policyValid : Bool := false
  policySlot : Bool := false
  policyCode : BitVec 4 := 7
  ruleSel : BitVec 8 := 0
  ruleLive : Bool := false
  live : SMap Rule := []
  shadow : SMap Rule := []
  latchedSet : SMap Rule := []
  log : List FLog := []
  lost : BitVec 16 := 0
  deny0 : W64 := 0
  deny1 : W64 := 0
  unknown : W64 := 0
  deriving DecidableEq, Repr

/-- A manifest image entry (R312). -/
structure Entry where
  port : BitVec 8
  group : BitVec 8
  mreg : BitVec 8
  counter : BitVec 8
  svn : BitVec 8
  flags : BitVec 8
  addr : W32
  altAddr : W32
  len : W32
  digest : List Byte
  deriving DecidableEq, Repr

/-- A power step (R313). -/
structure PStep where
  pwr : BitVec 8
  pgood : BitVec 8
  phase : BitVec 8
  delayMs : BitVec 16
  timeoutMs : BitVec 16
  deriving DecidableEq, Repr

/-- An accepted platform manifest (R311). -/
structure Manifest where
  svn : BitVec 8
  version : W32
  flags : W32
  minSvn : List Byte
  hostPrst : BitVec 8
  bmcPrst : BitVec 8
  steps : List PStep
  entries : List Entry
  digest : List Byte
  deriving DecidableEq, Repr

/-- The outcome of an entry's verification: which copy verified (R316). -/
inductive EntryState where
  | untried
  | copyA
  | copyB
  | failed
  deriving DecidableEq, Repr

/-- A group's progress through release (R318, R319, R356). -/
inductive GroupState where
  | held
  | released
  | recovery
  | off
  deriving DecidableEq, Repr

/-- An accepted gate policy (R333). -/
structure Policy where
  u0 : BitVec 8
  u1 : BitVec 8
  rules : List Rule
  deriving DecidableEq, Repr

/-- A recovery attempt of a group (R357 to R359): the source, the objects it offers, and whether its images are written. -/
structure Recov where
  /-- 1 golden, 2 PLDM, 3 card. -/
  src : Nat
  man : Option Manifest := none
  manRaw : List Byte := []
  policy : Option Policy := none
  polRaw : List Byte := []
  /-- Entries whose image has been written. -/
  written : List Nat := []
  deriving DecidableEq, Repr

/-- The platform sequencer: its page, and the progress of secure boot behind it. -/
structure Psq where
  prst : BitVec 8 := 0
  pwr : BitVec 8 := 0
  level : BitVec 8 := 0
  watch : BitVec 8 := 0
  umpSlotB : Bool := false
  manSlotB : Bool := false
  code : BitVec 8 := 0
  entry : BitVec 5 := 0
  tHost : W32 := 0
  tBmc : W32 := 0
  manifest : Option Manifest := none
  /-- The manifest in effect for a group, 0 host and 1 BMC, where it is not `manifest` (R359, R361). -/
  gman : SMap (Option Manifest) := []
  /-- The gate policy in effect for a group; none: the default (R334). -/
  policy : SMap (Option Policy) := []
  /-- Recovery attempt in progress per group. -/
  recover : SMap (Option Recov) := []
  /-- Sources that a group's recovery may take: 0 every one, else the only one, numbered as `source` is (R356, R423). -/
  only : SMap Nat := []
  /-- Outcome of each entry, by group * 32 + its index, and the entry being verified with its copy (B: true). -/
  entries : SMap EntryState := []
  verifying : Option (Nat × Bool) := none
  host : GroupState := .held
  bmc : GroupState := .held
  /-- The step waited for in each phase: index and whether its PGOOD has risen (R313). -/
  stepAt : SMap (Option (Nat × Bool)) := []
  /-- Phases whose steps have all completed. -/
  phaseDone : BitVec 3 := 0
  /-- Phases retried once after a timeout; tick of the last PGOOD loss per group (R319). -/
  retried : BitVec 3 := 0
  lostAt : SMap (Option Nat) := []
  /-- Retry timers that run: 0 host, 1 BMC, 2 phase 0 (R319). -/
  retryTimer : BitVec 3 := 0
  /-- Tick of the start of the power-good chain (R314). -/
  t0 : Nat := 0
  /-- The tick from which the 600 s of R309 run: every group has been released, and no expiry or recovery has come since. -/
  fullRelease : Option Nat := none
  /-- The run follows watchdog step 2 (R320). -/
  afterStep2 : Bool := false
  /-- Recovery source in use per group: 1 golden, 2 PLDM, 3 card (R357). -/
  source : SMap Nat := []
  deriving DecidableEq, Repr

/-- State of the inserted custody card as the device last read it (R365, R366). -/
structure Card where
  present : Bool := false
  state : BitVec 4 := 0
  ready : Bool := false
  tempWp : Bool := false
  permWp : Bool := false
  record : Bool := false
  /-- The held record is known to carry the pending ID, CCI_TXN.ID: the device's own transaction has ended, or JOURNAL_QUERY of that ID has
  found it (R374). -/
  ours : Bool := false
  modes : BitVec 8 := 0
  clkMhz : BitVec 8 := 0
  blocks : BitVec 24 := 0
  serial : W32 := 0
  /-- Start-up mode limit after a failed 1.8 V confirmation (R370). -/
  maxMode : BitVec 2 := 2
  mode : BitVec 2 := 0
  pattern : BitVec 8 := 0
  confirmed : Bool := false
  /-- Transaction open on the link: blocks still to be written (R366). -/
  txnLeft : Option Nat := none
  lastCmd : BitVec 6 := 0
  retriedCmd : Bool := false
  /-- The JOURNAL_QUERY in progress resolves the card's state after a lost response; READ_WP is to follow (R371). -/
  resolving : Bool := false
  /-- The volume header, the directory blocks by their position, and the object being read: its first block and bytes (R375,
  R376). -/
  hdr : List Byte := []
  dir : SMap (List Byte) := []
  obj : Option (Nat × List Byte) := none
  /-- JOURNAL_QUERY has given the outcome of an UNKNOWN transaction since this insertion (R373, R378). -/
  resolved : Bool := false
  deriving DecidableEq, Repr

/-- An export to the card (R378): the tamper-log SEQ that the pointer moves to, if any; its transactions, each a first block and
its data, and those still to commit. -/
structure Export where
  upTo : Option (BitVec 48) := none
  all : List (Nat × List Byte)
  left : List (Nat × List Byte)
  deriving DecidableEq, Repr

structure Cci where
  pwr : Bool := false
  vsel : Bool := false
  wide : Bool := false
  clk10k : BitVec 16 := 0x28
  index : BitVec 6 := 0
  long : Bool := false
  noResp : Bool := false
  read : Bool := false
  write : Bool := false
  busyWait : Bool := false
  arg : W32 := 0
  busy : Bool := false
  done : Bool := false
  respTo : Bool := false
  respCrc : Bool := false
  dataCrc : Bool := false
  busyTo : Bool := false
  det : Bool := false
  removed : Bool := false
  token : BitVec 3 := 0
  resp : BitVec 120 := 0
  buf : BitVec 30 := 0
  blocks : BitVec 9 := 0
  txnId : BitVec 16 := 0
  txnOutcome : BitVec 2 := 0
  txnOpen : Bool := false
  blkCnt : W64 := 0
  card : Card := {}
  /-- Exports in progress, oldest first (R378). -/
  exports : List Export := []
  /-- A card start-up is to be repeated in a lower mode (R370). -/
  again : Bool := false
  deriving DecidableEq, Repr

structure Lcs where
  /-- State code (R380); 1 MAKER. -/
  state : BitVec 4 := 1
  incomplete : Bool := false
  invalid : Bool := false
  resultCode : BitVec 8 := 0
  resultKind : BitVec 3 := 0
  resultValid : Bool := false
  /-- A transition in progress (R389): the new state, and the steps done: 0 accepted, 1 wiped, 2 INTENT blown, 3 DONE blown. -/
  trans : Option (Nat × Nat) := none
  /-- The challenge that an accepted request consumed, for the case that the transition is abandoned (R396). -/
  heldChal : Option (BitVec 256) := none
  deriving DecidableEq, Repr

/-- A debug grant (R385, R386). -/
structure Grant where
  rights : W32
  first : W32
  last : W32
  states : BitVec 8
  pairs : BitVec 8
  signer : BitVec 8
  digest : List Byte
  deriving DecidableEq, Repr

structure Dbg where
  rights : W32 := 0
  active : Bool := false
  implicit : Bool := false
  code : BitVec 8 := 0
  first : W32 := 0
  last : W32 := 0
  denyCnt : W32 := 0
  /-- Selected JTAG instruction; scan mode entered; core halted (R395, R432). -/
  ir : BitVec 8 := 0x01
  boundary : List Byte := []
  scan : Bool := false
  halted : Bool := false
  /-- Breakpoints of the Umpire core (R393). -/
  brk : List (BitVec 30) := []
  deriving DecidableEq, Repr

structure Bst where
  test : BitVec 4 := 0
  kind : BitVec 4 := 0
  inst : BitVec 8 := 0
  busy : Bool := false
  done : Bool := false
  cause : BitVec 4 := 0
  result : BitVec 8 := 0
  resultN : BitVec 8 := 0
  sig : W64 := 0
  sigExp : W64 := 0
  failAddr : BitVec 30 := 0
  runs : W32 := 0
  /-- Last result of each target, by kind * 256 + instance: PASS (R461). -/
  passed : List Nat := []
  deriving DecidableEq, Repr

structure Rng where
  /-- Start-up test passed since the last root-of-trust start. -/
  started : Bool := false
  stopped : Bool := false
  /-- Ticks of the recent failures; three within 60 s lock the output (R459). -/
  fails : List Nat := []
  locked : Bool := false
  reseeds : Nat := 0
  deriving DecidableEq, Repr

/-! ### The Umpire (R419 to R427) -/

/-- An entry of the Umpire event log (R424). -/
structure Ev where
  ticks : BitVec 48
  page : BitVec 16
  code : BitVec 8
  flags : BitVec 8
  detail : BitVec 48
  deriving DecidableEq, Repr

/-- An SPDM session on a transport (R347 to R349). -/
structure Session where
  transport : Transport
  id : W32
  established : Bool
  /-- Key updates done (R348). -/
  updates : Nat := 0
  deriving DecidableEq, Repr

/-- What SPDM holds of a transport: the negotiation, a large message in either direction, a deferred answer (R347, R348). -/
structure Spdm where
  version : BitVec 8 := 0
  caps : Bool := false
  /-- Negotiated signing: ML-DSA-87 (true) or P-384; key exchange: ML-KEM-1024 (true) or secp384r1. -/
  mldsa : Option Bool := none
  mlkem : Bool := false
  /-- A large request in arrival: handle, next sequence number, bytes. -/
  chunk : Option (BitVec 8 × BitVec 16 × List Byte) := none
  /-- A large response to be fetched: handle, bytes. -/
  large : Option (BitVec 8 × List Byte) := none
  nextHandle : BitVec 8 := 0
  /-- GET_MEASUREMENTS deferred with ResponseNotReady (R351): token, index, signature asked, nonce. -/
  waiting : Option (BitVec 8 × BitVec 8 × Bool × List Byte) := none
  nextToken : BitVec 8 := 0
  /-- Signed responses that wait until the identity keys are present again (R299, R355). -/
  held : List (List Byte) := []
  deriving DecidableEq, Repr

/-- PLDM monitoring (R425). -/
structure Mon where
  /-- The registered event receiver of each transport. -/
  receiver : SMap (Option (BitVec 8)) := []
  /-- Numeric sensors that SetNumericSensorEnable has disabled. -/
  disabled : List Nat := []
  /-- Threshold level of each diode: 0 normal, 1 warning, 2 critical, 3 fatal. -/
  level : SMap Nat := []
  /-- State sensors as last reported. -/
  reported : SMap Nat := []
  deriving DecidableEq, Repr

/-- A PLDM Type 5 update in progress (R426). -/
structure Pldm5 where
  /-- Transport of the update agent, as the answers name it. -/
  t : Nat := 0
  /-- 0 idle, 1 learn components, 2 ready transfer, 3 download, 4 verify, 5 apply, 6 activate. -/
  phase : BitVec 4 := 0
  comp : BitVec 16 := 0
  param : BitVec 16 := 0
  passed : List (BitVec 16) := []
  data : List Byte := []
  size : Nat := 0
  result : BitVec 8 := 0
  applied : List (BitVec 16) := []
  /-- A manifest and a policy checked and not yet written together (R337). -/
  man : List Byte := []
  pol : List Byte := []
  deriving DecidableEq, Repr

/-- The Umpire core, its page, its SRAM and what its firmware holds. -/
structure Ump where
  /-- P15 starts at 0, PBK at the boot ROM's bank (R183). -/
  regs : Regs := { pbk := 0x010 }
  evb : BitVec 30 := 0x400000
  epc : BitVec 30 := 0
  cause : BitVec 8 := 0
  eaddr : BitVec 30 := 0
  ien : W32 := 0
  ie : Bool := false
  pie : Bool := false
  scratch : Word := 0
  waiting : Bool := false
  halted : Bool := false
  sram : SMap Word := []
  /-- Fetch image of words whose store awaits the next control transfer (R184). -/
  stale : SMap (Option Word) := []
  /-- SRAM words marked poisoned (R456). -/
  poison : List Nat := []
  aliveEn : Bool := false
  /-- Tick at which the heartbeat renewal ends (R420); UMP_ALIVE toggles while it runs. -/
  kickUntil : Option Nat := none
  timerUs : W32 := 0
  timerRunning : Bool := false
  timerExpired : Bool := false
  fwSlotB : Bool := false
  fwSvn : BitVec 8 := 0
  fwCommit : Bool := false
  fwVersion : W32 := 0
  /-- The image digest extended into register 2 at the last root-of-trust start (R304, R434). -/
  fwDigest : List Byte := []
  running : Bool := false
  romRecovery : Bool := false
  events : List Ev := []
  /-- Copy of the event log on D2 (R424). -/
  eventCopy : List Ev := []
  /-- Management responses that wait for a signature by a key of slots 1 to 5 (R299, R422). -/
  held : List OutEvent := []
  /-- The compound device identifier the KDF has latched (R343). -/
  cdi : Option (List Byte) := none
  i3cDynamic : Bool := false
  i3cAddr : BitVec 7 := 0x2E
  deriving DecidableEq, Repr

/-- What the boot flash D2 and the firmware keep beside the manifest slots (R304, R346, R392). -/
structure Store where
  /-- Umpire image of slots A and B as last written: raw bytes. -/
  fwA : List Byte := []
  fwB : List Byte := []
  manA : List Byte := []
  manB : List Byte := []
  polA : List Byte := []
  polB : List Byte := []
  golden : List Byte := []
  /-- Certificate chains of SPDM slots 0 to 3. -/
  certs : SMap (List Byte) := []
  grant : Option Grant := none
  grantRaw : List Byte := []
  /-- Integrator program images of the program directory (R221). -/
  programs : List (List Byte) := []
  /-- Domain table copies A and B on D2: sequence number and records; none: invalid (R287). -/
  domA : Option (Nat × List (Nat × Domain)) := none
  domB : Option (Nat × List (Nat × Domain)) := none
  deriving DecidableEq, Repr

/-! ### The whole state -/

/-- The state of the block. -/
structure State where
  variant : Variant := .zk7160
  /-- Commands waiting, first in first out. -/
  pending : List Instr := []
  /-- What has left the device, oldest first. -/
  out : List OutEvent := []
  /-- The model's own counter behind the free values; not the spec's. -/
  freeCtr : Nat := 0
  /-- Page headers by page key. -/
  hdrs : SMap Hdr := []
  mirrors : SMap Mirror := []
  chip : Chip := {}
  pcie : Pcie := {}
  fns : SMap Fn := []
  /-- Channels by function * 65536 + local index; generations of every index; freed indices, oldest first (R96). -/
  chans : SMap (Option Chan) := []
  gens : SMap Nat := []
  chFreed : List Nat := []
  reqs : SMap (Option Req) := []
  nextReq : Nat := 0
  jobs : SMap (Option Job) := []
  nextJob : Nat := 0
  msh : Msh := {}
  eights : SMap Eight := []
  progs : SMap (Option Prog) := []
  quads : SMap Quad := []
  meas : SMap Meas := []
  slices : SMap Slice := []
  klg : Klg := {}
  kslots : SMap KSlot := []
  /-- Times each slot has been freed since its generation base (R275), and that base. -/
  kfrees : SMap Nat := []
  genBase : Nat := 1
  domains : SMap (Option Domain) := []
  heat : Heat := {}
  aod : Aod := {}
  otp : Otp := {}
  wdg : Wdg := {}
  tmp : Tmp := {}
  erg : Erg := {}
  fgt : Fgt := {}
  psq : Psq := {}
  cci : Cci := {}
  lcs : Lcs := {}
  dbg : Dbg := {}
  bst : Bst := {}
  rng : Rng := {}
  ump : Ump := {}
  sessions : List Session := []
  spdm : SMap Spdm := []
  mon : Mon := {}
  pldm : Pldm5 := {}
  store : Store := {}
  deriving DecidableEq, Repr

/-- The block right after reset: every field at the value the spec states, or at the one notes/assumptions/2.md names. -/
def State.reset : State := {}

/-- Reasons the block stops with a fault. No command of this block has one: the spec gives every command an effect. -/
inductive Fault where
  /-- Raised by nothing; the type must not be empty to be written in a run. Safe: no step answers it. -/
  | never
  deriving DecidableEq, Repr

/-- Reasons the block refuses a command. -/
inductive Refusal where
  /-- Raised by an arm of exec whose meaning has not been written. Safe: nothing follows from a refusal. -/
  | notModelled (mnemonic : String)
  deriving DecidableEq, Repr

/-- The outcome of a command. -/
abbrev Out := Host.Outcome State Fault Refusal

/-! One update per field of State; Laws/State.lean says of each that it changes that field alone. -/

/-- `s` with `variant` changed by `f`. -/
def State.onVariant (s : State) (f : Variant → Variant) : State := { s with variant := f s.variant }
/-- `s` with `pending` changed by `f`. -/
def State.onPending (s : State) (f : (List Instr) → List Instr) : State := { s with pending := f s.pending }
/-- `s` with `out` changed by `f`. -/
def State.onOut (s : State) (f : (List OutEvent) → List OutEvent) : State := { s with out := f s.out }
/-- `s` with `freeCtr` changed by `f`. -/
def State.onFreeCtr (s : State) (f : Nat → Nat) : State := { s with freeCtr := f s.freeCtr }
/-- `s` with `hdrs` changed by `f`. -/
def State.onHdrs (s : State) (f : (SMap Hdr) → SMap Hdr) : State := { s with hdrs := f s.hdrs }
/-- `s` with `mirrors` changed by `f`. -/
def State.onMirrors (s : State) (f : (SMap Mirror) → SMap Mirror) : State := { s with mirrors := f s.mirrors }
/-- `s` with `chip` changed by `f`. -/
def State.onChip (s : State) (f : Chip → Chip) : State := { s with chip := f s.chip }
/-- `s` with `pcie` changed by `f`. -/
def State.onPcie (s : State) (f : Pcie → Pcie) : State := { s with pcie := f s.pcie }
/-- `s` with `fns` changed by `f`. -/
def State.onFns (s : State) (f : (SMap Fn) → SMap Fn) : State := { s with fns := f s.fns }
/-- `s` with `chans` changed by `f`. -/
def State.onChans (s : State) (f : (SMap (Option Chan)) → SMap (Option Chan)) : State := { s with chans := f s.chans }
/-- `s` with `gens` changed by `f`. -/
def State.onGens (s : State) (f : (SMap Nat) → SMap Nat) : State := { s with gens := f s.gens }
/-- `s` with `chFreed` changed by `f`. -/
def State.onChFreed (s : State) (f : (List Nat) → List Nat) : State := { s with chFreed := f s.chFreed }
/-- `s` with `reqs` changed by `f`. -/
def State.onReqs (s : State) (f : (SMap (Option Req)) → SMap (Option Req)) : State := { s with reqs := f s.reqs }
/-- `s` with `nextReq` changed by `f`. -/
def State.onNextReq (s : State) (f : Nat → Nat) : State := { s with nextReq := f s.nextReq }
/-- `s` with `jobs` changed by `f`. -/
def State.onJobs (s : State) (f : (SMap (Option Job)) → SMap (Option Job)) : State := { s with jobs := f s.jobs }
/-- `s` with `nextJob` changed by `f`. -/
def State.onNextJob (s : State) (f : Nat → Nat) : State := { s with nextJob := f s.nextJob }
/-- `s` with `msh` changed by `f`. -/
def State.onMsh (s : State) (f : Msh → Msh) : State := { s with msh := f s.msh }
/-- `s` with `eights` changed by `f`. -/
def State.onEights (s : State) (f : (SMap Eight) → SMap Eight) : State := { s with eights := f s.eights }
/-- `s` with `progs` changed by `f`. -/
def State.onProgs (s : State) (f : (SMap (Option Prog)) → SMap (Option Prog)) : State := { s with progs := f s.progs }
/-- `s` with `quads` changed by `f`. -/
def State.onQuads (s : State) (f : (SMap Quad) → SMap Quad) : State := { s with quads := f s.quads }
/-- `s` with `meas` changed by `f`. -/
def State.onMeas (s : State) (f : (SMap Meas) → SMap Meas) : State := { s with meas := f s.meas }
/-- `s` with `slices` changed by `f`. -/
def State.onSlices (s : State) (f : (SMap Slice) → SMap Slice) : State := { s with slices := f s.slices }
/-- `s` with `klg` changed by `f`. -/
def State.onKlg (s : State) (f : Klg → Klg) : State := { s with klg := f s.klg }
/-- `s` with `kslots` changed by `f`. -/
def State.onKslots (s : State) (f : (SMap KSlot) → SMap KSlot) : State := { s with kslots := f s.kslots }
/-- `s` with `kfrees` changed by `f`. -/
def State.onKfrees (s : State) (f : (SMap Nat) → SMap Nat) : State := { s with kfrees := f s.kfrees }
/-- `s` with `genBase` changed by `f`. -/
def State.onGenBase (s : State) (f : Nat → Nat) : State := { s with genBase := f s.genBase }
/-- `s` with `domains` changed by `f`. -/
def State.onDomains (s : State) (f : (SMap (Option Domain)) → SMap (Option Domain)) : State := { s with domains := f s.domains }
/-- `s` with `heat` changed by `f`. -/
def State.onHeat (s : State) (f : Heat → Heat) : State := { s with heat := f s.heat }
/-- `s` with `aod` changed by `f`. -/
def State.onAod (s : State) (f : Aod → Aod) : State := { s with aod := f s.aod }
/-- `s` with `otp` changed by `f`. -/
def State.onOtp (s : State) (f : Otp → Otp) : State := { s with otp := f s.otp }
/-- `s` with `wdg` changed by `f`. -/
def State.onWdg (s : State) (f : Wdg → Wdg) : State := { s with wdg := f s.wdg }
/-- `s` with `tmp` changed by `f`. -/
def State.onTmp (s : State) (f : Tmp → Tmp) : State := { s with tmp := f s.tmp }
/-- `s` with `erg` changed by `f`. -/
def State.onErg (s : State) (f : Erg → Erg) : State := { s with erg := f s.erg }
/-- `s` with `fgt` changed by `f`. -/
def State.onFgt (s : State) (f : Fgt → Fgt) : State := { s with fgt := f s.fgt }
/-- `s` with `psq` changed by `f`. -/
def State.onPsq (s : State) (f : Psq → Psq) : State := { s with psq := f s.psq }
/-- `s` with `cci` changed by `f`. -/
def State.onCci (s : State) (f : Cci → Cci) : State := { s with cci := f s.cci }
/-- `s` with `lcs` changed by `f`. -/
def State.onLcs (s : State) (f : Lcs → Lcs) : State := { s with lcs := f s.lcs }
/-- `s` with `dbg` changed by `f`. -/
def State.onDbg (s : State) (f : Dbg → Dbg) : State := { s with dbg := f s.dbg }
/-- `s` with `bst` changed by `f`. -/
def State.onBst (s : State) (f : Bst → Bst) : State := { s with bst := f s.bst }
/-- `s` with `rng` changed by `f`. -/
def State.onRng (s : State) (f : Rng → Rng) : State := { s with rng := f s.rng }
/-- `s` with `ump` changed by `f`. -/
def State.onUmp (s : State) (f : Ump → Ump) : State := { s with ump := f s.ump }
/-- `s` with `sessions` changed by `f`. -/
def State.onSessions (s : State) (f : (List Session) → List Session) : State := { s with sessions := f s.sessions }
/-- `s` with `spdm` changed by `f`. -/
def State.onSpdm (s : State) (f : (SMap Spdm) → SMap Spdm) : State := { s with spdm := f s.spdm }
/-- `s` with `mon` changed by `f`. -/
def State.onMon (s : State) (f : Mon → Mon) : State := { s with mon := f s.mon }
/-- `s` with `pldm` changed by `f`. -/
def State.onPldm (s : State) (f : Pldm5 → Pldm5) : State := { s with pldm := f s.pldm }
/-- `s` with `store` changed by `f`. -/
def State.onStore (s : State) (f : Store → Store) : State := { s with store := f s.store }

end Sys2Proof.Machine
end

