-- ==== Sys2Proof/Machine/Ops.lean ====
section
/-!
DEFINITION. The named operations every command is built from: reading and changing one indexed piece of state, sticky
status, error records and interrupts (R36 to R51, R67, R73), and what the variant fuses (R1, R19, R66).
-/

namespace Sys2Proof.Machine

/-! ### What the variant provides (R1, R19, R66) -/

/-- Number of regions. -/
def Variant.regions : Variant → Nat
  | .zk7160 => 4
  | .zk7140 => 2
  | .zk7120 => 1

/-- Number of eights. -/
def Variant.eights : Variant → Nat
  | .zk7160 => 12
  | .zk7140 => 6
  | .zk7120 => 2

/-- Number of VFs. -/
def Variant.vfs : Variant → Nat
  | .zk7160 => 255
  | .zk7140 => 127
  | .zk7120 => 15

/-- Ledger slots are 2 to this power. -/
def Variant.slotsLog : Variant → Nat
  | .zk7160 => 16
  | .zk7140 => 15
  | .zk7120 => 13

/-- Channels are 2 to this power. -/
def Variant.chLog : Variant → Nat
  | .zk7160 => 16
  | .zk7140 => 15
  | .zk7120 => 12

/-- Domains are 2 to this power. -/
def Variant.domLog : Variant → Nat
  | .zk7160 => 12
  | .zk7140 => 11
  | .zk7120 => 8

/-- The IDE link cipher and TDISP are present (R76). -/
def Variant.ide : Variant → Bool
  | .zk7120 => false
  | _ => true

/-- Maximum link width in lanes. -/
def Variant.lanes : Variant → Nat
  | .zk7120 => 8
  | _ => 16

/-- The rated figure in Gbit/s (R4, R66). -/
def Variant.rated : Variant → BitVec 16
  | .zk7160 => 0x0640
  | .zk7140 => 0x0320
  | .zk7120 => 0x00FA

/-- Ledger slots. -/
def State.nSlots (s : State) : Nat := 2 ^ s.variant.slotsLog

/-- Domain-root slots. -/
def State.nDoms (s : State) : Nat := 2 ^ s.variant.domLog

/-- The chip total of channels. -/
def State.nChans (s : State) : Nat := 2 ^ s.variant.chLog

/-- The device is in SCRAPPED, or in INVALID, which behaves as SCRAPPED (R380, R381). -/
def State.scrapped (s : State) : Bool := s.lcs.state == 5 || s.lcs.invalid

/-- The life-cycle engine carries a transition, and everything else is in reset (R389). -/
def State.transiting (s : State) : Bool :=
  match s.lcs.trans with
  | some (_, n) => n != 0
  | none => false

/-! ### Pages -/

/-- The key of a page in the map of headers: its kind and instance, injective. -/
def pageKey : PageId → Nat
  | .chip => 1 | .chipInt => 2 | .heat => 3 | .pcx => 4 | .msh => 5 | .klg => 6 | .ctx => 7
  | .rng => 8 | .ump => 9 | .wdg => 10 | .tmp => 11 | .aod => 12 | .erg => 13 | .fgt => 14 | .psq => 15 | .cci => 16
  | .lcs => 17 | .dbg => 18 | .bst => 19 | .otp => 20 | .evidence => 21
  | .fn n => 32 + 64 * n | .adm n => 33 + 64 * n | .meas n => 34 + 64 * n | .rgn n => 35 + 64 * n
  | .egt n => 36 + 64 * n | .qad n => 37 + 64 * n | .pke n => 38 + 64 * n | .mirror n => 39 + 64 * n

/-- The page belongs to the accelerator domain (R56). -/
def PageId.accel : PageId → Bool
  | .chip | .chipInt | .heat | .pcx | .msh | .klg | .ctx | .fn _ | .adm _ | .rgn _ | .egt _ | .qad _ | .pke _ => true
  | .meas n => n == 1
  | _ => false

/-- The key of a page of the accelerator domain. -/
def accelKey (k : Nat) : Bool := (1 ≤ k && k ≤ 7) || (32 ≤ k && !(k == 34) && k % 64 != 39)

/-- The key of a page of the always-on domain: the AOD page and the watchdog evidence page. That the latter belongs to that domain
is DEDUCED from where R64 puts it (log entry 68). -/
def aodKey (k : Nat) : Bool := k == 12 || k == 21

/-- The page is present on the variant (R2, R58). -/
def State.present (s : State) : PageId → Bool
  | .fn n | .adm n => decide (n ≤ s.variant.vfs)
  | .rgn n | .qad n | .pke n => decide (n < s.variant.regions)
  | .egt n => decide (n < s.variant.eights)
  | .meas n => decide (n < 2)
  | .mirror n => decide (n < 6)
  | _ => true

/-- PG_ID.TYPE (R56). DESIGN CHOICE (log entry 68): the table gives the watchdog evidence page no type of its own; the model gives it,
and its mirror, the AOD's 0x12, since it lies in the AOD's bank (R64). -/
def pageType : PageId → Nat
  | .chip | .chipInt => 1 | .heat => 2 | .pcx => 3 | .adm _ => 4 | .fn _ => 5 | .msh => 6 | .rgn _ => 7 | .egt _ => 8
  | .qad _ => 9 | .pke _ => 0xA | .klg => 0xB | .ctx => 0xC | .meas _ => 0xD | .rng => 0xE | .ump => 0xF | .wdg => 0x10
  | .tmp => 0x11 | .aod => 0x12 | .evidence => 0x12 | .erg => 0x13 | .fgt => 0x14 | .psq => 0x15 | .cci => 0x16
  | .lcs => 0x17 | .dbg => 0x18 | .bst => 0x19 | .otp => 0x1A
  | .mirror 0 => 0x17 | .mirror 1 => 0x11 | .mirror 2 => 0x12 | .mirror 3 => 0x13 | .mirror 4 => 0x14 | .mirror _ => 0xD

/-! ### One indexed piece of state: its value, and the state with it changed -/

/-- The header of a page. -/
def State.hdr (s : State) (p : PageId) : Hdr := s.hdrs.get {} (pageKey p)

/-- `s` with the header of page `p` changed by `f`. -/
def State.modHdr (s : State) (p : PageId) (f : Hdr → Hdr) : State :=
  s.onHdrs fun m => m.set {} (pageKey p) (f (m.get {} (pageKey p)))

/-- A function's state. -/
def State.fn (s : State) (f : Nat) : Fn := s.fns.get {} f

/-- `s` with function `f` changed by `g`. -/
def State.modFn (s : State) (f : Nat) (g : Fn → Fn) : State := s.onFns fun m => m.set {} f (g (m.get {} f))

/-- `s` with the admin queue of function `f` changed by `g`. -/
def State.modAdm (s : State) (f : Nat) (g : Adm → Adm) : State := s.modFn f fun x => { x with adm := g x.adm }

/-- The key of a channel: its function and local index (R85). -/
def chKey (f i : Nat) : Nat := f * 65536 + i

/-- The channel at a local index of a function. -/
def State.chan (s : State) (f i : Nat) : Option Chan := s.chans.get none (chKey f i)

/-- `s` with the channel changed by `g`; nothing if there is none. -/
def State.modChan (s : State) (f i : Nat) (g : Chan → Chan) : State :=
  s.onChans fun m => m.set none (chKey f i) ((m.get none (chKey f i)).map g)

/-- A request by its name. -/
def State.req (s : State) (r : Nat) : Option Req := s.reqs.get none r

/-- `s` with request `r` changed by `g`; nothing if there is none. -/
def State.modReq (s : State) (r : Nat) (g : Req → Req) : State :=
  s.onReqs fun m => m.set none r ((m.get none r).map g)

/-- A job by its name. -/
def State.job (s : State) (j : Nat) : Option Job := s.jobs.get none j

/-- `s` with job `j` changed by `g`; nothing if there is none. -/
def State.modJob (s : State) (j : Nat) (g : Job → Job) : State :=
  s.onJobs fun m => m.set none j ((m.get none j).map g)

/-- An eight. -/
def State.eight (s : State) (e : Nat) : Eight := s.eights.get {} e

/-- `s` with eight `e` changed by `g`. -/
def State.modEight (s : State) (e : Nat) (g : Eight → Eight) : State :=
  s.onEights fun m => m.set {} e (g (m.get {} e))

/-- A stroke slot of an eight. -/
def State.slot (s : State) (e k : Nat) : Slot := (s.eight e).slots.get {} k

/-- `s` with a stroke slot changed by `g`. -/
def State.modSlot (s : State) (e k : Nat) (g : Slot → Slot) : State :=
  s.modEight e fun x => { x with slots := x.slots.set {} k (g (x.slots.get {} k)) }

/-- A quad. -/
def State.quad (s : State) (r : Nat) : Quad := s.quads.get {} r

/-- `s` with quad `r` changed by `g`. -/
def State.modQuad (s : State) (r : Nat) (g : Quad → Quad) : State := s.onQuads fun m => m.set {} r (g (m.get {} r))

/-- A measurement register. -/
def State.mreg (s : State) (n : Nat) : Meas := s.meas.get {} n

/-- `s` with measurement register `n` changed by `g`. -/
def State.modMeas (s : State) (n : Nat) (g : Meas → Meas) : State := s.onMeas fun m => m.set {} n (g (m.get {} n))

/-- A PKE slice by its global index. -/
def State.slice (s : State) (i : Nat) : Slice := s.slices.get {} i

/-- `s` with slice `i` changed by `g`. -/
def State.modSlice (s : State) (i : Nat) (g : Slice → Slice) : State :=
  s.onSlices fun m => m.set {} i (g (m.get {} i))

/-- A ledger slot. -/
def State.kslot (s : State) (i : Nat) : KSlot := s.kslots.get {} i

/-- `s` with ledger slot `i` changed by `g`. -/
def State.modKslot (s : State) (i : Nat) (g : KSlot → KSlot) : State :=
  s.onKslots fun m => m.set {} i (g (m.get {} i))

/-- A domain's record; domain 0 always exists (R94). -/
def State.dom (s : State) (d : Nat) : Option Domain :=
  match s.domains.get none d with
  | some x => some x
  | none => if d = 0 then some { salt := List.replicate 32 0 } else none

/-- The salt of domain `d`; zeros where there is no such domain. -/
def State.saltOf (s : State) (d : Nat) : List Byte :=
  match s.dom d with
  | some x => x.salt
  | none => List.replicate 32 0

/-- `s` with domain `d`'s record changed by `g`; nothing if the domain does not exist. -/
def State.modDom (s : State) (d : Nat) (g : Domain → Domain) : State :=
  s.onDomains fun m => m.set none d ((s.dom d).map g)

/-- The first number from `i` on, among `n` of them, that satisfies `p`. -/
def findFrom (p : Nat → Bool) : Nat → Nat → Option Nat
  | 0, _ => none
  | n + 1, i => if p i then some i else findFrom p n (i + 1)

/-- `s` with `e` sent out after everything sent before (R33). -/
def State.emit (s : State) (e : OutEvent) : State := s.onOut (· ++ [e])

/-- The Umpire's firmware runs and serves. -/
def State.umpUp (s : State) : Bool := s.ump.running && !s.ump.halted && !s.dbg.halted

/-! ### The link (R69, R72, R77, R82) -/

/-- The VFs in effect (R72). -/
def State.vfsOn (s : State) : List Nat := (List.range (s.pcie.vfsInEffect.getD 0)).map (· + 1)

/-- AER of function `f` reports an error (R82): its status sets, and a message goes out unless it is masked. -/
def State.reportAer (s : State) (f : Nat) (e : Aer) (fatal : Bool) : State :=
  let s1 := s.modFn f fun x => { x with cfg := { x.cfg with
    aerStatus := if x.cfg.aerStatus.contains e then x.cfg.aerStatus else x.cfg.aerStatus ++ [e] } }
  if (s.fn f).cfg.aerMask.contains e then s1 else s1.emit (.aer f e fatal)

/-- The device completes a request as Unsupported Request; the function that reports it (R82). -/
def State.unsupported (s : State) (f : Nat) : State := (s.emit .unsupported).reportAer f .unsupportedRequest false

/-- An access over the link to the memory space of function `f`; `tee` is the selective stream whose T bit it carries. One to a VF
that is not enabled lies outside every BAR, and one to a VF in TDISP RUN needs the T bit of the bound stream (R69, R77, R82).
DESIGN CHOICE (log entry 68): the spec names no function that reports the former; the model lets function 0 report it. -/
def State.mmio (s : State) (f : Nat) (tee : Option Nat) (k : State → State) : State :=
  if f ≠ 0 ∧ s.vfsOn.contains f = false then s.unsupported 0
  else if (s.fn f).tdisp = .run ∧ tee ≠ some (s.fn f).tdispStream then s.unsupported f
  else k s

/-- The function through whose BARs a requester reaches the pages. -/
def Requester.fnOf : Requester → Option Nat
  | .pf => some 0
  | .vf n _ => some n
  | .umpire => none

/-- The selective stream whose T bit an access of a requester carries: the PF has no TDISP interface (R77). -/
def Requester.stream : Requester → Option Nat
  | .vf _ t => t
  | _ => none

/-- An access of a requester: the host's come over the link, the Umpire's through its banks. -/
def State.access (s : State) (who : Requester) (k : State → State) : State :=
  match Requester.fnOf who with
  | some f => s.mmio f (Requester.stream who) k
  | none => k s

/-- The attributes of a posted write for function `f` (R77, R83, R104): in TDISP RUN it travels on the bound stream with the T bit. -/
def State.tlp (s : State) (f : Nat) (pasid : Option (BitVec 20)) (relaxed : Bool) : Tlp :=
  { pasid := pasid, stream := if (s.fn f).tdisp = .run then some (s.fn f).tdispStream else none, relaxed := relaxed }

/-- Outside the always-on domain nothing acts without main power (R469). -/
def State.powered (s : State) (f : State → Out) : Out := if s.aod.onCell then .next s else f s

/-! ### Free values and draws (log entry 3) -/

/-- `s` after `n` free values have been taken. -/
def State.spend (s : State) (n : Nat) : State := s.onFreeCtr (· + n)

/-- The next draw of the random generator, of width `w` (R264, R284). -/
def State.draw (s : State) (w : Nat) : BitVec w := Config.drbg w s.freeCtr

/-- The next `n` random bytes. -/
def State.drawBytes (s : State) (n : Nat) : List Byte := leBytes n (s.draw (8 * n)).toNat

/-- No DRBG instance gives output: cells that need randomness wait (R459). -/
def State.rngDry (s : State) : Bool := s.rng.stopped || s.rng.locked

/-! ### Time -/

/-- The real-time counter (R66), in ticks of 1/32768 s. -/
def State.now (s : State) : Nat := s.aod.rtc.toNat

/-- Ticks in one second. -/
def second : Nat := 32768

/-- Time `t` lies within the past `n` ticks. -/
def State.within (s : State) (t : Option Nat) (n : Nat) : Bool :=
  match t with
  | none => false
  | some t => decide (s.now < t + n)

/-! ### MSI-X (R73) -/

/-- `v` added to a list without repeats. -/
def addNew (l : List Nat) (v : Nat) : List Nat := if l.contains v then l else l ++ [v]

/-- A message on vector `v` of function `f`, to the address and with the data of its table entry (R69, R73). -/
def State.sendMsix (s : State) (f v : Nat) : State :=
  s.emit (.msix f v (s.tlp f none false) ((s.fn f).msixAddr.get 0 v) ((s.fn f).msixData.get 0 v))

/-- An event on vector `v` of function `f`: a message, or the PBA bit while the vector is masked or MSI-X is off (R73). -/
def State.msix (s : State) (f v : Nat) : State :=
  let x := s.fn f
  if x.msixEn && !x.msixFnMask && x.unmasked.contains v then s.sendMsix f v
  else s.modFn f fun x => { x with pba := addNew x.pba v }

/-! ### Sticky status, interrupts and error records -/

/-- PG_INT_PEND (R43). -/
def Hdr.pend (h : Hdr) : W32 := h.status &&& h.intEn

/-- The single pages of the source list, in bit order from bit 0 (R67). -/
def intSingles : List PageId :=
  [PageId.chip, PageId.heat, PageId.pcx, PageId.msh, PageId.klg, PageId.fn 0, PageId.adm 0, PageId.ctx, PageId.meas 1]

/-- The page of source bit `n` (R67); the mirror bit is apart. -/
def intPage (n : Nat) : Option PageId :=
  if n < 9 then intSingles[n]?
  else if n < 16 then none
  else if n < 20 then some (PageId.rgn (n - 16))
  else if n < 32 then some (PageId.egt (n - 20))
  else if n < 36 then some (PageId.qad (n - 32))
  else if n < 40 then some (PageId.pke (n - 36))
  else none

/-- A mirror page shows a pending interrupt (R60: the header copies the source header). -/
def State.mirrorPend (s : State) : Bool :=
  (List.range 6).any fun k => ((s.mirrors.get {} k).words.get 0 0x01C) != 0

/-- CHIP_INT_SRC.PAGES as the pages stand (R67). -/
def State.intSrcNow (s : State) : W64 :=
  let v := (List.range 40).foldl (fun (acc : W64) n => match intPage n with
    | none => acc
    | some p => if (s.hdr p).pend = 0 then acc else acc ||| (1#64 <<< n)) 0
  if s.mirrorPend then v ||| (1#64 <<< 9) else v

/-- A message on CHIP_INT_VEC whenever a bit of CHIP_INT_SRC changes from 0 to 1 (R67). -/
def State.syncInt (s : State) : State :=
  let v := s.intSrcNow
  let rose := v &&& ~~~s.chip.intSrc
  let s' := s.onChip fun c => { c with intSrc := v }
  if rose = 0 then s' else s'.msix 0 s.chip.intVec.toNat

/-- A change of a page's header with the interrupt requests that follow it (R43, R67, R87). -/
def State.modHdrInt (s : State) (p : PageId) (f : Hdr → Hdr) : State :=
  let before := (s.hdr p).pend
  let s' := s.modHdr p f
  let rises := before == 0 && !((s'.hdr p).pend == 0)
  let s'' := match p, rises with
    | .fn n, true => s'.msix n (s'.fn n).intVec.toNat
    | .adm n, true => s'.msix n (s'.fn n).intVec.toNat
    | _, _ => s'
  s''.syncInt

/-- A count that stops at `m` (R42). -/
def satAdd (a n m : Nat) : Nat := if a + n ≤ m then a + n else m

/-- A header with the bits `mask` of PG_STATUS set by hardware, each set counted (R41, R42). -/
def Hdr.raise (h : Hdr) (mask : W32) : Hdr :=
  { h with status := h.status ||| mask,
           statusCnt := BitVec.ofNat 32 (satAdd h.statusCnt.toNat (popBelow mask 32) 0xFFFFFFFF) }

/-- The hardware sets bits of a page's PG_STATUS (R41, R42, R43). -/
def State.setStatus (s : State) (p : PageId) (mask : W32) : State := s.modHdrInt p (·.raise mask)

/-- The hardware sets bit `n` of a page's PG_STATUS. -/
def State.setBit (s : State) (p : PageId) (n : Nat) : State := s.setStatus p (1#32 <<< n)

/-- The level code that an error code carries in a page (R45). -/
def errLevel (p : PageId) (code : Nat) : BitVec 2 :=
  let own : BitVec 2 := match p with
    | .egt _ | .qad _ | .pke _ => 1
    | .rgn _ => 2
    | _ => 3
  match p with
  | .egt _ => if code = 0x89 ∨ code = 0x8A then 0 else common own
  | .pke _ => if code = 0x90 ∨ code = 0x91 then 0 else common own
  | _ => common own
where
  /-- The levels of the codes 0x82 to 0x86. -/
  common (own : BitVec 2) : BitVec 2 := match code with
    | 0x82 => 0
    | 0x83 => 1
    | 0x84 => 1
    | 0x85 => 2
    | 0x86 => 3
    | _ => own

/-- An error is recorded in the first free record, or sets REC_OVF (R44). -/
def State.recErr (s : State) (p : PageId) (code detail : Nat) : State :=
  if (s.hdr p).errs.length < 4 then
    let e : ErrRec := ⟨BitVec.ofNat 8 code, errLevel p code, BitVec.ofNat 5 detail, s.aod.heatNo⟩
    s.modHdr p fun h => { h with errs := h.errs ++ [e] }
  else s.setBit p 2

/-- CHIP_STATUS[21:16] in order (R66). -/
def Chip.flags (c : Chip) : W32 :=
  BitVec.ofNat 32 (b2n c.accReady + 2 * b2n c.safeHold + 4 * b2n c.maskFallback + 8 * b2n c.rePlan
    + 16 * b2n c.ratingReduced + 32 * b2n c.anyQuar)

/-- A change of the chip page in which every changed bit of CHIP_STATUS[21:16] sets its PG_STATUS bit [13:8] (R66). -/
def State.modChip (s : State) (f : Chip → Chip) : State :=
  let s' := s.onChip f
  let d := s.chip.flags ^^^ s'.chip.flags
  if d = 0 then s' else s'.setStatus .chip (d <<< 8)

/-- IGN_WR_CNT counts an ignored write (R53, R60). -/
def State.ignoredWrite (s : State) : State :=
  s.onChip fun c => { c with ignWrCnt := BitVec.ofNat 16 (satAdd c.ignWrCnt.toNat 1 0xFFFF) }

/-- PG_STATUS.ACCESS_ERR (R48, R50). -/
def State.accessErr (s : State) (p : PageId) : State := s.setBit p 5

/-- PG_STATUS.LOCK_VIOL (R41). -/
def State.lockViol (s : State) (p : PageId) : State := s.setBit p 4

/-- An entry of the Umpire event log, a ring of 4,096 (R424). -/
def State.logEvent (s : State) (page code flags detail : Nat) : State :=
  let e : Ev := { ticks := s.aod.rtc, page := BitVec.ofNat 16 page, code := BitVec.ofNat 8 code,
                  flags := BitVec.ofNat 8 flags, detail := BitVec.ofNat 48 detail }
  s.onUmp fun u => { u with events := (u.events ++ [e]).drop (u.events.length - 4095) }

/-! ### Blocks and quarantine -/

/-- The page of a block. -/
def blockPage : BlockKind → Nat → PageId
  | .eight, e => .egt e
  | .quad, r => .qad r
  | .pair, r => .pke r

/-- The region of a block (R19). -/
def blockRegion : BlockKind → Nat → Nat
  | .eight, e => e / 3
  | _, r => r

/-- The block or its region is out of service (R16, R18). -/
def State.quarantined (s : State) (p : PageId) : Bool := (s.hdr p).quar

/-- A present unit that is not quarantined (R34). -/
def State.usable (s : State) (p : PageId) : Bool := s.present p && !s.quarantined p

/-- The pages of the blocks of a region, hub first (R58). -/
def regionPages (r : Nat) : List PageId := [.rgn r, .egt (3 * r), .egt (3 * r + 1), .egt (3 * r + 2), .qad r, .pke r]

/-- Every block page. -/
def allBlockPages : List PageId := (List.range 4).flatMap regionPages

/-- CHIP_CADENCE and CHIP_CADENCE_NORM from the eights' figures (R28): 128 bits per block, in Gbit/s, rounded down. -/
def State.sumCadence (s : State) : State :=
  let sum := fun (g : Eight → W32) =>
    (List.range s.variant.eights).foldl (fun n e => if s.quarantined (.egt e) then n else n + (g (s.eight e)).toNat) 0
  s.onChip fun c => { c with cadence := BitVec.ofNat 16 (sum Eight.cadence * 128 / 1000000000),
                             cadenceNorm := BitVec.ofNat 16 (sum Eight.cadenceNorm * 128 / 1000000000) }

/-- ANY_QUAR as the block pages stand (R66). -/
def State.syncQuar (s : State) : State :=
  s.modChip fun c => { c with anyQuar := allBlockPages.any fun p => s.quarantined p }

/-- A running self-test ends without a result: the pair (0x00, 0x00) and a cause (R460 to R462). -/
def State.bstEnd (s : State) (cause : Nat) : State :=
  if s.bst.busy then
    s.onBst fun b => { b with busy := false, done := true, cause := BitVec.ofNat 4 cause, result := 0, resultN := 0 }
  else s

/-- The region of the self-test's target (R19, R461). -/
def Bst.region (b : Bst) : Nat := if b.kind = 1 then b.inst.toNat / 3 else b.inst.toNat

/-! ### Register access (R49, R50, R53 to R55, R60) -/

/-- A write to a block-specific field of an accelerator page, as the access rules let it through: a VF, and the host on a
page outside its map, reach a reserved slot (R53); the page ignores writes during a reset (R55) and in quarantine (R54);
a host write of a field that is the Umpire's alone sets ACCESS_ERR (R50). The Umpire's write during a reset is discarded with an
error indication (R24). -/
def State.gateWrite (s : State) (who : Requester) (p : PageId) (umpireOnly : Bool) (k : State → State) : State :=
  match who with
  | .vf _ _ => s.ignoredWrite
  | .pf =>
    if !PageId.accel p || !s.present p then s.ignoredWrite
    else if s.chip.accReset then s
    else if s.quarantined p then s
    else if umpireOnly then s.accessErr p
    else k s
  | .umpire =>
    if !s.present p then s.ignoredWrite
    else if PageId.accel p && s.chip.accReset then s.emit .accessError
    else if s.quarantined p then s
    else k s

/-- A write of an RWL field: ignored, with LOCK_VIOL, while its PG_LOCK bit is set (R41, R47). -/
def State.locked (s : State) (p : PageId) (n : Nat) (k : State → State) : State :=
  if bit (s.hdr p).lock n then s.lockViol p else k s

end Sys2Proof.Machine
end

