-- ==== Sys2Proof/Machine/Work.lean ====
section
/-!
DEFINITION. Requests on their way through the chip: descriptor fields (R109 to R117), address translation (R78),
metering (R443, R444), completion entries and moderation (R97, R105, R127), the end of a request and of its chain (R125),
and the teardown of a job.
-/

namespace Sys2Proof.Machine

/-! ### Descriptor fields (R109, R111) -/

/-- TYPE. -/
def Req.typ (q : Req) : Nat := bits (dwAt q.dwords 0) 3 0
/-- SUBOP. -/
def Req.subop (q : Req) : Nat := bits (dwAt q.dwords 0) 7 4
/-- MORE. -/
def Req.more (q : Req) : Bool := bit (dwAt q.dwords 0) 12
/-- CONT. -/
def Req.cont (q : Req) : Bool := bit (dwAt q.dwords 0) 13
/-- IN_SGL. -/
def Req.inSgl (q : Req) : Bool := bit (dwAt q.dwords 0) 9
/-- OUT_SGL. -/
def Req.outSgl (q : Req) : Bool := bit (dwAt q.dwords 0) 10
/-- AAD_SGL. -/
def Req.aadSgl (q : Req) : Bool := bit (dwAt q.dwords 0) 11
/-- TAG. -/
def Req.tag (q : Req) : Nat := bits (dwAt q.dwords 0) 31 16
/-- KEY_HANDLE. -/
def Req.key (q : Req) : W32 := dwAt q.dwords 1
/-- OP. -/
def Req.op (q : Req) : W32 := dwAt q.dwords 2
/-- PARAM. -/
def Req.param (q : Req) : W32 := dwAt q.dwords 3
/-- IN_ADDR. -/
def Req.inAddr (q : Req) : Nat := qwAt q.dwords 4
/-- OUT_ADDR. -/
def Req.outAddr (q : Req) : Nat := qwAt q.dwords 6
/-- AAD_ADDR. -/
def Req.aadAddr (q : Req) : Nat := qwAt q.dwords 8
/-- IVT_ADDR. -/
def Req.ivtAddr (q : Req) : Nat := qwAt q.dwords 10
/-- IN_LEN. -/
def Req.inLen (q : Req) : Nat := (dwAt q.dwords 12).toNat + 4294967296 * bits (dwAt q.dwords 15) 7 0
/-- OUT_LEN. -/
def Req.outLen (q : Req) : Nat := (dwAt q.dwords 13).toNat + 4294967296 * bits (dwAt q.dwords 15) 15 8
/-- AAD_LEN. -/
def Req.aadLen (q : Req) : Nat := (dwAt q.dwords 14).toNat
/-- PROGRAM of a SYM request, the default program where it is 0 (R112). -/
def Req.program (q : Req) : BitVec 16 :=
  if bits q.op 15 0 = 0 then q.defProg else BitVec.ofNat 16 (bits q.op 15 0)
/-- IV_LEN of a SYM request. -/
def Req.ivLen (q : Req) : Nat := bits q.op 23 16
/-- TAG_LEN of a SYM request. -/
def Req.tagLen (q : Req) : Nat := bits q.op 31 24
/-- ALG of a DIGEST request (R113). -/
def Req.alg (q : Req) : Nat := bits q.op 7 0
/-- MREG of a DIGEST request. -/
def Req.mreg (q : Req) : Nat := bits q.op 13 8
/-- XOF_LEN of a DIGEST request. -/
def Req.xof (q : Req) : Nat := bits q.op 31 16
/-- COMMAND of a PKE request (R114). -/
def Req.cmd (q : Req) : Nat := bits q.op 15 0
/-- The parameter set of a PKE request (R256). -/
def Req.set (q : Req) : Nat := bits q.op 23 16

/-- The program a SYM request selects (R112, R222): its store slot and header. -/
def State.progOf (s : State) (id : BitVec 16) : Option (Nat × Prog) :=
  if id = 0 then none
  else (List.range 32).findSome? fun n =>
    match s.progs.get none n with
    | some p => if p.id = id ∧ p.selected = true then some (n, p) else none
    | none => none

/-- Header flag VERIFY (R218). -/
def Prog.verify (p : Prog) : Bool := p.flags.getLsbD 0
/-- Header flag HOLD. -/
def Prog.hold (p : Prog) : Bool := p.flags.getLsbD 1
/-- Header flag UNIT. -/
def Prog.unit (p : Prog) : Bool := p.flags.getLsbD 2
/-- Header flag MULTIPART. -/
def Prog.multipart (p : Prog) : Bool := p.flags.getLsbD 3
/-- Header flag PRODUCES_TAG. -/
def Prog.producesTag (p : Prog) : Bool := p.flags.getLsbD 4
/-- Header flag AAD. -/
def Prog.aad (p : Prog) : Bool := p.flags.getLsbD 5

/-- A PKE verification command (R257). -/
def pkeVerifies (cmd : Nat) : Bool := cmd == 0x0102 || cmd == 0x0111 || cmd == 0x0142

/-- The program slot of a SYM request: its message's, the one bound at its admission, that of the open message it continues, or
the one its ID selects now (R222). -/
def State.progSlot (s : State) (q : Req) : Option Nat :=
  match q.job.bind s.job with
  | some b => some b.prog
  | none => match q.prog with
    | some n => some n
    | none =>
      if q.cont then (((s.chan q.fn q.ch).bind (·.openMsg)).bind fun m => s.job m.job).map (·.prog)
      else (s.progOf q.program).map (·.1)

/-- A comparison request (R128). -/
def State.comparison (s : State) (q : Req) : Bool :=
  match q.typ with
  | 1 => !q.more && (match (s.progSlot q).bind (s.progs.get none) with
      | some p => p.verify
      | none => false)
  | 2 => !q.more && q.subop == 2
  | 3 => pkeVerifies q.cmd
  | _ => false

/-! ### Address translation (R78, R82) -/

/-- A cached translation of one of the pages denies the access. -/
def State.denies (s : State) (f : Nat) (pasid : Option (BitVec 20)) (addr len : Nat) (write : Bool) : Bool :=
  (s.fn f).atsEn && s.pcie.xlats.any fun x =>
    x.fn == f && x.pasid == pasid && decide (addr / 4096 ≤ x.page) && decide (x.page ≤ (addr + len - 1) / 4096)
      && !(if write then x.allowWrite else x.allowRead)

/-- The translation of a page is held (R78). -/
def State.xlatHeld (s : State) (f : Nat) (pasid : Option (BitVec 20)) (page : Nat) : Bool :=
  s.pcie.xlats.any fun x => x.fn == f && x.pasid == pasid && x.page == page

/-- Before an access of `len` bytes, the device requests the translation of each page it does not hold, while ATS Enable is set
(R78, R79). What the translation grants comes with READ_COMPLETION, or with the command that makes the access. -/
def State.askXlat (s : State) (f : Nat) (pasid : Option (BitVec 20)) (addr len : Nat) : State :=
  if (s.fn f).atsEn = false ∨ len = 0 then s
  else (List.range ((addr + len - 1) / 4096 - addr / 4096 + 1)).foldl (fun s k =>
    if s.xlatHeld f pasid (addr / 4096 + k) then s else s.emit (.atsRequest f pasid (addr / 4096 + k))) s

/-- The PASID of a channel's DMA (R104). -/
def Chan.tag (c : Chan) : Option (BitVec 20) := if c.pasidEn then some c.pasid else none

/-- The PASID of the DMA of a function's channel. -/
def State.chTag (s : State) (f i : Nat) : Option (BitVec 20) := (s.chan f i).bind Chan.tag

/-! ### Metering (R443, R444) -/

/-- Counter `k` of a record raised by `n`. -/
def Rec.bump (r : Rec) (u : Nat × Nat) : Rec := { r with cnt := r.cnt.set 0 u.1 (r.cnt.get 0 u.1 + u.2) }

/-- The domain of a function: the PF always belongs to domain 0 (R87). -/
def State.fnDomain (s : State) (f : Nat) : Option Nat := if f = 0 then some 0 else (s.fn f).domain.map (·.toNat)

/-- The channel limit of a function: the PF's own is the chip total (R86, R87). -/
def State.fnLimit (s : State) (f : Nat) : Nat := if f = 0 then s.nChans else (s.fn f).limit.toNat

/-- The metering unit records counts against a channel and its function's domain (R443). -/
def State.meter (s : State) (f i : Nat) (ups : List (Nat × Nat)) : State :=
  let h := match s.chan f i with
    | some c => c.handle
    | none => 0
  s.onHeat fun t => { t with live := { t.live with
    domains := match s.fnDomain f with
      | none => t.live.domains
      | some d => t.live.domains.set none d (some (ups.foldl Rec.bump ((t.live.domains.get none d).getD {})))
    channels := t.live.channels.map fun r =>
      if r.fn = f ∧ r.handle = h ∧ r.destroyed = false then ups.foldl Rec.bump r else r } }

/-- The PKE_OPS or PKE_PUBKEY counter of a PKE command (R443). -/
def pkeCounter (cmd : Nat) : Nat :=
  match cmd with
  | 0x0101 => 16
  | 0x0102 => 17
  | 0x0103 => 18
  | 0x0110 => 19
  | 0x0111 => 20
  | 0x0120 => 21
  | 0x0130 => 22
  | 0x0131 => 23
  | 0x0140 => 24
  | 0x0141 => 24
  | 0x0142 => 25
  | 0x0150 => 26
  | 0x0151 => 27
  | 0x0100 => 29
  | _ => 28

/-- The counts of a completed request (R443): its type, REQ_FAILED, its PKE operation. -/
def Req.counts (q : Req) (st : Nat) : List (Nat × Nat) :=
  (if 1 ≤ q.typ ∧ q.typ ≤ 7 then [(3 + q.typ, 1)] else []) ++ (if 2 ≤ st then [(11, 1)] else [])
    ++ (if q.typ = 3 then [(pkeCounter q.cmd, 1)] else [])

/-! ### Messages and completion entries -/

/-- The channel's next message (R105): sent if IRQ_EN is 1 and, one-shot, only if it is armed. -/
def State.chMessage (s : State) (f i : Nat) : State :=
  match s.chan f i with
  | none => s
  | some c =>
    if c.irqEn && (!c.oneShot || c.armed) then
      (s.msix f c.vector.toNat).modChan f i fun c =>
        { c with unsignalled := 0, armed := if c.oneShot then false else c.armed }
    else s

/-- The channel is in ERROR, or was when its DESTROY_CHANNEL started (R108). -/
def Chan.errored (c : Chan) : Bool :=
  match c.state with
  | .error _ => true
  | .destroying _ e => e
  | .active => false

/-- A channel enters ERROR with a cause (R108). -/
def State.chError (s : State) (f i cause : Nat) : State :=
  match s.chan f i with
  | none => s
  | some c =>
    if c.errored then s
    else
      let s1 := s.modChan f i fun c => { c with state := match c.state with
        | .destroying a _ => .destroying a true
        | _ => .error cause }
      (s1.modFn f fun x => { x with chErr := c.handle }).setBit (.fn f) 10

/-- A completion entry into a channel's ring, with its ring fields, moderation and message (R97, R98, R105, R127). A
channel in ERROR writes none (R108). -/
def State.writeCqe (s : State) (f i : Nat) (dw : List Nat) (slot : Nat) : State :=
  match s.chan f i with
  | none => s
  | some c =>
    if c.errored then s
    else if s.denies f c.tag (c.cqBase.toNat + 32 * c.cqTail) 32 true then s.chError f i 1
    else
      let ent := (dw ++ [slot, c.sqHead + 2147483648 * b2n c.phase]).map (BitVec.ofNat 32)
      let tail := (c.cqTail + 1) % 2 ^ c.cqLog
      let addr := c.cqBase.toNat + 32 * c.cqTail
      let s0 := s.askXlat f c.tag addr 32
      let s1 := (s0.emit (.cqe f i (s.tlp f c.tag false) addr ent)).modChan f i fun c =>
        { c with cqTail := tail, phase := if tail = 0 then !c.phase else c.phase,
                 unsignalled := c.unsignalled + 1, completed := c.completed + 1 }
      if c.modCount + 1 ≤ c.unsignalled + 1 ∨ c.modTime = 0 then s1.chMessage f i else s1

/-- `l` without the MSI-X messages that a later one of the same vector repeats. -/
def mergeMsgs : List OutEvent → List OutEvent
  | [] => []
  | e :: l => match e with
    | .msix .. => if l.contains e then mergeMsgs l else e :: mergeMsgs l
    | _ => e :: mergeMsgs l

/-- What `k` does happens in one instant: channels that share a vector send one message, after everything that caused it (R73,
R105). -/
def State.atOnce (s : State) (k : State → State) : State :=
  (k s).onOut fun l => l.take s.out.length ++ mergeMsgs (l.drop s.out.length)

/-! ### Jobs -/

/-- The initial registers of a cox's slot (R183, R185). -/
def coxRegs : Regs := { p := (Vector.replicate 16 0).set 15 0x00400, sl := 0x20 }

/-- The window of a stroke's start: the IV at first, then the context of the stroke before (R185, R225). -/
def Job.window (b : Job) : List Word := if b.ctx.isEmpty then wordsOf (padTo 64 b.iv) else b.ctx

/-- A list of words as window contents from word 0 on. -/
def winOf (ws : List Word) : SMap Word :=
  (List.range ws.length).foldl (fun m k => m.set 0 k (ws.getD k 0)) []

/-- The quad or pair on which a job is placed: that of its home, or the one where it waits (R137). -/
def Job.blockOf (b : Job) : Option Nat :=
  match b.home with
  | some n => some (match b.kind with
    | .quad => n / 4
    | .pair => n / 2
    | .eight => n)
  | none => b.block

/-- `l` without the jobs of the frames of job `j`. -/
def dropFrame (j : Nat) (_k : Nat) (fr : Option Frame) : Option Frame :=
  match fr with
  | some x => if x.job = j then none else some x
  | none => none

/-- A stroke slot freed if it runs job `j` (R185: END zeroes the window and every register of the slot). -/
def Slot.dropJob (j : Nat) (_k : Nat) (t : Slot) : Slot := if t.job = some j then {} else t

/-- A free cell of a quad: not busy, not isolated, not held by the direct port. -/
def State.freeCell (s : State) (r : Nat) : Option Nat :=
  let q := s.quad r
  findFrom (fun c => !(q.busy.getLsbD c) && !(q.isolated.getLsbD c) && !(q.direct.getLsbD c)) 4 0

/-- The Umpire's direct jobs are served before any domain's work and hold at most one cell of the chip: the waiting one of the lowest
quad takes its cell as soon as one is free (R142, R246). -/
def State.giveDirect (s : State) : State :=
  if (List.range 4).any fun r => (s.quad r).direct != 0 then s
  else match (List.range 4).find? fun r => (s.quad r).dirBusy && (s.freeCell r).isSome with
    | none => s
    | some r => match s.freeCell r with
      | none => s
      | some c => s.modQuad r fun x => { x with direct := 1#4 <<< c }

/-- The strokes of job `j` leave the eights, cells and slices where they run. -/
def State.unplace (s : State) (j : Nat) : State :=
  let s1 := s.onEights (·.mapVals {} fun _ x => { x with slots := x.slots.mapVals {} (Slot.dropJob j) })
  match s.job j with
  | none => s1
  | some b =>
    let s2 := if b.kind = .quad ∧ b.running = true then
        match b.home with
        | some c => (s1.modQuad (c / 4) fun x => { x with busy := x.busy &&& ~~~(1#4 <<< (c % 4)) }).giveDirect
        | none => s1
      else s1
    let s3 := if b.kind = .pair then
        s2.onSlices (·.mapVals {} fun _ x =>
          if x.running = some j then { x with running := none, busy := false, keyArea := [] } else x)
      else s2
    s3.modJob j fun b => { b with running := false }

/-- A replaced or removed program's slot is freed when its last message ends (R222). -/
def State.reapProg (s : State) (n : Nat) : State :=
  match s.progs.get none n with
  | none => s
  | some p =>
    if p.selected = true ∨ s.jobs.any (fun kv => match kv.2 with
      | some b => b.kind == .eight && b.prog == n
      | none => false) = true ∨ s.reqs.any (fun kv => kv.2.bind (·.prog) == some n) = true then s
    else s.onProgs (·.set none n none)

/-- Context cache entries (R144, R154). -/
def cacheEntries : Nat := 8192

/-- Entries in use (R154). -/
def State.resident (s : State) : Nat :=
  s.jobs.foldl (fun n kv => match kv.2 with
    | some b => if b.resident then n + b.entries else n
    | none => n) 0

/-- Entries that are free go to the contexts that wait for one, the oldest first (R144, R148). -/
def State.giveEntries (s : State) : State :=
  s.msh.entryWait.foldl (fun s j => match s.job j with
    | none => s
    | some b =>
      if s.resident + b.entries ≤ cacheEntries then
        (s.modJob j fun b => { b with resident := true }).onMsh fun m =>
          { m with lru := m.lru.filter (· != j) ++ [j], entryWait := m.entryWait.filter (· != j) }
      else s) s

/-- A job ends: its strokes, hold area, operand slots, context entry and frame are given back (R144, R148, R254). -/
def State.endJob (s : State) (j : Nat) : State :=
  match s.job j with
  | none => s
  | some b =>
    let s1 := s.unplace j
    let s2 := match b.kind, b.home with
      | .eight, some e => s1.modEight e fun x => { x with holdPages := x.holdPages - b.holdPages }
      | .pair, _ => s1.onSlices (·.mapVals {} fun _ x => { x with frames := x.frames.filter (· != j) })
      | _, _ => s1
    let s3 := s2.onMsh fun m =>
      { m with lru := m.lru.filter (· != j), frames := m.frames.mapVals none (dropFrame j), entryWait := m.entryWait.filter (· != j) }
    let s4 := (s3.onJobs (·.set none j none)).giveEntries
    match b.kind with
    | .eight => s4.reapProg b.prog
    | _ => s4

/-! ### Output to host memory -/

/-- The ranges of a stream from byte `off` on, `n` bytes of them (R119). -/
def cutRanges : List (Nat × Nat) → Nat → Nat → List (Nat × Nat)
  | [], _, _ => []
  | (a, l) :: r, off, n =>
    if l ≤ off then cutRanges r (off - l) n
    else
      let k := min (l - off) n
      if n = 0 then [] else (a + off, k) :: cutRanges r 0 (n - k)

/-- One posted write to host memory for function `f`. -/
def State.dmaWrite (s : State) (f : Nat) (x : Tlp) (addr : Nat) (data : List Byte) : State :=
  (s.askXlat f x.pasid addr data.length).emit (.dma f x addr data)

/-- Posted writes of `data` into ranges that hold it, in address order of the stream (R33, R166). -/
def State.writeRanges (s : State) (f : Nat) (x : Tlp) (rs : List (Nat × Nat)) (data : List Byte) : State :=
  match rs with
  | [] => s
  | (a, l) :: r => (if l = 0 then s else s.dmaWrite f x a (data.take l)).writeRanges f x r (data.drop l)

/-- The attributes of a request's output data: the channel's PASID, Relaxed Ordering under RO_DATA (R83, R104). -/
def State.outTlp (s : State) (q : Req) : Tlp := s.tlp q.fn (s.chTag q.fn q.ch) s.pcie.roData

/-- Bytes at stream offset `off` of a request's OUT. -/
def State.putOut (s : State) (q : Req) (off : Nat) (data : List Byte) : State :=
  s.writeRanges q.fn (s.outTlp q) (cutRanges q.outR off data.length) data

/-- Two ranges share a byte. -/
def rangesMeet (a b : Nat × Nat) : Bool :=
  a.2 != 0 && b.2 != 0 && decide (a.1 < b.1 + b.2) && decide (b.1 < a.1 + a.2)

/-- A list of ranges with neighbours that follow one another joined. -/
def joinRanges : List (Nat × Nat) → List (Nat × Nat)
  | [] => []
  | a :: l => match joinRanges l with
    | [] => [a]
    | b :: r => if a.1 + a.2 = b.1 then (a.1, a.2 + b.2) :: r else a :: b :: r

/-- A SYM request runs in place: IN and OUT describe identical byte ranges in identical order (R122). -/
def Req.inPlace (q : Req) : Bool := q.typ == 1 && joinRanges q.outR == joinRanges q.inR

/-- What a SYM request reads at IVT_ADDR (R112). -/
def Req.ivtReads (q : Req) : List (Nat × Nat) := if q.typ = 1 then [(q.ivtAddr, q.ivLen), (q.ivtAddr + 64, q.tagLen)] else []

/-- OUT overlaps one of the request's inputs otherwise than in place (R122). -/
def Req.outClash (q : Req) : Bool :=
  q.outR.any fun o => ((if q.inPlace then [] else q.inR) ++ q.aadR ++ q.ivtReads).any (rangesMeet o)

/-- `data`, or as many free bytes where an overlap leaves the output undefined (R122; log entry 3). -/
def State.orFree (s : State) (clash : Bool) (data : List Byte) : List Byte :=
  if clash then leBytes data.length (Config.free (8 * data.length) s.freeCtr).toNat else data

/-- Output bytes at stream offset `off` of a request; undefined ones where OUT overlaps an input (R122). -/
def State.writeOut (s : State) (q : Req) (off : Nat) (data : List Byte) : State :=
  (s.putOut q off (s.orFree q.outClash data)).spend (b2n q.outClash)

/-- A translation that the device holds denies part of an access to `n` bytes of a stream from offset `off` on (R78). -/
def State.rangesDenied (s : State) (q : Req) (rs : List (Nat × Nat)) (off n : Nat) (write : Bool) : Bool :=
  (cutRanges rs off n).any fun x => s.denies q.fn (s.chTag q.fn q.ch) x.1 x.2 write

/-- The device requests the translations that a read of `n` bytes of a stream from offset `off` on needs (R78). -/
def State.askRanges (s : State) (q : Req) (rs : List (Nat × Nat)) (off n : Nat) : State :=
  (cutRanges rs off n).foldl (fun s x => s.askXlat q.fn (s.chTag q.fn q.ch) x.1 x.2) s

/-- Zeros over every byte that an AEAD decryption has written, when it ends without success after its tag matched (R174, R175). -/
def State.zeroWritten (s : State) (q : Req) (st : Nat) : State :=
  match q.job.bind s.job with
  | none => s
  | some b => if b.hold = true ∧ b.written ≠ 0 ∧ 2 ≤ st then s.putOut q 0 (List.replicate b.written 0) else s

/-! ### The end of a request -/

/-- How a request ends (R127): status, detail and results; `keep`: the open message stays (R123). -/
structure Fin where
  st : Nat
  detail : Nat := 0
  r0 : Nat := 0
  r1 : Nat := 0
  r2 : Nat := 0
  keep : Bool := false
  deriving DecidableEq, Repr

/-- The AUTH pair (R128). -/
def State.authPair (s : State) (q : Req) (st : Nat) : Nat :=
  if s.comparison q then (if st ≤ 1 then 0x96 + 256 * 0x69 else 0x5A + 256 * 0xA5) else 0

/-- Dwords 0 to 5 of a completion entry (R127). -/
def State.cqeDwords (s : State) (q : Req) (x : Fin) : List Nat :=
  [x.st + 256 * q.chainPos + 4096 * b2n q.chainLast + 65536 * q.tag, x.detail + 65536 * s.authPair q x.st,
    x.r0, x.r1, x.r2 % 4294967296, x.r2 / 4294967296]

/-- The result fields (R129): RESULT2 of SYM is what the request has written to OUT, however it ends; RESULT0 of an EXTEND that
completes with OK is MREG, in every part. -/
def State.resultOf (s : State) (q : Req) (x : Fin) : Fin :=
  match q.typ with
  | 1 => { x with r2 := match q.job.bind s.job with
      | some b => b.written
      | none => 0 }
  | 2 => { x with r0 := if q.subop = 1 ∧ x.st = 0 then q.mreg else 0 }
  | _ => x

/-- A later member of the chain still runs on the job's slice (R254). -/
def State.pkeGoesOn (s : State) (q : Req) : Bool :=
  (q.chain.drop (q.chainPos + 1)).any fun m => match s.req m with
    | some x => x.typ == 3
    | none => false

/-- The job outlives the request: a message with later parts, or PKE members of a chain (R123, R254). -/
def State.jobGoesOn (s : State) (q : Req) (x : Fin) : Bool :=
  decide (x.st = 0) && ((q.more && (q.typ == 1 || q.typ == 2)) || (q.typ == 3 && s.pkeGoesOn q))

/-- What the end of a part does to the channel's open message (R123). -/
def Req.closes (q : Req) (x : Fin) (c : Chan) : Option OpenMsg :=
  if ¬(q.typ = 1 ∨ q.typ = 2) ∨ x.keep = true then c.openMsg
  else if x.st = 0 ∧ q.more = true then
    match q.job with
    | some j => some { job := j, digest := q.typ == 2 }
    | none => c.openMsg
  else if q.cont = true then none
  else c.openMsg

/-- The message whose job goes with the request: its own, or, for a part that fails before it runs, the open one it continues (R123,
R132). -/
def State.messageOf (s : State) (q : Req) (x : Fin) : Option Nat :=
  match q.job with
  | some j => some j
  | none =>
    if (q.typ = 1 ∨ q.typ = 2) ∧ q.cont = true ∧ x.keep = false ∧ x.st ≠ 0 then
      ((s.chan q.fn q.ch).bind (·.openMsg)).map (·.job)
    else none

/-- The unit a request of this type runs on. -/
def Req.unit (q : Req) : Option UnitKind :=
  match q.typ with
  | 1 => some .eight
  | 2 => some .quad
  | 3 => some .pair
  | _ => none

/-- A domain has admitted work for a scheduler: a request, or a PKE job whose chain goes on (R138). -/
def State.hasWork (s : State) (k : UnitKind) (d : Nat) : Bool :=
  s.reqs.any (fun kv => match kv.2 with
    | some q => q.admitted && q.unit == some k && q.domain == d
    | none => false) ||
  (k == .pair && s.jobs.any fun kv => match kv.2 with
    | some b => b.kind == .pair && b.domain == d
    | none => false)

/-- A domain with no admitted work left loses its credit (R138). -/
def State.settleCredits (s : State) : State :=
  s.onMsh fun m =>
    { m with creditEight := m.creditEight.filter fun kv => s.hasWork .eight kv.1
             creditQuad := m.creditQuad.filter fun kv => s.hasWork .quad kv.1
             creditPair := m.creditPair.filter fun kv => s.hasWork .pair kv.1 }

/-- One request ends: it is metered, its completion entry is written, and it leaves with what it held (R33, R127, R444). -/
def State.finish1 (s : State) (r : Nat) (x0 : Fin) : State :=
  match s.req r with
  | none => s
  | some q =>
    let x := s.resultOf q x0
    let errored := match s.chan q.fn q.ch with
      | some c => c.errored
      | none => true
    let s0 := s.zeroWritten q x.st
    let s1 := if errored then s0 else s0.meter q.fn q.ch (q.counts x.st)
    let s2 := s1.writeCqe q.fn q.ch (s1.cqeDwords q x) q.slot
    let s3 := s2.modChan q.fn q.ch fun c => { c with openMsg := q.closes x c }
    let s4 := match s.messageOf q x with
      | some j => if s.jobGoesOn q x then s3 else s3.endJob j
      | none => s3
    let s5 := s4.onReqs (·.set none r none)
    (match q.prog with
      | some n => s5.reapProg n
      | none => s5).settleCredits

/-- The jobs that the PKE members of a request's chain run in (R254). -/
def State.chainJobs (s : State) (q : Req) : List Nat :=
  s.jobs.filterMap fun kv => match kv.2 with
    | some b => if b.kind = .pair ∧ b.fn = q.fn ∧ b.ch = q.ch ∧ q.chain.contains b.req = true then some kv.1 else none
    | none => none

/-- A request ends and, if it failed, the later members of its chain complete with CHAIN_ABORTED, in order (R125); the chain's PKE
job ends with it (R254). -/
def State.finish (s : State) (r : Nat) (x : Fin) : State :=
  match s.req r with
  | none => s
  | some q =>
    let s1 := s.finish1 r x
    if x.st ≤ 1 then s1
    else
      let s2 := (q.chain.drop (q.chainPos + 1)).foldl (fun s m => s.finish1 m { st := 0x13 }) s1
      (s2.chainJobs q).foldl State.endJob s2

/-- A request ends with no completion entry (R81). -/
def State.dropReq (s : State) (r : Nat) : State :=
  match s.req r with
  | none => s
  | some q =>
    let s1 := match q.job with
      | some j => s.endJob j
      | none => s
    (s1.onReqs (·.set none r none)).settleCredits

/-- The requests whose record satisfies `p`, oldest first. -/
def State.reqsWhere (s : State) (p : Req → Bool) : List Nat :=
  s.reqs.filterMap fun kv => match kv.2 with
    | some q => if p q then some kv.1 else none
    | none => none

/-- The jobs whose record satisfies `p`. -/
def State.jobsWhere (s : State) (p : Job → Bool) : List Nat :=
  s.jobs.filterMap fun kv => match kv.2 with
    | some b => if p b then some kv.1 else none
    | none => none

/-- The request a job works for ends; a job of an open message with no request in execution closes the message, and its
next part completes with the status (R123); a PKE job between two members of its chain fails the next one (R267, R268). -/
def State.failJob (s : State) (j : Nat) (x : Fin) : State :=
  match s.job j with
  | none => s
  | some b =>
    match s.req b.req with
    | some _ => s.finish b.req x
    | none =>
      match b.kind, s.reqsWhere fun q => q.fn == b.fn && q.ch == b.ch && q.chain.contains b.req with
      | .pair, r :: _ => (s.endJob j).finish r x
      | _, _ =>
        let s1 := s.modChan b.fn b.ch fun c => { c with openMsg := match c.openMsg with
          | some m => if m.job = j then some { m with lost := some x.st } else some m
          | none => none }
        s1.endJob j

end Sys2Proof.Machine
end

