-- ==== Sys2Proof/Machine/Ledger.lean ====
section
/-!
DEFINITION. The key ledger (R273 to R300): slots, handles, the hierarchy, resolution, placement, invalidation.
-/

namespace Sys2Proof.Machine

/-! ### Slot space and handles (R273, R275) -/

/-- The slot of domain d's root. -/
def State.rootSlot (s : State) (d : Nat) : Nat := s.nSlots - s.nDoms + d

/-- A general slot. -/
def State.general (s : State) (i : Nat) : Bool := decide (256 ≤ i) && decide (i < s.nSlots - s.nDoms)

/-- A domain-root slot. -/
def State.isRoot (s : State) (i : Nat) : Bool := decide (s.nSlots - s.nDoms ≤ i) && decide (i < s.nSlots)

/-- The generation of a slot: from its base one on at each free, 1 after 4,095 (R275). -/
def State.kgen (s : State) (i : Nat) : Nat := (s.genBase - 1 + s.kfrees.get 0 i) % 4095 + 1

/-- The handle of a slot (R96, R275). -/
def State.khandle (s : State) (i : Nat) : Nat := s.kgen i * 1048576 + i

/-- The slot index of a handle. -/
def hIndex (h : W32) : Nat := h.toNat % 65536

/-! ### Attributes (R277, R278) -/

/-- An algorithm's key lengths, RUN_LEN and permitted usages; none for a value not listed (R278). -/
def algInfo (alg : Nat) : Option (Nat × Nat × Nat × Nat) :=
  match alg with
  | 0x01 => some (16, 16, 1, 0xAF)
  | 0x02 => some (24, 24, 1, 0xAF)
  | 0x03 => some (32, 32, 1, 0xAF)
  | 0x04 => some (32, 32, 1, 0x03)
  | 0x05 => some (64, 64, 1, 0x03)
  | 0x10 => some (1, 64, 1, 0xA0)
  | 0x11 => some (16, 64, 1, 0xA0)
  | 0x18 => some (32, 64, 1, 0x40)
  | 0x20 => some (32, 32, 1, 0x50)
  | 0x21 => some (48, 48, 1, 0x50)
  | 0x22 => some (66, 66, 2, 0x50)
  | 0x28 => some (32, 32, 1, 0x10)
  | 0x2A => some (57, 57, 1, 0x10)
  | 0x29 => some (32, 32, 1, 0x40)
  | 0x2B => some (56, 56, 1, 0x40)
  | 0x30 => some (4, 4, 11, 0x12)
  | 0x31 => some (4, 4, 16, 0x12)
  | 0x32 => some (4, 4, 21, 0x12)
  | 0x33 => some (4, 4, 31, 0x12)
  | 0x34 => some (4, 4, 41, 0x12)
  | 0x40 => some (32, 32, 1, 0x10)
  | 0x41 => some (64, 64, 1, 0x02)
  | _ => none

/-- The modulus length k of an RSA algorithm or parameter set 0x10 to 0x14, by its low digit (R256). -/
def rsaK (n : Nat) : Nat :=
  match n % 16 with
  | 0 => 256
  | 1 => 384
  | 2 => 512
  | 3 => 768
  | _ => 1024

/-- An RSA run head. -/
def algRsa (alg : Nat) : Bool := decide (0x30 ≤ alg) && decide (alg ≤ 0x34)

/-- MASTERS. -/
def KSlot.masters (k : KSlot) : BitVec 8 := k.attr &&& 0x0F
/-- WORLD is device-internal. -/
def KSlot.internal (k : KSlot) : Bool := k.attr.getLsbD 6
/-- NONCE_EN. -/
def KSlot.nonceEn (k : KSlot) : Bool := k.attr.getLsbD 7
/-- The SCA level (R160). -/
def KSlot.sca (k : KSlot) : Nat := k.attr.toNat / 16 % 4
/-- LIMIT_EN. -/
def KSlot.limitEn (k : KSlot) : Bool := k.life.getLsbD 4
/-- RUN_LEN of a head or single slot. -/
def KSlot.runLen (k : KSlot) : Nat := if k.alg = 0x38 then 1 else max k.run.toNat 1

/-- The current life-cycle state's bit of LC_MASK (R277, R380). -/
def State.lcBit (s : State) : Nat := s.lcs.state.toNat - 1

/-- LC_MASK holds the current life-cycle state. -/
def State.lcAllows (s : State) (life : BitVec 8) : Bool :=
  decide (1 ≤ s.lcs.state.toNat) && decide (s.lcs.state.toNat ≤ 4) && life.getLsbD s.lcBit

/-- The head of the run a slot lies in. -/
def State.headOf (s : State) (i : Nat) : Nat := if (s.kslot i).alg = 0x38 then i - (s.kslot i).run.toNat else i

/-- The slots of the run headed at `i`. -/
def State.runOf (s : State) (i : Nat) : List Nat := (List.range (s.kslot i).runLen).map (i + ·)

/-- The parents of a slot up to its domain root, at most eight (R279). -/
def State.ancestorsF (s : State) : Nat → Nat → List Nat
  | 0, _ => []
  | n + 1, i =>
    if s.isRoot i ∨ i < 256 then []
    else (s.kslot i).parent.toNat :: s.ancestorsF n (s.kslot i).parent.toNat

/-- The parents of a slot up to its domain root. -/
def State.ancestors (s : State) (i : Nat) : List Nat := s.ancestorsF 8 (s.headOf i)

/-- The depth of a slot, its domain root being 0 (R279). -/
def State.depth (s : State) (i : Nat) : Nat := (s.ancestors i).length

/-- Occupied: valid, retiring, orphaned or failed (R276). -/
def KSlot.occupied (k : KSlot) : Bool := k.state != .free

/-- Occupied general slots that satisfy `p`. -/
def State.countK (s : State) (p : KSlot → Bool) : Nat :=
  (s.kslots.filter fun kv => s.general kv.1 && kv.2.occupied && p kv.2).length

/-- Occupied general slots of a domain (R276, R300). -/
def State.domUsed (s : State) (d : Nat) : Nat := s.countK fun k => k.domain.toNat == d

/-- The integrity code of a slot (R282); a member repeats its head's generation (R280). -/
def State.icode (s : State) (i : Nat) : List Byte :=
  let k := s.kslot i
  let meta24 := [k.alg, k.usage, k.attr, k.life] ++ leBytes 2 k.domain.toNat ++ leBytes 2 k.parent.toNat
    ++ leBytes 2 (s.kgen (s.headOf i)) ++ [k.keyLen, k.run] ++ leBytes 4 k.fixed.toNat ++ leBytes 8 k.counter.toNat
  kmac 128 (leBytes 32 s.klg.integrityKey.toNat) (leBytes 2 i ++ padTo 64 k.material ++ meta24) 8 (ascii "ZK7 SLOT")

/-- The material of the key headed at a slot: a P-521 scalar continues in member 1 (R280). -/
def State.keyBytes (s : State) (i : Nat) : List Byte :=
  let k := s.kslot i
  if k.alg = 0x22 then k.material ++ (s.kslot (i + 1)).material else k.material

/-- RSA component c, 0 p to 4 qinv: k/2 bytes from member 1 + c·k/128 on (R280). -/
def State.rsaComp (s : State) (i c : Nat) : List Byte :=
  let k := rsaK (s.kslot i).alg.toNat
  (((List.range (k / 128)).map fun j => (s.kslot (i + 1 + c * (k / 128) + j)).material).flatten).take (k / 2)

/-! ### Resolution (R279) -/

/-- Who resolves a handle: a function, or the Umpire. -/
inductive Who where
  | fn (f : Nat)
  | umpire
  deriving DecidableEq, Repr

/-- What an operation needs of a key (R279 step 4): algorithms, any one of the usages, COX, a use counted. -/
structure Need where
  algs : List Nat := []
  usage : Nat := 0xFF
  cox : Bool := false
  counts : Bool := false

/-- KEY_INVALID's conditions (R279). -/
def State.keyInvalid (s : State) (w : Who) (h : W32) : Bool :=
  let i := hIndex h
  let k := s.kslot i
  let base := decide (s.nSlots ≤ i) || bits h 19 16 != 0 || k.state == .free || k.state == .retiring
    || bits h 31 20 != s.kgen i || k.alg == 0x38
  match w with
  | .umpire => base
  | .fn f => base || k.internal || decide (i < 256) || s.fnDomain f != some k.domain.toNat

/-- The slot is marked failed: a failure in a retiring slot leaves it retiring (R283, R297). -/
def KSlot.bad (k : KSlot) : Bool := k.state == .failed || k.broken

/-- KEY_INTEGRITY: the slot or an ancestor is marked failed (R279, R283); an orphan has no ancestor left. -/
def State.keyFailed (s : State) (i : Nat) : Bool :=
  (i :: if (s.kslot i).state == .orphaned then [] else s.ancestors i).any fun a => (s.kslot a).bad

/-- KEY_ORPHANED: the slot is orphaned, or an ancestor is not valid. -/
def State.keyOrphaned (s : State) (i : Nat) : Bool :=
  (s.kslot i).state == .orphaned || (s.ancestors i).any fun a => (s.kslot a).state != .valid

/-- KEY_ATTR's conditions but for the nonce rule (R279). -/
def State.keyAttr (s : State) (w : Who) (i : Nat) (n : Need) : Bool :=
  let k := s.kslot i
  let bit := match w with
    | .fn 0 => 0
    | .fn _ => 1
    | .umpire => 2
  !(n.algs.contains k.alg.toNat) || (k.usage &&& BitVec.ofNat 8 n.usage) == 0 || !(k.attr.getLsbD bit)
    || (n.cox && !(k.attr.getLsbD 3)) || !(s.lcAllows k.life) || (n.counts && k.limitEn && k.counter == 0)

/-- The resolution of a handle in the order of R279, to a slot or a status. -/
def State.resolve (s : State) (w : Who) (h : W32) (n : Need) : Except Nat Nat :=
  let i := hIndex h
  if s.keyInvalid w h then .error 0x30
  else if s.keyFailed i then .error 0x33
  else if s.keyOrphaned i then .error 0x31
  else if s.keyAttr w i n then .error 0x32
  else .ok i

/-- One use of a slot with LIMIT_EN (R295). -/
def State.countUse (s : State) (i : Nat) : State :=
  s.modKslot i fun k => if k.limitEn then { k with counter := k.counter - 1 } else k

/-! ### Failure (R283) -/

/-- The mark of an integrity failure: a retiring slot goes on to its release (R297). -/
def KSlot.fail (k : KSlot) : KSlot := if k.state = .retiring then { k with broken := true } else { k with state := .failed }

/-- A slot, with its whole run, is marked failed; code 0x88 for a code mismatch, 0x89 for an uncorrectable word. -/
def State.failSlot (s : State) (i code : Nat) : State :=
  let s1 := (s.runOf (s.headOf i)).foldl (fun s j => s.modKslot j KSlot.fail) s
  let s2 := s1.onKlg fun k => { k with failSlot := some (BitVec.ofNat 16 i) }
  (s2.setBit .klg 8).recErr .klg code 0

/-! ### Placement (R276) -/

/-- The free general slot freed least recently; one never used counts as freed before any used one. -/
def State.pickSlot (s : State) : Option Nat :=
  let n := s.nSlots - s.nDoms - 256
  match findFrom (fun i => !(s.kslot i).occupied && !(s.klg.freed.contains i)) n 256 with
  | some i => some i
  | none => s.klg.freed.find? fun i => s.general i && !(s.kslot i).occupied

/-- The lowest run of `n` free consecutive general slots. -/
def State.pickRun (s : State) (n : Nat) : Option Nat :=
  findFrom (fun i => (List.range n).all fun j => !(s.kslot (i + j)).occupied) (s.nSlots - s.nDoms - 256 + 1 - n) 256

/-- KLG_QUOTA of a domain: the value last written, in the domain table or on its way there (R287, R300); 0 for no domain. -/
def State.quotaOf (s : State) (d : Nat) : Nat :=
  match s.dom d with
  | none => 0
  | some x => match s.klg.quotaNew.get none d with
    | some v => v.toNat
    | none => x.quota.toNat

/-- The place of a new key of `n` slots in domain `d`, or the DETAIL of its refusal (R276). -/
def State.place (s : State) (d n : Nat) : Except Nat Nat :=
  let quota := s.quotaOf d
  if quota ≠ 0 ∧ quota < s.domUsed d + n then .error 0x30
  else match if n = 1 then s.pickSlot else s.pickRun n with
    | some i => .ok i
    | none => .error 0x31

/-! ### Templates and creation (R289 to R291) -/

/-- The 24 bytes of an attribute template (R290). -/
structure Tmpl where
  alg : Nat
  usage : Nat
  attr : Nat
  life : Nat
  zero : Nat
  keyLen : Nat
  run : Nat
  fixed : Nat
  counter : Nat
  deriving DecidableEq, Repr

/-- A template from its bytes; `zero` holds DOMAIN, PARENT and GEN, which must be zero. -/
def Tmpl.ofBytes (b : List Byte) : Tmpl :=
  ⟨leAt b 0 1, leAt b 1 1, leAt b 2 1, leAt b 3 1, leAt b 4 6, leAt b 0xA 1, leAt b 0xB 1, leAt b 0xC 4, leAt b 0x10 8⟩

/-- The template satisfies R290 under a parent slot. -/
def State.tmplOk (s : State) (t : Tmpl) (p : Nat) : Bool :=
  let par := s.kslot p
  match algInfo t.alg with
  | none => false
  | some (lo, hi, _, us) =>
    decide (t.zero = 0) && decide (t.run = 0) && decide (t.attr / 64 % 2 = 0) && decide (t.life / 32 = 0)
      && decide (lo ≤ t.keyLen) && decide (t.keyLen ≤ hi)
      && decide (t.usage ≠ 0) && decide (Nat.land t.usage us = t.usage)
      && decide (Nat.land (t.attr % 16) par.masters.toNat = t.attr % 16)
      && decide (t.life % 16 ≠ 0) && decide (Nat.land (t.life % 16) (par.life.toNat % 16) = t.life % 16)
      && decide (par.sca ≤ t.attr / 16 % 4)
      && (decide (t.attr / 128 = 0) || (decide (1 ≤ t.alg) && decide (t.alg ≤ 3) && decide (t.life / 16 % 2 = 0)))
      && (decide (t.attr / 128 = 1) || decide (t.fixed = 0))
      && (decide (t.attr / 128 = 1) || decide (t.life / 16 % 2 = 1) || decide (t.counter = 0))
      && decide (s.depth p ≤ 6)

/-- The material length a template implies (R291). -/
def Tmpl.matLen (t : Tmpl) : Nat := if algRsa t.alg then 4 + 5 * rsaK t.alg / 2 else t.keyLen

/-- The RSA checks of R291: e odd and at least 3, p·q of 8k bits, dp below p, dq below q, qinv below p. -/
def rsaOk (k : Nat) (m : List Byte) : Bool :=
  let e := ofBe (m.take 4)
  let c := fun i => ofBe (cut m (4 + i * (k / 2)) (k / 2))
  decide (e % 2 = 1) && decide (3 ≤ e) && decide (2 ^ (8 * k - 1) ≤ c 0 * c 1) && decide (c 0 * c 1 < 2 ^ (8 * k))
    && decide (c 2 < c 0) && decide (c 3 < c 1) && decide (c 4 < c 0)

/-- The record of slot `j` of a new run: the head carries the attributes, a member repeats DOMAIN, PARENT and ATTR (R280). -/
def Tmpl.member (t : Tmpl) (d : BitVec 12) (parent : Nat) (runLen j : Nat) (mat : List Byte) : KSlot :=
  let base : KSlot := { state := .valid, material := mat, attr := BitVec.ofNat 8 t.attr, domain := d,
                        parent := BitVec.ofNat 16 parent }
  if j = 0 then
    { base with alg := BitVec.ofNat 8 t.alg, usage := BitVec.ofNat 8 t.usage,
                life := BitVec.ofNat 8 (t.life + 32 * b2n (1 < runLen)), keyLen := BitVec.ofNat 8 t.keyLen,
                run := BitVec.ofNat 8 runLen, fixed := BitVec.ofNat 32 t.fixed, counter := BitVec.ofNat 64 t.counter }
  else { base with alg := 0x38, keyLen := 64, run := BitVec.ofNat 8 j }

/-- The material of slot `j` of a new key: P-521 continues in member 1, RSA components start in a fresh member (R280). -/
def Tmpl.part (t : Tmpl) (mat : List Byte) (j : Nat) : List Byte :=
  if algRsa t.alg then
    let n := rsaK t.alg / 128
    if j = 0 then mat.take 4
    else cut mat (4 + (j - 1) / n * (rsaK t.alg / 2) + (j - 1) % n * 64) (min 64 (rsaK t.alg / 2 - (j - 1) % n * 64))
  else cut mat (64 * j) 64

/-- A key enters the ledger at the place R276 gives it: its slot, or the DETAIL of the refusal with QUOTA or FULL set. -/
def State.createKey (s : State) (t : Tmpl) (d parent : Nat) (mat : List Byte) : State × Except Nat Nat :=
  let n := match algInfo t.alg with
    | some (_, _, r, _) => r
    | none => 1
  match s.place d n with
  | .error e => (s.setBit .klg (if e = 0x30 then 12 else 11), .error e)
  | .ok i =>
    let s1 := (List.range n).foldl (fun s j => s.modKslot (i + j) fun _ =>
      t.member (BitVec.ofNat 12 d) parent n j (t.part mat j)) s
    (s1.onKlg fun k => { k with freed := k.freed.filter fun x => !(decide (i ≤ x) && decide (x < i + n)) }, .ok i)

/-! ### Invalidation (R296) -/

/-- Cached schedules of slots that satisfy `p` are erased in every eight (R157). -/
def State.uncache (s : State) (p : Nat → Bool) : State :=
  s.onEights (·.mapVals {} fun _ x => { x with keyCache := x.keyCache.filter fun n => !p (n / 2) })

/-- The slot or an ancestor of it has been invalidated (R296). -/
def State.invalidated (s : State) (i : Nat) : Bool :=
  (i :: s.ancestors i).any fun a => match (s.kslot a).state with
    | .valid | .failed => false
    | _ => true

/-- The ledger slots whose keys the running strokes of an eight use. -/
def State.slotsUsed (s : State) (x : Eight) : List Nat := x.slots.filterMap fun kv => (kv.2.job.bind s.job).bind (·.keySlot)

/-- Every eight erases its cached copies of an invalidated slot and of its descendants as soon as no running stroke uses them
(R157). -/
def State.sweepKeys (s : State) : State :=
  s.onEights (·.mapVals {} fun _ x =>
    { x with keyCache := x.keyCache.filter fun n => (s.slotsUsed x).contains (n / 2) || !s.invalidated (n / 2) })

/-- The run headed at `i` is erased and freed, its generation advanced (R275, R296). -/
def State.freeRun (s : State) (i : Nat) : State :=
  (s.runOf i).foldl (fun s j =>
    (((s.modKslot j fun _ => {}).onKfrees fun m => m.set 0 j (m.get 0 j + 1)).onKlg fun k =>
      { k with freed := if s.general j then k.freed ++ [j] else k.freed })) s

/-- The run headed at `i` becomes retiring: step 1 of R296. -/
def State.retire (s : State) (i : Nat) (w : Option Drain) : State :=
  let s1 := (s.runOf i).foldl (fun s j => s.modKslot j fun k => { k with state := .retiring }) s
  ((s1.modKslot i fun k => { k with drain := w, drained := false }).onKlg fun k =>
    { k with invalidations := k.invalidations + 1 }).sweepKeys

/-- Slot `i` or an ancestor of it is `a`. -/
def State.under (s : State) (a i : Nat) : Bool := i == a || (s.ancestors i).contains a

/-- Admitted requests that use slot `a` or a descendant of it (R296 step 3). -/
def State.usersOf (s : State) (a : Nat) : List Nat :=
  s.reqsWhere fun q => q.admitted && match q.keySlot with
    | some i => s.under a i
    | none => false

/-- A stroke or segment under slot `a` or a descendant is in execution or loaded (R296 step 2). -/
def State.loadedUnder (s : State) (a : Nat) : Bool :=
  s.jobs.any fun kv => match kv.2 with
    | some b => b.running && (match b.keySlot with
      | some i => s.under a i
      | none => false)
    | none => false

/-- The occupied slots that descend from `a`. -/
def State.descendants (s : State) (a : Nat) : List Nat :=
  s.kslots.filterMap fun kv => if kv.2.occupied && kv.1 != a && (s.ancestors kv.1).contains a then some kv.1 else none

/-- The occupied general slots of a domain, orphans too. -/
def State.domSlots (s : State) (d : Nat) : List Nat :=
  s.kslots.filterMap fun kv => if s.general kv.1 && kv.2.occupied && kv.2.domain.toNat == d then some kv.1 else none

/-- Step 4 of R296: the material of the slot and of every descendant is erased, with every cached copy, each descendant is
orphaned and the slot freed; after DESTROY_DOMAIN every slot of the domain is freed. -/
def State.release (s : State) (i : Nat) : State :=
  let d := (s.kslot i).domain.toNat
  let ending := match s.domains.get none d with
    | some x => x.ending && s.isRoot i
    | none => false
  if ending then
    let all := s.domSlots d
    let s1 := s.uncache fun j => j == i || all.contains j
    let s2 := (all.filter fun j => (s.kslot j).alg != 0x38).foldl State.freeRun s1
    (s2.freeRun i).onDomains (·.set none d none)
  else
    let ds := s.descendants i
    let run := s.runOf i
    let s1 := s.uncache fun j => j == i || ds.contains j
    let s2 := (ds.filter fun j => !(run.contains j)).foldl (fun s j => s.modKslot j fun k =>
      { k with material := [], state := if k.state = .valid ∨ k.state = .failed then .orphaned else k.state }) s1
    s2.freeRun i

/-- The three-alarm rule: a report naming a slot; at the third within one second the slot is invalidated (R168, R265). The
answer tells whether this report invalidated it. -/
def State.alarmReport (s : State) (i : Nat) : State × Bool :=
  let recent := (s.klg.alarms.filter fun a => decide (s.now < a.2 + second)) ++ [(i, s.now)]
  let n := (recent.filter fun a => a.1 == i).length
  let s1 := s.onKlg fun k => { k with alarms := recent }
  if 3 ≤ n ∧ ((s.kslot (s.headOf i)).state = .valid ∨ (s.kslot (s.headOf i)).state = .failed) then
    ((s1.retire (s.headOf i) none).setBit .klg 9, true)
  else (s1, false)

/-- Reports naming a slot within the past second, chip-wide (R178). -/
def State.alarmCount (s : State) (i : Nat) : Nat :=
  (s.klg.alarms.filter fun a => a.1 == i && decide (s.now < a.2 + second)).length

/-! ### The hierarchy (R284, R285, R299, R342) -/

/-- The identity root's bytes; zeros before the first start in MAKER has drawn it. -/
def State.identity (s : State) : List Byte :=
  match s.otp.identityRoot with
  | some x => leBytes 64 x.toNat
  | none => List.replicate 64 0

/-- A KMAC256 derivation with S = "ZK7 ID" (R342). -/
def idKdf (key x : List Byte) (n : Nat) : List Byte := kmac 256 key x n (ascii "ZK7 ID")

/-- A P-384 scalar from 56 bytes, (m mod (n − 1)) + 1 (R342, R289). -/
def scalarOf (c : WCurve) (m : List Byte) : List Byte := beBytes c.len (ofBe m % (c.n - 1) + 1)

/-- The DeviceID ML-DSA-87 seed. -/
def State.deviceSeed (s : State) : List Byte := idKdf s.identity (ascii "DEVICEID MLDSA") 32

/-- The DeviceID digest (R342): SHA3-256 of the 2,592-byte ML-DSA-87 DeviceID public key. -/
def State.deviceId (s : State) : List Byte := sha3 32 (padTo 2592 (mldsaPk s.deviceSeed))

/-- The CDI: the latched one, or the one of the registers as they stand (R342, R343). -/
def State.cdiNow (s : State) : List Byte :=
  match s.ump.cdi with
  | some x => x
  | none => idKdf s.identity (ascii "CDI" ++ (s.mreg 0).val ++ (s.mreg 1).val ++ (s.mreg 2).val) 64

/-- The service root; zeros when there is none. -/
def State.serviceBytes (s : State) : List Byte :=
  match s.aod.serviceRoot with
  | some x => leBytes 64 x.toNat
  | none => List.replicate 64 0

/-- The root of slot 0: the service root, the debug root while it stands in for it (R285, R288). -/
def State.rootBytes (s : State) : List Byte :=
  if s.klg.debugRoot then leBytes 64 s.klg.debugRootVal.toNat else s.serviceBytes

/-- A device-internal slot filled by the Umpire (R274, R342): WORLD device-internal, MASTERS UMPIRE, LC_MASK 0xF. -/
def internalSlot (alg usage sca : Nat) (mat : List Byte) : KSlot :=
  { state := .valid, material := mat, alg := BitVec.ofNat 8 alg, usage := BitVec.ofNat 8 usage,
    attr := BitVec.ofNat 8 (0x44 + 16 * sca), life := 0x0F, keyLen := BitVec.ofNat 8 mat.length, run := 1 }

/-- Slots 1 to 5: the identity-side keys (R299, R342). -/
def State.deriveIdentity (s : State) : State :=
  let cdi := s.cdiNow
  let put := fun (s : State) (i : Nat) (k : KSlot) => s.modKslot i fun _ => k
  let s1 := put s 1 (internalSlot 0x40 0x10 2 s.deviceSeed)
  let s2 := put s1 2 (internalSlot 0x21 0x50 2 (scalarOf p384 (idKdf s.identity (ascii "DEVICEID P384") 56)))
  let s3 := put s2 3 (internalSlot 0x40 0x10 2 (idKdf cdi (ascii "ALIAS MLDSA") 32))
  let s4 := put s3 4 (internalSlot 0x21 0x50 2 (scalarOf p384 (idKdf cdi (ascii "ALIAS P384") 56)))
  put s4 5 (internalSlot 0x18 0x40 2 (idKdf cdi (ascii "ATTEST") 64))

/-- The material of the key-derivation root (R285). -/
def State.kdrBytes (s : State) : List Byte := kdf s.rootBytes (ascii "KDR" ++ s.deviceId) 64

/-- The material of domain d's root from that of the key-derivation root (R285). -/
def domainRoot (kdr : List Byte) (d : Nat) (salt : List Byte) : List Byte := kdf kdr (ascii "DOMAIN" ++ beBytes 2 d ++ salt) 64

/-- Domain d's root from its salt (R285). -/
def State.deriveRoot (s : State) (d : Nat) : State :=
  match s.dom d with
  | none => s
  | some x =>
    s.modKslot (s.rootSlot d) fun _ =>
      { state := .valid, material := domainRoot (s.kslot 0).material d x.salt,
        alg := 0x18, usage := 0x40, attr := if d = 0 then 0x0B else 0x0A, life := 0x0F,
        domain := BitVec.ofNat 12 d, keyLen := 64, run := 1 }

/-- The domains that exist (R94: not one whose root is retiring after DESTROY_DOMAIN). -/
def State.domIds (s : State) : List Nat :=
  addNew (s.domains.filterMap fun kv => match kv.2 with
    | some x => if x.ending then none else some kv.1
    | none => none) 0

/-- KLG_SVC_ID: the fingerprint of the service root (R284), of that root too while a debug root stands in for it (DEDUCED, log
entry 71). -/
def State.svcId (s : State) : W64 := BitVec.ofNat 64 (ofLe ((kdf s.serviceBytes (ascii "SVC ID") 64).take 8))

/-- Slot 0 and every existing domain's root are derived, and the identity slots (R285, R299). -/
def State.deriveRoots (s : State) : State :=
  let s1 := s.modKslot 0 fun _ => internalSlot 0x18 0x40 0 s.kdrBytes
  let s2 := s1.domIds.foldl State.deriveRoot s1
  (s2.deriveIdentity).onKlg fun k => { k with rootsReady := true, svcId := s.svcId }

/-- A new service root from the TRNG (R284). -/
def State.renewRoot (s : State) : State :=
  ((s.onAod fun a => { a with serviceRoot := some (s.draw 512) }).spend 1).setBit .klg 10

/-- The context key of a domain (R285). -/
def State.ctxKey (s : State) (d : Nat) : List Byte := kdf (s.kslot (s.rootSlot d)).material (ascii "CONTEXT") 32

/-- The ML-KEM seed of a domain's import key (R285). -/
def State.importSeed (s : State) (d : Nat) : List Byte := kdf (s.kslot (s.rootSlot d)).material (ascii "IMPORT") 64

end Sys2Proof.Machine
end

