-- ==== Sys2Proof/Machine/Faults.lean ====
section
/-!
DEFINITION. Faults and containment (R12 to R18, R167, R168, R268): block alarms, isolation, quarantine, wipes, and the
commands CELL_FAULT, BLOCK_ALARM and RANDOMNESS_WAIT_TIMEOUT.
-/

namespace Sys2Proof.Machine

/-- A stroke slot at the start of its stroke: results, registers and staging output discarded (R12, R14, R167). -/
def Slot.again (b : Job) (t : Slot) : Slot :=
  { t with regs := coxRegs, win := winOf (b.window.take 31), cbg := b.window.getD 31 0, cbgCfg := 0, cbgRefused := false
           cbgFull := b.cbgFull, inLeft := t.inData.length, outLeft := t.outLeft + t.outBuf.length, aadLeft := t.aadData.length
           outBuf := [], tagOut := none, tcmpSeen := b.tcmpSeen, tcmpOk := b.tcmpOk, instrs := 0, seatOps := 0 }

/-- A job's stroke in execution runs again from its starting context; one that has ended keeps its result. A digest cell and a slice
hold nothing of their unit of work apart from its input. -/
def State.restartStroke (s : State) (j : Nat) : State :=
  match s.job j with
  | none => s
  | some b => s.onEights (·.mapVals {} fun _ x =>
      { x with slots := x.slots.mapVals {} fun _ t => if t.job = some j ∧ t.ended = false then t.again b else t })

/-- A single-pass AEAD decryption begins again with its first byte, for none of its plaintext has been written (R14, R173). -/
def State.restartMessage (s : State) (j : Nat) : State :=
  (s.unplace j).modJob j fun b =>
    { b with begun := false, done := 0, partDone := 0, ctx := [], held := [], tcmpSeen := false, tcmpOk := true, cbgFull := false
             faults := [] }

/-- An AEAD decryption in a single pass. -/
def Job.heldOne (b : Job) : Bool := b.hold && b.pass == .single

/-- A job whose block goes on without its work: the message restarts if its plaintext was held there, else its stroke (R14, R16). -/
def State.restartJob (s : State) (j : Nat) : State :=
  match s.job j with
  | none => s
  | some b => if b.heldOne then s.restartMessage j else s.restartStroke j

/-- A job leaves its home, to be placed again (R16, R135); the hold area it reserved there is given back. -/
def State.unhome (s : State) (j : Nat) : State :=
  match s.job j with
  | none => s
  | some b =>
    let s1 := match b.kind, b.home with
      | .eight, some e => s.modEight e fun x => { x with holdPages := x.holdPages - b.holdPages }
      | .pair, _ => s.onSlices (·.mapVals {} fun _ x => { x with frames := x.frames.filter (· != j) })
      | _, _ => s
    s1.modJob j fun b => { b with home := none, block := none, holdPages := 0 }

/-- The jobs whose stroke is in execution in a block. -/
def State.runningIn (s : State) (k : BlockKind) (u : Nat) : List Nat :=
  match k with
  | .eight => (List.range 8).filterMap fun n => (s.slot u n).job
  | .quad => s.jobsWhere fun b => b.kind == .quad && b.running && (match b.home with
      | some c => c / 4 == u
      | none => false)
  | .pair => (List.range 2).filterMap fun n => (s.slice (2 * u + n)).running

/-- The jobs whose home lies in a block. -/
def State.homedIn (s : State) (k : BlockKind) (u : Nat) : List Nat :=
  s.jobsWhere fun b => match k, b.kind with
    | .eight, .eight => b.home == some u
    | .quad, .quad => b.blockOf == some u
    | .pair, .pair => b.blockOf == some u
    | _, _ => false

/-- A slice's private memory is overwritten with zeros, taint bits and key area with it (R253); a frame whose job has a context cache
entry loses its copy alone. -/
def State.wipeSlice (s : State) (i : Nat) : State :=
  let gone := (s.slice i).frames
  let s1 := gone.foldl (fun s j => s.modJob j fun b => if b.resident then b else { b with ops := [], yield := 0 }) s
  s1.modSlice i fun x =>
    { x with frames := [], running := none, busy := false, keyArea := [], w := [], wipes := x.wipes + 1 }

/-! ### The direct port's job (R142, R246) -/

/-- A direct job ends with a failure code: ERROR and DIR_ERR set, nothing is extended (R246). -/
def State.directFail (s : State) (r code : Nat) : State :=
  ((s.modQuad r fun x => { x with dirBusy := false, direct := 0, dirFault := false, dirError := true, dirOut := []
                                  dirCode := BitVec.ofNat 8 code }).setBit (.qad r) 9).giveDirect

/-- The report of a ledger slot to the key ledger after an alarm (R168); in an eight it also shows in EGT_ALARM. -/
def State.reportSlot (s : State) (k : BlockKind) (u : Nat) (slot : Option Nat) (counts : Bool) : State :=
  match slot with
  | none => s
  | some i =>
    let r := if counts then s.alarmReport i else (s, false)
    match k with
    | .eight =>
      let s1 := r.1.modEight u fun x => { x with alarmSlot := BitVec.ofNat 16 i, alarmValid := true }
      if r.2 then s1.setBit (.egt u) 11 else s1
    | _ => r.1

/-- The jobs of an eight that restart after an alarm: strokes in execution, and held decryptions homed there (R14). -/
def State.restartsIn (s : State) (k : BlockKind) (u : Nat) : List Nat :=
  match k with
  | .eight => s.jobsWhere fun b => b.kind == .eight && b.home == some u && (b.running || b.heldOne)
  | _ => []

/-- The block alarm action (R14, R268), in its order: the working keys are erased, the jobs `who` complete with BLOCK_FAULT, the alarm
is recorded with the ledger slot of the first of them. Every other stroke in execution runs again, as does every decryption held in
an eight. `counts`: the report counts under the three-alarm rule (R403: not for a class response). -/
def State.alarm (s : State) (k : BlockKind) (u : Nat) (who : List Nat) (code detail : Nat) (counts : Bool) : State :=
  let named := who.findSome? fun j => (s.job j).bind (·.keySlot)
  let recd := fun (s : State) => ((match k with
    | .eight => s.setBit (.egt u) 10
    | _ => s).recErr (blockPage k u) code detail).reportSlot k u named counts
  match k with
  | .pair =>
    let res := (s.slice (2 * u)).frames ++ (s.slice (2 * u + 1)).frames ++ s.runningIn .pair u
    let s1 := (s.wipeSlice (2 * u)).wipeSlice (2 * u + 1)
    let s2 := recd (res.foldl (fun s j => s.failJob j { st := 0x72 }) s1)
    (s2.homedIn .pair u).foldl (fun s j => s.modJob j fun b => { b with fault := true }) s2
  | _ =>
    let s1 := match k with
      | .eight => s.modEight u fun x => { x with keyCache := [] }
      | _ => s
    let s2 := recd (who.foldl (fun s j => s.failJob j { st := 0x72 }) s1)
    (s2.restartsIn k u).foldl State.restartJob s2

/-! ### Quarantine (R16 to R18) -/

/-- The work of a block that leaves service: running requests complete with BLOCK_FAULT, every other message moves (R16). -/
def State.clearBlock (s : State) (k : BlockKind) (u : Nat) : State :=
  let s1 := (s.runningIn k u).foldl (fun s j => s.failJob j { st := 0x72 }) s
  let s2 := (s1.homedIn k u).foldl (fun s j => (s.restartJob j).unhome j) s1
  match k with
  | .eight => s2.modEight u fun x => { x with cadence := 0, cadenceNorm := 0, keyCache := [], slots := [], holdPages := 0 }
  | .quad => if (s2.quad u).dirBusy then s2.directFail u 0x72 else s2
  | .pair => s2

/-- A page's unit goes out of service (R39, R41). -/
def State.setQuar (s : State) (p : PageId) : State :=
  (s.modHdr p fun h => { h with quar := true }).setBit p 3

/-- The kind and index of a block page. -/
def pageBlock : PageId → Option (BlockKind × Nat)
  | .egt e => some (.eight, e)
  | .qad r => some (.quad, r)
  | .pke r => some (.pair, r)
  | _ => none

/-- A region is quarantined (R18, R404): error code 0x86 in its RGN page; its block pages record no error. -/
def State.quarantineRegion (s : State) (r : Nat) : State :=
  if s.present (.rgn r) = false then s
  else
    let s1 := (s.setQuar (.rgn r)).recErr (.rgn r) 0x86 0
    let s2 := ((regionPages r).drop 1).foldl (fun s p => match pageBlock p with
      | some (k, u) => if s.usable p then (s.setQuar p).clearBlock k u else s
      | none => s) s1
    s2.sumCadence.syncQuar

/-- A block is quarantined (R16); two blocks of one region within one minute take the region with them (R18). -/
def State.quarantine (s : State) (k : BlockKind) (u : Nat) : State :=
  let p := blockPage k u
  if s.usable p = false then s
  else
    let r := blockRegion k u
    let s1 := ((s.setQuar p).recErr p 0x85 0).clearBlock k u
    let recent := s.chip.quarAt.filter fun a => decide (s.now < a.2.2 + 60 * second)
    let s2 := (s1.onChip fun c => { c with quarAt := recent ++ [(r, pageKey p, s.now)] }).sumCadence.syncQuar
    if recent.any (fun a => a.1 == r && a.2.1 != pageKey p) ∧ s.quarantined (.rgn r) = false then s2.quarantineRegion r else s2

/-! ### Isolation (R13) -/

/-- A cell is isolated, its block quarantined when too few are left (R13). -/
def State.isolate (s : State) (k : BlockKind) (u c : Nat) : State :=
  let s1 := match k with
    | .eight => (s.modEight u fun x => { x with isolated := x.isolated ||| (1#8 <<< c) }).setBit (.egt u) 9
    | .quad => s.modQuad u fun x => { x with isolated := x.isolated ||| (1#4 <<< c) }
    | .pair => s.modSlice (2 * u + c) fun x => { x with isolated := true }
  let s2 := s1.recErr (blockPage k u) 0x83 c
  let full := match k with
    | .eight => decide (4 ≤ popBelow ((s2.eight u).isolated.setWidth 32) 8)
    | .quad => (s2.quad u).isolated == 0xF
    | .pair => (s2.slice (2 * u)).isolated && (s2.slice (2 * u + 1)).isolated
  if full then s2.quarantine k u else s2

/-- The tick of a cell's last fault. -/
def State.lastFaultOf (s : State) (k : BlockKind) (u c : Nat) : Option Nat :=
  match k with
  | .eight => (s.eight u).lastFault.get none c
  | .quad => (s.quad u).lastFault.get none c
  | .pair => (s.slice (2 * u + c)).lastFault

/-- A cell is isolated already, or is to be at the end of the unit it holds. -/
def State.isIsolated (s : State) (k : BlockKind) (u c : Nat) : Bool :=
  match k with
  | .eight => (s.eight u).isolated.getLsbD c
  | .quad => (s.quad u).isolated.getLsbD c || (s.quad u).pendIso.getLsbD c
  | .pair => (s.slice (2 * u + c)).isolated || (s.slice (2 * u + c)).pendIso

/-- A digest cell or a slice holds a unit of work. -/
def State.cellHolds (s : State) (k : BlockKind) (u c : Nat) : Bool :=
  match k with
  | .eight => false
  | .quad => (s.quad u).busy.getLsbD c || (s.quad u).direct.getLsbD c
  | .pair => (s.slice (2 * u + c)).running.isSome

/-- One fault of a cell counts toward isolation: two within any one-second interval isolate it, a seat at once, a digest cell or a
slice at the end of the unit of work it holds (R13). -/
def State.countFault (s : State) (k : BlockKind) (u c : Nat) : State :=
  let again := s.within (s.lastFaultOf k u c) second && !s.isIsolated k u c
  let s1 := match k with
    | .eight => s.modEight u fun x => { x with lastFault := x.lastFault.set none c (some s.now) }
    | .quad => s.modQuad u fun x => { x with lastFault := x.lastFault.set none c (some s.now) }
    | .pair => s.modSlice (2 * u + c) fun x => { x with lastFault := some s.now }
  if again = false then s1
  else if s.cellHolds k u c then match k with
    | .eight => s1
    | .quad => s1.modQuad u fun x => { x with pendIso := x.pendIso ||| (1#4 <<< c) }
    | .pair => s1.modSlice (2 * u + c) fun x => { x with pendIso := true }
  else s1.isolate k u c

/-- The cells of the quad and the pair of a region that hold no unit of work any more are isolated if that was due (R13). -/
def State.settle (s : State) (r : Nat) : State :=
  let s1 := (List.range 4).foldl (fun s c =>
    if (s.quad r).pendIso.getLsbD c && !s.cellHolds .quad r c then
      (s.modQuad r fun x => { x with pendIso := x.pendIso &&& ~~~(1#4 <<< c) }).isolate .quad r c
    else s) s
  (List.range 2).foldl (fun s c =>
    if (s.slice (2 * r + c)).pendIso && !s.cellHolds .pair r c then
      (s.modSlice (2 * r + c) fun x => { x with pendIso := false }).isolate .pair r c
    else s) s1

/-- Isolations that fall due in any region. -/
def State.settleAll (s : State) : State := (List.range 4).foldl State.settle s

/-- The job whose unit of work is in execution in a stroke slot, a digest cell or a slice. -/
def State.unitJob (s : State) (k : BlockKind) (u n : Nat) : Option Nat :=
  match k with
  | .eight => if (s.slot u n).ended then none else (s.slot u n).job
  | .quad => (s.jobsWhere fun b => b.kind == .quad && b.running && b.home == some (4 * u + n)).head?
  | .pair => (s.slice (2 * u + n)).running

/-- A digest cell runs the direct port's job. -/
def State.directIn (s : State) (k : BlockKind) (u n : Nat) : Bool := k == .quad && (s.quad u).direct.getLsbD n

/-- A unit of work has ended without a further fault: those of its first run count as corrected, and are recorded (R12). -/
def State.cured (s : State) (k : BlockKind) (u j : Nat) : State :=
  match s.job j with
  | none => s
  | some b => (b.faults.foldl (fun s c => (s.recErr (blockPage k u) 0x82 c).setBit (blockPage k u) 0) s).modJob j fun b =>
      { b with faults := [] }

/-- CELL_FAULT (R12, R13, R167): cells `cs` fault in the unit of work of a slot, cell or slice. The first time, the unit runs once
more; a fault in the second run raises the cell alarm and with it the block alarm. Each fault counts toward isolation. -/
def State.cellFault (s : State) (k : BlockKind) (u n : Nat) (cs : List Nat) (code : Nat) : State :=
  let p := blockPage k u
  let count := fun (s : State) => cs.foldl (fun s c => s.countFault k u c) s
  let note := fun (s : State) => cs.foldl (fun s c => s.recErr p code c) s
  if s.usable p = false ∨ cs = [] then s
  else match s.unitJob k u n with
    | some j =>
      let s0 := match k with
        | .eight => s.setBit p 8
        | _ => s
      if ((s.job j).map (·.faults)).getD [] = [] then
        count ((s0.modJob j fun b => { b with faults := cs }).restartStroke j)
      else (count ((note s0).alarm k u [j] 0x84 (cs.headD 0) true)).settle (blockRegion k u)
    | none =>
      if s.directIn k u n = false then s
      else if (s.quad u).dirFault = false then count (s.modQuad u fun x => { x with dirFault := true })
      else (count (((note s).directFail u 0x72).alarm k u [] 0x84 n true)).settle u

/-- CELL_FAULT: `cells` are the seats of an eight; in a quad or a pair the cell is the one that holds the unit. -/
def execCellFault (k : BlockKind) (unit slot : Nat) (cells : BitVec 8) (code : BitVec 8) (s : State) : Out :=
  s.powered fun s => .next (s.atOnce fun s =>
    s.cellFault k unit slot (match k with
      | .eight => (List.range 8).filter fun c => cells.getLsbD c
      | _ => [slot]) code.toNat)

/-- A stroke that had ended was writing its output when the alarm came: the first `n` bytes are written (R169, R175). -/
def State.writeSent (s : State) (e k n : Nat) : State :=
  let t := s.slot e k
  match t.job.bind s.job with
  | none => s
  | some b => match s.req b.req with
    | none => s
    | some q =>
      let last := b.partDone + t.inData.length == b.partLen && !q.more
      let data := if b.heldOne then (if last && t.tcmpSeen && t.tcmpOk then b.held ++ t.outBuf else []) else t.outBuf
      let part := data.take n
      if t.ended = false ∨ part = [] then s
      else ((s.writeOut q b.written part).meter q.fn q.ch [(1, part.length)]).modJob (t.job.getD 0) fun b =>
        { b with written := b.written + part.length }

/-- The codes of a failed self-check of a block's control state: an uncorrectable error (R16, R45, R179). -/
def controlCode (code : Nat) : Bool := code == 0x87 || code == 0x8C

/-- BLOCK_ALARM (R14): the block's own checks raise an alarm in the stroke of a slot, cell or slice; of a stroke whose output was
being written, `sent` bytes are out. A failed check of control state also quarantines the block (R16). -/
def State.blockAlarm (s : State) (k : BlockKind) (u n code detail sent : Nat) : State :=
  let p := blockPage k u
  if s.usable p = false then s
  else
    let s0 := match k with
      | .eight => s.writeSent u n sent
      | _ => if s.directIn k u n then s.directFail u 0x72 else s
    let who := match k with
      | .eight => (s.slot u n).job
      | _ => s.unitJob k u n
    let s1 := s0.alarm k u who.toList code detail true
    (if controlCode code then (s1.setBit p 1).quarantine k u else s1).settle (blockRegion k u)

/-- BLOCK_ALARM. -/
def execBlockAlarm (k : BlockKind) (unit : Nat) (slot : AlarmAt) (code : BitVec 8) (detail : BitVec 5) (s : State) : Out :=
  s.powered fun s => .next (s.atOnce fun s => s.blockAlarm k unit slot.slot code.toNat detail.toNat slot.sent)

/-- RANDOMNESS_WAIT_TIMEOUT (R169, R264): a wait of more than 1 ms in the unit of work of a slot, cell or slice raises a block alarm
with code 0x88; where none is in execution, nothing waits. -/
def execRandomnessWaitTimeout (k : BlockKind) (unit slot cell : Nat) (s : State) : Out :=
  s.powered fun s =>
  if (s.unitJob k unit slot).isSome || s.directIn k unit slot then .next (s.atOnce fun s =>
    let s1 := s.blockAlarm k unit slot 0x88 cell 0
    match k with
    | .eight => s1.setBit (.egt unit) 12
    | _ => s1)
  else .next s

end Sys2Proof.Machine
end

