-- ==== Sys2Proof/Machine/Heat.lean ====
section
/-!
DEFINITION. Metering heats (R443 to R453, R480): closing a heat, the snapshot banks, the report ring, and the commands of
the heat family.
-/

namespace Sys2Proof.Machine

/-! ### Closing a heat (R445, R446, R448) -/

/-- The empty records with which heat h + 1 opens: every existing domain and channel. -/
def State.freshLive (s : State) : Bank :=
  { openTicks := s.now, maskFallback := s.chip.maskFallback
    domains := s.domIds.foldl (fun m d => m.set none d (some { salt := s.saltOf d })) []
    channels := s.chans.filterMap fun kv => match kv.2 with
      | some c => some { handle := c.handle, account := c.account, fn := kv.1 / 65536, dom := s.fnDomain (kv.1 / 65536) }
      | none => none }

/-- The bank that keeps heat h: h mod 2 (R448). -/
def State.bankOf (s : State) (h : Nat) : Bank := if h % 2 = 0 then s.heat.bankA else s.heat.bankB

/-- Reports of heat h and earlier that are still due are lost (R451): logged, RPT_LOST, and PREV_LOST for the next report. -/
def State.loseReports (s : State) (upTo : Nat) : State :=
  let gone := s.heat.due.filter fun x => decide (x.1.toNat ≤ upTo)
  if gone.isEmpty then s
  else
    let s1 := s.onHeat fun t => { t with due := t.due.filter fun x => !decide (x.1.toNat ≤ upTo)
                                         prevLost := gone.foldl (fun l x => addNew l x.2) t.prevLost }
    (gone.foldl (fun s x => s.logEvent 2 10 0 x.2) s1).setBit .heat 10

/-- The close token: heat h passes into its bank, h + 1 opens, the reports of h fall due (R445, R446, R448, R450, R451). -/
def State.closeNow (s : State) (cause : BitVec 4) : State :=
  let h := s.aod.heatNo
  let bank : Bank := { s.heat.live with heat := h, cause := cause, ready := false, closeTicks := s.now, epoch := s.aod.epoch }
  let doms := bank.domains.map (·.1)
  let s1 := s.onHeat fun t =>
    { t with bankA := if h.toNat % 2 = 0 then bank else t.bankA
             bankB := if h.toNat % 2 = 0 then t.bankB else bank
             live := s.freshLive, lastClose := s.now, heldCause := 0
             due := if t.rptKib = 0 then t.due else t.due ++ doms.map fun d => (h, d) }
  let s2 := s1.onAod fun a => { a with heatNo := h + 1 }
  (s2.loseReports (h.toNat - 2)).setBit .heat 8

/-- A close of this moment would be held: the previous token is less than 1 ms old, or its bank is not ready (R446, R452). -/
def State.closeHeld (s : State) : Bool :=
  let h := s.aod.heatNo.toNat
  let prev := s.bankOf (h - 1)
  decide (2 ≤ h) && decide (prev.heat.toNat = h - 1) &&
    (!prev.ready || decide ((s.now - s.heat.lastClose) * 1000 < second))

/-- A close cause arrives (R445, R446). -/
def State.closeHeat (s : State) (cause : BitVec 4) : State :=
  if s.closeHeld then s.onHeat fun t => { t with heldCause := t.heldCause ||| cause }
  else s.closeNow (cause ||| s.heat.heldCause)

/-- A close by another cause than an edge, with the pulse of OUT_ALL (R447). -/
def State.closeByOwn (s : State) (cause : BitVec 4) : State :=
  let s1 := s.closeHeat cause
  if s.closeHeld = false ∧ s.heat.outAll = true then s1.emit .heatPulse else s1

/-- HEAT_TIMER_EXPIRY (R445, R447): PERIOD_S has passed since the last close; with IN_EN set the timer acts only as the
fall-back after an IN timeout. -/
def execHeatTimerExpiry (s : State) : Out :=
  s.powered fun s =>
  if s.heat.periodS ≠ 0 ∧ (s.heat.inEn = false ∨ (s.heat.fallback = true ∧ s.heat.inTimedOut = true)) then
    .next (s.closeByOwn 1)
  else .next s

/-- HEAT_IN_EDGE (R447, R480): an accepted edge always pulses HEAT_OUT, restarts the IN timeout, and closes with IN_EN. -/
def execHeatInEdge (s : State) : Out :=
  s.powered fun s =>
  let s1 := (s.emit .heatPulse).onHeat fun t => { t with lastIn := s.now, inTimedOut := false }
  .next (if s.heat.inEn then s1.closeHeat 2 else s1)

/-- HEAT_CTRL_CLOSE (R55, R445, R453): by the PF or the Umpire, outside a reset. -/
def execHeatCtrlClose (who : Requester) (s : State) : Out :=
  s.powered fun s => .next (s.gateWrite who .heat false fun s => s.closeByOwn 4)

/-- HELD_CLOSE_RELEASE (R446): the held close takes place once, with every held cause; an edge alone has had its pulse
(R447). -/
def execHeldCloseRelease (s : State) : Out :=
  s.powered fun s =>
  if s.heat.heldCause = 0 then .next s
  else
    let s1 := s.closeNow s.heat.heldCause
    .next (if s.heat.outAll = true ∧ s.heat.heldCause ≠ 2 then s1.emit .heatPulse else s1)

/-- HEAT_IN_TIMEOUT (R447): no edge for IN_TIMEOUT_S seconds while IN_EN is 1. -/
def execHeatInTimeout (s : State) : Out :=
  s.powered fun s =>
  if s.heat.inEn = true ∧ s.heat.inTimeoutS ≠ 0 then
    .next ((s.onHeat fun t => { t with inTimedOut := true }).setBit .heat 9)
  else .next s

/-- BANK_READY (R448): the bank of a closed heat is complete; `b` names bank B. -/
def execBankReady (b : Bool) (s : State) : Out :=
  s.powered fun s =>
  .next (s.onHeat fun t =>
    if b then { t with bankB := { t.bankB with ready := t.bankB.heat != 0 } }
    else { t with bankA := { t.bankA with ready := t.bankA.heat != 0 } })

end Sys2Proof.Machine
end

