-- ==== Sys2Proof/Machine/Cache.lean ====
section
/-!
DEFINITION. The context cache, spill frames and context blobs (R144 to R153), and the commands SPILL_WRITE_SENT and
FRAME_READBACK.
-/

namespace Sys2Proof.Machine

/-- The stroke size (R133). -/
def State.strokeSize (s : State) : Nat := 2 ^ s.msh.strokeLog.toNat

/-- A PKE command with yield points (R266): exponentiations, elliptic curves, lattices. -/
def pkeYields (cmd : Nat) : Bool := cmd == 0x0014 || decide (0x0100 ≤ cmd)

/-- The request brings a context that must live on (R144, R147): a message that continues or exceeds one stroke, a RESTORE, the first
PKE command of a job that may yield. How many a PKE job will need shows only when it yields; DESIGN CHOICE (log entry 69): it is
admitted with room for one. -/
def State.needsCtx (s : State) (q : Req) : Bool :=
  ((q.typ == 1 || q.typ == 2) && !q.cont && (q.more || decide (s.strokeSize < q.inLen))) || (q.typ == 5 && q.subop == 1) ||
  (q.typ == 3 && pkeYields q.cmd && (s.chainJobs q).all fun j => ((s.job j).map (·.entries)).getD 0 == 0)

/-- Live contexts of a function (R147): resident and spilled, and those for which an admitted request has been given room. A PKE
job's count from its first yield (R252). -/
def State.liveContexts (s : State) (f : Nat) : Nat :=
  s.reqs.foldl (fun n kv => match kv.2 with
    | some q => if q.fn = f ∧ q.admitted = true ∧ q.job = none ∧ s.needsCtx q = true then n + 1 else n
    | none => n) (s.jobs.foldl (fun n kv => match kv.2 with
      | some b => if b.fn = f then n + b.entries else n
      | none => n) 0)

/-- The frames of a function's spill area (R146). -/
def State.frameCount (s : State) (f : Nat) : Nat := (s.fn f).spillKib.toNat * 1024 / 576

/-- The key of frame `k` of a function. -/
def frKey (f k : Nat) : Nat := f * 16777216 + k

/-- Free frames of a function. -/
def State.freeFrames (s : State) (f : Nat) : Nat :=
  s.frameCount f - (s.msh.frames.filter fun kv => decide (kv.1 / 16777216 = f) && kv.2.isSome).length

/-- The first free frame of a function. -/
def State.freeFrame (s : State) (f : Nat) : Option Nat :=
  findFrom (fun k => (s.msh.frames.get none (frKey f k)).isNone) (s.frameCount f) 0

/-- KIND of a blob (R149). -/
def Job.kindCode (b : Job) : Nat := match b.kind with
  | .eight => 1
  | .quad => 2
  | .pair => 3

/-- The 512 bytes of context that part `i` of a job's state seals (R149, R185). -/
def Job.ctxPart (b : Job) (i : Nat) : List Byte :=
  match b.kind with
  | .eight => padTo 512 (b.ctx.flatMap wordBytes)
  | .quad => padTo 512 (Config.ctxLayout 2 (leBytes 8 b.dkey.length ++ b.dkey ++ leBytes 8 b.iv.length ++ b.iv ++ b.absorbed))
  | .pair => padTo 512 (Config.ctxLayout (3 + 256 * i) (b.ops.flatMap fun kv => match kv.2 with
      | some o => byteOf kv.1 :: o.bytes
      | none => []))

/-- PROGRAM, ALG or command of a blob (R149). -/
def State.blobProgram (s : State) (b : Job) : Nat :=
  match b.kind with
  | .eight => match s.progs.get none b.prog with
    | some p => p.id.toNat
    | none => 0
  | .quad => bits b.op 7 0
  | .pair => bits b.op 15 0

/-- The job is that of an open continued message, or of a part that opens or continues one (R123, R149). -/
def State.openPart (s : State) (j : Nat) (b : Job) : Bool :=
  (match s.req b.req with
    | some q => (q.typ == 1 || q.typ == 2) && (q.more || q.cont)
    | none => false) ||
  (match (s.chan b.fn b.ch).bind (·.openMsg) with
    | some m => m.job == j
    | none => false)

/-- The cleartext header of a blob (R149). -/
def State.blobHeader (s : State) (b : Job) (handle : W32) (part n ctr seq : Nat) (saved more : Bool) : List Byte :=
  leBytes 2 1 ++ [byteOf b.kindCode, byteOf (part + 16 * (n - 1))] ++ leBytes 2 b.domain
    ++ [byteOf b.fn, byteOf (b2n saved + 2 * b2n more)] ++ leBytes 4 handle.toNat ++ leBytes 4 s.aod.epoch.toNat
    ++ leBytes 8 ctr ++ leBytes 8 seq
    ++ leBytes 4 (match b.keySlot with
      | some i => s.khandle i
      | none => 0)
    ++ leBytes 2 (s.blobProgram b) ++ [byteOf (b.home.getD 0), 0] ++ leBytes 8 b.done

/-- A sealed blob of 576 bytes (R149, R150): AES-256-GCM under the domain's context key, IV EPOCH ‖ BLOB_CTR. -/
def State.sealBlob (s : State) (b : Job) (handle : W32) (part n ctr seq : Nat) (saved more : Bool) : List Byte :=
  let h := s.blobHeader b handle part n ctr seq saved more
  let iv := leBytes 4 s.aod.epoch.toNat ++ leBytes 8 ctr
  let (ct, tag) := gcmSeal (s.ctxKey b.domain) iv h (b.ctxPart part)
  h ++ ct ++ tag

/-- One blob of a state goes to a free frame: BLOB_CTR advances, the frame is in use (R146, R150). -/
def State.spillPart (s : State) (j : Nat) (b : Job) (c : Chan) (n seq part : Nat) : State :=
  match s.freeFrame b.fn with
  | none => s
  | some k =>
    let ctr := s.msh.blobCtr + 1
    let blob := s.sealBlob b c.handle part n ctr seq false (s.openPart j b)
    let s1 := s.onMsh fun m =>
      { m with blobCtr := ctr, frames := m.frames.set none (frKey b.fn k) (some ⟨j, part, seq, ctr⟩) }
    (s1.dmaWrite b.fn (s.tlp b.fn none false) ((s.fn b.fn).spillBase.toNat + 576 * k) blob).modJob j fun b =>
      { b with frame := some (b.frame.getD k) }

/-- CONTEXT_EVICT (R145): a context is spilled as one blob per entry, under one SEQ (R151); a PKE job leaves its frame. -/
def State.spill (s : State) (j : Nat) : State :=
  match s.job j with
  | none => s
  | some b =>
    match s.chan b.fn b.ch with
    | none => s
    | some c =>
      let s1 := (List.range b.entries).foldl (fun s p => s.spillPart j b c b.entries c.seq p) s
      let s2 := (s1.modChan b.fn b.ch fun c => { c with seq := c.seq + 1 }).onMsh fun m =>
        { m with lru := m.lru.filter (· != j) }
      match b.kind with
      | .pair => s2.onSlices (·.mapVals {} fun _ x => { x with frames := x.frames.filter (· != j) })
      | _ => s2

/-- The least recently used unpinned context whose function has a frame for each of its blobs (R145, R147). -/
def State.lruVictim (s : State) (not : Nat) : Option Nat :=
  s.msh.lru.find? fun j => j != not && match s.job j with
    | some b => !b.running && b.resident && b.frame.isNone && decide (b.entries ≤ s.freeFrames b.fn)
    | none => false

/-- Entries on their way out: their blobs are written, the last write is not yet sent (R148). -/
def State.leaving (s : State) : Nat :=
  s.jobs.foldl (fun n kv => match kv.2 with
    | some b => if b.resident && b.frame.isSome then n + b.entries else n
    | none => n) 0

/-- Entries for which contexts wait. -/
def State.awaited (s : State) : Nat :=
  s.msh.entryWait.foldl (fun n j => match s.job j with
    | some b => n + b.entries
    | none => n) 0

/-- Contexts are spilled until those that wait will find room, at most `n` of them (R145). -/
def State.makeRoom (s : State) (keep : Nat) : Nat → State
  | 0 => s
  | n + 1 =>
    if s.resident + s.awaited ≤ cacheEntries + s.leaving then s
    else match s.lruVictim keep with
      | some j => (s.spill j).makeRoom keep n
      | none => s

/-- A job's context takes `n` entries and is the most recently used (R144, R145); where none is free it waits until a spilled
context's last write has been sent (R148). -/
def State.takeEntries (s : State) (j n : Nat) : State :=
  let s1 := s.modJob j fun b => { b with resident := false, frame := none, entries := n }
  let s2 := s1.onMsh fun m => { m with lru := m.lru.filter (· != j), entryWait := m.entryWait.filter (· != j) ++ [j] }
  s2.giveEntries.makeRoom j 16

/-- The frames of a job. -/
def State.framesOf (s : State) (j : Nat) : List (Nat × Frame) :=
  s.msh.frames.filterMap fun kv => match kv.2 with
    | some x => if x.job = j then some (kv.1, x) else none
    | none => none

/-- SPILL_WRITE_SENT (R148): the last write of a blob is sent and the cache entry is freed, or the write failed and the
context is lost. -/
def execSpillWriteSent (job : Nat) (ok : Bool) (s : State) : Out :=
  match s.job job with
  | none => .next s
  | some b =>
    if b.frame.isNone ∨ b.resident = false then .next s
    else if ok then
      let s1 := s.modJob job fun b => { b with resident := false }
      let s2 := s1.onMsh fun m => { m with spillCnt := m.spillCnt + BitVec.ofNat 64 b.entries }
      .next (s2.meter b.fn b.ch [(12, b.entries)]).giveEntries
    else .next ((s.setBit .msh 8).failJob job { st := 0x62 })

/-- The status of the checks of R151 on a blob that returns, with the key, channel and numbers it must match; 0 passes.
`restore`: a RESTORE, whose format failure is DESC_FORMAT. -/
def State.checkBlob (s : State) (blob : List Byte) (restore : Bool) (f d : Nat) (handle : W32) (seq ctr : Option Nat)
    : Nat :=
  let kind := leAt blob 2 1
  let part := leAt blob 3 1
  let h := blob.take 48
  let ok := decide (blob.length = 576) && decide (leAt blob 0 2 = 1) && decide (1 ≤ kind) && decide (kind ≤ 3)
    && (decide (kind = 3) || decide (part = 0)) && decide (part % 16 ≤ part / 16)
    && decide (leAt blob 4 2 < 4096) && decide (leAt blob 7 1 < 4) && decide (leAt blob 0x27 1 = 0)
  if !ok then (if restore then 0x10 else 0x40)
  else if (gcmOpen (s.ctxKey (leAt blob 4 2)) (cut blob 0xC 12) h (cut blob 0x30 512) (blob.drop 0x230)).isNone then 0x40
  else if leAt blob 0xC 4 ≠ s.aod.epoch.toNat then 0x60
  else if leAt blob 6 1 ≠ f ∨ leAt blob 4 2 ≠ d ∨ leAt blob 8 4 ≠ handle.toNat then 0x60
  else if some (leAt blob 0x18 8) ≠ seq ∨ (ctr.isSome = true ∧ some (leAt blob 0x10 8) ≠ ctr) then 0x61
  else 0

/-- FRAME_READBACK (R145, R148, R151): a job's frames are read back, released, and the context restored if every blob
passes; otherwise the message is closed with the first failure's status. -/
def execFrameReadback (job : Nat) (data : List Byte) (s : State) : Out :=
  match s.job job with
  | none => .next s
  | some b =>
    let frs := s.framesOf job
    if frs.isEmpty ∨ b.resident = true then .next s
    else
      let h := match s.chan b.fn b.ch with
        | some c => c.handle
        | none => 0
      let st := frs.foldl (fun acc kv => if acc ≠ 0 then acc else
        s.checkBlob (cut data (576 * kv.2.part) 576) false b.fn b.domain h (some kv.2.seq) (some kv.2.blobCtr)) 0
      let s1 := s.onMsh fun m =>
        { m with frames := m.frames.mapVals none (dropFrame job), fillCnt := m.fillCnt + BitVec.ofNat 64 frs.length }
      if st = 0 then .next (s1.takeEntries job b.entries)
      else .next ((s1.setBit .msh 9).failJob job { st := st })

end Sys2Proof.Machine
end

