-- ==== Sys2Proof/Machine/Resets.lean ====
section
/-!
DEFINITION. Teardown: vacating and aborting PKE jobs (R252, R267), destroying channels (R96, R107), function-level resets
(R80, R81) and the accelerator-domain reset (R21 to R25).
-/

namespace Sys2Proof.Machine

/-! ### PKE slices (R252, R253, R267) -/

/-- Cache entries that a job's yield state and operand slots take: one per 512 bytes, one to sixteen (R144, R252). -/
def Job.pkeEntries (b : Job) : Nat :=
  let n := b.ops.foldl (fun n kv => match kv.2 with
    | some o => n + o.bytes.length
    | none => n) b.yield
  min 16 (max 1 ((n + 511) / 512))

/-- The frames of a slice are vacated, but for job `keep`: their state goes to the context cache (R252 step 1). -/
def State.vacate (s : State) (i : Nat) (keep : Option Nat) : State :=
  let gone := (s.slice i).frames.filter fun j => some j != keep
  let s1 := gone.foldl (fun s j => match s.job j with
    | some b => s.takeEntries j b.pkeEntries
    | none => s) s
  s1.modSlice i fun x => { x with frames := x.frames.filter fun j => some j == keep }

/-- The slice in whose private memory a job lies. -/
def State.sliceOf (s : State) (j : Nat) : Option Nat :=
  (List.range 8).find? fun i => (s.slice i).frames.contains j || (s.slice i).running == some j

/-- A PKE job is aborted: the slice vacates every other frame and wipes; a spilled job's contexts are discarded (R267). -/
def State.abortPke (s : State) (j : Nat) (silent : Bool) : State :=
  let s1 := match s.sliceOf j with
    | some i => (((s.vacate i (some j)).wipeSlice i).setBit (.pke (i / 2)) 13).settle (i / 2)
    | none => s
  if silent then s1 else s1.failJob j { st := 0x70 }

/-- An earlier member of the request's chain has still to end. -/
def State.chainWaits (s : State) (q : Req) : Bool := (q.chain.take q.chainPos).any fun m => (s.req m).isSome

/-- A fetched request is stopped: at once if its job does not run, else at the job's next boundary (R107). A member of a chain whose
earlier member has still to stop completes after that one, with CHAIN_ABORTED. -/
def State.abortReq (s : State) (r : Nat) : State :=
  match s.req r with
  | none => s
  | some q =>
    if s.chainWaits q then s
    else match q.job with
    | none => s.finish r { st := 0x70 }
    | some j =>
      match s.job j with
      | some b =>
        if b.running = true ∧ b.req = r then s.modReq r fun q => { q with abort := true }
        else if b.kind = .pair then s.abortPke j false
        else s.finish r { st := 0x70 }
      | none => s.finish r { st := 0x70 }

/-! ### Admin completions (R90, R92) -/

/-- The admin queue of a function stops (R90). -/
def State.admError (s : State) (f : Nat) : State :=
  (s.modAdm f fun a => { a with error := true, ready := false, busy := none }).setBit (.adm f) 8

/-- What an admin command answers (R92, R95). -/
structure AdmRes where
  st : Nat := 0
  detail : Nat := 0
  r0 : Nat := 0
  r1 : Nat := 0
  r2 : Nat := 0
  deriving DecidableEq, Repr

/-- The admin completion entry of the command of ring slot `slot` (R92, R97), or the queue stops (R90). -/
def State.admFinish (s : State) (f slot : Nat) (cmdId : BitVec 16) (x : AdmRes) : State :=
  let a := (s.fn f).adm
  let addr := a.cqBase.toNat + 32 * a.cqTail
  if s.denies f none addr 32 true then s.admError f
  else
    let dw := [x.st + 65536 * cmdId.toNat, x.detail, x.r0, x.r1, x.r2 % 4294967296, x.r2 / 4294967296, slot,
      a.sqHead + 2147483648 * b2n a.phase].map (BitVec.ofNat 32)
    let tail := (a.cqTail + 1) % 2 ^ a.cqLog.toNat
    let s1 := ((s.askXlat f none addr 32).emit (.admCqe f (s.tlp f none false) addr dw)).modAdm f fun a =>
      { a with cqTail := tail, phase := if tail = 0 then !a.phase else a.phase, busy := none }
    if a.irqEn then s1.msix f a.vector.toNat else s1

/-! ### Channels -/

/-- The generation of a local index of a function (R96). -/
def State.chGen (s : State) (f i : Nat) : Nat := s.gens.get 1 (chKey f i)

/-- The handle of a channel (R96). -/
def State.chHandle (s : State) (f i : Nat) : Nat := s.chGen f i * 1048576 + i

/-- The channels of a function: their local indices. -/
def State.channelsOf (s : State) (f : Nat) : List Nat :=
  s.chans.filterMap fun kv => if kv.1 / 65536 = f ∧ kv.2.isSome = true then some (kv.1 % 65536) else none

/-- The requests of a channel, oldest first. -/
def State.reqsOf (s : State) (f i : Nat) : List Nat := s.reqsWhere fun q => q.fn == f && q.ch == i

/-- The jobs of a channel. -/
def State.jobsOf (s : State) (f i : Nat) : List Nat := s.jobsWhere fun b => b.fn == f && b.ch == i

/-- The index becomes free: its contexts are discarded, the generation advances (R96, R107), its metering record is
flagged DESTROYED (R448). -/
def State.removeChannel (s : State) (f i : Nat) : State :=
  match s.chan f i with
  | none => s
  | some c =>
    let s1 := (s.jobsOf f i).foldl State.endJob s
    let g := s.chGen f i
    let s2 := s1.onGens (·.set 1 (chKey f i) (if g = 4095 then 1 else g + 1))
    let s3 := (s2.onChFreed (· ++ [chKey f i])).onChans (·.set none (chKey f i) none)
    let s4 := s3.onMsh fun m => { m with saved := m.saved.set none (chKey f i) none }
    s4.onHeat fun t => { t with live := { t.live with channels := t.live.channels.map fun r =>
      if r.fn = f ∧ r.handle = c.handle then { r with destroyed := true } else r } }

/-- The DESTROY_CHANNEL commands that wait for a channel: the function, ring slot and CMD_ID of each. -/
def State.destroyers (s : State) (f i : Nat) : List (Nat × Nat × BitVec 16) :=
  s.fns.filterMap fun kv => match kv.2.adm.busy with
    | some (.destroyChannel k slot cmdId) => if k = chKey f i then some (kv.1, slot, cmdId) else none
    | _ => none

/-- A reset destroys a channel: no further output and no completion (R81). A DESTROY_CHANNEL of the PF that waits for the channel
completes, for the channel is gone; the VF's own command is lost with its admin queue (R90, R107; DEDUCED, log entry 69). -/
def State.killChannel (s : State) (f i : Nat) : State :=
  let s1 := (s.jobsOf f i).foldl (fun s j => match s.job j with
    | some b => if b.kind = .pair then s.abortPke j true else s
    | none => s) s
  let s2 := (s.reqsOf f i).foldl State.dropReq s1
  let s3 := s2.removeChannel f i
  match s.chan f i with
  | none => s3
  | some c => ((s.destroyers f i).filter fun x => x.1 != f).foldl (fun s x =>
      s.admFinish x.1 x.2.1 x.2.2 { r0 := c.fetched % 4294967296, r1 := c.sqHead }) s3

/-! ### Function-level resets (R80, R81) -/

/-- A header that a function-level reset leaves: PG_LOCK clears only at a reset of the page's domain (R47). -/
def Hdr.flr (h : Hdr) : Hdr := { lock := h.lock }

/-- A function's state is cleared with its channels; a VF keeps its domain and channel limit (R80, R94). -/
def State.fnReset (s : State) (f : Nat) : State :=
  let s1 := (s.channelsOf f).foldl (fun s i => s.killChannel f i) s
  let s2 := s1.onFns fun m => m.set {} f { domain := (m.get {} f).domain, limit := (m.get {} f).limit }
  let s3 := s2.onPcie fun p => { p with xlats := p.xlats.filter (·.fn != f), invals := p.invals.filter (·.fn != f) }
  ((s3.modHdr (.fn f) Hdr.flr).modHdr (.adm f) Hdr.flr).syncInt

/-- SPDM over DOE and over PCIe VDM ends, with every IDE key (R75, R355). -/
def State.endDoe (s : State) : State :=
  let s1 := s.onPcie fun p => { p with doeObj := none, doeReady := true, ideLink := {}, ideSel := [] }
  (s1.onSessions (·.filter (·.transport == .i3c))).onSpdm (·.filter fun kv => kv.1 == 2)

/-- An IDE stream is Secure (R76, R83). -/
def Pcie.anySecure (p : Pcie) : Bool :=
  decide (p.ideLink.state = .secure) || (List.range 8).any fun n => decide ((p.ideSel.get {} n).state = .secure)

/-- A PF FLR on DOE and IDE (R75, R83): the streams that were Secure leave that state. -/
def State.flrDoe (s : State) : State :=
  let s1 := s.endDoe
  if s.pcie.anySecure then s1.setBit .pcx 12 else s1

/-- PF FLR (R80): the PF's and every VF's function state, all channels, DOE sessions, IDE keys, ATS caches. -/
def State.pfFlr (s : State) : State :=
  let s1 := (List.range (s.variant.vfs + 1)).foldl State.fnReset s
  (s1.onPcie fun p => { p with xlats := [], invals := [] }).flrDoe

/-- VF FLR of VF n (R80). -/
def State.vfFlr (s : State) (n : Nat) : State := s.fnReset n

/-- TDISP ERROR (R77): the VF performs a VF FLR and the interface stands in ERROR. -/
def State.tdispError (s : State) (n : Nat) : State :=
  (s.fnReset n).modFn n fun x => { x with tdisp := .error }

/-- Clearing VF Enable (R72, R94): a VF FLR of every VF, and every VF leaves its domain. DESIGN CHOICE (log entry 68): R87 lets a
domain change set DOMAIN_CHG and names no such event here; the VF's function state is cleared, and the model leaves the bit 0. -/
def State.disableVfs (s : State) : State :=
  let s1 := s.vfsOn.foldl (fun s n => (s.fnReset n).modFn n fun x => { x with domain := none, limit := 0 }) s
  s1.onPcie fun p => { p with vfsInEffect := none }

/-! ### The accelerator-domain reset (R21 to R25) -/

/-- Generation base of the ledger after a reset (R275): CHIP_EPOCH mod 4,095, plus 1. -/
def genBaseOf (epoch : Nat) : Nat := epoch % 4095 + 1

/-- The block fields of an eight that an accelerator-domain reset leaves: none (R21, R28). -/
def State.clearUnits (s : State) : State :=
  let s1 := (((s.onEights fun _ => []).onQuads fun _ => []).onSlices fun _ => []).onJobs fun _ => []
  let s2 := (((s1.onReqs fun _ => []).onChans fun _ => []).onGens fun _ => []).onChFreed fun _ => []
  let s3 := ((s2.onMsh fun _ => {}).onKslots fun _ => []).onKfrees fun _ => []
  let s4 := s3.onMeas fun m => m.filter fun kv => kv.1 < 32
  s4.onFns fun _ => []

/-- Message programs whose ID no longer selects them are freed: no message uses them any more (R222). -/
def State.clearStaleProgs (s : State) : State :=
  s.onProgs fun m => m.filter fun kv => match kv.2 with
    | some p => p.selected
    | none => false

/-- The RESET close (R23): the heat closes at once, and the Umpire keeps the closed values; reports of earlier heats are
lost with their banks (R451, R452). OUT_ALL gives every close its pulse (R447). -/
def State.closeForReset (s : State) : State :=
  let s0 := if s.heat.outAll then s.emit .heatPulse else s
  let s1 := s0.closeNow (8 ||| s.heat.heldCause)
  let closed := s1.bankOf s.aod.heatNo.toNat
  let s2 := s1.loseReports (s.aod.heatNo.toNat - 1)
  s2.onHeat fun t => { resetCopy := some closed, due := t.due, prevLost := t.prevLost, lastClose := t.lastClose }

/-- KLG PG_LOCK after a reset: bit 0 set in FIELDED unless the CLEAR_WRITE right is in force (R292, R390, R393). -/
def State.klgLock (s : State) : State :=
  if s.lcs.state = 3 ∧ bit s.dbg.rights 7 = false then s.modHdr .klg fun h => { h with lock := 1 } else s

/-- The chip page as the wipe leaves it. -/
def Chip.wiped (umpire : Bool) (c : Chip) : Chip :=
  { rating := c.rating, safeHold := c.safeHold, maskFallback := c.maskFallback, rePlan := c.rePlan
    ratingReduced := c.ratingReduced, aodCold := c.aodCold, intSrc := c.intSrc &&& 0x200, accReset := true, resetByUmpire := umpire
    maskUntil := c.maskUntil, thermalHold := c.thermalHold }

/-- The wipe of an accelerator-domain reset (R21, R28): every unit, the epoch, a new ledger integrity key. `umpire`: it was
started by the Umpire, and the link, with its settings, stays. -/
def State.accWipe (s : State) (umpire : Bool) : State :=
  let s1 := s.clearUnits.clearStaleProgs.bstEnd 4
  let epoch := s1.aod.epoch + 1
  let s2 := (s1.onAod fun a => { a with epoch := epoch }).onGenBase fun _ => genBaseOf epoch.toNat
  let s3 := (s2.onKlg fun k => { integrityKey := s2.draw 256, debugRoot := k.debugRoot, debugRootVal := k.debugRootVal }).spend 1
  let s4 := (s3.onHdrs fun m => m.filter fun kv => !accelKey kv.1).klgLock
  let s5 := (s4.onDomains fun m => m.mapVals none fun _ d => match d with
    | some x => if x.ending then none else some x
    | none => none)
  let s6 := s5.modChip (Chip.wiped umpire)
  let s7 := s6.onHeat fun t => { t with live := s6.freshLive }
  if umpire then
    (s7.onPcie fun p => { p with xlats := [], invals := [], roData := false, wakeEn := false })
  else s7.endDoe.onPcie fun p => { perstLow := p.perstLow, doeReady := true }

/-- An accelerator-domain reset begins: the heat closes with cause RESET, then the wipe (R21, R23). -/
def State.accReset (s : State) (umpire : Bool) : State := s.closeForReset.accWipe umpire

end Sys2Proof.Machine
end

