-- ==== Sys2Proof/Machine/HostLink.lean ====
section
/-!
DEFINITION. The PCI Express host link (R68 to R84): resets from the link, SR-IOV, MSI-X, DOE, IDE, ATS, read completions
and link errors.
-/

namespace Sys2Proof.Machine

/-! ### Resets -/

/-- A configuration request (R25, R80): until the wipe and the re-derivation are complete it is answered with Request Retry Status and
does nothing. -/
def State.config (s : State) (k : State → State) : State := if s.pcie.crs then s.emit .retryStatus else k s

/-- PERST_ASSERT (R80, R21). -/
def execPerstAssert (s : State) : Out :=
  s.powered fun s =>
  .next ((s.accReset false).onPcie fun p => { p with perstLow := true, linkUp := false })

/-- The link trains (R83): its speed and width, and DEGRADED if it is below the full figure. In SCRAPPED it never trains
(R380), nor while a transition holds the endpoint in reset (R389). -/
def State.train (s : State) (speed : BitVec 4) (width : BitVec 5) (flit : Bool) : State :=
  if s.scrapped || s.transiting then s else
  let s1 := s.onPcie fun p => { p with linkUp := true, speed := speed, width := width, flit := flit, inL2 := false }
  if speed.toNat < 7 ∨ width.toNat < s.variant.lanes then s1.setBit .pcx 9 else s1

/-- PERST_RELEASE (R25): the link trains; configuration requests receive Request Retry Status until the reset work ends. -/
def execPerstRelease (speed : BitVec 4) (width : BitVec 5) (flit : Bool) (s : State) : Out :=
  s.powered fun s =>
  if s.pcie.perstLow then
    .next ((s.onPcie fun p => { p with perstLow := false, crs := !s.chip.accReady }).train speed width flit)
  else .next s

/-- LINK_DOWN (R80): hot reset, link disable or DL_Down. -/
def execLinkDown (s : State) : Out :=
  s.powered fun s =>
  .next ((s.accReset false).onPcie fun p => { p with linkUp := false })

/-- The tamper quarantine held in the AOD returns (R404). -/
def State.tamperQuarantine (s : State) : State :=
  (List.range 4).foldl (fun s r => if s.aod.quar.getLsbD r then s.quarantineRegion r else s) s

/-- PF_FLR (R80). In an accelerator-domain reset that the Umpire started, what the functions hold is gone already, and the FLR does the
rest: it ends the DOE sessions and invalidates the IDE keys (R75, R81). -/
def execPfFlr (s : State) : Out :=
  s.powered fun s => .next (s.config fun s => if s.chip.accReset then s.flrDoe else s.pfFlr)

/-- VF_FLR (R80). -/
def execVfFlr (vf : Nat) (s : State) : Out :=
  s.powered fun s =>
  .next (s.config fun s => if s.chip.accReset ∨ ¬ s.vfsOn.contains vf = true then s else s.vfFlr vf)

/-! ### SR-IOV (R72) -/

/-- NumVFs is permitted. -/
def State.numVfsOk (s : State) (n : Nat) : Bool := decide (n ≤ s.variant.vfs) && (s.pcie.ari || decide (n ≤ 7))

/-- VF Enable, set, takes effect if NumVFs is permitted. -/
def State.tryVfs (s : State) : State :=
  if s.pcie.vfEnable = true ∧ s.pcie.vfsInEffect = none ∧ s.numVfsOk s.pcie.numVfs.toNat = true then
    s.onPcie fun p => { p with vfsInEffect := some p.numVfs.toNat }
  else s

/-- ARI Capable Hierarchy changes (R72): VF Enable is in effect only while NumVFs holds a permitted value, so a NumVFs that is no
longer permitted takes the VFs away, and one that becomes permitted enables them (DEDUCED, log entry 68). -/
def State.writeAri (s : State) (on : Bool) : State :=
  let s1 := s.onPcie fun p => { p with ari := on }
  match s1.pcie.vfsInEffect with
  | some n => if s1.numVfsOk n then s1 else s1.disableVfs
  | none => s1.tryVfs

/-- NUMVFS_WRITE. -/
def execNumvfsWrite (v : BitVec 16) (s : State) : Out :=
  s.powered fun s =>
  .next (s.config fun s => match s.pcie.vfsInEffect with
    | some _ => s
    | none => (s.onPcie fun p => { p with numVfs := v }).tryVfs)

/-- VF_ENABLE_WRITE. -/
def execVfEnableWrite (on : Bool) (s : State) : Out :=
  s.powered fun s =>
  .next (s.config fun s =>
    if on then (s.onPcie fun p => { p with vfEnable := true }).tryVfs
    else s.disableVfs.onPcie fun p => { p with vfEnable := false })

/-- The interface is in CONFIG_LOCKED or RUN (R77). -/
def State.tdispLocked (s : State) (f : Nat) : Bool :=
  decide ((s.fn f).tdisp = .configLocked) || decide ((s.fn f).tdisp = .run)

/-- GUARDED_CONFIG_WRITE (R77). -/
def execGuardedConfigWrite (vf : Nat) (s : State) : Out :=
  s.powered fun s =>
  .next (s.config fun s => if s.tdispLocked vf then s.tdispError vf else s)

/-! ### MSI-X (R73) -/

/-- A pending vector that may send does: one message, its PBA bit clear. -/
def State.flushVector (s : State) (f v : Nat) : State :=
  let x := s.fn f
  if x.pba.contains v && x.msixEn && !x.msixFnMask && x.unmasked.contains v then
    (s.sendMsix f v).modFn f fun x => { x with pba := x.pba.filter (· != v) }
  else s

/-- A vector's mask bit is cleared; the table of a locked interface is frozen (R77). -/
def State.unmask (s : State) (f vec : Nat) : State :=
  if s.variant.vfs < f ∨ 2048 ≤ vec ∨ s.tdispLocked f = true then s
  else (s.modFn f fun x => { x with unmasked := addNew x.unmasked vec }).flushVector f vec

/-- VECTOR_UNMASK. -/
def execVectorUnmask (via : LinkFn) (vec : Nat) (s : State) : Out :=
  s.powered fun s => .next (s.mmio via.fn via.stream fun s => s.unmask via.fn vec)

/-! ### DOE and IDE (R74 to R76) -/

/-- DOE_ABORT (R74). -/
def execDoeAbort (s : State) : Out :=
  s.powered fun s => .next (s.onPcie fun p => { p with doeObj := none, doeReady := true })

/-- An IDE stream: the link stream, or selective stream n. -/
def State.ideOf (s : State) (stream : Option Nat) : IdeStream :=
  match stream with
  | none => s.pcie.ideLink
  | some n => s.pcie.ideSel.get {} n

/-- `s` with an IDE stream changed. -/
def State.modIde (s : State) (stream : Option Nat) (g : IdeStream → IdeStream) : State :=
  s.onPcie fun p => match stream with
    | none => { p with ideLink := g p.ideLink }
    | some n => { p with ideSel := p.ideSel.set {} n (g (p.ideSel.get {} n)) }

/-- A stream leaves the Secure state (R83). -/
def State.insecure (s : State) (stream : Option Nat) (g : IdeStream → IdeStream) : State :=
  let was := decide ((s.ideOf stream).state = .secure)
  let s1 := s.modIde stream fun x => { g x with state := .insecure }
  if was then s1.setBit .pcx 12 else s1

/-- A stream number that exists: the link stream, or one of eight selective streams (R76). -/
def streamOk (stream : Option Nat) : Bool :=
  match stream with
  | none => true
  | some n => decide (n < 8)

/-- IDE_CHECK_FAILED (R76, R82, R83). -/
def execIdeCheckFailed (stream : Option Nat) (s : State) : Out :=
  s.powered fun s =>
  if s.variant.ide ∧ streamOk stream then
    .next ((s.insecure stream id).reportAer 0 .ideCheckFailed false)
  else .next s

/-! ### ATS (R78, R79) -/

/-- An invalidation covers a page of the address space it names: the function's, and its PASID's where it has one. -/
def Inval.covers (v : Inval) (f : Nat) (pasid : Option (BitVec 20)) (page : Nat) : Bool :=
  v.fn == f && v.pasid == pasid && decide (v.lo ≤ page) && decide (page ≤ v.hi)

/-- ATS_INVALIDATION (R79): the covered translations are used no more. DESIGN CHOICE (log entry 68): the device accepts up to 32
outstanding invalidations (R78); of one beyond them the model drops the translations and sends no completion. -/
def execAtsInvalidation (tag : Nat) (space : AddrSpace) (lo hi : Nat) (s : State) : Out :=
  s.powered fun s =>
  let v : Inval := { tag := tag, fn := space.fn, pasid := space.pasid, lo := lo, hi := hi }
  let s1 := s.onPcie fun p => { p with xlats := p.xlats.filter fun x => !(v.covers x.fn x.pasid x.page) }
  .next (if s1.pcie.invals.length < 32 then s1.onPcie fun p => { p with invals := p.invals ++ [v] } else s1)

/-- A byte range meets the pages of an invalidation. -/
def Inval.meets (v : Inval) (r : Nat × Nat) : Bool :=
  decide (0 < r.2) && decide (v.lo ≤ (r.1 + r.2 - 1) / 4096) && decide (r.1 / 4096 ≤ v.hi)

/-- Accesses issued under the covered translations are outstanding (R79): a stroke of a request whose data lies there is in execution,
so its reads, or the writes of its output, have still to end (DEDUCED, log entry 68). -/
def State.invalBusy (s : State) (v : Inval) : Bool :=
  s.jobs.any fun kv => match kv.2 with
    | none => false
    | some b => b.running && match s.req b.req with
      | none => false
      | some q => v.fn == q.fn && v.pasid == s.chTag q.fn q.ch && (q.inR ++ q.aadR ++ q.outR).any v.meets

/-- ATS_INVALIDATION_COMPLETE (R79): what was issued under the translations has ended, and the completion goes out. -/
def execAtsInvalidationComplete (tag : Nat) (s : State) : Out :=
  s.powered fun s =>
  match s.pcie.invals.find? (·.tag == tag) with
  | none => .next s
  | some v =>
    if s.invalBusy v then .next s
    else .next ((s.onPcie fun p => { p with invals := p.invals.filter (·.tag != tag) }).emit (.atsComplete tag))

/-! ### Reads (R82) -/

/-- The status a failed read gives the request (R82). -/
def cplCode (c : CplStatus) : Nat := if c = .poisoned then 0x75 else 0x71

/-- The page and AER reporting of a failed read (R82, R83). -/
def State.reportCpl (s : State) (f : Nat) (st : CplStatus) : State :=
  match st with
  | .poisoned => (s.setBit .pcx 11).reportAer f .poisonedTlp false
  | .short => s.reportAer f .unexpectedCompletion false
  | _ => s

/-- What a read serves: a translation was requested for another access. -/
def ReadFor.base : ReadFor → ReadFor
  | .xlat _ _ _ _ _ need => ReadFor.base need
  | r => r

/-- The function a read was for. -/
def State.readFn (s : State) (r : ReadFor) : Nat :=
  match ReadFor.base r with
  | .admRing f => f
  | .ring f _ => f
  | .xlat f _ _ _ _ _ => f
  | .list q => match s.req q with
    | some x => x.fn
    | none => 0
  | .data q => match s.req q with
    | some x => x.fn
    | none => 0
  | .frame j => match s.job j with
    | some b => b.fn
    | none => 0

/-- What the read was for is still there: completions that arrive for what a reset has dropped are discarded (R81). -/
def State.readLive (s : State) (r : ReadFor) : Bool :=
  match ReadFor.base r with
  | .admRing f => (s.fn f).adm.ready
  | .ring f i => (s.chan f i).isSome
  | .list q | .data q => (s.req q).isSome
  | .frame j => (s.job j).isSome
  | .xlat _ _ _ _ _ _ => true

/-- A read has failed with a status: the queue, the channel, the request or the message that needed it (R82, R90, R108, R151); a
translation that does not come fails the access it was requested for (R84). -/
def State.readFailed (s : State) (r : ReadFor) (st : Nat) : State :=
  match ReadFor.base r with
  | .admRing f => s.admError f
  | .ring f i => s.chError f i 2
  | .list q => s.finish q { st := st }
  | .data q => s.finish q { st := st }
  | .frame j => match s.job j with
    | none => s
    | some _ =>
      ((s.onMsh fun m => { m with frames := m.frames.mapVals none (dropFrame j) }).setBit .msh 9).failJob j { st := st }
  | .xlat _ _ _ _ _ _ => s

/-- READ_COMPLETION (R82): data is what the command that uses it carries; a translation enters the cache of 4,096 (R78). -/
def execReadCompletion (f : ReadFor) (st : CplStatus) (s : State) : Out :=
  s.powered fun s =>
  if s.readLive f = false then .next s
  else match st with
    | .data => match f with
      | .xlat n pasid page wr rd _ => .next (s.onPcie fun p =>
          { p with xlats := (p.xlats ++ [(⟨n, pasid, page, wr, rd⟩ : Xlat)]).drop (p.xlats.length - 4095) })
      | _ => .next s
    | _ => .next ((s.reportCpl (s.readFn f) st).readFailed f (cplCode st))

/-- COMPLETION_TIMEOUT (R82, R83): unless the function has disabled the timeout. -/
def execCompletionTimeout (f : ReadFor) (s : State) : Out :=
  s.powered fun s =>
  if s.readLive f = false ∨ (s.fn (s.readFn f)).cfg.ctoOff = true then .next s
  else .next (((s.setBit .pcx 10).reportAer (s.readFn f) .completionTimeout false).readFailed f 0x71)

/-- UNSUPPORTED_REQUEST (R69, R82). -/
def execUnsupportedRequest (fn : Nat) (s : State) : Out :=
  s.powered fun s => .next (s.unsupported fn)

/-- MALFORMED_TLP (R82): 0 a malformed TLP, 1 receiver overflow, else a flow-control protocol error; fatal. -/
def execMalformedTlp (kind : Nat) (s : State) : Out :=
  s.powered fun s =>
  .next (s.reportAer 0 (match kind with
    | 0 => .malformedTlp
    | 1 => .receiverOverflow
    | _ => .flowControl) true)

/-- LINK_RETRAIN (R83). -/
def execLinkRetrain (speed : BitVec 4) (width : BitVec 5) (flit : Bool) (s : State) : Out :=
  s.powered fun s =>
  if s.pcie.perstLow then .next s else .next ((s.setBit .pcx 8).train speed width flit)

end Sys2Proof.Machine
end

