-- ==== Sys2Proof/Machine/Admin.lean ====
section
/-!
DEFINITION. Admin queues and channels (R85 to R108): the admin commands, doorbells and message moderation.
-/

namespace Sys2Proof.Machine

/-! ### The admin queue (R88 to R92) -/

/-- A ring base is valid: 4 KiB aligned and not zero (R89). -/
def baseOk (a : Nat) : Bool := decide (a % 4096 = 0) && decide (a ≠ 0)

/-- An admin ring size is in range (R88). -/
def admSizeOk (n : Nat) : Bool := decide (6 ≤ n) && decide (n ≤ 12)

/-- The admin queue's bases and sizes are valid (R89). -/
def Adm.valid (a : Adm) : Bool :=
  baseOk a.sqBase.toNat && baseOk a.cqBase.toNat && admSizeOk a.sqLog.toNat && admSizeOk a.cqLog.toNat

/-- ENABLE changes from 0 to 1 (R89): on invalid registers the queue enters ERROR, and RING_ERR sets (R88). -/
def State.admEnable (s : State) (fn : Nat) : State :=
  if (s.fn fn).adm.enable ∨ s.chip.accReset ∨ s.present (.adm fn) = false then s
  else if (s.fn fn).adm.valid then s.modAdm fn fun a =>
    { a with enable := true, ready := true, error := false, sqHead := 0, sqTail := 0, cqHead := 0, cqTail := 0, phase := true }
  else (s.modAdm fn fun a => { a with enable := true, ready := false, error := true }).setBit (.adm fn) 8

/-- ENABLE changes from 1 to 0 (R89): commands not started are discarded. DESIGN CHOICE (log entry 69): R90 lets the queue run again
once software "clears ENABLE and sets it again"; the model clears ADM_STATE.ERROR with ENABLE. -/
def State.admDisable (s : State) (fn : Nat) : State :=
  if (s.fn fn).adm.enable then s.modAdm fn fun a =>
    { a with enable := false, ready := false, error := false, sqTail := a.sqHead }
  else s

/-- ADM_ENABLE (R89). -/
def execAdmEnable (via : LinkFn) (s : State) : Out :=
  s.powered fun s => .next (s.mmio via.fn via.stream fun s => s.admEnable via.fn)

/-- ADM_DISABLE (R89). -/
def execAdmDisable (via : LinkFn) (s : State) : Out :=
  s.powered fun s => .next (s.mmio via.fn via.stream fun s => s.admDisable via.fn)

/-- The free slots of a completion ring (R99). -/
def freeSlots (log head tail : Nat) : Nat := 2 ^ log - 1 - (tail + 2 ^ log - head) % 2 ^ log

/-- The admin queue can take its next command: ready, one submitted, none in execution, room for its completion (R90,
R99). -/
def Adm.canRun (a : Adm) : Bool :=
  a.ready && !a.error && decide (a.sqHead ≠ a.sqTail) && a.busy.isNone
    && decide (1 ≤ freeSlots a.cqLog.toNat a.cqHead a.cqTail)

/-- An admin command of opcode class `op` runs from its ring slot: `body` gives the state and the answer, none while the
command waits for its drain. A held translation that denies the read of the command stops the queue (R78, R90). -/
def State.admRun (s : State) (f : Nat) (dw : List W32) (op : Bool)
    (body : State → Nat → BitVec 16 → State × Option AdmRes) : State :=
  let a := (s.fn f).adm
  if !(a.canRun && op) then s
  else if s.denies f none (a.sqBase.toNat + 64 * a.sqHead) 64 false then s.admError f
  else
    let s0 := s.askXlat f none (a.sqBase.toNat + 64 * a.sqHead) 64
    let s1 := s0.modAdm f fun a => { a with sqHead := (a.sqHead + 1) % 2 ^ a.sqLog.toNat }
    let cmdId := BitVec.ofNat 16 (bits (dwAt dw 0) 31 16)
    let (s2, r) := body s1 a.sqHead cmdId
    match r with
    | some x => s2.admFinish f a.sqHead cmdId x
    | none => s2

/-- OPCODE of a command (R91). -/
def admOp (dw : List W32) : Nat := bits (dwAt dw 0) 7 0

/-- The function a command acts on (R91): FUNCTION, the issuer where it is 0. -/
def admTarget (f : Nat) (dw : List W32) : Nat :=
  if bits (dwAt dw 0) 15 8 = 0 then f else bits (dwAt dw 0) 15 8

/-- A dword outside the mask of its defined bits is not zero, for dwords 1 to 15 (R91). -/
def reserved (dw : List W32) (masks : List (Nat × Nat)) : Bool :=
  (List.range 15).any fun k => Nat.land (dwAt dw (k + 1)).toNat (4294967295 - ((masks.find? (·.1 == k + 1)).map (·.2)).getD 0) != 0

/-- A whole dword. -/
def fullDw : Nat := 4294967295

/-- The first condition that holds, as a status and detail (R95). -/
def firstOf (l : List (Bool × Nat × Nat)) : Option AdmRes :=
  (l.find? (·.1)).map fun x => { st := x.2.1, detail := x.2.2 }

/-- The conditions 0x0010 and 0x0018 on issuer and target (R93, R95). -/
def State.gate (s : State) (f : Nat) (dw : List W32) (pfOnly : Bool) : Bool × Bool :=
  let n := bits (dwAt dw 0) 15 8
  (f != 0 && (pfOnly || n != 0), n != 0 && !s.vfsOn.contains n)

/-- Handle `h` names a live channel of function `t` (R96); one whose DESTROY_CHANNEL has started is none (R107). -/
def State.handleCh (s : State) (t : Nat) (h : W32) : Option (Nat × Chan) :=
  let i := bits h 15 0
  match s.chan t i with
  | none => none
  | some c =>
    let gone := match c.state with
      | .destroying _ _ => true
      | _ => false
    if bits h 19 16 = 0 ∧ bits h 31 20 = s.chGen t i ∧ gone = false then some (i, c) else none

/-- The index of the next channel of a function (R96): the free index destroyed least recently. -/
def State.pickChannel (s : State) (t : Nat) : Option Nat :=
  match findFrom (fun i => (s.chan t i).isNone && !(s.chFreed.contains (chKey t i))) (if t = 0 then 65536 else 4096) 0 with
  | some i => some i
  | none => (s.chFreed.find? fun k => k / 65536 == t && (s.chans.get none k).isNone).map (· % 65536)

/-- The number of channels of the chip. -/
def State.chTotal (s : State) : Nat := (s.chans.filter fun kv => kv.2.isSome).length

/-- A default program that names no loaded program (R95). -/
def State.badProg (s : State) (p : Nat) : Bool := p != 0 && (s.progOf (BitVec.ofNat 16 p)).isNone

/-- The settings part of the defined bits of dwords 6 to 10 (R104, R106). -/
def chMasks : List (Nat × Nat) := [(6, 0x80031F1F), (7, 0xFFFFF), (8, 0x307FF), (9, 0xFFFF00FF), (10, 0xFFFF)]

/-- A channel ring size is in range (R104). -/
def chSizeOk (n : Nat) : Bool := decide (6 ≤ n) && decide (n ≤ 16)

/-- CREATE_CHANNEL's refusal, if any (R95). -/
def State.createRefused (s : State) (f : Nat) (dw : List W32) : Option AdmRes :=
  let t := admTarget f dw
  let g := s.gate f dw false
  let res := reserved dw ([(2, fullDw), (3, fullDw), (4, fullDw), (5, fullDw), (11, fullDw)] ++ chMasks)
  firstOf [(res, 0x10, 0x02),
    (!(chSizeOk (bits (dwAt dw 6) 4 0)) || !(chSizeOk (bits (dwAt dw 6) 12 8)), 0x10, 0x03),
    (!(baseOk (qwAt dw 2)) || !(baseOk (qwAt dw 4)), 0x10, 0x04),
    (bit (dwAt dw 6) 31 && !(s.fn t).pasidEn, 0x10, 0x07),
    (g.1, 0x12, 0x10), ((s.fnDomain t).isNone, 0x12, 0x11),
    (decide (s.fnLimit t ≤ (s.channelsOf t).length), 0x12, 0x12), (decide (s.nChans ≤ s.chTotal), 0x12, 0x13),
    (decide ((s.fn t).spillBase = 0), 0x12, 0x14), (g.2, 0x12, 0x18), (s.badProg (bits (dwAt dw 10) 15 0), 0x35, 0x30)]

/-- The channel a CREATE_CHANNEL describes (R104). -/
def chanOf (handle : Nat) (dw : List W32) : Chan :=
  { handle := BitVec.ofNat 32 handle, sqBase := BitVec.ofNat 64 (qwAt dw 2), cqBase := BitVec.ofNat 64 (qwAt dw 4)
    sqLog := bits (dwAt dw 6) 4 0, cqLog := bits (dwAt dw 6) 12 8, prio := bits (dwAt dw 6) 17 16
    pasidEn := bit (dwAt dw 6) 31, pasid := BitVec.ofNat 20 (bits (dwAt dw 7) 19 0)
    vector := BitVec.ofNat 11 (bits (dwAt dw 8) 10 0), irqEn := bit (dwAt dw 8) 16, oneShot := bit (dwAt dw 8) 17
    modCount := bits (dwAt dw 9) 7 0, modTime := bits (dwAt dw 9) 31 16
    defProg := BitVec.ofNat 16 (bits (dwAt dw 10) 15 0), account := dwAt dw 11 }

/-- A channel comes into being, with its metering record (R104, R443). -/
def State.addChannel (s : State) (t i : Nat) (dw : List W32) : State :=
  let c := chanOf (s.chHandle t i) dw
  let s1 := (s.onChans (·.set none (chKey t i) (some c))).onChFreed (·.filter (· != chKey t i))
  s1.onHeat fun x => { x with live := { x.live with channels :=
    x.live.channels ++ [{ handle := c.handle, account := c.account, fn := t, dom := s.fnDomain t, created := true }] } }

/-- CREATE_CHANNEL (R104). -/
def execCreateChannel (fn : Nat) (dw : List W32) (s : State) : Out :=
  .next (s.admRun fn dw (admOp dw == 0x01) fun s _ _ =>
    match s.createRefused fn dw with
    | some x => (s, some x)
    | none =>
      let t := admTarget fn dw
      match s.pickChannel t with
      | some i => (s.addChannel t i dw, some { r0 := s.chHandle t i })
      | none => (s, some { st := 0x12, detail := 0x12 }))

/-- DESTROY_CHANNEL's refusal. -/
def State.destroyRefused (s : State) (f : Nat) (dw : List W32) : Option AdmRes :=
  let t := admTarget f dw
  let g := s.gate f dw false
  firstOf [(reserved dw [(1, fullDw), (2, 1)], 0x10, 0x02), (g.1, 0x12, 0x10),
    (f == 0 && t != 0 && s.tdispLocked t, 0x12, 0x17), (g.2, 0x12, 0x18), ((s.handleCh t (dwAt dw 1)).isNone, 0x11, 0x20)]

/-- DESTROY_CHANNEL (R107): no further fetch; with ABORT every unfinished request stops. -/
def execDestroyChannel (fn : Nat) (dw : List W32) (s : State) : Out :=
  .next (s.admRun fn dw (admOp dw == 0x02) fun s slot cmdId =>
    match s.destroyRefused fn dw with
    | some x => (s, some x)
    | none =>
      let t := admTarget fn dw
      match s.handleCh t (dwAt dw 1) with
      | none => (s, some { st := 0x11, detail := 0x20 })
      | some (i, _) =>
        let abort := bit (dwAt dw 2) 0
        let s1 := (s.modChan t i fun c => { c with state := .destroying abort c.errored }).modAdm fn fun a =>
          { a with busy := some (.destroyChannel (chKey t i) slot cmdId) }
        (if abort then (s1.reqsOf t i).foldl State.abortReq s1 else s1, none))

/-- DESTROY_CHANNEL_COMPLETE (R107): every fetched request has ended, and the channel is gone. -/
def execDestroyChannelComplete (fn ch : Nat) (s : State) : Out :=
  match (s.fn fn).adm.busy with
  | some (.destroyChannel k slot cmdId) =>
    match s.chans.get none k with
    | none => .next s
    | some c =>
      if k % 65536 = ch ∧ s.reqsOf (k / 65536) ch = [] then
        .next ((s.removeChannel (k / 65536) ch).admFinish fn slot cmdId
          { r0 := c.fetched % 4294967296, r1 := c.sqHead })
      else .next s
  | _ => .next s

/-- MODIFY_CHANNEL's refusal. -/
def State.modifyRefused (s : State) (f : Nat) (dw : List W32) : Option AdmRes :=
  let t := admTarget f dw
  let g := s.gate f dw false
  let ch := s.handleCh t (dwAt dw 1)
  let err := match ch with
    | some (_, c) => c.errored
    | none => false
  firstOf [(reserved dw ([(1, fullDw), (2, 0x1F)] ++ chMasks), 0x10, 0x02), (g.1, 0x12, 0x10),
    (t != 0 && s.tdispLocked t && bit (dwAt dw 2) 0, 0x12, 0x17), (g.2, 0x12, 0x18), (err, 0x12, 0x19),
    (ch.isNone, 0x11, 0x20), (bit (dwAt dw 2) 4 && s.badProg (bits (dwAt dw 10) 15 0), 0x35, 0x30)]

/-- The armed state a read shows: a channel without ONE_SHOT is always armed (R103, R105). -/
def Chan.isArmed (c : Chan) : Bool := !c.oneShot || c.armed

/-- The settings of a channel that a MODIFY_CHANNEL changes (R106). DESIGN CHOICE (log entry 69): a channel switched to ONE_SHOT
keeps the armed state it had, so one that was without ONE_SHOT begins armed (R105). -/
def Chan.modified (c : Chan) (dw : List W32) : Chan :=
  let m := dwAt dw 2
  let n := chanOf 0 dw
  { c with vector := if bit m 0 then n.vector else c.vector, irqEn := if bit m 0 then n.irqEn else c.irqEn
           oneShot := if bit m 1 then n.oneShot else c.oneShot
           armed := if bit m 1 then c.isArmed else c.armed
           modCount := if bit m 2 then n.modCount else c.modCount, modTime := if bit m 2 then n.modTime else c.modTime
           prio := if bit m 3 then n.prio else c.prio, defProg := if bit m 4 then n.defProg else c.defProg }

/-- MODIFY_CHANNEL (R106). -/
def execModifyChannel (fn : Nat) (dw : List W32) (s : State) : Out :=
  .next (s.admRun fn dw (admOp dw == 0x03) fun s _ _ =>
    match s.modifyRefused fn dw, s.handleCh (admTarget fn dw) (dwAt dw 1) with
    | some x, _ => (s, some x)
    | none, some (i, _) => (s.modChan (admTarget fn dw) i fun c => c.modified dw, some {})
    | none, none => (s, some { st := 0x11, detail := 0x20 }))

/-- The error cause of a channel (R108). -/
def Chan.cause (c : Chan) : Nat := match c.state with
  | .error n => n
  | _ => 0

/-- The answer to QUERY_CHANNEL (R106). -/
def State.queryRes (s : State) (t i : Nat) (c : Chan) : AdmRes :=
  { r0 := c.sqHead + 65536 * c.cqTail
    r1 := (s.reqsOf t i).length + 65536 * b2n (!c.errored) + 131072 * b2n c.errored + 262144 * b2n c.isArmed
      + 16777216 * c.cause
    r2 := c.completed }

/-- QUERY_CHANNEL (R106). -/
def execQueryChannel (fn : Nat) (dw : List W32) (s : State) : Out :=
  .next (s.admRun fn dw (admOp dw == 0x04) fun s _ _ =>
    let t := admTarget fn dw
    let g := s.gate fn dw false
    let ch := s.handleCh t (dwAt dw 1)
    match firstOf [(reserved dw [(1, fullDw)], 0x10, 0x02), (g.1, 0x12, 0x10), (g.2, 0x12, 0x18),
        (ch.isNone, 0x11, 0x20)], ch with
    | none, some (i, c) => (s, some (s.queryRes t i c))
    | some x, _ => (s, some x)
    | none, none => (s, some { st := 0x11, detail := 0x20 }))

/-- SET_SPILL_AREA (R94). DESIGN CHOICE (log entry 69): R95 gives DETAIL 0x0011 to a function in no domain without naming the
commands; the model refuses CREATE_CHANNEL with it and accepts SET_SPILL_AREA. -/
def execSetSpillArea (fn : Nat) (dw : List W32) (s : State) : Out :=
  .next (s.admRun fn dw (admOp dw == 0x08) fun s _ _ =>
    let t := admTarget fn dw
    let g := s.gate fn dw false
    match firstOf [(reserved dw [(2, fullDw), (3, fullDw), (4, fullDw)], 0x10, 0x02),
        (!(baseOk (qwAt dw 2)), 0x10, 0x04),
        (decide ((dwAt dw 4).toNat < (s.fnLimit t * 576 + 1023) / 1024), 0x10, 0x08), (g.1, 0x12, 0x10),
        (!(s.channelsOf t).isEmpty, 0x12, 0x15), (g.2, 0x12, 0x18)] with
    | some x => (s, some x)
    | none => (s.modFn t fun x => { x with spillBase := BitVec.ofNat 64 (qwAt dw 2), spillKib := dwAt dw 4 }, some {}))

/-! ### Domains (R94, R140, R286, R287) -/

/-- The records of the domain table: every existing domain. -/
def State.domRecords (s : State) : List (Nat × Domain) :=
  s.domIds.filterMap fun d => (s.dom d).map fun x => (d, x)

/-- The Umpire writes the copy of the domain table with the older sequence number (R287). -/
def State.writeDomTable (s : State) : State :=
  let recs := s.domRecords
  let sa := (s.store.domA.map (·.1)).getD 0
  let sb := (s.store.domB.map (·.1)).getD 0
  if sa ≤ sb then s.onStore fun t => { t with domA := some (sb + 1, recs) }
  else s.onStore fun t => { t with domB := some (sa + 1, recs) }

/-- The metering record of a domain carries PARTIAL in the heat of its birth and end (R450, R452). -/
def State.markDomain (s : State) (d : Nat) (created : Bool) : State :=
  s.onHeat fun t =>
    let r := (t.live.domains.get none d).getD {}
    let r' : Rec := if created then { r with created := true, salt := s.saltOf d } else { r with destroyed := true }
    { t with live := { t.live with domains := t.live.domains.set none d (some r') } }

/-- The domain ID is out of the range of CREATE_DOMAIN and DESTROY_DOMAIN. -/
def State.badDom (s : State) (d : Nat) : Bool := decide (d = 0) || decide (s.nDoms ≤ d)

/-- CREATE_DOMAIN (R94, R286). -/
def execCreateDomain (fn : Nat) (dw : List W32) (s : State) : Out :=
  .next (s.admRun fn dw (admOp dw == 0x10) fun s _ _ =>
    let d := bits (dwAt dw 2) 11 0
    let g := s.gate fn dw true
    match firstOf [(reserved dw ((2, 0xFFF) :: (List.range 8).map fun k => (k + 4, fullDw)), 0x10, 0x02),
        (s.badDom d, 0x10, 0x06), (g.1, 0x12, 0x10), ((s.domains.get none d).isSome, 0x12, 0x16), (g.2, 0x12, 0x18)] with
    | some x => (s, some x)
    | none =>
      let salt := (List.range 8).flatMap fun k => leBytes 4 (dwAt dw (k + 4)).toNat
      let s0 := (s.onDomains (·.set none d (some { salt := salt }))).onKlg fun k => { k with quotaNew := k.quotaNew.set none d none }
      let s1 := (s0.deriveRoot d).markDomain d true
      (s1.writeDomTable, some { r0 := s1.khandle (s1.rootSlot d) }))

/-- The functions assigned to a domain. -/
def State.assigned (s : State) (d : Nat) : Bool := s.fns.any fun kv => kv.1 != 0 && kv.2.domain == some (BitVec.ofNat 12 d)

/-- DESTROY_DOMAIN clears the domain out of every measurement access list (R241): entries of 16 bits, the domain in
[11:0], valid in [15]. -/
def aclDrop (d : Nat) (acl : W64) : W64 :=
  (List.range 4).foldl (fun (a : W64) k =>
    if a.toNat / 2 ^ (16 * k) % 4096 = d then a &&& ~~~(0x8000#64 <<< (16 * k)) else a) acl

/-- DESTROY_DOMAIN (R94, R296): it completes once its root's invalidation has drained. -/
def execDestroyDomain (fn : Nat) (dw : List W32) (s : State) : Out :=
  .next (s.admRun fn dw (admOp dw == 0x11) fun s slot cmdId =>
    let d := bits (dwAt dw 2) 11 0
    let g := s.gate fn dw true
    match firstOf [(reserved dw [(2, 0xFFF)], 0x10, 0x02), (s.badDom d, 0x10, 0x06), (g.1, 0x12, 0x10),
        (s.assigned d, 0x12, 0x15), (!(s.domIds.contains d), 0x12, 0x16), (g.2, 0x12, 0x18)] with
    | some x => (s, some x)
    | none =>
      let s1 := (s.modDom d fun x => { x with ending := true }).retire (s.rootSlot d) (some (.admin fn slot cmdId))
      let s2 := s1.onMeas fun m => m.mapVals {} fun _ x => { x with acl := aclDrop d x.acl }
      ((s2.markDomain d false).writeDomTable.modAdm fn fun a =>
        { a with busy := some (.destroyDomain d slot cmdId) }, none))

/-- ASSIGN_FUNCTION (R94). -/
def execAssignFunction (fn : Nat) (dw : List W32) (s : State) : Out :=
  .next (s.admRun fn dw (admOp dw == 0x12) fun s _ _ =>
    let v := bits (dwAt dw 0) 15 8
    let d := bits (dwAt dw 2) 11 0
    let lim := bits (dwAt dw 3) 12 0
    let un := bit (dwAt dw 2) 31
    let bad := if un then d != 0 || lim != 0 else decide (s.nDoms ≤ d) || decide (lim = 0) || decide (4096 < lim)
    match firstOf [(reserved dw [(2, 0x80000FFF), (3, 0x1FFF)], 0x10, 0x02), (bad, 0x10, 0x06), (fn != 0, 0x12, 0x10),
        (v != 0 && !(s.channelsOf v).isEmpty, 0x12, 0x15), (!un && !(s.domIds.contains d), 0x12, 0x16),
        (v != 0 && s.tdispLocked v, 0x12, 0x17), (!(s.vfsOn.contains v), 0x12, 0x18)] with
    | some x => (s, some x)
    | none =>
      ((s.modFn v fun x => { x with domain := if un then none else some (BitVec.ofNat 12 d),
                                    limit := BitVec.ofNat 17 lim }).setBit (.fn v) 11, some {}))

/-- SET_DOMAIN_WEIGHT (R140): 0 restores the default of 16. -/
def execSetDomainWeight (fn : Nat) (dw : List W32) (s : State) : Out :=
  .next (s.admRun fn dw (admOp dw == 0x13) fun s _ _ =>
    let d := bits (dwAt dw 2) 11 0
    let w := bits (dwAt dw 3) 7 0
    let g := s.gate fn dw true
    match firstOf [(reserved dw [(2, 0xFFF), (3, 0xFF)], 0x10, 0x02), (decide (s.nDoms ≤ d), 0x10, 0x06),
        (g.1, 0x12, 0x10), (!(s.domIds.contains d), 0x12, 0x16), (g.2, 0x12, 0x18)] with
    | some x => (s, some x)
    | none =>
      ((s.modDom d fun x => { x with weight := if w = 0 then 16 else BitVec.ofNat 8 w }).writeDomTable, some {}))

/-- An opcode of the table of R93. -/
def admDefined (op : Nat) : Bool := [0x01, 0x02, 0x03, 0x04, 0x08, 0x10, 0x11, 0x12, 0x13].contains op

/-- ADMIN_RESERVED_OPCODE (R93, R95). -/
def execAdminReservedOpcode (fn : Nat) (dw : List W32) (s : State) : Out :=
  .next (s.admRun fn dw (!(admDefined (admOp dw))) fun s _ _ => (s, some { st := 0x10, detail := 0x01 }))

/-! ### Doorbells (R100 to R102, R105) -/

/-- The cause for which a doorbell write is refused, 0 if it is not: in the order 4, 1, 2, 3 (R102). -/
def dbCause (v : W64) (width sqLog sqHead sqTail cqLog cqHead cqTail : Nat) : Nat :=
  let t := bits64 v 15 0
  let h := bits64 v 31 16
  let n := 2 ^ sqLog
  let m := 2 ^ cqLog
  if width ≠ 8 then 4
  else if v.toNat / 2 ^ 35 ≠ 0 then 1
  else if v.getLsbD 32 ∧ (n ≤ t ∨ (t + n - sqHead) % n < (sqTail + n - sqHead) % n) then 2
  else if v.getLsbD 33 ∧ (m ≤ h ∨ (cqTail + m - cqHead) % m < (h + m - cqHead) % m) then 3
  else 0

/-- A refused doorbell write (R102). -/
def State.dbRefused (s : State) (f idx cause : Nat) (admin : Bool) : State :=
  (s.modFn f fun x => { x with dbErrIndex := BitVec.ofNat 16 idx, dbErrCause := BitVec.ofNat 3 cause,
                               dbErrAdmin := admin }).setBit (.fn f) 8

/-- A write of ADM_DB (R88, R102); `width` is 0 for a misaligned one. -/
def State.admDoorbell (s : State) (fn : Nat) (v : W64) (width : Nat) : State :=
  let a := (s.fn fn).adm
  if a.ready = false ∨ s.chip.accReset then s
  else
    let c := dbCause v width a.sqLog.toNat a.sqHead a.sqTail a.cqLog.toNat a.cqHead a.cqTail
    if c ≠ 0 then s.dbRefused fn 0 c true
    else s.modAdm fn fun a =>
      { a with sqTail := if v.getLsbD 32 then bits64 v 15 0 else a.sqTail
               cqHead := if v.getLsbD 33 then bits64 v 31 16 else a.cqHead }

/-- ADMIN_DOORBELL (R88, R102). -/
def execAdminDoorbell (via : LinkFn) (v : W64) (width : Nat) (s : State) : Out :=
  s.powered fun s => .next (s.mmio via.fn via.stream fun s => s.admDoorbell via.fn v width)

/-- RE_ARM (R105): a one-shot channel is armed again; completions beyond CQ_HEAD bring a message at once. -/
def State.rearm (s : State) (f i : Nat) : State :=
  match s.chan f i with
  | none => s
  | some c =>
    if c.oneShot then
      let s1 := s.modChan f i fun c => { c with armed := true }
      if c.cqHead = c.cqTail then s1 else s1.chMessage f i
    else s

/-- A write of a channel doorbell (R100 to R102, R105). -/
def State.chDoorbell (s : State) (fn idx : Nat) (v : W64) (width : Nat) : State :=
  if s.chip.accReset then s
  else match s.chan fn idx with
    | none => s.setBit (.fn fn) 9
    | some c =>
      match c.state with
      | .destroying _ _ => s.setBit (.fn fn) 9
      | _ =>
        let x := dbCause v width c.sqLog c.sqHead c.sqTail c.cqLog c.cqHead c.cqTail
        if x ≠ 0 then s.dbRefused fn idx x false
        else
          let s1 := s.modChan fn idx fun c =>
            { c with sqTail := if v.getLsbD 32 then bits64 v 15 0 else c.sqTail
                     cqHead := if v.getLsbD 33 then bits64 v 31 16 else c.cqHead }
          if v.getLsbD 34 then s1.rearm fn idx else s1

/-- DOORBELL_WRITE (R100 to R102, R105). -/
def execDoorbellWrite (via : LinkFn) (idx : Nat) (v : W64) (width : Nat) (s : State) : Out :=
  s.powered fun s => .next (s.mmio via.fn via.stream fun s => s.chDoorbell via.fn idx v width)

/-- MOD_TIME_EXPIRY (R105): the oldest unsignalled completion is MOD_TIME old. -/
def execModTimeExpiry (fn ch : Nat) (s : State) : Out :=
  match s.chan fn ch with
  | none => .next s
  | some c => if c.unsignalled = 0 ∨ c.modTime = 0 then .next s else .next (s.chMessage fn ch)

end Sys2Proof.Machine
end

