-- ==== Sys2Proof/Machine/Admit.lean ====
section
/-!
DEFINITION. Descriptor fetch and admission: format checks (R109 to R118, R124, R125, R256), lists and lengths (R119 to
R123, R223, R257), unit presence (R35), key needs (R260, R279), nonce draw (R172), order (R126), context room (R147).
-/

namespace Sys2Proof.Machine

/-! ### Format (R130 step 1) -/

/-- Algorithms of DIGEST (R113). -/
def digestAlgs : List Nat :=
  [0x01, 0x02, 0x03, 0x10, 0x11, 0x12, 0x13, 0x18, 0x19, 0x21, 0x22, 0x23, 0x30, 0x31, 0x32, 0x33, 0x38, 0x39]

/-- The chain key reference in a KEY_HANDLE: the position it names (R118). -/
def chainRef (h : W32) : Option Nat :=
  if bits h 31 20 = 0 ∧ bits h 19 16 = 0xC ∧ bits h 15 4 = 0 then some (bits h 3 0) else none

/-- A KEY request that creates a key: IMPORT, DERIVE or WRITE (R118). -/
def Req.createsKey (q : Req) : Bool := q.typ == 4 && decide (q.subop ≤ 2)

/-- KEY_HANDLE breaks R118: bits [19:16] non-zero and no reference to an earlier creating member. -/
def Req.badHandle (q : Req) (chain : List Req) : Bool :=
  bits q.key 19 16 != 0 && match chainRef q.key with
    | none => true
    | some p => decide (q.chainPos ≤ p) || match chain[p]? with
      | some m => !m.createsKey
      | none => true

/-- The commands of the PKE table and the parameter sets each takes (R256, R257). -/
def pkeSetOk (cmd set : Nat) : Option Bool :=
  let p := decide (1 ≤ set) && decide (set ≤ 3)
  let e := decide (set = 4) || decide (set = 5)
  let r := decide (0x10 ≤ set) && decide (set ≤ 0x14)
  match cmd with
  | 0x0001 | 0x0002 | 0x0003 | 0x0004 | 0x0010 | 0x0011 | 0x0012 | 0x0013 | 0x0014 => some (set == 0)
  | 0x0100 => some (p || e || r || set == 0x20 || set == 0x21)
  | 0x0101 | 0x0102 | 0x0103 => some p
  | 0x0110 | 0x0111 | 0x0120 => some e
  | 0x0130 | 0x0131 => some r
  | 0x0140 | 0x0141 | 0x0142 => some (set == 0x20)
  | 0x0150 | 0x0151 => some (set == 0x21)
  | _ => none

/-- The PKE command takes a ledger key (R257). -/
def pkeKeyed (cmd : Nat) : Bool :=
  [0x0002, 0x0100, 0x0101, 0x0103, 0x0110, 0x0120, 0x0130, 0x0140, 0x0141, 0x0151].contains cmd

/-- TYPE is reserved (R110). -/
def Req.reservedType (q : Req) : Bool := decide (q.typ = 0) || decide (8 ≤ q.typ)

/-- A member of the request's chain has a reserved TYPE: the chain ends by RESERVED_TYPE (R110, R125). -/
def State.reservedIn (s : State) (q : Req) : Bool :=
  q.chain.any fun m => match s.req m with
    | some x => x.reservedType
    | none => false

/-- The breaches of a SYM descriptor, by dword (R109, R112, R118, R123). -/
def Req.badSym (q : Req) (chain : List Req) : List (Bool × Nat) :=
  [(q.subop != 0, 0), (q.badHandle chain, 1),
    (decide (64 < q.ivLen) || decide (16 < q.tagLen) || (q.cont && q.ivLen != 0) || (q.more && q.tagLen != 0), 2)]

/-- The breaches of a DIGEST descriptor (R113, R118, R236). -/
def Req.badDigest (q : Req) (chain : List Req) : List (Bool × Nat) :=
  [(decide (2 < q.subop), 0), (algKeyed q.alg != (q.key != 0) || q.badHandle chain, 1),
    (!(digestAlgs.contains q.alg) || bits q.op 15 14 != 0 || (q.mreg != 0 && q.subop != 1)
      || algXof q.alg != (q.xof != 0) || (q.subop == 1 && (algKeyed q.alg || decide (64 < q.xof))), 2)]

/-- The breaches of a PKE descriptor (R114, R123, R256, R257). -/
def Req.badPke (q : Req) (chain : List Req) : List (Bool × Nat) :=
  [(q.subop != 0 || q.inSgl || q.outSgl || q.more || q.cont, 0),
    (q.badHandle chain || (!(pkeKeyed q.cmd) && q.key != 0), 1),
    (bits q.op 31 24 != 0 || pkeSetOk q.cmd q.set != some true, 2), (q.param != 0, 3)]

/-- The breaches of a KEY descriptor (R115): `d` is the channel's domain, `n` the number of domains. -/
def Req.badKey (q : Req) (chain : List Req) (d n : Nat) : List (Bool × Nat) :=
  let t := bits q.op 11 0
  if q.subop = 2 then
    [(q.inSgl || q.outSgl || q.more || q.cont, 0), (q.key != 0, 1),
      (bits q.op 30 12 != 0 || decide (n ≤ t) || (t != d && !(bit q.op 31)), 2)]
  else
    [(decide (4 < q.subop) || q.inSgl || q.outSgl || q.more || q.cont, 0), (q.badHandle chain, 1), (q.op != 0, 2),
      (q.param != 0, 3)]

/-- The breaches of a CTX descriptor (R116, R118, R123). DEDUCED (log entry 69): R116 and R121 both speak of a SAVE whose OUT_LEN is 0
with OUT_SGL set or an address that is not aligned, and of a RESTORE likewise; the model follows R121, which ignores the address and
the flag of a zero length, and such a request fails at step 6 with LEN_MISMATCH. -/
def Req.badCtx (q : Req) (chain : List Req) : List (Bool × Nat) :=
  let save := q.subop == 0 && q.outLen != 0
  let restore := q.subop == 1 && q.inLen != 0
  [(decide (2 < q.subop) || q.more || q.cont || (save && q.outSgl) || (restore && q.inSgl), 0), (q.badHandle chain, 1),
    (restore && q.inAddr % 64 != 0, 4), (save && q.outAddr % 64 != 0, 6)]

/-- The breaches of a FENCE or NOP descriptor (R117). -/
def Req.badBare (q : Req) : List (Bool × Nat) :=
  (q.subop != 0 || q.more || q.cont, 0) ::
    (List.range 15).map fun k => (dwAt q.dwords (k + 1) != 0 && !(q.typ == 7 && k == 2), k + 1)

/-- The first breach of the format rules: its dword, or 0x10 for the chain limit (R127, R130 step 1). -/
def State.formatBad (s : State) (q : Req) (chain : List Req) : Option Nat :=
  if q.chainPos = 15 ∧ bit (dwAt q.dwords 0) 8 = true then some 0x10
  else
    let d := (s.fnDomain q.fn).getD 0
    let own := match q.typ with
      | 1 => q.badSym chain
      | 2 => q.badDigest chain
      | 3 => q.badPke chain
      | 4 => q.badKey chain d s.nDoms
      | 5 => q.badCtx chain
      | 6 => q.badBare
      | 7 => q.badBare
      | _ => [(true, 0)]
    let tail := if q.typ = 6 ∨ q.typ = 7 then [] else [(bits (dwAt q.dwords 15) 31 16 != 0, 15)]
    (((bits (dwAt q.dwords 0) 15 14 != 0, 0) :: own ++ tail).find? (·.1)).map (·.2)

/-! ### Descriptor fetch (R98, R99, R124, R125) -/

/-- CHAIN of a descriptor. -/
def descChain (d : List W32) : Bool := bit (dwAt d 0) 8

/-- The descriptors are one whole chain: 1 to 16, CHAIN on every one but the last, or sixteen (R124). -/
def chainOk (ds : List (List W32)) : Bool :=
  decide (1 ≤ ds.length) && decide (ds.length ≤ 16) && (ds.dropLast.all descChain)
    && (!(match ds.getLast? with
      | some d => descChain d
      | none => true) || ds.length == 16)

/-- Descriptors fetched whose completion entry is not yet written. -/
def Chan.inFlight (c : Chan) : Nat := c.fetched - c.completed

/-- The channel can fetch `n` descriptors (R99, R107, R108): active, submitted, and the completion ring has room. -/
def Chan.canFetch (c : Chan) (n : Nat) : Bool :=
  decide (c.state = .active) && decide (n ≤ (c.sqTail + 2 ^ c.sqLog - c.sqHead) % 2 ^ c.sqLog)
    && decide (c.inFlight + n ≤ freeSlots c.cqLog c.cqHead c.cqTail)

/-- The record of member `k` of a chain fetched from slot `head` on. -/
def reqOf (fn ch : Nat) (c : Chan) (ids : List Nat) (k : Nat) (d : List W32) : Req :=
  { fn := fn, ch := ch, slot := (c.sqHead + k) % 2 ^ c.sqLog, dwords := d, chainPos := k
    chainLast := decide (k + 1 = ids.length), chain := ids, defProg := c.defProg }

/-- The requests enter the chip. -/
def State.addReqs (s : State) (rs : List Req) : State :=
  (s.onReqs fun m => rs.foldl (fun m q => m.set none (s.nextReq + q.chainPos) (some q)) m).onNextReq (· + rs.length)

/-- The request is a part of a continued message or a CTX request (R123). -/
def Req.ordered (q : Req) : Bool := ((q.typ == 1 || q.typ == 2) && (q.more || q.cont)) || q.typ == 5

/-- The whole chain fails before any member executes (R125): the member at `pos` with `x`, every other with CHAIN_ABORTED. -/
def State.failChain (s : State) (ids : List Nat) (pos : Nat) (x : Fin) : State :=
  (List.range ids.length).foldl (fun s k => s.finish1 (ids.getD k 0) (if k = pos then x else { st := 0x13 })) s

/-- The first member of a chain that breaks the format rules, with its detail; the chain limit goes before all else (R124, R125). -/
def State.chainBad (s : State) (rs : List Req) : Option (Req × Nat) :=
  match rs.find? fun q => s.formatBad q rs == some 0x10 with
  | some q => some (q, 0x10)
  | none => rs.findSome? fun q => (s.formatBad q rs).map (q, ·)

/-- A chain with parts or CTX requests waits for those fetched before it: its message rules can be told only then (R123, R125). -/
def State.waitsTurn (s : State) (fn ch : Nat) (rs : List Req) (before : Nat → Bool) : Bool :=
  rs.any Req.ordered && (s.reqsWhere fun q => q.fn == fn && q.ch == ch && q.ordered).any before

/-- DESCRIPTOR_FETCH: the chain is copied, its format checked whole; one breach fails that member and aborts the rest, at the chain's
turn. A reserved TYPE ends its chain by the step of its own, RESERVED_TYPE. A translation that denies the ring's page fails the
read: the channel enters ERROR (R78, R108). -/
def execDescriptorFetch (fn ch : Nat) (descs : List (List W32)) (s : State) : Out :=
  match s.chan fn ch with
  | none => .next s
  | some c =>
    let addr := fun (k : Nat) => c.sqBase.toNat + 64 * ((c.sqHead + k) % 2 ^ c.sqLog)
    if s.chip.accReset ∨ chainOk descs = false ∨ c.canFetch descs.length = false then .next s
    else if (List.range descs.length).any (fun k => s.denies fn c.tag (addr k) 64 false) = true then .next (s.chError fn ch 2)
    else
      let ids := (List.range descs.length).map (s.nextReq + ·)
      let rs := (List.range descs.length).map fun k => reqOf fn ch c ids k (descs.getD k [])
      let s0 := (List.range descs.length).foldl (fun s k => s.askXlat fn c.tag (addr k) 64) s
      let s1 := (s0.addReqs rs).modChan fn ch fun c =>
        { c with sqHead := (c.sqHead + descs.length) % 2 ^ c.sqLog, fetched := c.fetched + descs.length }
      match s.chainBad rs with
      | none => .next s1
      | some (bad, detail) =>
        if (bad.reservedType = true ∧ detail ≠ 0x10) ∨ s.waitsTurn fn ch rs (fun _ => true) = true then .next s1
        else .next (s1.failChain ids bad.chainPos { st := 0x10, detail := detail })

/-! ### Lists and lengths (R119 to R123) -/

/-- A list up to its LAST entry, at most 256 entries. -/
def listUsed : List Sge → Nat → List Sge
  | [], _ => []
  | _, 0 => []
  | e :: r, n + 1 => if bit e.flags 0 then [e] else e :: listUsed r n

/-- The breach of a list: the stream number or 4, 0 if there is none (R120). -/
def listBad (stream addr : Nat) (l : List Sge) : Nat :=
  let u := listUsed l 256
  if addr % 16 ≠ 0 ∨ (u.any fun e => e.len == 0 || e.flags.toNat / 2 != 0) = true then stream
  else match u.getLast? with
    | some e => if bit e.flags 0 then 0 else 4
    | none => 4

/-- The ranges of a stream (R119, R121). -/
def ranges (sgl : Bool) (addr len : Nat) (l : List Sge) : List (Nat × Nat) :=
  if len = 0 then []
  else if sgl then (listUsed l 256).map fun e => (e.addr, e.len)
  else [(addr, len)]

/-- The bytes of a list of ranges. -/
def rangeLen (rs : List (Nat × Nat)) : Nat := rs.foldl (fun n r => n + r.2) 0

/-- A check: the status and detail of the first condition that holds. -/
abbrev Check := Bool × Nat × Nat

/-- SGL_FORMAT of the lists in the order IN, OUT, AAD, then LEN_MISMATCH of their sums (R120, R121). The flag of a stream that the
operation does not use is ignored: its length alone is checked. -/
def Req.listChecks (q : Req) (g : Sgls) (unused : List Nat) : List Check :=
  let b := fun (flag : Bool) (len stream addr : Nat) (l : List Sge) =>
    if flag && len != 0 && !unused.contains stream then listBad stream addr l else 0
  let d1 := b q.inSgl q.inLen 1 q.inAddr g.inL
  let d2 := b q.outSgl q.outLen 2 q.outAddr g.outL
  let d3 := b q.aadSgl q.aadLen 3 q.aadAddr g.aadL
  let sum := fun (flag : Bool) (len stream : Nat) (l : List Sge) =>
    flag && len != 0 && !unused.contains stream && rangeLen ((listUsed l 256).map fun e => (e.addr, e.len)) != len
  [(d1 != 0, 0x22, d1), (d2 != 0, 0x22, d2), (d3 != 0, 0x22, d3), (sum q.inSgl q.inLen 1 g.inL, 0x20, 1),
    (sum q.outSgl q.outLen 2 g.outL, 0x20, 2), (sum q.aadSgl q.aadLen 3 g.aadL, 0x20, 3)]

/-- The output length a program defines (R218 OUT_RULE). -/
def outRule (r n : Nat) : Nat :=
  match r with
  | 0 => n
  | 1 => 0
  | 2 => n + 8
  | 3 => n - 8
  | _ => 8 * ((n + 7) / 8) + 8

/-- The lengths of a SYM request against its program (R123, R171, R223): `before` bytes came in earlier parts. -/
def Req.symLens (q : Req) (p : Prog) (param ivLen before : Nat) : List Check :=
  let total := before + q.inLen
  let inBad := (q.more && q.inLen % 16 != 0) || (p.inMax != 0 && decide (p.inMax < total))
    || (!q.more && (decide (total < p.inMin) || total % 2 ^ p.inAlign != 0 || (p.unit && total % param != 0)))
  let outWant := if p.outRule = 0 then q.inLen else if q.more then 0 else outRule p.outRule total
  [(inBad, 0x20, 1), (q.outLen != outWant, 0x20, 2), (q.aadLen != 0 && (q.cont || !p.aad), 0x20, 3),
    (p.lenRule == 1 && decide (2 ^ (8 * (15 - ivLen)) ≤ total), 0x21, 1),
    ((p.id == 6 || p.id == 7) && ivLen == 12 && decide (2 ^ 32 - 2 < (total + 15) / 16), 0x21, 1)]

/-- The result length of a DIGEST request (R235). -/
def Req.digestLen (q : Req) : Nat := if algXof q.alg then q.xof else (digestSize q.alg).getD 0

/-- The lengths of a DIGEST request (R113, R123, R231). -/
def Req.digestLens (q : Req) (before : Nat) : List Check :=
  [(q.more && q.inLen % 16 != 0, 0x20, 1),
    (q.outLen != (if q.subop = 0 ∧ q.more = false then q.digestLen else 0), 0x20, 2),
    (q.aadLen != 0 && (q.cont || !(algKmac q.alg)), 0x20, 3),
    (decide (q.alg ≤ 3) && decide (2 ^ 61 ≤ before + q.inLen), 0x21, 1)]

/-- The octet length L or k of a parameter set (R256). -/
def setLen (set : Nat) : Nat :=
  match set with
  | 1 => 32
  | 2 => 48
  | 3 => 66
  | 4 => 32
  | 5 => 57
  | _ => rsaK set

/-- The ranges of IN_LEN and OUT_LEN of a PKE command, and the most AAD_LEN may be (R257). -/
def pkeLens (cmd set : Nat) : (Nat × Nat) × (Nat × Nat) × Nat :=
  let l := setLen set
  let ed := if set = 4 then 0 else 255
  match cmd with
  | 0x0001 => ((9, 1032), (0, 0), 0)
  | 0x0003 => ((8, 8), (0, 2 ^ 40), 0)
  | 0x0100 => ((0, 0), (match set with
      | 4 => (32, 32)
      | 5 => (56, 57)
      | 0x20 => (2592, 2592)
      | 0x21 => (1568, 1568)
      | _ => if set < 4 then (2 * l, 2 * l) else (l + 4, l + 4)), 0)
  | 0x0101 => ((1, 64), (2 * l, 2 * l), 0)
  | 0x0102 => ((4 * l + 1, 4 * l + 64), (0, 0), 0)
  | 0x0103 => ((2 * l, 2 * l), (l, l), 0)
  | 0x0110 => ((0, 16384), (2 * l, 2 * l), ed)
  | 0x0111 => ((3 * l, 3 * l + 16384), (0, 0), ed)
  | 0x0120 => if set = 4 then ((32, 32), (32, 32), 0) else ((56, 56), (56, 56), 0)
  | 0x0130 => ((l, l), (l, l), 0)
  | 0x0131 => ((2 * l + 4, 2 * l + 4), (l, l), 0)
  | 0x0140 => ((0, 65536), (4627, 4627), 255)
  | 0x0141 => ((64, 64), (4627, 4627), 0)
  | 0x0142 => ((7219, 72755), (0, 0), 255)
  | 0x0150 => ((1568, 1568), (1600, 1600), 0)
  | 0x0151 => ((1568, 1568), (32, 32), 0)
  | _ => ((8, 8), (0, 0), 0)

/-- A length lies outside a range. -/
def outside (n : Nat) (r : Nat × Nat) : Bool := decide (n < r.1) || decide (r.2 < n)

/-- The lengths of a PKE request (R257). -/
def Req.pkeLenChecks (q : Req) : List Check :=
  let l := pkeLens q.cmd q.set
  [(outside q.inLen l.1, 0x20, 1), (outside q.outLen l.2.1, 0x20, 2), (decide (l.2.2 < q.aadLen), 0x20, 3)]

/-- The lengths of a KEY request (R121, R289, R291, R292): IMPORT's own length is checked with its blob (R294). -/
def Req.keyLens (q : Req) : List Check :=
  let i := match q.subop with
    | 0 => (0, 2 ^ 40)
    | 1 => (25, 256)
    | 2 => (25, 2588)
    | _ => (0, 0)
  let o := if q.subop = 4 then (32, 32) else (0, 0)
  [(outside q.inLen i, 0x20, 1), (outside q.outLen o, 0x20, 2), (q.aadLen != 0, 0x20, 3)]

/-- The lengths of a CTX request (R116, R121). -/
def Req.ctxLens (q : Req) : List Check :=
  [(q.inLen != (if q.subop = 1 then 576 else 0), 0x20, 1), (q.outLen != (if q.subop = 0 then 576 else 0), 0x20, 2),
    (q.aadLen != 0, 0x20, 3)]

/-! ### Programs (R223, R227) -/

/-- PARAM lies in the program's range: the standard library's own (R227), data units for UNIT, any value else. -/
def Prog.paramOk (p : Prog) (n : Nat) : Bool :=
  if p.unit then decide (16 ≤ n) && decide (n ≤ 16777216) && n % 16 == 0
  else if p.id = 5 then decide (n ≤ 2)
  else if p.id = 0x14 ∨ p.id = 0x15 then decide (1 ≤ n) && decide (n ≤ 3)
  else if p.id.toNat < 0x100 then n == 0
  else true

/-- Step 5 of R130 and the program's field rules (R223). -/
def Req.progChecks (q : Req) (p : Prog) : List Check :=
  let tagBad := !q.more && (decide (q.tagLen < p.tagMin) || decide (p.tagMax < q.tagLen)
    || (q.tagLen != 0 && p.tagSet != 0 && !(p.tagSet.getLsbD (q.tagLen - 1))))
  [((q.more || q.cont) && !p.multipart, 0x10, 0x20),
    ((!q.cont && (decide (q.ivLen < p.ivMin) || decide (p.ivMax < q.ivLen))) || tagBad, 0x10, 2),
    (!(p.paramOk q.param.toNat), 0x10, 3)]

/-- A generating program (R172). -/
def Prog.generating (p : Prog) : Bool :=
  p.usage.getLsbD 0 || (p.usage.getLsbD 7 && p.producesTag && decide (0 < p.ivMax))

/-! ### Keys (R260, R279, R295) -/

/-- The algorithms of a PKE command's key under a parameter set. -/
def pkeAlgs (cmd set : Nat) : List Nat :=
  match cmd with
  | 0x0002 => [1, 2, 3, 4, 5, 0x10, 0x11, 0x18, 0x20, 0x21, 0x22, 0x28, 0x29, 0x2A, 0x2B, 0x30, 0x31, 0x32, 0x33, 0x34,
      0x40, 0x41]
  | 0x0120 => if set = 4 then [0x29] else [0x2B]
  | 0x0110 => if set = 4 then [0x28] else [0x2A]
  | _ => match set with
    | 4 => [0x28, 0x29]
    | 5 => [0x2A, 0x2B]
    | 0x20 => [0x40]
    | 0x21 => [0x41]
    | _ => if set < 4 then [0x1F + set] else [0x20 + set]

/-- The usage a PKE command needs (R260). -/
def pkeUsage (cmd : Nat) : Nat :=
  match cmd with
  | 0x0101 | 0x0110 | 0x0140 | 0x0141 => 0x10
  | 0x0103 | 0x0120 => 0x40
  | 0x0130 => 0x12
  | 0x0151 => 0x02
  | _ => 0x7F

/-- The handle a request names: a chain reference resolves to what that member returned (R118). -/
def Req.handleOf (q : Req) : W32 := if (chainRef q.key).isSome then q.result else q.key

/-- What the request needs of its key; none: no key is resolved (R279). -/
def Req.need (q : Req) (p : Option Prog) : Option Need :=
  match q.typ with
  | 1 => p.map fun p =>
    { algs := if p.keys.toNat = 2 then [4, 5] else [1, 2, 3], usage := p.usage.toNat, cox := true, counts := !q.cont }
  | 2 => if algKeyed q.alg then
      some { algs := [if algKmac q.alg then 0x11 else 0x10], usage := 0x80, counts := !q.cont }
    else none
  | 3 => if pkeKeyed q.cmd then
      some { algs := pkeAlgs q.cmd q.set, usage := pkeUsage q.cmd, counts := true }
    else none
  | 4 => match q.subop with
    | 0 => if q.key = 0 then none else some { algs := [1, 2, 3], usage := 0x08, counts := true }
    | 1 => some { algs := [0x18], usage := 0x40, counts := true }
    | _ => none
  | _ => none

/-- The program key rules beyond R279: a KMAC256 key has 32 bytes or more (R233), the nonce rule and NONCE_EXHAUSTED
(R172). -/
def State.keyExtra (s : State) (q : Req) (p : Option Prog) (i : Nat) : List Check :=
  let k := s.kslot i
  let gen := match p with
    | some p => q.typ == 1 && p.generating && !q.cont && k.nonceEn
    | none => false
  let ivBad := match p with
    | some p => q.ivLen != 12 || decide (12 < p.ivMin) || decide (p.ivMax < 12)
    | none => false
  [(q.typ == 2 && q.alg == 0x39 && decide (k.keyLen.toNat < 32), 0x32, 0), (gen && ivBad, 0x32, 0),
    (gen && k.counter == BitVec.ofNat 64 (2 ^ 64 - 1), 0x34, 0)]

/-- Step 7 of R130: the slot; none where no key is needed, or the status. -/
def State.keyStep (s : State) (q : Req) (p : Option Prog) : Except Nat (Option Nat) :=
  let h := q.handleOf
  let w := Who.fn q.fn
  match q.need p with
  | some n => match s.resolve w h n with
    | .error e => .error e
    | .ok i => match (s.keyExtra q p i).find? (·.1) with
      | some x => .error x.2.1
      | none => .ok (some i)
  | none =>
    if q.typ = 4 ∧ (q.subop = 3 ∨ q.subop = 4) then
      let h' := if q.subop = 4 ∧ q.key = 0 then BitVec.ofNat 32 (s.khandle (s.rootSlot ((s.fnDomain q.fn).getD 0))) else h
      if s.keyInvalid w h' then .error 0x30 else .ok (some (hIndex h'))
    else if q.typ = 4 ∧ q.subop = 2 ∧ ¬ s.domIds.contains (bits q.op 11 0) = true then .error 0x30
    else .ok none

/-! ### Unit presence (R35, R250) -/

/-- A PKE slice takes requests: present, in command mode, not quarantined, not isolated. -/
def State.sliceTakes (s : State) (i : Nat) : Bool :=
  s.usable (.pke (i / 2)) && !(s.slice i).modeActive && !(s.slice i).mode && !(s.slice i).isolated

/-- Every present slice of the chip is in MAC mode or quarantined (R250). -/
def State.noSlice (s : State) : Bool :=
  (List.range (2 * s.variant.regions)).all fun i => s.quarantined (.pke (i / 2)) || (s.slice i).modeActive

/-- Every unit of the request's kind is out of service. -/
def State.noUnit (s : State) (q : Req) : Bool :=
  match q.typ with
  | 1 => (List.range s.variant.eights).all fun e => s.quarantined (.egt e)
  | 2 => (List.range s.variant.regions).all fun r => s.quarantined (.qad r)
  | 3 => s.noSlice
  | _ => false

/-! ### Order and room (R123, R126, R147) -/

/-- The records of the members of a request's chain that have not ended. -/
def State.members (s : State) (q : Req) : List Req := q.chain.filterMap s.req

/-- Ordering lets request `r` be admitted: its chain's earlier members are done, no FENCE stands before it, a FENCE waits for all,
parts and CTX requests wait for each other, with the whole chain they are in (R123, R125, R126); a request that needs a context waits
behind one that waits for it (R147). -/
def State.orderOk (s : State) (r : Nat) (q : Req) : Bool :=
  (q.chain.take q.chainPos).all (fun m => (s.req m).isNone) &&
  !(q.chainPos == 0 && s.waitsTurn q.fn q.ch (s.members q) fun m => decide (m < r)) &&
  (s.reqsOf q.fn q.ch).all fun m => decide (r ≤ m) || match s.req m with
    | some x => !(x.typ == 6) && !(q.typ == 6) && !(x.ordered && q.ordered) && !(x.ctxWait && s.needsCtx q)
    | none => true

/-- The open message of the request's channel. -/
def State.openOf (s : State) (q : Req) : Option OpenMsg := (s.chan q.fn q.ch).bind (·.openMsg)

/-- The job of the channel's open message. -/
def State.openJob (s : State) (q : Req) : Option Job := (s.openOf q).bind fun m => s.job m.job

/-- Input bytes of the message's earlier parts. -/
def State.before (s : State) (q : Req) : Nat :=
  if q.cont then (match s.openJob q with
    | some b => b.done
    | none => 0) else 0

/-- The function has no frame for one more context (R147). -/
def State.ctxFull (s : State) (q : Req) : Bool := s.needsCtx q && decide (s.frameCount q.fn ≤ s.liveContexts q.fn)

/-! ### Admission (R32, R130 steps 1 to 7) -/

/-- The message-state conflicts of step 1 (R123, R152, R231). DESIGN CHOICE (log entry 69): for a part whose TYPE is not that of the
open message the spec gives no outcome of its own; the model takes it as a conflict that leaves the message open. -/
def State.stateChecks (s : State) (q : Req) : List Check :=
  let om := (s.openOf q).filter fun m => m.lost.isNone
  let msg := q.typ == 1 || q.typ == 2
  let kindBad := q.cont && match om with
    | some m => m.digest != (q.typ == 2)
    | none => false
  [(msg && q.more && !q.cont && om.isSome, 0x10, 0x20), (msg && q.cont && om.isNone, 0x10, 0x20), (msg && kindBad, 0x10, 0x20),
    (q.typ == 5 && q.subop == 0 && om.isNone, 0x10, 0x20), (q.typ == 5 && q.subop == 1 && om.isSome, 0x10, 0x20)]

/-- A later part of a DIGEST message whose SUBOP or OP differs from the first part's: it closes the message (R231). -/
def State.partDiffers (s : State) (q : Req) : Bool :=
  q.typ == 2 && q.cont && match s.openJob q with
    | some b => b.op != q.op || b.subop != q.subop
    | none => false

/-- A channel's message as the members of a chain would leave it one after the other: open or not, lost, and, where it is known,
whether it is a digest, with OP and SUBOP. -/
structure Walk where
  isOpen : Bool
  lost : Bool := false
  kind : Option (Bool × W32 × Nat) := none
  deriving DecidableEq, Repr

/-- One member: whether it conflicts, whether that closes the message, and the message after it (R123, R152, R231). -/
def Walk.next (w : Walk) (q : Req) : Bool × Bool × Walk :=
  let live := w.isOpen && !w.lost
  if q.typ = 1 ∨ q.typ = 2 then
    let own := some (q.typ == 2, q.op, q.subop)
    if q.cont then
      let other := match w.kind with
        | some (d, _, _) => d != (q.typ == 2)
        | none => false
      let differs := match w.kind with
        | some (d, op, sub) => d && q.typ == 2 && (op != q.op || sub != q.subop)
        | none => false
      (!w.isOpen || other || differs, differs && !other, if q.more then w else ⟨false, false, none⟩)
    else if q.more then (live, false, ⟨true, false, own⟩)
    else (false, false, w)
  else if q.typ = 5 then match q.subop with
    | 0 => (!live, false, ⟨false, false, none⟩)
    | 1 => (live, false, ⟨true, false, none⟩)
    | _ => (false, false, ⟨false, false, none⟩)
  else (false, false, w)

/-- The first member with a message-state conflict, and whether it closes the message. -/
def Walk.find : Walk → List Req → Option (Req × Bool)
  | _, [] => none
  | w, q :: r => match w.next q with
    | (true, closes, _) => some (q, closes)
    | (false, _, w') => w'.find r

/-- The channel's message as a chain finds it. -/
def State.walk (s : State) (q : Req) : Walk :=
  match s.openOf q with
  | none => ⟨false, false, none⟩
  | some m => ⟨true, m.lost.isSome, match s.job m.job with
    | some b => if m.digest then some (true, b.op, b.subop) else some (false, 0, 0)
    | none => none⟩

/-- The access list of a measurement register names a domain (R244). -/
def aclNames (acl : W64) (d : Nat) : Bool :=
  (List.range 4).any fun k => acl.getLsbD (16 * k + 15) && acl.toNat / 2 ^ (16 * k) % 4096 == d

/-- An EXTEND by a function is refused (R239). -/
def State.extDenied (s : State) (q : Req) : Bool :=
  q.typ == 2 && q.subop == 1 &&
    (decide (q.mreg < 32) || !(aclNames (s.mreg q.mreg).acl ((s.fnDomain q.fn).getD 4096)))

/-- Step 3 of R130 but for EXTEND: function assignment and the rights of KEY WRITE (R115). -/
def State.permBad (s : State) (q : Req) : Bool :=
  (s.fnDomain q.fn).isNone ||
    (q.typ == 4 && q.subop == 2 && (q.fn != 0 || (bits q.op 11 0 != 0 && !s.klg.clearWriteEn)))

/-- The program of a SYM request: the message's own in a later part, else the one selected (R222). -/
def State.symProg (s : State) (q : Req) : Option Prog :=
  if q.typ ≠ 1 then none
  else if q.cont then (s.openJob q).bind fun b => s.progs.get none b.prog
  else (s.progOf q.program).map (·.2)

/-- The length checks of step 6 beyond the lists. -/
def State.lenChecks (s : State) (q : Req) (p : Option Prog) : List Check :=
  match q.typ with
  | 1 => match p with
    | some p =>
      let b := if q.cont then s.openJob q else none
      let param := match b with
        | some b => b.param.toNat
        | none => q.param.toNat
      let iv := match b with
        | some b => bits b.op 23 16
        | none => q.ivLen
      q.symLens p param iv (s.before q)
    | none => []
  | 2 => q.digestLens (s.before q)
  | 3 => q.pkeLenChecks
  | 4 => q.keyLens
  | 5 => q.ctxLens
  | _ => []

/-- The streams that an operation does not use: those of defined length zero (R113, R116, R121, R223, R257). -/
def Req.unused (q : Req) (p : Option Prog) : List Nat :=
  match q.typ with
  | 1 => match p with
    | some p => (if q.cont || !p.aad then [3] else []) ++ (if p.outRule = 1 ∨ (p.outRule ≠ 0 ∧ q.more = true) then [2] else [])
    | none => []
  | 2 => (if q.cont || !algKmac q.alg then [3] else []) ++ (if q.subop = 0 ∧ q.more = false then [] else [2])
  | 3 => if (pkeLens q.cmd q.set).2.2 = 0 then [3] else []
  | 5 => [3] ++ (if q.subop = 1 then [] else [1]) ++ (if q.subop = 0 then [] else [2])
  | _ => [3]

/-- DETAIL of a failure of step 3 (R127): the first offending dword, OP (2) where OP names the register or the domain, else
the dword of SUBOP. DEDUCED, log entry 67. -/
def State.permDetail (s : State) (q : Req) : Nat :=
  if (s.fnDomain q.fn).isNone ∨ (q.typ = 4 ∧ q.fn ≠ 0) then 0 else 2

/-- Steps 1 to 6 of R130: the first failure's status and detail. -/
def State.firstFailure (s : State) (q : Req) (g : Sgls) : Option (Nat × Nat) :=
  let p := s.symProg q
  let handle := match s.chan q.fn q.ch with
    | some c => c.handle
    | none => 0
  let checks : List Check := s.stateChecks q ++ [(s.partDiffers q, 0x10, 0x20), (q.typ == 5 && q.param != handle, 0x11, 3),
      (s.permBad q || s.extDenied q, 0x12, s.permDetail q), (s.noUnit q, 0x72, 0), (q.typ == 1 && p.isNone, 0x35, 0)]
    ++ (match p with
      | some p => q.progChecks p
      | none => [])
    ++ (if 1 ≤ q.typ ∧ q.typ ≤ 5 then q.listChecks g (q.unused p) ++ s.lenChecks q p else [])
  (checks.find? (·.1)).map (·.2)

/-- The request that failed step `st`, with what the failure does besides (R123, R239); its message goes with it, but after a
conflict. -/
def State.refuse (s : State) (r : Nat) (q : Req) (st detail : Nat) : State :=
  let s1 := if st = 0x12 ∧ s.extDenied q = true then
      s.setBit (.meas (if q.mreg < 32 then 0 else 1)) 10
    else s
  s1.finish r { st := st, detail := detail, keep := (s.stateChecks q).any (·.1) }

/-- The nonce value a generating message draws (R172): FIXED ‖ COUNTER, each big-endian; the counter advances. -/
def State.drawNonce (s : State) (r : Nat) (q : Req) (p : Option Prog) (i : Nat) : State :=
  let k := s.kslot i
  match p with
  | some p =>
    if q.typ = 1 ∧ p.generating = true ∧ q.cont = false ∧ k.nonceEn = true then
      (s.modReq r fun q => { q with nonce := beBytes 4 k.fixed.toNat ++ beBytes 8 k.counter.toNat }).modKslot i fun k =>
        { k with counter := k.counter + 1 }
    else s
  | none => s

/-- The job of a PKE member: the one its chain already runs, or a new one (R254). -/
def State.pkeJob (s : State) (r : Nat) (q : Req) : State :=
  match s.chainJobs q with
  | j :: _ => (s.modJob j fun b => { b with req := r, op := q.op, keySlot := q.keySlot, segments := 0, busyNs := 0 }).modReq r fun q => { q with job := some j }
  | [] =>
    let prio := match s.chan q.fn q.ch with
      | some c => c.prio
      | none => 0
    let b : Job := { kind := .pair, req := r, fn := q.fn, ch := q.ch, domain := q.domain, prio := prio, op := q.op
                     keySlot := q.keySlot }
    ((s.onJobs (·.set none s.nextJob (some b))).onNextJob (· + 1)).modReq r fun q => { q with job := some s.nextJob }

/-- The request passes step 7 and is admitted (R32, R295). -/
def State.accept (s : State) (r : Nat) (q : Req) (g : Sgls) (p : Option Prog) (slot : Option Nat) : State :=
  let s1 := s.modReq r fun q =>
    { q with admitted := true, ctxWait := false, keySlot := slot, domain := (s.fnDomain q.fn).getD 0
             prog := if q.typ = 1 then s.progSlot q else none
             inR := ranges q.inSgl q.inAddr q.inLen g.inL, outR := ranges q.outSgl q.outAddr q.outLen g.outL
             aadR := ranges q.aadSgl q.aadAddr q.aadLen g.aadL }
  let s2 := match slot, q.need p with
    | some i, some n => (if n.counts then s1.countUse i else s1).drawNonce r q p i
    | _, _ => s1
  if q.typ = 3 then
    match s2.req r with
    | some q => s2.pkeJob r q
    | none => s2
  else s2

/-- What fails a chain before its first member executes (R125): a breach of the format rules by a member other than of TYPE, or a
message-state conflict; the member's position and how it ends. -/
def State.chainFailure (s : State) (q : Req) : Option (Nat × Fin) :=
  match s.chainBad (s.members q) with
  | some (bad, detail) => some (bad.chainPos, { st := 0x10, detail := detail })
  | none => match (s.walk q).find (s.members q) with
    | some (bad, closes) => some (bad.chainPos, { st := 0x10, detail := 0x20, keep := !closes })
    | none => none

/-- REQUEST_ADMIT (R32, R130): in SAFE_HOLD every request completes with DEVICE_SAFE_HOLD (R435). DESIGN CHOICE (log entry 68): R108
does not say what becomes of requests that a channel had fetched, and that do not yet run, when it enters ERROR; the model still
admits and runs them, and they write no completion entry. -/
def execRequestAdmit (req : Nat) (sgl : Sgls) (s : State) : Out :=
  match s.req req with
  | none => .next s
  | some q =>
    if q.admitted ∨ s.orderOk req q = false ∨ s.reservedIn q = true then .next s
    else if s.chip.safeHold then .next (s.finish req { st := 0x74 })
    else match (if q.chainPos = 0 then s.chainFailure q else none) with
    | some (pos, x) => .next (s.failChain q.chain pos x)
    | none => match (s.openOf q).bind (fun m => if q.cont then m.lost else none) with
      | some st => .next (s.finish req { st := st })
      | none =>
        match s.firstFailure q sgl with
        | some (st, detail) => .next (s.refuse req q st detail)
        | none =>
          match s.keyStep q (s.symProg q) with
          | .error st => .next (s.refuse req q st 0)
          | .ok slot =>
            if s.ctxFull q then .next ((s.setBit .msh 10).modReq req fun q => { q with ctxWait := true })
            else .next (s.accept req q sgl (s.symProg q) slot)

/-- RESERVED_TYPE (R110, R125): the descriptor's TYPE is reserved; at the chain's turn it completes with DESC_FORMAT, and every other
member of its chain with CHAIN_ABORTED. -/
def execReservedType (req : Nat) (s : State) : Out :=
  match s.req req with
  | none => .next s
  | some q =>
    if q.reservedType = true ∧ s.waitsTurn q.fn q.ch (s.members q) (fun m => decide (m < q.chain.headD req)) = false then
      .next (s.failChain q.chain q.chainPos { st := 0x10 })
    else .next s

/-- FENCE_REQUEST (R126): admitted after every earlier request, it completes with OK. -/
def execFenceRequest (req : Nat) (s : State) : Out :=
  match s.req req with
  | none => .next s
  | some q => if q.typ = 6 ∧ q.admitted = true then .next (s.finish req { st := 0 }) else .next s

/-- NOP_REQUEST (R117): OK, RESULT0 = PARAM. -/
def execNopRequest (req : Nat) (s : State) : Out :=
  match s.req req with
  | none => .next s
  | some q => if q.typ = 7 ∧ q.admitted = true then .next (s.finish req { st := 0, r0 := q.param.toNat }) else .next s

end Sys2Proof.Machine
end

