-- ==== Sys2Proof/Machine/Strokes.lean ====
section
/-!
DEFINITION. Strokes and segments (R133 to R145, R166, R173 to R175, R225, R226, R230 to R238, R252): the SYM and DIGEST
requests, the start and end of strokes, the end of PKE segments.
-/

namespace Sys2Proof.Machine

/-! ### Messages come to their units -/

/-- A new job. -/
def State.addJob (s : State) (r : Nat) (b : Job) : State :=
  ((s.onJobs (·.set none s.nextJob (some b))).onNextJob (· + 1)).modReq r fun q => { q with job := some s.nextJob }

/-- The open message's job takes its next part. -/
def State.nextPart (s : State) (r j : Nat) (q : Req) (tagIn : Word) : State :=
  (s.modJob j fun b =>
    { b with req := r, keySlot := q.keySlot, partDone := 0, partLen := q.inLen, written := 0, tagIn := tagIn }).modReq r
    fun q => { q with job := some j }

/-- Contexts a new message will need (R144, R147). -/
def State.ctxEntries (s : State) (q : Req) : Nat := if s.needsCtx q then 1 else 0

/-- Counter blocks before the wrap of a CTR message's counter (R171, R227): its width is PARAM's. -/
def ctrBlocks (iv : List Byte) (param : Nat) : Nat :=
  let w := if param = 0 then 32 else if param = 1 then 64 else 128
  2 ^ w - ofBe (padTo 16 iv) % 2 ^ w

/-- A SYM part under CTR asks for more counter blocks than there are (R171). -/
def ctrTooLong (p : Prog) (iv : List Byte) (param total : Nat) : Bool :=
  p.id == 5 && decide (ctrBlocks iv param < (total + 15) / 16)

/-- A later part of a GCM message whose first counter the key gave asks for more counter blocks than remain (R171). -/
def Job.gcmTooLong (b : Job) (p : Prog) (n : Nat) : Bool :=
  let c := ofBe ((wordBytes (b.ctx.getD 31 0)).drop 12)
  let left := if b.cbgFull then 0 else 2 ^ 32 - c
  (p.id == 6 || p.id == 7) && b.iv.length != 12 && !b.ctx.isEmpty && decide (left < (n + 15) / 16)

/-- SYM (R112): the message begins on its program, or its next part does; `ivt` is what IVT_ADDR holds. -/
def execSym (req : Nat) (ivt : List Byte) (s : State) : Out :=
  match s.req req with
  | none => .next s
  | some q =>
    if q.typ ≠ 1 ∨ q.admitted = false ∨ q.job ≠ none then .next s
    else if q.ivtReads.any (fun r => r.2 != 0 && s.denies q.fn (s.chTag q.fn q.ch) r.1 r.2 false) = true then
      .next (s.finish req { st := 0x71 })
    else
      let tagIn := wordOf (padTo q.tagLen (ivt.drop 64))
      if q.cont then
        match s.openOf q with
        | none => .next s
        | some m =>
          match s.job m.job with
          | none => .next s
          | some b =>
            let long := match s.progs.get none b.prog with
              | some p => ctrTooLong p b.iv b.param.toNat (b.done + q.inLen) || b.gcmTooLong p q.inLen
              | none => false
            if long then .next ((s.nextPart req m.job q tagIn).finish req { st := 0x21, detail := 1 })
            else .next (s.nextPart req m.job q tagIn)
      else
        match q.prog.bind fun n => (s.progs.get none n).map fun p => (n, p) with
        | none => .next s
        | some (n, p) =>
          let drew := !q.nonce.isEmpty
          let iv := if drew then q.nonce else ivt.take q.ivLen
          if ctrTooLong p iv q.param.toNat q.inLen then .next (s.finish req { st := 0x21, detail := 1 })
          else .next (s.addJob req
            { kind := .eight, req := req, fn := q.fn, ch := q.ch, domain := q.domain, keySlot := q.keySlot, prog := n
              op := (q.op &&& 0xFFFF0000#32) ||| p.id.setWidth 32, param := q.param, version := p.version, hold := p.hold
              pass := if p.hold = true ∧ 262144 < q.inLen then .tag else .single
              partLen := q.inLen, entries := s.ctxEntries q, iv := iv, drewNonce := drew, tagIn := tagIn })

/-- A DIGEST message begins, or its next part does. -/
def State.startDigest (s : State) (req sub : Nat) : State :=
  match s.req req with
  | none => s
  | some q =>
    if q.typ ≠ 2 ∨ q.subop ≠ sub ∨ q.admitted = false ∨ q.job ≠ none then s
    else if q.cont then
      match s.openOf q with
      | none => s
      | some m => s.nextPart req m.job q 0
    else s.addJob req
      { kind := .quad, req := req, fn := q.fn, ch := q.ch, domain := q.domain, keySlot := q.keySlot
        op := q.op, subop := sub, partLen := q.inLen, entries := s.ctxEntries q }

/-- DIGEST (R235): the result goes to OUT. -/
def execDigest (req : Nat) (s : State) : Out := .next (s.startDigest req 0)

/-- EXTEND (R235, R236): the result extends a measurement register. -/
def execExtend (req : Nat) (s : State) : Out := .next (s.startDigest req 1)

/-- COMPARE (R235, R237): the result is compared with the reference. -/
def execCompare (req : Nat) (s : State) : Out := .next (s.startDigest req 2)

/-! ### The cut of a message (R134) -/

/-- Input bytes of the job's next stroke. -/
def State.strokeLen (s : State) (b : Job) : Nat :=
  let r := b.partLen - b.partDone
  let size := s.strokeSize
  let unit := match b.kind, s.progs.get none b.prog with
    | .eight, some p => p.unit
    | _, _ => false
  let du := b.param.toNat
  if unit = false ∨ du = 0 then min r (size - b.done % size)
  else if du ≤ size then min r (size / du * du - b.done % du)
  else
    let off := b.done % du
    min r (min (size - off % size) (du - off))

/-! ### Placement (R135 to R137, R173) -/

/-- Input bytes of a job not yet processed, both passes of a two-pass decryption counted (R137). -/
def Job.queued (b : Job) : Nat := b.partLen - b.partDone + (if b.pass = .tag then b.partLen else 0)

/-- The bytes queued on an eight. -/
def State.queuedOn (s : State) (e : Nat) : Nat :=
  s.jobs.foldl (fun n kv => match kv.2 with
    | some b => if b.kind = .eight ∧ b.home = some e then n + b.queued else n
    | none => n) 0

/-- Hold pages a job needs: a single-pass AEAD decryption, in 4 KiB (R173). -/
def Job.holdNeed (b : Job) : Nat := if b.hold = true ∧ b.pass = .single then (b.partLen + 4095) / 4096 else 0

/-- An eight can take the job: in service, and its hold area of 256 pages has room (R34, R173). -/
def State.eightTakes (s : State) (b : Job) (e : Nat) : Bool :=
  s.usable (.egt e) && decide ((s.eight e).holdPages + b.holdNeed ≤ 256)

/-- The eight with the smallest estimated drain time, the lower index at a tie (R137). -/
def State.pickEight (s : State) (b : Job) : Option Nat :=
  ((List.range s.variant.eights).filter (s.eightTakes b)).foldl (fun best e => match best with
    | none => some e
    | some x =>
      if s.queuedOn e * (s.eight x).cadence.toNat < s.queuedOn x * (s.eight e).cadence.toNat then some e else some x) none

/-- The usable eight with the least free hold area (R173). -/
def State.fullestEight (s : State) : Option Nat :=
  ((List.range s.variant.eights).filter fun e => s.usable (.egt e)).foldl (fun best e => match best with
    | none => some e
    | some x => if (s.eight x).holdPages < (s.eight e).holdPages then some e else some x) none

/-- The nominal rate of a digest cell for an algorithm, in Gbit/s (R229). -/
def cellRate (alg : Nat) : Nat :=
  match alg with
  | 0x01 | 0x21 => 22
  | 0x02 | 0x03 | 0x22 | 0x23 | 0x13 | 0x33 => 32
  | 0x10 | 0x30 => 61
  | 0x12 | 0x32 => 44
  | 0x18 | 0x38 => 71
  | _ => 58

/-- The estimated drain time of a quad's queued bytes, in parts of a byte time. -/
def State.quadDrain (s : State) (r : Nat) : Nat :=
  s.jobs.foldl (fun n kv => match kv.2 with
    | some b => if b.kind = .quad ∧ b.blockOf = some r then n + b.queued * 1000000 / cellRate (bits b.op 7 0) else n
    | none => n) 0

/-- The quad with the smallest estimated drain time, the lower index at a tie. -/
def State.pickQuad (s : State) : Option Nat :=
  ((List.range s.variant.regions).filter fun r => s.usable (.qad r)).foldl (fun best r => match best with
    | none => some r
    | some x => if s.quadDrain r < s.quadDrain x then some r else some x) none

/-- Jobs homed on a pair that have not completed. -/
def State.pairJobs (s : State) (r : Nat) : Nat :=
  (s.jobsWhere fun b => b.kind == .pair && b.blockOf == some r).length

/-- A slice of the pair is bound to a domain. -/
def State.pairBound (s : State) (r d : Nat) : Bool :=
  (s.slice (2 * r)).bound == some (.domain d) || (s.slice (2 * r + 1)).bound == some (.domain d)

/-- The pair for a new job: the fewest jobs, a pair bound to the job's domain at a tie, then the lower index (R137). -/
def State.pickPair (s : State) (d : Nat) : Option Nat :=
  ((List.range s.variant.regions).filter fun r => s.sliceTakes (2 * r) || s.sliceTakes (2 * r + 1)).foldl
    (fun best r => match best with
      | none => some r
      | some x =>
        let a := s.pairJobs r
        let b := s.pairJobs x
        if a < b ∨ (a = b ∧ s.pairBound r d = true ∧ s.pairBound x d = false) then some r else some x) none

/-- A slice of a pair that takes requests: free and bound to the domain, else free, else the first. -/
def State.pickSlice (s : State) (r d : Nat) : Option Nat :=
  let l := [2 * r, 2 * r + 1].filter s.sliceTakes
  match l.find? fun i => (s.slice i).running.isNone && (s.slice i).bound == some (.domain d) with
  | some i => some i
  | none => match l.find? fun i => (s.slice i).running.isNone with
    | some i => some i
    | none => l.head?

/-- The home slice of a job: its own while it takes requests; after a mode change the other slice of the pair first, then
any other (R135); for a new job, a slice of the pair on which it is placed (R137). -/
def State.homeSlice (s : State) (b : Job) : Option Nat :=
  let anew := (s.pickPair b.domain).bind fun r => s.pickSlice r b.domain
  match b.home, b.block with
  | some i, _ =>
    if s.sliceTakes i then some i
    else match s.pickSlice (i / 2) b.domain with
      | some k => some k
      | none => anew
  | none, some r => match s.pickSlice r b.domain with
    | some k => some k
    | none => anew
  | none, none => anew

/-- The cell of a digest job's next stroke, if it is free: its home cell, another of the quad if that one is isolated, or for a new
message a cell of the quad on which it is placed (R135, R137). -/
def State.cellFor (s : State) (b : Job) : Option Nat :=
  let anyOf := fun (r : Nat) => (s.freeCell r).map (4 * r + ·)
  match b.home with
  | some c =>
    let q := s.quad (c / 4)
    if q.isolated.getLsbD (c % 4) then anyOf (c / 4)
    else if q.busy.getLsbD (c % 4) || q.direct.getLsbD (c % 4) then none
    else some c
  | none => (match b.block with
      | some r => some r
      | none => s.pickQuad).bind anyOf

/-- The eight of a SYM job: its home, or the one chosen for it now. -/
def State.eightFor (s : State) (b : Job) : Option Nat :=
  match b.home with
  | some e => some e
  | none => s.pickEight b

/-- Every unit of a job's kind is quarantined, or takes no requests (R35, R250). -/
def State.noUnitFor (s : State) (b : Job) : Bool :=
  match b.kind with
  | .eight => (List.range s.variant.eights).all fun e => s.quarantined (.egt e)
  | .quad => (List.range s.variant.regions).all fun r => s.quarantined (.qad r)
  | .pair => (s.homeSlice b).isNone

/-- The unit of a job has room for its next stroke or segment now; a job that is to fail needs none. -/
def State.hasRoom (s : State) (b : Job) : Bool :=
  s.noUnitFor b || match b.kind with
    | .eight => match s.eightFor b with
      | some e => (findFrom (fun k => (s.slot e k).job.isNone) 8 0).isSome
      | none => false
    | .quad => (s.cellFor b).isSome
    | .pair => b.fault || match s.homeSlice b with
      | some i => (s.slice i).running.isNone
      | none => true

/-- A message or job is placed on a unit that cannot take its stroke at this moment, and waits there (R137); an AEAD decryption that
no hold area can take is not placed, and the eight with the least free hold area says so (R173). -/
def State.placeJob (s : State) (j : Nat) (b : Job) : State :=
  if b.home.isSome || b.block.isSome then s
  else match b.kind with
    | .eight => match s.pickEight b with
      | some e => (s.modJob j fun b => { b with home := some e, holdPages := b.holdNeed }).modEight e fun x =>
          { x with holdPages := x.holdPages + b.holdNeed }
      | none => match s.fullestEight with
        | some e => s.setBit (.egt e) 15
        | none => s
    | .quad => s.modJob j fun b => { b with block := s.pickQuad }
    | .pair => s.modJob j fun b => { b with block := s.pickPair b.domain }

/-- The slice on which the Umpire's own public-key work runs: one bound to it already, else the first that is idle (R142). -/
def State.umpireSlice (s : State) : Option Nat :=
  let l := (List.range 8).filter fun i => s.sliceTakes i && (s.slice i).running.isNone
  match l.find? fun i => (s.slice i).bound == some .umpire with
  | some i => some i
  | none => l.head?

/-- The Umpire signs on a slice: an owner change as for any other owner, and one job more (R142, R252, R269). DESIGN CHOICE (log entry
69): the work takes no time; where every slice runs a segment, it runs at that segment's end and leaves no trace. -/
def State.umpirePke (s : State) : State :=
  match s.umpireSlice with
  | none => s
  | some i =>
    let s1 := if (s.slice i).bound = some .umpire then s
      else ((s.vacate i none).wipeSlice i).modSlice i fun x => { x with bound := some .umpire }
    s1.modSlice i fun x => { x with jobs := x.jobs + 1 }

/-! ### Ready work and shares (R138 to R141) -/

/-- The job has a stroke or segment to start: a part in execution, not running, its context on chip and in its cache entry. -/
def State.readyJob (s : State) (j : Nat) (b : Job) : Bool :=
  !b.running && b.frame.isNone && !(s.msh.entryWait.contains j) && match s.req b.req with
    | some q => q.admitted && q.job.isSome
    | none => false

/-- The priority class of a job: its channel's (R141). -/
def State.classOf (s : State) (b : Job) : Nat :=
  match s.chan b.fn b.ch with
  | some c => c.prio
  | none => 3

/-- The ready jobs of a kind. DESIGN CHOICE (log entry 69): a stroke that waits for a place on its unit is not ready. -/
def State.readyJobs (s : State) (k : UnitKind) : List Job :=
  s.jobs.filterMap fun kv => match kv.2 with
    | some b => if b.kind = k ∧ s.readyJob kv.1 b = true ∧ s.hasRoom b = true then some b else none
    | none => none

/-- The charge of a job's next stroke (R139); a segment's charge is measured, so its start needs a positive credit. -/
def State.charge (s : State) (b : Job) : Int :=
  match b.kind with
  | .pair => 1
  | _ => s.strokeLen b + 256

/-- The credits of a scheduler. -/
def Msh.credits (m : Msh) (k : UnitKind) : SMap Int :=
  match k with
  | .eight => m.creditEight
  | .quad => m.creditQuad
  | .pair => m.creditPair

/-- `s` with the credits of a scheduler replaced. -/
def State.setCredits (s : State) (k : UnitKind) (c : SMap Int) : State :=
  s.onMsh fun m => match k with
    | .eight => { m with creditEight := c }
    | .quad => { m with creditQuad := c }
    | .pair => { m with creditPair := c }

/-- A ready job is in the highest class of its domain's ready work (R141). -/
def State.topClass (s : State) (ready : List Job) (b : Job) : Bool :=
  ready.all fun x => x.domain != b.domain || decide (s.classOf b ≤ s.classOf x)

/-- A domain's weight (R140). -/
def State.weightOf (s : State) (d : Nat) : Nat :=
  match s.dom d with
  | some x => x.weight.toNat
  | none => 16

/-- One round: every domain with ready work gains its credit (R138). -/
def State.round (s : State) (k : UnitKind) (ds : List Nat) (c : SMap Int) : SMap Int :=
  let q : Nat := match k with
    | .pair => 5000
    | _ => 4096
  ds.foldl (fun c d => c.set 0 d (c.get 0 d + (s.weightOf d * q : Nat))) c

/-- Rounds are opened until some ready job can be paid for, at most `n` of them. -/
def State.rounds (s : State) (k : UnitKind) (ready : List Job) (ds : List Nat) : Nat → SMap Int → SMap Int
  | 0, c => c
  | n + 1, c =>
    if ready.any (fun b => s.topClass ready b && decide (s.charge b ≤ c.get 0 b.domain)) then c
    else s.rounds k ready ds n (s.round k ds c)

/-- The credits once rounds have opened for the ready work. -/
def State.creditsNow (s : State) (k : UnitKind) : SMap Int :=
  let ready := s.readyJobs k
  let ds := ready.foldl (fun l b => addNew l b.domain) []
  s.rounds k ready ds 1024 (s.msh.credits k)

/-- The key of a channel's turns at a scheduler (R141). -/
def Job.turnKey (b : Job) : Nat :=
  3 * chKey b.fn b.ch + match b.kind with
    | .eight => 0
    | .quad => 1
    | .pair => 2

/-- No ready channel of the same domain and class has waited longer for its turn: one stroke each (R141). -/
def State.turnOk (s : State) (ready : List Job) (b : Job) : Bool :=
  ready.all fun x => x.domain != b.domain || s.classOf x != s.classOf b
    || decide (s.msh.turns.get 0 b.turnKey ≤ s.msh.turns.get 0 x.turnKey)

/-- A spilled context of an admitted part or job waits to be brought back, which goes before a new message (R145). -/
def State.backFirst (s : State) (k : UnitKind) : Bool :=
  s.jobs.any fun kv => match kv.2 with
    | some b => b.kind == k && b.frame.isSome && !b.resident && (match s.req b.req with
      | some q => q.admitted
      | none => false)
    | none => false

/-- The job begins a message: nothing of it has run. -/
def Job.isNew (b : Job) : Bool := !b.begun && b.segments == 0 && b.pass != .decrypt

/-- The job may start now under deficit round robin, its priority class and its channel's turn. -/
def State.mayStart (s : State) (b : Job) : Bool :=
  let ready := s.readyJobs b.kind
  s.topClass ready b && s.turnOk ready b && !(b.isNew && s.backFirst b.kind)
    && decide (s.charge b ≤ (s.creditsNow b.kind).get 0 b.domain)

/-- The start of a stroke is charged, and is its channel's turn (R138, R139, R141); a segment is charged when it ends. -/
def State.chargeStart (s : State) (b : Job) : State :=
  let c := s.creditsNow b.kind
  (s.setCredits b.kind (match b.kind with
    | .pair => c
    | _ => c.set 0 b.domain (c.get 0 b.domain - s.charge b))).onMsh fun m =>
    { m with turns := m.turns.set 0 b.turnKey (m.starts + 1), starts := m.starts + 1 }

/-! ### Stroke start -/

/-- The key bytes of the two AES schedules of a slot (R224): an XTS key splits in halves. -/
def State.schedules (s : State) (i : Nat) : Option (List Byte) × Option (List Byte) :=
  let k := s.kslot i
  let m := s.keyBytes i
  if k.alg = 4 ∨ k.alg = 5 then (some (m.take (m.length / 2)), some (m.drop (m.length / 2))) else (some m, none)

/-- The schedules of a slot, as the key cache counts them: an XTS key has two (R157, R224). -/
def State.schedulesOf (s : State) (i : Nat) : List Nat :=
  if (s.kslot i).alg = 4 ∨ (s.kslot i).alg = 5 then [2 * i, 2 * i + 1] else [2 * i]

/-- The least recently used schedules that no running stroke uses give way until `n` more fit into 64 (R157). -/
def roomFor (used : List Nat) (n : Nat) : Nat → List Nat → List Nat
  | 0, l => l
  | k + 1, l =>
    if l.length + n ≤ 64 then l
    else match l.find? fun a => !(used.contains (a / 2)) with
      | some v => roomFor used n k (l.filter (· != v))
      | none => l

/-- The eight's key cache of 64 schedules takes a slot's schedules, the least recently used idle ones giving way (R157). -/
def State.cacheKey (s : State) (e i : Nat) : State :=
  let new := s.schedulesOf i
  let used := s.slotsUsed (s.eight e)
  s.modEight e fun x => { x with keyCache := roomFor used new.length 2 (x.keyCache.filter fun a => !(new.contains a)) ++ new }

/-- This stroke is the first of the message, or of its pass (R226). -/
def Job.first (b : Job) : Bool := !b.begun

/-- The dummy-round level in force under an eight's level and a key's SCA level (R160). -/
def levelFor (lvl : BitVec 2) (sca : Nat) : BitVec 2 :=
  match sca with
  | 1 => if lvl.toNat < 2 then 2 else lvl
  | 2 => 3
  | _ => lvl

/-- The slot as the Marshal loads it for a stroke of `n` bytes (R185, R224 to R226). -/
def State.loadSlot (s : State) (j : Nat) (b : Job) (q : Req) (p : Prog) (n : Nat) (data aad : List Byte) (lvl : BitVec 2)
    : Slot :=
  let ks := match b.keySlot with
    | some i => s.schedules i
    | none => (none, none)
  let sca := match b.keySlot with
    | some i => (s.kslot i).sca
    | none => 0
  let last := b.partDone + n == b.partLen && !q.more
  let out := if b.pass = .tag then 0 else if p.outRule = 0 then n else if last then q.outLen else 0
  let w := b.window
  { job := some j, regs := coxRegs, win := winOf (w.take 31), cbg := w.getD 31 0
    inData := data, aadData := aad, inLeft := n, outLeft := out, aadLeft := aad.length
    ivLen := BitVec.ofNat 8 (bits b.op 23 16), tagLen := if q.more then 0 else BitVec.ofNat 8 q.tagLen, param := b.param
    msgFlags := BitVec.ofNat 4 (b2n b.first + 2 * b2n last + 4 * b2n (b.pass == .tag) + 8 * b2n (b.pass == .decrypt))
    done := BitVec.ofNat 64 b.done, tagIn := b.tagIn, k0 := ks.1, k1 := ks.2, dummyLevel := levelFor lvl sca, sca := sca
    bytes := n + aad.length, tcmpSeen := b.tcmpSeen, tcmpOk := b.tcmpOk, cbgFull := b.cbgFull }

/-- The stroke's data fits it: the cut's length, and the AAD in the first stroke only (R226, R230). -/
def Job.dataOk (b : Job) (q : Req) (n : Nat) (data aad : List Byte) : Bool :=
  data.length == n && aad.length == (if b.first then q.aadLen else 0)

/-- The job's key lies in a failed slot (R283). -/
def State.keyFailedNow (s : State) (b : Job) : Bool :=
  match b.keySlot with
  | some i => (s.kslot i).bad
  | none => false

/-- The key's slot has failed and the eight holds no cached schedule of it: the stroke cannot load it (R157, R283, R297). -/
def State.keyLost (s : State) (e : Nat) (b : Job) : Bool :=
  match b.keySlot with
  | some i => (s.kslot i).bad && !((s.eight e).keyCache.contains (2 * i))
  | none => false

/-- A read of the stroke's input or additional data meets a translation that denies it (R78). -/
def State.inputDenied (s : State) (b : Job) (q : Req) (n : Nat) : Bool :=
  s.rangesDenied q q.inR b.partDone n false || (b.first && s.rangesDenied q q.aadR 0 q.aadLen false)

/-- The translations that the stroke's reads need are requested (R78). -/
def State.askInput (s : State) (b : Job) (q : Req) (n : Nat) : State :=
  let s1 := s.askRanges q q.inR b.partDone n
  if b.first then s1.askRanges q q.aadR 0 q.aadLen else s1

/-- A stroke starts on an eight, if its input fits the cut. -/
def State.startEight (s : State) (j : Nat) (b : Job) (q : Req) (data aad : List Byte) : State :=
  let n := s.strokeLen b
  match s.progs.get none b.prog, s.eightFor b with
  | some p, some e =>
    if s.keyLost e b then s.failJob j { st := 0x33 }
    else if s.inputDenied b q n then s.failJob j { st := 0x71 }
    else if b.dataOk q n data aad = false then s
    else
      let s0 := (s.placeJob j b).askInput b q n
      match findFrom (fun k => (s0.slot e k).job.isNone) 8 0 with
      | none => s0
      | some k =>
        let s1 := match b.keySlot with
          | some i => s0.cacheKey e i
          | none => s0
        let s2 := (s1.chargeStart b).modSlot e k fun _ => s1.loadSlot j b q p n data aad (s.eight e).dummyLevel
        s2.modJob j fun b => { b with running := true, faults := [] }
  | _, _ => s

/-- A stroke starts on a digest cell; the first of a keyed message takes the key into the cell's state (R234). -/
def State.startQuad (s : State) (j : Nat) (b : Job) (q : Req) (data aad : List Byte) : State :=
  let n := s.strokeLen b
  match s.cellFor b with
  | none => s
  | some c =>
    if b.first && s.keyFailedNow b then s.failJob j { st := 0x33 }
    else if s.inputDenied b q n then s.failJob j { st := 0x71 }
    else if b.dataOk q n data aad then
      let key := match b.keySlot with
        | some i => s.keyBytes i
        | none => []
      (((s.askInput b q n).chargeStart b).modQuad (c / 4) fun x => { x with busy := x.busy ||| (1#4 <<< (c % 4)) }).modJob j
        fun b => { b with home := some c, block := none, running := true, faults := [], held := data
                          iv := if b.first then aad else b.iv, dkey := if b.first then key else b.dkey }
    else s

/-- A slice makes ready for a job (R252): an owner change vacates, wipes and binds; a fifth job takes the frame of the
least recently run one; the job's frame is the most recent. -/
def State.takeSlice (s : State) (i j : Nat) (b : Job) : State :=
  let own := Owner.domain b.domain
  let s1 := if (s.slice i).bound = some own then s
    else ((s.vacate i none).wipeSlice i).modSlice i fun x => { x with bound := some own }
  let s2 := if (s1.slice i).frames.contains j = false ∧ 4 ≤ (s1.slice i).frames.length then
      match (s1.slice i).frames with
      | v :: r => (match s1.job v with
        | some bv => s1.takeEntries v bv.pkeEntries
        | none => s1).modSlice i fun x => { x with frames := r }
      | [] => s1
    else s1
  let key := match b.keySlot with
    | some k => (s.runOf k).flatMap fun m => (s.kslot m).material
    | none => []
  let s3 := s2.modSlice i fun x =>
    { x with frames := x.frames.filter (· != j) ++ [j], running := some j, busy := true, keyArea := key }
  s3.modJob j fun b => { b with home := some i, block := none, running := true, faults := [] }

/-- A segment of a PKE job starts. -/
def State.startPair (s : State) (j : Nat) (b : Job) : State :=
  if b.fault then s.failJob j { st := 0x72 }
  else match s.homeSlice b with
    | none => s.failJob j { st := 0x72 }
    | some i => if (s.slice i).running.isSome then s else (s.chargeStart b).takeSlice i j b

/-- A job's next stroke or segment starts on its unit. -/
def State.startOn (s : State) (j : Nat) (b : Job) (q : Req) (data aad : List Byte) : State :=
  match b.kind with
  | .eight => s.startEight j b q data aad
  | .quad => s.startQuad j b q data aad
  | .pair => s.startPair j b

/-- STROKE_START (R137, R138): `data` and `aad` are the input the stroke reads. A poisoned context is lost (R456); with every unit of
its kind quarantined a message ends with BLOCK_FAULT (R35); a unit that is full lets it wait there. -/
def execStrokeStart (job : Nat) (data aad : List Byte) (s : State) : Out :=
  match s.job job with
  | none => .next s
  | some b =>
    match s.req b.req with
    | none => .next s
    | some q =>
      if s.readyJob job b = false ∨ s.chip.thermalHold = true then .next s
      else if b.poison = true ∧ b.resident = true then .next (s.failJob job { st := 0x62 })
      else if s.noUnitFor b then .next (s.failJob job { st := 0x72 })
      else if s.hasRoom b = false then .next (s.placeJob job b)
      else if s.mayStart b = false then .next s
      else .next (s.startOn job b q data aad)

/-! ### Stroke end -/

/-- MEAS_EXTEND (R238): the value and the count change together; EXTENDED sets in the register's page. -/
def State.extendReg (s : State) (n : Nat) (d : List Byte) : State :=
  (s.modMeas n fun m => { m with val := sha3_512 (m.val ++ padTo 64 d), cnt := m.cnt + 1 }).setBit
    (.meas (if n < 32 then 0 else 1)) 8

/-- An uncorrectable word in a block memory: recorded, and the block leaves service (R455, R456, R16). -/
def State.poisonBlock (s : State) (k : BlockKind) (u detail : Nat) : State :=
  ((s.recErr (blockPage k u) 0x81 detail).setBit (blockPage k u) 1).quarantine k u

/-- The bytes that a request writes at IVT_ADDR when it completes with OK: the drawn IV, the tag (R112, R172). -/
def Req.ivtWrites (q : Req) (b : Job) (tag : Bool) : List (Nat × List Byte) :=
  (if b.drewNonce = true ∧ q.cont = false then [(q.ivtAddr, b.iv)] else []) ++
  (match b.tagOut with
    | some t => if tag = true ∧ q.tagLen ≠ 0 then [(q.ivtAddr + 64, (wordBytes t).take q.tagLen)] else []
    | none => [])

/-- A translation denies one of them (R78). -/
def State.ivtDenied (s : State) (q : Req) (l : List (Nat × List Byte)) : Bool :=
  l.any fun w => s.denies q.fn (s.chTag q.fn q.ch) w.1 w.2.length true

/-- They are written; bytes that overlap an input are undefined (R122). -/
def State.writeIvt (s : State) (q : Req) (l : List (Nat × List Byte)) : State :=
  l.foldl (fun s w =>
    let clash := (q.inR ++ q.aadR).any (rangesMeet (w.1, w.2.length))
    (s.dmaWrite q.fn (s.outTlp q) w.1 (s.orFree clash w.2)).spend (b2n clash)) s

/-- A SYM request completes with success, unless what it has to write at IVT_ADDR is denied. -/
def State.succeed (s : State) (q : Req) (b : Job) (tag : Bool) (st : Nat) : State :=
  let l := q.ivtWrites b tag
  if s.ivtDenied q l then s.finish b.req { st := 0x71 } else (s.writeIvt q l).finish b.req { st := st }

/-- The last stroke of a message, or of a pass, has ended (R173, R174, R196). -/
def State.endMessage (s : State) (j : Nat) (p : Prog) : State :=
  match s.job j with
  | none => s
  | some b =>
    match s.req b.req with
    | none => s
    | some q =>
      let ok := b.tcmpSeen && b.tcmpOk
      if b.hold then
        match b.pass with
        | .single =>
          if ok = false then s.finish b.req { st := 0x40 }
          else if s.rangesDenied q q.outR 0 b.held.length true then s.finish b.req { st := 0x71 }
          else ((((s.writeOut q 0 b.held).meter q.fn q.ch [(1, b.held.length)]).modJob j fun b =>
            { b with written := b.held.length })).succeed q b p.producesTag 0
        | .tag =>
          if ok then (s.modJob j fun b =>
            { b with pass := .decrypt, begun := false, done := 0, partDone := 0, tcmpSeen := false, tcmpOk := true }).takeEntries j 1
          else s.finish b.req { st := 0x40 }
        | .decrypt =>
          if ok then s.succeed q b p.producesTag 1
          else
            let e := b.home.getD 0
            ((s.setBit (.egt e) 14).recErr (.egt e) 0x8D 0).finish b.req { st := 0x40, detail := 2 }
      else if p.verify && !ok then s.finish b.req { st := 0x40 }
      else s.succeed q b p.producesTag 0

/-- The stroke's output goes to OUT when it ends: not that of a held decryption, nor the last of a verification that fails (R131,
R166, R173, R174). -/
def Job.writes (b : Job) (p : Prog) (t : Slot) (last : Bool) : Bool :=
  if b.hold then b.pass == .decrypt else !(last && p.verify && !(t.tcmpSeen && t.tcmpOk))

/-- The slot's stroke becomes part of its message: output, context, verdict, metering (R144, R166, R185, R444). -/
def State.takeStroke (s : State) (j : Nat) (t : Slot) (q : Req) (b : Job) (write : Bool) : State :=
  let n := t.inData.length
  let s1 := s.meter q.fn q.ch [(0, t.bytes), (2, t.seatOps)]
  let s2 := if write then (s1.writeOut q b.written t.outBuf).meter q.fn q.ch [(1, t.outBuf.length)] else s1
  ((s2.unplace j).sweepKeys).modJob j fun b =>
    { b with begun := true, done := b.done + n, partDone := b.partDone + n, ctx := t.ctxOut
             written := if write then b.written + t.outBuf.length else b.written
             held := if b.heldOne then b.held ++ t.outBuf else b.held
             tagOut := match t.tagOut with
               | some w => some w
               | none => b.tagOut
             tcmpSeen := t.tcmpSeen, tcmpOk := t.tcmpOk, cbgFull := t.cbgFull }

/-- A stroke of an eight ends. -/
def State.endEight (s : State) (e k : Nat) (err : StrokeErr) : State :=
  let t := s.slot e k
  match t.job with
  | none => s
  | some j =>
    match s.job j with
    | none => s
    | some b =>
      match s.req b.req, s.progs.get none b.prog with
      | some q, some p =>
        let fin := b.partDone + t.inData.length == b.partLen
        let write := b.writes p t (fin && !q.more)
        let s0 := s.cured .eight e j
        if t.ended = false then s
        else if t.cbgRefused then (s0.finish b.req { st := 0x21, detail := 1 }).sweepKeys
        else match (if write = true ∧ s.rangesDenied q q.outR b.written t.outBuf.length true = true then StrokeErr.denied else err) with
          | .denied => (s0.finish b.req { st := 0x71 }).sweepKeys
          | .poisoned => (s0.finish b.req { st := 0x75 }).poisonBlock .eight e 0
          | .none =>
            let s2 := s0.takeStroke j t q b write
            if q.abort then s2.finish b.req { st := 0x70 }
            else if fin && !q.more then s2.endMessage j p
            else if fin then (s2.takeEntries j 1).succeed q b false 0
            else s2.takeEntries j 1
      | _, _ => s

/-- The result of a finished digest message goes where its SUBOP says (R235, R237, R239). -/
def State.deliver (s : State) (b : Job) (q : Req) (ref : List Byte) : State :=
  let d := digestOf q.alg b.dkey b.iv b.absorbed (if algXof q.alg then q.xof else 0)
  match q.subop with
  | 0 =>
    if s.rangesDenied q q.outR 0 d.length true then s.finish b.req { st := 0x71 }
    else ((s.writeOut q 0 d).meter q.fn q.ch [(1, d.length)]).finish b.req { st := 0, r2 := d.length }
  | 1 => (s.extendReg q.mreg d).finish b.req { st := 0 }
  | _ =>
    if s.denies q.fn (s.chTag q.fn q.ch) q.ivtAddr d.length false then s.finish b.req { st := 0x71 }
    else s.finish b.req { st := if ref = d then 0 else 0x40 }

/-- A stroke of a digest cell ends; the cell may then be due for isolation (R13). -/
def State.endQuad (s : State) (c : Nat) (ref : List Byte) (err : StrokeErr) : State :=
  match s.jobsWhere (fun b => b.kind == .quad && b.running && b.home == some c) with
  | [] => s
  | j :: _ =>
    match s.job j with
    | none => s
    | some b =>
      match s.req b.req with
      | none => s
      | some q =>
        let s0 := s.cured .quad (c / 4) j
        (match err with
        | .denied => s0.finish b.req { st := 0x71 }
        | .poisoned => (s0.finish b.req { st := 0x75 }).poisonBlock .quad (c / 4) 4
        | .none =>
          let n := b.held.length
          let s1 := (s0.meter q.fn q.ch [(0, n + (if b.first then q.aadLen else 0))]).unplace j
          let s2 := (s1.modQuad (c / 4) fun x => { x with bytes := x.bytes + BitVec.ofNat 64 n }).modJob j fun b =>
            { b with begun := true, absorbed := b.absorbed ++ b.held, held := [], done := b.done + n, partDone := b.partDone + n }
          let fin := b.partDone + n == b.partLen
          if q.abort then s2.finish b.req { st := 0x70 }
          else if fin && !q.more then s2.deliver { b with absorbed := b.absorbed ++ b.held } q ref
          else if fin then (s2.takeEntries j 1).finish b.req { st := 0 }
          else s2.takeEntries j 1).settle (c / 4)

/-- STROKE_END (R166). -/
def execStrokeEnd (u : StrokeAt) (ref : List Byte) (err : StrokeErr) (s : State) : Out :=
  .next (match u with
    | .slot e k => s.endEight e k err
    | .cell c => s.endQuad c ref err)

/-- A segment's measured time is charged and recorded (R139, R444). -/
def State.chargeSegment (s : State) (i j ns : Nat) : State :=
  match s.job j with
  | none => s
  | some b =>
    let c := s.msh.creditPair
    let s1 := s.setCredits .pair (c.set 0 b.domain (c.get 0 b.domain - (ns : Int)))
    let s2 := (s1.modSlice i fun x => { x with running := none, busy := false, keyArea := [], busyNs := x.busyNs + BitVec.ofNat 64 ns }).modJob j
      fun b => { b with running := false, busyNs := b.busyNs + ns, segments := b.segments + 1 }
    s2.meter b.fn b.ch [(3, ns)]

/-- PKE_SEGMENT_END (R266, R144): the slice yields; the job's state, of `stateBytes` bytes, stays in its frame and takes its context
cache entries. -/
def execPkeSegmentEnd (slice ns stateBytes : Nat) (s : State) : Out :=
  match (s.slice slice).running with
  | none => .next s
  | some j =>
    let s1 := ((s.cured .pair (slice / 2) j).chargeSegment slice j ns).modJob j fun b => { b with yield := min stateBytes 2048 }
    let s2 := match s1.job j with
      | some b => s1.takeEntries j b.pkeEntries
      | none => s1
    let abort := match (s2.job j).bind (fun b => s2.req b.req) with
      | some q => q.abort
      | none => false
    .next ((if abort then s2.abortPke j false else s2).settle (slice / 2))

end Sys2Proof.Machine
end

