-- ==== Sys2Proof/Machine/Reports.lean ====
section
/-!
DEFINITION. Heat reports (R450, R451): the report body, the report ring, and the commands HEAT_REPORT_WRITE and
HEAT_RPT_TAIL_WRITE.
-/

namespace Sys2Proof.Machine

/-! ### Reports (R450, R451) -/

/-- The 256 bytes of a record's counters. -/
def Rec.bytes (r : Rec) : List Byte := (List.range 32).flatMap fun k => leBytes 8 (r.cnt.get 0 k)

/-- The first 8 bytes of SHA3-256("ZK7 SALT" ‖ salt) (R345, R450). -/
def saltFp (salt : List Byte) : List Byte := (sha3 32 (ascii "ZK7 SALT" ++ salt)).take 8

/-- The seed of domain d's attestation key, from the attestation root, which is ready in slot 5 once re-derived (R342, R354). -/
def State.attestSeed (s : State) (d : Nat) (salt : List Byte) : List Byte :=
  idKdf (idKdf s.cdiNow (ascii "ATTEST") 64) (ascii "DOMAIN" ++ beBytes 2 d ++ salt) 32

/-- The body of a heat report (R450). -/
def State.reportBody (s : State) (b : Bank) (d : Nat) : List Byte :=
  let r := (b.domains.get none d).getD {}
  let chs := b.channels.filter fun c => c.dom == some d
  let flags := b2n b.aodCold + 2 * b2n (r.created || r.destroyed) + 4 * b2n b.maskFallback
    + 8 * b2n (s.heat.prevLost.contains d)
  leBytes 4 0x54484B5A ++ leBytes 2 1 ++ leBytes 2 d ++ leBytes 8 b.heat.toNat ++ leBytes 8 b.openTicks
    ++ leBytes 8 b.closeTicks ++ [byteOf b.cause.toNat, byteOf flags, 0, 0] ++ leBytes 4 chs.length
    ++ leBytes 4 b.epoch.toNat ++ leBytes 4 0 ++ saltFp r.salt ++ s.deviceId ++ leBytes 8 0 ++ r.bytes
    ++ chs.flatMap fun c => leBytes 4 c.handle.toNat ++ [byteOf c.fn, byteOf (b2n c.destroyed + 2 * b2n c.created), 0, 0]
        ++ leBytes 4 c.account.toNat ++ leBytes 4 0 ++ c.bytes

/-- The bank a report of heat h is built from: the snapshot bank, or the Umpire's copy of a RESET close (R23, R451). -/
def State.reportBank (s : State) (h : BitVec 48) : Option Bank :=
  match s.heat.resetCopy with
  | some b => if b.heat = h then some b else snap
  | none => snap
where
  /-- The snapshot bank, if it holds the heat and is complete. -/
  snap : Option Bank :=
    let b := s.bankOf h.toNat
    if b.heat = h ∧ b.ready = true then some b else none

/-- The free bytes of the report ring between HEAD and TAIL (R451). -/
def Heat.ringFree (t : Heat) : Nat :=
  let size := t.rptKib.toNat * 1024
  if size = 0 then 0 else size - 1 - (t.rptHead.toNat + size - t.rptTail.toNat) % size

/-- Bytes into the report ring at HEAD, wrapping at its end. -/
def State.ringWrite (s : State) (data : List Byte) : State :=
  let size := s.heat.rptKib.toNat * 1024
  let head := s.heat.rptHead.toNat
  let s1 := s.writeRanges 0 (s.tlp 0 none false) [(s.heat.rptBase.toNat + head, min data.length (size - head)),
                                                        (s.heat.rptBase.toNat, data.length - (size - head))] data
  s1.onHeat fun t => { t with rptHead := BitVec.ofNat 32 ((head + data.length) % size) }

/-- A due report is built, signed and written once the ring has room; otherwise it waits and RPT_WAIT sets (R450, R451,
R354). The Umpire builds it: not while it is stopped, and not in SAFE_HOLD (R452). -/
def State.writeReport (s : State) (h : BitVec 48) (d : Nat) : State :=
  if ¬ s.heat.due.contains (h, d) = true ∨ s.umpUp = false ∨ s.chip.safeHold = true ∨ s.chip.accReady = false then s
  else match s.reportBank h with
    | none => s
    | some b =>
      let body := s.reportBody b d
      let salt := ((b.domains.get none d).getD {}).salt
      let sig := padTo 4627 ((mldsaSign (s.attestSeed d salt) (sha3_512 body) (ascii "ZK7 HEAT") (s.drawBytes 32)).1)
      let n := body.length + 4627
      let entry := leBytes 4 n ++ leBytes 2 d ++ [0, 0] ++ leBytes 8 h.toNat ++ body ++ sig
      let padded := padTo (roundUp entry.length 64) entry
      if s.heat.ringFree < padded.length then s.setBit .heat 11
      else ((s.spend 1).umpirePke.ringWrite padded).onHeat fun t =>
        { t with due := t.due.filter (· != (h, d)), prevLost := t.prevLost.filter (· != d) }

/-- HEAT_REPORT_WRITE. -/
def execHeatReportWrite (heat : BitVec 48) (domain : Nat) (s : State) : Out :=
  s.powered fun s => .next (s.writeReport heat domain)

/-- HEAT_RPT_TAIL_WRITE (R55, R451, R453): software frees room, and waiting reports are written. -/
def execHeatRptTailWrite (who : Requester) (v : W32) (s : State) : Out :=
  s.powered fun s => .next (s.gateWrite who .heat false fun s =>
    let s1 := s.onHeat fun t => { t with rptTail := v }
    if (s1.hdr .heat).status.getLsbD 11 then s1.heat.due.foldl (fun s x => s.writeReport x.1 x.2) s1 else s1)

end Sys2Proof.Machine
end

