-- ==== Sys2Proof/Machine/Keys.lean ====
section
/-!
DEFINITION. KEY and CTX requests (R115, R116, R152, R289 to R296), the two later steps of an invalidation, and domain
quotas (R287, R300).
-/

namespace Sys2Proof.Machine

/-! ### Creating keys (R118, R276, R289 to R294) -/

/-- A created key's handle resolves the chain key references that name this member (R118). -/
def State.giveRef (s : State) (q : Req) (h : Nat) : State :=
  (q.chain.drop (q.chainPos + 1)).foldl (fun s m => s.modReq m fun x =>
    if chainRef x.key = some q.chainPos then { x with result := BitVec.ofNat 32 h } else x) s

/-- The new key of a request: its handle in RESULT0, or the refusal of R276. -/
def State.makeKey (s : State) (r : Nat) (q : Req) (t : Tmpl) (d parent : Nat) (mat : List Byte) : State :=
  match s.createKey t d parent mat with
  | (s1, .error e) => s1.finish r { st := 0x12, detail := e }
  | (s1, .ok i) => (s1.giveRef q (s1.khandle i)).finish r { st := 0, r0 := s1.khandle i }

/-- Template and material of a payload satisfy R290 and R291 under a parent. -/
def State.payloadOk (s : State) (p : Nat) (payload : List Byte) : Bool :=
  let t := Tmpl.ofBytes payload
  let m := payload.drop 24
  s.tmplOk t p && decide (m.length = t.matLen) && (!(algRsa t.alg) || rsaOk (rsaK t.alg) m)

/-- The scalar order of an EC algorithm (R289). -/
def ecOf (alg : Nat) : Option WCurve :=
  match alg with
  | 0x20 => some p256
  | 0x21 => some p384
  | 0x22 => some p521
  | _ => none

/-- The material of a derived child (R289). -/
def deriveMat (parent : List Byte) (t : Tmpl) (inp : List Byte) : List Byte :=
  let x := inp.take 8 ++ inp.drop 24
  match ecOf t.alg with
  | some c => scalarOf c (kmac 256 parent x (t.keyLen + 8) (ascii "ZK7 DERIVE"))
  | none => kmac 256 parent x t.keyLen (ascii "ZK7 DERIVE")

/-- A KEY request of a SUBOP in execution. -/
def State.keyReq (s : State) (r sub : Nat) : Option Req :=
  match s.req r with
  | some q => if q.typ = 4 ∧ q.subop = sub ∧ q.admitted = true then some q else none
  | none => none

/-- A page of the request's IN or OUT is denied to it (R78). -/
def State.keyDenied (s : State) (q : Req) (write : Bool) : Bool :=
  if write then s.rangesDenied q q.outR 0 q.outLen true else s.rangesDenied q q.inR 0 q.inLen false

/-- KEY_DERIVE (R289): `data` is IN, the template and the label. -/
def execKeyDerive (req : Nat) (data : List Byte) (s : State) : Out :=
  match s.keyReq req 1 with
  | none => .next s
  | some q =>
    match q.keySlot with
    | none => .next s
    | some p =>
      let t := Tmpl.ofBytes data
      if s.keyDenied q false then .next (s.finish req { st := 0x71 })
      else if data.length ≠ q.inLen then .next s
      else if algRsa t.alg = true ∨ s.tmplOk t p = false then .next (s.finish req { st := 0x32 })
      else .next (s.makeKey req q t (s.kslot p).domain.toNat p (deriveMat (s.keyBytes p) t data))

/-- KEY_WRITE (R291): `data` is IN, the template and the material; the parent is the target domain's root. -/
def execKeyWrite (req : Nat) (data : List Byte) (s : State) : Out :=
  match s.keyReq req 2 with
  | none => .next s
  | some q =>
    let d := bits q.op 11 0
    if s.keyDenied q false then .next (s.finish req { st := 0x71 })
    else if data.length ≠ q.inLen then .next s
    else if ¬ s.domIds.contains d = true then .next (s.finish req { st := 0x30 })
    else if s.payloadOk (s.rootSlot d) data = false then .next (s.finish req { st := 0x32 })
    else .next (s.makeKey req q (Tmpl.ofBytes data) d (s.rootSlot d) (data.drop 24))

/-! ### Import (R293, R294) -/

/-- The blob length that a header implies (R293). -/
def blobLen (method p : Nat) : Nat := if method = 1 then 48 + 8 * ((48 + p + 7) / 8) + 8 else 1632 + p

/-- Condition 1 of R294. -/
def blobFormatBad (q : Req) (b : List Byte) : Bool :=
  let m := leAt b 6 1
  decide (leAt b 0 4 ≠ 0x4B424B5A) || decide (leAt b 4 2 ≠ 1) || decide (leAt b 7 1 ≠ 0) || decide (4096 ≤ leAt b 8 2)
    || decide (leAt b 0xC 4 ≠ 0) || !(m == 1 || m == 2) || ((m == 2) != (q.key == 0))
    || decide (b.length ≠ blobLen m (leAt b 0xA 2)) || decide (q.inLen ≠ b.length)

/-- The payload of a blob that passes condition 4 of R294. -/
def State.openBlob (s : State) (q : Req) (b : List Byte) : Option (List Byte) :=
  let h := b.take 48
  match q.keySlot with
  | some i =>
    match kwpUnwrap (s.keyBytes i) (b.drop 48) with
    | some x => if x.take 48 = h ∧ x.length = 48 + leAt b 0xA 2 then some (x.drop 48) else none
    | none => none
  | none =>
    let c := cut b 48 1568
    let k := kdf (mlkemDecaps (s.importSeed q.domain) c) (ascii "IMPORT" ++ h) 32
    gcmOpen k (List.replicate 12 0) (h ++ c) (cut b 1616 (leAt b 0xA 2)) (b.drop (1616 + leAt b 0xA 2))

/-- The slice that a method-2 decapsulation runs on is charged to the domain (R139, R293). -/
def State.chargeImport (s : State) (q : Req) (ns : Nat) : State :=
  if q.keySlot.isSome then s
  else
    let c := s.msh.creditPair
    s.setCredits .pair (c.set 0 q.domain (c.get 0 q.domain - (ns : Int)))

/-- KEY_IMPORT (R293, R294): `data` is the blob, `ns` the slice time of a method-2 decapsulation. -/
def execKeyImport (req : Nat) (data : List Byte) (ns : Nat) (s : State) : Out :=
  match s.keyReq req 0 with
  | none => .next s
  | some q =>
    let dev := cut data 0x10 32
    if s.keyDenied q false then .next (s.finish req { st := 0x71 })
    else if blobFormatBad q data then .next (s.finish req { st := 0x40, detail := 0x10 })
    else if leAt data 8 2 ≠ q.domain then .next (s.finish req { st := 0x40, detail := 0x11 })
    else if dev ≠ List.replicate 32 0 ∧ dev ≠ s.deviceId then .next (s.finish req { st := 0x40, detail := 0x12 })
    else if q.keySlot = none ∧ s.noSlice = true then .next (s.finish req { st := 0x72 })
    else
      let s1 := s.chargeImport q ns
      let p := q.keySlot.getD (s.rootSlot q.domain)
      match s.openBlob q data with
      | none => .next (s1.finish req { st := 0x40, detail := 0x13 })
      | some payload =>
        if s1.payloadOk p payload = false then .next (s1.finish req { st := 0x32 })
        else .next (s1.makeKey req q (Tmpl.ofBytes payload) (s1.kslot p).domain.toNat p (payload.drop 24))

/-! ### Destroy and query (R292, R296) -/

/-- KEY_DESTROY (R115, R296 step 1): the slot becomes retiring; an orphaned slot is freed at once; a domain root is refused,
the dword of KEY_HANDLE its detail (log entry 67). -/
def execKeyDestroy (req : Nat) (s : State) : Out :=
  match s.keyReq req 3 with
  | none => .next s
  | some q =>
    match q.keySlot with
    | none => .next s
    | some i =>
      if s.isRoot i then .next (s.finish req { st := 0x12, detail := 1 })
      else match (s.kslot i).state with
        | .orphaned => .next ((s.freeRun i).finish req { st := 0, r0 := q.handleOf.toNat })
        | .free | .retiring => .next (s.finish req { st := 0x30 })
        | _ => .next (s.retire i (some (.request req)))

/-- STATE of a QUERY record (R292). -/
def KSlot.queryState (k : KSlot) : Nat :=
  match k.state with
  | .orphaned => 2
  | .failed => 3
  | _ => 0

/-- Metadata bytes 0x00 to 0x17 of a slot (R277). -/
def State.kmeta (s : State) (i : Nat) : List Byte :=
  let k := s.kslot i
  [k.alg, k.usage, k.attr, k.life] ++ leBytes 2 k.domain.toNat ++ leBytes 2 k.parent.toNat ++ leBytes 2 (s.kgen i)
    ++ [k.keyLen, k.run] ++ leBytes 4 k.fixed.toNat ++ leBytes 8 k.counter.toNat

/-- The 32-byte record of KEY QUERY (R292). -/
def State.queryRecord (s : State) (i : Nat) : List Byte :=
  let parent := if s.isRoot i then 0 else s.khandle (s.kslot i).parent.toNat
  s.kmeta i ++ leBytes 4 parent ++ [byteOf (s.kslot i).queryState, byteOf (s.depth i), 0, 0]

/-- KEY_QUERY (R292): the record goes to OUT, the handle to RESULT0. -/
def execKeyQuery (req : Nat) (s : State) : Out :=
  match s.keyReq req 4 with
  | none => .next s
  | some q =>
    match q.keySlot with
    | none => .next s
    | some i =>
      if s.keyDenied q true then .next (s.finish req { st := 0x71 })
      else .next ((s.writeOut q 0 (s.queryRecord i)).finish req
        { st := 0, r0 := if q.key = 0 then s.khandle i else q.handleOf.toNat })

/-- The admin queue of function `f` still waits for the DESTROY_DOMAIN of a ring slot: a reset of the function, or ERROR, has not
ended the command (R81, R90). -/
def State.waitsDomain (s : State) (f sq : Nat) (cmdId : BitVec 16) : Bool :=
  match (s.fn f).adm.busy with
  | some (.destroyDomain _ slot c) => slot == sq && c == cmdId
  | _ => false

/-- INVALIDATION_DRAIN_DONE (R296 step 2): no stroke or segment under a retiring slot is in execution or loaded; the
completion that waits for it is written. -/
def execInvalidationDrainDone (slot : Nat) (s : State) : Out :=
  let k := s.kslot slot
  if k.state ≠ .retiring ∨ s.headOf slot ≠ slot ∨ k.drained = true ∨ s.loadedUnder slot = true then .next s
  else
    let s1 := s.modKslot slot fun k => { k with drained := true, drain := none }
    match k.drain with
    | none => .next s1
    | some (.request r) => .next (match s1.req r with
        | some q => s1.finish r { st := 0, r0 := q.handleOf.toNat }
        | none => s1)
    | some (.admin f sq cmdId) =>
      if s1.waitsDomain f sq cmdId then .next (s1.admFinish f sq cmdId {}) else .next s1

/-- INVALIDATION_RELEASE (R296 step 4): the last request admitted before the invalidation has completed. -/
def execInvalidationRelease (slot : Nat) (s : State) : Out :=
  let k := s.kslot slot
  if k.state ≠ .retiring ∨ s.headOf slot ≠ slot ∨ k.drained = false ∨ s.usersOf slot ≠ [] then .next s
  else .next (s.release slot)

/-! ### Quotas (R287, R300) -/

/-- KLG_QUOTA_WRITE (R300): by the PF or the Umpire, for the domain KLG_QUOTA_SEL names. -/
def execKlgQuotaWrite (who : Requester) (v : W32) (s : State) : Out :=
  s.powered fun s =>
  .next (s.gateWrite who .klg false fun s =>
    let d := s.klg.quotaSel.toNat
    if s.domIds.contains d then
      s.onKlg fun k => { k with quotaNew := k.quotaNew.set none d (some (v.setWidth 17)) }
    else s.accessErr .klg)

/-- QUOTA_TABLE_COPY (R287): changed quotas are copied into the domain table within one second. -/
def execQuotaTableCopy (s : State) : Out :=
  if s.klg.quotaNew.isEmpty then .next s
  else
    let s1 := s.klg.quotaNew.foldl (fun s kv => match kv.2 with
      | some v => s.modDom kv.1 fun x => { x with quota := v }
      | none => s) s
    .next ((s1.onKlg fun k => { k with quotaNew := [] }).writeDomTable)

/-! ### CTX requests (R116, R152) -/

/-- A CTX request of a SUBOP in execution. -/
def State.ctxReq (s : State) (r sub : Nat) : Option Req :=
  match s.req r with
  | some q => if q.typ = 5 ∧ q.subop = sub ∧ q.admitted = true then some q else none
  | none => none

/-- The channel's message leaves the chip. -/
def State.closeMsg (s : State) (q : Req) (j : Nat) : State :=
  (s.modChan q.fn q.ch fun c => { c with openMsg := none }).endJob j

/-- CTX_SAVE (R152): the blob is sealed and written with SAVED, its SEQ is the last saved one, and the message closes. A message that
was lost after the request's admission is open no more: the SAVE ends as one with no open message does (DEDUCED, log entry 69). -/
def execCtxSave (req : Nat) (s : State) : Out :=
  match s.ctxReq req 0 with
  | none => .next s
  | some q =>
    let none' := s.finish req { st := 0x10, detail := 0x20 }
    match s.chan q.fn q.ch, s.openJob q with
    | some c, some b =>
      let ctr := s.msh.blobCtr + 1
      let blob := s.sealBlob b c.handle 0 1 ctr c.seq true true
      if s.rangesDenied q q.outR 0 blob.length true then .next (s.finish req { st := 0x71 })
      else
        let s1 := (s.writeOut q 0 blob).onMsh fun x =>
          { x with blobCtr := ctr, saved := x.saved.set none (chKey q.fn q.ch) (some b) }
        let s2 := s1.modChan q.fn q.ch fun c => { c with seq := c.seq + 1, lastSaved := some c.seq }
        .next ((s2.closeMsg q ((s.openOf q).map (·.job) |>.getD 0)).finish req { st := 0, r0 := c.seq % 4294967296 })
    | _, _ => .next none'

/-- The store slot that holds the very version of a message's program (R222). -/
def State.versionSlot (s : State) (b : Job) : Option Nat :=
  findFrom (fun n => match s.progs.get none n with
    | some p => p.id.toNat == bits b.op 15 0 && p.version == b.version
    | none => false) 32 0

/-- The job of a restored message: its home where that still serves, its program by ID and version. -/
def State.restored (s : State) (b : Job) : Job :=
  let home := match b.kind, b.home with
    | .eight, some e => if s.usable (.egt e) then some e else none
    | .quad, some c => if s.usable (.qad (c / 4)) then some c else none
    | _, h => h
  { b with home := home, prog := (s.versionSlot b).getD 32, resident := false, frame := none, entries := 0, running := false }

/-- CTX_RESTORE (R151, R152): a blob that passes every check reopens the message and clears the last saved sequence; a
program version that no longer occupies a slot closes it with PROGRAM_INVALID (R222). -/
def execCtxRestore (req : Nat) (data : List Byte) (s : State) : Out :=
  match s.ctxReq req 1 with
  | none => .next s
  | some q =>
    match s.chan q.fn q.ch with
    | none => .next s
    | some c =>
      let st := s.checkBlob data true q.fn q.domain c.handle c.lastSaved none
      if s.rangesDenied q q.inR 0 q.inLen false then .next (s.finish req { st := 0x71 })
      else if st = 0x10 then .next (s.finish req { st := st, detail := 0x21 })
      else if st ≠ 0 then .next (s.finish req { st := st })
      else match s.msh.saved.get none (chKey q.fn q.ch) with
        | none => .next (s.finish req { st := 0x61 })
        | some b =>
          if b.kind = .eight ∧ (s.versionSlot b).isNone = true then
            let s1 := (s.modChan q.fn q.ch fun c => { c with lastSaved := none }).onMsh fun x =>
              { x with saved := x.saved.set none (chKey q.fn q.ch) none }
            .next (s1.finish req { st := 0x35 })
          else
          let j := s.nextJob
          let s1 := (s.onJobs (·.set none j (some { s.restored b with req := req }))).onNextJob (· + 1)
          let s2 := s1.modChan q.fn q.ch fun c =>
            { c with lastSaved := none, openMsg := some { job := j, digest := b.kind == .quad } }
          let s3 := (s2.onMsh fun x => { x with saved := x.saved.set none (chKey q.fn q.ch) none }).takeEntries j 1
          .next (s3.finish req { st := 0, r0 := leAt data 0x18 4 })

/-- CTX_DISCARD (R116): the open message closes, nothing is written; OK with none open. -/
def execCtxDiscard (req : Nat) (s : State) : Out :=
  match s.ctxReq req 2 with
  | none => .next s
  | some q =>
    match s.openOf q with
    | some m => if m.lost.isSome then .next (s.finish req { st := 0 }) else .next ((s.closeMsg q m.job).finish req { st := 0 })
    | none => .next (s.finish req { st := 0 })

end Sys2Proof.Machine
end

