-- ==== Sys2Proof/Machine/Pke.lean ====
section
/-!
DEFINITION. PKE commands (R254 to R265): operand slots and taint, the operand commands, signatures, key agreement, RSA,
lattices; the frame of one command on a slice.
-/

namespace Sys2Proof.Machine

/-- What a command's computation gives: a status, the output, one operand slot's new content, the iterations of a
rejection loop, the draws it took, whether it uses blinding values, whether its result is self-checked, and whether it fails its own
check (R259, R261, R264, R265). -/
structure PkeRes where
  st : Nat := 0
  detail : Nat := 0
  out : List Byte := []
  dest : Option (Nat × Option Operand) := none
  iters : Nat := 0
  draws : Nat := 0
  blinds : Bool := false
  signs : Bool := false
  wrong : Bool := false

/-- A failed self-check (R265): the cell fault, the report of the ledger slot, S0_SELF_CHECK or S1_SELF_CHECK. -/
def State.selfCheckFault (s : State) (i : Nat) (key : Option Nat) : State :=
  let p := PageId.pke (i / 2)
  (((s.setBit p (8 + i % 2)).recErr p 0x92 (i % 2)).reportSlot .pair (i / 2) key true).countFault .pair (i / 2) (i % 2)

/-- The results of a command that ran (R261). -/
def Job.pkeFin (b : Job) (i : Nat) (ns : Nat) (x : PkeRes) : Fin :=
  { st := x.st, detail := x.detail, r0 := i + 256 * min 255 (b.segments + 1) + 65536 * (x.iters % 65536)
    r1 := (b.busyNs + ns) % 4294967296, r2 := if x.st = 0 then x.out.length else 0 }

/-- The command's effect on its job and on host memory, when it succeeds. -/
def State.pkeWrite (s : State) (j : Nat) (q : Req) (x : PkeRes) : State :=
  let s1 := match x.dest with
    | some (n, v) => s.modJob j fun b => { b with ops := b.ops.set none n v }
    | none => s
  if x.out.isEmpty then s1 else (s1.writeOut q 0 x.out).meter q.fn q.ch [(1, x.out.length)]

/-- One command in the segment that completes it (R262 to R265, R269); one that needs randomness waits for it (R264): `body` computes from the request and the job. -/
def State.runPke (s : State) (r cmd : Nat) (x : PkeIn) (body : Req → Job → PkeRes) : State :=
  match s.req r with
  | none => s
  | some q =>
    match q.job with
    | none => s
    | some j =>
      match s.job j with
      | none => s
      | some b =>
        match b.home with
        | none => s
        | some i =>
          if q.typ ≠ 3 ∨ q.cmd ≠ cmd ∨ q.admitted = false ∨ b.running = false ∨ b.req ≠ r ∨ x.inp.length ≠ q.inLen
              ∨ x.aad.length ≠ q.aadLen then s
          else
            let res := body q b
            let s1 := (((s.cured .pair (i / 2) j).chargeSegment i j x.ns).meter q.fn q.ch [(0, q.inLen + q.aadLen)]).spend res.draws
            let s2 := s1.modSlice i fun t => { t with jobs := t.jobs + 1 }
            let bad := res.signs && (x.fault || res.wrong) && res.st == 0
            if (res.draws ≠ 0 ∨ res.blinds = true) ∧ s.rngDry = true then s
            else if s.rangesDenied q q.inR 0 q.inLen false || s.rangesDenied q q.aadR 0 q.aadLen false then
              (s2.finish r (b.pkeFin i x.ns { st := 0x71 })).settle (i / 2)
            else if res.st = 0 ∧ s.rangesDenied q q.outR 0 res.out.length true = true then
              (s2.finish r (b.pkeFin i x.ns { st := 0x71 })).settle (i / 2)
            else (if q.abort then (if bad then (s1.abortPke j false).selfCheckFault i b.keySlot else s1.abortPke j false)
            else if s.keyFailedNow b then s2.finish r (b.pkeFin i x.ns { st := 0x33 })
            else if bad then (s2.finish r (b.pkeFin i x.ns { st := 0x53 })).selfCheckFault i b.keySlot
            else if res.st ≠ 0 then s2.finish r (b.pkeFin i x.ns res)
            else (s2.pkeWrite j q res).finish r (b.pkeFin i x.ns res)).settle (i / 2)

/-- Key material of the job's key (R260, R281). -/
def State.pkeKey (s : State) (b : Job) : List Byte :=
  match b.keySlot with
  | some i => s.keyBytes i
  | none => []

/-! ### Operand commands (R259, R263) -/

/-- Byte `k` of the operand header. -/
def hdrAt (x : PkeIn) (k : Nat) : Nat := leAt x.inp k 1

/-- The header is in order: reserved bytes and unused fields zero, used slot numbers 0 to 5. -/
def hdrOk (x : PkeIn) (dest a b m : Bool) : Bool :=
  let f := fun (used : Bool) (k : Nat) => if used then decide (hdrAt x k ≤ 5) else decide (hdrAt x k = 0)
  f dest 0 && f a 1 && f b 2 && f m 3 && decide (leAt x.inp 4 4 = 0)

/-- An operand slot. -/
def Job.opAt (b : Job) (n : Nat) : Option Operand := b.ops.get none n

/-- LOAD: the value after the header, untainted. -/
def pkeLoad (x : PkeIn) : PkeRes :=
  if hdrOk x true false false false then { dest := some (hdrAt x 0, some ⟨x.inp.drop 8, false⟩) } else { st := 0x10 }

/-- A key component (R281). -/
def State.component (s : State) (i n : Nat) : Option (List Byte) :=
  if algRsa (s.kslot i).alg.toNat then
    if n < 5 then some (s.rsaComp i n) else if n = 5 then some ((s.kslot i).material.take 4) else none
  else if n = 0 then some (s.keyBytes i) else none

/-- LOAD_KEY: a component of the key, tainted. -/
def State.pkeLoadKey (s : State) (x : PkeIn) (b : Job) : PkeRes :=
  if hdrOk x true true false false then
    match b.keySlot.bind fun i => s.component i (hdrAt x 1) with
    | some v => { dest := some (hdrAt x 0, some ⟨v, true⟩) }
    | none => { st := 0x10 }
  else { st := 0x10 }

/-- READ: the slot SRC_A names, untainted, of exactly OUT_LEN bytes. -/
def pkeRead (x : PkeIn) (q : Req) (b : Job) : PkeRes :=
  if hdrOk x false true false false then
    match b.opAt (hdrAt x 1) with
    | none => { st := 0x50 }
    | some v =>
      if v.taint then { st := 0x12 }
      else if v.bytes.length ≠ q.outLen then { st := 0x20, detail := 2 }
      else { out := v.bytes }
  else { st := 0x10 }

/-- CLEAR. -/
def pkeClear (x : PkeIn) : PkeRes :=
  if hdrOk x true false false false then { dest := some (hdrAt x 0, none) } else { st := 0x10 }

/-- A MOD_ command: `two` has a second source, `f` gives the value or a status from A, B and M. -/
def pkeMod (x : PkeIn) (b : Job) (two : Bool) (f : Nat → Nat → Nat → Except Nat Nat) : PkeRes :=
  if hdrOk x true true two true then
    match b.opAt (hdrAt x 1), (if two then b.opAt (hdrAt x 2) else some ⟨[], false⟩), b.opAt (hdrAt x 3) with
    | some a, some c, some m =>
      let mv := ofBe m.bytes
      if mv % 2 = 0 ∨ mv < 3 then { st := 0x50 }
      else match f (ofBe a.bytes) (ofBe c.bytes) mv with
        | .error e => { st := e }
        | .ok v => { dest := some (hdrAt x 0, some ⟨beBytes m.bytes.length v, a.taint || c.taint || m.taint⟩) }
    | _, _, _ => { st := 0x50 }
  else { st := 0x10 }

/-- An exponentiation with a secret input uses blinding values (R264). -/
def PkeRes.blinded (x : PkeRes) : PkeRes :=
  match x.dest with
  | some (_, some v) => { x with blinds := v.taint }
  | _ => x

/-- LOAD. -/
def execLoad (req : Nat) (x : PkeIn) (s : State) : Out := .next (s.runPke req 0x0001 x fun _ _ => pkeLoad x)

/-- LOAD_KEY. -/
def execLoadKey (req : Nat) (x : PkeIn) (s : State) : Out :=
  .next (s.runPke req 0x0002 x fun _ b => s.pkeLoadKey x b)

/-- READ. -/
def execRead (req : Nat) (x : PkeIn) (s : State) : Out := .next (s.runPke req 0x0003 x fun q b => pkeRead x q b)

/-- CLEAR. -/
def execClear (req : Nat) (x : PkeIn) (s : State) : Out := .next (s.runPke req 0x0004 x fun _ _ => pkeClear x)

/-- MOD_ADD. -/
def execModAdd (req : Nat) (x : PkeIn) (s : State) : Out :=
  .next (s.runPke req 0x0010 x fun _ b => pkeMod x b true fun a c m =>
    if m ≤ a ∨ m ≤ c then .error 0x50 else .ok ((a + c) % m))

/-- MOD_SUB. -/
def execModSub (req : Nat) (x : PkeIn) (s : State) : Out :=
  .next (s.runPke req 0x0011 x fun _ b => pkeMod x b true fun a c m =>
    if m ≤ a ∨ m ≤ c then .error 0x50 else .ok ((a + (m - c)) % m))

/-- MOD_MUL. -/
def execModMul (req : Nat) (x : PkeIn) (s : State) : Out :=
  .next (s.runPke req 0x0012 x fun _ b => pkeMod x b true fun a c m =>
    if m ≤ a ∨ m ≤ c then .error 0x50 else .ok (a * c % m))

/-- MOD_INV. -/
def execModInv (req : Nat) (x : PkeIn) (s : State) : Out :=
  .next (s.runPke req 0x0013 x fun _ b => pkeMod x b false fun a _ m =>
    if m ≤ a then .error 0x50
    else match invMod a m with
      | some v => .ok v
      | none => .error 0x52)

/-- MOD_EXP. -/
def execModExp (req : Nat) (x : PkeIn) (s : State) : Out :=
  .next (s.runPke req 0x0014 x fun _ b => (pkeMod x b true fun a c m =>
    if a = 0 ∨ m ≤ a then .error 0x50 else .ok (powMod a c m)).blinded)

/-! ### Elliptic curves -/

/-- The Edwards curve of a parameter set. -/
def eCurve (set : Nat) : ECurve := if set = 4 then ed25519 else ed448

/-- The modulus of an RSA key. -/
def State.rsaN (s : State) (i : Nat) : Nat := ofBe (s.rsaComp i 0) * ofBe (s.rsaComp i 1)

/-- The public key of the job's key (R257 PUBKEY). -/
def State.publicKey (s : State) (set : Nat) (b : Job) : List Byte :=
  let key := s.pkeKey b
  let i := b.keySlot.getD 0
  match set with
  | 1 => wEncode p256 (wMul p256 (ofBe key) (wBase p256))
  | 2 => wEncode p384 (wMul p384 (ofBe key) (wBase p384))
  | 3 => wEncode p521 (wMul p521 (ofBe key) (wBase p521))
  | 4 => if (s.kslot i).alg = 0x29 then xdhOf 4 key 9 else ePublic ed25519 key
  | 5 => if (s.kslot i).alg = 0x2B then xdhOf 5 key 5 else ePublic ed448 key
  | 0x20 => padTo 2592 (mldsaPk key)
  | 0x21 => padTo 1568 (mlkemEk key)
  | _ => beBytes (rsaK set) (s.rsaN i) ++ (s.kslot i).material.take 4

/-- PUBKEY (R257): the length the key has must be OUT_LEN. -/
def State.pkePubkey (s : State) (q : Req) (b : Job) : PkeRes :=
  let o := s.publicKey q.set b
  if o.length = q.outLen then { out := o, blinds := decide (q.set < 0x10) } else { st := 0x20, detail := 2 }

/-- PUBKEY. -/
def execPubkey (req : Nat) (x : PkeIn) (s : State) : Out := .next (s.runPke req 0x0100 x fun q b => s.pkePubkey q b)

/-- A random scalar 1 to n − 1 (R264). -/
def State.drawScalar (s : State) (c : WCurve) : Nat := (s.draw (8 * c.len + 64)).toNat % (c.n - 1) + 1

/-- ECDSA_SIGN (R257, R258, R264, R265). -/
def execEcdsaSign (req : Nat) (x : PkeIn) (s : State) : Out :=
  .next (s.runPke req 0x0101 x fun q b =>
    let c := wCurve q.set
    { out := ecdsaSign c (ofBe (s.pkeKey b)) (s.drawScalar c) x.inp, draws := 1, signs := true })

/-- The verdict on Q ‖ r ‖ s ‖ digest (R263). -/
def ecdsaVerdict (c : WCurve) (m : List Byte) : PkeRes :=
  let r := ofBe (cut m (2 * c.len) c.len)
  let t := ofBe (cut m (3 * c.len) c.len)
  match wDecode c m with
  | none => { st := 0x51 }
  | some p =>
    if r = 0 ∨ c.n ≤ r ∨ t = 0 ∨ c.n ≤ t then { st := 0x40 }
    else if ecdsaCheck c (some p) r t (m.drop (4 * c.len)) then {} else { st := 0x40 }

/-- ECDSA_VERIFY. -/
def execEcdsaVerify (req : Nat) (x : PkeIn) (s : State) : Out :=
  .next (s.runPke req 0x0102 x fun q _ => ecdsaVerdict (wCurve q.set) x.inp)

/-- ECDH: the shared x-coordinate (R257). -/
def execEcdh (req : Nat) (x : PkeIn) (s : State) : Out :=
  .next (s.runPke req 0x0103 x fun q b =>
    let c := wCurve q.set
    match wDecode c x.inp with
    | none => { st := 0x51 }
    | some p => { out := (wEncode c (wMul c (ofBe (s.pkeKey b)) (some p))).take c.len, blinds := true })

/-- EDDSA_SIGN (R257, R264, R265). -/
def execEddsaSign (req : Nat) (x : PkeIn) (s : State) : Out :=
  .next (s.runPke req 0x0110 x fun q b => 
    { out := eSign (eCurve q.set) (s.pkeKey b) x.aad x.inp, signs := true, blinds := true })

/-- The verdict on A ‖ signature ‖ message (R263). -/
def eddsaVerdict (c : ECurve) (aad m : List Byte) : PkeRes :=
  match eDecode c m with
  | none => { st := 0x51 }
  | some p =>
    if eVerify c (m.take c.len) p (cut m c.len (2 * c.len)) aad (m.drop (3 * c.len)) then {} else { st := 0x40 }

/-- EDDSA_VERIFY. -/
def execEddsaVerify (req : Nat) (x : PkeIn) (s : State) : Out :=
  .next (s.runPke req 0x0111 x fun q _ => eddsaVerdict (eCurve q.set) x.aad x.inp)

/-- XDH (R263): u at or above p, or an all-zero secret, is POINT_INVALID. -/
def execXdh (req : Nat) (x : PkeIn) (s : State) : Out :=
  .next (s.runPke req 0x0120 x fun q b =>
    let (u, p) := xdhU q.set x.inp
    let o := xdhOf q.set (s.pkeKey b) u
    if p ≤ u then { st := 0x51 } else if o.all (· == 0) then { st := 0x51 }
    else { out := o, blinds := true })

/-! ### RSA -/

/-- RSA_PRIV by CRT with its check, y^e mod n = x (R263, R265). -/
def execRsaPriv (req : Nat) (x : PkeIn) (s : State) : Out :=
  .next (s.runPke req 0x0130 x fun q b =>
    let i := b.keySlot.getD 0
    let c := fun n => ofBe (s.rsaComp i n)
    let v := ofBe x.inp
    if v = 0 ∨ s.rsaN i ≤ v then { st := 0x50 }
    else
      let y := rsaCrt v (c 0) (c 1) (c 2) (c 3) (c 4)
      { out := beBytes (rsaK q.set) y, signs := true, blinds := true
        wrong := powMod y (ofBe ((s.kslot i).material.take 4)) (s.rsaN i) != v })

/-- RSA_PUB on n ‖ e ‖ x (R263). -/
def execRsaPub (req : Nat) (x : PkeIn) (s : State) : Out :=
  .next (s.runPke req 0x0131 x fun q _ =>
    let k := rsaK q.set
    let n := ofBe (x.inp.take k)
    let e := ofBe (cut x.inp k 4)
    let v := ofBe (x.inp.drop (k + 4))
    if n % 2 = 0 ∨ n < 3 ∨ e % 2 = 0 ∨ e < 3 ∨ v = 0 ∨ n ≤ v then { st := 0x50 }
    else { out := beBytes k (powMod v e n) })

/-! ### Lattices -/

/-- MLDSA_SIGN: the hedged signature of a message under a context (R258, R264). -/
def execMldsaSign (req : Nat) (x : PkeIn) (s : State) : Out :=
  .next (s.runPke req 0x0140 x fun _ b =>
    let k := s.pkeKey b
    let rnd := s.drawBytes 32
    let (g, n) := mldsaSign k x.inp x.aad rnd
    { out := padTo 4627 g, iters := n, draws := 1, signs := true, wrong := !mldsaVerify (mldsaPk k) g x.inp x.aad })

/-- MLDSA_SIGN_MU: the signature of a caller-formed μ (R258). -/
def execMldsaSignMu (req : Nat) (x : PkeIn) (s : State) : Out :=
  .next (s.runPke req 0x0141 x fun _ b =>
    let k := s.pkeKey b
    let rnd := s.drawBytes 32
    let (g, n) := mldsaSignMu k x.inp rnd
    { out := padTo 4627 g, iters := n, draws := 1, signs := true, wrong := !mldsaVerifyMu (mldsaPk k) g x.inp })

/-- MLDSA_VERIFY of pk ‖ signature ‖ message. -/
def execMldsaVerify (req : Nat) (x : PkeIn) (s : State) : Out :=
  .next (s.runPke req 0x0142 x fun _ _ =>
    if mldsaVerify (x.inp.take 2592) (cut x.inp 2592 4627) (x.inp.drop 7219) x.aad then {} else { st := 0x40 })

/-- MLKEM_ENCAPS: K ‖ c, from a fresh m (R263, R264). -/
def execMlkemEncaps (req : Nat) (x : PkeIn) (s : State) : Out :=
  .next (s.runPke req 0x0150 x fun _ _ =>
    if mlkemEkOk x.inp then
      let (k, c) := mlkemEncaps x.inp (s.drawBytes 32)
      { out := padTo 32 k ++ padTo 1568 c, draws := 1 }
    else { st := 0x50 })

/-- MLKEM_DECAPS: K, the implicit-rejection key for a malformed ciphertext (R263). -/
def execMlkemDecaps (req : Nat) (x : PkeIn) (s : State) : Out :=
  .next (s.runPke req 0x0151 x fun _ b => { out := padTo 32 (mlkemDecaps (s.pkeKey b) x.inp) })

end Sys2Proof.Machine
end

