-- ==== Sys2Proof/Machine/MacDirect.lean ====
section
/-!
DEFINITION. The PKE page's commands (R249, R267, R270), the quad's direct port (R245 to R247) and the access lists of the
measurement registers (R241, R244).
-/

namespace Sys2Proof.Machine

/-! ### Modes and aborts (R249, R267) -/

/-- MODE_WRITE: the PF may write MODE where MAC_OWNER would then read PF; a PF write that selects MAC mode makes the PF the owner, and
every Umpire write makes the Umpire the owner. -/
def execModeWrite (who : Requester) (slice : Nat) (mac : Bool) (s : State) : Out :=
  s.powered fun s =>
  let p := PageId.pke (slice / 2)
  .next (s.gateWrite who p false fun s => s.locked p (slice % 2) fun s =>
    if who = .pf ∧ mac = false ∧ (s.slice slice).macOwnerPf = false then s.accessErr p
    else s.modSlice slice fun x => { x with mode := mac, macOwnerPf := who == .pf })

/-- MODE_CHANGE_DONE: the running segment has ended; the frames are vacated, the memory wiped, the mode is in force. -/
def execModeChangeDone (slice : Nat) (s : State) : Out :=
  let x := s.slice slice
  if x.mode = x.modeActive ∨ x.running.isSome = true ∨ s.usable (.pke (slice / 2)) = false then .next s
  else .next ((((s.vacate slice none).wipeSlice slice).modSlice slice fun x =>
    { x with modeActive := x.mode, bound := none, acc := 0, accTaint := false }).setBit (.pke (slice / 2)) 12)

/-- PKE_ABORT (R267): the Umpire aborts the running job at its next yield point and every resident one at once. -/
def execPkeAbort (who : Requester) (slice : Nat) (s : State) : Out :=
  s.powered fun s =>
  .next (s.gateWrite who (.pke (slice / 2)) true fun s =>
    let x := s.slice slice
    let resting := x.frames.filter fun j => some j != x.running
    let s1 := resting.foldl (fun s j => s.failJob j { st := 0x70 }) s
    match x.running with
    | some j => match (s1.job j).map (·.req) with
      | some r => s1.modReq r fun q => { q with abort := true }
      | none => s1
    | none => if resting.isEmpty then s1 else (s1.wipeSlice slice).setBit (.pke (slice / 2)) 13)

/-! ### Multiply-accumulate operations (R255, R270) -/

/-- The first word of the key area. -/
def macKeyArea : Nat := 7168

/-- A word of the array. -/
def Slice.word (x : Slice) (a : BitVec 13) : MacWord := x.w.get {} a.toNat

/-- A write of PKE_MAC_CMD: only the owner may; outside MAC mode, or naming a key-area word, it is refused and changes
nothing but STAT. -/
def State.macCmd (s : State) (who : Requester) (slice : Nat) (names : List (BitVec 13)) (k : State → State) : State :=
  let p := PageId.pke (slice / 2)
  let refuse := fun (s : State) (c : BitVec 4) => s.modSlice slice fun x => { x with macError := true, macCause := c }
  s.gateWrite who p false fun s =>
    let x := s.slice slice
    if (who == .pf) != x.macOwnerPf then s.accessErr p
    else
      let s1 := s.modSlice slice fun x => { x with macError := false, macCause := 0 }
      if x.modeActive = false then refuse s1 2
      else if names.any (fun a => decide (macKeyArea ≤ a.toNat)) then refuse s1 3
      else k s1

/-- MAC_CLEAR. -/
def execMacClear (who : Requester) (slice : Nat) (_a _b : BitVec 13) (s : State) : Out :=
  s.powered fun s =>
  .next (s.macCmd who slice [] fun s => s.modSlice slice fun x => { x with acc := 0, accTaint := false })

/-- MULACC. -/
def execMulacc (who : Requester) (slice : Nat) (a b : BitVec 13) (s : State) : Out :=
  s.powered fun s =>
  .next (s.macCmd who slice [a, b] fun s => s.modSlice slice fun x =>
    { x with acc := x.acc + (x.word a).val.setWidth 1024 * (x.word b).val.setWidth 1024
             accTaint := x.accTaint || (x.word a).taint || (x.word b).taint })

/-- ADDW. -/
def execAddw (who : Requester) (slice : Nat) (a _b : BitVec 13) (s : State) : Out :=
  s.powered fun s =>
  .next (s.macCmd who slice [a] fun s => s.modSlice slice fun x =>
    { x with acc := x.acc + (x.word a).val.setWidth 1024, accTaint := x.accTaint || (x.word a).taint })

/-- MAC_SHR: the accumulator's taint stays. -/
def execMacShr (who : Requester) (slice : Nat) (_a _b : BitVec 13) (s : State) : Out :=
  s.powered fun s =>
  .next (s.macCmd who slice [] fun s => s.modSlice slice fun x => { x with acc := x.acc >>> 256 })

/-- MAC_STORE. -/
def execMacStore (who : Requester) (slice : Nat) (a _b : BitVec 13) (s : State) : Out :=
  s.powered fun s =>
  .next (s.macCmd who slice [a] fun s => s.modSlice slice fun x =>
    { x with w := x.w.set {} a.toNat ⟨x.acc.setWidth 256, x.accTaint⟩ })

/-- READW: a tainted word gives zeros and sets the slice's TAINT_READ. -/
def execReadw (who : Requester) (slice : Nat) (a _b : BitVec 13) (s : State) : Out :=
  s.powered fun s =>
  .next (s.macCmd who slice [a] fun s =>
    let t := ((s.slice slice).word a).taint
    let s1 := s.modSlice slice fun x => { x with macData := if t then 0 else (x.word a).val }
    if t then s1.setBit (.pke (slice / 2)) (10 + slice % 2) else s1)

/-- WRITEW. -/
def execWritew (who : Requester) (slice : Nat) (a _b : BitVec 13) (s : State) : Out :=
  s.powered fun s =>
  .next (s.macCmd who slice [a] fun s => s.modSlice slice fun x => { x with w := x.w.set {} a.toNat ⟨x.macData, false⟩ })

/-- The words of a key, 32 bytes each. -/
def macWords (key : List Byte) : List (BitVec 256) := (chunks 32 key).map fun c => BitVec.ofNat 256 (ofLe c)

/-- The whole material of a key, run members included. -/
def State.wholeKey (s : State) (i : Nat) : List Byte :=
  if algRsa (s.kslot i).alg.toNat then (s.runOf i).flatMap fun j => (s.kslot j).material else s.keyBytes i

/-- LOADKEY: the Umpire's own slices only, device-internal keys only, never into the key area. -/
def execLoadkey (who : Requester) (slice : Nat) (a _b : BitVec 13) (s : State) : Out :=
  s.powered fun s =>
  .next (s.macCmd who slice [a] fun s =>
    let x := s.slice slice
    let i := hIndex x.macKey
    let ws := macWords (s.wholeKey i)
    if x.macOwnerPf = true ∨ s.keyInvalid .umpire x.macKey = true ∨ 256 ≤ i ∨ macKeyArea < a.toNat + ws.length then
      s.modSlice slice fun x => { x with macError := true, macCause := 1 }
    else s.modSlice slice fun x =>
      { x with w := (List.range ws.length).foldl (fun m k => m.set {} (a.toNat + k) ⟨ws.getD k 0, true⟩) x.w })

/-! ### The direct port (R245 to R247) -/

/-- DIRECT_START: a start while BUSY is ignored with ACCESS_ERR. The job takes a free cell, or waits for one before any domain's
stroke (R142). -/
def execDirectStart (who : Requester) (r : Nat) (s : State) : Out :=
  s.powered fun s =>
  .next (s.gateWrite who (.qad r) true fun s =>
    if (s.quad r).dirBusy then s.accessErr (.qad r)
    else
      (s.modQuad r fun x => { x with dirBusy := true, dirDone := false, dirError := false, dirOut := [] }).giveDirect)

/-- DIRECT_ABORT: the job is abandoned and nothing is extended. -/
def execDirectAbort (who : Requester) (r : Nat) (s : State) : Out :=
  s.powered fun s =>
  .next (s.gateWrite who (.qad r) true fun s =>
    ((s.modQuad r fun x => { x with dirBusy := false, dirDone := false, dirOut := [], direct := 0, dirFault := false }).giveDirect).settle r)

/-- Bytes of the Umpire SRAM from word `w` on. -/
def State.sramBytes (s : State) (w n : Nat) : List Byte :=
  ((List.range ((n + 15) / 16)).flatMap fun k => wordBytes (s.ump.sram.get 0 (w + k))).take n

/-- Density of the part on a flash port of QAD_DIR_SRC.PORT: D0, D1, D2 (R326). -/
def State.density (s : State) (port : Nat) : Nat :=
  match port with
  | 1 => s.fgt.u0.density
  | 2 => s.fgt.u1.density
  | _ => 16777216

/-- The input of a direct job, none where the read fails (R246). -/
def State.dirInput (s : State) (x : Quad) (flash : Option (List Byte)) : Option (List Byte) :=
  let n := x.dirLen.toNat
  let w := x.dirSrc.toNat
  if x.dirPort = 0 then
    if w / 262144 = 0 ∧ 16 * w + n ≤ 4194304 then some (s.sramBytes w n) else none
  else match flash with
    | some d => if d.length = n ∧ x.dirFaddr.toNat + n ≤ s.density x.dirPort.toNat then some d else none
    | none => none

/-- The key of a direct job, or the code it ends with. -/
def State.dirKeyOf (s : State) (x : Quad) : Except Nat (List Byte) :=
  let alg := x.dirAlg.toNat
  if algKeyed alg = false then .ok []
  else if 256 ≤ hIndex x.dirKey then .error 0x30
  else match s.resolve .umpire x.dirKey { algs := [if algKmac alg then 0x11 else 0x10], usage := 0x80 } with
    | .error e => .error e
    | .ok i => if alg = 0x39 ∧ (s.kslot i).keyLen.toNat < 32 then .error 0x32 else .ok (s.keyBytes i)

/-- The digest of a direct job, or its failure code. -/
def State.dirResult (s : State) (x : Quad) (flash : Option (List Byte)) : Except Nat (List Byte) :=
  let alg := x.dirAlg.toNat
  let xof := x.dirXof.toNat
  if digestAlgs.contains alg = false ∨ (x.dirExtend = true ∧ algKeyed alg = true)
      ∨ (algXof alg = true ∧ (xof = 0 ∨ 64 < xof)) then .error 0x10
  else match s.dirKeyOf x, s.dirInput x flash with
    | .error e, _ => .error e
    | .ok _, none => .error 0x71
    | .ok k, some m => .ok (digestOf alg k [] m (if algXof alg then xof else 0))

/-- The end of a direct job that holds a cell (R246): the result, then the extension, then DONE; or the failure code with ERROR and DIR_ERR. -/
def State.directEnd (s : State) (r : Nat) (flash : Option (List Byte)) : State :=
  let x := s.quad r
  if x.dirBusy = false ∨ x.direct = 0 then s
  else
    let cell := (List.range 4).find? fun c => x.direct.getLsbD c
    let s0 := if x.dirFault then (s.recErr (.qad r) 0x82 (cell.getD 0)).setBit (.qad r) 0 else s
    match s0.dirResult x flash with
    | .error e => (s0.directFail r e).settle r
    | .ok d =>
      let s1 := s0.modQuad r fun x =>
        { x with dirOut := padTo 64 d, bytes := x.bytes + x.dirLen, dirBusy := false, direct := 0, dirFault := false }
      let s2 := if x.dirExtend then s1.extendReg x.dirMreg.toNat d else s1
      ((s2.modQuad r fun x => { x with dirDone := true, dirCode := 0 }).giveDirect).settle r

/-- QAD_DIR_OUT_READ (R245, R247): zero to the host; zero with EARLY_READ while DONE reads 0. DESIGN CHOICE (log entry 69): the field is
read as eight aligned 64-bit registers, as R243 says of MEAS_VAL; any other access reads zero and sets ACCESS_ERR (R48). -/
def execQadDirOutRead (who : Requester) (r : Nat) (span : Span) (s : State) : Out :=
  s.powered fun s =>
  match who with
  | .vf _ _ => .next (s.emit (.register 0))
  | _ =>
    if s.chip.accReset ∨ s.present (.qad r) = false then .next (s.emit (.register 0))
    else if span.width ≠ 8 ∨ span.off % 8 ≠ 0 ∨ 64 ≤ span.off then .next ((s.accessErr (.qad r)).emit (.register 0))
    else if (s.quad r).dirDone = false then .next ((s.setBit (.qad r) 8).emit (.register 0))
    else if who = .pf then .next (s.emit (.register 0))
    else .next (s.emit (.register (BitVec.ofNat 64 (leAt (s.quad r).dirOut span.off 8))))

/-! ### Access lists (R241, R244) -/

/-- MEAS_ACL_WRITE: the Umpire's alone; frozen after the first extension of the register or by PG_LOCK[0]. -/
def State.writeAcl (s : State) (n : Nat) (v : W64) : State :=
  if bit (s.hdr (.meas 1)).lock 0 then (s.lockViol (.meas 1)).setBit (.meas 1) 9
  else if (s.mreg n).cnt ≠ 0 then s.setBit (.meas 1) 9
  else s.modMeas n fun m => { m with acl := v &&& 0x8FFF8FFF8FFF8FFF }

/-- MEAS_ACL_WRITE. -/
def execMeasAclWrite (who : Requester) (n : Nat) (v : W64) (s : State) : Out :=
  s.powered fun s =>
  .next (s.gateWrite who (.meas 1) true fun s => if 32 ≤ n ∧ n < 64 then s.writeAcl n v else s)

end Sys2Proof.Machine
end

