-- ==== Sys2Proof/Machine/Operands.lean ====
section
/-!
DEFINITION. The form of Traern instructions (R183, R186 to R191, R211): the operand positions of each opcode, operand
specifiers and their fields, special registers, and how a program's syllables divide into instructions. Traern has no
condition flags, so there is no Flags file.
-/

namespace Sys2Proof.Machine

/-! ### The opcode table (R190, R191, R210) -/

/-- What an opcode does with an operand position; `vec`: the operand is a vector operand. -/
inductive Pos where
  | none
  | dest (vec : Bool)
  | src (vec : Bool)
  | key
  deriving DecidableEq, Repr

/-- A row of the opcode table. -/
structure OpInfo where
  a : Pos := .none
  b : Pos := .none
  c : Pos := .none
  /-- VL may be 1 to 16. -/
  vec : Bool := false
  /-- The instruction has a target field. -/
  target : Bool := false
  cox : Bool := true
  ump : Bool := true
  deriving DecidableEq, Repr

/-- A vector destination with two vector sources. -/
def opVVV : OpInfo := { a := .dest true, b := .src true, c := .src true, vec := true }
/-- A vector destination, a vector source and a scalar. -/
def opVVS : OpInfo := { a := .dest true, b := .src true, c := .src false, vec := true }
/-- A vector destination and a vector source. -/
def opVV : OpInfo := { a := .dest true, b := .src true, vec := true }
/-- Compare and branch. -/
def opBr : OpInfo := { a := .src false, b := .src false, target := true }

/-- The row of an opcode; none: reserved (R214). -/
def opInfo (op : Nat) : Option OpInfo :=
  match op with
  | 0x00 => some {}
  | 0x01 => some { ump := false }
  | 0x02 => some {}
  | 0x03 => some opVV
  | 0x04 => some { a := .dest false, b := .src false, c := .src false }
  | 0x05 => some { a := .src false, b := .src false, c := .src false }
  | 0x06 => some { a := .dest false, b := .src false, c := .src false }
  | 0x07 => some { a := .dest false, c := .src false }
  | 0x08 => some { b := .src false, c := .src false }
  | 0x10 | 0x11 | 0x12 | 0x13 => some opVVV
  | 0x14 => some { a := .dest false, b := .src true, vec := true }
  | 0x20 | 0x21 | 0x22 | 0x24 | 0x25 | 0x26 => some opVVV
  | 0x28 | 0x29 | 0x2A | 0x2C | 0x2D | 0x2E => some opVVS
  | 0x30 | 0x31 | 0x33 => some opVVS
  | 0x32 => some opVV
  | 0x40 | 0x41 => some { opVVS with c := .key, ump := false }
  | 0x42 | 0x43 => some { opVVV with ump := false }
  | 0x44 => some { a := .src false, b := .src false, c := .src false, ump := false }
  | 0x50 | 0x51 | 0x52 | 0x53 | 0x54 | 0x55 | 0x56 | 0x57 => some opBr
  | 0x58 | 0x59 => some { target := true }
  | 0x5A => some {}
  | 0x5B => some { a := .src false, target := true }
  | 0x60 | 0x61 => some { a := .src false, cox := false }
  | 0x62 | 0x63 => some { cox := false }
  | _ => none

/-! ### Operand specifiers (R186 to R189) -/

/-- The mode of an operand specifier, bits [7:5]. -/
def spMode (sp : BitVec 8) : Nat := sp.toNat / 32
/-- The index of an operand specifier, bits [4:0]. -/
def spIdx (sp : BitVec 8) : Nat := sp.toNat % 32
/-- The mode takes an extension field. -/
def spField (sp : BitVec 8) : Bool := spMode sp == 0 || spMode sp == 4 || spMode sp == 5 || spMode sp == 6

/-- The number of fields of an instruction: one per operand whose mode takes one, one for a target (R189). -/
def Enc.fields (x : Enc) (target : Bool) : Nat :=
  b2n (spField x.opa) + b2n (spField x.opb) + b2n (spField x.opc) + b2n target

/-- The length of an instruction in syllables. -/
def Enc.len (x : Enc) (target : Bool) : Nat := 1 + (Enc.fields x target + 1) / 2

/-- Field `i`; a field that is not there reads zero. -/
def Enc.field (x : Enc) (i : Nat) : BitVec 18 := x.f.getD i 0

/-- The fields of operands A, B and C, and the target field. -/
def Enc.fa (x : Enc) : BitVec 18 := Enc.field x 0
@[inherit_doc Enc.fa]
def Enc.fb (x : Enc) : BitVec 18 := Enc.field x (b2n (spField x.opa))
@[inherit_doc Enc.fa]
def Enc.fc (x : Enc) : BitVec 18 := Enc.field x (b2n (spField x.opa) + b2n (spField x.opb))
@[inherit_doc Enc.fa]
def Enc.ft (x : Enc) : BitVec 18 := Enc.field x (b2n (spField x.opa) + b2n (spField x.opb) + b2n (spField x.opc))

/-- The 128-bit value of an immediate: index 0 zero-extends the field, 1 sign-extends it (R187). -/
def immOf (idx : Nat) (f : BitVec 18) : Word := if idx = 1 then f.signExtend 128 else f.setWidth 128

/-- A specifier's mode, index and field are among those R187 and R188 define, 0xFF apart. -/
def spDefined (sp : BitVec 8) (f : BitVec 18) : Bool :=
  match spMode sp with
  | 0 => spIdx sp == 0
  | 5 => decide (spIdx sp ≤ 15) && decide (f.toNat < 64)
  | 6 => decide (spIdx sp ≤ 1)
  | 7 => decide (spIdx sp ≤ 28)
  | _ => decide (spIdx sp ≤ 15)

/-- The specifier names special operand `n` (R188). -/
def spIs (sp : BitVec 8) (n : Nat) : Bool := spMode sp == 7 && spIdx sp == n
/-- A key operand K0 to K7. -/
def spKey (sp : BitVec 8) : Bool := spMode sp == 7 && decide (16 ≤ spIdx sp) && decide (spIdx sp ≤ 23)
/-- A pointer register as operand. -/
def spPtr (sp : BitVec 8) : Bool := spMode sp == 7 && decide (spIdx sp ≤ 15)

/-- An immediate's value. -/
def spImm (sp : BitVec 8) (f : BitVec 18) : Option Nat :=
  if spMode sp = 6 ∧ spIdx sp ≤ 1 then some (immOf (spIdx sp) f).toNat else none

/-! ### Special registers (R183, R211) -/

/-- A special register's width, whether MTSR may write it, and where it exists. -/
structure SrInfo where
  width : Nat
  rw : Bool := true
  cox : Bool := true
  ump : Bool := true
  deriving DecidableEq, Repr

/-- The special register of a number; none: reserved. -/
def srInfo (n : Nat) : Option SrInfo :=
  match n with
  | 0x00 => some { width := 12 }
  | 0x01 => some { width := 12, rw := false }
  | 0x02 => some { width := 18 }
  | 0x03 => some { width := 2 }
  | 0x04 | 0x05 | 0x06 | 0x08 | 0x09 | 0x0A => some { width := 30 }
  | 0x0C | 0x0D | 0x0E => some { width := 32 }
  | 0x10 => some { width := 2, ump := false }
  | 0x20 | 0x21 | 0x22 | 0x27 => some { width := 64, rw := false, ump := false }
  | 0x23 | 0x24 => some { width := 8, rw := false, ump := false }
  | 0x25 => some { width := 32, rw := false, ump := false }
  | 0x26 => some { width := 4, rw := false, ump := false }
  | 0x80 | 0x81 => some { width := 30, cox := false }
  | 0x82 => some { width := 8, rw := false, cox := false }
  | 0x83 => some { width := 30, rw := false, cox := false }
  | 0x84 => some { width := 32, cox := false }
  | 0x85 => some { width := 32, rw := false, cox := false }
  | 0x86 => some { width := 2, cox := false }
  | 0x87 => some { width := 128, cox := false }
  | _ => none

/-! ### Syllables (R184, R186) -/

/-- The three syllables of a program word. -/
def syllables (w : Word) : List (BitVec 36) :=
  [w.setWidth 36, (w >>> 36).setWidth 36, (w >>> 72).setWidth 36]

/-- The opcode of a head syllable. -/
def headOp (h : BitVec 36) : Nat := h.toNat / 268435456

/-- The VL and operand specifiers of a head syllable, and the fields of the extension syllables that follow. -/
def headEnc (h : BitVec 36) (ext : List (BitVec 36)) : Enc :=
  { vlm1 := (h >>> 24).setWidth 4, opa := (h >>> 16).setWidth 8, opb := (h >>> 8).setWidth 8, opc := h.setWidth 8
    f := ext.flatMap fun (e : BitVec 36) => [(e >>> 18).setWidth 18, e.setWidth 18] }

/-- An instruction of a program: its syllable address, opcode, operands, and length. -/
structure Ins where
  pc : Nat
  op : Nat
  x : Enc
  len : Nat
  deriving DecidableEq, Repr

/-- The instruction whose head syllable stands at an address. -/
def insAt (code : List (BitVec 36)) (pc : Nat) : Option Ins :=
  match code.drop pc with
  | [] => none
  | h :: r =>
    let target := match opInfo (headOp h) with
      | some i => i.target
      | none => false
    let n := Enc.len (headEnc h []) target
    some ⟨pc, headOp h, headEnc h (r.take (n - 1)), n⟩

/-- The instructions of a program in order of address; `fuel` bounds their number. -/
def insFrom (code : List (BitVec 36)) : Nat → Nat → List Ins
  | 0, _ => []
  | fuel + 1, pc => match insAt code pc with
    | none => []
    | some i => i :: insFrom code fuel (pc + i.len)

/-- The instructions of a program. -/
def insOf (code : List (BitVec 36)) : List Ins := insFrom code code.length 0

/-- The address of the next instruction in sequence. -/
def Ins.next (i : Ins) : Nat := i.pc + i.len

/-- The address a target field names: a signed offset from the next instruction (R197). -/
def targetOf (next : Nat) (f : BitVec 18) : Nat := (BitVec.ofNat 18 next + f).toNat

/-- The target of an instruction. -/
def Ins.target (i : Ins) : Nat := targetOf i.next (Enc.ft i.x)

end Sys2Proof.Machine
end

