-- ==== Sys2Proof/Machine/Programs.lean ====
section
/-!
DEFINITION. Mode programs (R215, R217 to R222): the image, the checks before loading, the program store, PROGRAM_LOAD.
Signed images in general (R305, R311, R333) and the current hash of a trust anchor (R391).
-/

namespace Sys2Proof.Machine

/-! ### Signatures and trust anchors -/

/-- Length of an ML-DSA-87 public key and of a signature (R218). -/
def pkLen : Nat := 2592
@[inherit_doc pkLen]
def sigLen : Nat := 4627

/-- The public key that stands at an offset. -/
def pkAt (img : List Byte) (off : Nat) : List Byte := cut img off pkLen

/-- The signature at the end of an image whose body, public key included, is `n` bytes, over the SHA3-512 digest of that
body. -/
def sigOk (img : List Byte) (n : Nat) : Bool :=
  mldsaVerify (pkAt img (n - pkLen)) (cut img n sigLen) (sha3_512 (img.take n)) []

/-- The current hash of a kind: the last valid slot (R391). -/
def currentHash (l : List HashSlot) : Option (List Byte) := ((l.filter (·.valid)).getLast?).map (·.hash)

/-- An anti-rollback counter (R308). -/
def State.counter (s : State) (n : Nat) : Nat := s.otp.counters.get 0 n

/-- Bytes `off` to `off + n - 1` are zero. -/
def zeroAt (img : List Byte) (off n : Nat) : Bool := leAt img off n == 0

/-! ### Checks of one instruction (R215) -/

/-- A position is used exactly when its specifier is not 0xFF. -/
def presenceOk (p : Pos) (sp : BitVec 8) : Bool := (p == .none) == (sp == 0xFF)

/-- The destination class of a position. -/
def classOk (p : Pos) (sp : BitVec 8) (vl : BitVec 4) : Bool :=
  let vec := vl != 0
  let tag := vec && spIs sp 27
  match p with
  | .dest _ => !(spMode sp == 6 || spKey sp || spIs sp 24 || spIs sp 26 || tag || (vec && spPtr sp))
  | .src _ => !(spIs sp 25 || tag)
  | _ => true

/-- A key operand stands in a key position and nowhere else. -/
def keyOk (p : Pos) (sp : BitVec 8) : Bool := p == .none || ((p == .key) == spKey sp)

/-- The special register an MFSR or MTSR names may be used by a mode program. -/
def srOk (op : Nat) (v : Option Nat) : Bool :=
  if op = 7 ∨ op = 8 then
    match v.bind srInfo with
    | some r => r.cox && (op == 7 || r.rw)
    | none => false
  else true

/-- FLD names bank 0x000 or 0x001, FST bank 0x000, as immediates. -/
def farOk (op : Nat) (v : Option Nat) : Bool :=
  if op = 4 then v == some 0 || v == some 1
  else if op = 5 then v == some 0
  else true

/-- An immediate TCMP count is 1 to 16, an immediate STM mask is not zero. -/
def scalarOk (op : Nat) (v : Option Nat) : Bool :=
  match v with
  | none => true
  | some n =>
    if op = 0x44 then decide (1 ≤ n % 32) && decide (n % 32 ≤ 16)
    else if op = 6 then n % 16 != 0
    else true

/-- The first row of R215 that an instruction breaks, rows 1 to 11 in table order; `heads`: where instructions begin. -/
def insRow (heads : List Nat) (size : Nat) (i : Ins) : Option Nat :=
  match opInfo i.op with
  | none => some 1
  | some r =>
    let x := i.x
    let n := Enc.fields x r.target
    let v := spImm x.opc (Enc.fc x)
    let spec := fun (sp : BitVec 8) (f : BitVec 18) => sp == 0xFF || spDefined sp f
    let tests : List (Nat × Bool) :=
      [(1, r.cox),
       (2, presenceOk r.a x.opa && presenceOk r.b x.opb && presenceOk r.c x.opc),
       (3, spec x.opa (Enc.fa x) && spec x.opb (Enc.fb x) && spec x.opc (Enc.fc x)),
       (4, classOk r.a x.opa x.vlm1 && classOk r.b x.opb x.vlm1 && classOk r.c x.opc x.vlm1),
       (5, keyOk r.a x.opa && keyOk r.b x.opb && keyOk r.c x.opc),
       (6, r.vec || x.vlm1 == 0),
       (7, decide (i.next ≤ size) && (n % 2 == 0 || Enc.field x n == 0)),
       (8, srOk i.op v),
       (9, farOk i.op v),
       (10, scalarOk i.op v),
       (11, !r.target || (heads.contains i.target && (i.op != 0x5B || decide (i.next ≤ i.target))))]
    (tests.find? fun t => !t.2).map (·.1)

/-! ### Checks of the structure (R215) -/

/-- The loop bodies of a program: the LOOP's address, first and last address of the body. -/
def loopsOf (ins : List Ins) : List (Nat × Nat × Nat) :=
  ins.filterMap fun i => if i.op = 0x5B then some (i.pc, i.next, i.target) else none

/-- The number of loop bodies an address lies in. -/
def depthAt (loops : List (Nat × Nat × Nat)) (pc : Nat) : Nat :=
  (loops.filter fun l => decide (l.2.1 ≤ pc) && decide (pc ≤ l.2.2)).length

/-- A LOOP whose body overlaps an earlier body without nesting in it. -/
def badOverlap (loops : List (Nat × Nat × Nat)) : Option Nat :=
  (loops.find? fun l => loops.any fun k =>
    decide (k.2.1 < l.2.1) && decide (l.2.1 ≤ k.2.2) && decide (k.2.2 < l.2.2)).map (·.1)

/-- The addresses execution may go on at after an instruction, within its procedure. -/
def succs (ins : List Ins) (i : Ins) : List Nat :=
  if i.op = 0x01 ∨ i.op = 0x5A then []
  else if i.op = 0x58 then [i.target]
  else if 0x50 ≤ i.op ∧ i.op ≤ 0x57 then [i.next, i.target]
  else if i.op = 0x5B then
    i.next :: (match ins.find? (·.pc == i.target) with
      | some e => [e.next]
      | none => [])
  else [i.next]

/-- The instructions reached from the addresses `todo`, those of `seen` included. -/
def reachF (ins : List Ins) : Nat → List Nat → List Nat → List Nat
  | 0, _, seen => seen
  | _, [], seen => seen
  | n + 1, a :: todo, seen =>
    if seen.contains a then reachF ins n todo seen
    else match ins.find? (·.pc == a) with
      | none => reachF ins n todo seen
      | some i => reachF ins n (succs ins i ++ todo) (a :: seen)

/-- The instructions of the procedure entered at an address. -/
def procOf (ins : List Ins) (entry : Nat) : List Ins :=
  let l := reachF ins (3 * ins.length + 3) [entry] []
  ins.filter fun i => l.contains i.pc

/-- Entries of the program and of every procedure called. -/
def entriesOf (ins : List Ins) : List Nat :=
  ins.foldl (fun l i => if i.op = 0x59 then addNew l i.target else l) [0]

/-- A call: the procedure it stands in, its address, its target. -/
structure CallEdge where
  src : Nat
  site : Nat
  dst : Nat

/-- The calls of a program. -/
def callsOf (ins : List Ins) : List CallEdge :=
  (entriesOf ins).flatMap fun e => (procOf ins e).filterMap fun i => if i.op = 0x59 then some ⟨e, i.pc, i.target⟩ else none

/-- The longest weighted call path to each procedure, after `n` rounds over the calls. -/
def relax (w : CallEdge → Nat) (calls : List CallEdge) : Nat → SMap Nat → SMap Nat
  | 0, m => m
  | n + 1, m => relax w calls n (calls.foldl (fun m c =>
      let v := m.get 0 c.src + w c
      if m.get 0 c.dst < v then m.set 0 c.dst v else m) m)

/-- The first instruction that breaks the Structure row: overlapping bodies, recursion or a call depth above 64, a loop
depth above 3 along a call path. -/
def badStructure (ins : List Ins) : Option Nat :=
  let loops := loopsOf ins
  let calls := callsOf ins
  let deep := relax (fun _ => 1) calls 65 []
  let nest := relax (fun c => depthAt loops c.site) calls 65 []
  match badOverlap loops with
  | some a => some a
  | none =>
    match calls.find? fun c => decide (64 < deep.get 0 c.src + 1) with
    | some c => some c.site
    | none => (entriesOf ins).findSome? fun e =>
        ((procOf ins e).find? fun i => decide (3 < nest.get 0 e + depthAt loops i.pc)).map (·.pc)

/-- The instruction that comes first by address, with the lowest row it breaks (R215, R220). -/
def staticFinding (code : List (BitVec 36)) (consts : Nat) : Option (Nat × Nat) :=
  let ins := insOf code
  let heads := ins.map (·.pc)
  let per := ins.filterMap fun i => (insRow heads code.length i).map fun r => (i.pc, r)
  let whole : List (Nat × Nat) :=
    (match badStructure ins with
      | some a => [(a, 12)]
      | none => [])
    ++ (if 2048 < code.length then [((2048 : Nat), (13 : Nat))] else [])
    ++ (if 256 < consts then [((0 : Nat), (13 : Nat))] else [])
    ++ (match ins.getLast? with
      | some i => if i.op = 0x01 ∨ i.op = 0x58 ∨ i.op = 0x5A then [] else [(i.pc, 14)]
      | none => [])
  (per ++ whole).foldl (fun b f => match b with
    | none => some f
    | some g => if f.1 < g.1 ∨ (f.1 = g.1 ∧ f.2 < g.2) then some f else some g) none

/-! ### The image (R218) -/

/-- SYLLABLES. -/
def imgSyl (i : List Byte) : Nat := leAt i 0x20 2
/-- CONSTANTS. -/
def imgConsts (i : List Byte) : Nat := leAt i 0x22 2
/-- PROGRAM_ID. -/
def imgId (i : List Byte) : Nat := leAt i 0x06 2
/-- Bytes of CODE. -/
def imgCodeLen (i : List Byte) : Nat := 16 * ((imgSyl i + 2) / 3)
/-- Bytes before SIG. -/
def imgBody (i : List Byte) : Nat := 0x40 + imgCodeLen i + 16 * imgConsts i + pkLen
/-- The words of CODE. -/
def imgWords (i : List Byte) : List Word := wordsOf (cut i 0x40 (imgCodeLen i))
/-- The syllables of the program. -/
def imgCode (i : List Byte) : List (BitVec 36) := ((imgWords i).flatMap syllables).take (imgSyl i)

/-- The program that an image carries. -/
def imgProg (i : List Byte) : Prog :=
  { id := BitVec.ofNat 16 (imgId i), version := BitVec.ofNat 32 (leAt i 8 4), svn := byteOf (leAt i 0xC 1)
    flags := byteOf (leAt i 0xD 1), keys := byteOf (leAt i 0xE 1), usage := byteOf (leAt i 0xF 1)
    ivMin := leAt i 0x10 1, ivMax := leAt i 0x11 1, tagMin := leAt i 0x12 1, tagMax := leAt i 0x13 1
    outRule := leAt i 0x14 1, inAlign := leAt i 0x15 1, inMin := leAt i 0x18 4, inMax := leAt i 0x1C 4
    tagSet := BitVec.ofNat 16 (leAt i 0x24 2), lenRule := leAt i 0x26 1, code := imgCode i
    consts := wordsOf (cut i (0x40 + imgCodeLen i) (16 * imgConsts i)), digest := sha3_512 i }

/-- Check 0x01. -/
def imgFormatOk (i : List Byte) : Bool :=
  leAt i 0 4 == 0x47504D5A && leAt i 4 2 == 1 && zeroAt i 0x16 2 && zeroAt i 0x27 25 && decide (leAt i 0xD 1 < 64)
    && i.length == imgBody i + sigLen && (imgWords i).all fun w => decide (w.toNat < 2 ^ 108)

/-- The signer is accepted for the ID's range (R219). -/
def State.signerOk (s : State) (i : List Byte) : Bool :=
  let pk := pkAt i (imgBody i - pkLen)
  if imgId i < 0x100 then pk == Config.programKey else currentHash s.otp.program == some (sha3_512 pk)

/-- A tag length outside TAG_MIN to TAG_MAX has a bit in TAG_SET. -/
def tagSetBad (p : Prog) : Bool :=
  (List.range 16).any fun k => p.tagSet.getLsbD k && !(decide (p.tagMin ≤ k + 1) && decide (k + 1 ≤ p.tagMax))

/-- Check 0x06. -/
def headerOk (p : Prog) : Bool :=
  !(p.hold && !p.verify) && !(p.hold && p.flags.getLsbD 3) && (p.keys == 1 || p.keys == 2)
    && decide (p.ivMin ≤ p.ivMax) && decide (p.tagMin ≤ p.tagMax) && (p.inMax == 0 || decide (p.inMin ≤ p.inMax))
    && decide (p.ivMax ≤ 64) && decide (p.tagMax ≤ 16) && decide (p.outRule ≤ 4) && decide (p.inAlign ≤ 4)
    && decide (popBelow (p.usage.setWidth 32) 8 ≤ 1) && !tagSetBad p && decide (p.lenRule ≤ 1)

/-- The first instruction with a K operand above K(KEYS − 1) (check 0x08). -/
def badKey (p : Prog) : Option Nat :=
  ((insOf p.code).find? fun i => spKey i.x.opc && decide (p.keys.toNat ≤ spIdx i.x.opc - 16)).map (·.pc)

/-- The program contains a TCMP. -/
def hasTcmp (p : Prog) : Bool := (insOf p.code).any (·.op == 0x44)

/-- The store slot that an ID selects. -/
def State.selectedSlot (s : State) (id : BitVec 16) : Option Nat := (s.progOf id).map (·.1)

/-- The lowest free store slot. -/
def State.freeProg (s : State) : Option Nat := findFrom (fun n => (s.progs.get none n).isNone) 32 0

/-- The checks of R220 in order: result code, R215 row, syllable address. -/
def State.checkProgram (s : State) (i : List Byte) : Nat × Nat × Nat :=
  let p := imgProg i
  if imgFormatOk i = false then (1, 0, 0)
  else if imgId i = 0 ∨ 0x8000 ≤ imgId i then (2, 0, 0)
  else if s.signerOk i = false then (3, 0, 0)
  else if sigOk i (imgBody i) = false then (4, 0, 0)
  else if p.svn.toNat < s.counter (if imgId i < 0x100 then 30 else 31) then (5, 0, 0)
  else if headerOk p = false then (6, 0, 0)
  else if imgSyl i = 0 then (0, 0, 0)
  else match staticFinding p.code (imgConsts i) with
    | some f => (7, f.2, f.1)
    | none =>
      match badKey p with
      | some a => (8, 0, a)
      | none =>
        if p.verify ≠ hasTcmp p then (9, 0, 0)
        else if s.freeProg.isNone then (10, 0, 0)
        else (0, 0, 0)

/-- The ID selects no slot any longer; the slot is freed with its last message (R222). -/
def State.deselect (s : State) (id : BitVec 16) : State :=
  match s.selectedSlot id with
  | none => s
  | some n => (s.onProgs fun m => m.set none n ((m.get none n).map fun p => { p with selected := false })).reapProg n

/-- An accepted image takes effect: the ID selects the new version, or none after a removal image. -/
def State.installProgram (s : State) (i : List Byte) : State :=
  let id := BitVec.ofNat 16 (imgId i)
  if imgSyl i = 0 then s.deselect id
  else match s.freeProg with
    | none => s
    | some n => (s.deselect id).onProgs (·.set none n (some (imgProg i)))

/-- The program directory follows an accepted integrator image (R221). -/
def State.keepProgram (s : State) (i : List Byte) : State :=
  if imgId i < 0x100 then s
  else s.onStore fun x =>
    let rest := x.programs.filter fun y => imgId y != imgId i
    { x with programs := if imgSyl i = 0 then rest else rest ++ [i] }

/-- MEAS_EXTEND of register 4 and the load report (R220, R221). -/
def State.reportLoad (s : State) (i : List Byte) (r : Nat × Nat × Nat) : State :=
  s.logEvent 0x0F r.1 r.2.1 (r.1 + 256 * r.2.1 + 65536 * (r.2.2 % 65536) + 4294967296 * (imgId i % 65536))

/-- An image is checked and loaded, or rejected: the state after it and the result code (R220). -/
def State.loadProgram (s : State) (i : List Byte) : State × Nat :=
  let r := s.checkProgram i
  if r.1 = 0 then ((((s.installProgram i).keepProgram i).extendReg 4 (sha3_512 i)).reportLoad i r, 0)
  else (s.reportLoad i r, r.1)

/-- PROGRAM_LOAD (R220). -/
def execProgramLoad (image : List Byte) (s : State) : Out :=
  s.powered fun s => .next (s.loadProgram image).1

end Sys2Proof.Machine
end

