-- ==== Sys2Proof/Machine/StdLib.lean ====
section
/-!
DEFINITION. The standard library (R221, R227, R228): the headers of its 21 programs, the assembler syntax of the spec's listings as
data, and GCM-ENC, the one program whose code the spec lists. The code of the others is not given (log entry 35).
-/

namespace Sys2Proof.Machine

/-! ### The assembler syntax (R186, R187, R189, R197) -/

/-- An operand as the listings write it: wNNN, #n, (Pn)+, and the special operands by index (R188). -/
inductive Opd where
  | w (n : Nat)
  | imm (n : Nat)
  | inc (p : Nat)
  | sp (n : Nat)
  | unused
  deriving DecidableEq, Repr

/-- The specifier of an operand. -/
def Opd.spec : Opd → BitVec 8
  | .w _ => 0x00
  | .imm _ => 0xC0
  | .inc p => BitVec.ofNat 8 (0x40 + p)
  | .sp n => BitVec.ofNat 8 (0xE0 + n)
  | .unused => 0xFF

/-- The extension field of an operand. -/
def Opd.field : Opd → List (BitVec 18)
  | .w n => [BitVec.ofNat 18 n]
  | .imm n => [BitVec.ofNat 18 n]
  | _ => []

/-- The special operands that the listings name. -/
def opK0 : Opd := .sp 16
@[inherit_doc opK0]
def opIN : Opd := .sp 24
@[inherit_doc opK0]
def opOUT : Opd := .sp 25
@[inherit_doc opK0]
def opAAD : Opd := .sp 26
@[inherit_doc opK0]
def opTAG : Opd := .sp 27
@[inherit_doc opK0]
def opCBG : Opd := .sp 28

/-- One line of a listing: its label, opcode, vector length, operands, and the label of its target. Labels are numbers. -/
structure Line where
  op : Nat
  a : Opd := .unused
  b : Opd := .unused
  c : Opd := .unused
  vl : Nat := 1
  label : Option Nat := none
  target : Option Nat := none
  deriving DecidableEq, Repr

/-- The number of fields of a line. -/
def Line.fields (l : Line) : Nat := (l.a.field ++ l.b.field ++ l.c.field).length + (if l.target.isSome then 1 else 0)

/-- The syllables of a line. -/
def Line.len (l : Line) : Nat := 1 + (l.fields + 1) / 2

/-- The address of a label in the lines from address `pc` on. -/
def labelAt (n : Nat) : Nat → List Line → Nat
  | _, [] => 0
  | pc, l :: r => if l.label = some n then pc else labelAt n (pc + l.len) r

/-- Fields in pairs, two to a syllable, a field left over zero (R189). -/
def fieldPairs : List (BitVec 18) → List (BitVec 36)
  | [] => []
  | [x] => [x ++ (0 : BitVec 18)]
  | x :: y :: r => (x ++ y) :: fieldPairs r

/-- The syllables of a line at address `pc`, of a program `all`; a target is the offset from the next instruction (R197). -/
def Line.code (all : List Line) (pc : Nat) (l : Line) : List (BitVec 36) :=
  let head : BitVec 36 := (BitVec.ofNat 8 l.op) ++ (BitVec.ofNat 4 (l.vl - 1)) ++ l.a.spec ++ l.b.spec ++ l.c.spec
  let tgt := match l.target with
    | some n => [BitVec.ofNat 18 (labelAt n 0 all) - BitVec.ofNat 18 (pc + l.len)]
    | none => []
  head :: fieldPairs (l.a.field ++ l.b.field ++ l.c.field ++ tgt)

/-- The syllables of the lines `rest` of a program, the first of which stands at `pc`. -/
def assembleFrom (all : List Line) : Nat → List Line → List (BitVec 36)
  | _, [] => []
  | pc, l :: r => l.code all pc ++ assembleFrom all (pc + l.len) r

/-- The syllables of a listing. -/
def assemble (all : List Line) : List (BitVec 36) := assembleFrom all 0 all

/-! ### GCM-ENC (R227, the listing of chapter 9) -/

/-- The lines up to the message body: H, J0, E(K, J0). Labels: 1 longiv, 2 setctr, 3 later, 4 body, 11 hpow, 12 aad, 13 ivhash. -/
def gcmHead : List Line :=
  [{ op := 0x04, a := .w 0x028, b := .imm 0, c := .imm 1 },
   { op := 0x07, a := .w 0x023, c := .imm 0x26 },
   { op := 0x57, a := .w 0x023, b := .imm 0, target := some 3 },
   { op := 0x40, a := .w 0x004, b := .w 0x02F, c := opK0 },
   { op := 0x02 },
   { op := 0x07, a := .w 0x007, c := .imm 0x22 },
   { op := 0x07, a := .w 0x024, c := .imm 0x23 },
   { op := 0x51, a := .w 0x024, b := .imm 12, target := some 1 },
   { op := 0x30, a := .w 0x000, b := .imm 1, c := .imm 0x3F8 },
   { op := 0x58, target := some 2 },
   { op := 0x59, target := some 13, label := some 1 },
   { op := 0x03, a := opCBG, b := .w 0x000, label := some 2 },
   { op := 0x40, a := .w 0x005, b := opCBG, c := opK0 },
   { op := 0x02 },
   { op := 0x59, target := some 11 },
   { op := 0x59, target := some 12 },
   { op := 0x58, target := some 4 },
   { op := 0x59, target := some 11, label := some 3 }]

/-- The groups of 16 blocks and the whole blocks left. Labels: 5 g_end, 6 t_end. -/
def gcmBody : List Line :=
  [{ op := 0x07, a := .w 0x020, c := .imm 0x20, label := some 4 },
   { op := 0x2E, a := .w 0x021, b := .w 0x020, c := .imm 8 },
   { op := 0x5B, a := .w 0x021, target := some 5 },
   { op := 0x40, a := .w 0x040, b := opCBG, c := opK0, vl := 16 },
   { op := 0x02 },
   { op := 0x10, a := .w 0x040, b := .w 0x040, c := opIN, vl := 16 },
   { op := 0x03, a := opOUT, b := .w 0x040, vl := 16 },
   { op := 0x10, a := .w 0x040, b := .w 0x040, c := .w 0x006 },
   { op := 0x42, a := .w 0x050, b := .w 0x040, c := .w 0x080, vl := 16 },
   { op := 0x02 },
   { op := 0x14, a := .w 0x006, b := .w 0x050, vl := 16, label := some 5 },
   { op := 0x11, a := .w 0x022, b := .w 0x020, c := .imm 0xFF },
   { op := 0x2E, a := .w 0x022, b := .w 0x022, c := .imm 4 },
   { op := 0x5B, a := .w 0x022, target := some 6 },
   { op := 0x40, a := .w 0x040, b := opCBG, c := opK0 },
   { op := 0x02 },
   { op := 0x10, a := .w 0x040, b := .w 0x040, c := opIN },
   { op := 0x03, a := opOUT, b := .w 0x040 },
   { op := 0x10, a := .w 0x006, b := .w 0x006, c := .w 0x040 },
   { op := 0x42, a := .w 0x006, b := .w 0x006, c := .w 0x004 },
   { op := 0x02, label := some 6 }]

/-- The partial block, the length block and the tag. Labels: 7 fin, 8 done. -/
def gcmTail : List Line :=
  [{ op := 0x11, a := .w 0x025, b := .w 0x020, c := .imm 15 },
   { op := 0x50, a := .w 0x025, b := .imm 0, target := some 7 },
   { op := 0x40, a := .w 0x040, b := opCBG, c := opK0 },
   { op := 0x02 },
   { op := 0x10, a := .w 0x040, b := .w 0x040, c := opIN },
   { op := 0x03, a := opOUT, b := .w 0x040 },
   { op := 0x2A, a := .w 0x026, b := .w 0x025, c := .imm 10 },
   { op := 0x26, a := .w 0x026, b := .w 0x026, c := .imm 0x80 },
   { op := 0x31, a := .w 0x040, b := .w 0x040, c := .w 0x026 },
   { op := 0x10, a := .w 0x006, b := .w 0x006, c := .w 0x040 },
   { op := 0x42, a := .w 0x006, b := .w 0x006, c := .w 0x004 },
   { op := 0x02 },
   { op := 0x57, a := .w 0x023, b := .imm 1, target := some 8, label := some 7 },
   { op := 0x07, a := .w 0x024, c := .imm 0x27 },
   { op := 0x22, a := .w 0x024, b := .w 0x024, c := .w 0x020 },
   { op := 0x2A, a := .w 0x024, b := .w 0x024, c := .imm 64 },
   { op := 0x12, a := .w 0x024, b := .w 0x024, c := .w 0x007 },
   { op := 0x29, a := .w 0x024, b := .w 0x024, c := .imm 3 },
   { op := 0x33, a := .w 0x024, b := .w 0x024, c := .w 0x028 },
   { op := 0x10, a := .w 0x006, b := .w 0x006, c := .w 0x024 },
   { op := 0x42, a := .w 0x006, b := .w 0x006, c := .w 0x004 },
   { op := 0x02 },
   { op := 0x10, a := opTAG, b := .w 0x006, c := .w 0x005 },
   { op := 0x01, label := some 8 }]

/-- Powers of H. -/
def gcmHpow : List Line :=
  [{ op := 0x03, a := .w 0x08F, b := .w 0x004, label := some 11 },
   { op := 0x42, a := .w 0x08E, b := .w 0x004, c := .w 0x004 },
   { op := 0x02 },
   { op := 0x03, a := .w 0x090, b := .w 0x08E },
   { op := 0x03, a := .w 0x091, b := .w 0x090 },
   { op := 0x42, a := .w 0x08C, b := .w 0x08E, c := .w 0x090, vl := 2 },
   { op := 0x02 },
   { op := 0x03, a := .w 0x090, b := .w 0x08C },
   { op := 0x03, a := .w 0x091, b := .w 0x090, vl := 3 },
   { op := 0x42, a := .w 0x088, b := .w 0x08C, c := .w 0x090, vl := 4 },
   { op := 0x02 },
   { op := 0x03, a := .w 0x090, b := .w 0x088 },
   { op := 0x03, a := .w 0x091, b := .w 0x090, vl := 7 },
   { op := 0x42, a := .w 0x080, b := .w 0x088, c := .w 0x090, vl := 8 },
   { op := 0x02 },
   { op := 0x5A }]

/-- The additional data and a long IV. Labels: 14 a_end, 15 b_end, 16 i_end. -/
def gcmAad : List Line :=
  [{ op := 0x07, a := .w 0x030, c := .imm 0x22, label := some 12 },
   { op := 0x2E, a := .w 0x031, b := .w 0x030, c := .imm 8 },
   { op := 0x5B, a := .w 0x031, target := some 14 },
   { op := 0x03, a := .w 0x040, b := opAAD, vl := 16 },
   { op := 0x10, a := .w 0x040, b := .w 0x040, c := .w 0x006 },
   { op := 0x42, a := .w 0x050, b := .w 0x040, c := .w 0x080, vl := 16 },
   { op := 0x02 },
   { op := 0x14, a := .w 0x006, b := .w 0x050, vl := 16, label := some 14 },
   { op := 0x11, a := .w 0x032, b := .w 0x030, c := .imm 0xFF },
   { op := 0x22, a := .w 0x032, b := .w 0x032, c := .imm 15 },
   { op := 0x2E, a := .w 0x032, b := .w 0x032, c := .imm 4 },
   { op := 0x5B, a := .w 0x032, target := some 15 },
   { op := 0x10, a := .w 0x006, b := .w 0x006, c := opAAD },
   { op := 0x42, a := .w 0x006, b := .w 0x006, c := .w 0x004 },
   { op := 0x02, label := some 15 },
   { op := 0x5A },
   { op := 0x07, a := .w 0x033, c := .imm 0x23, label := some 13 },
   { op := 0x22, a := .w 0x034, b := .w 0x033, c := .imm 15 },
   { op := 0x2E, a := .w 0x034, b := .w 0x034, c := .imm 4 },
   { op := 0x5B, a := .w 0x034, target := some 16 },
   { op := 0x10, a := .w 0x035, b := .w 0x035, c := .inc 0 },
   { op := 0x42, a := .w 0x035, b := .w 0x035, c := .w 0x004 },
   { op := 0x02, label := some 16 },
   { op := 0x29, a := .w 0x036, b := .w 0x033, c := .imm 3 },
   { op := 0x2A, a := .w 0x036, b := .w 0x036, c := .imm 64 },
   { op := 0x33, a := .w 0x036, b := .w 0x036, c := .w 0x028 },
   { op := 0x10, a := .w 0x035, b := .w 0x035, c := .w 0x036 },
   { op := 0x42, a := .w 0x035, b := .w 0x035, c := .w 0x004 },
   { op := 0x02 },
   { op := 0x03, a := .w 0x000, b := .w 0x035 },
   { op := 0x5A }]

/-- GCM-ENC in full. -/
def gcmEnc : List Line := gcmHead ++ gcmBody ++ gcmTail ++ gcmHpow ++ gcmAad

/-- Its constant table: the byte-order control. -/
def gcmConsts : List Word := [0x08090A0B0C0D0E0F0001020304050607]

/-! ### The headers (R227, R228) -/

/-- A row of the table of R227. -/
structure LibRow where
  id : Nat
  flags : BitVec 8
  usage : BitVec 8
  keys : BitVec 8 := 1
  iv : Nat × Nat := (0, 0)
  tag : Nat × Nat := (0, 0)
  outRule : Nat := 0
  align : Nat := 0
  inMin : Nat := 0
  inMax : Nat := 0
  tagSet : BitVec 16 := 0
  lenRule : Nat := 0
  deriving DecidableEq, Repr

/-- The header flags VERIFY, HOLD, UNIT, MULTIPART, PRODUCES_TAG and AAD (R218). -/
def libVerify : BitVec 8 := 0x01
@[inherit_doc libVerify]
def libHold : BitVec 8 := 0x02
@[inherit_doc libVerify]
def libUnit : BitVec 8 := 0x04
@[inherit_doc libVerify]
def libMulti : BitVec 8 := 0x08
@[inherit_doc libVerify]
def libTag : BitVec 8 := 0x10
@[inherit_doc libVerify]
def libAad : BitVec 8 := 0x20

/-- The 21 programs: usage bits 0x01 encrypt, 0x02 decrypt, 0x04 wrap, 0x08 unwrap, 0x80 MAC. -/
def libRows : List LibRow :=
  [{ id := 0x01, flags := libMulti, usage := 0x01, align := 4 },
   { id := 0x02, flags := libMulti, usage := 0x02, align := 4 },
   { id := 0x03, flags := libMulti, usage := 0x01, iv := (16, 16), align := 4 },
   { id := 0x04, flags := libMulti, usage := 0x02, iv := (16, 16), align := 4 },
   { id := 0x05, flags := libMulti, usage := 0x01, iv := (16, 16) },
   { id := 0x06, flags := libMulti ||| libTag ||| libAad, usage := 0x01, iv := (1, 64), tag := (4, 16), tagSet := 0xF888 },
   { id := 0x07, flags := libVerify ||| libHold ||| libAad, usage := 0x02, iv := (1, 64), tag := (4, 16), tagSet := 0xF888 },
   { id := 0x08, flags := libMulti ||| libTag, usage := 0x80, iv := (1, 64), tag := (4, 16), outRule := 1, tagSet := 0xF888 },
   { id := 0x09, flags := libVerify ||| libHold, usage := 0x80, iv := (1, 64), tag := (4, 16), outRule := 1, tagSet := 0xF888 },
   { id := 0x0A, flags := libTag ||| libAad, usage := 0x01, iv := (7, 13), tag := (4, 16), tagSet := 0xAAA8, lenRule := 1 },
   { id := 0x0B, flags := libVerify ||| libHold ||| libAad, usage := 0x02, iv := (7, 13), tag := (4, 16), tagSet := 0xAAA8
     lenRule := 1 },
   { id := 0x0C, flags := libMulti ||| libUnit, usage := 0x01, keys := 2, iv := (16, 16) },
   { id := 0x0D, flags := libMulti ||| libUnit, usage := 0x02, keys := 2, iv := (16, 16) },
   { id := 0x0E, flags := libMulti ||| libTag, usage := 0x80, tag := (1, 16), outRule := 1 },
   { id := 0x0F, flags := libMulti ||| libVerify, usage := 0x80, tag := (1, 16), outRule := 1 },
   { id := 0x10, flags := 0, usage := 0x04, outRule := 2, align := 3, inMin := 16, inMax := 4096 },
   { id := 0x11, flags := libVerify ||| libHold, usage := 0x08, outRule := 3, align := 3, inMin := 24, inMax := 4104 },
   { id := 0x12, flags := 0, usage := 0x04, outRule := 4, inMin := 1, inMax := 4096 },
   { id := 0x13, flags := libVerify ||| libHold ||| libTag, usage := 0x08, tag := (8, 8), outRule := 3, align := 3, inMin := 16
     inMax := 4104 },
   { id := 0x14, flags := 0, usage := 0x01, iv := (16, 16), inMin := 16 },
   { id := 0x15, flags := 0, usage := 0x02, iv := (16, 16), inMin := 16 }]

/-- The program of a row: the header of the table; GCM-ENC's code as listed, else code that the spec does not give. -/
def LibRow.prog (r : LibRow) : Prog :=
  { id := BitVec.ofNat 16 r.id, version := Config.libVersion r.id, svn := Config.libSvn r.id, flags := r.flags, keys := r.keys
    usage := r.usage, ivMin := r.iv.1, ivMax := r.iv.2, tagMin := r.tag.1, tagMax := r.tag.2, outRule := r.outRule
    inAlign := r.align, inMin := r.inMin, inMax := r.inMax, tagSet := r.tagSet, lenRule := r.lenRule
    code := if r.id = 0x06 then assemble gcmEnc else Config.libCode r.id
    consts := if r.id = 0x06 then gcmConsts else Config.libConsts r.id, digest := Config.libDigest r.id }

/-! ### Loading at a start and again after a reset (R221) -/

/-- A program of the library carried in the firmware is loaded: it passes every check of R220 but, where counter 30 has been advanced
past its SVN, the one for rollback. -/
def State.loadLibrary1 (s : State) (r : LibRow) : State :=
  let p := r.prog
  let c := s.counter 30
  let rep := fun (s : State) (code : Nat) => s.logEvent 0x0F code 0 (code + 4294967296 * r.id)
  match s.freeProg with
  | none => rep s 10
  | some n =>
    if c = 0 ∨ c ≤ p.svn.toNat then rep ((s.onProgs (·.set none n (some p))).extendReg 4 p.digest) 0
    else rep s 5

/-- The start of the root-of-trust domain: the library, then the images of the program directory. -/
def State.loadPrograms (s : State) : State :=
  let s1 := libRows.foldl State.loadLibrary1 s
  (s1.store.programs.foldl (fun s i => (s.loadProgram i).1) s1).onChip fun c => { c with progsLoaded := true }

/-- The end of an accelerator-domain reset: every program is loaded again from its verified copy, each load measured; the programs
loaded since the reset began are there already. -/
def State.reloadPrograms (s : State) : State :=
  if s.chip.progsLoaded then s
  else
    let ds := (List.range 32).filterMap fun n => (s.progs.get none n).map (·.digest)
    (ds.foldl (fun s d => s.extendReg 4 d) s).onChip fun c => { c with progsLoaded := true }

end Sys2Proof.Machine
end

