-- ==== Sys2Proof/Machine/FlashGate.lean ====
section
/-!
DEFINITION. The flash gate (R322 to R341): commands of the flash masters, rules, banks, the synthesised device, the log.
-/

namespace Sys2Proof.Machine

/-! ### Ports (R323, R324) -/

/-- Upstream port U1 (true) or U0. -/
def Fgt.port (f : Fgt) (b : Bool) : UPort := if b then f.u1 else f.u0

/-- The gate with a port changed. -/
def Fgt.modPort (f : Fgt) (b : Bool) (g : UPort → UPort) : Fgt := if b then { f with u1 := g f.u1 } else { f with u0 := g f.u0 }

/-- `s` with an upstream port changed. -/
def State.modPort (s : State) (b : Bool) (g : UPort → UPort) : State := s.onFgt fun f => f.modPort b g

/-! ### Rules (R329, R330) -/

/-- ACTION: 0 ALLOW, 1 DENY, 2 REDIRECT, 3 LOG. -/
def Rule.action (r : Rule) : Nat := bits r.d0 1 0
/-- PORT: U1. -/
def Rule.portU1 (r : Rule) : Bool := bit r.d0 2
/-- VALID. -/
def Rule.valid (r : Rule) : Bool := bit r.d0 7
/-- CLASS. -/
def Rule.cls (r : Rule) : Nat := bits r.d0 31 16

/-- The rule matches a command of class `n` on a port, at its address where the class carries one. -/
def Rule.covers (r : Rule) (p : Bool) (n : Nat) (a : Option Nat) : Bool :=
  r.valid && r.portU1 == p && bit r.d0 (16 + n) && (match a with
    | some x => decide (r.base.toNat ≤ x) && decide (x ≤ r.limit.toNat)
    | none => true)

/-- The rules a command passes, in ascending index: those that log it, and the one that decides it. -/
def evalRules (m : SMap Rule) (p : Bool) (n : Nat) (a : Option Nat) : List Nat × Option (Nat × Rule) :=
  let hits := m.filter fun kv => kv.2.covers p n a
  let deciding := hits.find? fun kv => kv.2.action != 3
  let logs := hits.filter fun kv => kv.2.action == 3 && (match deciding with
    | some d => decide (kv.1 < d.1)
    | none => true)
  (logs.map (·.1), deciding)

/-! ### The log and the counters (R330, R340) -/

/-- A log entry; a full log drops it (R340). -/
def State.gateLog (s : State) (port : Bool) (op : BitVec 8) (a : Option Nat) (rule : BitVec 8) (outcome : Nat) : State :=
  if s.fgt.log.length < 64 then
    let e : FLog := { addr := BitVec.ofNat 32 (a.getD 0), opcode := op, port := port, rule := rule
                      outcome := BitVec.ofNat 2 outcome, ticks := s.aod.rtc }
    s.onFgt fun f => { f with log := f.log ++ [e] }
  else (s.onFgt fun f => { f with lost := BitVec.ofNat 16 (satAdd f.lost.toNat 1 0xFFFF) }).setBit .fgt 10

/-- The RULE field of an entry that no rule stands behind: the spec gives no value (log entry 3). -/
def State.freeRule (s : State) : BitVec 8 := Config.free 8 s.freeCtr

/-- A denial is counted, shown and logged (R330, R340). -/
def State.gateDeny (s : State) (port : Bool) (op : BitVec 8) (a : Option Nat) (rule : Option Nat) : State :=
  let s1 := s.onFgt fun f => if port then { f with deny1 := f.deny1 + 1 } else { f with deny0 := f.deny0 + 1 }
  match rule with
  | some k => (s1.setBit .fgt 8).gateLog port op a (BitVec.ofNat 8 k) 1
  | none => ((s1.setBit .fgt 8).gateLog port op a s.freeRule 1).spend 1

/-! ### Opcodes (R327) -/

/-- The opcodes of each class, from class 0 on. -/
def flashOps : List (List Nat) :=
  [[0x03, 0x13, 0x0B, 0x0C, 0x3B, 0x3C, 0xBB, 0xBC, 0x6B, 0x6C, 0xEB, 0xEC, 0xEE],
   [0x05, 0x15, 0x35, 0x70],
   [0x9F, 0x5A, 0x06, 0x04, 0xB7, 0xE9, 0xB9, 0xAB],
   [0x02, 0x12, 0x32, 0x34, 0x38, 0x3E],
   [0x20, 0x21, 0x52, 0x5C, 0xD8, 0xDC],
   [0x60, 0xC7],
   [0x01, 0x11, 0x31, 0x72],
   [0x75, 0x7A, 0xB0, 0x30],
   [0x66, 0x99]]

/-- The class of an opcode; none: unknown. -/
def flashClass (op : BitVec 8) : Option Nat := findFrom (fun n => (flashOps.getD n []).contains op.toNat) 9 0

/-- Opcodes whose address is four bytes whatever the address width. -/
def flash4 (op : BitVec 8) : Bool :=
  [0x13, 0x0C, 0x3C, 0xBC, 0x6C, 0xEC, 0xEE, 0x12, 0x34, 0x3E, 0x21, 0x5C, 0xDC].contains op.toNat

/-- The address of a command: a 3-byte address is zero-extended (R327). -/
def UPort.addrOf (u : UPort) (op : BitVec 8) (a : Nat) : Nat :=
  if u.addr4 || flash4 op then a % 4294967296 else a % 16777216

/-! ### One command through the rules (R328, R330, R331) -/

/-- How a command ended at the gate: forwarded to an address with its deciding rule's last byte, or denied. -/
inductive GateOut where
  | forward (addr : Option Nat) (limit : Nat)
  | denied
  deriving DecidableEq, Repr

/-- Evaluation of a command: the log entries and the count of a denial, and what becomes of the command. `fits`: the
deciding rule's range holds the command's whole extent (R331). -/
def State.decideCmd (s : State) (port : Bool) (op : BitVec 8) (n : Nat) (a : Option Nat) (fits : Rule → Bool) :
    State × GateOut :=
  let e := evalRules s.fgt.live port n a
  let allow := match e.2 with
    | some d => d.2.action != 1 && fits d.2
    | none => false
  let redirect := match e.2 with
    | some d => d.2.action == 2
    | none => false
  let outcome := if allow then (if redirect then 2 else 0) else 1
  let s1 := e.1.foldl (fun s k => s.gateLog port op a (BitVec.ofNat 8 k) outcome) s
  match e.2 with
  | some d =>
    if allow then
      (s1, .forward (a.map fun x => if redirect then (x + d.2.delta.toNat) % 4294967296 else x) (d.2.limit.toNat))
    else (s1.gateDeny port op a (some d.1), .denied)
  | none => (s1.gateDeny port op a none, .denied)

/-- A command on an enabled port, of the class its opcode has; a disabled port ignores its inputs (R324). -/
def State.flash (s : State) (port : Bool) (op : BitVec 8) (n : Nat) (k : UPort → State) : Out :=
  let u := s.fgt.port port
  if u.en = true ∧ flashClass op = some n then .next (k u) else .next s

/-- Data driven to the master. -/
def State.drive (s : State) (port : Bool) (data : List Byte) : State := s.emit (.flashUp port.toNat data)

/-- FLASH_READ (R330, R331): `data` is what the downstream part returns from the forwarded address on. -/
def execFlashRead (port : Bool) (op : BitVec 8) (addr : Nat) (data : List Byte) (s : State) : Out :=
  s.flash port op 0 fun u =>
    let a := u.addrOf op addr
    match s.decideCmd port op 0 (some a) fun _ => true with
    | (s1, .forward t lim) =>
      let room := lim + 1 - a
      let s2 := s1.emit (.flashDown port.toNat op t [] false)
      let s3 := if room < data.length then s2.setBit .fgt 11 else s2
      s3.drive port (data.take room ++ List.replicate (data.length - room) 0xFF)
    | (s1, .denied) => s1.drive port (List.replicate data.length 0xFF)

/-- A status register 1 byte with WEL as the gate holds it (R328). -/
def welByte (held : Bool) (b : Byte) : Byte := (b &&& 0xFD) ||| (if held then 2 else 0)

/-- FLASH_STATUS (R328). -/
def execFlashStatus (port : Bool) (op : BitVec 8) (data : List Byte) (s : State) : Out :=
  s.flash port op 1 fun u =>
    match s.decideCmd port op 1 none fun _ => true with
    | (s1, .forward _ _) =>
      (s1.emit (.flashDown port.toNat op none [] false)).drive port
        (if op = 0x05 then data.map (welByte u.held) else data)
    | (s1, .denied) => s1.drive port (List.replicate data.length 0xFF)

/-- A PROGRAM, ERASE or CONFIG_WRITE command: forwarded with a write enable if allowed and the enable is held; either way
the held enable is consumed (R328). -/
def State.flashWrite (s : State) (port : Bool) (op : BitVec 8) (n : Nat) (a : Option Nat) (data : List Byte)
    (fits : Rule → Bool) : State :=
  let held := (s.fgt.port port).held
  let r := s.decideCmd port op n a fits
  let s1 := r.1.modPort port fun u => { u with held := false }
  match r.2 with
  | .forward t _ => s1.emit (.flashDown port.toNat op t data held)
  | .denied => s1

/-- FLASH_PROGRAM (R328, R331). -/
def execFlashProgram (port : Bool) (op : BitVec 8) (addr : Nat) (data : List Byte) (s : State) : Out :=
  s.flash port op 3 fun u => s.flashWrite port op 3 (some (u.addrOf op addr)) data fun _ => true

/-- The erase block that an address lies in, of the size the part's SFDP gives for the opcode, lies within a rule's range. -/
def UPort.eraseFits (u : UPort) (op : BitVec 8) (a : Nat) (r : Rule) : Bool :=
  let n := u.eraseSize.get 0 op.toNat
  let lo := a / n * n
  n != 0 && decide (r.base.toNat ≤ lo) && decide (lo + n ≤ r.limit.toNat + 1)

/-- FLASH_ERASE (R331). -/
def execFlashErase (port : Bool) (op : BitVec 8) (addr : Nat) (s : State) : Out :=
  s.flash port op 4 fun u =>
    let a := u.addrOf op addr
    s.flashWrite port op 4 (some a) [] (u.eraseFits op a)

/-- FLASH_CHIP_ERASE (R327): always denied. -/
def execFlashChipErase (port : Bool) (op : BitVec 8) (s : State) : Out :=
  s.flash port op 5 fun _ => s.gateDeny port op none none

/-- FLASH_CONFIG_WRITE (R328). -/
def execFlashConfigWrite (port : Bool) (op : BitVec 8) (data : List Byte) (s : State) : Out :=
  s.flash port op 6 fun _ => s.flashWrite port op 6 none data fun _ => true

/-- A SUSPEND or RESET command. -/
def State.flashPlain (s : State) (port : Bool) (op : BitVec 8) (n : Nat) : State :=
  match s.decideCmd port op n none fun _ => true with
  | (s1, .forward _ _) => s1.emit (.flashDown port.toNat op none [] false)
  | (s1, .denied) => s1

/-- FLASH_SUSPEND (R330). -/
def execFlashSuspend (port : Bool) (op : BitVec 8) (s : State) : Out := s.flash port op 7 fun _ => s.flashPlain port op 7

/-- FLASH_RESET (R330). -/
def execFlashReset (port : Bool) (op : BitVec 8) (s : State) : Out := s.flash port op 8 fun _ => s.flashPlain port op 8

/-! ### Commands the gate answers (R326 to R328) -/

/-- A little-endian dword of a byte string. -/
def dwordAt (l : List Byte) (off : Nat) : W32 := BitVec.ofNat 32 (leAt l off 4)

/-- A 5-bit dummy count raised by 4, not beyond 31 (R325). -/
def raise5 (w : W32) (at_ : Nat) : W32 :=
  let n := min 31 (bits w (at_ + 4) at_ + 4)
  (w &&& ~~~(0x1F#32 <<< at_)) ||| (BitVec.ofNat 32 n <<< at_)

/-- Dword `i` of the Basic Flash Parameter Table for a profile: fast-read dummy counts raised, read modes outside the
profile and deep power-down unsupported (R326; the places of the fields are JESD216's, log entry 41). -/
def bfptDword (profile i : Nat) (w : W32) : W32 :=
  match i with
  | 0 => w &&& (match profile with
    | 2 => 0xFF97FFFF#32
    | 3 => 0xFFF7FFFF#32
    | _ => 0xFF86FFFF#32)
  | 2 => raise5 (raise5 w 0) 16
  | 3 => raise5 (raise5 w 0) 16
  | 4 => w &&& 0xFFFFFFEE#32
  | 5 => raise5 w 16
  | 6 => raise5 w 16
  | 13 => w ||| 0x80000000#32
  | _ => w

/-- Dword `i` of the 4-byte address instruction table for a profile. -/
def fourByteDword (profile i : Nat) (w : W32) : W32 :=
  match i with
  | 0 => w &&& (match profile with
    | 2 => 0xFFFF1FCF#32
    | 3 => 0xFFFF1FFF#32
    | _ => 0xFFFF1FC3#32)
  | _ => w

/-- Dword `i` of the xSPI profile 1.0 table, its dummy counts raised. -/
def xspiDword (i : Nat) (w : W32) : W32 :=
  match i with
  | 3 => raise5 w 7
  | 4 => raise5 (raise5 (raise5 (raise5 w 2) 7) 17) 22
  | _ => w

/-- A parameter header of an SFDP image: identifier, number of dwords, pointer. -/
structure ParamHdr where
  id : Nat
  len : Nat
  ptr : Nat
  raw : List Byte
  deriving DecidableEq, Repr

/-- The parameter headers of an SFDP image. -/
def paramHdrs (l : List Byte) : List ParamHdr :=
  (List.range (leAt l 6 1 + 1)).map fun k =>
    let o := 8 + 8 * k
    ⟨leAt l o 1 + 256 * leAt l (o + 7) 1, leAt l (o + 3) 1, leAt l (o + 4) 3, cut l o 8⟩

/-- The parameter headers that the synthesised image keeps (R326). -/
def keptHdrs (l : List Byte) (profile : Nat) : List ParamHdr :=
  (paramHdrs l).filter fun h => h.id == 0xFF00 || h.id == 0xFF84 || (h.id == 0xFF05 && profile == 4)

/-- The dword of a kept table after the changes of R326. -/
def tableDword (h : ParamHdr) (profile i : Nat) (w : W32) : W32 :=
  if h.id = 0xFF00 then bfptDword profile i w
  else if h.id = 0xFF84 then fourByteDword profile i w
  else xspiDword i w

/-- Byte `o` of the synthesised SFDP image. -/
def sfdpByte (l : List Byte) (profile o : Nat) : Byte :=
  let ks := keptHdrs l profile
  if o < 8 then (if o = 6 then byteOf (ks.length - 1) else l.getD o 0xFF)
  else if o < 8 + 8 * ks.length then (ks.flatMap (·.raw)).getD (o - 8) 0xFF
  else match ks.find? fun h => decide (h.ptr ≤ o) && decide (o < h.ptr + 4 * h.len) with
    | some h =>
      let i := (o - h.ptr) / 4
      byteOf ((tableDword h profile i (dwordAt l (h.ptr + 4 * i))).toNat / 256 ^ ((o - h.ptr) % 4))
    | none => 0xFF

/-- The port's GATE-class command, if the port answers. -/
def State.gateCmd (s : State) (port : Bool) (k : UPort → State) : Out :=
  if (s.fgt.port port).en then .next (k (s.fgt.port port)) else .next s

/-- FLASH_RDID (R326). -/
def execFlashRdid (port : Bool) (s : State) : Out := s.gateCmd port fun u => s.drive port (u.idBytes.take 3)

/-- FLASH_SFDP (R326). -/
def execFlashSfdp (port : Bool) (addr len : Nat) (s : State) : Out :=
  s.gateCmd port fun u => s.drive port ((List.range len).map fun k => sfdpByte u.sfdp u.profile.toNat (addr + k))

/-- FLASH_WRITE_ENABLE (R328). -/
def execFlashWriteEnable (port : Bool) (s : State) : Out :=
  s.gateCmd port fun _ => s.modPort port fun u => { u with held := true }

/-- FLASH_WRITE_DISABLE (R328). -/
def execFlashWriteDisable (port : Bool) (s : State) : Out :=
  s.gateCmd port fun _ => s.modPort port fun u => { u with held := false }

/-- FLASH_ENTER_4B (R327). -/
def execFlashEnter4b (port : Bool) (s : State) : Out :=
  s.gateCmd port fun _ => s.modPort port fun u => { u with addr4 := true }

/-- FLASH_EXIT_4B (R327). -/
def execFlashExit4b (port : Bool) (s : State) : Out :=
  s.gateCmd port fun _ => s.modPort port fun u => { u with addr4 := false }

/-- FLASH_POWER_DOWN (R327): no effect. -/
def execFlashPowerDown (_port : Bool) (s : State) : Out := .next s

/-- FLASH_RELEASE_POWER_DOWN (R327): no effect. -/
def execFlashReleasePowerDown (_port : Bool) (s : State) : Out := .next s

/-- FLASH_UNKNOWN_OP (R327): an unknown opcode, or one whose 8D-8D-8D inverse does not follow. -/
def execFlashUnknownOp (port : Bool) (op : BitVec 8) (s : State) : Out :=
  s.gateCmd port fun _ =>
    let s1 := s.onFgt fun f => { f with unknown := f.unknown + 1 }
    ((s1.setBit .fgt 9).gateLog port op none s.freeRule 3).spend 1

/-! ### Banks and ports (R324, R335, R336, R338) -/

/-- FGT_SWAP (R335): ignored while the gate is frozen (R339). -/
def execFgtSwap (s : State) : Out :=
  s.powered fun s =>
  .next (if s.fgt.frozen then s else s.onFgt fun f => { f with swapPending := true })

/-- A rule of the latched read-only set (R338). -/
def latchRule (r : Rule) : Rule :=
  if r.action = 0 ∨ r.action = 2 then { r with d0 := r.d0 &&& 0x0003FFFF#32 } else r

/-- The shadow bank becomes live; the latched set is formed from it; the held enables clear (R335, R338). -/
def State.swapBanks (s : State) : State :=
  (s.onFgt fun f =>
    { f with live := f.shadow, shadow := f.live, liveBank := !f.liveBank, swapPending := false, latched := false
             latchedSet := f.shadow.mapVals {} fun _ r => latchRule r
             u0 := { f.u0 with held := false }, u1 := { f.u1 with held := false } }).setBit .fgt 13

/-- BANK_SWAP (R335): the decision boundary that a pending swap waits for. -/
def execBankSwap (s : State) : Out :=
  .next (if s.fgt.swapPending = true ∧ s.fgt.frozen = false then s.swapBanks else s)

/-- The latched set becomes the live bank (R339). -/
def State.latchGate (s : State) : State :=
  if s.fgt.latched then s
  else (s.onFgt fun f =>
    { f with live := f.latchedSet, latched := true, swapPending := false
             u0 := { f.u0 with held := false }, u1 := { f.u1 with held := false } }).setBit .fgt 12

/-- The valid rules of the live bank (R341). -/
def Fgt.rulesLive (f : Fgt) : Nat := (f.live.filter fun kv => kv.2.valid).length

/-- A port's enable as written: a 1 waits for a running Umpire program or erase (R336). -/
def UPort.enable (u : UPort) (on : Bool) : UPort :=
  if on && u.umpireOp then { u with enDeferred := true } else { u with en := on, enDeferred := false }

/-- PORT_ENABLE_WRITE (R324, R336). -/
def execPortEnableWrite (u0 u1 : Bool) (s : State) : Out :=
  s.powered fun s =>
  .next (s.onFgt fun f => { f with u0 := f.u0.enable u0, u1 := f.u1.enable u1 })

/-- DOWNSTREAM_FLASH_OPERATION_DONE (R336). -/
def execDownstreamFlashOperationDone (port : Bool) (s : State) : Out :=
  .next (s.modPort port fun u => { u with umpireOp := false, en := u.en || u.enDeferred, enDeferred := false })

/-- LOG_ENTRY_READ (R340, R341): the oldest entry leaves the gate's log for the Umpire event log. -/
def execLogEntryRead (s : State) : Out :=
  match s.fgt.log with
  | [] => .next s
  | e :: r =>
    .next ((s.onFgt fun f => { f with log := r }).logEvent 0x14 e.opcode.toNat (b2n e.port + 2 * e.outcome.toNat)
      (e.addr.toNat + 4294967296 * e.rule.toNat))

end Sys2Proof.Machine
end

