-- ==== Sys2Proof/Machine/Tamper.lean ====
section
/-!
DEFINITION. Tamper and environment monitors (R399 to R418, R298, R163): records, the tamper log, response classes, masked
fall-back, deferred records, built-in stimulation.
-/

namespace Sys2Proof.Machine

/-! ### Sources (R399, R406, R407) -/

/-- The source is fused off. -/
def State.srcOff (s : State) (n : Nat) : Bool := s.otp.disable.getLsbD n

/-- The class field of a source; a disabled source's reads zero. -/
def State.srcClass (s : State) (n : Nat) : Nat :=
  if n = 15 then 1 else if s.srcOff n then 0 else s.tmp.cls.toNat / 4 ^ n % 4

/-- The regions a source affects at a sensor (R399, R404). -/
def State.srcRegions (s : State) (n idx : Nat) : BitVec 4 :=
  match n with
  | 0 => BitVec.ofNat 4 (2 ^ (idx / 16))
  | 3 | 4 => BitVec.ofNat 4 (2 ^ (idx / 6))
  | 5 | 6 => BitVec.ofNat 4 (2 ^ (idx / 4))
  | 15 => 0xF
  | _ => BitVec.ofNat 4 (s.tmp.region.toNat / 16 ^ n % 16)

/-- The source runs on the backup cell alone. -/
def srcOnCell (n : Nat) : Bool := n == 0 || n == 8 || (decide (9 ≤ n) && decide (n ≤ 13)) || n == 15

/-- LCS_BOOT_CNT (R383). -/
def State.bootCnt (s : State) : W32 := BitVec.ofNat 32 (s.otp.coldCounter % 256 * 16777216 + s.aod.bootLow.toNat)

/-! ### The tamper log (R408 to R410) -/

/-- The class of a record, from its FLAGS. -/
def TRec.cls (r : TRec) : Nat := r.flags.toNat % 4
/-- A class A or B record. -/
def TRec.strong (r : TRec) : Bool := r.cls == 1 || r.cls == 2

/-- The slot that a new entry takes: the oldest, or for an entry that is not class A or B the oldest that is neither. -/
def Aod.logSlot (a : Aod) (strong : Bool) : Option Nat :=
  let free := fun (i : Nat) => strong || (match a.log.get none (i % 256) with
    | some r => !r.strong
    | none => true)
  (findFrom free 256 a.head.toNat).map (· % 256)

/-- An entry is written into the ring, or dropped (R410). -/
def State.logTamper (s : State) (r : TRec) : State :=
  let lose := fun (s : State) =>
    let s1 := s.onAod fun a => { a with logLost := BitVec.ofNat 32 (satAdd a.logLost.toNat 1 0xFFFFFFFF) }
    if s1.aod.onCell then s1 else s1.setBit .tmp 12
  match s.aod.logSlot r.strong with
  | none => lose s
  | some i =>
    let unread := match s.aod.log.get none i with
      | some o => decide (s.aod.exportSeq.toNat ≤ o.seq.toNat)
      | none => false
    let s1 := if unread then lose s else s
    s1.onAod fun a =>
      { a with log := a.log.set none i (some { r with seq := a.seqNext }), head := BitVec.ofNat 8 (i + 1)
               seqNext := a.seqNext + 1 }

/-- The flags that every entry carries at this moment: TIME_APPROX while the crystal has failed. -/
def State.approx (s : State) : Nat := if s.aod.xtalRunning then 0 else 16

/-- An entry as it stands at detection, its sequence number still open. -/
def State.newRec (s : State) (src flags idx value ticks : Nat) (regions : BitVec 4) : TRec :=
  { seq := 0, ticks := BitVec.ofNat 48 ticks, source := byteOf src, flags := byteOf (flags + s.approx)
    mode := if s.aod.onCell then 1 else 0, regions := regions.setWidth 8, index := BitVec.ofNat 16 idx
    value := BitVec.ofNat 16 value, bootCnt := if s.aod.onCell then 0 else s.bootCnt }

/-- An informational entry (R409). -/
def State.logInfo (s : State) (src idx : Nat) : State := s.logTamper (s.newRec src 0 idx 0 s.now 0)

/-- An informational entry whose INDEX names nothing: the spec states no value for it (log entry 3). -/
def State.logPlain (s : State) (src : Nat) : State := (s.logInfo src (Config.free 16 s.freeCtr : BitVec 16).toNat).spend 1

/-! ### The class A response (R298, R403) -/

/-- A block's alarm action under a class response: a code of its own is not stated, the common code 0x84 is recorded. -/
def State.classAlarm (s : State) (p : PageId) : State :=
  match pageBlock p with
  | some (k, u) => if s.present p then s.alarm k u (s.runningIn k u) 0x84 0 false else s
  | none => s

/-- Every open message is closed; its next part completes with CTX_EVICTED_LOST (R123, R298). -/
def State.closeOpen (s : State) : State :=
  s.jobs.foldl (fun s kv => match kv.2 with
    | none => s
    | some b => match s.chan b.fn b.ch with
      | none => s
      | some c => match c.openMsg with
        | some m => if m.job = kv.1 ∧ m.lost.isNone = true then s.failJob kv.1 { st := 0x62 } else s
        | none => s) s

/-- A digest message without a key that has begun, and whose context is zeroised, completes with CTX_EVICTED_LOST. DEDUCED (log entry
69) from what R148 and R123 say of a context that is lost. -/
def State.failDigests (s : State) : State :=
  (s.jobsWhere fun b => b.kind == .quad && b.begun && b.keySlot.isNone).foldl (fun s j => s.failJob j { st := 0x62 }) s

/-- Requests admitted with a key that no longer exists complete with KEY_INVALID. -/
def State.failKeyed (s : State) : State :=
  (s.reqsWhere fun q => q.admitted && q.keySlot.isSome).foldl (fun s r => s.finish r { st := 0x30 }) s

/-- A retiring slot's waiting completion is written and the slot is released: its users are gone (R296, R298). -/
def State.endDrains (s : State) : State :=
  s.kslots.foldl (fun s kv =>
    if (s.kslot kv.1).state = .retiring ∧ s.headOf kv.1 = kv.1 then
      let s1 := match (s.kslot kv.1).drain with
        | some (.admin f sq cmdId) => s.admFinish f sq cmdId {}
        | _ => s
      s1.release kv.1
    else s) s

/-- The ledger and the context cache are zeroised, every generation advances (R275, R298). -/
def State.zeroLedger (s : State) : State :=
  let s1 := s.closeOpen.failKeyed.failDigests.endDrains
  let used := s1.kslots.filterMap fun kv => if kv.2.occupied && s1.general kv.1 then some kv.1 else none
  let s2 := (s1.onKslots fun _ => []).onGenBase fun g => g % 4095 + 1
  let s3 := s2.onKlg fun k => { k with rootsReady := false, freed := k.freed ++ used, alarms := [] }
  (s3.onJobs (·.mapVals none fun _ b => b.map fun b =>
    { b with ctx := [], absorbed := [], dkey := [], held := [], frame := none, resident := false, entries := 0 })).onMsh
    fun m => { m with lru := [], frames := [], entryWait := [] }

/-- Renewal by the Umpire: a new service root, the roots and identity keys derived again, at its end during an accelerator reset
(R284, R298). -/
def State.renewKeys (s : State) : State := if s.chip.accReset then s.renewRoot else s.renewRoot.deriveRoots

/-- The class A action; the Umpire renews if it runs, else when it next starts. -/
def State.classA (s : State) : State :=
  let s1 := ((s.onAod fun a => { a with serviceRoot := none, challenge := none }).onLcs fun l => { l with heldChal := none }).bstEnd 3
  let s2 := (allBlockPages.foldl State.classAlarm s1).zeroLedger
  if s2.umpUp then s2.renewKeys else s2

/-! ### The class B response (R403, R404) -/

/-- The regions of a mask. -/
def maskRegions (m : BitVec 4) : List Nat := (List.range 4).filter fun r => m.getLsbD r

/-- The class B action: alarm actions in the affected regions, then their tamper quarantine. -/
def State.classB (s : State) (m : BitVec 4) : State :=
  let s0 := if (maskRegions m).contains s.bst.region then s.bstEnd 3 else s
  let s1 := (maskRegions m).foldl (fun s r => ((regionPages r).drop 1).foldl State.classAlarm s) s0
  let s2 := (maskRegions m).foldl (fun s r => if s.quarantined (.rgn r) then s else s.quarantineRegion r) s1
  s2.onAod fun a => { a with quar := a.quar ||| m }

/-! ### Masked fall-back (R163, R401) -/

/-- Every present eight notes a change of path. -/
def State.maskChange (s : State) : State :=
  (List.range s.variant.eights).foldl (fun s e => s.setBit (.egt e) 13) s

/-- The chip-wide masked fall-back begins or starts its 600 s again. -/
def State.maskBegin (s : State) : State :=
  let s1 := s.onChip fun c => { c with maskUntil := s.now + 600 * second }
  if s1.chip.maskFallback then s1
  else ((s1.modChip fun c => { c with maskFallback := true }).onHeat fun t =>
    { t with live := { t.live with maskFallback := true } }).maskChange

/-! ### Records and their responses (R403, R405, R410, R411, R414) -/

/-- TMP_CNT and PG_STATUS of a record's class; they exist on main power only. -/
def State.countRec (s : State) (cls : Nat) (shown : Bool) : State :=
  if s.aod.onCell then s
  else
    let up := fun (v : BitVec 16) => BitVec.ofNat 16 (satAdd v.toNat 1 0xFFFF)
    match cls with
    | 1 => (s.onTmp fun t => { t with cntA := up t.cntA }).setBit .tmp 8
    | 2 => (s.onTmp fun t => { t with cntB := up t.cntB }).setBit .tmp 9
    | 3 => let s1 := s.onTmp fun t => { t with cntC := up t.cntC }
           if shown then s1.setBit .tmp 10 else s1
    | _ => s

/-- TAMPER_N is driven low for at least 10 ms, and a response awaits its release (R403). -/
def State.driveTamper (s : State) : State :=
  (s.onTmp fun t => { t with tamperLow := true, holdMin := true, relWritten := false }).onAod fun a => { a with pending := true }

/-- The response to a complete record on main power. -/
def State.respond (s : State) (src cls : Nat) (m : BitVec 4) : State :=
  let s1 := if src = 1 ∨ src = 2 ∨ src = 6 then s.maskBegin else s
  match cls with
  | 1 => s1.atOnce fun s => s.driveTamper.classA
  | 2 => s1.atOnce fun s => s.driveTamper.classB m
  | _ => s1

/-- A class A or B record on the backup cell is deferred (R411). -/
def State.defer (s : State) (cls : Nat) (m : BitVec 4) : State :=
  if cls = 1 ∨ cls = 2 then
    s.onAod fun a =>
      { a with deferQuar := a.deferQuar ||| m, pending := true
               deferSeq := match a.deferSeq with
                 | some x => some x
                 | none => some a.seqNext
               deferA := a.deferA || cls == 1
               serviceRoot := if cls = 1 then none else a.serviceRoot }
  else s

/-- A record of an enabled source: logged, then answered. `extra`: SELFTEST_FAIL. -/
def State.record (s : State) (src idx value ticks extra : Nat) : State :=
  let cls := s.srcClass src
  let m := s.srcRegions src idx
  let noteC := fun (s : State) => if cls = 3 then s.onTmp fun t => { t with lastC := t.lastC.set none src (some s.now) } else s
  if cls = 3 ∧ s.within (s.tmp.lastC.get none src) second = true then s.countRec 3 false
  else if s.aod.onCell then
    let d := if cls = 1 ∨ cls = 2 then 8 else 0
    let r := s.newRec src (cls + d + extra) idx value ticks m
    noteC ((s.defer cls m).logTamper r)
  else
    let s1 := (s.logTamper (s.newRec src (cls + extra) idx value ticks m)).countRec cls true
    (noteC s1).respond src cls m

/-- A stimulated source and index lies in its suppression window (R414); TLOOP sources have one sensor each. -/
def State.suppressed (s : State) (src idx : Nat) : Bool :=
  s.tmp.testBusy && s.tmp.testSource.toNat == src
    && (s.tmp.testIndex.toNat == idx || (decide (9 ≤ src) && decide (src ≤ 12)))

/-- A detection in the suppression window: an entry with SUPPRESSED set, no response. -/
def State.logSuppressed (s : State) (src idx value : Nat) : State :=
  (s.logTamper (s.newRec src (s.srcClass src + 4) idx value s.now (s.srcRegions src idx)))

/-- A monitor finds its condition at an index: once until the condition has cleared there (R410). -/
def State.detect (s : State) (src idx value ticks : Nat) : State :=
  if s.srcOff src = true ∨ (s.aod.onCell = true ∧ srcOnCell src = false) ∨ s.tmp.persist.contains (src, idx) = true then s
  else if s.suppressed src idx then
    (s.logSuppressed src idx value).onTmp fun t => { t with testPass := true }
  else (s.onTmp fun t => { t with persist := t.persist ++ [(src, idx)] }).record src idx value ticks 0

/-- A PLDM event goes to every registered receiver (R425). -/
def State.pldmEvent (s : State) (sensor : Nat) (v : Int) : State :=
  if s.mon.receiver.isEmpty then s else s.emit (.pldmEvent sensor v)

/-- The event of a rail that crosses a threshold, on sensor 25 and up, unless the sensor is disabled (R425). -/
def State.railEvent (s : State) (rail : Nat) (mv : Nat) : State :=
  if s.umpUp = false ∨ 7 ≤ rail ∨ s.mon.disabled.contains (25 + rail) = true then s else s.pldmEvent (25 + rail) (mv : Int)

/-- A supply monitor finds its condition: a record, and the event of the crossing (R400, R425). -/
def State.detectRail (s : State) (src rail mv ticks : Nat) : State :=
  if s.tmp.persist.contains (src, rail) then s else (s.railEvent rail mv).detect src rail mv ticks

/-- SHIELD (R399). -/
def execShield (i : Nat) (s : State) : Out := .next (s.detect 0 i 0 s.now)

/-- SUPPLY_UV_DETECT (R400): classification of the rail begins. -/
def execSupplyUvDetect (rail : Nat) (_mv : BitVec 16) (s : State) : Out :=
  if s.aod.onCell = true ∨ s.srcOff 1 = true ∨ s.tmp.uvPending.any (fun x => x.1 == rail) = true then .next s
  else .next (s.onTmp fun t => { t with uvPending := t.uvPending ++ [(rail, s.now)] })

/-- SUPPLY_UV (R400): the record carries the tick of the first detection. -/
def execSupplyUv (rail : Nat) (mv : BitVec 16) (s : State) : Out :=
  match s.tmp.uvPending.find? fun x => x.1 == rail with
  | none => .next s
  | some x =>
    .next ((s.onTmp fun t => { t with uvPending := t.uvPending.filter fun y => y.1 != rail }).detectRail 1 rail mv.toNat x.2)

/-- SUPPLY_OV (R399). -/
def execSupplyOv (rail : Nat) (mv : BitVec 16) (s : State) : Out := .next (s.detectRail 2 rail mv.toNat s.now)

/-- THERMAL_HIGH (R399). -/
def execThermalHigh (i : Nat) (temp : BitVec 16) (s : State) : Out := .next (s.detect 3 i temp.toNat s.now)

/-- THERMAL_LOW (R399). -/
def execThermalLow (i : Nat) (temp : BitVec 16) (s : State) : Out := .next (s.detect 4 i temp.toNat s.now)

/-- LIGHT (R399). -/
def execLight (i : Nat) (s : State) : Out := .next (s.detect 5 i 0 s.now)

/-- EMP (R399, R401). -/
def execEmp (i : Nat) (s : State) : Out := .next (s.detect 6 i 0 s.now)

/-- CELL_REMOVED (R399): on main power only. -/
def execCellRemoved (s : State) : Out := .next (s.detect 7 0 0 s.now)

/-- CELL_LOW (R399). -/
def execCellLow (s : State) : Out := .next (s.detect 8 0 0 s.now)

/-- TLOOP (R399, R411). -/
def execTloop (n : Nat) (s : State) : Out := if n < 4 then .next (s.detect (9 + n) n 0 s.now) else .next s

/-- XTAL_FAIL (R399): the real-time counter goes on with a fallback oscillator, and every entry carries TIME_APPROX. -/
def execXtalFail (s : State) : Out :=
  let s1 := s.onAod fun a => { a with xtalRunning := false }
  .next ((s1.onTmp fun t => { t with timeApprox := true }).detect 13 0 0 s.now)

/-- CRYSTAL_START (R477): the real-time counter and the watchdog time base can use the crystal. -/
def execCrystalStart (s : State) : Out :=
  let s1 := s.onAod fun a => { a with xtalRunning := true }
  .next ((s1.onTmp fun t => { t with timeApprox := false }).onWdg fun w => { w with xtalOk := true })

/-- The page that owns a wide-distance encoding (R402): life cycle, tamper response, boot verdict, watchdog. -/
def machinePage (n : Nat) : PageId :=
  match n with
  | 0 => .lcs
  | 1 => .tmp
  | 2 => .psq
  | _ => .wdg

/-- TAMPER_CONDITION_CLEAR (R410). A rail that returns into its range crosses its threshold too, at a reading that the spec does not
give (R425). -/
def execTamperConditionClear (source index : Nat) (s : State) : Out :=
  let s1 := if (source = 1 ∨ source = 2) ∧ s.tmp.persist.contains (source, index) = true then
      (s.spend 1).railEvent index (Config.free 16 s.freeCtr : BitVec 16).toNat
    else s
  .next (s1.onTmp fun t => { t with persist := t.persist.filter fun x => x != (source, index) })

/-! ### TAMPER_N and fall-back (R403, R163) -/

/-- TAMPER_N is released once its minimum time has ended and the Umpire has written TAMPER_REL. -/
def State.releaseTamper (s : State) : State :=
  if s.tmp.relWritten = true ∧ s.tmp.holdMin = false then
    (s.onTmp fun t => { t with tamperLow := false, relWritten := false }).onAod fun a => { a with pending := false }
  else s

/-- TAMPER_REL (R403): after the response is complete. -/
def execTamperRel (s : State) : Out :=
  if s.tmp.tamperLow = true ∧ s.tmp.respA = false ∧ s.tmp.respB = false then
    .next (s.onTmp fun t => { t with relWritten := true }).releaseTamper
  else .next s

/-- TAMPER_HOLD_EXPIRY (R403). -/
def execTamperHoldExpiry (s : State) : Out := .next (s.onTmp fun t => { t with holdMin := false }).releaseTamper

/-- MASK_FALLBACK_END (R163). -/
def execMaskFallbackEnd (s : State) : Out :=
  if s.chip.maskFallback = true ∧ s.chip.maskUntil ≤ s.now then
    .next (s.modChip fun c => { c with maskFallback := false }).maskChange
  else .next s

/-! ### Built-in stimulation (R414, R415) -/

/-- The reading an entry of a stimulated rail or diode carries: the spec gives no number (log entry 3). -/
def State.stimValue (s : State) (src : Nat) : Nat :=
  if 1 ≤ src ∧ src ≤ 4 then (Config.free 16 s.freeCtr : BitVec 16).toNat else 0

/-- A stimulation that found no detection: FAIL, logged with SELFTEST_FAIL and handled as a real record. -/
def State.selftestFail (s : State) (src idx : Nat) : State :=
  ((s.setBit .tmp 11).record src idx (s.stimValue src) s.now 32).spend 1

/-- TMP_TEST_START (R414, R415): only while the MON_TEST right is in force. -/
def execTmpTestStart (s : State) : Out :=
  s.powered fun s =>
  if bit s.dbg.rights 8 = false then .next (s.onTmp fun t => { t with testDenied := true })
  else if s.tmp.testBusy = true ∨ s.srcOff s.tmp.testSource.toNat = true ∨ s.tmp.testSource = 14 then .next s
  else .next (s.onTmp fun t => { t with testBusy := true, testPass := false, testFail := false, testDenied := false })

/-- STIMULATION_WINDOW_END (R414). -/
def execStimulationWindowEnd (detected : Bool) (s : State) : Out :=
  if s.tmp.testBusy = false then .next s
  else
    let src := s.tmp.testSource.toNat
    let idx := s.tmp.testIndex.toNat
    let s1 := s.onTmp fun t => { t with testBusy := false }
    if s.tmp.testPass then .next s1
    else if detected then
      .next (((s1.logSuppressed src idx (s.stimValue src)).spend 1).onTmp fun t => { t with testPass := true })
    else .next ((s1.onTmp fun t => { t with testFail := true }).selftestFail src idx)

/-- Stimulation at a start (R415): index 0 of every enabled source; `fails`: the sources that answer with no detection. -/
def State.startStimulation (s : State) (fails : List Nat) : State :=
  ((List.range 16).filter fun n => n != 14 && !s.srcOff n).foldl (fun s n =>
    if fails.contains n then s.selftestFail n 0 else (s.logSuppressed n 0 (s.stimValue n)).spend 1) s

/-! ### Classes (R406) -/

/-- TMP_CLASS as a write leaves it: a field written 0 keeps its value, source 0xE reads 0 and 0xF reads 1. -/
def mergeClass (old v : W32) : W32 :=
  (List.range 16).foldl (fun (acc : W32) n =>
    let f := bits v (2 * n + 1) (2 * n)
    let k := if n = 14 then 0 else if n = 15 then 1 else if f = 0 then bits old (2 * n + 1) (2 * n) else f
    acc ||| (BitVec.ofNat 32 k <<< (2 * n))) 0

/-- TMP_CLASS_WRITE (R406): by the Umpire, unless PG_LOCK[0] is set. -/
def execTmpClassWrite (v : W32) (s : State) : Out :=
  s.powered fun s =>
  .next (s.locked .tmp 0 fun s => s.onTmp fun t => { t with cls := mergeClass t.cls v })

/-! ### Start and loss of power (R411 to R413) -/

/-- Deferred records are processed before ACC_READY first reads 1 (R412). -/
def State.deferredDone (s : State) : State :=
  match s.aod.deferSeq with
  | none => s
  | some q =>
    let s1 := s.onAod fun a => { a with quar := a.quar ||| a.deferQuar, deferQuar := 0, deferSeq := none, deferA := false }
    s1.logInfo 0x13 (q.toNat % 65536)

/-- CELL_REMOVAL_ON_BATTERY (R413): the always-on domain is lost. -/
def execCellRemovalOnBattery (s : State) : Out := if s.aod.onCell then .next (s.onAod fun _ => {}) else .next s

end Sys2Proof.Machine
end

