-- ==== Sys2Proof/Machine/Objects.lean ====
section
/-!
DEFINITION. Signed objects: the life-cycle state in OTP and the life-cycle objects (R380 to R392), the Umpire image
(R305, R306), the platform manifest (R311 to R314), the gate policy (R333, R334).
-/

namespace Sys2Proof.Machine

/-! ### The life-cycle state in OTP (R381) -/

/-- The state that a pair names: its INTENT and DONE words equal one code word. -/
def pairState (p : W64 × W64) : Option Nat :=
  findFrom (fun c => Config.codeWord c == p.1 && Config.codeWord c == p.2) 5 1

/-- The blown bits of a pair all lie within one code word, in INTENT and DONE alike. -/
def pairPartial (p : W64 × W64) : Bool :=
  ([1, 2, 3, 4, 5] : List Nat).any fun c =>
    p.1 &&& Config.codeWord c == p.1 && p.2 &&& Config.codeWord c == p.2

/-- The transition exists (R387): its admitted SIGNERS values. -/
def transition (old new : Nat) : List Nat :=
  if new = 5 then (if 1 ≤ old ∧ old ≤ 4 then [1, 2, 3] else [])
  else if old = 1 ∧ new = 2 then [1]
  else if old = 2 ∧ new = 3 then [2]
  else if old = 3 ∧ new = 4 then [3]
  else []

/-- One pair decoded after the pairs before it: the state, INCOMPLETE, INVALID. -/
def decodePair (x : Nat × Bool × Bool) (p : W64 × W64) : Nat × Bool × Bool :=
  match pairState p with
  | some n => if (transition x.1 n).isEmpty then (x.1, x.2.1, true) else (n, x.2.1, x.2.2)
  | none => if pairPartial p then (x.1, true, x.2.2) else (x.1, x.2.1, true)

/-- The state that the boot ROM decodes: state code, INCOMPLETE, INVALID; MAKER with no complete pair. -/
def decodeLife (pairs : List (W64 × W64)) : Nat × Bool × Bool := pairs.foldl decodePair (1, false, false)

/-- LCS_STATE.PAIRS_USED: pairs complete or spent. -/
def State.pairsUsed (s : State) : Nat := s.otp.pairs.length

/-! ### Life-cycle objects (R385, R386) -/

/-- SIGNERS. -/
def objSigners (o : List Byte) : Nat := leAt o 7 1

/-- The number of signers. -/
def objCount (o : List Byte) : Nat := objSigners o % 2 + objSigners o / 2 % 2

/-- The signed part. -/
def objSigned (o : List Byte) : List Byte := o.take 192

/-- The public key of signer `k`, in the order Doloth, owner. -/
def objKey (o : List Byte) (k : Nat) : List Byte := cut o (192 + 7219 * k) pkLen

/-- The signature of signer `k` verifies. -/
def objSigOk (o : List Byte) (k : Nat) : Bool :=
  mldsaVerify (objKey o k) (cut o (192 + 7219 * k + pkLen) sigLen) (sha3_512 (objSigned o)) (ascii "ZK7 LC")

/-- Every signature verifies. -/
def objSigsOk (o : List Byte) : Bool := (List.range (objCount o)).all (objSigOk o)

/-- Header, reserved bytes and length of an object of a kind whose BODY is defined up to `ranges` (offset, size). -/
def objFormatOk (o : List Byte) (kind : Nat) (ranges : List (Nat × Nat)) : Bool :=
  leAt o 0 4 == 0x4F434C5A && leAt o 4 2 == 1 && leAt o 6 1 == kind && decide (objSigners o < 4)
    && o.length == 192 + 7219 * objCount o
    && (List.range 120).all fun k =>
      ranges.any (fun r => decide (r.1 ≤ k + 0x48) && decide (k + 0x48 < r.1 + r.2)) || leAt o (k + 0x48) 1 == 0

/-- DEVICE is this device's digest. -/
def State.objDevice (s : State) (o : List Byte) : Bool := cut o 8 32 == s.deviceId && !zeroAt o 8 32

/-- CHALLENGE equals the challenge held. -/
def State.objChallenge (s : State) (o : List Byte) : Bool :=
  match s.aod.challenge with
  | some c => cut o 0x28 32 == leBytes 32 c.toNat
  | none => false

/-- A public key is the current owner key. -/
def State.isOwner (s : State) (pk : List Byte) : Bool := currentHash s.otp.owner == some (sha3_512 pk)

/-- Every signer's key is the one its bit requires: Doloth's life-cycle key first, then the owner's. -/
def State.objKeysOk (s : State) (o : List Byte) : Bool :=
  let n := objSigners o
  (n % 2 == 0 || sha3_512 (objKey o 0) == Config.lifeCycleKeyHash)
    && (n / 2 == 0 || s.isOwner (objKey o (n % 2)))

/-- The verdict on a transition request (R388), in its order; one that comes during a transition is BUSY whatever it holds (R396). -/
def State.checkTransition (s : State) (o : List Byte) : Nat :=
  let old := leAt o 0x48 1
  let new := leAt o 0x49 1
  if s.lcs.trans.isSome then 0x08
  else if objFormatOk o 1 [(0x48, 2)] = false then 0x01
  else if s.objDevice o = false then 0x02
  else if s.objChallenge o = false then 0x03
  else if old ≠ s.lcs.state.toNat ∨ s.lcs.invalid = true ∨ (transition old new).isEmpty = true then 0x04
  else if (transition old new).contains (objSigners o) = false ∨ s.objKeysOk o = false
      ∨ (new = 3 ∧ (currentHash s.otp.owner).isNone = true) then 0x05
  else if objSigsOk o = false then 0x06
  else if 8 ≤ s.pairsUsed then 0x07
  else 0x00

/-- The verdict on a debug grant (R392), in its order. `arrival`: on arrival, else at a start. -/
def State.checkGrant (s : State) (o : List Byte) (arrival : Bool) : Nat :=
  let st := s.lcs.state.toNat
  let cnt := s.bootCnt.toNat
  let first := leAt o 0x4C 4
  let last := leAt o 0x50 4
  let signer := objSigners o
  if objFormatOk o 2 [(0x48, 14)] = false ∨ (signer ≠ 1 ∧ signer ≠ 2) ∨ zeroAt o 0x28 32 = false then 0x11
  else if s.objDevice o = false then 0x12
  else if (st ≠ 2 ∧ st ≠ 3) ∨ s.lcs.invalid = true ∨ (leAt o 0x54 1).testBit (st - 1) = false
      ∨ leAt o 0x55 1 ≠ s.pairsUsed then 0x13
  else if last < first ∨ 65536 < last - first + 1 ∨ last < cnt ∨ (arrival = false ∧ cnt < first) then 0x14
  else if (st = 3 ∧ signer ≠ 2) ∨ s.objKeysOk o = false then 0x15
  else if objSigsOk o = false then 0x16
  else if 512 ≤ leAt o 0x48 4 then 0x17
  else if 64 ≤ s.otp.coldCounter then 0x18
  else 0x10

/-- A grant object's content. -/
def grantOf (o : List Byte) : Grant :=
  { rights := dwordAt o 0x48, first := dwordAt o 0x4C, last := dwordAt o 0x50, states := byteOf (leAt o 0x54 1),
    pairs := byteOf (leAt o 0x55 1), signer := byteOf (objSigners o), digest := sha3 32 o }

/-- The hash slots of a KEY_KIND: 0 owner, 1 platform, 2 integrator program (R391). -/
def Otp.slotsOf (x : Otp) : Nat → List HashSlot
  | 0 => x.owner
  | 1 => x.platform
  | _ => x.program

/-- The verdict on an owner-key update (R391). -/
def State.checkOwnerKey (s : State) (o : List Byte) : Nat :=
  let st := s.lcs.state.toNat
  let kind := leAt o 0x48 1
  let first := kind == 0 && st == 2 && (currentHash s.otp.owner).isNone
  if objFormatOk o 3 [(0x48, 1), (0x50, 64)] = false then 0x20
  else if s.objDevice o = false then 0x21
  else if s.objChallenge o = false then 0x22
  else if s.lcs.invalid = true ∨ !((st == 2 && decide (kind ≤ 2)) || (st == 3 && kind == 0)) = true then 0x23
  else if objSigners o ≠ 2
      ∨ (if first then sha3_512 (objKey o 0) == cut o 0x50 64 else s.isOwner (objKey o 0)) = false then 0x24
  else if objSigsOk o = false then 0x25
  else if 4 ≤ (s.otp.slotsOf kind).length then 0x26
  else 0x00

/-- A hash slot of a kind is blown. -/
def Otp.addHash (x : Otp) (kind : Nat) (h : List Byte) : Otp :=
  match kind with
  | 0 => { x with owner := x.owner ++ [⟨h, true⟩] }
  | 1 => { x with platform := x.platform ++ [⟨h, true⟩] }
  | _ => { x with program := x.program ++ [⟨h, true⟩] }

/-! ### The Umpire image (R305, R306) -/

/-- CODE_LEN. -/
def fwCodeLen (i : List Byte) : Nat := leAt i 0x0C 4
/-- ENTRY. -/
def fwEntry (i : List Byte) : Nat := leAt i 0x10 4
/-- Bytes before the signature. -/
def fwBody (i : List Byte) : Nat := 0x40 + fwCodeLen i + pkLen
/-- SVN. -/
def fwSvnOf (i : List Byte) : Nat := leAt i 6 1
/-- The image proper: a slot may hold further bytes behind it. -/
def fwImage (i : List Byte) : List Byte := i.take (fwBody i + sigLen)
/-- The header is readable: MAGIC and FORMAT. -/
def fwReadable (i : List Byte) : Bool := leAt i 0 4 == 0x57464D5A && leAt i 4 2 == 1

/-- MAGIC, FORMAT, CODE_LEN and the reserved bytes. -/
def fwFormatOk (i : List Byte) : Bool :=
  let n := fwCodeLen i
  fwReadable i && decide (leAt i 7 1 < 2) && n % 16 == 0 && decide (16 ≤ n) && decide (n ≤ 3145728)
    && decide (fwEntry i < 262144) && zeroAt i 0x14 44 && decide (fwBody i + sigLen ≤ i.length)

/-- The Doloth firmware key hash that a key digest equals, not revoked. -/
def State.fwKeyUsed (s : State) (pk : List Byte) : Option Nat :=
  findFrom (fun k => Config.firmwareKeyHash k == sha3_512 pk && !s.otp.fwRevoked.getLsbD k) 2 0

/-- ENTRY lies inside CODE: three syllables in each 16 bytes (R186). -/
def fwEntryOk (i : List Byte) : Bool := decide (fwEntry i < fwCodeLen i / 16 * 3)

/-- The boot ROM's acceptance of an image: the firmware key hash used, or the failed check: 1 format, 2 key, 3 signature,
4 rollback, 5 entry. -/
def State.checkFirmware (s : State) (i : List Byte) : Except Nat Nat :=
  if fwFormatOk i = false then .error 1
  else match s.fwKeyUsed (pkAt i (fwBody i - pkLen)) with
    | none => .error 2
    | some k =>
      if sigOk i (fwBody i) = false then .error 3
      else if fwSvnOf i < s.counter 0 then .error 4
      else if fwEntryOk i = false then .error 5
      else .ok k

/-! ### The platform manifest (R311 to R314) -/

/-- Entry `k` of a manifest. -/
def manEntry (m : List Byte) (k : Nat) : Entry :=
  let o := 0xA0 + 96 * k
  { port := byteOf (leAt m o 1), group := byteOf (leAt m (o + 1) 1), mreg := byteOf (leAt m (o + 2) 1)
    counter := byteOf (leAt m (o + 3) 1), svn := byteOf (leAt m (o + 4) 1), flags := byteOf (leAt m (o + 5) 1)
    addr := dwordAt m (o + 8), altAddr := dwordAt m (o + 12), len := dwordAt m (o + 16), digest := cut m (o + 0x20) 64 }

/-- Power step `k` of a manifest. -/
def manStep (m : List Byte) (k : Nat) : PStep :=
  let o := 0x60 + 8 * k
  { pwr := byteOf (leAt m o 1), pgood := byteOf (leAt m (o + 1) 1), phase := byteOf (leAt m (o + 2) 1)
    delayMs := BitVec.ofNat 16 (leAt m (o + 4) 2), timeoutMs := BitVec.ofNat 16 (leAt m (o + 6) 2) }

/-- ENTRIES. -/
def manCount (m : List Byte) : Nat := leAt m 7 1
/-- STEPS. -/
def manSteps (m : List Byte) : Nat := leAt m 0x52 1
/-- Bytes before the signature. -/
def manBody (m : List Byte) : Nat := 0xA0 + 96 * manCount m + pkLen

/-- The manifest that an image holds. -/
def manifestOf (m : List Byte) : Manifest :=
  { svn := byteOf (leAt m 6 1), version := dwordAt m 8, flags := dwordAt m 12, minSvn := cut m 0x30 32
    hostPrst := byteOf (leAt m 0x50 1), bmcPrst := byteOf (leAt m 0x51 1)
    steps := (List.range (manSteps m)).map (manStep m), entries := (List.range (manCount m)).map (manEntry m)
    digest := sha3_512 m }

/-- FLAGS.COMMIT. -/
def Manifest.commit (m : Manifest) : Bool := bit m.flags 0
/-- FLAGS.HOST_AFTER_BMC. -/
def Manifest.hostAfterBmc (m : Manifest) : Bool := bit m.flags 1
/-- FLAGS.HOLD_BOTH. -/
def Manifest.holdBoth (m : Manifest) : Bool := bit m.flags 2
/-- REQUIRED. -/
def Entry.required (e : Entry) : Bool := e.flags.getLsbD 0
/-- ALT. -/
def Entry.alt (e : Entry) : Bool := e.flags.getLsbD 1

/-- The PRST_OUT bits of a group, 0 host and 1 BMC. -/
def Manifest.mask (m : Manifest) (g : Nat) : BitVec 8 := if g = 0 then m.hostPrst else m.bmcPrst

/-- Reserved fields of an entry. -/
def entryFormatOk (m : List Byte) (k : Nat) : Bool :=
  let o := 0xA0 + 96 * k
  let e := manEntry m k
  decide (e.flags.toNat < 4) && zeroAt m (o + 6) 2 && zeroAt m (o + 0x14) 12 && (e.alt || e.altAddr == 0)

/-- FORMAT of R314; `magic` is that of a manifest or of the golden manifest (R358). -/
def manFormatOk (m : List Byte) (magic : Nat) : Bool :=
  leAt m 0 4 == magic && leAt m 4 2 == 1 && decide (1 ≤ manCount m) && decide (manCount m ≤ 32) && decide (manSteps m ≤ 8)
    && m.length == manBody m + sigLen && decide (leAt m 12 4 < 8) && zeroAt m 0x30 2 && zeroAt m 0x53 13
    && zeroAt m (0x60 + 8 * manSteps m) (64 - 8 * manSteps m)
    && (List.range (manSteps m)).all (fun k => zeroAt m (0x63 + 8 * k) 1)
    && (List.range (manCount m)).all (entryFormatOk m)

/-- CONTENT of R314 for one entry. -/
def entryContentOk (x : Manifest) (e : Entry) : Bool :=
  let c := e.counter.toNat
  decide (16 ≤ e.mreg.toNat) && decide (e.mreg.toNat ≤ 31) && (c == 255 || (decide (2 ≤ c) && decide (c ≤ 29)))
    && decide (e.port.toNat < 2) && decide (e.group.toNat < 2) && decide (1 ≤ e.len.toNat)
    && decide (e.len.toNat ≤ 268435456) && x.mask e.group.toNat != 0
    && x.entries.all fun f => f.group == e.group || f.mreg != e.mreg

/-- CONTENT of R314. -/
def manContentOk (x : Manifest) : Bool :=
  x.entries.all (entryContentOk x) && x.hostPrst &&& x.bmcPrst == 0
    && x.steps.all (fun t => decide (t.phase.toNat ≤ 2)) && decide ((x.steps.map (·.pwr)).Nodup)

/-- The platform key hash is programmed and a key digest equals it. -/
def State.isPlatform (s : State) (pk : List Byte) : Bool := currentHash s.otp.platform == some (sha3_512 pk)

/-- The verdict on a manifest (R314, R358). -/
def State.checkManifest (s : State) (m : List Byte) (golden : Bool) : Nat :=
  let x := manifestOf m
  if manFormatOk m (if golden then 0x474D505A else 0x464D505A) = false then 0x01
  else if zeroAt m 0x10 32 = false ∧ cut m 0x10 32 ≠ s.deviceId then 0x02
  else if s.isPlatform (pkAt m (manBody m - pkLen)) = false then 0x03
  else if sigOk m (manBody m) = false then 0x04
  else if x.svn.toNat < s.counter 1
      ∨ (x.entries.any fun e => e.counter != 255 && decide (e.svn.toNat < s.counter e.counter.toNat)) = true then 0x05
  else if manContentOk x = false ∨ (golden = true ∧ x.commit = true) then 0x06
  else 0x00

/-! ### The gate policy (R332 to R334) -/

/-- RULES. -/
def polCount (p : List Byte) : Nat := leAt p 6 1
/-- Bytes before the signature. -/
def polBody (p : List Byte) : Nat := 0x60 + 16 * polCount p + pkLen

/-- Rule `k` of a policy. -/
def polRule (p : List Byte) (k : Nat) : Rule :=
  let o := 0x60 + 16 * k
  { d0 := dwordAt p o, base := dwordAt p (o + 4), limit := dwordAt p (o + 8), delta := dwordAt p (o + 12) }

/-- The rules of a policy. -/
def polRules (p : List Byte) : List Rule := (List.range (polCount p)).map (polRule p)

/-- U0_PROFILE or U1_PROFILE. -/
def polProfile (p : List Byte) (u1 : Bool) : Nat := leAt p (if u1 then 0x0D else 0x0C) 1

/-- FORMAT of R334. -/
def polFormatOk (p : List Byte) : Bool :=
  let ok := fun (u : Bool) => decide (1 ≤ polProfile p u) && decide (polProfile p u ≤ 4)
  leAt p 0 4 == 0x5046475A && leAt p 4 2 == 1 && decide (polCount p ≤ 224) && zeroAt p 7 1 && ok false && ok true
    && zeroAt p 0x0E 2 && zeroAt p 0x50 16 && p.length == polBody p + sigLen

/-- A rule keeps R329 on a part of a density. -/
def ruleOk (r : Rule) (density : Nat) : Bool :=
  let lo := r.base.toNat
  let hi := r.limit.toNat
  let d := r.delta.toInt
  r.d0 &&& 0x0000FF78#32 == 0 && r.d0 &&& 0xFE240000#32 == 0 && lo % 4096 == 0 && hi % 4096 == 4095 && decide (lo ≤ hi)
    && decide (hi < density)
    && (if r.action = 2 then decide (0 ≤ (lo : Int) + d) && decide ((hi : Int) + d < density) else r.delta == 0)

/-- The number of rules that a manifest generates (R332). -/
def Manifest.ruleCount (m : Manifest) : Nat := m.entries.foldl (fun n e => n + (if e.alt then 3 else 2)) 0

/-- The verdict on a policy that accompanies a manifest (R334). -/
def State.checkPolicy (s : State) (m : Manifest) (p : List Byte) : Nat :=
  if polFormatOk p = false then 1
  else if s.isPlatform (pkAt p (polBody p - pkLen)) = false then 2
  else if sigOk p (polBody p) = false then 3
  else if cut p 0x10 64 ≠ m.digest then 4
  else if ((polRules p).all fun r => ruleOk r (s.fgt.port r.portU1).density) = false then 5
  else if 256 < m.ruleCount + polCount p then 6
  else if s.fgt.u0.modes.getLsbD (polProfile p false) = false ∨ s.fgt.u1.modes.getLsbD (polProfile p true) = false then 8
  else 0

end Sys2Proof.Machine
end

