-- ==== Sys2Proof/Machine/SpdmFrame.lean ====
section
/-!
DEFINITION. SPDM messages on the three transports (R347 to R349): framing, errors, large responses, and signed responses that wait
for the identity keys (R299, R355).
-/

namespace Sys2Proof.Machine

/-- The number of a transport: DOE, MCTP over VDM, MCTP over I3C or SMBus. -/
def tIndex : Transport → Nat
  | .doe => 0
  | .vdm => 1
  | .i3c => 2

/-- What SPDM holds of a transport. -/
def State.spdmOf (s : State) (t : Transport) : Spdm := s.spdm.get {} (tIndex t)

/-- `s` with that changed. -/
def State.modSpdm (s : State) (t : Transport) (f : Spdm → Spdm) : State :=
  s.onSpdm fun m => m.set {} (tIndex t) (f (m.get {} (tIndex t)))

/-- DataTransferSize of a transport (R349). -/
def transferSize : Transport → Nat
  | .doe => 65536
  | _ => 4096

/-- A response message: version, code, two parameters, payload. -/
def State.spdmMsg (s : State) (t : Transport) (code p1 p2 : Nat) (data : List Byte) : List Byte :=
  let v := (s.spdmOf t).version
  [if v = 0 then 0x10 else v, byteOf code, byteOf p1, byteOf p2] ++ data

/-- An ERROR response. -/
def State.spdmError (s : State) (t : Transport) (code data : Nat) (ext : List Byte) : State :=
  s.emit (.spdm (tIndex t) (s.spdmMsg t 0x7F code data ext))

/-- A message is sent, or, where it exceeds DataTransferSize, kept for CHUNK_GET (R348). -/
def State.spdmSend (s : State) (t : Transport) (m : List Byte) : State :=
  if m.length ≤ transferSize t then s.emit (.spdm (tIndex t) m)
  else
    let h := (s.spdmOf t).nextHandle
    ((s.modSpdm t fun x => { x with large := some (h, m), nextHandle := x.nextHandle + 1 }).spdmError t 0x0F 0 [h])

/-- A response. -/
def State.spdmAnswer (s : State) (t : Transport) (code p1 p2 : Nat) (data : List Byte) : State :=
  s.spdmSend t (s.spdmMsg t code p1 p2 data)

/-- A signed response: while slots 1 to 5 are absent the signature waits, and the response with it (R299, R355). -/
def State.signedAnswer (s : State) (t : Transport) (code p1 p2 : Nat) (data : List Byte) : State :=
  if s.chip.accReset then s.modSpdm t fun x => { x with held := x.held ++ [s.spdmMsg t code p1 p2 data] }
  else s.spdmAnswer t code p1 p2 data

/-- The signed responses that waited are sent: the keys are present again (R299, R355). -/
def State.sendHeld (s : State) : State :=
  let s1 := (s.ump.held.foldl State.emit s).onUmp fun u => { u with held := [] }
  ([.doe, .vdm, .i3c] : List Transport).foldl (fun s t =>
    (s.spdmOf t).held.foldl (fun s m => s.spdmSend t m) (s.modSpdm t fun x => { x with held := [] })) s1

end Sys2Proof.Machine
end

