-- ==== Sys2Proof/Machine/Boot.lean ====
section
/-!
DEFINITION. Starts of the root-of-trust domain and secure boot (R20 to R22, R301 to R320): loss and return of power, the
boot ROM, manifest and policy, power steps, verification, release, failures and the start of recovery.
-/

namespace Sys2Proof.Machine

/-! ### Groups, 0 host and 1 BMC -/

/-- A group's progress. -/
def State.grp (s : State) (g : Nat) : GroupState := if g = 0 then s.psq.host else s.psq.bmc

/-- `s` with a group's progress set. -/
def State.setGrp (s : State) (g : Nat) (x : GroupState) : State :=
  s.onPsq fun p => if g = 0 then { p with host := x } else { p with bmc := x }

/-- The manifest in effect for a group. -/
def State.manOf (s : State) (g : Nat) : Option Manifest :=
  match s.psq.gman.get none g with
  | some m => some m
  | none => s.psq.manifest

/-- The key of an entry of a group. -/
def entKey (g i : Nat) : Nat := g * 32 + i

/-- The entries of a group with their keys. -/
def State.groupEntries (s : State) (g : Nat) : List (Nat × Entry) :=
  match s.manOf g with
  | none => []
  | some m => ((List.range m.entries.length).zip m.entries).filterMap fun x =>
      if x.2.group.toNat = g then some (entKey g x.1, x.2) else none

/-- The outcome of an entry so far. -/
def State.entState (s : State) (k : Nat) : EntryState := s.psq.entries.get .untried k

/-- The entries of a group are to be tried anew. -/
def State.forgetEntries (s : State) (g : Nat) : State :=
  s.onPsq fun p => { p with entries := p.entries.filter fun kv => kv.1 / 32 != g
                            verifying := match p.verifying with
                              | some (k, b) => if k / 32 = g then none else some (k, b)
                              | none => none }

/-- PRST_OUT bits of a group fall, and the Umpire clears its port's enable (R324, R338). -/
def State.dropGroup (s : State) (g : Nat) : State :=
  let m : BitVec 8 := match s.manOf g with
    | some m => m.mask g
    | none => 0
  let s1 := s.onPsq fun p => { p with prst := p.prst &&& ~~~m }
  if s.ump.running then s1.modPort (g == 1) fun u => { u with en := false, enDeferred := false } else s1

/-- A verdict is shown in PSQ_VERDICT and logged with its code; ENTRY is that of the last failure of an entry (R319, R321). -/
def State.verdict (s : State) (code entry : Nat) : State :=
  (s.onPsq fun p =>
    { p with code := BitVec.ofNat 8 code
             entry := if 0x10 ≤ code ∧ code ≤ 0x12 then BitVec.ofNat 5 entry else p.entry }).logEvent 0x15 code 0 entry

/-- A phase's steps: index and step. -/
def Manifest.phaseSteps (m : Manifest) (ph : Nat) : List (Nat × PStep) :=
  ((List.range m.steps.length).zip m.steps).filter fun x => x.2.phase.toNat == ph

/-- The manifest whose power steps a phase runs. -/
def State.phaseMan (s : State) (ph : Nat) : Option Manifest := if ph = 0 then s.psq.manifest else s.manOf (ph - 1)

/-- The steps of a phase are turned off: their PWR_EN pins low, the inputs no longer armed (R319). -/
def State.phaseOff (s : State) (ph : Nat) : State :=
  match s.phaseMan ph with
  | none => s
  | some m =>
    s.onPsq fun p =>
      { p with pwr := (m.phaseSteps ph).foldl (fun (w : BitVec 8) x => w &&& ~~~(1#8 <<< x.2.pwr.toNat)) p.pwr
               watch := (m.phaseSteps ph).foldl (fun (w : BitVec 8) x => w &&& ~~~(1#8 <<< x.2.pgood.toNat)) p.watch
               stepAt := p.stepAt.set none ph none, phaseDone := p.phaseDone &&& ~~~(1#3 <<< ph) }

/-! ### Power steps (R313) -/

/-- The steps of a phase from a list on run until one waits; `fuel` bounds their number. -/
def State.runSteps (s : State) (ph : Nat) : List (Nat × PStep) → State
  | [] => s.onPsq fun p => { p with stepAt := p.stepAt.set none ph none, phaseDone := p.phaseDone ||| (1#3 <<< ph) }
  | x :: r =>
    let s1 := s.onPsq fun p => { p with pwr := p.pwr ||| (1#8 <<< x.2.pwr.toNat) }
    let pg := x.2.pgood.toNat
    if pg ≠ 255 ∧ s.psq.level.getLsbD pg = false then
      s1.onPsq fun p => { p with stepAt := p.stepAt.set none ph (some (x.1, false)) }
    else
      let s2 := if pg = 255 then s1 else s1.onPsq fun p => { p with watch := p.watch ||| (1#8 <<< pg) }
      if x.2.delayMs = 0 then s2.runSteps ph r
      else s2.onPsq fun p => { p with stepAt := p.stepAt.set none ph (some (x.1, true)) }

/-- A phase starts with its first step. -/
def State.startPhase (s : State) (ph : Nat) : State :=
  match s.phaseMan ph with
  | none => s
  | some m => s.runSteps ph (m.phaseSteps ph)

/-- A phase goes on after step `i`. -/
def State.resumePhase (s : State) (ph i : Nat) : State :=
  match s.phaseMan ph with
  | none => s
  | some m => s.runSteps ph ((m.phaseSteps ph).filter fun x => decide (i < x.1))

/-! ### Verification of one entry (R316) -/

/-- The copy of an entry is read through the direct port of quad 0 (R245, R316): SHA3-512, nothing extended by the port, in
the one cell that R142 allows. -/
def State.readCopy (s : State) (k : Nat) (e : Entry) (b : Bool) : State :=
  ((s.onPsq fun p => { p with verifying := some (k, b) }).modQuad 0 fun x =>
    { x with dirAlg := 0x13, dirMreg := 0, dirExtend := false, dirXof := 0, dirBusy := true, dirDone := false
             dirError := false, dirCode := 0, dirOut := [], dirPort := if e.port = 0 then 1 else 2
             dirFaddr := if b then e.altAddr else e.addr, dirLen := e.len.setWidth 64, direct := 0 }).giveDirect

/-- A group's entries may be read now: it is held and not waiting for a retry, its recovery attempt has its images, or it
runs on after watchdog step 2 (R316, R319, R320, R359). -/
def State.readable (s : State) (g : Nat) : Bool :=
  !s.psq.retryTimer.getLsbD g && !s.psq.retryTimer.getLsbD 2 &&
    match s.grp g with
    | .held => true
    | .released => s.psq.afterStep2
    | .off => false
    | .recovery =>
      match s.psq.recover.get none g with
      | some r => r.src == 1 || (s.groupEntries g).all fun x => r.written.contains (x.1 % 32)
      | none => false

/-- The next entry to verify: the lowest index among the entries still to be tried (R316). -/
def State.nextEntry (s : State) : Option (Nat × Entry) :=
  let todo := ([0, 1] : List Nat).flatMap fun g =>
    if s.readable g then (s.groupEntries g).filter fun x => s.entState x.1 == .untried else []
  todo.foldl (fun best x => match best with
    | none => some x
    | some y => if x.1 % 32 < y.1 % 32 then some x else some y) none

/-- Every entry of a group has been tried. -/
def State.allTried (s : State) (g : Nat) : Bool :=
  (s.groupEntries g).all fun x => s.entState x.1 == .copyA || s.entState x.1 == .copyB || s.entState x.1 == .failed

/-- Every REQUIRED entry of a group has been verified (R318). -/
def State.requiredOk (s : State) (g : Nat) : Bool :=
  (s.groupEntries g).all fun x => s.entState x.1 == .copyA || s.entState x.1 == .copyB || !x.2.required

/-- A group is named by its manifest: it has pins or entries. -/
def State.named (s : State) (g : Nat) : Bool :=
  match s.manOf g with
  | some m => m.mask g != 0 || m.entries.any fun e => e.group.toNat == g
  | none => false

/-! ### Rules of the flash gate (R332, R334) -/

/-- A rule of a port: ACTION, CLASS, range, DELTA, VALID set. -/
def mkRule (port : BitVec 8) (action cls lo hi : Nat) (delta : W32) : Rule :=
  { d0 := BitVec.ofNat 32 (action + 4 * (port.toNat % 2) + 128 + 65536 * cls), base := BitVec.ofNat 32 lo
    limit := BitVec.ofNat 32 hi, delta := delta }

/-- The 4 KiB blocks that `n` bytes at an address touch: first and last byte. -/
def blocksOf (a n : Nat) : Nat × Nat := (a / 4096 * 4096, (a + n - 1) / 4096 * 4096 + 4095)

/-- The generated rules of an entry (R332). -/
def genRules (e : Entry) (st : EntryState) : List Rule :=
  let a := blocksOf e.addr.toNat e.len.toNat
  let b := blocksOf e.altAddr.toNat e.len.toNat
  let first := match st with
    | .copyA => mkRule e.port 0 0x0001 a.1 a.2 0
    | .copyB => mkRule e.port 2 0x0001 a.1 a.2 (e.altAddr - e.addr)
    | _ => mkRule e.port 1 0x0001 a.1 a.2 0
  let second := mkRule e.port 1 0x0018 a.1 a.2 0
  let third := mkRule e.port 1 0x0019 b.1 b.2 0
  if e.alt then [first, second, third] else [first, second]

/-- The policy rules of a group's port, or the default read-only rule over the whole part (R334). -/
def State.portRules (s : State) (g : Nat) : List Rule :=
  match s.psq.policy.get none g with
  | some p => p.rules.filter fun r => r.portU1 == (g == 1)
  | none => [mkRule (BitVec.ofNat 8 g) 0 0x0003 0 ((s.fgt.port (g == 1)).density - 1) 0]

/-- Group `h`'s rules stand generated: it is being loaded, or it runs with its entries verified. -/
def State.hasRules (s : State) (g h : Nat) : Bool := h == g || (s.grp h == .released && s.requiredOk h)

/-- The bank for a release of group `g`: generated rules first, then policy rules; a group that runs on latched rules keeps
the live rules of its port (R320, R332). -/
def State.bankFor (s : State) (g : Nat) : List Rule :=
  let gs : List Nat := [0, 1]
  let gen := (gs.filter (s.hasRules g)).flatMap fun h =>
    (s.groupEntries h).flatMap fun x => genRules x.2 (s.entState x.1)
  let pol := (gs.filter (s.hasRules g)).flatMap s.portRules
  let old := (gs.filter fun h => s.grp h == .released && !s.hasRules g h).flatMap fun h =>
    (s.fgt.live.filter fun kv => kv.2.portU1 == (h == 1)).map (·.2)
  gen ++ pol ++ old

/-- A list of rules as a bank, from index 0. -/
def ruleBank (l : List Rule) : SMap Rule := (List.range l.length).foldl (fun m k => m.set {} k (l.getD k {})) []

/-- The profile of a group's port: the policy's, or 3 (R334). -/
def State.profileOf (s : State) (g : Nat) : BitVec 8 :=
  match s.psq.policy.get none g with
  | some p => if g = 1 then p.u1 else p.u0
  | none => 3

/-- The Umpire writes the rules into the shadow bank and swaps (R318 step 4, R335). -/
def State.loadRules (s : State) (g : Nat) : State :=
  let bank := ruleBank (s.bankFor g)
  let s1 := s.onFgt fun f => { f with shadow := bank }
  let s2 := s1.modPort (g == 1) fun u => { u with profile := s.profileOf g }
  if s.fgt.frozen then s2 else s2.swapBanks

/-! ### Release (R318) -/

/-- The flash part of a group's port serves the profile (R326). -/
def State.partOk (s : State) (g : Nat) : Bool :=
  let u := s.fgt.port (g == 1)
  !u.sfdp.isEmpty && u.modes.getLsbD (s.profileOf g).toNat

/-- Microseconds since power-good. -/
def State.sincePowerGood (s : State) : W32 := BitVec.ofNat 32 ((s.now - s.psq.t0) * 1000000 / second)

/-- HOST_AFTER_BMC and HOLD_BOTH let a group go (R311, R318). -/
def State.mayGo (s : State) (g : Nat) : Bool :=
  match s.manOf g with
  | none => false
  | some m =>
    let o := s.grp (1 - g)
    (!(g == 0 && m.hostAfterBmc) || o == .released) && (!m.holdBoth || (o != .recovery && o != .off))

/-- A manifest goes to D2 slot B or A, and a policy, if one came, to the policy slot not in use (R337, R359). -/
def State.putManifest (s : State) (b : Bool) (man pol : List Byte) : State :=
  let pb := !(s.fgt.policyValid && s.fgt.policySlot)
  s.onStore fun x =>
    { x with manA := if b then x.manA else man, manB := if b then man else x.manB
             polA := if pb || pol.isEmpty then x.polA else pol, polB := if pb && !pol.isEmpty then pol else x.polB }

/-- What a finished recovery leaves: the D2 slots not in use and the preferred bit (R359), and its code (R361). -/
def State.endRecovery (s : State) (g : Nat) : State :=
  match s.psq.recover.get none g with
  | none => s
  | some r =>
    let s1 := s.onPsq fun p => { p with recover := p.recover.set none g none, source := p.source.set 0 g r.src }
    if r.src = 1 then s1.verdict 0x30 g
    else
      let b := !s.psq.manSlotB
      let s2 := s1.putManifest b r.manRaw r.polRaw
      (s2.onAod fun a => { a with prefManifestB := b }).verdict (if r.src = 2 then 0x31 else 0x32) g

/-- Every group named has been released since this start (R309). -/
def State.noteFull (s : State) : State :=
  if s.psq.fullRelease.isNone = true ∧ (([0, 1] : List Nat).all fun g => !s.named g || s.grp g == .released) = true then
    s.onPsq fun p => { p with fullRelease := some s.now }
  else s

/-- The group's rules are loaded, its port answers, and its PRST_OUT bits rise together. -/
def State.releaseGroup (s : State) (g : Nat) : State :=
  let m : BitVec 8 := match s.manOf g with
    | some m => m.mask g
    | none => 0
  let s1 := (s.endRecovery g).loadRules g
  let s2 := s1.modPort (g == 1) fun u => u.enable true
  let s3 := (s2.setGrp g .released).onPsq fun p =>
    { p with prst := p.prst ||| m, retried := p.retried &&& ~~~(1#3 <<< (g + 1))
             tHost := if g = 0 then s.sincePowerGood else p.tHost
             tBmc := if g = 1 then s.sincePowerGood else p.tBmc }
  (s3.setBit .psq 11).noteFull

/-- A group meets every condition of R318. -/
def State.releasable (s : State) (g : Nat) : Bool :=
  s.umpUp && s.named g && (s.grp g == .held || s.grp g == .recovery) && s.readable g
    && s.allTried g && s.requiredOk g && s.psq.phaseDone.getLsbD (g + 1) && s.mayGo g

/-- A group is released if it may be; an unsuitable flash part holds it (R326). -/
def State.tryRelease (s : State) (g : Nat) : State :=
  if s.releasable g = false then s
  else if s.partOk g then s.releaseGroup g
  else (s.setGrp g .off).verdict 0x13 g

/-- A group's phase starts once its entries are verified (R313). -/
def State.tryPhase (s : State) (g : Nat) : State :=
  if (s.grp g == .held || s.grp g == .recovery) && s.named g && s.readable g && s.allTried g && s.requiredOk g
      && !s.psq.phaseDone.getLsbD (g + 1) && (s.psq.stepAt.get none (g + 1)).isNone then s.startPhase (g + 1)
  else s

/-- After watchdog step 2: with every entry tried, the normal rules return, or the latched rules stay with BOOT_MISMATCH
(R320). -/
def State.afterStep2Done (s : State) : State :=
  let gs : List Nat := ([0, 1] : List Nat).filter fun g => s.grp g == .released
  if s.psq.afterStep2 = false ∨ (gs.all s.allTried) = false then s
  else
    let ok := gs.all fun g => (s.groupEntries g).all fun x => s.entState x.1 != .failed
    let s1 := s.onPsq fun p => { p with afterStep2 := false }
    if ok then
      match gs with
      | [] => s1
      | g :: _ => s1.loadRules g
    else s1.setBit .psq 12

/-- The Umpire goes on wherever it can: the next entry, the power phases, the releases. -/
def State.progress (s : State) : State :=
  if s.ump.running = false ∨ s.scrapped = true then s
  else
    let s1 := match s.psq.verifying, s.nextEntry with
      | none, some x => s.readCopy x.1 x.2 false
      | _, _ => s
    let s2 := (s1.tryPhase 0).tryPhase 1
    ((s2.tryRelease 1).tryRelease 0).afterStep2Done

/-! ### Recovery (R356 to R358) -/

/-- The recovery of a group waits for a source of R357 steps 2 and 3. -/
def State.waitSource (s : State) (g code : Nat) : State :=
  ((s.onPsq fun p => { p with recover := p.recover.set none g none }).setBit .psq 10).verdict code g

/-- The golden manifest is tried for a group (R358). -/
def State.tryGolden (s : State) (g : Nat) : State :=
  let m := manifestOf s.store.golden
  if s.checkManifest s.store.golden true = 0 ∧ (m.entries.any fun e => e.group.toNat == g) = true then
    let s1 := s.onPsq fun p =>
      { p with gman := p.gman.set none g (some m), policy := p.policy.set none g none
               recover := p.recover.set none g (some { src := 1, man := some m }) }
    (s1.forgetEntries g).extendReg 5 m.digest
  else s.waitSource g 0x38

/-- Recovery of a group begins: its resets stay low (R356). `src`: 0 every source in the order of R357; 4 the golden manifest,
then a card; 1, 2 or 3 the source a request names. -/
def State.startRecovery (s : State) (g src : Nat) : State :=
  let s1 := ((s.dropGroup g).setGrp g .recovery).onPsq fun p =>
    { p with fullRelease := none, recover := p.recover.set none g none, only := p.only.set 0 g (if src = 4 then 3 else src) }
  if src = 0 ∨ src = 1 ∨ src = 4 then s1.tryGolden g else s1

/-- HOLD_BOTH: the other group is held too, and verified again before it is released (R311, R319). -/
def State.holdOther (s : State) (g : Nat) : State :=
  match s.manOf g with
  | some m =>
    if m.holdBoth = true ∧ s.grp (1 - g) = .released then
      ((s.dropGroup (1 - g)).setGrp (1 - g) .held).forgetEntries (1 - g)
    else s
  | none => s

/-- A REQUIRED entry of a group has failed (R319, R356). -/
def State.groupFail (s : State) (g : Nat) : State :=
  if s.grp g = .released then s
  else
    let s1 := (s.phaseOff (g + 1)).holdOther g
    if (s1.psq.recover.get none g).isSome then
      let code := match s1.psq.recover.get none g with
        | some r => if r.src = 1 then 0x38 else 0x39
        | none => 0x39
      s1.waitSource g code
    else s1.startRecovery g 0

/-! ### The end of one copy's verification (R316, R319) -/

/-- A copy matches: its register is extended before the next entry starts. -/
def State.entryOk (s : State) (k : Nat) (e : Entry) (b : Bool) : State :=
  let s1 := s.onPsq fun p => { p with verifying := none, entries := p.entries.set .untried k (if b then .copyB else .copyA) }
  (s1.extendReg e.mreg.toNat e.digest).progress

/-- An entry has failed with a code. -/
def State.entryFail (s : State) (k : Nat) (e : Entry) (code : Nat) : State :=
  let s1 := s.onPsq fun p => { p with verifying := none, entries := p.entries.set .untried k .failed }
  let s2 := (s1.setBit .psq 10).verdict code (k % 32)
  (if e.required then s2.groupFail (k / 32) else s2).progress

/-- The entry whose copy is being verified. -/
def State.verEntry (s : State) (k : Nat) : Option Entry := (s.groupEntries (k / 32)).findSome? fun x =>
  if x.1 = k then some x.2 else none

/-- The Umpire takes the result of the direct job for the copy being verified. -/
def State.entryDone (s : State) : State :=
  match s.psq.verifying with
  | none => s
  | some (k, b) =>
    match s.verEntry k with
    | none => s.onPsq fun p => { p with verifying := none }
    | some e =>
      let q := s.quad 0
      if q.dirError then s.entryFail k e 0x12
      else if padTo 64 q.dirOut = e.digest then s.entryOk k e b
      else if b = false ∧ e.alt = true then
        (((s.setBit .psq 10).verdict 0x10 (k % 32))).readCopy k e true
      else s.entryFail k e 0x11

/-- DIRECT_DONE (R246, R316): the job ends; a verification that waits for it goes on. -/
def execDirectDone (r : Nat) (flash : Option (List Byte)) (s : State) : Out :=
  if (s.quad r).dirBusy = true ∧ r = 0 ∧ s.ump.running = true then .next (s.directEnd r flash).entryDone
  else .next (s.directEnd r flash)

/-- ACC_RESET_COMPLETE (R285, R287, R221, R404, R317): roots re-derived, weights, quotas and programs back in their places,
the tamper quarantine reloaded, ACC_READY 1; a verification that the reset ended begins again. The Umpire must run; a
scrapped device and ROM recovery admit nothing (R307, R380). A wipe whose read-back failed in the ledger, the context
cache or the Marshal leaves ACC_READY 0 and is reported as fatal (R463). -/
def execAccResetComplete (readBackOk : Bool) (s : State) : Out :=
  s.powered fun s =>
  if s.chip.accReset = false ∨ s.ump.running = false ∨ s.scrapped = true then .next s
  else if readBackOk then
    let s1 := s.reloadPrograms.deriveRoots.tamperQuarantine
    let s2 := s1.onPcie fun p => { p with crs := false }
    let s3 := (s2.modChip fun c => { c with accReady := true, accReset := false, resetByUmpire := false }).sendHeld
    match s.psq.verifying with
    | some (k, b) => match s.verEntry k, (s.quad 0).dirBusy with
      | some e, false => .next (s3.readCopy k e b)
      | _, _ => .next s3
    | none => .next s3
  else .next ((s.reportAer 0 .uncorrectableInternal true).emit .errFatal)

/-! ### Manifest and policy at a start or a group reset (R314, R333, R334) -/

/-- The slots in the order in which they are tried: the preferred one first; on a cold AOD the one whose header has the larger
SVN, then VERSION (R306, R314). True names slot B. -/
def slotOrder (cold prefB : Bool) (a b : Option (Nat × Nat)) : List Bool :=
  let first := if cold then
      match a, b with
      | _, none => false
      | none, some _ => true
      | some x, some y => decide (x.1 < y.1) || (x.1 == y.1 && decide (x.2 < y.2))
    else prefB
  [first, !first]

/-- SVN and VERSION of a header whose MAGIC and FORMAT read right. -/
def headerOf (i : List Byte) (magic : Nat) : Option (Nat × Nat) :=
  if leAt i 0 4 = magic ∧ leAt i 4 2 = 1 then some (leAt i 6 1, leAt i 8 4) else none

/-- A manifest slot's bytes. -/
def State.manSlot (s : State) (b : Bool) : List Byte := if b then s.store.manB else s.store.manA

/-- The policy an image holds. -/
def policyOf (p : List Byte) : Policy :=
  { u0 := byteOf (polProfile p false), u1 := byteOf (polProfile p true), rules := polRules p }

/-- The policy slots are checked, A then B; register 6 is extended (R333, R334). The result is for the groups of `gs`. -/
def State.takePolicy (s : State) (m : Manifest) (gs : List Nat) : State :=
  let pick := fun (b : Bool) =>
    let raw := if b then s.store.polB else s.store.polA
    if raw.isEmpty then (7, raw) else (s.checkPolicy m raw, raw)
  let a := pick false
  let b := pick true
  let set := fun (s : State) (x : Option Policy) => s.onPsq fun p =>
    { p with policy := gs.foldl (fun m g => m.set none g x) p.policy }
  let good := fun (raw : List Byte) (slot : Bool) =>
    ((set s (some (policyOf raw))).onFgt fun f =>
      { f with policyValid := true, policySlot := slot, policyCode := 0 }).extendReg 6 (sha3_512 raw)
  if a.1 = 0 then good a.2 false
  else if b.1 = 0 then good b.2 true
  else
    let code := if b.1 = 7 then a.1 else b.1
    ((((set s none).onFgt fun f => { f with policyValid := false, policyCode := BitVec.ofNat 4 code }).setBit .fgt
      14).extendReg 6 (List.replicate 64 0))

/-- The first slot of `order` whose manifest is accepted, the failures shown on the way. -/
def State.findManifest (s : State) : List Bool → State × Option (Bool × Manifest)
  | [] => (s, none)
  | b :: r =>
    let c := s.checkManifest (s.manSlot b) false
    if c = 0 then (s.verdict 0 0, some (b, manifestOf (s.manSlot b)))
    else ((s.setBit .psq 10).verdict c 0).findManifest r

/-- The Umpire chooses a manifest at a start; `cold`: the AOD was cold. -/
def State.takeManifest (s : State) (cold : Bool) : State :=
  let order := slotOrder cold s.aod.prefManifestB (headerOf s.store.manA 0x464D505A) (headerOf s.store.manB 0x464D505A)
  match s.findManifest order with
  | (s1, some (b, m)) =>
    let s2 := s1.onPsq fun p => { p with manifest := some m, manSlotB := b }
    ((((s2.extendReg 5 m.digest).takePolicy m [0, 1])).startPhase 0).progress
  | (s1, none) =>
    let s2 := if s1.psq.afterStep2 then (s1.onPsq fun p => { p with afterStep2 := false }).setBit .psq 12 else s1
    (([0, 1] : List Nat).foldl (fun s g => if s.grp g = .released then s else s.startRecovery g 4) s2).progress

/-! ### The boot ROM (R304 to R307, R315, R381, R383, R392, R394) -/

/-- The AOD at a start (R383, R413): found lost, it begins anew; the boot count advances. The flag says that it was cold. -/
def State.aodStart (s : State) : State × Bool :=
  if s.aod.lost then
    let s0 := (s.onHdrs fun m => m.filter fun kv => !aodKey kv.1).onMirrors (·.filter fun kv => kv.1 != 2)
    let s1 := s0.onAod fun _ => { lost := false, onCell := false, bootLow := 1 }
    let s2 := s1.onOtp fun o => { o with coldCounter := min 64 (o.coldCounter + 1) }
    ((s2.logTamper { (s2.newRec 0x12 16 0 0 0 0) with flags := 16, index := Config.free 16 s2.freeCtr }).spend 1, true)
  else
    (s.onAod fun a => { a with onCell := false, bootLow := BitVec.ofNat 24 (satAdd a.bootLow.toNat 1 0xFFFFFF) }, false)

/-- The OTP monitor configuration in effect (R406): the last valid slot, or the defaults. -/
def State.tmpStart (s : State) : Tmp :=
  let base : Tmp := match (s.otp.mon.filter (·.valid)).getLast? with
    | some c => { cls := c.cls, region := c.region }
    | none => {}
  { base with tamperLow := s.aod.pending, holdMin := s.aod.pending, timeApprox := !s.aod.xtalRunning }

/-- The root-of-trust domain at its reset values (R20, R22). `power`: main power returned. `keep`: watchdog step 2, which
leaves the platform's pins, the group states and the latched gate. Pages of the always-on domain, and the mirror that is of its
type, are kept (R56). -/
def State.rootReset (s : State) (power keep : Bool) : State :=
  let s0 := (s.onHdrs fun m => m.filter fun kv => accelKey kv.1 || aodKey kv.1).onMirrors (·.filter fun kv => kv.1 == 2)
  let s1 := s0.onMeas fun m => m.filter fun kv => !decide (kv.1 < 32)
  let s2 := s1.onUmp fun u => { events := u.eventCopy, eventCopy := u.eventCopy }
  let s3 := (s2.onRng fun _ => {}).onWdg fun w =>
    { consec := if power then 0 else w.consec, clkRc := !s.aod.xtalRunning, xtalOk := s.aod.xtalRunning }
  let s4 := ((s3.onCci fun c => { det := c.det }).onSessions fun _ => []).onSpdm fun _ => []
  let s5 := ((s4.onPldm fun _ => {}).onMon fun _ => {}).onDbg fun _ => {}
  let s6 := ((s5.onBst fun _ => {}).onTmp fun _ => s.tmpStart).onErg fun e => { hours := e.hours, t0 := e.t0 }
  let s7 := ((s6.onProgs fun _ => []).onKlg fun _ => {}).onLcs fun l => { state := l.state, trans := l.trans }
  let part := fun (u : UPort) => ({ u with en := false, enDeferred := false, held := false, addr4 := false, profile := 3, umpireOp := false } : UPort)
  let s8 := if keep then
      s7.latchGate.onFgt fun f => { f with shadow := [], log := [], lost := 0, deny0 := 0, deny1 := 0, unknown := 0, swapPending := false
                                           u0 := { f.u0 with held := false }, u1 := { f.u1 with held := false }
                                           policyValid := false, policySlot := false, policyCode := 7
                                           ruleSel := 0, ruleLive := false }
    else s7.onFgt fun f => { u0 := part f.u0, u1 := part f.u1 }
  let s9 := if keep then s8.onPsq fun p =>
      { prst := p.prst, pwr := p.pwr, level := p.level, watch := p.watch, phaseDone := p.phaseDone
        host := if p.host = .released then .released else .held, bmc := if p.bmc = .released then .released else .held
        afterStep2 := true, t0 := s.now }
    else s8.onPsq fun p => { level := if power then 0 else p.level, t0 := s.now }
  s9.onChip fun _ => { rating := s.variant.rated }

/-- The chosen Umpire slot: its letter, its image, the key hash used; or the verdicts of both (R306, R307). -/
def State.chooseFirmware (s : State) (cold : Bool) : Except (Nat × Nat) (Bool × List Byte × Nat) :=
  let img := fun (b : Bool) => if b then s.store.fwB else s.store.fwA
  let order := slotOrder cold s.aod.prefSlotB (headerOf s.store.fwA 0x57464D5A) (headerOf s.store.fwB 0x57464D5A)
  let try1 := fun (b : Bool) => match s.checkFirmware (img b) with
    | .ok k => some (b, fwImage (img b), k)
    | .error _ => none
  match order.findSome? try1 with
  | some x => .ok x
  | none =>
    let code := fun (b : Bool) => match s.checkFirmware (img b) with
      | .ok _ => 0
      | .error e => e
    .error (code false, code true)

/-- The grant in force for the run (R392, R394). -/
def State.grantStart (s : State) : State :=
  if s.scrapped then s
  else if s.lcs.state = 1 ∨ s.lcs.state = 4 then
    s.onDbg fun d => { d with rights := 0x1FF, active := true, implicit := true }
  else if s.store.grantRaw.isEmpty then s
  else
    let c := s.checkGrant s.store.grantRaw false
    let g := grantOf s.store.grantRaw
    if c = 0x10 then
      s.onDbg fun d => { d with rights := g.rights, active := true, code := 0x10, first := g.first, last := g.last }
    else (s.onDbg fun d => { d with code := BitVec.ofNat 8 c }).setBit .dbg 9

/-- An intrusive right is in force (R393): bits 3 to 8. -/
def State.intrusive (s : State) : Bool := s.dbg.rights &&& 0x1F8 != 0

/-- The record that register 1 is extended with (R315, R394). -/
def State.grantRecord (s : State) : List Byte :=
  if s.dbg.active = false then List.replicate 64 0
  else
    let g := grantOf s.store.grantRaw
    let head := leBytes 4 s.dbg.rights.toNat ++ leBytes 4 s.dbg.first.toNat ++ leBytes 4 s.dbg.last.toNat
    let who : Byte := if s.dbg.implicit then 0xFF else g.signer
    head ++ [who] ++ List.replicate 19 0 ++ (if s.dbg.implicit then List.replicate 32 0 else g.digest)

/-- The boot record that register 0 is extended with (R315). -/
def State.bootRecord (s : State) (key : Nat) (slotB : Bool) : List Byte :=
  padTo 64 ([byteOf s.lcs.state.toNat, byteOf key, byteOf (b2n slotB)] ++ Config.romRevision.take 1
    ++ padTo 32 s.deviceId)

/-- The counter values as register 3 measures them. -/
def State.counterBytes (s : State) : List Byte := (List.range 32).map fun n => byteOf (s.counter n)

/-- Umpire SRAM with CODE from word 0 and zeros above (R306). -/
def sramOf (img : List Byte) : SMap Word :=
  let ws := wordsOf (cut img 0x40 (fwCodeLen img))
  (List.range ws.length).foldl (fun m k => m.set 0 k (ws.getD k 0)) []

/-- The Umpire core starts at ENTRY with an image in its SRAM: the boot ROM has gone to bank 0x000 (R306, R309), where PBK follows. -/
def State.startCore (s : State) (img : List Byte) : State :=
  s.onUmp fun u =>
    { u with regs := { pc := BitVec.ofNat 18 (fwEntry img) }, evb := 0x400000, epc := 0, cause := 0, eaddr := 0, ien := 0
             ie := false, pie := false, scratch := 0, waiting := false, halted := false, sram := sramOf img, stale := []
             poison := [] }

/-- The accepted image runs: registers 0 to 3, the CDI, the core (R306, R315, R343). -/
def State.startFirmware (s : State) (slotB : Bool) (img : List Byte) (key : Nat) : State :=
  let s1 := (s.extendReg 0 (sha3_512 (s.bootRecord key slotB))).extendReg 1 s.grantRecord
  let s2 := s1.extendReg 2 (sha3_512 img)
  let s3 := if s2.scrapped then s2 else s2.onUmp fun u => { u with cdi := some s2.cdiNow }
  let s4 := s3.extendReg 3 (sha3_512 s3.counterBytes)
  (s4.onUmp fun u =>
    { u with running := true, fwSlotB := slotB, fwSvn := byteOf (fwSvnOf img), fwCommit := (leAt img 7 1).testBit 0
             fwVersion := dwordAt img 8, fwDigest := sha3_512 img }).startCore img |>.onPsq fun p => { p with umpSlotB := slotB }

/-- The domain table of the valid copy with the higher sequence number (R287); none valid: the loss is logged. -/
def State.loadDomains (s : State) : State :=
  let pick : Option (Nat × List (Nat × Domain)) := match s.store.domA, s.store.domB with
    | none, x => x
    | x, none => x
    | some a, some b => if a.1 < b.1 then some b else some a
  match pick with
  | some t => s.onDomains fun _ => t.2.foldl (fun m kv => m.set none kv.1 (some kv.2)) []
  | none => (s.onDomains fun _ => []).logEvent 0x0B 0x30 0 0

/-- Service root, debug root, deferred tamper records, programs, owner chains (R284, R288, R412, R221, R390). -/
def State.umpireKeys (s : State) : State :=
  let s1 := s.loadDomains
  let s2 := if s1.aod.serviceRoot.isNone then s1.renewRoot else s1
  let s3 := if s2.intrusive then
      (s2.onKlg fun k => { k with debugRoot := true, debugRootVal := s2.draw 512 }).spend 1
    else s2
  let s4 := s3.deferredDone
  let s5 := s4.loadPrograms
  if s5.lcs.state = 4 then s5.onStore fun x => { x with certs := (x.certs.set [] 2 []).set [] 3 [] } else s5

/-- The life-cycle state decoded into LCS (R381, R390); a start in SCRAPPED blows what is left of the identity root. -/
def State.decodeStart (s : State) : State :=
  let d := decodeLife s.otp.pairs
  let s1 := s.onLcs fun l => { l with state := BitVec.ofNat 4 (if d.2.2 then 5 else d.1), incomplete := d.2.1, invalid := d.2.2 }
  let s2 := if d.2.1 then s1.setBit .lcs 8 else s1
  let s3 := if d.2.2 then (s2.recErr .lcs 0x87 0).detect 15 0 0 s.now else s2
  if d.1 = 5 ∧ d.2.2 = false then s3.onOtp fun o => { o with identityRoot := some (BitVec.allOnes 512) }
  else if s3.otp.identityRoot.isNone = true ∧ d.1 = 1 ∧ d.2.2 = false then
    s3.onOtp fun o => { o with identityRoot := some Config.identityDraw }
  else s3

/-- Locks that the reset sets by life-cycle state: tamper classes from FIELDED on (R406), clear key writes (R292). -/
def State.lifeLocks (s : State) : State :=
  if s.lcs.state.toNat < 3 then s else s.modHdr .tmp fun h => { h with lock := 1 }

/-- What the gate reads from a downstream part (R326). -/
def UPort.read (u : UPort) (p : Part) : UPort :=
  { u with idBytes := p.id, sfdp := p.sfdp, density := p.density, modes := p.modes
           eraseSize := p.erase.foldl (fun m x => m.set 0 x.1 x.2) [] }

/-- The epoch and the ledger's generation base after a start that found the AOD cold (R66, R275). DESIGN CHOICE (log entry 68): the
epoch "begins again at 0", so the reset that this start brings does not advance it. -/
def State.coldEpoch (s : State) : State := (s.onAod fun a => { a with epoch := 0 }).onGenBase fun _ => genBaseOf 0

/-- A start of the root-of-trust domain with both domains reset (R20 to R22, R306, R412, R415). `life`: the restart that ends a
transition, whose wipe has closed the heat. -/
def State.startRoot (s : State) (power life keep : Bool) (stimFail : List Nat) : State :=
  let a := s.aodStart
  let s1 := if power then a.1.logPlain 0x10 else a.1
  let s2 := if power then (s1.onHeat fun _ => {}).onAod fun d => { d with heatNo := if a.2 then d.heatNo else d.heatNo + 1 }
    else if life then s1 else s1.closeForReset
  let s3 := (s2.rootReset power keep).accWipe false
  let s4 := (if a.2 then s3.coldEpoch else s3).decodeStart
  let s5 := if a.2 then (s4.onChip fun c => { c with aodCold := true }).setBit .lcs 11 else s4
  let s6 := (s5.grantStart.lifeLocks.klgLock).startStimulation stimFail
  match s6.chooseFirmware a.2 with
  | .error v =>
    ((s6.onUmp fun u => { u with romRecovery := true }).onAod fun d =>
      { d with romVerdict := (byteOf v.1, byteOf v.2) })
  | .ok x =>
    let s7 := s6.startFirmware x.1 x.2.1 x.2.2
    if s7.scrapped then s7 else s7.umpireKeys.takeManifest a.2

/-- POWER_GOOD (R468, R306): only while main power is absent. -/
def execPowerGood (perstLow crystal : Bool) (d0 d1 : Part) (stimFail : List Nat) (s : State) : Out :=
  if s.aod.onCell = false then .next s
  else
    let s1 := s.onAod fun a => { a with xtalRunning := crystal }
    let s2 := s1.onFgt fun f => { f with u0 := f.u0.read d0, u1 := f.u1.read d1 }
    .next ((s2.onPcie fun _ => { perstLow := perstLow }).startRoot true false false stimFail)

/-- The bits of a code word that stand blown when power is lost while they are blown: some of them, which ones is open (log entry 3),
never all read back (R382). -/
def partBlown (word mask : W64) : W64 := if word &&& mask = word then 0 else word &&& mask

/-- The transition pairs as a loss of power leaves them (R382, R396): a phase in progress spends its pair if it has blown a bit. -/
def State.cutPairs (s : State) : List (W64 × W64) :=
  let mask : W64 := Config.free 64 s.freeCtr
  match s.lcs.trans with
  | some (new, 1) =>
    let w := partBlown (Config.codeWord new) mask
    if w = 0 then s.otp.pairs else s.otp.pairs ++ [(w, 0)]
  | some (new, 2) => s.otp.pairs.dropLast ++ [(Config.codeWord new, partBlown (Config.codeWord new) mask)]
  | _ => s.otp.pairs

/-- MAIN_POWER_LOSS (R469, R400, R382): a POWER_DOWN entry, and everything outside the always-on domain, OTP and the flash is gone. -/
def execMainPowerLoss (s : State) : Out :=
  if s.aod.onCell then .next s
  else
    let s1 := (s.logPlain 0x11).onAod fun a => { a with onCell := true }
    .next
      { hdrs := s1.hdrs.filter fun kv => aodKey kv.1, mirrors := s1.mirrors.filter fun kv => kv.1 == 2
        variant := s.variant, pending := s.pending, out := s.out, freeCtr := s1.freeCtr + 1, aod := s1.aod
        otp := { s.otp with pairs := s1.cutPairs }
        store := s.store, lcs := { state := s.lcs.state }, erg := { hours := s.erg.hours, t0 := s.erg.t0 }
        cci := { det := s.cci.det }, ump := { eventCopy := s.ump.eventCopy }
        tmp := { cls := s.tmp.cls, region := s.tmp.region, lastC := s.tmp.lastC, persist := s.tmp.persist.filter fun x => srcOnCell x.1 } }

/-! ### Power-good inputs and their failures (R302, R313, R319) -/

/-- The phases that wait for input `i`. -/
def State.waitsFor (s : State) (i ph : Nat) : Option Nat :=
  match s.psq.stepAt.get none ph, s.phaseMan ph with
  | some (k, false), some m => match m.steps[k]? with
    | some t => if t.pgood.toNat = i then some k else none
    | none => none
  | _, _ => none

/-- The step that a phase waits for has risen: its delay begins, or the next step starts. -/
def State.stepRisen (s : State) (ph k : Nat) : State :=
  match s.phaseMan ph with
  | none => s
  | some m => match m.steps[k]? with
    | none => s
    | some t => if t.delayMs = 0 then s.resumePhase ph k
      else s.onPsq fun p => { p with stepAt := p.stepAt.set none ph (some (k, true)) }

/-- The phase whose steps name an input. -/
def State.phaseOf (s : State) (i : Nat) : Option Nat :=
  findFrom (fun ph => match s.phaseMan ph with
    | some m => (m.phaseSteps ph).any fun x => x.2.pgood.toNat == i
    | none => false) 3 0

/-- PGOOD_RISE (R302, R313). -/
def execPgoodRise (i : Nat) (s : State) : Out :=
  if 8 ≤ i ∨ s.aod.onCell = true then .next s
  else
    let s1 := s.onPsq fun p =>
      { p with level := p.level ||| (1#8 <<< i), watch := if (s.phaseOf i).isSome then p.watch ||| (1#8 <<< i) else p.watch }
    if s.ump.running = false then .next s1
    else .next (([0, 1, 2] : List Nat).foldl (fun s ph => match s.waitsFor i ph with
      | some k => s.stepRisen ph k
      | none => s) s1).progress

/-- POWER_STEP_DELAY_EXPIRY (R313). -/
def execPowerStepDelayExpiry (phase : Nat) (s : State) : Out :=
  match s.psq.stepAt.get none phase with
  | some (k, true) => if s.ump.running then .next (s.resumePhase phase k).progress else .next s
  | _ => .next s

/-- The groups that a phase serves: phase 0 both (R313). -/
def phaseGroups (ph : Nat) : List Nat := if ph = 0 then [0, 1] else [ph - 1]

/-- The retry timer of a phase: 2 for phase 0, else its group (R319). -/
def phaseTimer (ph : Nat) : Nat := if ph = 0 then 2 else ph - 1

/-- POWER_STEP_TIMEOUT (R319): steps off, PWR_TIMEOUT; one retry after 1 s, then the group stays off. -/
def execPowerStepTimeout (phase : Nat) (s : State) : Out :=
  match s.psq.stepAt.get none phase with
  | some (k, false) =>
    if s.ump.running = false then .next s
    else
      let s1 := ((s.phaseOff phase).setBit .psq 9).verdict 0x20 k
      if s.psq.retried.getLsbD phase then .next ((phaseGroups phase).foldl (fun s g => s.setGrp g .off) s1)
      else .next (s1.onPsq fun p => { p with retried := p.retried ||| (1#3 <<< phase)
                                             retryTimer := p.retryTimer ||| (1#3 <<< phaseTimer phase) })
  | _ => .next s

/-- POWER_RETRY_TIMER (R319): `group` 0 host, 1 BMC, 2 phase 0. -/
def execPowerRetryTimer (group : Nat) (s : State) : Out :=
  if s.psq.retryTimer.getLsbD group = false ∨ s.ump.running = false then .next s
  else
    let s1 := s.onPsq fun p => { p with retryTimer := p.retryTimer &&& ~~~(1#3 <<< group) }
    .next (if group = 2 then s1.startPhase 0 else s1).progress

/-- A released group has lost a PGOOD: rails off, verified and released again after 1 s; a second loss within 60 s leaves it
off (R319). -/
def State.lostGroup (s : State) (ph g : Nat) : State :=
  let k := phaseTimer ph
  let s1 := (((s.dropGroup g).phaseOff (g + 1)).forgetEntries g).onPsq fun p => { p with fullRelease := none }
  if s.within (s.psq.lostAt.get none k) (60 * second) then s1.setGrp g .off
  else (s1.setGrp g .held).onPsq fun p => { p with retryTimer := p.retryTimer ||| (1#3 <<< k) }

/-- PGOOD_FALL (R302, R319): the hardware drives the group's PRST_OUT low; the Umpire, if it runs, does the rest. -/
def execPgoodFall (i : Nat) (s : State) : Out :=
  if 8 ≤ i then .next s
  else
    let armed := s.psq.watch.getLsbD i
    let s1 := s.onPsq fun p => { p with level := p.level &&& ~~~(1#8 <<< i), watch := p.watch &&& ~~~(1#8 <<< i) }
    match armed, s.phaseOf i with
    | true, some ph =>
      let gs := phaseGroups ph
      let drop := fun (s : State) (g : Nat) => match s.manOf g with
        | some m => s.onPsq fun p => { p with prst := p.prst &&& ~~~(m.mask g) }
        | none => s
      let s2 := (gs.foldl drop s1).setBit .psq 8
      if s.ump.running = false ∨ (gs.any fun g => s.grp g == .released) = false then .next s2
      else
        let s3 := (gs.filter fun g => s.grp g == .released).foldl (fun s g => s.lostGroup ph g) (s2.verdict 0x21 i)
        let s4 := if ph = 0 then s3.phaseOff 0 else s3
        .next ((s4.onPsq fun p => { p with lostAt := p.lostAt.set none (phaseTimer ph) (some s.now) }).progress)
    | _, _ => .next s1

/-- 600 s have passed since every group was released, without an expiry or a recovery (R309). -/
def State.commitDue (s : State) : Bool :=
  match s.psq.fullRelease with
  | some t => decide (t + 600 * second ≤ s.now) && s.ump.running
  | none => false

/-- COUNTER_COMMIT (R309, R427): 600 s after a full release. -/
def execCounterCommit (s : State) : Out :=
  if s.commitDue = false then .next s
  else
    let up := fun (m : SMap Nat) (n v : Nat) => m.set 0 n (max (m.get 0 n) (min v 255))
    let s1 := if s.ump.fwCommit then s.onOtp fun o => { o with counters := up o.counters 0 s.ump.fwSvn.toNat } else s
    let s2 := match s.psq.manifest with
      | some m =>
        if m.commit then s1.onOtp fun o =>
          { o with counters := (List.range 30).foldl (fun c n => up c (n + 2) (leAt m.minSvn (n + 2) 1)) (up o.counters 1 m.svn.toNat) }
        else s1
      | none => s1
    let s3 := if s2.otp.counters = s.otp.counters then s2 else s2.extendReg 3 (sha3_512 s2.counterBytes)
    .next (s3.onAod fun a => { a with trial := false })

/-- A group reset (R320, R337, R339): its resets fall, the manifest is chosen again, its entries are verified again. -/
def State.groupReset (s : State) (g : Nat) : State :=
  let s1 := ((s.dropGroup g).setGrp g .held).forgetEntries g
  let s2 := s1.onPsq fun p => { p with recover := p.recover.set none g none, retryTimer := p.retryTimer &&& ~~~(1#3 <<< g)
                                       retried := p.retried &&& ~~~(1#3 <<< (g + 1)), source := p.source.set 0 g 0
                                       fullRelease := none }
  match s2.findManifest [s.aod.prefManifestB, !s.aod.prefManifestB] with
  | (s3, some (b, m)) =>
    let old := s3.psq.manifest
    let s4 := s3.onPsq fun p =>
      { p with manifest := some m, manSlotB := b
               gman := (if old = some m then p.gman else p.gman.set none (1 - g) (match p.gman.get none (1 - g) with
                 | some x => some x
                 | none => old)).set none g none }
    let s5 := if old = some m then s4 else s4.extendReg 5 m.digest
    (s5.takePolicy m [g]).progress
  | (s3, none) => (s3.startRecovery g 4).progress

end Sys2Proof.Machine
end

