-- ==== Sys2Proof/Machine/Watchdog.lean ====
section
/-!
DEFINITION. The watchdog (R427 to R437), the Umpire's heartbeat and timer (R420, R421), and removal of card power (R372).
-/

namespace Sys2Proof.Machine

/-! ### Removal of card power (R372, R373) -/

/-- The index of WRITE_BLOCKS (R366). -/
def idxWrite : Nat := 9

/-- The mark that a removal leaves on an open transaction (R373): 2 ROLLED_BACK, 3 UNKNOWN. While WRITE_BLOCKS is in progress the
spec lets the phase decide, which no state shows: a free choice (log entry 3). -/
def State.txnMark (s : State) : BitVec 2 :=
  if s.cci.busy = true ∧ s.cci.index.toNat = idxWrite then
    if (Config.free 1 s.freeCtr : BitVec 1) = 0 then 2 else 3
  else if s.cci.card.txnLeft = some 0 then 3
  else 2

/-- The link stops, card power and CC_VSEL go low, the command ends, an open transaction is marked (R372, R373). -/
def State.cardOff (s : State) (removed : Bool) : State :=
  let m := s.txnMark
  let s1 := (s.onCci fun c =>
    { c with pwr := false, vsel := false, clk10k := 0, busy := false, done := c.done || c.busy
             removed := c.removed || (c.busy && removed), card := {}
             txnOutcome := if c.txnOpen then m else c.txnOutcome, txnOpen := false }).spend 1
  if s.cci.txnOpen = true ∧ m = 3 then s1.setBit .cci 10 else s1

/-! ### The period (R429, R431) -/

/-- The repechage limit N. -/
def State.wdgLimit (s : State) : Nat := match s.otp.wdgRep with
  | some n => n.toNat
  | none => 3

/-- The window fraction w, in eighths of the period. -/
def State.wdgWin (s : State) : Nat := match s.otp.wdgWin with
  | some n => n.toNat + 1
  | none => 1

/-- The frequency of the selected time base (R428). -/
def Wdg.freq (w : Wdg) : Nat := if w.clkRc then 1024000 else 32768

/-- The ticks P of the period in force. -/
def Wdg.period (w : Wdg) : Nat := (w.curMs.toNat * w.freq + 999) / 1000

/-- A new period starts at the next tick, with the period and mask written meanwhile. -/
def Wdg.restart (w : Wdg) : Wdg :=
  { w with seen := 0, double := 0, windowOpen := false, armed := false, keyFaults := 0, elapsed := 0
           curMs := w.periodMs, curMask := w.taskMask, refused := false }

/-! ### Expiry and its ladder (R427, R434 to R436) -/

/-- The evidence of an expiry (R436). -/
def State.evidence (s : State) (cause c : Nat) (late hold : Bool) : State :=
  s.onAod fun a => { a with ev := { a.ev with
    pc := s.ump.regs.pbk ++ s.ump.regs.pc
    missing := s.wdg.curMask &&& ~~~s.wdg.seen
    double := s.wdg.double, cause := BitVec.ofNat 4 cause, late := late, trial := a.trial
    repechage := BitVec.ofNat 3 c, limit := BitVec.ofNat 3 s.wdgLimit, safeHold := hold, time := a.rtc
    total := BitVec.ofNat 32 (satAdd a.ev.total.toNat 1 0xFFFFFFFF) } }

/-- Watchdog step 2: a full chip restart that leaves the platform's pins (R20, R22). -/
def State.step2 (s : State) : State := s.startRoot false false true []

/-- What the Umpire's restart ends on every transport: sessions, updates, monitoring (R355, R422). -/
def State.endFirmware (s : State) : State :=
  ((((s.onSessions fun _ => []).onSpdm fun _ => []).onPldm fun _ => {}).onMon fun _ => {}).onUmp fun u =>
    { u with events := u.eventCopy, kickUntil := none, held := [] }

/-- Watchdog step 1: the Umpire core restarts on its image, if the image still has the digest measured (R20, R434); a restart ends a
debugger's halt (log entry 62). -/
def State.step1 (s : State) : State :=
  let raw := if s.ump.fwSlotB then s.store.fwB else s.store.fwA
  let img := fwImage raw
  if s.ump.running = false ∨ fwFormatOk raw = false ∨ sha3_512 img ≠ s.ump.fwDigest then s.step2
  else
    let s1 := (s.endFirmware.cardOff false).startCore img
    ((s1.onDbg fun d => { d with halted := false }).modHdr .wdg fun _ => {}).onWdg fun w => { clkRc := w.clkRc, xtalOk := w.xtalOk, rcOk := w.rcOk, consec := w.consec }

/-- Every fetched request completes with DEVICE_SAFE_HOLD (R82, R435). -/
def State.holdRequests (s : State) : State :=
  s.atOnce fun s => (s.reqsWhere fun _ => true).foldl (fun s r =>
    match (s.req r).bind (·.job) with
    | none => s.finish r { st := 0x74 }
    | some j => match s.job j with
      | some b => (if b.kind = .pair then s.abortPke j true else s).finish r { st := 0x74 }
      | none => s.finish r { st := 0x74 }) s

/-- Entry to SAFE_HOLD (R435, R339, R82). -/
def State.enterSafeHold (s : State) : State :=
  let s1 := s.holdRequests.latchGate.onFgt fun f => { f with frozen := true }
  let s2 := (s1.cardOff false).onUmp fun u => { u with running := false, halted := true, kickUntil := none }
  let s3 := (s2.reportAer 0 .uncorrectableInternal true).emit .errFatal
  let s4 := (List.range (s.variant.vfs + 1)).foldl (fun s f => s.modFn f fun x => { x with fatalDet := true }) s3
  s4.modChip fun c => { c with safeHold := true }

/-- LCS_RESULT takes a code and a KIND; REQ_FAIL on a failure (R388). -/
def State.lcResult (s : State) (kind code : Nat) (ok : Bool) : State :=
  let s1 := s.onLcs fun l =>
    { l with resultCode := BitVec.ofNat 8 code, resultKind := BitVec.ofNat 3 kind, resultValid := true }
  if ok then s1 else s1.setBit .lcs 9

/-- An expiry before the engine has taken over abandons an accepted transition and restores its challenge (R388, R396). -/
def State.abandon (s : State) : State :=
  match s.lcs.trans with
  | some (_, 0) =>
    ((s.onAod fun a => { a with challenge := match a.challenge with
        | some c => some c
        | none => s.lcs.heldChal }).onLcs fun l => { l with trans := none, heldChal := none }).lcResult 1 0x09 false
  | _ => s

/-- An expiry: evidence, the consecutive count, then the step of the ladder, or the reversion of a trial. The 600 s of R309 begin
again. -/
def State.expire (s : State) (cause : Nat) (late : Bool) : State :=
  let c := s.wdg.consec + 1
  let n := s.wdgLimit
  let trial := s.aod.trial
  let hold := !trial && decide (n ≤ c)
  let s1 := (s.abandon.evidence cause c late hold).onWdg fun w => { w with consec := c }
  let s2 := (s1.logEvent 0x10 cause (b2n late) c).onPsq fun p => { p with fullRelease := p.fullRelease.map fun _ => s.now }
  if trial then (s2.onAod fun a => { a with trial := false, prefSlotB := !a.prefSlotB }).step2
  else if hold then s2.enterSafeHold
  else if c = 1 then s2.step1
  else s2.step2

/-- The watchdog is at work: main power is present, neither SAFE_HOLD nor scan has been entered, and no transition is past its step 2
(R395, R396, R435). -/
def State.wdgLive (s : State) : Bool := !s.aod.onCell && !s.chip.safeHold && !s.dbg.scan && !s.transiting

/-- The period counter runs: a halt of the core by a debugger stops it (R432). -/
def State.wdgCounts (s : State) : Bool := s.wdgLive && !s.wdg.frozen

/-- WDG_EXPIRY (R434): at the expiry tick, TASKS after a refused service, else TIMEOUT; `late`: a service in that tick. -/
def execWdgExpiry (late : Bool) (s : State) : Out :=
  if s.wdgCounts then .next (s.expire (if s.wdg.refused then 4 else 1) late) else .next s

/-! ### Service (R430, R431, R433) -/

/-- A key fault: the sequence resets; a second one in the period expires the watchdog. -/
def State.keyFault (s : State) : State :=
  let s1 := (s.onWdg fun w => { w with armed := false, keyFaults := w.keyFaults + 1 }).setBit .wdg 10
  if s.wdg.keyFaults = 0 ∨ s.wdgLive = false then s1 else s1.expire 3 false

/-- WDG_CATCH. -/
def execWdgCatch (s : State) : Out :=
  s.powered fun s =>
  if s.wdg.armed then .next s.keyFault else .next (s.onWdg fun w => { w with armed := true })

/-- WDG_FINISH. -/
def execWdgFinish (s : State) : Out :=
  s.powered fun s =>
  let w := s.wdg
  if w.armed = false then .next s.keyFault
  else if w.windowOpen = false then .next (if s.wdgLive then s.expire 2 false else s)
  else if w.curMask &&& ~~~w.seen ≠ 0 then
    .next ((s.onWdg fun w => { w with armed := false, refused := true }).setBit .wdg 11)
  else
    let s1 := s.onWdg fun w => { w.restart with consec := 0 }
    .next ((s1.onAod fun a => { a with ev := { a.ev with svc := a.rtc } }).setBit .wdg 9)

/-- WDG_KEY_FAULT: any other value written to WDG_KEY. -/
def execWdgKeyFault (s : State) : Out :=
  s.powered fun s => .next s.keyFault

/-- WDG_TASK_CHECKIN. -/
def execWdgTaskCheckin (task : BitVec 4) (s : State) : Out :=
  s.powered fun s =>
  let b : BitVec 16 := 1#16 <<< task.toNat
  .next (s.onWdg fun w =>
    if w.seen &&& b = 0 then { w with seen := w.seen ||| b } else { w with double := w.double ||| b })

/-- WDG_WINDOW_OPEN. -/
def execWdgWindowOpen (s : State) : Out :=
  if s.wdgCounts then .next (s.onWdg fun w => { w with windowOpen := true }) else .next s

/-- WDG_WARN. -/
def execWdgWarn (s : State) : Out := if s.wdgCounts then .next (s.setBit .wdg 8) else .next s

/-- WDG_CLOCK_STOP (R428): `rc`, the RC oscillator, else the crystal. -/
def execWdgClockStop (rc : Bool) (s : State) : Out :=
  s.powered fun s =>
  let mark := fun (s : State) => s.onWdg fun w =>
    if rc then { w with rcOk := false } else { w with xtalOk := false }
  if s.wdg.clkRc = rc ∧ s.wdgLive = true then
    .next (((mark (s.expire 5 false)).onWdg fun w => { w with clkRc := !rc }).setBit .wdg 12)
  else .next (mark s)

/-- STATE_INVALID (R402): a class A record, with error code 0x87 in the owning page; for the watchdog's own state also an expiry
with cause 6 (R436). -/
def execStateInvalid (machine : Nat) (s : State) : Out :=
  s.powered fun s =>
  let s1 := (s.recErr (machinePage machine) 0x87 0).detect 15 machine 0 s.now
  if machine = 3 ∧ s.wdgLive = true then .next (s1.expire 6 false) else .next s1

/-! ### The heartbeat and the timer of the Umpire (R420, R421) -/

/-- Ticks in 10 ms, rounded up. -/
def tenMs : Nat := 328

/-- UMP_KICK. -/
def execUmpKick (s : State) : Out :=
  s.powered fun s => .next (s.onUmp fun u => { u with kickUntil := some (s.now + tenMs) })

/-- HEARTBEAT_LAPSE. -/
def execHeartbeatLapse (s : State) : Out :=
  s.powered fun s => .next (s.onUmp fun u => { u with kickUntil := none })

/-- UMP_TIMER_WRITE: a write also takes back an expiry that is pending. -/
def execUmpTimerWrite (v : W32) (s : State) : Out :=
  s.powered fun s =>
  .next (s.onUmp fun u => { u with timerUs := v, timerRunning := v != 0, timerExpired := false })

/-- UMP_TIMER_EXPIRY. -/
def execUmpTimerExpiry (s : State) : Out :=
  s.powered fun s =>
  if s.ump.timerRunning then .next (s.onUmp fun u => { u with timerRunning := false, timerExpired := true }) else .next s

end Sys2Proof.Machine
end

