-- ==== Sys2Proof/Machine/LifeCycle.lean ====
section
/-!
DEFINITION. Life-cycle transitions (R387 to R390), owner-key updates (R391) and debug grants (R392).
-/

namespace Sys2Proof.Machine

/-- Steps 2 and 3 of an accepted transition (R389): the platform held, card power removed, every domain wiped, with the service root,
the evidence and the domain tables. The domains stay in reset until step 6, so the epoch does not advance here. -/
def State.lifeWipe (s : State) (new : Nat) : State :=
  let s0 := s.onUmp fun u => { u with eventCopy := u.events }
  let s1 := (s0.logPlain 0x14).onAod fun a => { a with serviceRoot := none, challenge := none, ev := {} }
  let s2 := ((s1.onDomains fun _ => []).onStore fun x => { x with domA := none, domB := none }).cardOff false
  let s3 := (s2.closeForReset.rootReset false false).accWipe false
  (s3.onAod fun a => { a with epoch := s.aod.epoch }).onLcs fun l => { l with trans := some (new, 1) }

/-- The life-cycle engine takes its next step (R389, R390): steps 2 and 3; phase 1 and phase 2 of the pair (R382); on the way to
SCRAPPED the identity root; the restart. DESIGN CHOICE (log entry 55): one tick for each. -/
def State.lifeTick (s : State) : State :=
  match s.lcs.trans with
  | none => s
  | some (new, 0) => s.lifeWipe new
  | some (new, 1) =>
    (s.onOtp fun o => { o with pairs := o.pairs ++ [(Config.codeWord new, 0)] }).onLcs fun l => { l with trans := some (new, 2) }
  | some (new, 2) =>
    (s.onOtp fun o => { o with pairs := o.pairs.dropLast ++ [(Config.codeWord new, Config.codeWord new)] }).onLcs fun l =>
      { l with trans := some (new, 3) }
  | some (new, _) =>
    let s1 := if new = 5 then s.onOtp fun o => { o with identityRoot := some (BitVec.allOnes 512) } else s
    (s1.onLcs fun l => { l with trans := none }).startRoot false true false []

/-- A transition request is checked and, once accepted, consumes the challenge; the engine goes on from there (R388, R389). -/
def State.transitionRequest (s : State) (obj : List Byte) : State :=
  if s.ump.running = false then s
  else
    let c := s.checkTransition obj
    if c = 0 then
      ((s.lcResult 1 0 true).onAod fun a => { a with challenge := none }).onLcs fun l =>
        { l with trans := some (leAt obj 0x49 1, 0), heldChal := s.aod.challenge }
    else s.lcResult 1 c false

/-- LIFECYCLE_TRANSITION_REQUEST (R388). -/
def execLifecycleTransitionRequest (obj : List Byte) (s : State) : Out := .next (s.transitionRequest obj)

/-- A debug grant arrives: checked, and stored in the grant slot in place of any other (R392). -/
def State.grantRequest (s : State) (obj : List Byte) : State :=
  if s.ump.running = false then s
  else
    let c := s.checkGrant obj true
    let s1 := s.lcResult 2 c (c == 0x10)
    if c = 0x10 then s1.onStore fun x => { x with grant := some (grantOf obj), grantRaw := obj } else s1

/-- DEBUG_GRANT (R392). -/
def execDebugGrant (obj : List Byte) (s : State) : Out := .next (s.grantRequest obj)

/-- An owner-key update is checked and programs a hash slot (R391). -/
def State.ownerKeyRequest (s : State) (obj : List Byte) : State :=
  if s.ump.running = false then s
  else
    let c := s.checkOwnerKey obj
    let s1 := s.lcResult 3 c (c == 0)
    if c = 0 then
      ((s1.onOtp fun o => o.addHash (leAt obj 0x48 1) (cut obj 0x50 64)).onAod fun a => { a with challenge := none }).setBit
        .lcs 10
    else s1

/-- OWNER_KEY_UPDATE (R391). -/
def execOwnerKeyUpdate (obj : List Byte) (s : State) : Out := .next (s.ownerKeyRequest obj)

end Sys2Proof.Machine
end

