-- ==== Sys2Proof/Machine/Spdm.lean ====
section
/-!
DEFINITION. Attestation: certificates (R344 to R346), SPDM (R347 to R351), the vendor requests (R353), TDISP (R352). The codes
and fields of SPDM and TDISP messages are those of their standards (log entry 8).
-/

namespace Sys2Proof.Machine

/-! ### Keys and certificates -/

/-- A P-384 public point of a scalar. -/
def p384Public (scalar : List Byte) : List Byte := wEncode p384 (wMul p384 (ofBe scalar) (wBase p384))

/-- The DeviceID public key: ML-DSA-87 or P-384 (R342). -/
def State.devicePk (s : State) (mldsa : Bool) : List Byte :=
  if mldsa then padTo 2592 (mldsaPk s.deviceSeed)
  else p384Public (scalarOf p384 (idKdf s.identity (ascii "DEVICEID P384") 56))

/-- The alias private key in force (R342, R343). -/
def State.aliasKey (s : State) (mldsa : Bool) : List Byte :=
  if mldsa then idKdf s.cdiNow (ascii "ALIAS MLDSA") 32 else scalarOf p384 (idKdf s.cdiNow (ascii "ALIAS P384") 56)

/-- The alias public key. -/
def State.aliasPk (s : State) (mldsa : Bool) : List Byte :=
  if mldsa then padTo 2592 (mldsaPk (s.aliasKey true)) else p384Public (s.aliasKey false)

/-- The model name of a variant (R345). -/
def modelName : Variant → List Byte
  | .zk7160 => ascii "ZK7160"
  | .zk7140 => ascii "ZK7140"
  | .zk7120 => ascii "ZK7120"

/-- The current alias certificate (R345): svn, fwids, the debug flag while register 1 is not zero, the model. -/
def State.aliasCert (s : State) (mldsa : Bool) : List Byte :=
  let debug := b2n (!((s.mreg 1).val.all (· == 0)))
  Config.certificate (if mldsa then 0 else 1) (s.aliasPk mldsa) (s.devicePk mldsa)
    ([s.ump.fwSvn] ++ (s.mreg 2).val ++ [byteOf debug] ++ modelName s.variant)

/-- The attestation public key of a domain (R342). -/
def State.attestPk (s : State) (d : Nat) (salt : List Byte) : List Byte := padTo 2592 (mldsaPk (s.attestSeed d salt))

/-- The domain attestation certificate of a domain (R345). -/
def State.attestCert (s : State) (d : Nat) (salt : List Byte) : List Byte :=
  Config.certificate 2 (s.attestPk d salt) (s.aliasPk true) (beBytes 2 d ++ saltFp salt)

/-- The domain import certificate of a domain, its key from the root of slot 0 by way of the domain's salt (R345, R285). -/
def State.importCert (s : State) (d : Nat) (salt : List Byte) : List Byte :=
  Config.certificate 3 (mlkemEk (kdf (domainRoot s.kdrBytes d salt) (ascii "IMPORT") 64)) (s.attestPk d salt) (beBytes 2 d ++ saltFp salt)

/-- The algorithm of a certificate slot: slots 0 and 2 ML-DSA-87 (R346). -/
def slotMldsa (slot : Nat) : Bool := slot % 2 == 0

/-! ### Reading a chain (R344, R346; X.509 and its DER are PRESUMED, log entry 8) -/

/-- The first DER element of a string: its tag, its content, and what follows it. -/
def derItem : List Byte → Option (Byte × List Byte × List Byte)
  | tag :: n :: r =>
    let k := if n.toNat < 128 then 0 else n.toNat - 128
    let len := if n.toNat < 128 then n.toNat else ofBe (r.take k)
    if n ≠ 0x80 ∧ k ≤ 3 ∧ k + len ≤ r.length then some (tag, cut r k len, r.drop (k + len)) else none
  | _ => none

/-- The elements of a string with nothing left over, each with its tag, its content, and all its bytes. -/
def derItems : Nat → List Byte → Option (List (Byte × List Byte × List Byte))
  | _, [] => some []
  | 0, _ => none
  | fuel + 1, l => match derItem l with
    | some (tag, c, r) => (derItems fuel r).map ((tag, c, l.take (l.length - r.length)) :: ·)
    | none => none

/-- What R346 reads of a certificate. -/
structure Cert where
  key : List Byte
  signed : List Byte
  sig : List Byte

/-- The subject public key of the content of a tbsCertificate: the seventh field, the sixth where no version stands first. -/
def derKey (tbs : List Byte) : Option (List Byte) :=
  (derItems 16 tbs).bind fun l =>
    let l := match l with
      | (0xA0, _) :: r => r
      | _ => l
    (l[5]?).bind fun k => match derItems 2 k.2.1 with
      | some [_, (0x03, b, _)] => some (b.drop 1)
      | _ => none

/-- A certificate of its content: what is signed, the algorithm, the signature. -/
def certOf (c : List Byte) : Option Cert :=
  match derItems 3 c with
  | some [(0x30, tbs, raw), _, (0x03, sig, _)] => (derKey tbs).map fun k => { key := k, signed := raw, sig := sig.drop 1 }
  | _ => none

/-- The certificates of an SPDM chain: a length of 4 bytes, a root hash of 64, the certificates from the root on. -/
def chainCerts (chain : List Byte) : Option (List Cert) :=
  if leAt chain 0 4 = chain.length then
    (derItems 32 (chain.drop 68)).bind fun l => l.mapM fun x => if x.1 = 0x30 then certOf x.2.1 else none
  else none

/-- A public key as the device writes it: a P-384 point without its prefix byte. -/
def plainKey (mldsa : Bool) (k : List Byte) : List Byte := if mldsa then k else k.drop 1

/-- A certificate's signature verifies under a public key: pure ML-DSA-87 with an empty context, or ECDSA P-384 over SHA-384. -/
def Cert.signedBy (mldsa : Bool) (issuer : List Byte) (c : Cert) : Bool :=
  if mldsa then mldsaVerify issuer c.sig c.signed []
  else match (derItem c.sig).bind fun x => derItems 2 x.2.1 with
    | some [(0x02, r, _), (0x02, t, _)] =>
      (ecdsaVerdict p384 (padTo 96 (plainKey false issuer) ++ beBytes 48 (ofBe r) ++ beBytes 48 (ofBe t) ++ sha384 c.signed)).st == 0
        && decide (ofBe r < p384.n) && decide (ofBe t < p384.n)
    | _ => false

/-- Every signature of a chain verifies, the root's under its own key. -/
def chainSigned (mldsa : Bool) (issuer : List Byte) : List Cert → Bool
  | [] => true
  | c :: r => c.signedBy mldsa issuer && chainSigned mldsa c.key r

/-- A chain passes the checks of its slot: it ends with the device's own DeviceID key; slots 0 and 1 also require Doloth's root and
every signature (R346). -/
def State.chainGood (s : State) (slot : Nat) (chain : List Byte) : Bool :=
  let alg := slotMldsa slot
  decide (chain.length ≤ 16384) && match chainCerts chain with
    | none => false
    | some l =>
      let root := (l.map Cert.key).headD []
      plainKey alg ((l.map Cert.key).getLastD []) == s.devicePk alg
        && (decide (2 ≤ slot) || (sha3_512 (plainKey alg root) == Config.identityRootDigest alg && chainSigned alg root l))

/-- A chain is accepted into a slot: slots 2 and 3 only in INTEGRATOR (R346). -/
def State.chainOk (s : State) (slot : Nat) (chain : List Byte) : Bool :=
  s.chainGood slot chain && (decide (slot < 2) || s.lcs.state == 2)

/-- A chain as the device serves it: the store's, with the current alias certificate appended (R346) and the length of the whole;
none: unprovisioned, as is a slot whose contents fail the checks. -/
def State.served (s : State) (slot : Nat) : Option (List Byte) :=
  let c := s.store.certs.get [] slot
  let a := s.aliasCert (slotMldsa slot)
  if slot < 4 ∧ c.isEmpty = false ∧ s.chainGood slot c = true then some (leBytes 4 (c.length + a.length) ++ c.drop 4 ++ a) else none

/-! ### Serving -/

/-- The Umpire serves a request: it runs, and the device attests (R380). -/
def State.serve (s : State) (k : State → State) : Out :=
  if s.umpUp = true ∧ s.scrapped = false then .next (k s) else .next s

/-- A request that needs the algorithms to be negotiated: otherwise UnexpectedRequest. `k` gets the signing algorithm. -/
def State.negotiated (s : State) (t : Transport) (k : Bool → State) : State :=
  match (s.spdmOf t).mldsa with
  | some a => k a
  | none => s.spdmError t 0x04 0 []

/-- The digest of the negotiated algorithm (R347). -/
def spdmHash (mldsa : Bool) (m : List Byte) : List Byte := if mldsa then sha3_512 m else sha384 m

/-- A signature by the alias key of the negotiated algorithm. -/
def State.aliasSign (s : State) (mldsa : Bool) (msg : List Byte) : List Byte :=
  Config.spdmSign mldsa (s.aliasKey mldsa) msg (s.drawBytes 32)

/-! ### SPDM requests (R348) -/

/-- GET_VERSION: the three versions; the negotiation begins anew. -/
def execGetVersion (t : Transport) (s : State) : Out :=
  s.serve fun s => (s.modSpdm t fun x => { nextHandle := x.nextHandle, nextToken := x.nextToken }).spdmAnswer t 0x04 0 0
    ([0, 3] ++ [0, 0x12] ++ [0, 0x13] ++ [0, 0x14])

/-- The capability flags of R347 at the bits of the SPDM standard. -/
def spdmFlags : Nat := 0x1A62F6

/-- GET_CAPABILITIES. -/
def execGetCapabilities (t : Transport) (version : BitVec 8) (s : State) : Out :=
  s.serve fun s =>
    if version = 0x12 ∨ version = 0x13 ∨ version = 0x14 then
      (s.modSpdm t fun x => { x with version := version, caps := true, mldsa := none }).spdmAnswer t 0x61 0 0
        ([0, 19, 0, 0] ++ leBytes 4 spdmFlags ++ leBytes 4 (transferSize t) ++ leBytes 4 131072)
    else s.spdmError t 0x41 0 []

/-- NEGOTIATE_ALGORITHMS: ML-DSA-87 and ML-KEM-1024 from version 1.4 on, ML-DSA-87 preferred (R347). -/
def execNegotiateAlgorithms (t : Transport) (mldsa ecdsa mlkem : Bool) (s : State) : Out :=
  s.serve fun s =>
    let x := s.spdmOf t
    let v14 := x.version == 0x14
    if x.caps = false then s.spdmError t 0x04 0 []
    else
      let pick : Option Bool := if mldsa && v14 then some true else if ecdsa then some false else none
      match pick with
      | none => s.spdmError t 0x01 0 []
      | some a =>
        let kem := mlkem && v14
        (s.modSpdm t fun x => { x with mldsa := some a, mlkem := kem }).spdmAnswer t 0x63 0 0
          [byteOf (b2n a), byteOf (b2n kem)]

/-- GET_DIGESTS: the provisioned slots and the digest of each chain as served. -/
def execGetDigests (t : Transport) (s : State) : Out :=
  s.serve fun s => s.negotiated t fun a =>
    let slots := (List.range 4).filter fun n => (s.served n).isSome
    let mask := slots.foldl (fun m n => m + 2 ^ n) 0
    s.spdmAnswer t 0x01 0 mask (slots.flatMap fun n => spdmHash a ((s.served n).getD []))

/-- GET_CERTIFICATE: a part of a chain, with what remains. -/
def execGetCertificate (t : Transport) (slot off len : Nat) (s : State) : Out :=
  s.serve fun s => s.negotiated t fun _ =>
    match s.served slot with
    | none => s.spdmError t 0x01 0 []
    | some c =>
      if c.length ≤ off then s.spdmError t 0x01 0 []
      else
        let p := cut c off len
        s.spdmAnswer t 0x02 slot 0 (leBytes 2 p.length ++ leBytes 2 (c.length - off - p.length) ++ p)

/-- CHALLENGE: signed with the slot's alias key, which is that of the negotiated algorithm. -/
def execChallenge (t : Transport) (slot : Nat) (nonce : List Byte) (s : State) : Out :=
  s.serve fun s => s.negotiated t fun a =>
    match s.served slot with
    | none => s.spdmError t 0x01 0 []
    | some c =>
      if slotMldsa slot ≠ a then s.spdmError t 0x01 0 []
      else
        let body := spdmHash a c ++ s.drawBytes 32
        let s1 := s.spend 1
        (s1.spend 1).signedAnswer t 0x03 slot (2 ^ slot) (body ++ s1.aliasSign a (nonce ++ body))

/-- DMTFSpecMeasurementValueType of a register, bit 7 set (R350). -/
def measType (n : Nat) : Nat := 0x80 + (if n = 0 then 2 else if n = 2 ∨ n = 4 ∨ (16 ≤ n ∧ n ≤ 31) then 1 else 3)

/-- The measurement block of index `n + 1`: register `n` (R350). -/
def State.measBlock (s : State) (n : Nat) : List Byte :=
  [byteOf (n + 1), 1] ++ leBytes 2 75 ++ [byteOf (measType n)] ++ leBytes 2 72 ++ (s.mreg n).val ++ leBytes 8 (s.mreg n).cnt.toNat

/-- The registers that an index names, none for an index that is refused (R350). -/
def measOf (index : BitVec 8) : Option (List Nat) :=
  let i := index.toNat
  if i = 0 then some []
  else if i ≤ 64 then some [i - 1]
  else if i = 255 then some (List.range 64)
  else none

/-- The MEASUREMENTS response: every register named captured in one step (R351). -/
def State.measAnswer (s : State) (t : Transport) (a : Bool) (index : BitVec 8) (sign : Bool) (nonce : List Byte) (l : List Nat) :
    State :=
  let rec_ := l.flatMap s.measBlock
  let body := [byteOf l.length] ++ leBytes 3 rec_.length ++ rec_ ++ s.drawBytes 32
  let s1 := s.spend 1
  let p1 := if index = 0 then 64 else 0
  if sign then (s1.spend 1).signedAnswer t 0x60 p1 0 (body ++ s1.aliasSign a (nonce ++ body))
  else (s1.spend 1).spdmAnswer t 0x60 p1 0 body

/-- The request names a register of the accelerator domain while that domain is being reset (R351). -/
def State.measWaits (s : State) (l : List Nat) : Bool := s.chip.accReset && l.any fun n => decide (32 ≤ n)

/-- GET_MEASUREMENTS (R350, R351). -/
def execGetMeasurements (t : Transport) (index : BitVec 8) (sign : Bool) (nonce : List Byte) (s : State) : Out :=
  s.serve fun s => s.negotiated t fun a =>
    match measOf index with
    | none => s.spdmError t 0x01 0 []
    | some l =>
      if s.measWaits l then
        let k := (s.spdmOf t).nextToken
        (s.modSpdm t fun x => { x with waiting := some (k, index, sign, nonce), nextToken := x.nextToken + 1 }).spdmError
          t 0x42 0 [0, 0xE1, k]
      else s.measAnswer t a index sign nonce l

/-- RESPOND_IF_READY: the answer that was deferred, once the reset has ended. -/
def execRespondIfReady (t : Transport) (token : BitVec 8) (s : State) : Out :=
  s.serve fun s => s.negotiated t fun a =>
    match (s.spdmOf t).waiting with
    | none => s.spdmError t 0x01 0 []
    | some w =>
      let l := (measOf w.2.1).getD []
      if w.1 ≠ token then s.spdmError t 0x01 0 []
      else if s.measWaits l then s.spdmError t 0x42 0 [0, 0xE1, token]
      else (s.modSpdm t fun x => { x with waiting := none }).measAnswer t a w.2.1 w.2.2.1 w.2.2.2 l

/-- Sessions of a transport. -/
def State.sessionsOn (s : State) (t : Transport) : Nat := (s.sessions.filter fun x => x.transport == t).length

/-- The responder's half of a key exchange from the requester's: an ML-KEM-1024 ciphertext, or an ephemeral P-384 point (R347). -/
def spdmExchange (mlkem : Bool) (data rnd : List Byte) : List Byte :=
  if mlkem then (mlkemEncaps data (rnd.take 32)).2 else p384Public (scalarOf p384 rnd)

/-- KEY_EXCHANGE: at most 8 sessions, at most 4 of them on DOE. The responder's half of the session ID is a free value. -/
def execKeyExchange (t : Transport) (slot : Nat) (rsid : BitVec 16) (data : List Byte) (s : State) : Out :=
  s.serve fun s => s.negotiated t fun a =>
    if (s.served slot).isNone = true ∨ slotMldsa slot ≠ a then s.spdmError t 0x01 0 []
    else if 8 ≤ s.sessions.length ∨ (t = .doe ∧ 4 ≤ s.sessionsOn .doe) then s.spdmError t 0x0A 0 []
    else
      let rsp : BitVec 16 := Config.free 16 s.freeCtr
      let s1 := (s.spend 1).onSessions (· ++ [{ transport := t, id := rsp ++ rsid, established := false }])
      let body := leBytes 2 rsp.toNat ++ s1.drawBytes 32 ++ spdmExchange (s.spdmOf t).mlkem data (s1.drawBytes 56)
      let s2 := s1.spend 1
      (s2.spend 1).signedAnswer t 0x64 60 0 (body ++ s2.aliasSign a (data ++ body))

/-- A session on a transport. -/
def State.session (s : State) (t : Transport) (sid : W32) : Option Session :=
  s.sessions.find? fun x => x.transport == t && x.id == sid

/-- `s` with a session changed. -/
def State.modSession (s : State) (t : Transport) (sid : W32) (f : Session → Session) : State :=
  s.onSessions (·.map fun x => if x.transport = t ∧ x.id = sid then f x else x)

/-- `s` without a session. -/
def State.dropSession (s : State) (t : Transport) (sid : W32) : State :=
  s.onSessions (·.filter fun x => !(x.transport == t && x.id == sid))

/-- A request in a session; an unknown or unfinished one receives InvalidSession. -/
def State.inSession (s : State) (t : Transport) (sid : W32) (open_ : Bool) (k : State) : State :=
  match s.session t sid with
  | some x => if x.established = open_ then k else s.spdmError t 0x02 0 []
  | none => s.spdmError t 0x02 0 []

/-- FINISH: the session is established, or ends where the requester's data does not verify. -/
def execFinish (t : Transport) (sid : W32) (ok : Bool) (s : State) : Out :=
  s.serve fun s => s.inSession t sid false
    (if ok then (s.modSession t sid fun x => { x with established := true }).spdmAnswer t 0x65 0 0 []
     else (s.dropSession t sid).spdmError t 0x06 0 [])

/-- END_SESSION. -/
def execEndSession (t : Transport) (sid : W32) (s : State) : Out :=
  s.serve fun s => s.inSession t sid true ((s.dropSession t sid).spdmAnswer t 0x6C 0 0 [])

/-- HEARTBEAT. -/
def execHeartbeat (t : Transport) (sid : W32) (s : State) : Out :=
  s.serve fun s => s.inSession t sid true (s.spdmAnswer t 0x68 0 0 [])

/-- KEY_UPDATE: 1 the requester's key, 2 both keys, 3 verify the new key. -/
def execKeyUpdate (t : Transport) (sid : W32) (op : BitVec 8) (s : State) : Out :=
  s.serve fun s => s.inSession t sid true
    (if op = 1 ∨ op = 2 then (s.modSession t sid fun x => { x with updates := x.updates + 1 }).spdmAnswer t 0x69 op.toNat 0 []
     else if op = 3 then s.spdmAnswer t 0x69 3 0 []
     else s.spdmError t 0x01 0 [])

/-- GET_CSR: for the DeviceID key, in MAKER and INTEGRATOR. -/
def execGetCsr (t : Transport) (s : State) : Out :=
  s.serve fun s => s.negotiated t fun a =>
    if s.lcs.state = 1 ∨ s.lcs.state = 2 then
      let c := Config.csr (s.devicePk a)
      s.spdmAnswer t 0x6D 0 0 (leBytes 2 c.length ++ [0, 0] ++ c)
    else s.spdmError t 0x04 0 []

/-- A chain takes its slot (R346). -/
def State.putChain (s : State) (slot : Nat) (chain : List Byte) : State :=
  s.onStore fun x => { x with certs := x.certs.set [] slot chain }

/-- SET_CERTIFICATE: OperationFailed when the checks of R346 fail. -/
def execSetCertificate (t : Transport) (slot : Nat) (chain : List Byte) (s : State) : Out :=
  s.serve fun s => s.negotiated t fun _ =>
    if slot < 4 ∧ s.chainOk slot chain = true then (s.putChain slot chain).spdmAnswer t 0x6E slot 0 []
    else s.spdmError t 0x44 0 []

/-- CHUNK_SEND: the chunks of a large request, in order, up to MaxSPDMmsgSize; the request itself is served by its own command. -/
def execChunkSend (t : Transport) (handle : BitVec 8) (seq : BitVec 16) (last : Bool) (data : List Byte) (s : State) : Out :=
  s.serve fun s =>
    let sofar : Option (List Byte) := match (s.spdmOf t).chunk with
      | some c => if seq = 0 then some [] else if c.1 = handle ∧ c.2.1 = seq then some c.2.2 else none
      | none => if seq = 0 then some [] else none
    match sofar with
    | none => s.spdmError t 0x01 0 []
    | some l =>
      if 131072 < l.length + data.length then (s.modSpdm t fun x => { x with chunk := none }).spdmError t 0x0E 0 []
      else
        (s.modSpdm t fun x => { x with chunk := if last then none else some (handle, seq + 1, l ++ data) }).spdmAnswer
          t 0x85 0 handle.toNat (leBytes 2 seq.toNat)

/-- CHUNK_GET: one chunk of a large response. -/
def execChunkGet (t : Transport) (handle : BitVec 8) (seq : BitVec 16) (s : State) : Out :=
  s.serve fun s =>
    match (s.spdmOf t).large with
    | none => s.spdmError t 0x01 0 []
    | some x =>
      let n := transferSize t - 16
      let off := seq.toNat * n
      if x.1 ≠ handle ∨ x.2.length ≤ off then s.spdmError t 0x01 0 []
      else
        let p := cut x.2 off n
        let fin := decide (x.2.length ≤ off + n)
        let head := if seq = 0 then leBytes 4 x.2.length else []
        let s1 := if fin then s.modSpdm t fun y => { y with large := none } else s
        s1.spdmAnswer t 0x86 (b2n fin) handle.toNat (leBytes 2 seq.toNat ++ [0, 0] ++ leBytes 4 p.length ++ head ++ p)

/-- SPDM_UNSUPPORTED_REQUEST: any other request code. -/
def execSpdmUnsupportedRequest (t : Transport) (code : BitVec 8) (s : State) : Out :=
  s.serve fun s => s.spdmError t 0x07 code.toNat []

/-! ### Vendor requests (R353) -/

/-- A VENDOR_DEFINED_RESPONSE with vendor ID 0x1F3C. -/
def State.vendorAnswer (s : State) (t : Transport) (data : List Byte) : State :=
  s.spdmAnswer t 0x7E 0 0 (leBytes 2 3 ++ [2] ++ leBytes 2 0x1F3C ++ leBytes 2 data.length ++ data)

/-- GET_DOMAIN_CERTS. -/
def execGetDomainCerts (t : Transport) (args : List Byte) (s : State) : Out :=
  s.serve fun s =>
    if args.length ≠ 2 then s.vendorAnswer t [2]
    else
      let d := ofLe args
      match s.dom d with
      | none => s.vendorAnswer t [1]
      | some x =>
        if x.ending then s.vendorAnswer t [1]
        else
          let a := s.attestCert d x.salt
          let b := s.importCert d x.salt
          s.vendorAnswer t ([0] ++ leBytes 2 a.length ++ a ++ leBytes 2 b.length ++ b)

/-- GET_DEVICE_ID. -/
def execGetDeviceId (t : Transport) (args : List Byte) (s : State) : Out :=
  s.serve fun s => if args.isEmpty then s.vendorAnswer t ([0] ++ padTo 32 s.deviceId) else s.vendorAnswer t [2]

/-! ### TDISP (R77, R352) -/

/-- A TDISP response about a VF, in a secured session on DOE. -/
def State.tdispAnswer (s : State) (vf code : Nat) (data : List Byte) : State :=
  s.emit (.spdm 0 ([0x10, byteOf code, 0, 0] ++ leBytes 4 vf ++ leBytes 8 0 ++ data))

/-- A TDISP ERROR. -/
def State.tdispErr (s : State) (vf code : Nat) : State := s.tdispAnswer vf 0x7F (leBytes 4 code ++ leBytes 4 0)

/-- A secured session stands on DOE. -/
def State.doeSession (s : State) : Bool := s.sessions.any fun x => x.transport == .doe && x.established

/-- A TDISP request: on variants that have it, over a secured session on DOE, for a VF in effect. -/
def State.tdispReq (s : State) (vf : Nat) (k : State → State) : Out :=
  s.serve fun s =>
    if s.variant.ide = false ∨ s.doeSession = false then s
    else if s.vfsOn.contains vf then k s
    else s.tdispErr vf 0x0101

/-- GET_TDISP_VERSION: 1.0. -/
def execGetTdispVersion (vf : Nat) (s : State) : Out := s.tdispReq vf fun s => s.tdispAnswer vf 0x01 [1, 0x10]

/-- GET_TDISP_CAPABILITIES: the lock flags and address widths are the standard's; the spec names none. -/
def execGetTdispCapabilities (vf : Nat) (s : State) : Out :=
  s.tdispReq vf fun s => s.tdispAnswer vf 0x02 (List.replicate 4 0 ++ [0xFE] ++ List.replicate 15 0)

/-- LOCK_INTERFACE_REQUEST. -/
def execLockInterfaceRequest (vf stream : Nat) (s : State) : Out :=
  s.tdispReq vf fun s =>
    if (s.fn vf).domain.isNone then s.tdispErr vf 0x0001
    else if (s.fn vf).tdisp ≠ .configUnlocked then s.tdispErr vf 0x0004
    else
      let s1 := s.modFn vf fun x => { x with tdisp := .configLocked, tdispStream := stream }
      (s1.tdispAnswer vf 0x03 (s1.drawBytes 32)).spend 1

/-- The device-specific area of the interface report (R352). -/
def State.tdispArea (s : State) (vf : Nat) : List Byte :=
  let d := ((s.fn vf).domain.getD 0).toNat
  let salt := match s.dom d with
    | some x => x.salt
    | none => []
  leBytes 2 d ++ [byteOf vf, 0] ++ padTo 32 (sha3 32 (s.attestCert d salt)) ++ List.replicate 28 0

/-- GET_DEVICE_INTERFACE_REPORT: VF BAR0 and VF BAR2, 16 pages each, and the device-specific area. -/
def execGetDeviceInterfaceReport (vf : Nat) (s : State) : Out :=
  s.tdispReq vf fun s =>
    if (s.fn vf).tdisp = .configLocked ∨ (s.fn vf).tdisp = .run then
      s.tdispAnswer vf 0x04 (leBytes 4 2 ++ leBytes 4 16 ++ leBytes 4 0 ++ leBytes 4 16 ++ leBytes 4 2 ++ leBytes 4 64
        ++ s.tdispArea vf)
    else s.tdispErr vf 0x0004

/-- The code of an interface state. -/
def tdispCode : Tdisp → Nat
  | .configUnlocked => 0
  | .configLocked => 1
  | .run => 2
  | .error => 3

/-- GET_DEVICE_INTERFACE_STATE. -/
def execGetDeviceInterfaceState (vf : Nat) (s : State) : Out :=
  s.tdispReq vf fun s => s.tdispAnswer vf 0x05 [byteOf (tdispCode (s.fn vf).tdisp)]

/-- START_INTERFACE_REQUEST: a locked interface runs if the nonce is the one the lock returned. -/
def execStartInterfaceRequest (vf : Nat) (nonceOk : Bool) (s : State) : Out :=
  s.tdispReq vf fun s =>
    if (s.fn vf).tdisp ≠ .configLocked then s.tdispErr vf 0x0004
    else if nonceOk then (s.modFn vf fun x => { x with tdisp := .run }).tdispAnswer vf 0x06 []
    else s.tdispErr vf 0x0102

/-- STOP_INTERFACE_REQUEST: the VF's function state is wiped, then the interface is CONFIG_UNLOCKED (R77). -/
def execStopInterfaceRequest (vf : Nat) (s : State) : Out :=
  s.tdispReq vf fun s => (s.vfFlr vf).tdispAnswer vf 0x07 []

/-! ### The DOE mailbox (R74, R76) -/

/-- A DOE request object arrives (R74): the running Umpire answers it; else it stays in the mailbox, which takes no further object
until DOE Abort or a reset clears it. -/
def State.doeRequest (s : State) (obj : List Byte) (answer : State → State) : State :=
  if s.pcie.doeReady = false then s
  else if s.umpUp then answer s
  else s.onPcie fun p => { p with doeObj := some obj, doeReady := false }

/-- A DOE header: the PCI-SIG's vendor ID, the object type, the length in dwords. -/
def doeHeader (type dwords : Nat) : List Byte := leBytes 2 1 ++ [byteOf type, 0] ++ leBytes 4 dwords

/-- DOE_DISCOVERY (R74): type `index` of the three, and the next index. -/
def execDoeDiscovery (index : Nat) (s : State) : Out :=
  s.powered fun s =>
  let entry : List Byte := if index < 3 then
      leBytes 2 1 ++ [byteOf index, byteOf (if index = 2 then 0 else index + 1)]
    else leBytes 2 0xFFFF ++ [0, 0]
  .next (s.doeRequest (doeHeader 0 3 ++ leBytes 4 (index % 256)) fun s => s.emit (.doe (doeHeader 0 3 ++ entry)))

/-- An IDE_KM message and its answer (R76). PRESUMED from the IDE_KM protocol (log entry 8): QUERY_RESP 0x01, KP_ACK 0x03 with a
status of 0 or, for a stream that does not exist, 3, and K_GOSTOP_ACK 0x06, which has no status. -/
def State.ideKm (s : State) (m : IdeKm) : State :=
  match m with
  | .query => s.emit (.doe [0x01])
  | .keyProg st set k =>
    if streamOk st then
      (s.modIde st fun x => if set then { x with key1 := some k } else { x with key0 := some k }).emit (.doe [0x03, 0])
    else s.emit (.doe [0x03, 3])
  | .setGo st set =>
    let ok := streamOk st && (if set then (s.ideOf st).key1 else (s.ideOf st).key0).isSome
    (if ok then s.modIde st fun x => { x with state := .secure, kbit := set } else s).emit (.doe [0x06])
  | .setStop st =>
    (if streamOk st then s.insecure st fun x => { x with key0 := none, key1 := none } else s).emit (.doe [0x06])

/-- IDE_KM (R76): only over a secured session on DOE, and only where IDE is present; without it the Umpire answers with an SPDM
error (R74). -/
def execIdeKm (m : IdeKm) (s : State) : Out :=
  s.powered fun s =>
  .next (s.doeRequest (doeHeader 2 2) fun s =>
    if s.variant.ide ∧ s.doeSession then s.ideKm m else s.spdmError .doe 0x04 0 [])

end Sys2Proof.Machine
end

