-- ==== Sys2Proof/Machine/Volume.lean ====
section
/-!
DEFINITION. Objects that reach the Umpire from outside: recovery over PLDM or a card (R356, R357, R359), staged updates (R337),
firmware images (R306, R360), and the card's volume: header, directory, objects and exports (R375 to R378).
-/

namespace Sys2Proof.Machine

/-! ### Recovery from PLDM (source 2) or a card (source 3) (R357, R359) -/

/-- A group accepts a manifest from a source: it is in recovery, no attempt runs, the source is allowed; PLDM serves the host
group only, while the BMC group is released. -/
def State.accepts (s : State) (src g : Nat) : Bool :=
  s.grp g == .recovery && (s.psq.recover.get none g).isNone && (s.psq.only.get 0 g == 0 || s.psq.only.get 0 g == src)
    && (src != 2 || (g == 0 && s.grp 1 == .released))

/-- The groups whose recovery a source now carries. -/
def State.carried (s : State) (src : Nat) : List Nat :=
  ([0, 1] : List Nat).filter fun g => match s.psq.recover.get none g with
    | some r => r.src == src
    | none => false

/-- A source's manifest for the groups that wait for one (R359 step 1): its R314 code. -/
def State.recManifest (s : State) (src : Nat) (raw : List Byte) : State × Nat :=
  let gs := ([0, 1] : List Nat).filter (s.accepts src)
  let c := s.checkManifest raw false
  if c = 0 then
    let m := manifestOf raw
    (gs.foldl (fun s g => (s.onPsq fun p =>
      { p with gman := p.gman.set none g (some m), policy := p.policy.set none g none
               recover := p.recover.set none g (some { src := src, man := some m, manRaw := raw }) }).forgetEntries g) s, 0)
  else (gs.foldl (fun s _ => s.verdict 0x39 0) s, c)

/-- A source's policy for the groups it carries (R359 step 1): its R334 code. -/
def State.recPolicy (s : State) (src : Nat) (raw : List Byte) : State × Nat :=
  (s.carried src).foldl (fun x g => match x.1.psq.recover.get none g with
    | none => x
    | some r =>
      let c := x.1.checkPolicy (r.man.getD (manifestOf r.manRaw)) raw
      if c = 0 then
        (x.1.onPsq fun p => { p with policy := p.policy.set none g (some (policyOf raw))
                                     recover := p.recover.set none g (some { r with polRaw := raw }) }, x.2)
      else (x.1.waitSource g 0x39, c)) (s, 0)

/-- A source's image for entry `i`: written to copy A of the entry, its port's upstream side disabled (R336, R359 step 2); once
every image is written the entries are verified. -/
def State.recImage (s : State) (src i : Nat) (data : List Byte) : State :=
  let one := fun (s : State) (g : Nat) => match s.psq.recover.get none g, s.verEntry (entKey g i) with
    | some r, some e =>
      let s1 := (s.modPort (g == 1) fun u => { u with en := false, enDeferred := false, umpireOp := true }).emit
        (.imageWrite e.port.toNat e.addr.toNat data)
      s1.onPsq fun p => { p with recover := p.recover.set none g (some { r with written := addNew r.written i }) }
    | _, _ => s
  ((s.carried src).foldl one s).progress

/-! ### Staged updates and firmware images -/

/-- A new manifest, with a policy or without, outside recovery (R337): every check passes, the staged copy's digest among
them, and both go into the slots not in use. The code is the first failure's: R314, R334, or 0x11 for the staged copy. -/
def State.stagedUpdate (s : State) (man pol : List Byte) (staged : Bool) : State × Nat :=
  let c := s.checkManifest man false
  let d := if pol.isEmpty then 0 else s.checkPolicy (manifestOf man) pol
  if c ≠ 0 then (s, c)
  else if d ≠ 0 then (s, d)
  else if staged = false then (s, 0x11)
  else
    let b := !s.psq.manSlotB
    ((s.putManifest b man pol).onAod fun a => { a with prefManifestB := b }, 0)

/-- A firmware image goes to the slot not running and is checked there (R306, R426). -/
def State.putFirmware (s : State) (img : List Byte) : State × Nat :=
  let s1 := s.onStore fun x => if s.ump.fwSlotB then { x with fwA := img } else { x with fwB := img }
  match s.checkFirmware img with
  | .ok _ => (s1, 0)
  | .error e => (s1, e)

/-- The boot ROM starts an image that a card has brought: slot A, preferred (R360). -/
def State.romStart (s : State) (img : List Byte) (key : Nat) : State :=
  let s1 := (s.onStore fun x => { x with fwA := img }).onAod fun a => { a with prefSlotB := false }
  let s2 := s1.onUmp fun u => { u with romRecovery := false }
  let s3 := s2.startFirmware false (fwImage img) key
  if s3.scrapped then s3 else s3.umpireKeys.takeManifest false

/-! ### The volume (R375, R376) -/

/-- Fields of the volume header. -/
def volDirBlocks (h : List Byte) : Nat := leAt h 0x06 2
/-- First directory block. -/
def volDirStart (h : List Byte) : Nat := leAt h 0x08 4
/-- First data block. -/
def volDataStart (h : List Byte) : Nat := leAt h 0x0C 4
/-- Volume size in blocks. -/
def volBlocks (h : List Byte) : Nat := leAt h 0x10 4

/-- A volume header passes its checks. -/
def volOk (capacity : Nat) (h : List Byte) : Bool :=
  h.length == 512 && leAt h 0 4 == 0x4C56435A && leAt h 4 2 == 1 && decide (1 ≤ volDirBlocks h) && decide (volDirBlocks h ≤ 64)
    && decide (1 ≤ volDirStart h) && decide (volDirStart h + volDirBlocks h ≤ volDataStart h)
    && decide (volBlocks h ≤ capacity) && decide (leAt h 0x14 1 < 4) && zeroAt h 0x15 15 && zeroAt h 0x34 456
    && leAt h 0x1FC 4 == (crc32 (h.take 0x1FC)).toNat

/-- A directory entry. -/
structure DirEnt where
  index : Nat
  kind : Nat
  param : BitVec 16
  first : Nat
  len : Nat
  target : List Byte
  crcOk : Bool
  deriving DecidableEq, Repr

/-- Blocks that `n` bytes fill. -/
def blocksFor (n : Nat) : Nat := (n + 511) / 512

/-- Entry `k` of a directory block at position `b`. -/
def dirEnt (b k : Nat) (raw : List Byte) : DirEnt :=
  let e := cut raw (64 * k) 64
  { index := 8 * b + k, kind := leAt e 0 1, param := BitVec.ofNat 16 (leAt e 2 2), first := leAt e 4 4, len := leAt e 8 4
    target := cut e 0x10 32, crcOk := leAt e 0x3C 4 == (crc32 (e.take 0x3C)).toNat }

/-- Every directory entry read, in index order. -/
def Card.entries (c : Card) : List DirEnt := c.dir.flatMap fun kv => (List.range 8).map fun k => dirEnt kv.1 k kv.2

/-- Object types (R377). -/
def objKnown (kind : Nat) : Bool := (decide (1 ≤ kind) && decide (kind ≤ 9)) || kind == 0x80 || kind == 0x81

/-- An object is meant for this device. -/
def State.mine (s : State) (target : List Byte) : Bool := target.all (· == 0) || target == s.deviceId

/-- An entry is processed (R376). -/
def State.entValid (s : State) (e : DirEnt) : Bool :=
  e.crcOk && objKnown e.kind && s.mine e.target && decide (volDataStart s.cci.card.hdr ≤ e.first)
    && decide (e.first + blocksFor e.len ≤ volBlocks s.cci.card.hdr)

/-- `s` with what the device has read of the card changed. -/
def State.modCard (s : State) (f : Card → Card) : State := s.onCci fun c => { c with card := f c.card }

/-! ### Exports (R378) -/

/-- A directory entry of an exported object. Whether TARGET names the device or is zero is open (log entry 3). -/
def State.exportEnt (s : State) (kind first len : Nat) : List Byte :=
  let named := (Config.free 1 s.freeCtr : BitVec 1) == 1
  let e := [byteOf kind, 1, 0, 0] ++ leBytes 4 first ++ leBytes 4 len ++ leBytes 4 0
    ++ (if named then padTo 32 s.deviceId else List.replicate 32 0) ++ List.replicate 12 0
  e ++ leBytes 4 (crc32 e).toNat

/-- The first block after the end of every non-empty entry. -/
def Card.freeBlock (c : Card) : Nat :=
  c.entries.foldl (fun n e => if e.kind = 0 then n else max n (e.first + blocksFor e.len)) (volDataStart c.hdr)

/-- The transactions of an object from a block on: at most 256 blocks each. -/
def objTxns (first : Nat) (obj : List Byte) : List (Nat × List Byte) :=
  let cs := chunks (256 * 512) (padTo (512 * blocksFor obj.length) obj)
  (List.range cs.length).map fun i => (first + 256 * i, cs.getD i [])

/-- The whole directory has been read. -/
def Card.dirRead (c : Card) : Bool := !c.hdr.isEmpty && decide (c.dir.length = volDirBlocks c.hdr)

/-- The card may be written: both protection bits read clear, and it holds no record but one of the device's pending ID (R369, R374). -/
def Card.writable (c : Card) : Bool := !c.tempWp && !c.permWp && (!c.record || c.ours)

/-- An export begins: the object after every other, and its entry in the first empty place in a final one-block transaction;
what does not fit, or a card that may not be written, gets nothing (R369, R374, R378). The flag says that it has begun. -/
def State.beginExport (s : State) (kind : Nat) (obj : List Byte) (upTo : Option (BitVec 48)) : State × Bool :=
  let c := s.cci.card
  if c.dirRead = false ∨ c.writable = false then (s, false)
  else
    let first := c.freeBlock
    match c.entries.find? fun e => e.kind == 0 with
    | none => (s.setBit .cci 13, false)
    | some e =>
      if volBlocks c.hdr < first + blocksFor obj.length then (s.setBit .cci 13, false)
      else
        let b := e.index / 8
        let raw := c.dir.get [] b
        let k := 64 * (e.index % 8)
        let raw' := raw.take k ++ s.exportEnt kind first obj.length ++ raw.drop (k + 64)
        let txns := objTxns first obj ++ [(volDirStart c.hdr + b, raw')]
        (((s.spend 1).modCard fun c => { c with dir := c.dir.set [] b raw' }).onCci fun c =>
          { c with exports := c.exports ++ [{ upTo := upTo, all := txns, left := txns }] }, true)

/-- The tamper-log entries from the export pointer on, in sequence. -/
def Aod.unexported (a : Aod) : List TRec :=
  ((List.range 256).map fun i => (a.head.toNat + i) % 256).filterMap fun i => match a.log.get none i with
    | some r => if a.exportSeq.toNat ≤ r.seq.toNat then some r else none
    | none => none

/-- The bytes of a tamper-log entry (R408). -/
def TRec.bytes (r : TRec) : List Byte :=
  let b := leBytes 6 r.seq.toNat ++ leBytes 6 r.ticks.toNat ++ [r.source, r.flags, r.mode, r.regions]
    ++ leBytes 2 r.index.toNat ++ leBytes 2 r.value.toNat ++ leBytes 4 r.bootCnt.toNat ++ List.replicate 4 0
  b ++ leBytes 4 (crc32 b).toNat

/-- A signature by the ML-DSA-87 alias key over a digest with a context string. -/
def State.aliasSig (s : State) (b : List Byte) (ctx : String) : List Byte :=
  padTo sigLen ((mldsaSign (s.aliasKey true) (sha3_512 b) (ascii ctx) (s.drawBytes 32)).1)

/-- The audit export (R378). -/
def State.auditObject (s : State) : List Byte :=
  let rs := s.aod.unexported
  let first := match rs with
    | r :: _ => r.seq.toNat
    | [] => s.aod.exportSeq.toNat
  let b := leBytes 4 0x5841435A ++ leBytes 2 1 ++ leBytes 2 rs.length ++ leBytes 8 first ++ leBytes 8 s.now ++ leBytes 8 0
    ++ padTo 32 s.deviceId ++ rs.flatMap TRec.bytes
  b ++ s.aliasSig b "ZK7 AUDIT"

/-- A challenge is issued: 32 bytes from the TRNG, in place of any other (R384). -/
def State.newChallenge (s : State) : State := (s.onAod fun a => { a with challenge := some (s.draw 256) }).spend 1

/-- The challenge object: 192 bytes, with STATE, BOOT_CNT and the real-time counter in BODY, and the alias key's signature (R385, R386). -/
def State.challengeObject (s : State) : List Byte :=
  let c := match s.aod.challenge with
    | some c => leBytes 32 c.toNat
    | none => List.replicate 32 0
  let b := leBytes 4 0x4F434C5A ++ leBytes 2 1 ++ [4, 0] ++ padTo 32 s.deviceId ++ c ++ [s.lcs.state.setWidth 8, 0, 0, 0]
    ++ leBytes 4 s.bootCnt.toNat ++ leBytes 8 s.now ++ List.replicate 104 0
  b ++ s.aliasSig b "ZK7 LC"

/-- An audit export begins (R378). -/
def State.exportAudit (s : State) : State × Bool := (s.spend 1).beginExport 0x80 s.auditObject (some s.aod.seqNext)

/-- A challenge is issued and its export begins (R378, R384). -/
def State.exportChallenge (s : State) : State × Bool :=
  let s1 := s.newChallenge
  (s1.spend 1).beginExport 0x81 s1.challengeObject none

/-- The exports that the volume's FLAGS want, unless this insertion has resolved one (R378). -/
def State.wantedExports (s : State) : State :=
  if s.cci.card.resolved = true ∨ s.cci.exports.isEmpty = false then s
  else
    let f := leAt s.cci.card.hdr 0x14 1
    let s1 := if f.testBit 0 then s.exportAudit.1 else s
    if f.testBit 1 then s1.exportChallenge.1 else s1

/-- A committed transaction of the export in progress: the pointer moves with its last one (R378). -/
def State.exportCommit (s : State) : State :=
  match s.cci.exports with
  | x :: r => match x.left with
    | _ :: (y :: l) => s.onCci fun c => { c with exports := { x with left := y :: l } :: r }
    | _ =>
      let s1 := match x.upTo with
        | some q => s.onAod fun a => { a with exportSeq := if a.exportSeq.toNat < q.toNat then q else a.exportSeq }
        | none => s
      s1.onCci fun c => { c with exports := r }
  | [] => s

/-- A transaction that was rolled back: its export is written again from its start (R378). -/
def State.exportAgain (s : State) : State :=
  match s.cci.exports with
  | x :: r => s.onCci fun c => { c with exports := { x with left := x.all } :: r }
  | [] => s

/-- The data that the export in progress writes at a block next. -/
def Cci.exportData (c : Cci) (first : Nat) : Option (List Byte) :=
  match c.exports with
  | x :: _ => match x.left with
    | t :: _ => if t.1 = first then some t.2 else none
    | [] => none
  | [] => none

/-! ### Objects read from the card (R360, R368, R377) -/

/-- ROM recovery takes the first image for this device that passes; after the last one has failed, card power goes (R360). -/
def State.romObject (s : State) (e : DirEnt) (data : List Byte) : State :=
  match s.checkFirmware data with
  | .ok k => s.romStart data k
  | .error _ =>
    let last := (s.cci.card.entries.filter fun x => x.kind == 1 && s.entValid x).getLast?
    if last = some e then s.cardOff false else s

/-- An object as it is applied at an insertion: life-cycle objects and certificate chains always, recovery objects only in a
recovery that takes the card (R356, R377). -/
def State.insertedObject (s : State) (kind : Nat) (param : BitVec 16) (data : List Byte) : State :=
  match kind with
  | 2 => if ([0, 1] : List Nat).any (s.accepts 3) then (s.recManifest 3 data).1 else s
  | 3 => s.recImage 3 (param.toNat % 32) data
  | 4 => (s.recPolicy 3 data).1
  | 6 => s.transitionRequest data
  | 7 => s.grantRequest data
  | 8 => s.ownerKeyRequest data
  | 9 => if param.toNat < 4 ∧ s.chainOk param.toNat data = true then s.putChain param.toNat data else s
  | _ => s

/-- A whole object has been read. -/
def State.objectRead (s : State) (e : DirEnt) (data : List Byte) : State :=
  if s.ump.romRecovery then (if e.kind = 1 then s.romObject e data else s)
  else if s.ump.running then s.insertedObject e.kind e.param data
  else s

/-- A block of an object's data. -/
def State.dataBlock (s : State) (n : Nat) (blk : List Byte) : State :=
  let start : Option (Nat × List Byte) :=
    if s.cci.card.entries.any (fun e => e.kind != 0 && s.entValid e && e.first == n) then some (n, blk) else none
  let cur := match s.cci.card.obj with
    | some (f, b) => if n = f + b.length / 512 then some (f, b ++ blk) else start
    | none => start
  match cur with
  | none => s.modCard fun c => { c with obj := none }
  | some (f, b) =>
    match s.cci.card.entries.find? fun e => e.kind != 0 && s.entValid e && e.first == f with
    | none => s.modCard fun c => { c with obj := none }
    | some e =>
      if e.len ≤ b.length then (s.modCard fun c => { c with obj := none }).objectRead e (b.take e.len)
      else s.modCard fun c => { c with obj := some (f, b) }

/-- One block read from the card: the header, a directory block, or data. -/
def State.volBlock (s : State) (n : Nat) (blk : List Byte) : State :=
  let c := s.cci.card
  if n = 0 then
    if volOk c.blocks.toNat blk then s.modCard fun c => { c with hdr := blk, dir := [], obj := none }
    else (s.modCard fun c => { c with hdr := [], dir := [], obj := none }).setBit .cci 12
  else if c.hdr.isEmpty then s
  else if volDirStart c.hdr ≤ n ∧ n < volDirStart c.hdr + volDirBlocks c.hdr then
    let s1 := s.modCard fun c => { c with dir := c.dir.set [] (n - volDirStart c.hdr) blk }
    if c.dirRead = false ∧ s1.cci.card.dirRead = true ∧ s1.ump.running = true then s1.wantedExports else s1
  else s.dataBlock n blk

/-- Blocks read from the card, from a first block on. -/
def State.volRead (s : State) (first : Nat) (data : List Byte) : State :=
  let bs := chunks 512 data
  (List.range bs.length).foldl (fun s i => s.volBlock (first + i) (bs.getD i [])) s

end Sys2Proof.Machine
end

