-- ==== Sys2Proof/Machine/Card.lean ====
section
/-!
DEFINITION. The custody card port (R362 to R379): start-up, commands, their ends, transactions, removal, ROM recovery from a
card (R360).
-/

namespace Sys2Proof.Machine

/-! ### Power and start-up (R370, R372) -/

/-- Card power comes on and the clock starts in mode 0, 400 kHz (R370 step 2). -/
def State.cardOn (s : State) (maxMode : BitVec 2) : State :=
  s.onCci fun c =>
    { c with pwr := true, vsel := false, wide := false, clk10k := 0x28, again := false
             card := { present := true, maxMode := maxMode } }

/-- CARD_INSERTED (R370): CC_DET_N has been low for 50 ms. -/
def execCardInserted (s : State) : Out :=
  if s.aod.onCell = true ∨ s.cci.pwr = true then .next s
  else .next ((((s.onCci fun c => { c with det := true }).cardOn 2).setBit .cci 8))

/-- A recovery that the lost card carried ends with code 0x3A and may be repeated (R361, R373). -/
def State.cardLost (s : State) : State := (s.carried 3).foldl (fun s g => s.waitSource g 0x3A) s

/-- CARD_REMOVED (R372). -/
def execCardRemoved (s : State) : Out :=
  if s.cci.det = false then .next s
  else .next (((s.cardOff true).onCci fun c => { c with det := false, again := false }).setBit .cci 9).cardLost

/-- CARD_STARTUP_RETRY (R370): 500 ms after a failed confirmation, at a mode no higher than 1. -/
def execCardStartupRetry (s : State) : Out :=
  if s.cci.again = true ∧ s.cci.det = true then .next (s.cardOn 1) else .next s

/-! ### Commands (R366, R379) -/

/-- A card command is sent: its index, argument and kind; `n` data blocks. The link must be powered and idle. -/
def State.cardSend (s : State) (index : BitVec 6) (arg : W32) (long noResp read write busy : Bool) (n : Nat) : State :=
  if s.cci.pwr = false ∨ s.cci.busy = true then s
  else
    (s.onCci fun c =>
      { c with index := index, arg := arg, long := long, noResp := noResp, read := read, write := write, busyWait := busy
               blocks := BitVec.ofNat 9 n, busy := true, done := false, respTo := false, respCrc := false, dataCrc := false
               busyTo := false, removed := false, card := { c.card with lastCmd := index, retriedCmd := false, resolving := false } }).emit
      (.cardCmd (cardFrame index arg))

/-- Data blocks go out on the lines in use. -/
def State.sendBlocks (s : State) (data : List Byte) : State := s.emit (.cardBlocks ((chunks 512 data).map (blockLines s.cci.wide)))

/-- GO_RESET. -/
def execGoReset (s : State) : Out := .next (s.cardSend 0 0 false true false false false 0)

/-- IDENTIFY, with its check pattern. -/
def State.identify (s : State) (pattern : BitVec 8) : State :=
  if s.cci.pwr = false ∨ s.cci.busy = true then s
  else (s.onCci fun c => { c with card := { c.card with pattern := pattern } }).cardSend 1 (pattern.setWidth 32) true false
    false false false 0

/-- IDENTIFY. -/
def execIdentify (pattern : BitVec 8) (s : State) : Out := .next (s.identify pattern)

/-- NEGOTIATE: never above the mode limit of the start-up in progress (R370). -/
def execNegotiate (mode : BitVec 2) (s : State) : Out :=
  let m := if s.cci.card.maxMode < mode then s.cci.card.maxMode else mode
  .next (s.cardSend 2 (m.setWidth 32) false false false false false 0)

/-- SELECT. -/
def execSelect (serial : W32) (s : State) : Out := .next (s.cardSend 3 serial false false false false false 0)

/-- The argument of READ_BLOCKS and WRITE_BLOCKS. -/
def blockArg (first : BitVec 24) (count1 : BitVec 8) : W32 := first ++ count1

/-- READ_BLOCKS (R367). -/
def execReadBlocks (first : BitVec 24) (count1 : BitVec 8) (s : State) : Out :=
  .next (s.cardSend 8 (blockArg first count1) false false true false false (count1.toNat + 1))

/-- WRITE_BLOCKS (R367): the blocks come from Umpire SRAM at CCI_BUF, or from the export in
progress; nothing is written to a card that may not be written (R369, R374). -/
def execWriteBlocks (first : BitVec 24) (count1 : BitVec 8) (s : State) : Out :=
  if s.cci.pwr = false ∨ s.cci.busy = true ∨ s.cci.card.writable = false then .next s
  else
    let n := count1.toNat + 1
    let s1 := s.cardSend 9 (blockArg first count1) false false false true true n
    .next ((s1.onCci fun c => { c with card := { c.card with txnLeft := some n } }).sendBlocks
      ((s.cci.exportData first.toNat).getD (s.sramBytes s.cci.buf.toNat (512 * n))))

/-- SET_TXN: only to a card that may be written (R369, R374). Its ID becomes the pending one: a record held before is of another unless it
is the same. -/
def execSetTxn (id : BitVec 16) (s : State) : Out :=
  if s.cci.pwr = false ∨ s.cci.busy = true ∨ s.cci.card.writable = false ∨ id = 0 then .next s
  else .next ((s.onCci fun c => { c with txnId := id, card := { c.card with ours := c.card.ours && id == c.txnId } }).cardSend
    10 (id ++ 0#16) false false false false false 0)

/-- JOURNAL_QUERY. -/
def execJournalQuery (id : BitVec 16) (s : State) : Out := .next (s.cardSend 12 (id ++ 0#16) false false false false false 0)

/-- JOURNAL_RESOLVE. -/
def execJournalResolve (id : BitVec 16) (s : State) : Out := .next (s.cardSend 13 (id ++ 0#16) false false false false false 0)

/-- SET_TEMP_WP. The device itself never sends it (R369); the port sends what CCI_CMD holds. -/
def execSetTempWp (s : State) : Out := .next (s.cardSend 16 0 false false false false true 0)

/-- CLEAR_TEMP_WP. -/
def execClearTempWp (s : State) : Out := .next (s.cardSend 17 0 false false false false true 0)

/-- SET_PERM_WP. -/
def execSetPermWp (arg : W32) (s : State) : Out := .next (s.cardSend 18 arg false false false false true 0)

/-- READ_WP. -/
def execReadWp (s : State) : Out := .next (s.cardSend 19 0 false false false false false 0)

/-- POWER_DOWN. -/
def execPowerDown (s : State) : Out := .next (s.cardSend 31 0 false false false false true 0)

/-- CARD_VSEL_SWITCH (R370 steps 5 and 6): after the clock stop, CC_VSEL rises, the clock restarts at 400 kHz, and IDENTIFY with a
new check pattern is to confirm the link. -/
def execCardVselSwitch (s : State) : Out :=
  if s.cci.pwr = true ∧ s.cci.busy = false ∧ s.cci.card.mode = 2 ∧ s.cci.vsel = false then
    .next ((s.onCci fun c => { c with vsel := true, clk10k := 0x28 }).identify (s.cci.card.pattern + 1))
  else .next s

/-! ### The end of a command (R365, R370 to R373, R379) -/

/-- A link failure is handled as a removal (R371). -/
def State.linkFail (s : State) : State := ((s.cardOff false).setBit .cci 11).cardLost

/-- The commands that are repeated once (R371). -/
def repeatable (index : BitVec 6) : Bool := ([1, 3, 8, 12, 19] : List Nat).contains index.toNat

/-- The card's state as a status word shows it (R365). -/
def Card.seen (c : Card) (w : BitVec 120) : Card :=
  { c with record := w.getLsbD 7, state := (w >>> 8).setWidth 4, tempWp := w.getLsbD 12, permWp := w.getLsbD 13 }

/-- Bytes of a long response. -/
def respByte (w : BitVec 120) (k : Nat) : BitVec 8 := (w >>> (8 * k)).setWidth 8

/-- The card as IDENTIFY shows it (R366). -/
def Card.identified (c : Card) (w : BitVec 120) : Card :=
  { c with ready := (respByte w 1).getLsbD 0, tempWp := (respByte w 1).getLsbD 1, permWp := (respByte w 1).getLsbD 2
           record := (respByte w 1).getLsbD 3, modes := respByte w 2, clkMhz := respByte w 3
           blocks := (w >>> 32).setWidth 24, serial := (w >>> 56).setWidth 32
           state := if (respByte w 1).getLsbD 0 then 1 else c.state }

/-- The clock of a mode in units of 10 kHz: the lower of the card's highest clock and the mode's limit (R363, R370). -/
def modeClock (c : Card) (mode : Nat) : BitVec 16 :=
  BitVec.ofNat 16 (100 * min c.clkMhz.toNat (if mode = 1 then 50 else 104))

/-- IDENTIFY has answered: as a confirmation at 1.8 V, or with what it says of the card (R370). -/
def State.identifyDone (s : State) (w : BitVec 120) : State :=
  let echo := respByte w 11 == s.cci.card.pattern
  if s.cci.vsel = true ∧ s.cci.card.confirmed = false then
    if echo then s.onCci fun c => { c with clk10k := modeClock c.card 2, card := { c.card with confirmed := true } }
    else (s.cardOff false).onCci fun c => { c with again := true }
  else s.onCci fun c => { c with card := c.card.identified w }

/-- NEGOTIATE has answered with the mode accepted: the clock rises, or stops for the switch (R370). -/
def State.negotiateDone (s : State) (w : BitVec 120) : State :=
  let m := (w >>> 16).setWidth 2
  s.onCci fun c =>
    { c with wide := m != 0, card := { c.card.seen w with mode := m }
             clk10k := if m = 1 then modeClock c.card 1 else if m = 2 then 0 else c.clk10k }

/-- The outcome of the open transaction: 1 COMMITTED, 2 ROLLED_BACK. -/
def State.txnEnd (s : State) (outcome : BitVec 2) : State :=
  let s1 := s.onCci fun c => { c with txnOpen := false, txnOutcome := outcome, card := { c.card with txnLeft := none } }
  if outcome = 1 then s1.exportCommit else s1.exportAgain

/-- The status token of an accepted block, bits in the order sent (R367). -/
def tokenOk : BitVec 3 := 0b001

/-- WRITE_BLOCKS has ended: committed, or rolled back by a token. -/
def State.writeDone (s : State) (d : CardDone) : State :=
  let s1 := s.onCci fun c => { c with blkCnt := c.blkCnt + c.blocks.setWidth 64, card := { c.card.seen d.resp with ours := true } }
  s1.txnEnd (if d.token = tokenOk then 1 else 2)

/-- A word of SRAM after another; nothing lies beyond bank 0x000, which CCI_BUF must name (R379). -/
def State.putSram (s : State) (w : Nat) (data : List Byte) : State :=
  let ws := (wordsOf data).take (262144 - w)
  s.onUmp fun u => { u with sram := (List.range ws.length).foldl (fun m k => m.set 0 (w + k) (ws.getD k 0)) u.sram
                            poison := u.poison.filter fun a => decide (a < w) || decide (w + ws.length ≤ a) }

/-- READ_BLOCKS has ended: the blocks go to Umpire SRAM at CCI_BUF (R379). -/
def State.readDone (s : State) (d : CardDone) : State :=
  let s1 := (s.onCci fun c => { c with blkCnt := c.blkCnt + c.blocks.setWidth 64, card := c.card.seen d.resp }).putSram
    s.cci.buf.toNat (d.data.take (512 * s.cci.blocks.toNat))
  s1.volRead (s.cci.arg.toNat / 256) (d.data.take (512 * s.cci.blocks.toNat))

/-- SET_TXN has answered: the transaction is open unless the card refused (R365, R366). -/
def State.setTxnDone (s : State) (w : BitVec 120) : State :=
  let ok := !(w.getLsbD 1 || w.getLsbD 3 || w.getLsbD 4)
  s.onCci fun c => { c with txnOpen := ok, txnOutcome := if ok then 0 else c.txnOutcome, card := c.card.seen w }

/-- JOURNAL_QUERY has answered: of the pending ID it says whether the record held is the device's (R374), and an UNKNOWN transaction takes
the recorded outcome (R373). Where it resolves a command whose response was lost, the transaction is open or ended as the card says (R371). -/
def State.queryDone (s : State) (w : BitVec 120) : State :=
  let r : BitVec 2 := (w >>> 16).setWidth 2
  let own := s.cci.arg.toNat / 65536 == s.cci.txnId.toNat
  let s1 := s.onCci fun c => { c with card := { c.card.seen w with ours := if own then r != 0 else c.card.ours } }
  if own = false then s1
  else if s.cci.txnOutcome = 3 ∧ (r = 1 ∨ r = 2) then (s1.txnEnd r).modCard fun c => { c with resolved := true }
  else if s.cci.card.resolving = false then s1
  else if r = 3 then s1.onCci fun c => { c with txnOpen := true, txnOutcome := 0 }
  else if s.cci.txnOpen = true ∧ r ≠ 0 then s1.txnEnd r
  else s1.onCci fun c => { c with txnOpen := false }

/-- What a successful end of each command does beyond the page's fields. -/
def State.cardDone (s : State) (d : CardDone) : State :=
  match s.cci.index.toNat with
  | 0 => s.onCci fun c => { c with wide := false, card := { c.card with state := 0, txnLeft := none, ours := c.card.ours || c.txnOpen }
                                   txnOutcome := if c.txnOpen then 2 else c.txnOutcome, txnOpen := false }
  | 1 => s.identifyDone d.resp
  | 2 => s.negotiateDone d.resp
  | 8 => s.readDone d
  | 9 => s.writeDone d
  | 10 => s.setTxnDone d.resp
  | 12 =>
    let s1 := s.queryDone d.resp
    if s.cci.card.resolving then (s1.cardSend 19 0 false false false false false 0).modCard fun c => { c with retriedCmd := true } else s1
  | 31 => s.onCci fun c => { c with card := { c.card.seen d.resp with txnLeft := none, ours := c.card.ours || c.txnOpen }
                                    txnOutcome := if c.txnOpen then 2 else c.txnOutcome, txnOpen := false }
  | _ => s.onCci fun c => { c with card := c.card.seen d.resp }

/-- The response is missing or fails its CRC7: repeated once where that is allowed, else resolved by JOURNAL_QUERY and READ_WP; a second
failure is a link failure (R371). A failed confirmation at 1.8 V starts the card again (R370). -/
def State.cardRetry (s : State) : State :=
  let c := s.cci
  if c.index = 1 ∧ c.vsel = true ∧ c.card.confirmed = false then
    (s.cardOff false).onCci fun c => { c with again := true }
  else if c.card.retriedCmd then s.linkFail
  else
    let idx : BitVec 6 := if repeatable c.index then c.index else 12
    let arg : W32 := if repeatable c.index then c.arg else c.txnId ++ 0#16
    (s.cardSend idx arg (idx == 1) false (idx == 8) false false c.blocks.toNat).onCci fun x =>
      { x with card := { x.card with retriedCmd := true, resolving := !repeatable c.index || c.card.resolving } }

/-- CCI_COMMAND_DONE (R379). -/
def execCciCommandDone (d : CardDone) (s : State) : Out :=
  if s.cci.busy = false then .next s
  else
    let s1 := s.onCci fun c =>
      { c with busy := false, done := true, respTo := d.respTo && !c.noResp, respCrc := d.respCrc && !c.noResp
               dataCrc := d.dataCrc, busyTo := d.busyTo, token := if c.write then d.token else c.token
               resp := if c.noResp || d.respTo then c.resp else d.resp
               card := { c.card with txnLeft := if c.index = 9 ∧ d.busyTo = true then some 0 else c.card.txnLeft } }
    if d.busyTo then .next s1.linkFail
    else if s1.cci.respTo = true ∨ s1.cci.respCrc = true then .next s1.cardRetry
    else if d.dataCrc = true ∧ s1.cci.index = 8 then .next s1
    else .next (s1.cardDone d)

end Sys2Proof.Machine
end

