-- ==== Sys2Proof/Machine/Pages.lean ====
section
/-!
DEFINITION. What a read of every register page gives (R36 to R49, R53, R55, R60 to R67 and the page table of each chapter):
one table of registers per page, as the spec's tables list them, and the words read from them.
-/

namespace Sys2Proof.Machine

/-- One register as a read gives it: byte offset, width 64 (else 32), value. -/
structure RegVal where
  off : Nat
  wide : Bool
  val : Nat
  deriving DecidableEq, Repr

/-- A 32-bit register. -/
def r32 (off val : Nat) : RegVal := { off := off, wide := false, val := val % 4294967296 }

/-- A 64-bit register. -/
def r64 (off val : Nat) : RegVal := { off := off, wide := true, val := val % 18446744073709551616 }

/-- Fields put together: (lowest bit, value). -/
def pack (l : List (Nat × Nat)) : Nat := l.foldl (fun n x => n + x.2 * 2 ^ x.1) 0

/-! ### The header (R36 to R47) -/

/-- PG_ID.INST (R37, R57, R62). -/
def pageInst : PageId → Nat
  | .chipInt => 1
  | .fn n | .adm n | .rgn n | .egt n | .qad n | .pke n | .meas n => n
  | .mirror _ => 0x80
  | _ => 0

/-- PG_CAPS of each page (R38 and the page's chapter). -/
def State.pageCaps (s : State) : PageId → Nat
  | .msh => pack [(0, 0x2000), (16, 8)]
  | .klg => pack [(0, s.variant.slotsLog), (8, 7), (16, 0x29)]
  | .egt _ => pack [(0, 8), (4, 2), (8, 0x40), (16, 0x800)]
  | .meas _ => 0x20
  | .qad _ => 4
  | .pke _ => 6
  | .psq => 0x888
  | .fgt => pack [(0, 0x100), (9, 2), (11, 3)]
  | .cci => 7
  | .lcs => pack [(0, 8), (4, 4)]
  | .tmp => pack [(0, 0x10), (8, 0x40)]
  | .erg => 0x30
  | .mirror 0 => pack [(0, 8), (4, 4)]
  | .mirror 1 => pack [(0, 0x10), (8, 0x40)]
  | .mirror 3 => 0x30
  | .mirror 4 => pack [(0, 0x100), (9, 2), (11, 3)]
  | .mirror 5 => 0x20
  | _ => 0

/-- PG_PRESENT.FUSED_OFF: the PCX page without the link cipher (R34, R39). -/
def State.fusedOff (s : State) (p : PageId) : Bool := p == PageId.pcx && !s.variant.ide

/-- An error record as it reads (R44). -/
def ErrRec.word (e : ErrRec) : Nat :=
  pack [(0, e.code.toNat), (8, e.level.toNat), (10, 1), (11, e.detail.toNat), (16, e.heat.toNat)]

/-- The header of a page. -/
def State.headRegs (s : State) (p : PageId) : List RegVal :=
  let h := s.hdr p
  let rec1 := fun (n : Nat) => match h.errs[n]? with
    | some e => e.word
    | none => 0
  [r32 0x000 (pack [(0, 1), (8, pageInst p), (16, pageType p)]), r32 0x004 (s.pageCaps p),
   r32 0x008 (pack [(0, 1), (1, b2n (s.fusedOff p)), (2, b2n h.quar)]), r32 0x00C 0, r32 0x010 h.status.toNat,
   r32 0x014 h.statusCnt.toNat, r32 0x018 h.intEn.toNat, r32 0x01C h.pend.toNat, r64 0x020 (rec1 0), r64 0x028 (rec1 1),
   r64 0x030 (rec1 2), r64 0x038 (rec1 3), r64 0x040 s.aod.heatNo.toNat, r32 0x048 h.lock.toNat]

/-! ### The accelerator pages -/

/-- CHIP_STATUS (R66). -/
def State.chipStatus (s : State) : Nat :=
  pack [(0, s.chip.ignWrCnt.toNat), (16, s.chip.flags.toNat), (22, b2n s.chip.aodCold)]

/-- The chip page (R66). -/
def State.chipRegs (s : State) : List RegVal :=
  let v := s.variant
  [r32 0x080 (pack [(0, v.regions), (8, v.eights), (16, 4 * v.regions), (24, 2 * v.regions)]),
   r32 0x084 (pack [(0, v.slotsLog), (8, v.chLog), (16, v.domLog), (24, v.vfs)]),
   r32 0x088 (pack [(0, v.lanes), (8, b2n v.ide), (9, b2n v.ide)]), r32 0x090 (if s.chip.thermalHold then 0 else s.chip.cadence.toNat),
   r32 0x094 s.chip.cadenceNorm.toNat, r32 0x098 s.chip.rating.toNat, r32 0x0A0 s.chipStatus, r32 0x0A8 s.aod.epoch.toNat,
   r64 0x0B0 s.aod.rtc.toNat]

/-- The record that HEAT_SNAP_SEL names (R448, R453): for a channel the newest record of that local index. -/
def State.snapRec (s : State) : Option Rec :=
  let b := match s.heat.snapSrc.toNat with
    | 0 => s.heat.bankA
    | 1 => s.heat.bankB
    | _ => s.heat.live
  if s.heat.snapKind then
    ((b.channels.filter fun r => r.fn == s.heat.snapFn.toNat && r.handle.toNat % 65536 == s.heat.snapIndex.toNat)).getLast?
  else b.domains.get none s.heat.snapIndex.toNat

/-- A snapshot bank's register. -/
def Bank.word (b : Bank) : Nat := pack [(0, b.heat.toNat), (48, b.cause.toNat), (52, b2n b.ready)]

/-- The HEAT page (R453). -/
def State.heatRegs (s : State) : List RegVal :=
  let t := s.heat
  let r := s.snapRec
  let rec0 : Rec := r.getD {}
  [r32 0x080 (pack [(0, t.periodS.toNat), (16, b2n t.outAll), (17, b2n t.inEn), (18, b2n t.fallback),
     (24, t.inTimeoutS.toNat)]), r32 0x084 0, r64 0x090 t.bankA.word, r64 0x098 t.bankB.word,
   r32 0x0A0 (pack [(0, t.snapIndex.toNat), (16, t.snapFn.toNat), (24, b2n t.snapKind), (25, t.snapSrc.toNat)]),
   r32 0x0A4 rec0.handle.toNat, r32 0x0A8 rec0.account.toNat,
   r32 0x0AC (pack [(0, b2n r.isSome), (1, b2n rec0.destroyed), (2, b2n rec0.created)]), r64 0x0B0 t.rptBase.toNat,
   r32 0x0B8 t.rptKib.toNat, r32 0x0BC t.rptTail.toNat, r32 0x0C0 t.rptHead.toNat]
    ++ (List.range 32).map fun k => r64 (0x100 + 8 * k) (rec0.cnt.get 0 k)

/-- The PCX page (R83). -/
def State.pcxRegs (s : State) : List RegVal :=
  let p := s.pcie
  let sec := fun (x : IdeStream) => b2n (x.state == .secure)
  let sel := (List.range 8).foldl (fun n k => n + sec (p.ideSel.get {} k) * 2 ^ k) 0
  [r32 0x080 (pack [(0, p.speed.toNat), (4, p.width.toNat), (9, b2n p.flit), (10, sec p.ideLink), (11, sel)]),
   r32 0x084 (pack [(0, b2n p.roData), (1, b2n p.wakeEn)])]

/-- A function page (R87). -/
def State.fnRegs (s : State) (n : Nat) : List RegVal :=
  let f := s.fn n
  let count := (s.chans.filter fun kv => kv.1 / 65536 == n && kv.2.isSome).length
  [r32 0x080 (pack [(0, n), (8, (s.fnDomain n).getD 0), (20, b2n (s.fnDomain n).isSome)]), r32 0x084 (s.fnLimit n),
   r32 0x088 count, r64 0x090 f.spillBase.toNat, r32 0x098 f.spillKib.toNat,
   r32 0x0A0 (pack [(0, f.dbErrIndex.toNat), (16, f.dbErrCause.toNat), (19, b2n f.dbErrAdmin)]), r32 0x0A4 f.chErr.toNat,
   r32 0x0A8 f.intVec.toNat]

/-- An admin queue page (R88, R103): the doorbell reads the head, the completion tail and the state. DESIGN CHOICE (log entry 69): an
admin queue is neither ACTIVE nor ARMED in the sense of a channel; bit 32 reads READY and bit 34 reads 0. -/
def State.admRegs (s : State) (n : Nat) : List RegVal :=
  let a := (s.fn n).adm
  [r64 0x080 a.sqBase.toNat, r64 0x088 a.cqBase.toNat,
   r32 0x090 (pack [(0, a.sqLog.toNat), (4, a.cqLog.toNat), (8, a.vector.toNat), (19, b2n a.irqEn), (31, b2n a.enable)]),
   r32 0x094 (pack [(0, b2n a.ready), (1, b2n a.error)]),
   r64 0x0C0 (pack [(0, a.sqHead), (16, a.cqTail), (32, b2n a.ready), (33, b2n a.error)])]

/-- A channel doorbell as it reads (R103). -/
def State.doorbellWord (s : State) (f i : Nat) : Nat :=
  match s.chan f i with
  | none => 0
  | some c => match c.state with
    | .destroying _ _ => 0
    | .active => pack [(0, c.sqHead), (16, c.cqTail), (32, 1), (34, b2n c.isArmed)]
    | .error _ => pack [(0, c.sqHead), (16, c.cqTail), (33, 1), (34, b2n c.isArmed)]

/-- The MSH page (R154). -/
def State.mshRegs (s : State) : List RegVal :=
  let live := s.jobs.filterMap fun kv => kv.2
  let sum := fun (p : Job → Bool) => ((live.filter p).map (·.entries)).sum
  let d := s.msh.weightSel.toNat
  let w := match s.dom d with
    | some x => if x.ending then 0 else x.weight.toNat
    | none => 0
  [r32 0x080 s.msh.strokeLog.toNat,
   r32 0x084 (pack [(0, sum fun b => b.resident), (16, sum fun b => b.resident && b.running)]), r64 0x088 s.msh.spillCnt.toNat,
   r64 0x090 s.msh.fillCnt.toNat, r64 0x098 s.msh.blobCtr, r32 0x0A0 d, r32 0x0A4 w]

/-- The KLG page (R300). -/
def State.klgRegs (s : State) : List RegVal :=
  let k := s.klg
  let d := k.quotaSel.toNat
  let count := fun (x : SlotState) => (s.kslots.filter fun kv => kv.2.state == x).length
  let there := match s.dom d with
    | some x => !x.ending
    | none => false
  [r32 0x080 (b2n k.clearWriteEn), r32 0x084 (pack [(0, b2n k.debugRoot), (1, b2n k.rootsReady)]),
   r32 0x088 (s.countK fun _ => true), r32 0x08C (count .orphaned), r32 0x090 (count .retiring),
   r32 0x094 (pack [(0, (k.failSlot.getD 0).toNat), (16, b2n k.failSlot.isSome)]), r64 0x098 k.svcId.toNat, r32 0x0A0 d,
   r32 0x0A4 (if there then s.quotaOf d else 0), r32 0x0A8 (if there then s.domUsed d else 0), r64 0x0B0 k.invalidations.toNat]

/-- A MEAS page (R242): instance 0 holds registers 0 to 31, instance 1 registers 32 to 63. -/
def State.measRegs (s : State) (i : Nat) : List RegVal :=
  (List.range 32).flatMap fun k =>
    let m := s.mreg (32 * i + k)
    [r64 (0x100 + 8 * k) (if i = 1 then m.acl.toNat else 0), r64 (0x200 + 8 * k) m.cnt.toNat]
      ++ (List.range 8).map fun j => r64 (0x800 + 64 * k + 8 * j) (leAt m.val (8 * j) 8)

/-- An EGT page (R178); a quarantined eight publishes no cadence (R28). An isolated seat has had two faults (R13), so it shows
in ISOLATED and not in ONE_FAULT (DEDUCED, log entry 67). -/
def State.egtRegs (s : State) (e : Nat) : List RegVal :=
  let x := s.eight e
  let q := s.quarantined (.egt e)
  let one := (List.range 8).foldl (fun n k => n + b2n (s.within (x.lastFault.get none k) second && !x.isolated.getLsbD k) * 2 ^ k) 0
  let run := (x.slots.filter fun kv => kv.2.job.isSome).length
  [r32 0x080 (pack [(0, x.dummyLevel.toNat), (2, b2n x.maskForce)]), r32 0x084 (if q then 0 else x.cadence.toNat),
   r32 0x088 (if q then 0 else x.cadenceNorm.toNat),
   r32 0x08C (pack [(0, x.isolated.toNat), (8, one), (16, b2n (s.chip.maskFallback || x.maskForce))]),
   r32 0x090 (pack [(0, run), (8, x.keyCache.length), (16, x.holdPages)]), r64 0x098 x.blocks.toNat,
   r32 0x0A0 (pack [(0, x.alarmSlot.toNat), (16, if x.alarmValid then min 3 (s.alarmCount x.alarmSlot.toNat) else 0),
     (18, b2n x.alarmValid)])]

/-- A QAD page (R246). -/
def State.qadRegs (s : State) (r : Nat) : List RegVal :=
  let x := s.quad r
  [r32 0x080 (pack [(0, x.isolated.toNat), (4, x.busy.toNat), (8, x.direct.toNat)]), r64 0x088 x.bytes.toNat,
   r32 0x0C0 (pack [(0, x.dirAlg.toNat), (8, x.dirMreg.toNat), (14, b2n x.dirExtend), (24, x.dirXof.toNat)]),
   r32 0x0C4 (pack [(0, b2n x.dirBusy), (1, b2n x.dirDone), (2, b2n x.dirError), (8, x.dirCode.toNat)]),
   r64 0x0C8 (pack [(0, x.dirSrc.toNat), (32, x.dirPort.toNat)]), r64 0x0D0 x.dirLen.toNat, r32 0x0D8 x.dirKey.toNat,
   r32 0x0E0 x.dirFaddr.toNat] ++ (List.range 8).map fun j => r64 (0x100 + 8 * j) (leAt x.dirOut (8 * j) 8)

/-- The registers of one slice (R271). -/
def State.sliceRegs (s : State) (i b : Nat) : List RegVal :=
  let x := s.slice i
  let bound := match x.bound with
    | none => [(6, 0)]
    | some .umpire => [(6, 1), (7, 1)]
    | some (.domain d) => [(6, 1), (8, d)]
  [r32 b (pack [(0, b2n x.mode), (1, b2n x.macOwnerPf)]),
   r32 (b + 0x04) (pack ([(0, b2n x.modeActive), (1, b2n (x.busy || x.running.isSome)), (3, x.frames.length)] ++ bound)),
   r64 (b + 0x08) x.jobs.toNat, r64 (b + 0x10) x.busyNs.toNat, r32 (b + 0x18) x.wipes.toNat, r32 (b + 0x1C) 0,
   r32 (b + 0x20) 0, r32 (b + 0x24) (pack [(1, b2n x.accTaint), (2, b2n x.macError), (4, x.macCause.toNat)]),
   r32 (b + 0x2C) x.macKey.toNat] ++ (List.range 8).map fun j => r32 (b + 0x40 + 4 * j) (x.macData.toNat / 2 ^ (32 * j))

/-- A PKE page. -/
def State.pkeRegs (s : State) (r : Nat) : List RegVal := s.sliceRegs (2 * r) 0x100 ++ s.sliceRegs (2 * r + 1) 0x200

/-! ### The root-of-trust and always-on pages -/

/-- The UMP page (R421). -/
def State.umpRegs (s : State) : List RegVal :=
  let u := s.ump
  [r32 0x080 (b2n u.aliveEn), r32 0x084 0, r32 0x088 u.timerUs.toNat,
   r32 0x08C (pack [(0, b2n u.fwSlotB), (1, b2n s.aod.trial), (8, u.fwSvn.toNat)]), r32 0x090 u.fwVersion.toNat]

/-- The WDG page (R437). -/
def State.wdgRegs (s : State) : List RegVal :=
  let w := s.wdg
  [r32 0x080 (b2n w.clkRc), r32 0x084 w.periodMs.toNat, r32 0x088 0, r32 0x08C w.taskMask.toNat, r32 0x090 0,
   r32 0x094 (pack [(0, w.seen.toNat), (16, w.double.toNat)]),
   r32 0x098 (pack [(0, b2n w.windowOpen), (1, b2n w.armed), (2, w.keyFaults.toNat), (4, b2n w.frozen), (5, b2n w.xtalOk),
     (6, b2n w.rcOk), (8, (s.otp.wdgWin.getD 0).toNat), (12, s.wdgLimit)]), r32 0x09C (w.period - w.elapsed)]

/-- TMP_STATUS (R417). -/
def State.tmpStatus (s : State) : Nat :=
  pack [(0, b2n s.tmp.respA), (1, b2n s.tmp.respB), (2, b2n s.tmp.tamperLow), (4, s.aod.quar.toNat), (8, b2n s.tmp.timeApprox)]

/-- TMP_CLASS as it reads: a source fused off reads zero, 0xE reads 0 and 0xF reads 1 (R406, R407, R417). -/
def State.classWord (s : State) : Nat := (List.range 16).foldl (fun n k => n + s.srcClass k * 4 ^ k) 0

/-- TMP_REGION as it reads: local sources and sources fused off read zero. -/
def State.regionWord (s : State) : Nat :=
  (List.range 16).foldl (fun n k =>
    if k = 0 ∨ (3 ≤ k ∧ k ≤ 6) ∨ 14 ≤ k ∨ s.srcOff k = true then n
    else n + (s.tmp.region.toNat / 16 ^ k % 16) * 16 ^ k) 0

/-- The TMP page (R417). -/
def State.tmpRegs (s : State) : List RegVal :=
  let t := s.tmp
  [r32 0x080 s.classWord, r64 0x088 s.regionWord, r32 0x090 s.otp.disable.toNat, r32 0x094 s.tmpStatus,
   r64 0x098 (pack [(0, t.cntA.toNat), (16, t.cntB.toNat), (32, t.cntC.toNat)]),
   r32 0x0C0 (pack [(0, t.testSource.toNat), (8, t.testIndex.toNat)]),
   r32 0x0C4 (pack [(0, b2n t.testBusy), (1, b2n t.testPass), (2, b2n t.testFail), (3, b2n t.testDenied)]), r32 0x0C8 0]

/-- The ERG page (R442). -/
def State.ergRegs (s : State) : List RegVal :=
  let e := s.erg
  let c := e.sel.toNat
  [r32 0x080 (pack [(1, b2n e.avsEn)]), r32 0x084 (pack [(0, e.setMv.toNat), (16, 0x352)]),
   r32 0x088 (pack [(0, e.worst.toNat), (16, e.worstChain.toNat)]), r32 0x08C e.proj.toNat, r32 0x090 e.hours.toNat,
   r64 0x098 e.last.toNat, r32 0x0A0 c, r32 0x0A4 (pack [(0, (e.now.get 0 c).toNat), (16, (e.t0.get 0 c).toNat)])]

/-- FGT_STATUS (R341). -/
def State.fgtStatus (s : State) : Nat :=
  let f := s.fgt
  pack [(0, b2n f.liveBank), (1, b2n f.swapPending), (2, b2n f.latched), (3, b2n f.frozen), (4, b2n f.policyValid),
    (5, b2n f.policySlot), (8, f.policyCode.toNat), (12, f.rulesLive)]

/-- The FGT page (R341): the log registers show the oldest entry. -/
def State.fgtRegs (s : State) : List RegVal :=
  let f := s.fgt
  let rule := (if f.ruleLive then f.live else f.shadow).get {} f.ruleSel.toNat
  let lo := match f.log.head? with
    | some e => pack [(0, e.addr.toNat), (32, e.opcode.toNat), (40, b2n e.port), (41, e.rule.toNat), (49, e.outcome.toNat), (51, 1)]
    | none => 0
  let hi := match f.log.head? with
    | some e => e.ticks.toNat
    | none => 0
  [r32 0x080 (pack [(0, b2n f.u0.en), (1, b2n f.u1.en)]), r32 0x084 s.fgtStatus,
   r32 0x088 (pack [(0, f.ruleSel.toNat), (8, b2n f.ruleLive)]), r32 0x090 rule.d0.toNat, r32 0x094 rule.base.toNat,
   r32 0x098 rule.limit.toNat, r32 0x09C rule.delta.toNat, r64 0x0A0 lo, r64 0x0A8 hi,
   r32 0x0B0 (pack [(0, f.log.length), (16, f.lost.toNat)]), r64 0x0B8 f.deny0.toNat, r64 0x0C0 f.deny1.toNat,
   r64 0x0C8 f.unknown.toNat]

/-- PSQ_VERDICT (R321). -/
def State.psqVerdict (s : State) : Nat :=
  let p := s.psq
  pack [(0, b2n (p.host == .released)), (1, b2n (p.bmc == .released)), (2, b2n p.umpSlotB), (3, b2n p.manSlotB),
    (4, b2n s.fgt.latched), (8, p.code.toNat), (16, p.entry.toNat)]

/-- The PSQ page (R321). -/
def State.psqRegs (s : State) : List RegVal :=
  let p := s.psq
  let out := pack [(0, p.prst.toNat), (8, p.pwr.toNat)]
  [r32 0x080 out, r32 0x084 (pack [(0, p.level.toNat), (8, p.watch.toNat)]), r32 0x088 out, r32 0x08C s.psqVerdict,
   r32 0x090 p.tHost.toNat, r32 0x094 p.tBmc.toNat]

/-- The CCI page (R379). -/
def State.cciRegs (s : State) : List RegVal :=
  let c := s.cci
  [r32 0x080 (pack [(0, b2n c.pwr), (1, b2n c.vsel), (2, b2n c.wide), (16, c.clk10k.toNat)]),
   r32 0x084 (pack [(0, c.index.toNat), (8, b2n c.long), (9, b2n c.noResp), (10, b2n c.read), (11, b2n c.write),
     (12, b2n c.busyWait)]), r32 0x088 c.arg.toNat,
   r32 0x08C (pack [(0, b2n c.busy), (1, b2n c.done), (2, b2n c.respTo), (3, b2n c.respCrc), (4, b2n c.dataCrc),
     (5, b2n c.busyTo), (6, b2n c.det), (7, b2n c.removed), (8, c.token.toNat)]), r32 0x090 c.resp.toNat,
   r32 0x094 (c.resp.toNat / 2 ^ 32), r32 0x098 (c.resp.toNat / 2 ^ 64), r32 0x09C (c.resp.toNat / 2 ^ 96),
   r32 0x0A0 c.buf.toNat, r32 0x0A4 c.blocks.toNat,
   r32 0x0A8 (pack [(0, c.txnId.toNat), (16, c.txnOutcome.toNat), (18, b2n c.txnOpen)]), r64 0x0B0 c.blkCnt.toNat]

/-- LCS_STATE (R397). -/
def State.lcsState (s : State) : Nat :=
  pack [(0, s.lcs.state.toNat), (4, b2n s.lcs.incomplete), (5, b2n s.lcs.invalid), (6, b2n s.dbg.active), (7, b2n s.intrusive),
    (8, s.pairsUsed), (12, s.otp.owner.length), (15, s.otp.platform.length), (18, s.otp.program.length)]

/-- The LCS page (R397). -/
def State.lcsRegs (s : State) : List RegVal :=
  [r32 0x080 s.lcsState, r32 0x084 s.bootCnt.toNat,
   r32 0x088 (pack [(0, s.lcs.resultCode.toNat), (8, s.lcs.resultKind.toNat), (11, b2n s.lcs.resultValid)]),
   r32 0x08C (b2n s.aod.challenge.isSome)]

/-- The DBG page (R398). -/
def State.dbgRegs (s : State) : List RegVal :=
  let d := s.dbg
  [r32 0x080 d.rights.toNat,
   r32 0x084 (pack [(0, b2n d.active), (1, b2n d.implicit), (2, b2n !s.store.grantRaw.isEmpty), (8, d.code.toNat)]),
   r32 0x088 d.first.toNat, r32 0x08C d.last.toNat, r32 0x090 d.denyCnt.toNat]

/-- The BST page (R461). -/
def State.bstRegs (s : State) : List RegVal :=
  let b := s.bst
  [r32 0x080 (pack [(0, b.test.toNat), (4, b.kind.toNat), (8, b.inst.toNat)]),
   r32 0x084 (pack [(0, b2n b.busy), (1, b2n b.done), (4, b.cause.toNat), (8, b.result.toNat), (16, b.resultN.toNat)]),
   r64 0x088 b.sig.toNat, r64 0x090 b.sigExp.toNat, r64 0x098 b.failAddr.toNat, r32 0x0A0 b.runs.toNat]

/-- The AOD page (R418). -/
def State.aodRegs (s : State) : List RegVal :=
  let a := s.aod
  [r32 0x080 a.head.toNat, r32 0x084 a.logLost.toNat, r64 0x088 a.seqNext.toNat, r64 0x090 a.exportSeq.toNat,
   r32 0x098 (pack [(0, a.quar.toNat), (4, a.deferQuar.toNat), (8, b2n a.pending)])]

/-- The watchdog evidence page (R436). -/
def State.evRegs (s : State) : List RegVal :=
  let e := s.aod.ev
  [r32 0x080 e.pc.toNat, r64 0x088 e.svc.toNat, r32 0x090 (pack [(0, e.missing.toNat), (16, e.double.toNat)]),
   r32 0x094 (pack [(0, e.cause.toNat), (4, b2n e.late), (5, b2n e.trial), (8, e.repechage.toNat), (12, e.limit.toNat),
     (15, b2n e.safeHold)]), r64 0x098 e.time.toNat, r32 0x0A0 e.total.toNat]

/-! ### Reading -/

/-- The source page of mirror k (R57, R60). -/
def mirrorSource : Nat → PageId
  | 0 => .lcs
  | 1 => .tmp
  | 2 => .evidence
  | 3 => .erg
  | 4 => .fgt
  | _ => .meas 0

/-- The block-specific offsets of its source that mirror k copies (R60, R341, R397, R417, R436, R442, R242). -/
def mirrorCopies (k off : Nat) : Bool :=
  match k with
  | 0 => decide (0x080 ≤ off) && decide (off < 0x090)
  | 1 => (decide (0x094 ≤ off) && decide (off < 0x0A0))
  | 2 => decide (0x080 ≤ off) && decide (off < 0x0A4)
  | 3 => decide (0x084 ≤ off) && decide (off < 0x0A0)
  | 4 => (decide (0x084 ≤ off) && decide (off < 0x088)) || (decide (0x0B0 ≤ off) && decide (off < 0x0D0))
  | _ => decide (0x100 ≤ off)

/-- The registers of a page that is no mirror, from 0x080 on. -/
def State.bodyRegs (s : State) : PageId → List RegVal
  | .chip => s.chipRegs
  | .chipInt => [r64 0x080 s.intSrcNow.toNat, r32 0x088 s.chip.intVec.toNat]
  | .heat => s.heatRegs
  | .pcx => s.pcxRegs
  | .msh => s.mshRegs
  | .klg => s.klgRegs
  | .fn n => s.fnRegs n
  | .adm n => s.admRegs n
  | .ctx => []
  | .meas i => s.measRegs i
  | .rgn _ => []
  | .egt e => s.egtRegs e
  | .qad r => s.qadRegs r
  | .pke r => s.pkeRegs r
  | .rng => []
  | .ump => s.umpRegs
  | .wdg => s.wdgRegs
  | .tmp => s.tmpRegs
  | .aod => s.aodRegs
  | .erg => s.ergRegs
  | .fgt => s.fgtRegs
  | .psq => s.psqRegs
  | .cci => s.cciRegs
  | .lcs => s.lcsRegs
  | .dbg => s.dbgRegs
  | .bst => s.bstRegs
  | .otp => []
  | .evidence => s.evRegs
  | .mirror _ => []

/-- A register of a mirror's source as the mirror shows it: of the source's width, with the copied value. -/
def Mirror.shows (m : Mirror) (r : RegVal) : RegVal :=
  let lo := (m.words.get 0 r.off).toNat
  { r with val := if r.wide then lo + 4294967296 * (m.words.get 0 (r.off + 4)).toNat else lo }

/-- The registers of mirror k (R37 to R39, R60, R61): its own PG_ID with INST bit 15 set, PG_CAPS and PG_PRESENT, whose values do not
wait for a copy, MIRROR_SEQ, and the copied rest. -/
def State.mirrorRegs (s : State) (k : Nat) : List RegVal :=
  let m := s.mirrors.get {} k
  let src := mirrorSource k
  [r32 0x000 (pack [(0, 1), (8, 0x80), (16, pageType (.mirror k))]), r32 0x004 (s.pageCaps src),
   r32 0x008 (pack [(0, 1), (1, b2n (s.fusedOff src)), (2, ((m.words.get 0 0x008) >>> 2).toNat % 2)]), r32 0x07C m.seq.toNat]
    ++ ((s.headRegs src).filter fun r => decide (0x00C ≤ r.off)).map m.shows
    ++ ((s.bodyRegs src).filter fun r => mirrorCopies k r.off).map m.shows

/-- Every register of a present page. -/
def State.pageRegs (s : State) (p : PageId) : List RegVal :=
  match p with
  | .mirror k => s.mirrorRegs k
  | _ => s.headRegs p ++ s.bodyRegs p

/-- The page is readable now: present, and not an accelerator page in a reset other than the chip pages (R53, R55). -/
def State.readablePage (s : State) (p : PageId) : Bool :=
  s.present p && (!(PageId.accel p && s.chip.accReset) || p == PageId.chip || p == PageId.chipInt)

/-- The register that holds a byte offset. -/
def findReg (l : List RegVal) (off : Nat) : Option RegVal :=
  l.find? fun r => decide (r.off ≤ off) && decide (off < r.off + (if r.wide then 8 else 4))

/-- The 32-bit word at a byte offset of a page; a reserved offset reads zero (R49, R53). -/
def State.pageWord (s : State) (p : PageId) (off : Nat) : W32 :=
  if s.readablePage p then
    match findReg (s.pageRegs p) (off / 4 * 4) with
    | some r => BitVec.ofNat 32 (r.val / 2 ^ (8 * (off / 4 * 4 - r.off)))
    | none => 0
  else 0

/-- The value a register at a byte offset reads, whole (R48). -/
def State.pageReg (s : State) (p : PageId) (off : Nat) : W64 :=
  if s.readablePage p then
    match (s.pageRegs p).find? fun r => r.off == off with
    | some r => BitVec.ofNat 64 r.val
    | none => 0
  else 0

/-- Tamper-log entry `i` as bank 0x030 shows it. -/
def State.logBytes (s : State) (i : Nat) : List Byte :=
  match s.aod.log.get none i with
  | some r => r.bytes
  | none => List.replicate 32 0

end Sys2Proof.Machine
end

