-- ==== Sys2Proof/Machine/SelfTest.lean ====
section
/-!
DEFINITION. Built-in self-test (R460 to R462), the patrol scrubber and poison (R454 to R456), the random-number health tests
(R458, R459), and the eights' published cadence (R28).
-/

namespace Sys2Proof.Machine

/-! ### Built-in self-test -/

/-- The page of a target: 1 eight, 2 quad, 3 pair, 4 region hub, 5 region (R461). -/
def bstPage (kind inst : Nat) : Option PageId :=
  match kind with
  | 1 => some (.egt inst)
  | 2 => some (.qad inst)
  | 3 => some (.pke inst)
  | 4 => some (.rgn inst)
  | 5 => some (.rgn inst)
  | _ => none

/-- A test may start on a target: quarantined itself, or in a tamper-quarantined region; a region needs its region or every
present block of it quarantined (R460). -/
def State.bstAllowed (s : State) (kind inst : Nat) (p : PageId) : Bool :=
  let r := if kind = 1 then inst / 3 else inst
  s.quarantined p || s.aod.quar.getLsbD r
    || (kind == 5 && ((regionPages r).drop 1).all fun q => !s.present q || s.quarantined q)

/-- The name of a target's last result. -/
def bstKey (b : Bst) : Nat := b.kind.toNat * 256 + b.inst.toNat

/-- A test is asked for: refused on an absent target (cause 2) or one in service (cause 1), else it runs. -/
def State.bstStart (s : State) : State :=
  let refuse := fun (c : Nat) => s.onBst fun b => { b with done := true, cause := BitVec.ofNat 4 c, result := 0, resultN := 0 }
  if s.bst.busy = true ∨ s.bst.test = 0 ∨ 3 < s.bst.test.toNat then s
  else
    match bstPage s.bst.kind.toNat s.bst.inst.toNat with
    | none => refuse 2
    | some p =>
      if s.present p = false then refuse 2
      else if s.bstAllowed s.bst.kind.toNat s.bst.inst.toNat p = false then refuse 1
      else s.onBst fun b => { b with busy := true, done := false, cause := 0, result := 0, resultN := 0, runs := b.runs + 1
                                     passed := b.passed.filter (· != bstKey b) }

/-- BST_START (R460): by the Umpire, on the target that BST_CMD holds. -/
def execBstStart (s : State) : Out := .next s.bstStart

/-- BST_ABORT (R462). -/
def execBstAbort (s : State) : Out := .next (s.bstEnd 3)

/-- The pages that a target's test zeroes and its release returns to service. -/
def bstPages (kind inst : Nat) : List PageId :=
  if kind = 5 then regionPages inst else (bstPage kind inst).toList

/-- A block's memories as a test leaves them: zeroed (R460). -/
def State.zeroBlock (s : State) (p : PageId) : State :=
  match p with
  | .egt e => s.modEight e fun x => { x with slots := [], keyCache := [], holdPages := 0 }
  | .pke r => (s.wipeSlice (2 * r)).wipeSlice (2 * r + 1)
  | _ => s

/-- A test ends with a doubled pair (R460). `pass`: the memories and the comparison of the two computations passed; a logic
test passes only with the signature fused for the kind. -/
def State.bstFinish (s : State) (pass : Bool) (sig : W64) (failAddr : BitVec 30) : State :=
  if s.bst.busy = false then s
  else
    let logic := s.bst.test.getLsbD 0
    let ok := pass && (!logic || sig == Config.bstExpected s.bst.kind.toNat)
    let s1 := (bstPages s.bst.kind.toNat s.bst.inst.toNat).foldl State.zeroBlock s
    let s2 := s1.onBst fun b =>
      { b with busy := false, done := true, cause := 0, result := if ok then 0x96 else 0x5A
               resultN := if ok then 0x69 else 0xA5, sig := if logic then sig else b.sig
               sigExp := Config.bstExpected b.kind.toNat
               failAddr := if b.test.getLsbD 1 then failAddr else b.failAddr
               passed := if ok then addNew b.passed (bstKey b) else b.passed }
    s2.setBit .bst (if ok then 8 else 9)

/-- BST_DONE (R460, R461). -/
def execBstDone (pass : Bool) (sig : W64) (failAddr : BitVec 30) (s : State) : Out := .next (s.bstFinish pass sig failAddr)

/-- A block returns to service with every isolated cell (R13, R17). -/
def State.freeBlock (s : State) (p : PageId) : State :=
  let s1 := s.modHdr p fun h => { h with quar := false }
  match p with
  | .egt e => s1.modEight e fun x => { x with isolated := 0, lastFault := [] }
  | .qad r => s1.modQuad r fun x => { x with isolated := 0, pendIso := 0, lastFault := [] }
  | .pke r =>
    let f := fun (x : Slice) => { x with isolated := false, pendIso := false, lastFault := none }
    (s1.modSlice (2 * r) f).modSlice (2 * r + 1) f
  | _ => s1

/-- A region returns to service from block and tamper quarantine, and the log says so (R404, R409, R423). -/
def State.freeRegion (s : State) (r : Nat) : State :=
  let s1 := (regionPages r).foldl State.freeBlock s
  (s1.onAod fun a => { a with quar := a.quar &&& ~~~(1#4 <<< r) }).syncQuar

/-- BST_RELEASE (R461, R13): only a target whose last result is PASS, else cause 5. A block whose region is tamper-quarantined
gets its cells back and stays out of service until the region passes (R404). -/
def execBstRelease (s : State) : Out :=
  s.powered fun s =>
  if s.bst.passed.contains (bstKey s.bst) = false then .next (s.onBst fun b => { b with cause := 5 })
  else
    let r := s.bst.region
    if s.bst.kind = 5 then .next (s.freeRegion r)
    else match bstPage s.bst.kind.toNat s.bst.inst.toNat with
      | none => .next s
      | some p =>
        let s1 := s.freeBlock p
        .next (if s.aod.quar.getLsbD r then s1.modHdr p fun h => { h with quar := true } else s1).syncQuar

/-! ### Memory errors (R454 to R456) -/

/-- The page of the block that owns a memory, by its DETAIL code (R455). -/
def memPage (m : MemLoc) : PageId :=
  match m.mem with
  | 4 => .qad m.unit
  | 5 => .pke m.unit
  | 6 => .klg
  | 7 => .ctx
  | 8 => .msh
  | 9 => .ump
  | _ => .egt m.unit

/-- The block kind that owns a block memory, by its DETAIL code (R455). -/
def memKind (m : Nat) : BlockKind :=
  match m with
  | 4 => .quad
  | 5 => .pair
  | _ => .eight

/-- An uncorrectable error in control state of the Marshal, the ledger or the context cache (R18, R82): every request in flight
completes with BLOCK_FAULT, the PF reports Uncorrectable Internal Error, and the accelerator domain is reset. -/
def State.controlError (s : State) : State :=
  let s1 := s.atOnce fun s => (s.reqsWhere fun _ => true).foldl (fun s r => s.finish1 r { st := 0x72 }) s
  ((s1.reportAer 0 .uncorrectableInternal true).emit .errFatal).accReset true

/-- A poisoned word of a block memory that a unit of work uses (R456, R457): a data word ends its request with POISONED, a word of a
key cache, a program store or a pair's private memory raises the block alarm. -/
def State.poisonUsed (s : State) (m : MemLoc) (n : Nat) : State :=
  let k := memKind m.mem
  match s.unitJob k m.unit n with
  | none => if s.directIn k m.unit n then s.directFail m.unit 0x75 else s
  | some j =>
    if m.mem = 1 ∨ m.mem = 2 ∨ m.mem = 5 then s.alarm k m.unit [j] 0x81 m.mem true else s.failJob j { st := 0x75 }

/-- What an uncorrectable word brings besides its record (R456, R283, R18): the outcome of its use, where a unit of work uses it, then
the quarantine of its block; the failure of its slot; the mark on a context or on a word of Umpire SRAM; or, in control state, a reset
of the accelerator domain. -/
def State.uncorrectable (s : State) (m : MemLoc) : State :=
  if m.ctrl = true ∧ 6 ≤ m.mem ∧ m.mem ≤ 8 then s.controlError
  else
    match m.mem with
    | 6 => if (s.kslot m.word).occupied then s.failSlot m.word 0x89 else s
    | 7 => s.modJob m.unit fun b => if b.resident then { b with poison := true } else b
    | 8 => match m.used with
      | some r => s.finish r { st := 0x75 }
      | none => s
    | 9 => s.onUmp fun u => { u with poison := addNew u.poison m.word }
    | _ =>
      let s1 := match m.used with
        | some n => s.poisonUsed m n
        | none => s
      s1.quarantine (memKind m.mem) m.unit

/-- A word whose read-back after a wipe fails (R463, R253): a block memory takes its block out of service; of the ledger, the context
cache and the Marshal's staging the PF reports Uncorrectable Internal Error, and the reset does not complete (ACC_RESET_COMPLETE); of
Umpire SRAM, where the boot ROM's repeat has failed too, the device enters SAFE_HOLD. -/
def State.wipeFailed (s : State) (m : MemLoc) : State :=
  let p := memPage m
  match m.mem with
  | 6 | 7 | 8 => (((s.recErr p 0x81 m.mem).setBit p 1).reportAer 0 .uncorrectableInternal true).emit .errFatal
  | 9 => ((s.recErr p 0x81 m.mem).setBit p 1).enterSafeHold
  | 5 => ((s.recErr p 0x93 (m.used.getD 0)).setBit p 1).quarantine .pair m.unit
  | _ => ((s.recErr p 0x81 m.mem).setBit p 1).quarantine (memKind m.mem) m.unit

/-- What one read of a word with `symbols` symbols in error finds: one is corrected, two are uncorrectable; what three or
more give is open (R454; log entry 3). -/
def State.scrub (s : State) (m : MemLoc) (symbols : Nat) (overwritten : Bool) : State :=
  let p := memPage m
  let seen : Nat := if symbols < 3 then symbols else (Config.free 2 s.freeCtr : BitVec 2).toNat % 3
  let s0 := if symbols < 3 then s else s.spend 1
  match seen with
  | 0 => s0
  | 1 => (s0.recErr p 0x80 m.mem).setBit p 0
  | _ =>
    if m.wipe then s0.wipeFailed m
    else
      let s1 := (s0.recErr p 0x81 m.mem).setBit p 1
      if overwritten then s1 else s1.uncorrectable m

/-- PATROL_SCRUB (R455): a word that a write reached first keeps that write, and its mark is gone (R456). The row also stands for any
other read of a word, the read-back of a wipe among them, for which the table has none (DESIGN CHOICE, log entry 69). -/
def execPatrolScrub (m : MemLoc) (symbols : Nat) (overwritten : Bool) (s : State) : Out :=
  if s.aod.onCell = true ∨ 9 < m.mem ∨ s.usable (memPage m) = false then .next s else .next (s.scrub m symbols overwritten)

/-! ### Random-number health (R458, R459) -/

/-- TRNG_HEALTH_FAIL (R459): a second failure within 1 s stops the instances, a third within 60 s for good. -/
def execTrngHealthFail (s : State) : Out :=
  if s.aod.onCell then .next s
  else
    let recent := s.rng.fails.filter fun t => decide (s.now < t + 60 * second)
    let soon := recent.any fun t => decide (s.now < t + second)
    let third := decide (2 ≤ recent.length)
    let s1 := s.setBit .rng 8
    let s2 := s1.onRng fun g => { g with fails := recent ++ [s.now] }
    if soon = true ∨ third = true then
      .next ((s2.onRng fun g => { g with stopped := true, started := false, locked := g.locked || third }).setBit .rng 9)
    else .next s2

/-- TRNG_STARTUP_TEST_DONE (R458, R459): output begins or resumes, unless a third failure has locked it. -/
def execTrngStartupTestDone (s : State) : Out :=
  if s.aod.onCell = true ∨ s.rng.locked = true then .next s
  else .next (s.onRng fun g => { g with started := true, stopped := false })

/-- DRBG_RESEED (R458): instance 0 to 3 of a region hub, or 4 of the RNG page. -/
def execDrbgReseed (i : Nat) (s : State) : Out :=
  if s.rng.started = true ∧ s.rng.stopped = false ∧ (i = 4 ∨ i < s.variant.regions) then
    .next (s.onRng fun g => { g with reseeds := g.reseeds + 1 })
  else .next s

/-! ### Cadence (R28, R439) -/

/-- Seats in service: non-isolated seats of eights that are not quarantined. -/
def State.seats (s : State) : Nat :=
  (List.range s.variant.eights).foldl (fun n e =>
    if s.quarantined (.egt e) then n else n + 8 - popBelow ((s.eight e).isolated.setWidth 32) 8) 0

/-- q as a fraction: CHIP_CADENCE_NORM over 20 Gbit/s a seat (R439). -/
def State.qNum (s : State) : Nat := s.chip.cadenceNorm.toNat
/-- The denominator of q. -/
def State.qDen (s : State) : Nat := 20 * s.seats

/-- q > 1.03. -/
def State.qHigh (s : State) : Bool := decide (103 * s.qDen < 100 * s.qNum)

/-- The published rating (R441): floor(rated × q) at the voltage ceiling, never above the rated figure; unchanged while q
cannot be formed. -/
def State.reRate (s : State) : State :=
  let rated := s.variant.rated.toNat
  if s.qNum = 0 ∨ s.qDen = 0 then s
  else if s.chip.ratingReduced = true ∨ (s.erg.setMv = 850 ∧ s.qNum < s.qDen) then
    let r := min rated (rated * s.qNum / s.qDen)
    let s1 := s.modChip fun c => { c with rating := BitVec.ofNat 16 r, ratingReduced := decide (r < rated) }
    if r < s.chip.rating.toNat then s1.setBit .erg 11 else s1
  else s

/-- VCORE has reached 0.85 V with q < 1: the rating is cut at once (R441). -/
def State.rateCut (s : State) : State :=
  if s.umpUp = true ∧ s.chip.ratingReduced = false ∧ s.erg.setMv = 850 ∧ s.qNum < s.qDen then s.reRate else s

/-- EIGHT_CADENCE_UPDATE (R28): published by an eight in service. -/
def execEightCadenceUpdate (e : Nat) (blocks norm : W32) (s : State) : Out :=
  if s.usable (.egt e) = false ∨ s.chip.accReady = false then .next s
  else
    let s1 := (s.modEight e fun x => { x with cadence := blocks, cadenceNorm := norm }).sumCadence
    .next ((s1.onErg fun g => { g with highSince := if s1.qHigh then (match g.highSince with
      | some t => some t
      | none => some s.now) else none }).rateCut)

end Sys2Proof.Machine
end

