-- ==== Sys2Proof/Machine/Ageing.lean ====
section
/-!
DEFINITION. Erg chains and adaptive voltage scaling (R438 to R442).
-/

namespace Sys2Proof.Machine

/-- A measurement begins (R438, R442). -/
def State.measureStart (s : State) : State := if s.umpUp then s.onErg fun e => { e with measuring := true } else s

/-- MEASURE (R442): a write of ERG_CTRL.MEASURE. -/
def execMeasure (s : State) : Out := .next s.measureStart

/-- The worst slowdown and the lowest chain that has it. -/
def worstOf (slow : List (BitVec 16)) : BitVec 16 × Nat :=
  ((List.range slow.length).zip slow).foldl (fun a x => if a.1 < x.2 then (x.2, x.1) else a) (0, 0)

/-- RE_PLAN is raised (R440): on the chip page and the ERG page, and as an event on sensor 36. -/
def State.raiseRePlan (s : State) (months : BitVec 16) : State :=
  ((s.modChip fun c => { c with rePlan := true }).setBit .erg 10).pldmEvent 36 (months.toNat : Int)

/-- ERG_MEASUREMENT (R438, R440, R441): the normalised counts, the slowdowns of the chains, and the months that the fit
projects. -/
def execErgMeasurement (counts slow : List (BitVec 16)) (months : BitVec 16) (s : State) : Out :=
  if s.umpUp = false then .next s
  else
    let w := worstOf (slow.take 48)
    let s1 := s.onErg fun e =>
      { e with now := (List.range 48).foldl (fun m k => m.set 0 k (counts.getD k 0)) [], worst := w.1
               worstChain := BitVec.ofNat 6 w.2, proj := months, last := s.aod.rtc, measuring := false }
    let s1 := s1.setBit .erg 8
    let s2 := if months.toNat ≤ 36 then s1.raiseRePlan months else s1
    .next s2.reRate

/-- The loop may take a step: AVS on, q formed, a millisecond since the last one (R439). -/
def State.avsReady (s : State) : Bool :=
  s.umpUp && s.erg.avsEn && s.qNum != 0 && s.qDen != 0 && !s.within s.erg.lastStep 33

/-- AVS_STEP (R439): up while q < 1, down after 60 s of q > 1.03, within 650 to 850 mV; without an acknowledgement the setpoint
holds and AVS_FAULT sets. -/
def execAvsStep (up ack : Bool) (s : State) : Out :=
  let due := if up then decide (s.qNum < s.qDen) && decide (s.erg.setMv.toNat + 5 ≤ 850)
    else s.qHigh && decide (655 ≤ s.erg.setMv.toNat) && (match s.erg.highSince with
      | some t => decide (t + 60 * second ≤ s.now)
      | none => false)
  if s.avsReady = false ∨ due = false then .next s
  else
    let mv := if up then s.erg.setMv + 5 else s.erg.setMv - 5
    let s1 := (s.emit (.avs mv.toNat)).onErg fun e => { e with lastStep := some s.now }
    if ack then .next ((s1.onErg fun e => { e with setMv := mv }).setBit .erg 9).rateCut else .next (s1.setBit .erg 12)

end Sys2Proof.Machine
end

