-- ==== Sys2Proof/Machine/Mgmt.lean ====
section
/-!
DEFINITION. Management requests (R422, R423) and the Umpire event log (R424).
-/

namespace Sys2Proof.Machine

/-! ### Serving a request (R422) -/

/-- What a request answers: status, detail, result. -/
structure MgmtRes where
  st : Nat := 0
  detail : Nat := 0
  res : List Byte := []
  deriving DecidableEq, Repr

/-- The action failed for a cause that no rule numbers: the detail is open (log entry 3). -/
def State.mgmtFailed (s : State) : State × MgmtRes :=
  (s.spend 1, { st := 6, detail := (Config.free 8 s.freeCtr : BitVec 8).toNat })

/-- The response leaves on the request's transport. -/
def State.mgmtAnswer (s : State) (t : Transport) (code : Nat) (seq : BitVec 8) (x : MgmtRes) : State :=
  s.emit (.mgmt (tIndex t) (byteOf code) seq (byteOf x.st) (byteOf x.detail) x.res)

/-- The life-cycle state is one of a list; an empty list means any. -/
def State.inStates (s : State) (l : List Nat) : Bool := l.isEmpty || l.contains s.lcs.state.toNat

/-- A response that carries a signature: it waits while slots 1 to 5 are absent (R299). -/
def State.mgmtSigned (s : State) (t : Transport) (code : Nat) (seq : BitVec 8) (x : MgmtRes) : State :=
  if s.chip.accReset then
    s.onUmp fun u => { u with held := u.held ++ [.mgmt (tIndex t) (byteOf code) seq (byteOf x.st) (byteOf x.detail) x.res] }
  else s.mgmtAnswer t code seq x

/-- A request is served: argument format, then the requester, then the life-cycle state are checked, then `k` acts and answers. A
request comes over MCTP and needs the Umpire. -/
def State.mgmtTo (s : State) (t : Transport) (code : Nat) (seq : BitVec 8) (fmt permitted : Bool) (states : List Nat)
    (k : State → State) : Out :=
  if s.umpUp = false ∨ t = .doe then .next s
  else if fmt = false then .next (s.mgmtAnswer t code seq { st := 2 })
  else if permitted = false then .next (s.mgmtAnswer t code seq { st := 3 })
  else if s.inStates states = false then .next (s.mgmtAnswer t code seq { st := 4 })
  else .next (k s)

/-- A request whose answer `k` gives is served. -/
def State.mgmt (s : State) (t : Transport) (code : Nat) (seq : BitVec 8) (fmt permitted : Bool) (states : List Nat)
    (k : State → State × MgmtRes) : Out :=
  s.mgmtTo t code seq fmt permitted states fun s => (k s).1.mgmtAnswer t code seq (k s).2

/-- Nothing but the acknowledgement. -/
def mgmtOk (s : State) : State × MgmtRes := (s, {})

/-! ### The requests (R423) -/

/-- GET_STATUS: CHIP_STATUS, PSQ_VERDICT, LCS_STATE, TMP_STATUS, and the evidence page from 0x080 to 0x0A3. -/
def State.statusBytes (s : State) : List Byte :=
  leBytes 4 s.chipStatus ++ leBytes 4 s.psqVerdict ++ leBytes 4 s.lcsState ++ leBytes 4 s.tmpStatus
    ++ (List.range 9).flatMap fun i => leBytes 4 (s.pageWord .evidence (0x080 + 4 * i)).toNat

/-- GET_STATUS. -/
def execGetStatus (t : Transport) (seq : BitVec 8) (args : List Byte) (s : State) : Out :=
  s.mgmt t 0x01 seq args.isEmpty true [] fun s => (s, { res := s.statusBytes })

/-- GROUP_RESET (R320): the PF may reset the host group only. -/
def execGroupReset (t : Transport) (seq : BitVec 8) (args : List Byte) (s : State) : Out :=
  let g := leAt args 0 1
  s.mgmt t 0x02 seq (args.length == 1 && decide (g < 2)) (t == .i3c || g == 0) [] fun s => mgmtOk (s.groupReset g)

/-- RECOVER (R356, R357): PLDM does not serve the BMC group. -/
def execRecover (t : Transport) (seq : BitVec 8) (args : List Byte) (s : State) : Out :=
  let g := leAt args 0 1
  let src := leAt args 1 1
  s.mgmt t 0x03 seq (args.length == 2 && decide (g < 2) && decide (1 ≤ src) && decide (src ≤ 3)) true [] fun s =>
    if g = 1 ∧ src = 2 then s.mgmtFailed else mgmtOk (s.startRecovery g src).progress

/-- ISSUE_CHALLENGE (R384, R385). -/
def execIssueChallenge (t : Transport) (seq : BitVec 8) (args : List Byte) (s : State) : Out :=
  s.mgmtTo t 0x04 seq args.isEmpty true [] fun s =>
    (s.newChallenge.spend 1).mgmtSigned t 0x04 seq { res := s.newChallenge.challengeObject }

/-! ### APPLY_CARD (R377) -/

/-- The first object of a kind that passes a check. -/
def firstObj (os : List CardObj) (kind : Nat) (ok : List Byte → Bool) : List Byte :=
  match os.find? fun o => o.kind.toNat == kind && ok o.data with
  | some o => o.data
  | none => []

/-- A manifest and its policy on the card, where no group waits for a recovery: a staged update (R337). Whether the staged
copy's digest matches is an outside fact (log entry 3). -/
def State.applyStaged (s : State) (os : List CardObj) : State × Nat :=
  if os.any (fun o => o.kind == 2) = false ∨ ([0, 1] : List Nat).any (s.accepts 3) = true then (s, 0)
  else
    let man := firstObj os 2 fun d => s.checkManifest d false == 0
    let pol := firstObj os 4 fun d => s.checkPolicy (manifestOf man) d == 0
    (s.spend 1).stagedUpdate man pol ((Config.free 1 s.freeCtr : BitVec 1) == 1)

/-- One object as a request applies it: its code, 0 on success. -/
def State.applyObject (s : State) (o : CardObj) : State × Nat :=
  match o.kind.toNat with
  | 1 => s.putFirmware o.data
  | 2 => if ([0, 1] : List Nat).any (s.accepts 3) then s.recManifest 3 o.data else (s, 0)
  | 3 => (s.recImage 3 (o.param.toNat % 32) o.data, 0)
  | 4 => s.recPolicy 3 o.data
  | 5 => s.loadProgram o.data
  | 6 => (s.transitionRequest o.data, s.checkTransition o.data)
  | 7 => (s.grantRequest o.data, if s.checkGrant o.data true = 0x10 then 0 else s.checkGrant o.data true)
  | 8 => (s.ownerKeyRequest o.data, s.checkOwnerKey o.data)
  | 9 =>
    if o.param.toNat < 4 ∧ s.chainOk o.param.toNat o.data = true then (s.putChain o.param.toNat o.data, 0) else (s, 1)
  | _ => (s, 0)

/-- The objects in directory order, with the first failing code; an accepted transition restarts the device, and the objects
after it wait for the next insertion (R396). The flag says that it has. -/
def State.applyObjects (s : State) : List CardObj → State × Nat × Bool
  | [] => (s, 0, false)
  | o :: r =>
    let x := s.applyObject o
    if o.kind = 6 ∧ x.2 = 0 then (x.1, 0, true)
    else
      let y := x.1.applyObjects r
      (y.1, if x.2 = 0 then y.2.1 else x.2, y.2.2)

/-- APPLY_CARD: every object for this device; a request that an accepted transition ends has no response (R422). -/
def State.applyCard (s : State) (t : Transport) (seq : BitVec 8) (objs : List CardObj) : State :=
  if s.cci.card.hdr.isEmpty then (s.mgmtFailed.1).mgmtAnswer t 0x05 seq s.mgmtFailed.2
  else
    let os := objs.filter fun o => s.mine o.target
    let a := s.applyStaged os
    let b := a.1.applyObjects os
    let code := if a.2 = 0 then b.2.1 else a.2
    if b.2.2 then b.1 else b.1.mgmtAnswer t 0x05 seq { st := if code = 0 then 0 else 6, detail := code }

/-- APPLY_CARD. -/
def execApplyCard (t : Transport) (seq : BitVec 8) (args : List Byte) (objs : List CardObj) (s : State) : Out :=
  if s.umpUp = false ∨ t = .doe then .next s
  else if args.isEmpty = false then .next (s.mgmtAnswer t 0x05 seq { st := 2 })
  else .next (s.applyCard t seq objs)

/-- EXPORT_AUDIT (R378). -/
def execExportAudit (t : Transport) (seq : BitVec 8) (args : List Byte) (s : State) : Out :=
  s.mgmt t 0x06 seq args.isEmpty true [] fun s =>
    if s.exportAudit.2 then mgmtOk s.exportAudit.1 else s.exportAudit.1.mgmtFailed

/-- ERASE_GRANT (R392): it takes effect at the next start. -/
def execEraseGrant (t : Transport) (seq : BitVec 8) (args : List Byte) (s : State) : Out :=
  s.mgmt t 0x07 seq args.isEmpty true [2, 3] fun s => mgmtOk (s.onStore fun x => { x with grant := none, grantRaw := [] })

/-! ### QUAR_RELEASE (R17, R404, R462) -/

/-- The self-tests that release a region: the region as a whole, or each quarantined block of it. -/
def State.releaseTests (s : State) (r : Nat) : List (Nat × Nat) :=
  if s.bstAllowed 5 r (.rgn r) then [(5, r)]
  else ([(1, 3 * r), (1, 3 * r + 1), (1, 3 * r + 2), (2, r), (3, r)] : List (Nat × Nat)).filter fun x =>
    match bstPage x.1 x.2 with
    | some p => s.quarantined p
    | none => false

/-- One test run through the BST page, both kinds, with its outcome. -/
def State.runTest (s : State) (ok : Bool) (x : Nat × Nat) : State :=
  let s1 := s.onBst fun b => { b with test := 3, kind := BitVec.ofNat 4 x.1, inst := byteOf x.2, busy := false }
  s1.bstStart.bstFinish ok (Config.bstExpected x.1) 0

/-- A named region is tested and, if it passes, released. -/
def State.releaseRegion (s : State) (failed : BitVec 4) (r : Nat) : State :=
  let s1 := (s.releaseTests r).foldl (fun s x => s.runTest (!failed.getLsbD r) x) s
  if failed.getLsbD r then s1 else s1.freeRegion r

/-- QUAR_RELEASE; `failed`: the regions whose test fails. A region that the variant lacks has no test to pass. -/
def execQuarRelease (t : Transport) (seq : BitVec 8) (args : List Byte) (failed : BitVec 4) (s : State) : Out :=
  let mask : BitVec 4 := BitVec.ofNat 4 (leAt args 0 1)
  s.mgmt t 0x08 seq (args.length == 1 && decide (leAt args 0 1 < 16)) (t == .vdm) [] fun s =>
    let there : BitVec 4 := BitVec.ofNat 4 (2 ^ s.variant.regions - 1)
    let bad := mask &&& (failed ||| ~~~there)
    let good := mask &&& ~~~bad
    let s1 := (maskRegions (mask &&& there)).foldl (fun s r => s.releaseRegion failed r) s
    let s2 := if good = 0 then s1
      else (s1.logTamper (s1.newRec 0x16 0 (Config.free 16 s1.freeCtr : BitVec 16).toNat 0 s1.now good)).spend 1
    (s2, { st := if bad = 0 then 0 else 6, detail := bad.toNat })

/-- SET_MEAS_ACL (R241, R244): a frozen or locked list, or a reset in progress, makes it fail. -/
def execSetMeasAcl (t : Transport) (seq : BitVec 8) (args : List Byte) (s : State) : Out :=
  let n := leAt args 0 1
  s.mgmt t 0x09 seq (args.length == 9 && decide (32 ≤ n) && decide (n < 64)) (t == .vdm) [] fun s =>
    if s.chip.accReset then s.mgmtFailed
    else
      let s1 := s.writeAcl n (BitVec.ofNat 64 (leAt args 1 8))
      if bit (s.hdr (.meas 1)).lock 0 = true ∨ (s.mreg n).cnt ≠ 0 then s1.mgmtFailed else mgmtOk s1

/-- DISABLE_SOURCE (R407). -/
def execDisableSource (t : Transport) (seq : BitVec 8) (args : List Byte) (s : State) : Out :=
  s.mgmt t 0x0A seq (args.length == 2 && decide (leAt args 0 2 < 16384)) true [1, 2] fun s =>
    mgmtOk (s.onOtp fun o => { o with disable := o.disable ||| BitVec.ofNat 14 (leAt args 0 2) })

/-- PROGRAM_MON_CONFIG (R406): the next of four slots; a class field of 0 keeps the class in force. -/
def execProgramMonConfig (t : Transport) (seq : BitVec 8) (args : List Byte) (s : State) : Out :=
  s.mgmt t 0x0B seq (args.length == 12) true [1, 2] fun s =>
    if 4 ≤ s.otp.mon.length then s.mgmtFailed
    else
      let c : MonCfg := { cls := mergeClass s.tmp.cls (BitVec.ofNat 32 (leAt args 0 4))
                          region := BitVec.ofNat 64 (leAt args 4 8), valid := true }
      mgmtOk ((s.onOtp fun o => { o with mon := o.mon ++ [c] }).logPlain 0x15)

/-- A fuse field that a request blows: a zero leaves it as it is, unprogrammed fuses reading zero (R429). -/
def blowOnce {w : Nat} (old : Option (BitVec w)) (v : Nat) : Option (BitVec w) := if v = 0 then old else some (BitVec.ofNat w v)

/-- SET_WDG_FUSES (R429, R434): each field once. -/
def execSetWdgFuses (t : Transport) (seq : BitVec 8) (args : List Byte) (s : State) : Out :=
  s.mgmt t 0x0C seq (args.length == 2 && decide (leAt args 0 1 < 4) && decide (leAt args 1 1 < 8)) true [1, 2] fun s =>
    let win := leAt args 0 1
    let rep := leAt args 1 1
    if (win ≠ 0 ∧ s.otp.wdgWin.isSome = true) ∨ (rep ≠ 0 ∧ s.otp.wdgRep.isSome = true) then s.mgmtFailed
    else mgmtOk (s.onOtp fun o => { o with wdgWin := blowOnce o.wdgWin win, wdgRep := blowOnce o.wdgRep rep })

/-- ERG_MEASURE (R438). -/
def execErgMeasure (t : Transport) (seq : BitVec 8) (args : List Byte) (s : State) : Out :=
  s.mgmt t 0x0D seq args.isEmpty true [] fun s => mgmtOk s.measureStart

/-- The bytes of an event-log entry (R424). -/
def Ev.bytes (e : Ev) : List Byte :=
  leBytes 6 e.ticks.toNat ++ leBytes 2 e.page.toNat ++ [e.code, e.flags] ++ leBytes 6 e.detail.toNat

/-- GET_EVENTS: up to 64 entries from an index, oldest first. -/
def execGetEvents (t : Transport) (seq : BitVec 8) (args : List Byte) (s : State) : Out :=
  s.mgmt t 0x0E seq (args.length == 2) true [] fun s =>
    (s, { res := ((s.ump.events.drop (leAt args 0 2)).take 64).flatMap Ev.bytes })

/-- MGMT_UNSUPPORTED: a code that names no request. -/
def execMgmtUnsupported (t : Transport) (seq : BitVec 8) (code : BitVec 8) (s : State) : Out :=
  if s.umpUp = false ∨ t = .doe ∨ (1 ≤ code.toNat ∧ code.toNat ≤ 0x0E) then .next s
  else .next (s.mgmtAnswer t code.toNat seq { st := 1 })

/-- EVENT_LOG_COPY (R424). -/
def execEventLogCopy (s : State) : Out :=
  if s.umpUp then .next (s.onUmp fun u => { u with eventCopy := u.events }) else .next s

end Sys2Proof.Machine
end

