-- ==== Sys2Proof/Machine/Pldm.lean ====
section
/-!
DEFINITION. PLDM (R425 to R427): the base commands, the sensors and their events, firmware update, and the I3C address (R475).
Codes and message layouts that the spec takes from the PLDM standards are named in notes/assumptions/8.md.
-/

namespace Sys2Proof.Machine

/-- A PLDM response: completion code, then data. -/
def State.pldmAnswer (s : State) (t : Nat) (cmd code : Nat) (data : List Byte) : State :=
  s.emit (.pldm t (byteOf cmd) (byteOf code) data)

/-- A PLDM command is served: over MCTP, by a running Umpire. -/
def State.pldmServe (s : State) (t : Transport) (k : State → State) : Out :=
  if s.umpUp = false ∨ t = .doe then .next s else .next (k s)

/-! ### Type 0 (R425) -/

/-- GET_TID: no terminus ID has been assigned. -/
def execGetTid (t : Transport) (s : State) : Out := s.pldmServe t fun s => s.pldmAnswer (tIndex t) 0x02 0 [0]

/-- The PLDM types supported. -/
def pldmTypes : List Nat := [0, 2, 5]

/-- GET_PLDM_VERSION: which version of a type is served is open (log entry 3). -/
def execGetPldmVersion (t : Transport) (type : BitVec 8) (s : State) : Out :=
  s.pldmServe t fun s =>
    if pldmTypes.contains type.toNat then
      let v := leBytes 4 (Config.free 32 s.freeCtr : BitVec 32).toNat
      (s.spend 1).pldmAnswer (tIndex t) 0x03 0 (leBytes 4 0 ++ [5] ++ v ++ leBytes 4 (crc32 v).toNat)
    else s.pldmAnswer (tIndex t) 0x03 0x83 []

/-- A bit field of the given bits, in bytes. -/
def bitField (n : Nat) (l : List Nat) : List Byte := leBytes n (l.foldl (fun a b => a + 2 ^ b) 0)

/-- GET_PLDM_TYPES. -/
def execGetPldmTypes (t : Transport) (s : State) : Out :=
  s.pldmServe t fun s => s.pldmAnswer (tIndex t) 0x04 0 (bitField 8 pldmTypes)

/-- The commands of a type, by their standard codes. -/
def pldmCommands (type : Nat) : List Nat :=
  match type with
  | 0 => [2, 3, 4, 5]
  | 2 => [0x04, 0x10, 0x11, 0x21, 0x50, 0x51]
  | 5 => [0x01, 0x02, 0x10, 0x13, 0x14, 0x1A, 0x1B, 0x1C, 0x1D]
  | _ => []

/-- GET_PLDM_COMMANDS. -/
def execGetPldmCommands (t : Transport) (type : BitVec 8) (s : State) : Out :=
  s.pldmServe t fun s =>
    if pldmTypes.contains type.toNat then s.pldmAnswer (tIndex t) 0x05 0 (bitField 32 (pldmCommands type.toNat))
    else s.pldmAnswer (tIndex t) 0x05 0x83 []

/-! ### Type 2: sensors (R425) -/

/-- SET_EVENT_RECEIVER: events are turned off (0) or sent to an endpoint (1). -/
def execSetEventReceiver (t : Transport) (enable eid : BitVec 8) (s : State) : Out :=
  s.pldmServe t fun s =>
    if 1 < enable.toNat then s.pldmAnswer (tIndex t) 0x04 0x81 []
    else
      (s.onMon fun m => { m with receiver := m.receiver.set none (tIndex t) (if enable = 1 then some eid else none) }).pldmAnswer
        (tIndex t) 0x04 0 []

/-- A numeric sensor. -/
def isNumeric (n : Nat) : Bool := decide (1 ≤ n) && decide (n ≤ 36)
/-- A state sensor. -/
def isStateSensor (n : Nat) : Bool := decide (40 ≤ n) && decide (n ≤ 44)

/-- Every sensor, in order. -/
def sensors : List Nat := (List.range 36).map (· + 1) ++ (List.range 5).map (· + 40)

/-- The thresholds of a sensor, in its unit (R400, R425): warning, critical, fatal; or UV, OV. -/
def thresholds (n : Nat) : List Nat :=
  if 1 ≤ n ∧ n ≤ 24 then [100, 105, 110]
  else match n with
    | 25 => [600, 900]
    | 26 => [720, 880]
    | 27 => [675, 825]
    | 28 => [1080, 1320]
    | 29 => [1620, 1980]
    | 30 => [2970, 3630]
    | 31 => [1620, 1980]
    | 36 => [36]
    | _ => []

/-- GET_PDR_REPOSITORY_INFO: 41 records; sizes and times are open (log entry 3). -/
def execGetPdrRepositoryInfo (t : Transport) (s : State) : Out :=
  s.pldmServe t fun s =>
    (s.spend 1).pldmAnswer (tIndex t) 0x50 0
      ([0] ++ leBytes 4 sensors.length ++ leBytes 34 (Config.free 272 s.freeCtr : BitVec 272).toNat)

/-- GET_PDR: handle k names the k-th sensor's record, handle 0 the first. -/
def execGetPdr (t : Transport) (handle : W32) (s : State) : Out :=
  s.pldmServe t fun s =>
    let k := if handle = 0 then 1 else handle.toNat
    match sensors[k - 1]? with
    | none => s.pldmAnswer (tIndex t) 0x51 0x82 []
    | some n =>
      let next := if k < sensors.length then k + 1 else 0
      s.pldmAnswer (tIndex t) 0x51 0 (leBytes 4 next ++ [if isNumeric n then 2 else 4] ++ leBytes 2 n
        ++ (thresholds n).flatMap (leBytes 2))

/-- What a numeric sensor reads; a diode or a rail is read outside the model (log entry 3). -/
def State.numericReading (s : State) (n : Nat) : Nat :=
  match n with
  | 32 => s.erg.setMv.toNat
  | 33 => (s.pageWord .chip 0x090).toNat
  | 34 => s.chip.rating.toNat
  | 35 => s.erg.worst.toNat
  | 36 => s.erg.proj.toNat
  | _ => (Config.free 16 s.freeCtr : BitVec 16).toNat

/-- GET_SENSOR_READING: operational state (0 enabled, 1 disabled) and reading. -/
def execGetSensorReading (t : Transport) (sensor : Nat) (s : State) : Out :=
  s.pldmServe t fun s =>
    if isNumeric sensor then
      (if sensor < 32 then s.spend 1 else s).pldmAnswer (tIndex t) 0x11 0
        ([byteOf (b2n (s.mon.disabled.contains sensor))] ++ leBytes 4 (s.numericReading sensor))
    else s.pldmAnswer (tIndex t) 0x11 0x80 []

/-- A group as sensors 43 and 44 show it: 0 held, 1 released, 2 recovery. -/
def groupCode : GroupState → Nat
  | .held => 0
  | .off => 0
  | .released => 1
  | .recovery => 2

/-- What a state sensor reads. -/
def State.stateReading (s : State) (n : Nat) : Nat :=
  match n with
  | 40 => s.lcs.state.toNat
  | 41 => if s.tmp.respA then 1 else if s.tmp.respB then 2 else if s.aod.pending then 3 else 0
  | 42 => s.wdg.consec
  | 43 => groupCode s.psq.host
  | _ => groupCode s.psq.bmc

/-- GET_STATE_SENSOR_READINGS: one state set: operational state, present state, last reported state. -/
def execGetStateSensorReadings (t : Transport) (sensor : Nat) (s : State) : Out :=
  s.pldmServe t fun s =>
    if isStateSensor sensor then
      s.pldmAnswer (tIndex t) 0x21 0 [1, 0, byteOf (s.stateReading sensor), byteOf (s.mon.reported.get 0 sensor)]
    else s.pldmAnswer (tIndex t) 0x21 0x80 []

/-- SET_NUMERIC_SENSOR_ENABLE: 0 enabled, 1 disabled, 2 unavailable. -/
def execSetNumericSensorEnable (t : Transport) (sensor : Nat) (op : BitVec 8) (s : State) : Out :=
  s.pldmServe t fun s =>
    if isNumeric sensor = false then s.pldmAnswer (tIndex t) 0x10 0x80 []
    else if 2 < op.toNat then s.pldmAnswer (tIndex t) 0x10 0x81 []
    else
      (s.onMon fun m => { m with disabled := if op = 0 then m.disabled.filter (· != sensor) else addNew m.disabled sensor }).pldmAnswer
        (tIndex t) 0x10 0 []

/-- State changes since the last report go to the receivers, sensor by sensor (R425). -/
def State.reportStates (s : State) : State :=
  if s.umpUp = false then s
  else ([40, 41, 42, 43, 44] : List Nat).foldl (fun s n =>
    let v := s.stateReading n
    if v = s.mon.reported.get 0 n then s
    else (s.onMon fun m => { m with reported := m.reported.set 0 n v }).pldmEvent n (v : Int)) s

/-- The threshold level of a temperature: 1 warning, 2 critical, 3 fatal. -/
def tempLevel (temp : Int) : Nat := if 110 ≤ temp then 3 else if 105 ≤ temp then 2 else if 100 ≤ temp then 1 else 0

/-- TEMP_THRESHOLD_CROSSING: the event, which the Umpire sends, and the hold on new strokes from the fatal threshold until every diode reads below
105 °C. -/
def execTempThresholdCrossing (diode : Nat) (temp : Int) (s : State) : Out :=
  if s.aod.onCell = true ∨ 24 ≤ diode ∨ s.mon.level.get 0 diode = tempLevel temp then .next s
  else
    let s1 := s.onMon fun m => { m with level := m.level.set 0 diode (tempLevel temp) }
    let s2 := if s.umpUp = false ∨ s.mon.disabled.contains (diode + 1) = true then s1 else s1.pldmEvent (diode + 1) temp
    let cool := (List.range 24).all fun d => decide (s1.mon.level.get 0 d < 2)
    .next (s2.onChip fun c =>
      { c with thermalHold := if tempLevel temp = 3 then true else if cool then false else c.thermalHold })

/-! ### Type 5: firmware update (R426, R427) -/

/-- The PF device ID (R70). -/
def Variant.deviceCode : Variant → Nat
  | .zk7160 => 0x7160
  | .zk7140 => 0x7140
  | .zk7120 => 0x7120

/-- QUERY_DEVICE_IDENTIFIERS: PCI vendor and device ID, and a vendor-defined descriptor with the DeviceID digest. -/
def execQueryDeviceIdentifiers (t : Transport) (s : State) : Out :=
  s.pldmServe t fun s =>
    s.pldmAnswer (tIndex t) 0x01 0
      ([3] ++ leBytes 2 0 ++ leBytes 2 2 ++ leBytes 2 0x1F3C ++ leBytes 2 0x0100 ++ leBytes 2 2
        ++ leBytes 2 s.variant.deviceCode ++ leBytes 2 0xFFFF ++ leBytes 2 s.deviceId.length ++ s.deviceId)

/-- The components (R426). -/
def components : List Nat := [0x0001, 0x0002, 0x0003, 0x0004, 0x0005, 0x0010, 0x0011, 0x0012, 0x0013]

/-- The loaded programs, ID and VERSION of each (R218, R221). -/
def State.programVersions (s : State) : List Byte :=
  let l := (List.range 32).filterMap fun n => (s.progs.get none n).filter (·.selected)
  byteOf l.length :: l.flatMap fun p => leBytes 2 p.id.toNat ++ leBytes 4 p.version.toNat

/-- GET_FIRMWARE_PARAMETERS: the components, the running firmware's version, the versions of the mode programs. -/
def execGetFirmwareParameters (t : Transport) (s : State) : Out :=
  s.pldmServe t fun s =>
    s.pldmAnswer (tIndex t) 0x02 0 (leBytes 2 components.length ++ components.flatMap (leBytes 2)
      ++ leBytes 4 s.ump.fwVersion.toNat ++ s.programVersions)

/-- REQUEST_UPDATE: one update at a time. -/
def execRequestUpdate (t : Transport) (s : State) : Out :=
  s.pldmServe t fun s =>
    if s.pldm.phase = 0 then (s.onPldm fun _ => { t := tIndex t, phase := 1 }).pldmAnswer (tIndex t) 0x10 0 [0, 0, 0]
    else s.pldmAnswer (tIndex t) 0x10 0x81 []

/-- A component may be updated now: a platform image only in a recovery that takes PLDM (R357, R426). -/
def State.mayUpdate (s : State) (comp : Nat) : Bool :=
  components.contains comp && (comp != 4 || s.accepts 2 0 || (s.carried 2).contains 0)

/-- PASS_COMPONENT_TABLE: byte 0 of the answer is 0 for a component that may be updated, else 1. -/
def execPassComponentTable (t : Transport) (comp param : BitVec 16) (s : State) : Out :=
  s.pldmServe t fun s =>
    if s.pldm.phase ≠ 1 ∧ s.pldm.phase ≠ 2 then s.pldmAnswer (tIndex t) 0x13 0x84 []
    else if s.mayUpdate comp.toNat then
      (s.onPldm fun p => { p with phase := 2, passed := p.passed ++ [comp], param := param }).pldmAnswer (tIndex t) 0x13 0 [0, 0]
    else s.pldmAnswer (tIndex t) 0x13 0 [1, 6]

/-- UPDATE_COMPONENT: the download of a passed component begins. -/
def execUpdateComponent (t : Transport) (comp param : BitVec 16) (size : Nat) (s : State) : Out :=
  s.pldmServe t fun s =>
    if s.pldm.phase ≠ 2 ∨ s.pldm.passed.contains comp = false then s.pldmAnswer (tIndex t) 0x14 0x84 []
    else
      (s.onPldm fun p => { p with phase := 3, comp := comp, param := param, size := size, data := [], result := 0 }).pldmAnswer
        (tIndex t) 0x14 0 [0, 0, 0, 0, 0, 0, 0]

/-- The transfer size (R426). -/
def pldmTransfer : Nat := 4096

/-- REQUEST_FIRMWARE_DATA: the device asks for the next part, and takes the data that answers it. -/
def execRequestFirmwareData (off : Nat) (data : List Byte) (s : State) : Out :=
  let p := s.pldm
  let want := min pldmTransfer (p.size - p.data.length)
  if s.umpUp = false ∨ p.phase ≠ 3 ∨ off ≠ p.data.length ∨ data.length ≠ want ∨ want = 0 then .next s
  else .next ((s.pldmAnswer p.t 0x15 0 (leBytes 4 off ++ leBytes 4 want)).onPldm fun p => { p with data := p.data ++ data })

/-- TRANSFER_COMPLETE: the whole component has arrived, or the transfer has failed. -/
def execTransferComplete (ok : Bool) (s : State) : Out :=
  if s.umpUp = false ∨ s.pldm.phase ≠ 3 then .next s
  else if ok = true ∧ s.pldm.data.length = s.pldm.size then
    .next ((s.pldmAnswer s.pldm.t 0x16 0 [0]).onPldm fun p => { p with phase := 4 })
  else .next ((s.pldmAnswer s.pldm.t 0x16 0 [1]).onPldm fun p => { p with phase := 2, data := [] })

/-- The staged copies that a manifest names, read one after another, have the entries' digests (R337 step 3). -/
def stagedOk : List Entry → List Byte → Bool
  | [], _ => true
  | e :: r, b => sha3_512 (b.take e.len.toNat) == e.digest && stagedOk r (b.drop e.len.toNat)

/-- The recovery of a group takes PLDM. -/
def State.pldmRecovery (s : State) : Bool := s.accepts 2 0 || (s.carried 2).contains 0

/-- The result of VerifyComplete (R426): zero, or the vendor-defined code of the failure; a staged copy that differs has none
(log entry 3). -/
def State.pldmVerify (s : State) (staged : List Byte) : Nat :=
  let d := s.pldm.data
  match s.pldm.comp.toNat with
  | 1 => match s.checkFirmware d with
    | .ok _ => 0
    | .error _ => 0xC1
  | 2 =>
    let c := s.checkManifest d false
    if c ≠ 0 then 0xA0 + c
    else if s.pldmRecovery = true ∨ stagedOk (manifestOf d).entries staged = true then 0
    else 0x90 + (Config.free 6 s.freeCtr : BitVec 6).toNat
  | 3 =>
    let m := if s.pldm.man.isEmpty then (match s.psq.manifest with
      | some m => m
      | none => manifestOf []) else manifestOf s.pldm.man
    let c := s.checkPolicy m d
    if c = 0 then 0 else 0xB0 + c
  | 5 => if (s.checkProgram d).1 = 0 then 0 else 0x90 + (s.checkProgram d).1
  | 0x10 => chain 0 d
  | 0x11 => chain 1 d
  | 0x12 => chain 2 d
  | 0x13 => chain 3 d
  | _ => 0
where
  /-- The result for a chain. -/
  chain (slot : Nat) (d : List Byte) : Nat := if s.chainOk slot d then 0 else 0xC2

/-- VERIFY_COMPLETE: a firmware image is written to the slot not running before its check; a program that fails its checks has its load
report in the event log (R220). -/
def execVerifyComplete (staged : List Byte) (s : State) : Out :=
  if s.umpUp = false ∨ s.pldm.phase ≠ 4 then .next s
  else
    let r := s.pldmVerify staged
    let s1 := if s.pldm.comp = 1 then (s.putFirmware s.pldm.data).1
      else if s.pldm.comp = 5 ∧ r ≠ 0 then s.reportLoad s.pldm.data (s.checkProgram s.pldm.data)
      else s
    .next (((s1.spend 1).pldmAnswer s.pldm.t 0x17 0 [byteOf r]).onPldm fun p =>
      { p with phase := if r = 0 then 5 else 2, result := byteOf r })

/-- A manifest and its policy are written once the update has brought everything it announced (R337 step 4). -/
def State.pldmStage (s : State) : State :=
  let p := s.pldm
  if p.man.isEmpty = true ∨ (p.passed.contains 3 = true ∧ p.pol.isEmpty = true) then s
  else (s.stagedUpdate p.man p.pol true).1.onPldm fun p => { p with man := [], pol := [] }

/-- A verified component other than a mode program is applied (R426). -/
def State.pldmPut (s : State) : State :=
  let d := s.pldm.data
  match s.pldm.comp.toNat with
  | 2 => if s.accepts 2 0 then (s.recManifest 2 d).1 else (s.onPldm fun p => { p with man := d }).pldmStage
  | 3 => if (s.carried 2).contains 0 then (s.recPolicy 2 d).1 else (s.onPldm fun p => { p with pol := d }).pldmStage
  | 4 => s.recImage 2 (s.pldm.param.toNat % 32) d
  | 0x10 => s.putChain 0 d
  | 0x11 => s.putChain 1 d
  | 0x12 => s.putChain 2 d
  | 0x13 => s.putChain 3 d
  | _ => s

/-- A verified component is applied, with its result: that of a program is the result of its load (R220). -/
def State.pldmApply (s : State) : State × Nat :=
  if s.pldm.comp = 5 then
    let r := s.loadProgram s.pldm.data
    (r.1, if r.2 = 0 then 0 else 0x90 + r.2)
  else (s.pldmPut, 0)

/-- APPLY_COMPLETE. -/
def execApplyComplete (s : State) : Out :=
  if s.umpUp = false ∨ s.pldm.phase ≠ 5 then .next s
  else
    let r := s.pldmApply
    .next ((r.1.pldmAnswer s.pldm.t 0x18 0 [byteOf r.2]).onPldm fun p =>
      { p with phase := 2, applied := if r.2 = 0 then p.applied ++ [p.comp] else p.applied, result := byteOf r.2, data := [] })

/-- Activation of new firmware (R427): the new slot preferred and on trial, the event log copied (R424), a full restart with the
effect of watchdog step 2. -/
def State.activateFirmware (s : State) : State :=
  let s1 := s.onAod fun a => { a with prefSlotB := !s.ump.fwSlotB, trial := true }
  (s1.onUmp fun u => { u with eventCopy := u.events }).step2

/-- ACTIVATE_FIRMWARE: every component passed must have been applied. -/
def execActivateFirmware (t : Transport) (s : State) : Out :=
  s.pldmServe t fun s =>
    if s.pldm.phase ≠ 2 then s.pldmAnswer (tIndex t) 0x1A 0x84 []
    else if (s.pldm.passed.all fun c => s.pldm.applied.contains c) = false then s.pldmAnswer (tIndex t) 0x1A 0x85 []
    else
      let s1 := (s.onPldm fun _ => {}).pldmAnswer (tIndex t) 0x1A 0 (leBytes 2 0)
      if s.pldm.applied.contains 1 then s1.activateFirmware else s1

/-- PLDM_GET_STATUS: the phase of the update and the last result. -/
def execPldmGetStatus (t : Transport) (s : State) : Out :=
  s.pldmServe t fun s => s.pldmAnswer (tIndex t) 0x1B 0 [s.pldm.phase.setWidth 8, s.pldm.result]

/-- CANCEL_UPDATE_COMPONENT. -/
def execCancelUpdateComponent (t : Transport) (s : State) : Out :=
  s.pldmServe t fun s =>
    if s.pldm.phase = 0 then s.pldmAnswer (tIndex t) 0x1C 0x80 []
    else if 3 ≤ s.pldm.phase.toNat then
      (s.onPldm fun p => { p with phase := 2, data := [] }).pldmAnswer (tIndex t) 0x1C 0 []
    else s.pldmAnswer (tIndex t) 0x1C 0x84 []

/-- CANCEL_UPDATE. -/
def execCancelUpdate (t : Transport) (s : State) : Out :=
  s.pldmServe t fun s =>
    if s.pldm.phase = 0 then s.pldmAnswer (tIndex t) 0x1D 0x80 []
    else (s.onPldm fun _ => {}).pldmAnswer (tIndex t) 0x1D 0 [0]

/-! ### I3C (R475) -/

/-- I3C_DYNAMIC_ADDRESS_ASSIGNMENT: from then on the bus is I3C, at the address assigned. -/
def execI3cDynamicAddressAssignment (addr : BitVec 7) (s : State) : Out :=
  if s.aod.onCell then .next s else .next (s.onUmp fun u => { u with i3cDynamic := true, i3cAddr := addr })

end Sys2Proof.Machine
end

