-- ==== Sys2Proof/Machine/Clock.lean ====
section
/-!
DEFINITION. A tick of the 32.768 kHz time base: what happens while no command waits (log entry 1).
-/

namespace Sys2Proof.Machine

/-- Watchdog ticks in the real-time tick that follows tick `n`: one of the crystal, or 31 or 32 of the RC oscillator (R428). -/
def wdgTicks (rc : Bool) (n : Nat) : Nat := if rc then 125 * (n + 1) / 4 - 125 * n / 4 else 1

/-- The watchdog's period counter over one tick (R429, R432). -/
def State.wdgTick (s : State) : State :=
  if s.wdgCounts then s.onWdg fun w => { w with elapsed := w.elapsed + wdgTicks w.clkRc s.aod.rtc.toNat } else s

/-- One tick: the watchdog counts, the real-time counter advances, state changes are reported to PLDM receivers, and a life-cycle
transition takes its next step (R389, R425, R428). -/
def State.tick (s : State) : State := (s.wdgTick.onAod fun a => { a with rtc := a.rtc + 1 }).reportStates.lifeTick

end Sys2Proof.Machine
end

