-- ==== Sys2Proof/Machine/Regs.lean ====
section
/-!
DEFINITION. Register writes: the address maps (R57 to R59, R62 to R65), the access rules (R47 to R55), every writable field of
every page, and the mirrors (R60, R61). A register whose write has a command of its own runs that command's meaning.
-/

namespace Sys2Proof.Machine

/-- The state a meaning leaves. -/
def leaves (s : State) (o : Out) : State :=
  match o with
  | .next t => t
  | _ => s

/-! ### The address maps -/

/-- Where a byte offset of a map leads. -/
inductive Where where
  | page (p : PageId) (off : Nat)
  | doorbell (fn idx : Nat) (aligned : Bool)
  | reserved
  | outside
  deriving DecidableEq, Repr

/-- The pages of the PF map outside the region windows, by page number (R57). -/
def pfPages : List (Nat × PageId) :=
  [((0x000 : Nat), PageId.chip), (0x001, PageId.heat), (0x002, PageId.chipInt), (0x010, PageId.pcx), (0x020, PageId.msh),
   (0x030, PageId.klg), (0x040, PageId.fn 0), (0x041, PageId.adm 0), (0x042, PageId.ctx), (0x043, PageId.meas 1),
   (0x080, PageId.mirror 0), (0x081, PageId.mirror 1), (0x082, PageId.mirror 2), (0x083, PageId.mirror 3),
   (0x084, PageId.mirror 4), (0x085, PageId.mirror 5)]

/-- PF BAR0 (R57, R58, R59). -/
def pfAt (o : Nat) : Where :=
  let n := o / 4096
  if 0x4000000 ≤ o then .outside
  else if 0x1000000 ≤ o ∧ o < 0x1080000 then .doorbell 0 ((o - 0x1000000) / 8) (o % 8 == 0)
  else if 0x100 ≤ n ∧ n < 0x300 then
    let r := (n - 0x100) / 128
    if n % 16 = 0 then
      match (regionPages r)[n % 128 / 16]? with
      | some p => .page p (o % 4096)
      | none => .reserved
    else .reserved
  else match pfPages.find? fun x => x.1 == n with
    | some x => .page x.2 (o % 4096)
    | none => .reserved

/-- The BAR0 of VF n (R62). -/
def vfAt (n o : Nat) : Where :=
  if 0x10000 ≤ o then .outside
  else if 0x8000 ≤ o then .doorbell n ((o - 0x8000) / 8) (o % 8 == 0)
  else if o < 0x1000 then .page (.fn n) o
  else if o < 0x2000 then .page (.adm n) (o - 0x1000)
  else .reserved

/-- The pages of bank 0x020 in order (R64). -/
def rotPages : List PageId :=
  [PageId.ump, PageId.wdg, PageId.tmp, PageId.erg, PageId.fgt, PageId.psq, PageId.cci, PageId.lcs, PageId.dbg, PageId.bst,
   PageId.otp, PageId.rng, PageId.meas 0]

/-- What a word of the Umpire's banks is (R63). -/
inductive BankWord where
  | sram
  | rom
  | otp
  | log
  | regs (w : Where)
  deriving DecidableEq, Repr

/-- Words 0x100 to 0x2FF of bank 0x030 are the tamper log, word 0x300 begins the watchdog evidence page (R64). -/
def aodAt (w : Nat) : Option BankWord :=
  if w < 0x100 then some (.regs (.page .aod (16 * w)))
  else if w < 0x300 then some .log
  else if w < 0x400 then some (.regs (.page .evidence (16 * (w - 0x300))))
  else none

/-- The Umpire's bank and word (R63 to R65); none: not listed. -/
def bankAt (bank w : Nat) : Option BankWord :=
  if 262144 ≤ w then none
  else if bank = 0x000 then some .sram
  else if bank = 0x010 then (if w < 0x4000 then some .rom else none)
  else if bank = 0x020 then (rotPages[w / 256]?).map fun p => .regs (.page p (16 * (w % 256)))
  else if bank = 0x030 then aodAt w
  else if bank = 0x040 then (if w < 0x200 then some .otp else none)
  else if 0x100 ≤ bank ∧ bank < 0x110 then some (.regs (pfAt ((bank - 0x100) * 4194304 + 16 * w)))
  else if 0x110 ≤ bank ∧ bank < 0x114 then
    let o := (bank - 0x110) * 4194304 + 16 * w
    some (.regs (if o / 65536 = 0 then .reserved else vfAt (o / 65536) (o % 65536)))
  else none

/-! ### The common header (R40 to R47, R51) -/

/-- A write of 1 clears sticky bits, and what the hardware sets at the same moment is set after it (R51). -/
def State.statusClear (s : State) (p : PageId) (mask hwSet : W32) : State :=
  let s1 := s.modHdrInt p fun h => { h with status := h.status &&& ~~~mask }
  if hwSet = 0 then s1 else s1.setStatus p hwSet

/-- PG_CTRL.ERR_REC_CLR (R44). -/
def State.clearErrs (s : State) (p : PageId) : State := s.modHdr p fun h => { h with errs := [] }

/-- PG_INT_EN (R43). -/
def State.writeIntEn (s : State) (p : PageId) (v : W32) : State := s.modHdrInt p fun h => { h with intEn := v }

/-- PG_LOCK: a set bit stays set (R47). -/
def State.writeLock (s : State) (p : PageId) (v : W32) : State := s.modHdr p fun h => { h with lock := h.lock ||| v }

/-- A write to a header register; the other header registers are read-only. -/
def State.writeHeader (s : State) (p : PageId) (off : Nat) (v : W32) : State :=
  if off = 0x00C then (if v.getLsbD 0 then s.clearErrs p else s)
  else if off = 0x010 then s.statusClear p v 0
  else if off = 0x014 then s.modHdr p fun h => { h with statusCnt := v }
  else if off = 0x018 then s.writeIntEn p v
  else if off = 0x048 then s.writeLock p v
  else s

/-! ### Who reaches a page (R50, R53, R55) -/

/-- The page lies in the requester's map, and the requester may write in it at all (R57, R60, R62). -/
def reaches (who : Requester) (p : PageId) : Bool :=
  match who with
  | .umpire => true
  | .vf n _ => p == PageId.fn n || p == PageId.adm n
  | .pf => match p with
    | .fn n => n == 0
    | .adm n => n == 0
    | .mirror _ => false
    | p => PageId.accel p

/-- A write that reaches no present page is counted; one that reaches a page in reset is not (R53, R55, R60). -/
def State.reach (s : State) (who : Requester) (p : PageId) (k : State → State) : State :=
  if reaches who p = false ∨ s.present p = false then s.ignoredWrite
  else if s.readablePage p = false then s
  else k s

/-- A field that only the Umpire writes (R50). -/
def State.umpireField (s : State) (who : Requester) (p : PageId) (k : State → State) : State :=
  match who with
  | .umpire => k s
  | _ => s.accessErr p

/-- The host's write to a header: every field of the MEAS pages is read-only to it (R57, R243). -/
def State.hdrOp (s : State) (who : Requester) (p : PageId) (k : State → State) : State :=
  s.reach who p fun s => match p with
    | .meas _ => s.umpireField who p k
    | .mirror _ => s
    | _ => k s

/-! ### The accelerator pages -/

/-- The HEAT page (R453, R447). -/
def State.writeHeat (s : State) (who : Requester) (off : Nat) (v : W64) : State :=
  if off = 0x080 then s.onHeat fun t =>
    let on := v.getLsbD 17
    { t with periodS := v.setWidth 16, outAll := v.getLsbD 16, inEn := on, fallback := v.getLsbD 18
             inTimeoutS := (v >>> 24).setWidth 8, lastIn := if on && !t.inEn then s.now else t.lastIn
             inTimedOut := t.inTimedOut && !(on && !t.inEn) }
  else if off = 0x084 then (if v.getLsbD 0 then leaves s (execHeatCtrlClose who s) else s)
  else if off = 0x0A0 then s.onHeat fun t =>
    { t with snapIndex := v.setWidth 16, snapFn := (v >>> 16).setWidth 8, snapKind := v.getLsbD 24, snapSrc := (v >>> 25).setWidth 2 }
  else if off = 0x0B0 then s.onHeat fun t => { t with rptBase := v &&& ~~~(0xFFF : W64) }
  else if off = 0x0B8 then s.onHeat fun t => { t with rptKib := v.setWidth 32 }
  else if off = 0x0BC then leaves s (execHeatRptTailWrite who (v.setWidth 32) s)
  else s

/-- ADM_CFG (R89): while the queue is enabled only ENABLE takes effect, and another change sets ACCESS_ERR. -/
def State.writeAdmCfg (s : State) (f : Nat) (v : W64) : State :=
  let a := (s.fn f).adm
  let b : Adm := { a with sqLog := v.setWidth 4, cqLog := (v >>> 4).setWidth 4, vector := (v >>> 8).setWidth 11, irqEn := v.getLsbD 19 }
  let s1 := if a.enable then (if b = a then s else s.accessErr (.adm f)) else s.modAdm f fun _ => b
  if v.getLsbD 31 = a.enable then s1
  else if a.enable then s1.admDisable f
  else s1.admEnable f

/-- The ADM page but its doorbell (R88, R89). -/
def State.writeAdm (s : State) (f off : Nat) (v : W64) : State :=
  let on := (s.fn f).adm.enable
  if off = 0x080 then (if on then s.accessErr (.adm f) else s.modAdm f fun a => { a with sqBase := v })
  else if off = 0x088 then (if on then s.accessErr (.adm f) else s.modAdm f fun a => { a with cqBase := v })
  else if off = 0x090 then s.writeAdmCfg f v
  else s

/-- The MSH page (R154). -/
def State.writeMsh (s : State) (off : Nat) (v : W64) : State :=
  if off = 0x080 then s.locked .msh 0 fun s =>
    let n := bits64 v 4 0
    if 12 ≤ n ∧ n ≤ 16 then s.onMsh fun m => { m with strokeLog := v.setWidth 5 } else s.accessErr .msh
  else if off = 0x0A0 then s.onMsh fun m => { m with weightSel := v.setWidth 12 }
  else s

/-- The KLG page (R300). -/
def State.writeKlg (s : State) (who : Requester) (off : Nat) (v : W64) : State :=
  if off = 0x080 then s.locked .klg 0 fun s => s.onKlg fun k => { k with clearWriteEn := v.getLsbD 0 }
  else if off = 0x0A0 then s.onKlg fun k => { k with quotaSel := v.setWidth 12 }
  else if off = 0x0A4 then leaves s (execKlgQuotaWrite who (v.setWidth 32) s)
  else s

/-- A QAD page: the direct port, from 0x0C0 on, is the Umpire's alone (R245). -/
def State.writeQad (s : State) (who : Requester) (r off : Nat) (v : W64) : State :=
  if off < 0x0C0 then s
  else s.umpireField who (.qad r) fun s =>
    if off = 0x0C0 then
      let s1 := s.modQuad r fun x =>
        { x with dirAlg := v.setWidth 8, dirMreg := (v >>> 8).setWidth 6, dirExtend := v.getLsbD 14, dirXof := (v >>> 24).setWidth 7 }
      let s2 := if v.getLsbD 17 then leaves s1 (execDirectAbort who r s1) else s1
      if v.getLsbD 16 then leaves s2 (execDirectStart who r s2) else s2
    else if off = 0x0C8 then s.modQuad r fun x => { x with dirSrc := v.setWidth 30, dirPort := (v >>> 32).setWidth 2 }
    else if off = 0x0D0 then s.modQuad r fun x => { x with dirLen := v }
    else if off = 0x0D8 then s.modQuad r fun x => { x with dirKey := v.setWidth 32 }
    else if off = 0x0E0 then s.modQuad r fun x => { x with dirFaddr := v.setWidth 32 }
    else s

/-- The operation that PKE_MAC_CMD names (R270). -/
def State.macOp (s : State) (who : Requester) (i : Nat) (v : W64) : Out :=
  let a : BitVec 13 := (v >>> 3).setWidth 13
  let b : BitVec 13 := (v >>> 16).setWidth 13
  match bits64 v 2 0 with
  | 0 => execMacClear who i a b s
  | 1 => execMulacc who i a b s
  | 2 => execAddw who i a b s
  | 3 => execMacShr who i a b s
  | 4 => execMacStore who i a b s
  | 5 => execReadw who i a b s
  | 6 => execWritew who i a b s
  | _ => execLoadkey who i a b s

/-- The fields of one slice, `o` from its base (R271). The MAC registers are the owner's alone (R270). -/
def State.writeSlice (s : State) (who : Requester) (i o : Nat) (v : W64) : State :=
  let p := PageId.pke (i / 2)
  if o = 0x00 then leaves s (execModeWrite who i (v.getLsbD 0) s)
  else if o = 0x1C then
    s.umpireField who p fun s => if v.getLsbD 0 then leaves s (execPkeAbort who i s) else s
  else if o = 0x20 then leaves s (s.macOp who i v)
  else if o = 0x2C then s.umpireField who p fun s => s.modSlice i fun x => { x with macKey := v.setWidth 32 }
  else if 0x40 ≤ o ∧ o < 0x60 then
    if (who == Requester.pf) != (s.slice i).macOwnerPf then s.accessErr p
    else s.modSlice i fun x =>
      let k := 8 * (o - 0x40)
      { x with macData := (x.macData &&& ~~~(0xFFFFFFFF#256 <<< k)) ||| ((v.setWidth 32).setWidth 256 <<< k) }
  else s

/-- An access list; the lists of instance 0 read zero. -/
def State.writeMeas (s : State) (who : Requester) (i off : Nat) (v : W64) : State :=
  if i = 1 ∧ 0x100 ≤ off ∧ off < 0x200 then leaves s (execMeasAclWrite who (32 + (off - 0x100) / 8) v s) else s

/-! ### The root-of-trust and always-on pages -/

/-- The UMP page (R421). -/
def State.writeUmp (s : State) (off : Nat) (v : W64) : State :=
  if off = 0x080 then s.onUmp fun u => { u with aliveEn := v.getLsbD 0 }
  else if off = 0x084 then leaves s (execUmpKick s)
  else if off = 0x088 then leaves s (execUmpTimerWrite (v.setWidth 32) s)
  else s

/-- The service keys (R430). -/
def keyCatch : Nat := 0xCA7C4A5E
@[inherit_doc keyCatch]
def keyFinish : Nat := 0xF1A15E3D

/-- The WDG page (R437). -/
def State.writeWdg (s : State) (off : Nat) (v : W64) : State :=
  if off = 0x080 then s.locked .wdg 0 fun s => s.onWdg fun w => { w with clkRc := v.getLsbD 0 }
  else if off = 0x084 then
    let n := bits64 v 15 0
    if 1 ≤ n ∧ n ≤ 64000 then s.onWdg fun w => { w with periodMs := v.setWidth 16 } else s.accessErr .wdg
  else if off = 0x088 then
    let k := bits64 v 31 0
    leaves s (if k = keyCatch then execWdgCatch s else if k = keyFinish then execWdgFinish s else execWdgKeyFault s)
  else if off = 0x08C then s.onWdg fun w => { w with taskMask := v.setWidth 16 }
  else if off = 0x090 then leaves s (execWdgTaskCheckin (v.setWidth 4) s)
  else s

/-- The fields of TMP_REGION that a write reaches: those of sources that are neither local nor fused off (R406, R417). -/
def State.regionMask (s : State) : W64 :=
  (List.range 16).foldl (fun (m : W64) k =>
    if k = 0 ∨ (3 ≤ k ∧ k ≤ 6) ∨ 14 ≤ k ∨ s.srcOff k = true then m else m ||| (0xF#64 <<< (4 * k))) 0

/-- The TMP page (R417). -/
def State.writeTmp (s : State) (off : Nat) (v : W64) : State :=
  if off = 0x080 then leaves s (execTmpClassWrite (v.setWidth 32) s)
  else if off = 0x088 then s.locked .tmp 0 fun s => s.onTmp fun t =>
    { t with region := (t.region &&& ~~~s.regionMask) ||| (v &&& s.regionMask) }
  else if off = 0x0C0 then
    let s1 := s.onTmp fun t => { t with testSource := v.setWidth 4, testIndex := (v >>> 8).setWidth 6 }
    if v.getLsbD 16 then leaves s1 (execTmpTestStart s1) else s1
  else if off = 0x0C8 then (if v.getLsbD 0 then leaves s (execTamperRel s) else s)
  else s

/-- The AOD page (R418): the export pointer is never lowered. -/
def State.writeAod (s : State) (off : Nat) (v : W64) : State :=
  if off = 0x090 then
    s.onAod fun a => { a with exportSeq := if a.exportSeq.toNat ≤ bits64 v 47 0 then v.setWidth 48 else a.exportSeq }
  else s

/-- The ERG page (R442). -/
def State.writeErg (s : State) (off : Nat) (v : W64) : State :=
  if off = 0x080 then
    let s1 := s.locked .erg 0 fun s => s.onErg fun e => { e with avsEn := v.getLsbD 1 }
    if v.getLsbD 0 then leaves s1 (execMeasure s1) else s1
  else if off = 0x0A0 then s.onErg fun e => { e with sel := v.setWidth 6 }
  else s

/-- A rule of the gate with one dword written. -/
def Rule.setDword (r : Rule) (k : Nat) (v : W32) : Rule :=
  match k with
  | 0 => { r with d0 := v }
  | 1 => { r with base := v }
  | 2 => { r with limit := v }
  | _ => { r with delta := v }

/-- The FGT page (R341): rules are written in the shadow bank. -/
def State.writeFgt (s : State) (off : Nat) (v : W64) : State :=
  if off = 0x080 then
    let s1 := leaves s (execPortEnableWrite (v.getLsbD 0) (v.getLsbD 1) s)
    if v.getLsbD 2 then leaves s1 (execFgtSwap s1) else s1
  else if off = 0x088 then s.onFgt fun f => { f with ruleSel := v.setWidth 8, ruleLive := v.getLsbD 8 }
  else if 0x090 ≤ off ∧ off < 0x0A0 then
    if s.fgt.ruleLive then s.accessErr .fgt
    else s.onFgt fun f =>
      let i := f.ruleSel.toNat
      { f with shadow := f.shadow.set {} i ((f.shadow.get {} i).setDword ((off - 0x090) / 4) (v.setWidth 32)) }
  else s

/-- The PSQ page (R321). -/
def State.writePsq (s : State) (off : Nat) (v : W64) : State :=
  if off = 0x088 then s.onPsq fun p => { p with prst := v.setWidth 8, pwr := (v >>> 8).setWidth 8 } else s

/-- CCI_CTRL (R379): power taken away ends what the card does, power given begins a card in its first state; a clock above 10,400
is ignored. -/
def State.writeCciCtrl (s : State) (v : W64) : State :=
  let on := v.getLsbD 0
  let s1 := if s.cci.pwr && !on then s.cardOff false else s
  s1.onCci fun c =>
    { c with pwr := on, vsel := v.getLsbD 1, wide := v.getLsbD 2
             clk10k := if bits64 v 31 16 ≤ 10400 then (v >>> 16).setWidth 16 else c.clk10k
             card := if on && !c.pwr then { present := c.det } else c.card }

/-- CCI_CMD.START: the command that the page holds is sent, but no write to a card that may not be written (R369, R374); a write's blocks come
from the buffer (R379). -/
def State.cciStart (s : State) : State :=
  let c := s.cci
  let n := c.blocks.toNat
  if c.pwr = false ∨ c.busy = true ∨ ((c.index = 9 ∨ c.index = 10) ∧ c.card.writable = false) then s
  else
    let s0 := if c.index = 1 then s.onCci fun c => { c with card := { c.card with pattern := c.arg.setWidth 8 } } else s
    let s1 := s0.cardSend c.index c.arg c.long c.noResp c.read c.write c.busyWait n
    if c.write then
      (s1.onCci fun c => { c with card := { c.card with txnLeft := if c.index = 9 then some n else c.card.txnLeft } }).sendBlocks
        (s.sramBytes c.buf.toNat (512 * n))
    else s1

/-- The CCI page (R379). -/
def State.writeCci (s : State) (off : Nat) (v : W64) : State :=
  if off = 0x080 then s.writeCciCtrl v
  else if off = 0x084 then
    let s1 := s.onCci fun c =>
      { c with index := v.setWidth 6, long := v.getLsbD 8, noResp := v.getLsbD 9, read := v.getLsbD 10, write := v.getLsbD 11
               busyWait := v.getLsbD 12 }
    if v.getLsbD 31 then s1.cciStart else s1
  else if off = 0x088 then s.onCci fun c => { c with arg := v.setWidth 32 }
  else if off = 0x0A0 then s.onCci fun c => { c with buf := v.setWidth 30 }
  else if off = 0x0A4 then s.onCci fun c => { c with blocks := v.setWidth 9 }
  else if off = 0x0A8 then s.onCci fun c =>
    { c with txnId := v.setWidth 16, txnOutcome := (v >>> 16).setWidth 2, txnOpen := v.getLsbD 18
             card := { c.card with ours := c.card.ours && v.setWidth 16 == c.txnId } }
  else s

/-- The BST page (R461). -/
def State.writeBst (s : State) (off : Nat) (v : W64) : State :=
  if off = 0x080 then
    let s1 := s.onBst fun b => { b with test := v.setWidth 4, kind := (v >>> 4).setWidth 4, inst := (v >>> 8).setWidth 8 }
    let s2 := if v.getLsbD 17 then leaves s1 (execBstAbort s1) else s1
    let s3 := if v.getLsbD 18 then leaves s2 (execBstRelease s2) else s2
    if v.getLsbD 16 then leaves s3 (execBstStart s3) else s3
  else s

/-- The Umpire rewrites a register of a mirror page (R60): its identity, PG_CAPS and MIRROR_SEQ are no copied fields, reserved offsets and
fields that are not copied stay zero (R49), and in SAFE_HOLD the page keeps its contents. Each such rewrite is one of the page, so
MIRROR_SEQ goes on by two (R61; DEDUCED, log entry 68), and the mirror's PG_INT_PEND may bring an interrupt (R67). -/
def State.writeMirror (s : State) (k off : Nat) (v : W64) : State :=
  if s.chip.safeHold = true ∨ off = 0x000 ∨ off = 0x004 ∨ off = 0x07C then s
  else match (s.mirrorRegs k).find? fun r => r.off == off with
    | none => s
    | some r => (s.onMirrors fun m =>
        let x := m.get {} k
        let w := x.words.set 0 off (v.setWidth 32)
        m.set {} k { x with words := if r.wide then w.set 0 (off + 4) ((v >>> 32).setWidth 32) else w, seq := x.seq + 2 }).syncInt

/-! ### One write -/

/-- A write to a register from 0x080 on, by page. -/
def State.writeBody (s : State) (who : Requester) (p : PageId) (off : Nat) (v : W64) : State :=
  match p with
  | .chip => if off = 0x0A0 then s.onChip fun c => { c with ignWrCnt := v.setWidth 16 } else s
  | .chipInt => if off = 0x088 then s.onChip fun c => { c with intVec := v.setWidth 11 } else s
  | .heat => s.writeHeat who off v
  | .pcx => if off = 0x084 then s.onPcie fun x => { x with roData := v.getLsbD 0, wakeEn := v.getLsbD 1 } else s
  | .msh => s.writeMsh off v
  | .klg => s.writeKlg who off v
  | .fn n => if off = 0x0A8 then s.modFn n fun x => { x with intVec := v.setWidth 11 } else s
  | .adm n => s.writeAdm n off v
  | .meas i => s.writeMeas who i off v
  | .egt e => if off = 0x080 then s.locked p 0 fun s => s.modEight e fun x =>
      { x with dummyLevel := v.setWidth 2, maskForce := v.getLsbD 2 } else s
  | .qad r => s.writeQad who r off v
  | .pke r =>
    if 0x100 ≤ off ∧ off < 0x200 then s.writeSlice who (2 * r) (off - 0x100) v
    else if 0x200 ≤ off ∧ off < 0x300 then s.writeSlice who (2 * r + 1) (off - 0x200) v
    else s
  | .ump => s.writeUmp off v
  | .wdg => s.writeWdg off v
  | .tmp => s.writeTmp off v
  | .aod => s.writeAod off v
  | .erg => s.writeErg off v
  | .fgt => s.writeFgt off v
  | .psq => s.writePsq off v
  | .cci => s.writeCci off v
  | .bst => s.writeBst off v
  | .mirror k => s.writeMirror k off v
  | .ctx => s
  | .rgn _ => s
  | .rng => s
  | .lcs => s
  | .dbg => s
  | .otp => s
  | .evidence => s

/-- A write to a register of a page that the requester reaches; a quarantined page takes none from 0x080 on (R54). -/
def State.writeReg (s : State) (who : Requester) (p : PageId) (off : Nat) (v : W64) : State :=
  match p with
  | .mirror k => s.writeMirror k off v
  | _ =>
    if off < 0x080 then s.hdrOp who p fun s => s.writeHeader p off (v.setWidth 32)
    else if s.quarantined p then s
    else s.writeBody who p off v

/-- The registers that an access of `width` bytes at `off` meets. -/
def touched (l : List RegVal) (off width : Nat) : List RegVal :=
  l.filter fun r => decide (off < r.off + (if r.wide then 8 else 4)) && decide (r.off < off + width)

/-- A write of `width` bytes: none of a register is a reserved offset, ignored (R49); the whole of one is written; any other
access is ignored and sets ACCESS_ERR (R48). -/
def State.pageWrite (s : State) (who : Requester) (p : PageId) (off width : Nat) (v : W64) : State :=
  s.reach who p fun s =>
    match touched (s.pageRegs p) off width with
    | [] => s
    | r :: _ => if r.off = off ∧ width = (if r.wide then 8 else 4) then s.writeReg who p off v else s.accessErr p

/-- An access of `width` bytes at `off` meets ADM_DB, which R102 has its own rule for. -/
def meetsAdmDb (off width : Nat) : Bool := decide (off < 0x0C8) && decide (0x0C0 < off + width)

/-- A write where a map leads. One outside the BARs is an Unsupported Request; DESIGN CHOICE (log entry 68): function 0 reports it. -/
def State.writeAt (s : State) (who : Requester) (w : Where) (width : Nat) (v : W64) : State :=
  match w with
  | .page p off => match p with
    | .adm n =>
      if meetsAdmDb off width = true ∧ reaches who p = true ∧ s.present p = true then
        s.admDoorbell n v (if off = 0x0C0 then width else 0)
      else s.pageWrite who p off width v
    | _ => s.pageWrite who p off width v
  | .doorbell f i aligned => s.chDoorbell f i v (if aligned then width else 0)
  | .reserved => s.ignoredWrite
  | .outside => s.unsupported 0

/-! ### Reading as a host does (R48 to R50, R53, R55) -/

/-- The page lies in the requester's map (R57, R62). -/
def reads (who : Requester) (p : PageId) : Bool :=
  match who, p with
  | .pf, .mirror _ => true
  | _, _ => reaches who p

/-- A field that reads zero to the host: the direct port (R245). -/
def hiddenFrom (who : Requester) (p : PageId) (off : Nat) : Bool :=
  match who, p with
  | .umpire, _ => false
  | _, .qad _ => decide (0x0C0 ≤ off)
  | _, _ => false

/-- A read of `width` bytes of a page: what it gives, and what it does. A reserved offset and a page that is absent or in reset read
zero; an access of another width or alignment than the register's reads zero and sets ACCESS_ERR (R48). -/
def State.readPage (s : State) (who : Requester) (p : PageId) (off width : Nat) : W64 × State :=
  if reads who p = false ∨ s.readablePage p = false then (0, s)
  else match touched (s.pageRegs p) off width with
    | [] => (0, s)
    | r :: _ =>
      if r.off = off ∧ width = (if r.wide then 8 else 4) then (if hiddenFrom who p off then 0 else BitVec.ofNat 64 r.val, s)
      else (0, s.accessErr p)

/-! ### Configuration space (R68 to R73, R76 to R78, R82, R83) -/

/-- The registers of configuration space whose value is fixed or follows from the state. -/
inductive CfgInfo where
  | vendorId
  | deviceId
  | classCode
  | revisionId
  | interruptPin
  /-- BARn of a function as PCI Express numbers them; the VF BARs stand in the PF's SR-IOV capability. -/
  | bar (n : Nat)
  | vfBar (n : Nat)
  /-- The size of BARn in bytes, 0 where there is none. -/
  | barSize (n : Nat)
  | vfBarSize (n : Nat)
  | totalVfs
  | initialVfs
  | firstVfOffset
  | vfStride
  | supportedPageSizes
  | functionDependency
  | numVfs
  | vfEnable
  | msixEntries
  | ideCapability
  | tdispCapability
  | doeCapability
  deriving DecidableEq, Repr

/-- BARn of a pair: a 64-bit non-prefetchable memory BAR (type bits 0x4, PRESUMED from PCI Express, log entry 68) has its address in
two registers (R71). -/
def barDword (base : W64) (size n : Nat) : Nat :=
  let a := base.toNat / size * size
  if n % 2 = 0 then a % 4294967296 + 4 else a / 4294967296

/-- What configuration space shows of function `f` (R70 to R73, R76). -/
def State.cfgValue (s : State) (f : Nat) (r : CfgInfo) : Nat :=
  let c := (s.fn f).cfg
  match r with
  | .vendorId => 0x1F3C
  | .deviceId => s.variant.deviceCode + (if f = 0 then 0 else 1)
  | .classCode => 0x108000
  | .revisionId => 0x01
  | .interruptPin => 0
  | .bar n => if f ≠ 0 ∨ 4 ≤ n then 0 else if n < 2 then barDword c.bar0 67108864 n else barDword c.bar2 65536 n
  | .vfBar n => if f ≠ 0 ∨ 4 ≤ n then 0 else if n < 2 then barDword s.pcie.vfBar0 65536 n else barDword s.pcie.vfBar2 65536 n
  | .barSize n => if f ≠ 0 then 0 else if n = 0 then 67108864 else if n = 2 then 65536 else 0
  | .vfBarSize n => if f ≠ 0 then 0 else if n = 0 ∨ n = 2 then 65536 else 0
  | .totalVfs | .initialVfs => s.variant.vfs
  | .firstVfOffset | .vfStride => 1
  | .supportedPageSizes => 0x00000011
  | .functionDependency => 0
  | .numVfs => s.pcie.numVfs.toNat
  | .vfEnable => b2n s.pcie.vfEnable
  | .msixEntries => 2048
  | .ideCapability => b2n (f == 0 && s.variant.ide)
  | .tdispCapability => b2n (f == 0 && s.variant.ide)
  | .doeCapability => b2n (f == 0)

/-- The completion-timeout codes: the default, and two of each of the ranges A to D (R82; the codes PRESUMED from PCI Express, log entry
68). -/
def ctoCodes : List Nat := [0x0, 0x1, 0x2, 0x5, 0x6, 0x9, 0xA, 0xD, 0xE]

/-- A host change of a guarded setting: every interface it belongs to that is locked moves to ERROR, and the setting stays (R77). -/
def State.guarded (s : State) (fs : List Nat) (changes : Bool) (k : State → State) : State :=
  let locked := fs.filter fun f => s.tdispLocked f
  if changes = false then s else if locked = [] then k s else locked.foldl State.tdispError s

/-- `s` with the configuration registers of function `f` changed. -/
def State.modCfg (s : State) (f : Nat) (g : Cfg → Cfg) : State := s.modFn f fun x => { x with cfg := g x.cfg }

/-- A BAR keeps the address bits above its size (R71). -/
def barMask (size : Nat) (v : W64) : W64 := BitVec.ofNat 64 (v.toNat / size * size)

/-- A link, power or error setting of a function (R68, R82). The encodings of Max_Payload_Size, Max_Read_Request_Size and the power
state are PRESUMED from PCI Express (log entry 68); a value outside the supported range is ignored. -/
def Cfg.written (c : Cfg) (r : CfgReg) (v : W64) : Cfg :=
  let n := v.toNat
  match r with
  | .memEnable => { c with memEn := v.getLsbD 0 }
  | .busMaster => { c with busMaster := v.getLsbD 0 }
  | .maxPayload => if n ≤ 2 then { c with mps := v.setWidth 3 } else c
  | .maxRead => if n ≤ 5 then { c with mrrs := v.setWidth 3 } else c
  | .powerState => if n = 0 then { c with d3hot := false } else if n = 3 then { c with d3hot := true } else c
  | .aspmL1 => { c with aspmL1 := v.getLsbD 0 }
  | .l11 => { c with l11 := v.getLsbD 0 }
  | .l12 => { c with l12 := v.getLsbD 0 }
  | .ctoRange => if ctoCodes.contains n then { c with ctoRange := v.setWidth 4 } else c
  | .ctoDisable => { c with ctoOff := v.getLsbD 0 }
  | .aerStatus e => if v.getLsbD 0 then { c with aerStatus := c.aerStatus.filter (· != e) } else c
  | .aerMask e => { c with aerMask := c.aerMask.filter (· != e) ++ (if v.getLsbD 0 then [e] else []) }
  | _ => c

/-- A configuration field of a function that exists: the PF, or a VF in effect (R72, R73, R77, R78, R83). -/
def State.writeCfg (s : State) (f : Nat) (r : CfgReg) (v : W64) : State :=
  let on := v.getLsbD 0
  let flush := fun (s : State) => (s.fn f).pba.foldl (fun s v => s.flushVector f v) s
  let b0 := barMask 65536 v
  if f ≠ 0 ∧ s.vfsOn.contains f = false then s
  else match r with
    | .msixEnable => flush (s.modFn f fun x => { x with msixEn := on })
    | .msixFnMask => flush (s.modFn f fun x => { x with msixFnMask := on })
    | .pasidEnable => s.guarded [f] (decide (on ≠ (s.fn f).pasidEn)) fun s => s.modFn f fun x => { x with pasidEn := on }
    | .atsEnable => s.modFn f fun x => { x with atsEn := on }
    | .ariHierarchy => if f = 0 then s.writeAri on else s
    | .pmeEnable => if f = 0 then s.onPcie fun p => { p with pmeEn := on } else s
    | .linkL2 => if f = 0 then s.onPcie fun p => { p with inL2 := on } else s
    | .bar0 => if f = 0 then s.modCfg 0 fun c => { c with bar0 := barMask 67108864 v } else s
    | .bar2 => if f = 0 then s.modCfg 0 fun c => { c with bar2 := barMask 65536 v } else s
    | .vfMse => if f = 0 then s.onPcie fun p => { p with vfMse := on } else s
    | .vfBar0 =>
      if f = 0 then s.guarded s.vfsOn (decide (b0 ≠ s.pcie.vfBar0)) fun s => s.onPcie fun p => { p with vfBar0 := b0 } else s
    | .vfBar2 =>
      if f = 0 then s.guarded s.vfsOn (decide (b0 ≠ s.pcie.vfBar2)) fun s => s.onPcie fun p => { p with vfBar2 := b0 } else s
    | r => s.modCfg f fun c => c.written r v

/-! ### BAR2 (R71, R73) -/

/-- One dword of the MSI-X table: message address low and high, message data, vector control, whose bit 0 is the mask. -/
def State.writeVector (s : State) (f vec k : Nat) (d : W32) : State :=
  let x := s.fn f
  let a := x.msixAddr.get 0 vec
  match k with
  | 0 => s.modFn f fun x => { x with msixAddr := x.msixAddr.set 0 vec ((a >>> 32 <<< 32) ||| d.setWidth 64) }
  | 1 => s.modFn f fun x => { x with msixAddr := x.msixAddr.set 0 vec (d ++ (a.setWidth 32 : W32)) }
  | 2 => s.modFn f fun x => { x with msixData := x.msixData.set 0 vec d }
  | _ =>
    if d.getLsbD 0 then s.modFn f fun x => { x with unmasked := x.unmasked.filter (· != vec) }
    else s.unmask f vec

/-- A write to BAR2 of function `f`: aligned dwords of the table, while the interface is not locked (R77); the PBA is read-only, and
64 KiB end the BAR (R71). -/
def State.writeBar2 (s : State) (f off width : Nat) (v : W64) : State :=
  if 0x10000 ≤ off then s.unsupported 0
  else if 0x8000 ≤ off ∨ s.tdispLocked f = true ∨ off % width ≠ 0 ∨ (width ≠ 4 ∧ width ≠ 8) then s
  else
    let s1 := s.writeVector f (off / 16) (off / 4 % 4) (v.setWidth 32)
    if width = 8 then s1.writeVector f (off / 16) (off / 4 % 4 + 1) ((v >>> 32).setWidth 32) else s1

/-- A dword of BAR2 of function `f`: the MSI-X table, then from 0x8000 the PBA, one bit a vector; the rest reads zero. -/
def State.bar2Word (s : State) (f off : Nat) : W32 :=
  let x := s.fn f
  let vec := off / 16
  if off < 0x8000 then match off / 4 % 4 with
    | 0 => (x.msixAddr.get 0 vec).setWidth 32
    | 1 => (x.msixAddr.get 0 vec >>> 32).setWidth 32
    | 2 => x.msixData.get 0 vec
    | _ => BitVec.ofNat 32 (b2n !(x.unmasked.contains vec))
  else if off < 0x8100 then
    BitVec.ofNat 32 ((List.range 32).foldl (fun n k => n + b2n (x.pba.contains ((off - 0x8000) / 4 * 32 + k)) * 2 ^ k) 0)
  else 0

/-- The bits of a word that selected lanes cover. -/
def laneMask (sel : Nat → Bool) : Word :=
  (List.range 4).foldl (fun (m : Word) n => if sel n then m ||| (0xFFFFFFFF#128 <<< (32 * n)) else m) 0

/-- A store to a word of Umpire SRAM: it ends the word's poison mark, and instruction fetch goes on seeing the old word until the
next control transfer (R184, R456). -/
def State.sramStore (s : State) (w : Nat) (m v : Word) : State :=
  let old := s.ump.sram.get 0 w
  s.onUmp fun u =>
    { u with sram := u.sram.set 0 w ((old &&& ~~~m) ||| (v &&& m)), poison := u.poison.filter (· != w)
             stale := match u.stale.get none w with
               | some _ => u.stale
               | none => u.stale.set none w (some old) }

/-- One lane of a store to a page. A 64-bit register takes both its lanes at once; a half of it alone is a wrong access (R48, R65). -/
def State.laneWrite (s : State) (p : PageId) (off : Nat) (v : Word) (sel : Nat → Bool) (n : Nat) : State :=
  let o := off + 4 * n
  let x : W64 := (v >>> (32 * n)).setWidth 64
  if sel n = false then s
  else match findReg (s.pageRegs p) o with
    | some r =>
      if r.wide = false then s.writeAt .umpire (.page p o) 4 x
      else if r.off = o then s.writeAt .umpire (.page p o) (if sel (n + 1) then 8 else 4) x
      else if sel (n - 1) then s
      else s.writeAt .umpire (.page p o) 4 x
    | none => s.writeAt .umpire (.page p o) 4 x

/-- A store to the header word that holds PG_STATUS, PG_STATUS_CNT and PG_INT_EN: the lanes take effect together (R65). -/
def Hdr.store (h : Hdr) (sel : Nat → Bool) (v : Word) : Hdr :=
  { h with status := if sel 0 then h.status &&& ~~~(v.setWidth 32) else h.status
           statusCnt := if sel 1 then (v >>> 32).setWidth 32 else h.statusCnt
           intEn := if sel 2 then (v >>> 64).setWidth 32 else h.intEn }

/-- A mirror's registers are copies, not its own header. -/
def ownHeader (p : PageId) : Bool :=
  match p with
  | .mirror _ => false
  | _ => true

/-- A store of the selected lanes of a word of the Umpire's banks. Lanes take effect together: a START in a low lane acts on
what the higher lanes bring. The tamper log, the OTP window and the boot ROM take no write: the spec gives one no effect. -/
def State.bankWrite (s : State) (b : BankWord) (w : Nat) (sel : Nat → Bool) (v : Word) : State :=
  match b with
  | .sram => s.sramStore w (laneMask sel) v
  | .regs (.page p off) =>
    if s.present p = false then s.ignoredWrite
    else if off = 0x010 ∧ ownHeader p = true then s.hdrOp .umpire p fun s => s.modHdrInt p (·.store sel v)
    else ([3, 2, 1, 0] : List Nat).foldl (fun s n => s.laneWrite p off v sel n) s
  | .regs (.doorbell f i _) =>
    let db := fun (s : State) (k : Nat) =>
      if sel (2 * k) || sel (2 * k + 1) then
        s.writeAt .umpire (.doorbell f (i + k) true) (if sel (2 * k) && sel (2 * k + 1) then 8 else 4) ((v >>> (64 * k)).setWidth 64)
      else s
    db (db s 0) 1
  | .regs x => s.writeAt .umpire x 4 0
  | _ => s

/-- A write of the Umpire to a word of its banks; an accelerator page in reset discards it with an error indication (R24). -/
def State.umpireWrite (s : State) (b w lane width : Nat) (v : W64) : State :=
  match bankAt b w with
  | none => s
  | some x =>
    if 4 ≤ lane then s
    else match x with
      | .regs (.page p off) =>
        if PageId.accel p = true ∧ s.chip.accReset = true ∧ s.present p = true then s.emit .accessError
        else s.bankWrite (.regs (.page p off)) w (fun n => n == lane || (width == 8 && n == lane + 1)) (v.setWidth 128 <<< (32 * lane))
      | x => s.bankWrite x w (fun n => n == lane || (width == 8 && n == lane + 1)) (v.setWidth 128 <<< (32 * lane))

/-- REGISTER_WRITE (R48 to R55). `width` is in bytes. -/
def execRegisterWrite (who : Requester) (a : RegAddr) (width : Nat) (v : W64) (s : State) : Out :=
  s.powered fun s => .next (match a, who with
  | .bar off, .pf => s.mmio 0 none fun s => s.writeAt who (pfAt off) width v
  | .bar off, .vf n x => s.mmio n x fun s => s.writeAt who (vfAt n off) width v
  | .bar _, .umpire => s
  | .bank b w lane, .umpire => s.umpireWrite b w lane width v
  | .bank _ _ _, _ => s
  | .cfg f r, .pf => s.config fun s => s.writeCfg f r v
  | .cfg _ _, _ => s
  | .bar2 off, .pf => s.mmio 0 none fun s => s.writeBar2 0 off width v
  | .bar2 off, .vf n x => s.mmio n x fun s => s.writeBar2 n off width v
  | .bar2 _, .umpire => s)

/-- A header write by a command of its own. The Umpire's to an accelerator page in reset is discarded with an error indication (R24). -/
def State.hdrCommand (s : State) (who : Requester) (p : PageId) (k : State → State) : State :=
  s.access who fun s =>
    if who = Requester.umpire ∧ PageId.accel p = true ∧ s.chip.accReset = true ∧ s.present p = true then s.emit .accessError
    else s.hdrOp who p k

/-- ERR_REC_CLR (R44). -/
def execErrRecClr (who : Requester) (p : PageId) (s : State) : Out :=
  s.powered fun s => .next (s.hdrCommand who p fun s => s.clearErrs p)

/-- PG_STATUS_CLEAR (R41, R51): `hwSet` names bits that hardware sets at the same moment; the reserved bits 7 and 6 are never set (R10). -/
def execPgStatusClear (who : Requester) (p : PageId) (mask hwSet : W32) (s : State) : Out :=
  s.powered fun s => .next (s.hdrCommand who p fun s => s.statusClear p mask (hwSet &&& 0xFFFFFF3F))

/-- PG_INT_EN_WRITE (R43). -/
def execPgIntEnWrite (who : Requester) (p : PageId) (v : W32) (s : State) : Out :=
  s.powered fun s => .next (s.hdrCommand who p fun s => s.writeIntEn p v)

/-- PG_LOCK_WRITE (R47). -/
def execPgLockWrite (who : Requester) (p : PageId) (v : W32) (s : State) : Out :=
  s.powered fun s => .next (s.hdrCommand who p fun s => s.writeLock p v)

/-! ### Mirrors (R60, R61) -/

/-- The words that mirror k copies, as its source reads now: the header but PG_ID, and the fields that the source's chapter names. -/
def State.mirrorNow (s : State) (k : Nat) : SMap W32 :=
  (List.range 1024).foldl (fun m i =>
    let off := 4 * i
    if off = 0x000 ∨ (0x04C ≤ off ∧ off < 0x080) ∨ (0x080 ≤ off ∧ mirrorCopies k off = false) then m
    else m.set 0 off (s.pageWord (mirrorSource k) off)) []

/-- MIRROR_REFRESH: the Umpire rewrites the page, MIRROR_SEQ odd meanwhile and even after; not in SAFE_HOLD (R61). -/
def execMirrorRefresh (p : PageId) (s : State) : Out :=
  match p with
  | .mirror k =>
    if 6 ≤ k ∨ s.umpUp = false ∨ s.chip.safeHold = true then .next s
    else .next (s.onMirrors fun m => m.set {} k { words := s.mirrorNow k, seq := (m.get {} k).seq + 2 }).syncInt
  | _ => .next s

end Sys2Proof.Machine
end

