-- ==== Sys2Proof/Machine/Thread.lean ====
section
/-!
DEFINITION. How a Traern instruction runs (R180 to R190, R198 to R205, R212 to R216): operands, memory, streams, delayed results,
loops, program faults of a cox and exceptions of the Umpire. The meanings of the opcodes stand in Traern.lean.
-/

namespace Sys2Proof.Machine

/-! ### What stops an instruction (R171, R212, R216) -/

/-- Why an instruction does not complete. `address` and the two after it carry the bank and short address of the access. -/
inductive Trap where
  | operand
  | address (a : Nat)
  | poison (a : Nat)
  | refused (a : Nat)
  | stack
  | depth
  | noKey
  | outLeft
  | transfer
  | budget
  | privileged
  /-- A counter block beyond the limit (R171). -/
  | counter
  /-- An FLD of the Umpire that stops where it lands: its address, the cause and EADDR (R203, R212). -/
  | landing (pc : BitVec 30) (cause : BitVec 8) (a : Option Nat)
  deriving DecidableEq, Repr

/-- DETAIL of a cox program fault (R216). -/
def Trap.detail : Trap → Nat
  | .address _ | .poison _ | .refused _ | .landing _ _ _ => 1
  | .stack => 2
  | .depth => 3
  | .noKey => 4
  | .outLeft => 5
  | .operand | .counter => 6
  | .transfer => 7
  | .budget => 8
  | .privileged => 9

/-- CAUSE of an Umpire exception (R212). -/
def Trap.cause : Trap → BitVec 8
  | .address _ | .transfer => 2
  | .stack => 3
  | .depth => 4
  | .poison _ => 5
  | .refused _ => 6
  | .landing _ c _ => c
  | _ => 1

/-- EADDR of a data fault. -/
def Trap.eaddr : Trap → Option Nat
  | .address a | .poison a | .refused a => some a
  | .landing _ _ a => a
  | _ => none

/-- The address of the instruction that faults, `here` being the one at which the fault arises. -/
def Trap.pc (t : Trap) (here : BitVec 30) : BitVec 30 :=
  match t with
  | .landing pc _ _ => pc
  | _ => here

/-- Where execution goes after an instruction. -/
inductive Flow where
  | seq
  | jump (a : BitVec 30)
  /-- The meaning has itself set where control goes. -/
  | set
  deriving DecidableEq, Repr

/-! ### Registers of a core -/

/-- The registers of a stroke slot, or of the Umpire (R181). -/
def State.coreRegs (s : State) : Core → Regs
  | .cox e k => (s.slot e k).regs
  | .umpire => s.ump.regs

/-- `s` with a core's registers changed by `f`. -/
def State.modRegs (s : State) (c : Core) (f : Regs → Regs) : State :=
  match c with
  | .cox e k => s.modSlot e k fun t => { t with regs := f t.regs }
  | .umpire => s.onUmp fun u => { u with regs := f u.regs }

/-- Pointer Pn. -/
def Regs.ptr (r : Regs) (n : Nat) : BitVec 18 := (r.p[n]?).getD 0

/-- `r` with Pn written. -/
def Regs.setPtr (r : Regs) (n : Nat) (v : BitVec 18) : Regs := { r with p := r.p.setIfInBounds n v }

/-- The core's program bank: a cox's is the slot of its program (R183). -/
def State.pbkOf (s : State) (c : Core) : BitVec 12 :=
  match c with
  | .cox e k => match (s.slot e k).job.bind s.job with
    | some b => BitVec.ofNat 12 b.prog
    | none => 0
  | .umpire => s.ump.regs.pbk

/-- Bank and short address as one number (R182). -/
def farAddr (bank a : Nat) : Nat := bank * 262144 + a

/-- An instruction address: bank and PC (R184). -/
def insAddr (pbk : BitVec 12) (pc : BitVec 18) : BitVec 30 := pbk ++ pc

/-! ### Memory (R63, R182) -/

/-- The constant table of a cox's program (R182). -/
def State.constAt (s : State) (e k a : Nat) : Word :=
  match ((s.slot e k).job.bind s.job).bind fun b => s.progs.get none b.prog with
  | some p => p.consts.getD a 0
  | none => 0

/-- The four lanes of a word of a page, and what reading it does: FGT_LOG_HI removes its entry (R341), QAD_DIR_OUT notes an early
read (R245). -/
def State.pageRead (s : State) (p : PageId) (off : Nat) : Word × State :=
  let v := (List.range 4).foldl (fun (w : Word) n => w ||| ((s.pageWord p (off + 4 * n)).setWidth 128 <<< (32 * n))) 0
  let s1 := match p with
    | .fgt => if off = 0x0A0 then s.onFgt fun f => { f with log := f.log.drop 1 } else s
    | .qad r => if 0x100 ≤ off ∧ off < 0x140 ∧ (s.quad r).dirDone = false ∧ s.present p = true then s.setBit p 8 else s
    | _ => s
  (v, s1)

/-- A doorbell as a read gives it (R103). -/
def State.doorbells (s : State) (f i : Nat) : Word :=
  BitVec.ofNat 128 (s.doorbellWord f i + 18446744073709551616 * s.doorbellWord f (i + 1))

/-- A word of the Umpire's banks. The OTP window's layout is not given, so its words are free values (log entry 3), but for the
identity-root field, which reads zero wherever it lies (R64). -/
def State.bankRead (s : State) (bank a : Nat) : Except Trap (Word × State) :=
  match bankAt bank a with
  | none => .error (.address (farAddr bank a))
  | some .sram =>
    if s.ump.poison.contains a then .error (.poison (farAddr bank a)) else .ok (s.ump.sram.get 0 a, s)
  | some .rom => .ok (Config.bootRom a, s)
  | some .otp =>
    if Config.otpIdentityAt ≤ a ∧ a < Config.otpIdentityAt + 4 then .ok (0, s) else .ok (Config.free 128 s.freeCtr, s.spend 1)
  | some .log => .ok (wordOf ((s.logBytes ((a - 0x100) / 2)).drop (16 * (a % 2))), s)
  | some (.regs (.page p off)) => .ok (s.pageRead p off)
  | some (.regs (.doorbell f i _)) => .ok (s.doorbells f i, s)
  | some (.regs _) => .ok (0, s)

/-- The accelerator page of a word of the Umpire's banks cannot be reached, a reset being in progress (R24, R55). -/
def State.unreachable (s : State) (bank a : Nat) : Bool :=
  match bankAt bank a with
  | some (.regs (.page p _)) => s.present p && !s.readablePage p
  | _ => false

/-- A word of the Umpire's banks lies in an accelerator page, to which a write during an accelerator-domain reset is discarded
(R24). -/
def State.barred (s : State) (bank a : Nat) : Bool :=
  match bankAt bank a with
  | some (.regs (.page p _)) => s.present p && PageId.accel p && s.chip.accReset
  | _ => false

/-- A word of data memory (R182). -/
def State.memRead (s : State) (c : Core) (bank a : Nat) : Except Trap (Word × State) :=
  match c with
  | .umpire => s.bankRead bank a
  | .cox e k =>
    if bank = 0 ∧ a < 0x400 then .ok ((s.slot e k).win.get 0 a, s)
    else if bank = 1 ∧ a < 0x100 then .ok (s.constAt e k a, s)
    else .error (.address (farAddr bank a))

/-- The selected lanes of a word of data memory are written (R182, R213). -/
def State.memWrite (s : State) (c : Core) (bank a : Nat) (sel : Nat → Bool) (v : Word) : Except Trap State :=
  match c with
  | .umpire => match bankAt bank a with
    | none => .error (.address (farAddr bank a))
    | some b => if s.barred bank a then .error (.refused (farAddr bank a)) else .ok (s.bankWrite b a sel v)
  | .cox e k =>
    if bank = 0 ∧ a < 0x400 then
      let m := laneMask sel
      .ok (s.modSlot e k fun t => { t with win := t.win.set 0 a ((t.win.get 0 a &&& ~~~m) ||| (v &&& m)) })
    else .error (.address (farAddr bank a))

/-- Every lane. -/
def allLanes : Nat → Bool := fun _ => true

/-! ### Operands (R187 to R190) -/

/-- What an operand specifier names. -/
inductive Loc where
  | mem (bank a : Nat)
  | imm (v : Word)
  | special (n : Nat)
  deriving DecidableEq, Repr

/-- The shift of mode 5. -/
def scaleOf (f : BitVec 18) : Nat :=
  match f.toNat / 16 % 4 with
  | 3 => 4
  | n => n

/-- The operand of a specifier; pointers step at once. `step`: words the operand covers. -/
def State.resolve1 (s : State) (c : Core) (sp : BitVec 8) (f : BitVec 18) (step : Nat) : Except Trap (Loc × State) :=
  let r := s.coreRegs c
  let n := spIdx sp
  let at_ := fun (a : BitVec 18) => Loc.mem r.dbk.toNat a.toNat
  let d := BitVec.ofNat 18 step
  if spDefined sp f = false then .error .operand
  else match spMode sp with
    | 0 => .ok (at_ f, s)
    | 1 => .ok (at_ (r.ptr n), s)
    | 2 => .ok (at_ (r.ptr n), s.modRegs c fun r => r.setPtr n (r.ptr n + d))
    | 3 =>
      let a := r.ptr n - d
      if n = 15 ∧ a < r.sl then .error .stack else .ok (at_ a, s.modRegs c fun r => r.setPtr n a)
    | 4 => .ok (at_ (r.ptr n + f), s)
    | 5 => .ok (at_ (r.ptr n + (r.ptr (f.toNat % 16) <<< scaleOf f)), s)
    | 6 => .ok (.imm (immOf n f), s)
    | _ =>
      if 16 ≤ n ∧ c = Core.umpire then .error .operand else .ok (.special n, s)

/-- The step of a position (R187). -/
def Pos.step (p : Pos) (vl : Nat) : Nat :=
  match p with
  | .dest true => vl
  | .src true => vl
  | _ => 1

/-- An operand of an instruction; a position the instruction does not use names nothing. -/
def State.operand (s : State) (c : Core) (p : Pos) (sp : BitVec 8) (f : BitVec 18) (vl : Nat) : Except Trap (Loc × State) :=
  match p with
  | .none => .ok (.imm 0, s)
  | _ => s.resolve1 c sp f (p.step vl)

/-! ### Streams and the counter-block generator (R199, R202) -/

/-- The next 16 bytes of a stream, `left` bytes of it unread, zeros beyond its end. -/
def streamWord (data : List Byte) (left : Nat) : Word := wordOf (data.drop (data.length - left))

/-- The width of the counter in bits (R183). -/
def cbgWidth (cfg : BitVec 2) : Nat :=
  match cfg.toNat with
  | 1 => 64
  | 2 => 128
  | _ => 32

/-- The counter's counting bits: block byte 15 least significant. -/
def cbgLow (cfg : BitVec 2) (w : Word) : Nat := ofBe (wordBytes w) % 2 ^ cbgWidth cfg

/-- A word read from a special operand (R188, R199, R202). -/
def State.readSpecial (s : State) (e k n : Nat) : Except Trap (Word × State) :=
  let t := s.slot e k
  match n with
  | 24 => .ok (streamWord t.inData t.inLeft, s.modSlot e k fun t => { t with inLeft := t.inLeft - 16 })
  | 26 => .ok (streamWord t.aadData t.aadLeft, s.modSlot e k fun t => { t with aadLeft := t.aadLeft - 16 })
  | 27 => .ok (wordOf (padTo 16 ((wordBytes t.tagIn).take t.tagLen.toNat)), s)
  | 28 =>
    if t.cbgFull then .error .counter
    else
      let low := cbgLow t.cbgCfg t.cbg
      let v := ofBe (wordBytes t.cbg)
      .ok (t.cbg, s.modSlot e k fun t =>
        if low + 1 = 2 ^ cbgWidth t.cbgCfg then { t with cbgFull := true }
        else { t with cbg := wordOf (beBytes 16 (v + 1)) })
  | _ => .error .operand

/-- The part of a GCM message whose first counter depends on the key does not fit the counter now written (R171). -/
def State.gcmOver (s : State) (t : Slot) (v : Word) : Bool :=
  match t.job.bind s.job with
  | some b => (bits b.op 15 0 == 6 || bits b.op 15 0 == 7) && t.msgFlags.getLsbD 0 && t.ivLen != 12
      && decide (2 ^ 32 - 1 - cbgLow 0 v < (b.partLen + 15) / 16)
  | none => false

/-- A word written to a special operand. -/
def State.writeSpecial (s : State) (e k n : Nat) (v : Word) : Except Trap State :=
  match n with
  | 25 => .ok (s.modSlot e k fun t =>
      { t with outBuf := t.outBuf ++ (wordBytes v).take t.outLeft, outLeft := t.outLeft - 16 })
  | 27 => .ok (s.modSlot e k fun t => { t with tagOut := some v })
  | 28 =>
    if s.gcmOver (s.slot e k) v then .error .counter
    else .ok (s.modSlot e k fun t => { t with cbg := v, cbgFull := false })
  | _ => .error .operand

/-- Element `i` of a source. -/
def State.readLoc (s : State) (c : Core) (l : Loc) (i : Nat) : Except Trap (Word × State) :=
  match l with
  | .mem b a => s.memRead c b ((a + i) % 262144)
  | .imm v => .ok (v, s)
  | .special n =>
    if n < 16 then .ok (((s.coreRegs c).ptr n).setWidth 128, s)
    else match c with
      | .cox e k => s.readSpecial e k n
      | .umpire => .error .operand

/-- Element `i` of a destination is written, the selected lanes of it. -/
def State.writeLoc (s : State) (c : Core) (l : Loc) (i : Nat) (sel : Nat → Bool) (v : Word) : Except Trap State :=
  match l with
  | .mem b a => s.memWrite c b ((a + i) % 262144) sel v
  | .imm _ => .error .operand
  | .special n =>
    if n < 16 then .ok (if sel 0 then s.modRegs c fun r => r.setPtr n (v.setWidth 18) else s)
    else match c with
      | .cox e k => s.writeSpecial e k n v
      | .umpire => .error .operand

/-! ### Delayed results (R203 to R205) -/

/-- A pending FLD lands: its destination takes the value. -/
def State.landValue (s : State) (c : Core) (x : PendFld) : Except Trap State :=
  match x.special with
  | some n => s.writeLoc c (.special n) 0 allLanes x.val
  | none => s.memWrite c x.bank x.addr allLanes x.val

/-- What a pending FLD brings where it lands: a refused one its exception, and of any other the fault that its write meets. The
faulting instruction is the FLD (R203, R212). -/
def State.land (s : State) (c : Core) (x : PendFld) : Except Trap State :=
  match s.landValue c x, c with
  | .error t, .umpire => .error (.landing x.pc t.cause t.eaddr)
  | .error t, _ => .error t
  | .ok s2, _ => match x.refused with
    | some a => .error (.landing x.pc 6 (some a))
    | none => .ok s2

/-- The FLDs that are due land, oldest first. -/
def State.landDue (s : State) (c : Core) : Except Trap State :=
  let due := (s.coreRegs c).fld.filter fun x => x.left == 0
  due.foldlM (fun s x => s.land c x) (s.modRegs c fun r => { r with fld := r.fld.filter fun x => x.left != 0 })

/-- Every pending result of the seats and field units is written in issue order, then every pending FLD. -/
def State.landAll (s : State) (c : Core) : Except Trap State :=
  let r := s.coreRegs c
  let s1 := s.modRegs c fun r => { r with fld := [], res := [] }
  match r.res.foldlM (fun s x => s.memWrite c x.bank x.addr allLanes x.val) s1 with
  | .error t => .error t
  | .ok s2 => r.fld.foldlM (fun s x => s.land c x) s2

/-! ### Faults and exceptions (R212, R216) -/

/-- The pending FLDs land before exception entry, a refused one as zero (R205, R212). -/
def State.landForEntry (s : State) : State :=
  s.ump.regs.fld.foldl (fun s x => match s.landValue .umpire x with
    | .ok t => t
    | .error _ => s) (s.modRegs .umpire fun r => { r with fld := [] })

/-- Control leaves for another address: instruction fetch sees every store made before (R184). -/
def State.goUmpire (s : State) (a : BitVec 30) : State :=
  s.onUmp fun u => { u with stale := [], regs := { u.regs with pbk := (a >>> 18).setWidth 12, pc := a.setWidth 18 } }

/-- Exception or interrupt entry of the Umpire (R212). Every pending FLD completes first. DEDUCED (log entry 70): a refused one brings
its own exception at that point, ahead of the later fault or interrupt, which comes again after the return. -/
def State.umpEntry (s : State) (epc : BitVec 30) (cause : BitVec 8) (eaddr : Option Nat) : State :=
  let x : BitVec 30 × BitVec 8 × Option Nat := match s.ump.regs.fld.find? fun x => x.refused.isSome with
    | some x => (x.pc, 6, x.refused)
    | none => (epc, cause, eaddr)
  let s1 := s.landForEntry.onUmp fun u =>
    { u with epc := x.1, cause := x.2.1, pie := u.ie, ie := false, waiting := false
             eaddr := match x.2.2 with
               | some a => BitVec.ofNat 30 a
               | none => u.eaddr }
  s1.goUmpire s1.ump.evb

/-- The counter-block generator refuses: the stroke is over, and its end completes the request with MSG_TOO_LONG (R171). -/
def State.refuseCounter (s : State) (e k : Nat) : State :=
  s.modSlot e k fun t => { t with cbgRefused := true, ended := true }

/-- An instruction at `pc` does not complete: a program fault ends the stroke as a block alarm; the Umpire takes an exception. -/
def State.trap (s : State) (c : Core) (pc : BitVec 30) (t : Trap) : State :=
  match c with
  | .umpire => s.umpEntry (t.pc pc) t.cause t.eaddr
  | .cox e k =>
    if t = Trap.counter then s.refuseCounter e k
    else s.alarm .eight e (s.slot e k).job.toList 0x8E t.detail true

/-! ### Interrupts (R419) -/

/-- PG_INT_PEND of a page is not zero. -/
def State.pagePend (s : State) (p : PageId) : Bool := (s.hdr p).pend != 0

/-- IPEND. The MCTP queues hold nothing between commands. -/
def State.ipend (s : State) : W32 :=
  let regions := List.range s.variant.regions
  let l : List (Nat × Bool) :=
    [(0, s.pagePend .wdg), (1, s.pagePend .tmp), (2, s.pagePend .cci), (3, s.pagePend .fgt), (4, s.pagePend .psq),
     (5, s.pagePend .lcs || s.pagePend .dbg), (6, s.pagePend .erg), (10, regions.any fun r => s.pagePend (.qad r)),
     (11, regions.any fun r => s.pagePend (.pke r)), (12, s.chip.intSrc != 0), (13, s.ump.timerExpired), (14, s.pagePend .rng),
     (15, s.pagePend .otp)]
  BitVec.ofNat 32 (pack (l.map fun x => (x.1, b2n x.2)))

/-- An interrupt is pending and enabled in IEN. -/
def State.irqReady (s : State) : Bool := s.ipend &&& s.ump.ien != 0

/-- The core runs instructions now: a slot with a stroke in execution; the Umpire running, not halted, and not in WFI with nothing
to wake it (R210). -/
def State.coreLive (s : State) : Core → Bool
  | .cox e k => s.present (.egt e) && (s.slot e k).job.isSome && !(s.slot e k).ended
  | .umpire => s.umpUp && (!s.ump.waiting || s.irqReady)

/-! ### One instruction -/

/-- What a meaning is given: the core, the operands, PC, the next address in sequence, the vector length. -/
structure At where
  c : Core
  x : Enc
  pbk : BitVec 12
  pc : BitVec 18
  next : BitVec 18
  vl : Nat
  deriving DecidableEq, Repr

/-- The address of the instruction. -/
def At.here (i : At) : BitVec 30 := insAddr i.pbk i.pc

/-- The address of the next instruction. -/
def At.after (i : At) : BitVec 30 := insAddr i.pbk i.next

/-- The address that the target field names (R197). -/
def At.target (i : At) : BitVec 30 := insAddr i.pbk (i.next + Enc.ft i.x)

/-- The meaning of an opcode: the state it leaves and where control goes. -/
abbrev Body := At → State → Except Trap (State × Flow)

/-- An operand use in a cox that the loader rejects, reached at run time (R216 DETAIL 6). -/
def useBad (op : Nat) (r : OpInfo) (x : Enc) : Bool :=
  let v := spImm x.opc (Enc.fc x)
  !(presenceOk r.a x.opa && presenceOk r.b x.opb && presenceOk r.c x.opc && classOk r.a x.opa x.vlm1 && classOk r.b x.opb x.vlm1
    && classOk r.c x.opc x.vlm1 && keyOk r.a x.opa && keyOk r.b x.opb && keyOk r.c x.opc && (r.vec || x.vlm1 == 0)
    && (opInfo op).isSome && farOk op v && scalarOk op v)

/-- The instruction's address holds no instruction that the core fetches (R184). -/
def fetchBad (c : Core) (pbk : BitVec 12) (pc : BitVec 18) : Bool :=
  match c with
  | .cox _ _ => decide (2048 ≤ pc.toNat)
  | .umpire => !(pbk == 0 || (pbk == 0x010 && decide (pc.toNat / 3 < 0x4000)))

/-- What stops an instruction before it begins (R206, R210, R214, R216). -/
def State.early (s : State) (op : Nat) (r : OpInfo) (i : At) : Option Trap :=
  if fetchBad i.c i.pbk i.pc then some .transfer
  else match i.c with
    | .umpire => if r.ump then none else some .operand
    | .cox e k =>
      if 1048576 ≤ (s.slot e k).instrs then some .budget
      else if r.cox = false then some .privileged
      else if useBad op r i.x then some .operand
      else none

/-- The innermost loop levels whose end is this instruction are counted down; the address where execution goes on (R200). -/
def loopEnd (r : Regs) (here : BitVec 30) (after : BitVec 30) : Nat → Regs × BitVec 30
  | 0 => (r, after)
  | d + 1 =>
    if (r.le[d]?).getD 0 = here then
      let n := (r.lc[d]?).getD 0 - 1
      let r1 := { r with lc := r.lc.setIfInBounds d n }
      if n ≠ 0 then (r1, (r.ls[d]?).getD 0) else loopEnd { r1 with ldepth := BitVec.ofNat 2 d } here after d
    else (r, after)

/-- Control goes to an address. A cox stays in its program slot (R216). -/
def State.goTo (s : State) (c : Core) (a : BitVec 30) : Except Trap State :=
  match c with
  | .umpire => .ok (s.goUmpire a)
  | .cox _ _ =>
    if 2048 ≤ (a.setWidth 18 : BitVec 18).toNat then .error .transfer
    else .ok (s.modRegs c fun r => { r with pc := a.setWidth 18 })

/-- After an instruction that transfers no control: loop ends, then the next instruction (R200). -/
def State.goNext (s : State) (i : At) : Except Trap State :=
  let r := s.coreRegs i.c
  let x := loopEnd r i.here i.after r.ldepth.toNat
  let s1 := s.modRegs i.c fun _ => x.1
  match i.c with
  | .umpire => .ok (s1.modRegs i.c fun r => { r with pc := x.2.setWidth 18, pbk := (x.2 >>> 18).setWidth 12 })
  | .cox _ _ => s1.goTo i.c x.2

/-- An instruction has begun: pending FLDs come one instruction nearer, the budget counts. -/
def State.count1 (s : State) (c : Core) : State :=
  let s1 := s.modRegs c fun r => { r with fld := r.fld.map fun x => { x with left := x.left - 1 } }
  match c with
  | .cox e k => s1.modSlot e k fun t => { t with instrs := t.instrs + 1 }
  | .umpire => s1.onUmp fun u => { u with waiting := false }

/-- An instruction runs whole, or stops. Where its own store brought a watchdog expiry, the restart has set where control goes. -/
def State.runBody (s : State) (op : Nat) (r : OpInfo) (i : At) (f : Body) : Except Trap State :=
  match s.early op r i with
  | some t => .error t
  | none => match f i (s.count1 i.c) with
    | .error t => .error t
    | .ok (s1, fl) =>
      if s.wdg.consec < s1.wdg.consec then .ok s1
      else match fl with
        | .seq => s1.goNext i
        | .jump a => s1.goTo i.c a
        | .set => .ok s1

/-- What an instruction of a core at its PC is given. -/
def State.atNow (s : State) (c : Core) (r : OpInfo) (x : Enc) : At :=
  let pc := (s.coreRegs c).pc
  { c := c, x := x, pbk := s.pbkOf c, pc := pc, next := pc + BitVec.ofNat 18 (Enc.len x r.target), vl := x.vlm1.toNat + 1 }

/-- The Umpire core halts where a debugger has set a breakpoint, and the watchdog with it (R393, R432). -/
def State.breakCheck (s : State) (c : Core) : State :=
  if c = .umpire ∧ s.dbg.brk.contains (insAddr s.ump.regs.pbk s.ump.regs.pc) = true then
    (s.onDbg fun d => { d with halted := true }).onWdg fun w => { w with frozen := true }
  else s

/-- A core executes an instruction with opcode `op` and meaning `f` at its PC: first the FLDs that are due land, then the instruction
runs; one that stops leaves nothing changed but the fault or the exception entry. -/
def State.traern (s : State) (c : Core) (op : Nat) (x : Enc) (f : Body) : State :=
  if s.coreLive c = false then s
  else match opInfo op with
    | none => s
    | some r =>
      match s.landDue c with
      | .error t => (s.trap c (s.atNow c r x).here t).breakCheck c
      | .ok s1 => match s1.runBody op r (s1.atNow c r x) f with
        | .ok s2 => s2.breakCheck c
        | .error t => (s1.trap c (s1.atNow c r x).here t).breakCheck c

end Sys2Proof.Machine
end

