-- ==== Sys2Proof/Machine/Traern.lean ====
section
/-!
DEFINITION. The meanings of the Traern opcodes (R191 to R214), and the events of a core that are no instruction.
-/

namespace Sys2Proof.Machine

/-! ### Operands of a whole instruction -/

/-- The operands of an instruction, resolved in the order A, B, C (R189). -/
structure Abc where
  a : Loc
  b : Loc
  c : Loc
  s : State

/-- The operands of opcode `op`. -/
def State.abc (s : State) (op : Nat) (i : At) : Except Trap Abc :=
  let r := (opInfo op).getD {}
  match s.operand i.c r.a i.x.opa (Enc.fa i.x) i.vl with
  | .error t => .error t
  | .ok (a, s1) => match s1.operand i.c r.b i.x.opb (Enc.fb i.x) i.vl with
    | .error t => .error t
    | .ok (b, s2) => match s2.operand i.c r.c i.x.opc (Enc.fc i.x) i.vl with
      | .error t => .error t
      | .ok (c, s3) => .ok ⟨a, b, c, s3⟩

/-- Elements 0 to n - 1 in ascending order (R190). -/
def eachElem (n : Nat) (f : State → Nat → Except Trap State) (s : State) : Except Trap State := (List.range n).foldlM f s

/-- A vector instruction of two vector sources. -/
def vecBody (op : Nat) (f : Word → Word → Word) : Body := fun i s =>
  match s.abc op i with
  | .error t => .error t
  | .ok o => (eachElem i.vl (fun s n => match s.readLoc i.c o.b n with
      | .error t => .error t
      | .ok (x, s1) => match s1.readLoc i.c o.c n with
        | .error t => .error t
        | .ok (y, s2) => s2.writeLoc i.c o.a n allLanes (f x y)) o.s).map fun s => (s, .seq)

/-- The value a destination holds before a write that keeps part of it. What has been appended to OUT is no part of the next word:
a free value (log entry 3). -/
def State.oldLoc (s : State) (c : Core) (l : Loc) (n : Nat) : Except Trap (Word × State) :=
  match l, c with
  | .special 25, .cox _ _ => .ok (Config.free 128 s.freeCtr, s.spend 1)
  | .special 27, .cox e k => .ok ((s.slot e k).tagOut.getD 0, s)
  | .special 28, .cox e k => .ok ((s.slot e k).cbg, s)
  | l, c => s.readLoc c l n

/-- A vector instruction of one vector source and a scalar, which is read once; `f` takes the old destination, B and C. -/
def scalarBody (op : Nat) (old : Bool) (f : Word → Word → Word → Word) : Body := fun i s =>
  match s.abc op i with
  | .error t => .error t
  | .ok o => match o.s.readLoc i.c o.c 0 with
    | .error t => .error t
    | .ok (y, s1) => (eachElem i.vl (fun s n => match s.readLoc i.c o.b n with
        | .error t => .error t
        | .ok (x, s2) => match (if old then s2.oldLoc i.c o.a n else .ok (0, s2)) with
          | .error t => .error t
          | .ok (w, s3) => s3.writeLoc i.c o.a n allLanes (f w x y)) s1).map fun s => (s, .seq)

/-- A vector instruction of one vector source. -/
def unaryBody (op : Nat) (f : Word → Word) : Body := fun i s =>
  match s.abc op i with
  | .error t => .error t
  | .ok o => (eachElem i.vl (fun s n => match s.readLoc i.c o.b n with
      | .error t => .error t
      | .ok (x, s1) => s1.writeLoc i.c o.a n allLanes (f x)) o.s).map fun s => (s, .seq)

/-- Element `k` of a source, after those already read. -/
def State.readNext (c : Core) (l : Loc) (p : List Word × State) (k : Nat) : Except Trap (List Word × State) :=
  match p.2.readLoc c l k with
  | .error t => .error t
  | .ok (x, s1) => .ok (p.1 ++ [x], s1)

/-- The elements of a source as they stand at issue. -/
def State.readAll (s : State) (c : Core) (l : Loc) (n : Nat) : Except Trap (List Word × State) :=
  (List.range n).foldlM (State.readNext c l) ([], s)

/-- The scalar sources A and B. -/
def State.two (s : State) (op : Nat) (i : At) : Except Trap (Word × Word × State) :=
  match s.abc op i with
  | .error t => .error t
  | .ok o => match o.s.readLoc i.c o.a 0 with
    | .error t => .error t
    | .ok (x, s1) => match s1.readLoc i.c o.b 0 with
      | .error t => .error t
      | .ok (y, s2) => .ok (x, y, s2)

/-! ### Lane arithmetic (R192 to R194) -/

/-- Lanes of `w` bits, each with `f`. -/
def lanes2 (w : Nat) (f : BitVec w → BitVec w → BitVec w) (a b : Word) : Word :=
  (List.range (128 / w)).foldl (fun (r : Word) n =>
    r ||| ((f ((a >>> (w * n)).setWidth w) ((b >>> (w * n)).setWidth w)).setWidth 128 <<< (w * n))) 0

/-- The shift count C[6:0]. -/
def shiftCount (c : Word) : Nat := c.toNat % 128

/-- Lane-wise left shift; a count of the lane width or more gives zero. -/
def laneShl (w : Nat) (b c : Word) : Word := lanes2 w (fun x _ => x <<< shiftCount c) b 0

/-- Lane-wise logical right shift. -/
def laneShr (w : Nat) (b c : Word) : Word := lanes2 w (fun x _ => x >>> shiftCount c) b 0

/-- Position p and width w of a field operand (R193). -/
def fieldPos (c : Word) : Nat := c.toNat % 128
@[inherit_doc fieldPos]
def fieldWidth (c : Word) : Nat := c.toNat / 128 % 128 + 1

/-- The low `w` bits set. -/
def lowBits (w : Nat) : Word := BitVec.ofNat 128 (2 ^ w - 1)

/-- BFI: bits above 127 take no part. -/
def bfiOf (old b c : Word) : Word :=
  let m := lowBits (fieldWidth c) <<< fieldPos c
  (old &&& ~~~m) ||| ((b <<< fieldPos c) &&& m)

/-- BFX. -/
def bfxOf (b c : Word) : Word := (b >>> fieldPos c) &&& lowBits (fieldWidth c)

/-- The number of leading zero bits, 0 to 128. -/
def clzOf (b : Word) : Word := if b = 0 then 128 else BitVec.ofNat 128 (127 - Nat.log2 b.toNat)

/-- Byte permute (R194). -/
def bpermOf (b c : Word) : Word :=
  wordOf ((wordBytes c).map fun k => if k.msb then 0 else (wordBytes b).getD (k.toNat % 16) 0)

/-! ### NOP, END, FENCE and moves -/

/-- NOP. -/
def nopBody : Body := fun _ s => .ok (s, .seq)

/-- FENCE (R204). -/
def fenceBody : Body := fun i s => (s.landAll i.c).map fun s => (s, .seq)

/-- The context handed over at END: window words 0x000 to 0x01E and the counter (R185). -/
def Slot.context (t : Slot) : List Word := ((List.range 31).map fun n => t.win.get 0 n) ++ [t.cbg]

/-- A slot after END: its context handed over, its window and every register zero (R185). -/
def Slot.handedOver (t : Slot) : Slot :=
  { t with ended := true, ctxOut := t.context, win := [], regs := {}, cbgCfg := 0, cbg := 0, inLeft := 0, outLeft := 0, aadLeft := 0
           ivLen := 0, tagLen := 0, param := 0, msgFlags := 0, done := 0 }

/-- END (R185, R198): FENCE, OUT_LEFT zero, then the context goes to the Marshal, which keeps it at the stroke's end, and the slot is
zeroed. -/
def endBody : Body := fun i s =>
  match s.landAll i.c with
  | .error t => .error t
  | .ok s1 => match i.c with
    | .umpire => .error .operand
    | .cox e k =>
      if (s1.slot e k).outLeft ≠ 0 then .error .outLeft else .ok (s1.modSlot e k Slot.handedOver, .set)

/-- MOV. -/
def movBody : Body := unaryBody 0x03 id

/-- XRED. -/
def xredBody : Body := fun i s =>
  match s.abc 0x14 i with
  | .error t => .error t
  | .ok o => match o.s.readAll i.c o.b i.vl with
    | .error t => .error t
    | .ok (l, s1) => (s1.writeLoc i.c o.a 0 allLanes (l.foldl (· ^^^ ·) 0)).map fun s => (s, .seq)

/-! ### Far accesses (R203, R213) -/

/-- What an FLD reads when it issues, and the address of an access that was refused (R203, R212). -/
def State.farRead (s : State) (c : Core) (bank a : Nat) : Except Trap (Word × Option Nat × State) :=
  match c with
  | .cox _ _ => if 1 < bank then .error .operand else (s.memRead c bank a).map fun x => (x.1, none, x.2)
  | .umpire =>
    if s.unreachable bank a then .ok (0, some (farAddr bank a), s) else (s.bankRead bank a).map fun x => (x.1, none, x.2)

/-- A destination that a delayed write may have: memory, a pointer, OUT, TAG or CBG. -/
def Loc.isDest : Loc → Bool
  | .mem _ _ => true
  | .special n => decide (n < 16) || n == 25 || n == 27 || n == 28
  | .imm _ => false

/-- FLD. -/
def fldBody : Body := fun i s =>
  match s.abc 0x04 i with
  | .error t => .error t
  | .ok o => match o.s.readLoc i.c o.b 0 with
    | .error t => .error t
    | .ok (a, s1) => match s1.readLoc i.c o.c 0 with
      | .error t => .error t
      | .ok (b, s2) =>
        if Loc.isDest o.a = false then .error .operand
        else match s2.farRead i.c (b.toNat % 4096) (a.toNat % 262144) with
          | .error t => .error t
          | .ok (v, ref, s3) =>
            let x : PendFld := match o.a with
              | .mem bank addr => { special := none, bank := bank, addr := addr, val := v, left := 2, pc := i.here, refused := ref }
              | .special n => { special := some n, bank := 0, addr := 0, val := v, left := 2, pc := i.here, refused := ref }
              | .imm _ => { special := none, bank := 0, addr := 0, val := v, left := 2, pc := i.here, refused := ref }
            .ok (s3.modRegs i.c fun r => { r with fld := r.fld ++ [x] }, .seq)

/-- FST: the word at bank C, address A := B; in a cox the bank must be 0x000. -/
def fstBody : Body := fun i s =>
  match s.abc 0x05 i with
  | .error t => .error t
  | .ok o => match o.s.readLoc i.c o.a 0 with
    | .error t => .error t
    | .ok (a, s1) => match s1.readLoc i.c o.b 0 with
      | .error t => .error t
      | .ok (v, s2) => match s2.readLoc i.c o.c 0 with
        | .error t => .error t
        | .ok (b, s3) => (s3.memWrite i.c (b.toNat % 4096) (a.toNat % 262144) allLanes v).map fun s => (s, .seq)

/-- The word that a masked store leaves in a place that takes whole words. -/
def mergeLanes (sel : Nat → Bool) (old v : Word) : Word := (old &&& ~~~(laneMask sel)) ||| (v &&& laneMask sel)

/-- STM. -/
def stmBody : Body := fun i s =>
  match s.abc 0x06 i with
  | .error t => .error t
  | .ok o => match o.s.readLoc i.c o.b 0 with
    | .error t => .error t
    | .ok (v, s1) => match s1.readLoc i.c o.c 0 with
      | .error t => .error t
      | .ok (m, s2) =>
        let sel := fun (n : Nat) => m.getLsbD n
        match o.a with
        | .special n =>
          if n < 16 then (s2.writeLoc i.c o.a 0 sel v).map fun s => (s, .seq)
          else match s2.oldLoc i.c o.a 0 with
            | .error t => .error t
            | .ok (w, s3) => (s3.writeLoc i.c o.a 0 allLanes (mergeLanes sel w v)).map fun s => (s, .seq)
        | _ => (s2.writeLoc i.c o.a 0 sel v).map fun s => (s, .seq)

/-! ### Special registers (R183, R211) -/

/-- A special register of a cox's stroke slot (R226). -/
def Slot.sr (t : Slot) (n : Nat) : Word :=
  match n with
  | 0x10 => t.cbgCfg.setWidth 128
  | 0x20 => BitVec.ofNat 128 t.inLeft
  | 0x21 => BitVec.ofNat 128 t.outLeft
  | 0x22 => BitVec.ofNat 128 t.aadLeft
  | 0x23 => t.ivLen.setWidth 128
  | 0x24 => t.tagLen.setWidth 128
  | 0x25 => t.param.setWidth 128
  | 0x26 => t.msgFlags.setWidth 128
  | _ => t.done.setWidth 128

/-- A privileged special register (R211). -/
def State.privSr (s : State) (n : Nat) : Word :=
  let u := s.ump
  match n with
  | 0x80 => u.evb.setWidth 128
  | 0x81 => u.epc.setWidth 128
  | 0x82 => u.cause.setWidth 128
  | 0x83 => u.eaddr.setWidth 128
  | 0x84 => u.ien.setWidth 128
  | 0x85 => s.ipend.setWidth 128
  | 0x86 => BitVec.ofNat 128 (b2n u.ie + 2 * b2n u.pie)
  | _ => u.scratch

/-- A special register's value, zero-extended. -/
def State.srValue (s : State) (c : Core) (n : Nat) : Word :=
  let r := s.coreRegs c
  match n with
  | 0x00 => r.dbk.setWidth 128
  | 0x01 => (s.pbkOf c).setWidth 128
  | 0x02 => r.sl.setWidth 128
  | 0x03 => r.ldepth.setWidth 128
  | 0x04 | 0x05 | 0x06 => ((r.ls[n - 4]?).getD 0).setWidth 128
  | 0x08 | 0x09 | 0x0A => ((r.le[n - 8]?).getD 0).setWidth 128
  | 0x0C | 0x0D | 0x0E => ((r.lc[n - 12]?).getD 0).setWidth 128
  | _ => match c with
    | .cox e k => Slot.sr (s.slot e k) n
    | .umpire => s.privSr n

/-- The special register of a number on a core, or what its use is stopped by: a privileged one in a cox has a cause of its own. -/
def srOf (c : Core) (n : Nat) : Except Trap SrInfo :=
  match srInfo n, c with
  | none, _ => .error .operand
  | some r, .cox _ _ => if r.cox then .ok r else .error .privileged
  | some r, .umpire => if r.ump then .ok r else .error .operand

/-- In a cox, MFSR and MTSR name their register by an immediate; any other use the loader rejects (R215). -/
def srUse (i : At) : Bool :=
  match i.c with
  | .cox _ _ => spMode i.x.opc == 6
  | .umpire => true

/-- MFSR. -/
def mfsrBody : Body := fun i s =>
  match s.abc 0x07 i with
  | .error t => .error t
  | .ok o => match o.s.readLoc i.c o.c 0 with
    | .error t => .error t
    | .ok (n, s1) =>
      if srUse i = false then .error .operand
      else match srOf i.c n.toNat with
        | .error t => .error t
        | .ok _ => (s1.writeLoc i.c o.a 0 allLanes (s1.srValue i.c n.toNat)).map fun s => (s, .seq)

/-- A write of a special register that its core may write (R183, R211). -/
def State.setSr (s : State) (c : Core) (n : Nat) (v : Word) : State :=
  match n with
  | 0x00 => s.modRegs c fun r => { r with dbk := v.setWidth 12 }
  | 0x02 => s.modRegs c fun r => { r with sl := v.setWidth 18 }
  | 0x03 => s.modRegs c fun r => { r with ldepth := v.setWidth 2 }
  | 0x04 | 0x05 | 0x06 => s.modRegs c fun r => { r with ls := r.ls.setIfInBounds (n - 4) (v.setWidth 30) }
  | 0x08 | 0x09 | 0x0A => s.modRegs c fun r => { r with le := r.le.setIfInBounds (n - 8) (v.setWidth 30) }
  | 0x0C | 0x0D | 0x0E => s.modRegs c fun r => { r with lc := r.lc.setIfInBounds (n - 12) (v.setWidth 32) }
  | 0x10 => match c with
    | .cox e k => s.modSlot e k fun t => { t with cbgCfg := v.setWidth 2 }
    | .umpire => s
  | 0x80 => s.onUmp fun u => { u with evb := v.setWidth 30 }
  | 0x81 => s.onUmp fun u => { u with epc := v.setWidth 30 }
  | 0x84 => s.onUmp fun u => { u with ien := v.setWidth 32 }
  | 0x86 => s.onUmp fun u => { u with ie := v.getLsbD 0, pie := v.getLsbD 1 }
  | 0x87 => s.onUmp fun u => { u with scratch := v }
  | _ => s

/-- A write of a special register that stops: a cox's DBK above 1, LDEPTH raised (R183, R216). -/
def State.srStop (s : State) (c : Core) (n : Nat) (v : Word) : Option Trap :=
  let cox := match c with
    | .cox _ _ => true
    | .umpire => false
  if n = 0 ∧ cox = true ∧ 1 < v.toNat % 4096 then some (.address 0)
  else if n = 3 ∧ (s.coreRegs c).ldepth.toNat < v.toNat % 4 then some .depth
  else none

/-- MTSR: a read-only register keeps its value on the Umpire; the loader rejects the write in a cox. -/
def mtsrBody : Body := fun i s =>
  match s.abc 0x08 i with
  | .error t => .error t
  | .ok o => match o.s.readLoc i.c o.b 0 with
    | .error t => .error t
    | .ok (v, s1) => match s1.readLoc i.c o.c 0 with
      | .error t => .error t
      | .ok (w, s2) =>
        let n := w.toNat
        if srUse i = false then .error .operand
        else match srOf i.c n with
          | .error t => .error t
          | .ok r =>
            if r.rw = false then
              match i.c with
              | .cox _ _ => .error .operand
              | .umpire => .ok (s2, .seq)
            else match s2.srStop i.c n v with
              | some t => .error t
              | none => .ok (s2.setSr i.c n v, .seq)

/-! ### Seats and field units (R195, R204, R208, R209) -/

/-- Results left pending for the next FENCE. -/
def State.pendRes (s : State) (c : Core) (bank a : Nat) (l : List Word) : State :=
  s.modRegs c fun r =>
    { r with res := r.res ++ l.zipIdx.map fun x => ({ bank := bank, addr := (a + x.2) % 262144, val := x.1 } : PendRes) }

/-- The key bound to K0 to K7 (R224). -/
def Slot.key (t : Slot) (n : Nat) : Option (List Byte) :=
  match n with
  | 0 => t.k0
  | 1 => t.k1
  | _ => none

/-- The most dummy round-steps a block takes at a level (R159). -/
def dummyMax (level : Nat) : Nat :=
  match level with
  | 0 => 0
  | 1 => 2
  | 2 => 4
  | _ => 8

/-- A seat takes the masked fall-back path for a block of a slot (R162). -/
def State.maskedPath (s : State) (e k : Nat) : Bool :=
  decide ((s.slot e k).sca = 3) || (s.eight e).maskForce || s.chip.maskFallback

/-- `n` blocks are done by the seats (R158, R162, R178): dummy steps are drawn for each from fresh randomness, and do not count. -/
def State.seatWork (s : State) (e k n : Nat) : State :=
  let m := dummyMax (s.slot e k).dummyLevel.toNat + 1
  let steps := ((List.range n).map fun i => (Config.drbg 64 (s.freeCtr + i)).toNat % m).sum
  let path := s.maskedPath e k
  ((s.modSlot e k fun t => { t with seatOps := t.seatOps + n, dummySteps := t.dummySteps + steps, masked := path }).modEight e
    fun x => { x with blocks := x.blocks + BitVec.ofNat 64 n }).spend n

/-- ENC and DEC: `f` is the seat operation, the same cipher on either path (R162). -/
def seatBody (op : Nat) (f : List Byte → Word → Word) : Body := fun i s =>
  match s.abc op i with
  | .error t => .error t
  | .ok o => match i.c, o.a with
    | .cox e k, .mem bank a =>
      match Slot.key (o.s.slot e k) (spIdx i.x.opc - 16) with
      | none => .error .noKey
      | some key => match o.s.readAll i.c o.b i.vl with
        | .error t => .error t
        | .ok (l, s1) =>
          .ok ((s1.pendRes i.c bank a (l.map (f key))).seatWork e k i.vl, .seq)
    | _, _ => .error .operand

/-- GFMUL: `f` is the multiplication. -/
def fieldBody (op : Nat) (f : Word → Word → Word) : Body := fun i s =>
  match s.abc op i with
  | .error t => .error t
  | .ok o => match o.a with
    | .mem bank a => match o.s.readAll i.c o.b i.vl with
      | .error t => .error t
      | .ok (l, s1) => match s1.readAll i.c o.c i.vl with
        | .error t => .error t
        | .ok (m, s2) => .ok (s2.pendRes i.c bank a (List.zipWith f l m), .seq)
    | _ => .error .operand

/-- TCMP (R196). -/
def tcmpBody : Body := fun i s =>
  match s.abc 0x44 i with
  | .error t => .error t
  | .ok o => match o.s.readLoc i.c o.a 0 with
    | .error t => .error t
    | .ok (x, s1) => match s1.readLoc i.c o.b 0 with
      | .error t => .error t
      | .ok (y, s2) => match s2.readLoc i.c o.c 0 with
        | .error t => .error t
        | .ok (w, s3) =>
          let n := w.toNat % 32
          if n = 0 ∨ 16 < n then .error .operand
          else match i.c with
            | .umpire => .error .operand
            | .cox e k => .ok (s3.modSlot e k fun t =>
                { t with tcmpSeen := true, tcmpOk := t.tcmpOk && (wordBytes x).take n == (wordBytes y).take n }, .seq)

/-! ### Control flow (R197, R200, R201, R210) -/

/-- A compare and branch. -/
def branchBody (op : Nat) (taken : Word → Word → Bool) : Body := fun i s =>
  match s.two op i with
  | .error t => .error t
  | .ok (x, y, s1) => .ok (s1, if taken x y then .jump i.target else .seq)

/-- JMP. -/
def jmpBody : Body := fun i s => .ok (s, .jump i.target)

/-- CALL and CALLI: the return address goes to the stack in bank 0x000. -/
def State.callTo (s : State) (i : At) (a : BitVec 30) : Except Trap (State × Flow) :=
  let r := s.coreRegs i.c
  let sp := r.ptr 15 - 1
  if sp < r.sl then .error .stack
  else ((s.modRegs i.c fun r => r.setPtr 15 sp).memWrite i.c 0 sp.toNat allLanes (i.after.setWidth 128)).map fun s => (s, .jump a)

/-- CALL. -/
def callBody : Body := fun i s => s.callTo i i.target

/-- The syllables of a cox's program. -/
def State.codeLen (s : State) (c : Core) : Nat :=
  match c with
  | .cox e k => match ((s.slot e k).job.bind s.job).bind fun b => s.progs.get none b.prog with
    | some p => p.code.length
    | none => 0
  | .umpire => 262144

/-- RET: a cox's return address must lie in the running program. -/
def retBody : Body := fun i s =>
  let sp := (s.coreRegs i.c).ptr 15
  match s.memRead i.c 0 sp.toNat with
  | .error t => .error t
  | .ok (w, s1) =>
    let a : BitVec 30 := w.setWidth 30
    let bad := match i.c with
      | .cox _ _ => (a >>> 18).setWidth 12 != i.pbk || decide (s.codeLen i.c ≤ (a.setWidth 18 : BitVec 18).toNat)
      | .umpire => false
    if bad then .error .transfer else .ok (s1.modRegs i.c fun r => r.setPtr 15 (sp + 1), .jump a)

/-- The word that instruction fetch sees (R184). -/
def State.fetchWord (s : State) (pbk : BitVec 12) (w : Nat) : Word :=
  if pbk = 0 then
    match s.ump.stale.get none w with
    | some x => x
    | none => s.ump.sram.get 0 w
  else Config.bootRom w

/-- A syllable of a core's program. -/
def State.syllable (s : State) (c : Core) (pbk : BitVec 12) (a : Nat) : BitVec 36 :=
  match c with
  | .cox e k => match ((s.slot e k).job.bind s.job).bind fun b => s.progs.get none b.prog with
    | some p => p.code.getD a 0
    | none => 0
  | .umpire => ((s.fetchWord pbk (a / 3)) >>> (36 * (a % 3))).setWidth 36

/-- The instruction at an address: its opcode, operands and length (R186, R189). -/
def State.fetchIns (s : State) (c : Core) (pbk : BitVec 12) (a : Nat) : Ins :=
  let h := s.syllable c pbk a
  let target := match opInfo (headOp h) with
    | some r => r.target
    | none => false
  let n := Enc.len (headEnc h []) target
  ⟨a, headOp h, headEnc h ((List.range (n - 1)).map fun k => s.syllable c pbk ((a + 1 + k) % 262144)), n⟩

/-- LOOP (R200): with a zero count, execution goes on after the instruction at the target. -/
def loopBody : Body := fun i s =>
  match s.abc 0x5B i with
  | .error t => .error t
  | .ok o => match o.s.readLoc i.c o.a 0 with
    | .error t => .error t
    | .ok (w, s1) =>
      let r := s1.coreRegs i.c
      let d := r.ldepth.toNat
      let n : W32 := w.setWidth 32
      if d = 3 then .error .depth
      else if n = 0 then
        let t : BitVec 18 := i.target.setWidth 18
        let a := insAddr i.pbk (t + BitVec.ofNat 18 (s1.fetchIns i.c i.pbk t.toNat).len)
        match i.c with
        | .umpire => .ok (s1.modRegs i.c fun r => { r with pc := a.setWidth 18 }, .set)
        | .cox _ _ => .ok (s1, .jump a)
      else .ok (s1.modRegs i.c fun r =>
        { r with lc := r.lc.setIfInBounds d n, ls := r.ls.setIfInBounds d i.after, le := r.le.setIfInBounds d i.target
                 ldepth := BitVec.ofNat 2 (d + 1) }, .seq)

/-- The address that A gives (R210). -/
def State.indirect (s : State) (op : Nat) (i : At) : Except Trap (BitVec 30 × State) :=
  match s.abc op i with
  | .error t => .error t
  | .ok o => (o.s.readLoc i.c o.a 0).map fun x => (x.1.setWidth 30, x.2)

/-- JMPI. -/
def jmpiBody : Body := fun i s => (s.indirect 0x60 i).map fun x => (x.2, .jump x.1)

/-- CALLI. -/
def calliBody : Body := fun i s =>
  match s.indirect 0x61 i with
  | .error t => .error t
  | .ok (a, s1) => s1.callTo i a

/-- ERET (R212). -/
def eretBody : Body := fun _ s => .ok (s.onUmp fun u => { u with ie := u.pie }, .jump s.ump.epc)

/-- WFI (R210): no wait if an enabled interrupt is pending. -/
def wfiBody : Body := fun _ s => .ok (if s.irqReady then s else s.onUmp fun u => { u with waiting := true }, .seq)

/-! ### Ordered comparisons -/

/-- A whole word as a signed integer. -/
def sLess (x y : Word) : Bool := x.slt y
@[inherit_doc sLess]
def uLess (x y : Word) : Bool := x.ult y

/-- Bit B[6:0] of A (R197). -/
def bitOf (x y : Word) : Bool := x.getLsbD (y.toNat % 128)

/-! ### The instructions -/

/-- NOP. -/
def execNop (c : Core) (x : Enc) (s : State) : Out := .next (s.traern c 0x00 x nopBody)

/-- END. -/
def execEnd_ (c : Core) (x : Enc) (s : State) : Out := .next (s.traern c 0x01 x endBody)

/-- FENCE. -/
def execFence (c : Core) (x : Enc) (s : State) : Out := .next (s.traern c 0x02 x fenceBody)

/-- MOV. -/
def execMov (c : Core) (x : Enc) (s : State) : Out := .next (s.traern c 0x03 x movBody)

/-- FLD. -/
def execFld (c : Core) (x : Enc) (s : State) : Out := .next (s.traern c 0x04 x fldBody)

/-- FST. -/
def execFst (c : Core) (x : Enc) (s : State) : Out := .next (s.traern c 0x05 x fstBody)

/-- STM. -/
def execStm (c : Core) (x : Enc) (s : State) : Out := .next (s.traern c 0x06 x stmBody)

/-- MFSR. -/
def execMfsr (c : Core) (x : Enc) (s : State) : Out := .next (s.traern c 0x07 x mfsrBody)

/-- MTSR. -/
def execMtsr (c : Core) (x : Enc) (s : State) : Out := .next (s.traern c 0x08 x mtsrBody)

/-- The meaning of XOR. -/
def xorBody : Body := vecBody 0x10 (· ^^^ ·)

/-- XOR. -/
def execXor (c : Core) (x : Enc) (s : State) : Out := .next (s.traern c 0x10 x xorBody)

/-- The meaning of AND. -/
def andBody : Body := vecBody 0x11 (· &&& ·)

/-- AND. -/
def execAnd (c : Core) (x : Enc) (s : State) : Out := .next (s.traern c 0x11 x andBody)

/-- The meaning of OR. -/
def orBody : Body := vecBody 0x12 (· ||| ·)

/-- OR. -/
def execOr (c : Core) (x : Enc) (s : State) : Out := .next (s.traern c 0x12 x orBody)

/-- The meaning of ANDN. -/
def andnBody : Body := vecBody 0x13 fun x y => x &&& ~~~y

/-- ANDN. -/
def execAndn (c : Core) (x : Enc) (s : State) : Out := .next (s.traern c 0x13 x andnBody)

/-- XRED. -/
def execXred (c : Core) (x : Enc) (s : State) : Out := .next (s.traern c 0x14 x xredBody)

/-- The meaning of ADD.W. -/
def addWBody : Body := vecBody 0x20 (lanes2 32 (· + ·))

/-- ADD.W. -/
def execAddW (c : Core) (x : Enc) (s : State) : Out := .next (s.traern c 0x20 x addWBody)

/-- The meaning of ADD.D. -/
def addDBody : Body := vecBody 0x21 (lanes2 64 (· + ·))

/-- ADD.D. -/
def execAddD (c : Core) (x : Enc) (s : State) : Out := .next (s.traern c 0x21 x addDBody)

/-- The meaning of ADD.Q. -/
def addQBody : Body := vecBody 0x22 (lanes2 128 (· + ·))

/-- ADD.Q. -/
def execAddQ (c : Core) (x : Enc) (s : State) : Out := .next (s.traern c 0x22 x addQBody)

/-- The meaning of SUB.W. -/
def subWBody : Body := vecBody 0x24 (lanes2 32 (· - ·))

/-- SUB.W. -/
def execSubW (c : Core) (x : Enc) (s : State) : Out := .next (s.traern c 0x24 x subWBody)

/-- The meaning of SUB.D. -/
def subDBody : Body := vecBody 0x25 (lanes2 64 (· - ·))

/-- SUB.D. -/
def execSubD (c : Core) (x : Enc) (s : State) : Out := .next (s.traern c 0x25 x subDBody)

/-- The meaning of SUB.Q. -/
def subQBody : Body := vecBody 0x26 (lanes2 128 (· - ·))

/-- SUB.Q. -/
def execSubQ (c : Core) (x : Enc) (s : State) : Out := .next (s.traern c 0x26 x subQBody)

/-- The meaning of SHL.W. -/
def shlWBody : Body := scalarBody 0x28 false fun _ b c => laneShl 32 b c

/-- SHL.W. -/
def execShlW (c : Core) (x : Enc) (s : State) : Out := .next (s.traern c 0x28 x shlWBody)

/-- The meaning of SHL.D. -/
def shlDBody : Body := scalarBody 0x29 false fun _ b c => laneShl 64 b c

/-- SHL.D. -/
def execShlD (c : Core) (x : Enc) (s : State) : Out := .next (s.traern c 0x29 x shlDBody)

/-- The meaning of SHL.Q. -/
def shlQBody : Body := scalarBody 0x2A false fun _ b c => laneShl 128 b c

/-- SHL.Q. -/
def execShlQ (c : Core) (x : Enc) (s : State) : Out := .next (s.traern c 0x2A x shlQBody)

/-- The meaning of SHR.W. -/
def shrWBody : Body := scalarBody 0x2C false fun _ b c => laneShr 32 b c

/-- SHR.W. -/
def execShrW (c : Core) (x : Enc) (s : State) : Out := .next (s.traern c 0x2C x shrWBody)

/-- The meaning of SHR.D. -/
def shrDBody : Body := scalarBody 0x2D false fun _ b c => laneShr 64 b c

/-- SHR.D. -/
def execShrD (c : Core) (x : Enc) (s : State) : Out := .next (s.traern c 0x2D x shrDBody)

/-- The meaning of SHR.Q. -/
def shrQBody : Body := scalarBody 0x2E false fun _ b c => laneShr 128 b c

/-- SHR.Q. -/
def execShrQ (c : Core) (x : Enc) (s : State) : Out := .next (s.traern c 0x2E x shrQBody)

/-- The meaning of BFI. -/
def bfiBody : Body := scalarBody 0x30 true bfiOf

/-- BFI. -/
def execBfi (c : Core) (x : Enc) (s : State) : Out := .next (s.traern c 0x30 x bfiBody)

/-- The meaning of BFX. -/
def bfxBody : Body := scalarBody 0x31 false fun _ b c => bfxOf b c

/-- BFX. -/
def execBfx (c : Core) (x : Enc) (s : State) : Out := .next (s.traern c 0x31 x bfxBody)

/-- The meaning of CLZ. -/
def clzBody : Body := unaryBody 0x32 clzOf

/-- CLZ. -/
def execClz (c : Core) (x : Enc) (s : State) : Out := .next (s.traern c 0x32 x clzBody)

/-- The meaning of BPERM. -/
def bpermBody : Body := scalarBody 0x33 false fun _ b c => bpermOf b c

/-- BPERM. -/
def execBperm (c : Core) (x : Enc) (s : State) : Out := .next (s.traern c 0x33 x bpermBody)

/-- ENC or DEC issues: a seat never starts a block without fresh randomness, so in a cox it waits while no DRBG instance gives any
(R158, R169, R459). -/
def State.seatIssue (s : State) (c : Core) (op : Nat) (x : Enc) (f : Body) : State :=
  match c with
  | .cox _ _ => if s.rngDry then s else s.traern c op x f
  | .umpire => s.traern c op x f

/-- The meaning of ENC. -/
def encBody : Body := seatBody 0x40 aesEncW

/-- ENC. -/
def execEnc (c : Core) (x : Enc) (s : State) : Out := .next (s.seatIssue c 0x40 x encBody)

/-- The meaning of DEC. -/
def decBody : Body := seatBody 0x41 aesDecW

/-- DEC. -/
def execDec (c : Core) (x : Enc) (s : State) : Out := .next (s.seatIssue c 0x41 x decBody)

/-- The meaning of GFMUL.G. -/
def gfmulGBody : Body := fieldBody 0x42 Sys2Proof.Machine.gfmulG

/-- GFMUL.G. -/
def execGfmulG (c : Core) (x : Enc) (s : State) : Out := .next (s.traern c 0x42 x gfmulGBody)

/-- The meaning of GFMUL.X. -/
def gfmulXBody : Body := fieldBody 0x43 Sys2Proof.Machine.gfmulX

/-- GFMUL.X. -/
def execGfmulX (c : Core) (x : Enc) (s : State) : Out := .next (s.traern c 0x43 x gfmulXBody)

/-- TCMP. -/
def execTcmp (c : Core) (x : Enc) (s : State) : Out := .next (s.traern c 0x44 x tcmpBody)

/-- The meaning of BEQ. -/
def beqBody : Body := branchBody 0x50 fun x y => x == y

/-- BEQ. -/
def execBeq (c : Core) (x : Enc) (s : State) : Out := .next (s.traern c 0x50 x beqBody)

/-- The meaning of BNE. -/
def bneBody : Body := branchBody 0x51 fun x y => x != y

/-- BNE. -/
def execBne (c : Core) (x : Enc) (s : State) : Out := .next (s.traern c 0x51 x bneBody)

/-- The meaning of BLT. -/
def bltBody : Body := branchBody 0x52 sLess

/-- BLT. -/
def execBlt (c : Core) (x : Enc) (s : State) : Out := .next (s.traern c 0x52 x bltBody)

/-- The meaning of BGE. -/
def bgeBody : Body := branchBody 0x53 fun x y => !sLess x y

/-- BGE. -/
def execBge (c : Core) (x : Enc) (s : State) : Out := .next (s.traern c 0x53 x bgeBody)

/-- The meaning of BLTU. -/
def bltuBody : Body := branchBody 0x54 uLess

/-- BLTU. -/
def execBltu (c : Core) (x : Enc) (s : State) : Out := .next (s.traern c 0x54 x bltuBody)

/-- The meaning of BGEU. -/
def bgeuBody : Body := branchBody 0x55 fun x y => !uLess x y

/-- BGEU. -/
def execBgeu (c : Core) (x : Enc) (s : State) : Out := .next (s.traern c 0x55 x bgeuBody)

/-- The meaning of BBS. -/
def bbsBody : Body := branchBody 0x56 bitOf

/-- BBS. -/
def execBbs (c : Core) (x : Enc) (s : State) : Out := .next (s.traern c 0x56 x bbsBody)

/-- The meaning of BBC. -/
def bbcBody : Body := branchBody 0x57 fun x y => !bitOf x y

/-- BBC. -/
def execBbc (c : Core) (x : Enc) (s : State) : Out := .next (s.traern c 0x57 x bbcBody)

/-- JMP. -/
def execJmp (c : Core) (x : Enc) (s : State) : Out := .next (s.traern c 0x58 x jmpBody)

/-- CALL. -/
def execCall (c : Core) (x : Enc) (s : State) : Out := .next (s.traern c 0x59 x callBody)

/-- RET. -/
def execRet (c : Core) (x : Enc) (s : State) : Out := .next (s.traern c 0x5A x retBody)

/-- LOOP. -/
def execLoop (c : Core) (x : Enc) (s : State) : Out := .next (s.traern c 0x5B x loopBody)

/-- JMPI. -/
def execJmpi (c : Core) (x : Enc) (s : State) : Out := .next (s.traern c 0x60 x jmpiBody)

/-- CALLI. -/
def execCalli (c : Core) (x : Enc) (s : State) : Out := .next (s.traern c 0x61 x calliBody)

/-- ERET. -/
def execEret (c : Core) (x : Enc) (s : State) : Out := .next (s.traern c 0x62 x eretBody)

/-- WFI. -/
def execWfi (c : Core) (x : Enc) (s : State) : Out := .next (s.traern c 0x63 x wfiBody)

/-- The meanings of the opcodes below 0x40. -/
def bodiesLow : List (Nat × Body) :=
  [(0x00, nopBody), (0x01, endBody), (0x02, fenceBody), (0x03, movBody), (0x04, fldBody), (0x05, fstBody), (0x06, stmBody),
   (0x07, mfsrBody), (0x08, mtsrBody), (0x10, xorBody), (0x11, andBody), (0x12, orBody), (0x13, andnBody), (0x14, xredBody),
   (0x20, addWBody), (0x21, addDBody), (0x22, addQBody), (0x24, subWBody), (0x25, subDBody), (0x26, subQBody),
   (0x28, shlWBody), (0x29, shlDBody), (0x2A, shlQBody), (0x2C, shrWBody), (0x2D, shrDBody), (0x2E, shrQBody),
   (0x30, bfiBody), (0x31, bfxBody), (0x32, clzBody), (0x33, bpermBody)]

/-- The meanings of the opcodes from 0x40 on. -/
def bodiesHigh : List (Nat × Body) :=
  [(0x40, encBody), (0x41, decBody), (0x42, gfmulGBody), (0x43, gfmulXBody), (0x44, tcmpBody), (0x50, beqBody),
   (0x51, bneBody), (0x52, bltBody), (0x53, bgeBody), (0x54, bltuBody), (0x55, bgeuBody), (0x56, bbsBody), (0x57, bbcBody),
   (0x58, jmpBody), (0x59, callBody), (0x5A, retBody), (0x5B, loopBody), (0x60, jmpiBody), (0x61, calliBody),
   (0x62, eretBody), (0x63, wfiBody)]

/-- The meaning of an opcode that a core fetches for itself (R395: a single step). -/
def bodyOf (op : Nat) : Option Body := ((bodiesLow ++ bodiesHigh).find? fun r => r.1 == op).map (·.2)

/-! ### Events of a core that are no instruction -/

/-- FLD_LAND (R203): the FLDs that are due are written. -/
def execFldLand (c : Core) (s : State) : Out :=
  let live := match c with
    | .umpire => s.umpUp
    | c => s.coreLive c
  if live = false then .next s
  else
    match s.landDue c with
    | .ok s1 => .next s1
    | .error t => .next (s.trap c (insAddr (s.pbkOf c) (s.coreRegs c).pc) t)

/-- INSTRUCTION_BUDGET_EXCEEDED (R206, R216): a stroke that has executed its 1,048,576 instructions goes on to another. -/
def execInstructionBudgetExceeded (e k : Nat) (s : State) : Out :=
  let c := Core.cox e k
  if s.coreLive c = true ∧ 1048576 ≤ (s.slot e k).instrs then .next (s.trap c (insAddr (s.pbkOf c) (s.coreRegs c).pc) .budget) else .next s

/-- UMPIRE_INTERRUPT (R212): between instructions, with IE set. -/
def execUmpireInterrupt (s : State) : Out :=
  if s.umpUp = true ∧ s.ump.ie = true ∧ s.irqReady = true then
    .next ((s.umpEntry (insAddr s.ump.regs.pbk s.ump.regs.pc) 0x10 none).breakCheck .umpire)
  else .next s

/-! ### Reserved opcodes (R214, log entry 3) -/

/-- Free values for pointers. -/
def freePtrs (n : Nat) : Vector (BitVec 18) 16 := Vector.ofFn fun k => Config.free 18 (n + k.val)
/-- Free values for loop addresses. -/
def freeLoops (n : Nat) : Vector (BitVec 30) 3 := Vector.ofFn fun k => Config.free 30 (n + k.val)
/-- Free values for loop counts. -/
def freeCounts (n : Nat) : Vector W32 3 := Vector.ofFn fun k => Config.free 32 (n + k.val)

/-- A core's registers after an undefined effect: every one free. -/
def freeRegs (n : Nat) (r : Regs) : Regs :=
  { r with p := freePtrs n, pc := Config.free 18 (n + 16), dbk := Config.free 12 (n + 17), sl := Config.free 18 (n + 18)
           ldepth := Config.free 2 (n + 19), ls := freeLoops (n + 20), le := freeLoops (n + 23), lc := freeCounts (n + 26) }

/-- A data window of free values. -/
def freeWin (n : Nat) : SMap Word := (List.range 1024).foldl (fun m k => m.set 0 k (Config.free 128 (n + k))) []

/-- The positions of the streams after an undefined effect: somewhere further on, with free bytes where output was passed. -/
def Slot.freeStreams (t : Slot) (n : Nat) : Slot :=
  let out := (Config.free 64 n).toNat % (t.outLeft + 1)
  { t with inLeft := (Config.free 64 (n + 1)).toNat % (t.inLeft + 1), aadLeft := (Config.free 64 (n + 2)).toNat % (t.aadLeft + 1)
           outLeft := t.outLeft - out, outBuf := t.outBuf ++ (List.range out).map fun k => Config.free 8 (n + 3 + k) }

/-- The words that the operands of an instruction address. -/
def State.addressed (s : State) (x : Enc) : List (Nat × Nat) :=
  let one := fun (sp : BitVec 8) (f : BitVec 18) =>
    if spDefined sp f then
      match s.resolve1 .umpire sp f 1 with
      | .ok (.mem b a, _) => (List.range (x.vlm1.toNat + 1)).map fun k => (b, (a + k) % 262144)
      | _ => []
    else []
  one x.opa (Enc.fa x) ++ one x.opb (Enc.fb x) ++ one x.opc (Enc.fc x)

/-- A free value in each word of Umpire memory that the operands address. -/
def State.havocWords (s : State) (l : List (Nat × Nat)) : State :=
  l.foldl (fun s w => match s.memWrite .umpire w.1 w.2 allLanes (Config.free 128 s.freeCtr) with
    | .ok t => t.spend 1
    | .error _ => s) s

/-- The privileged registers after an undefined effect. -/
def State.havocPriv (s : State) : State :=
  let n := s.freeCtr
  (s.onUmp fun u =>
    { u with evb := Config.free 30 n, epc := Config.free 30 (n + 1), cause := Config.free 8 (n + 2), eaddr := Config.free 30 (n + 3)
             ien := Config.free 32 (n + 4), ie := (Config.free 1 (n + 5)).getLsbD 0, pie := (Config.free 1 (n + 6)).getLsbD 0
             scratch := Config.free 128 (n + 7) }).spend 8

/-- RESERVED_OPCODE: the effect is undefined and confined; it may or may not raise a fault. -/
def execReservedOpcode (c : Core) (opcode : BitVec 8) (x : Enc) (s : State) : Out :=
  if s.coreLive c = false ∨ (opInfo opcode.toNat).isSome = true then .next s
  else
    let n := s.freeCtr + 3
    let fault := (Config.free 1 s.freeCtr).getLsbD 0
    let s0 := s.spend 32
    match c with
    | .cox e k =>
      if fault then .next (s0.alarm .eight e (s.slot e k).job.toList 0x8E ((Config.free 5 (n - 1)).toNat % 9 + 1) true)
      else
        let big := 32 + 1024 + 3 + (s.slot e k).outLeft
        .next ((s.spend (big + 10)).modSlot e k fun t =>
          { (t.freeStreams (n + 29 + 1024)) with
            regs := freeRegs n t.regs, win := freeWin (n + 29), cbgCfg := Config.free 2 (n + big), cbg := Config.free 128 (n + big + 1)
            ivLen := Config.free 8 (n + big + 2), tagLen := Config.free 8 (n + big + 3), param := Config.free 32 (n + big + 4)
            msgFlags := Config.free 4 (n + big + 5), done := Config.free 64 (n + big + 6) })
    | .umpire =>
      if fault then .next (s0.umpEntry (insAddr s.ump.regs.pbk s.ump.regs.pc) (Config.free 8 (n - 1)) none)
      else .next (((s0.havocWords (s.addressed x)).havocPriv).modRegs c fun r =>
        { freeRegs n r with pbk := if (Config.free 1 (n - 2)).getLsbD 0 then 0 else 0x010 })

end Sys2Proof.Machine
end

