-- ==== Sys2Proof/Machine/Jtag.lean ====
section
/-!
DEFINITION. The JTAG port (R393 to R395): the rights each instruction needs, what it reads and writes, the halted core, scan.
-/

namespace Sys2Proof.Machine

/-- Bytes shifted out on TDO. -/
def State.shiftOut (s : State) (data : List Byte) : State := s.emit (.jtag data)

/-- An instruction that the state and the rights do not permit selects the bypass register and is counted (R395). -/
def State.jtagDenied (s : State) : State :=
  (s.onDbg fun d => { d with ir := 0xFF, denyCnt := BitVec.ofNat 32 (satAdd d.denyCnt.toNat 1 0xFFFFFFFF) }).setBit .dbg 8

/-- An instruction with a code that needs a right; the TAP has power on main power only. -/
def State.tap (s : State) (code : Nat) (right : Option Nat) (f : State → State) : State :=
  if s.aod.onCell then s
  else if (match right with
    | some n => s.dbg.rights.getLsbD n
    | none => true) then f (s.onDbg fun d => { d with ir := BitVec.ofNat 8 code })
  else s.jtagDenied

/-- The captured boundary, one free bit a pin cell, is shifted out while a new one is shifted in (R395, IEEE 1149.1). -/
def State.shiftBoundary (s : State) (bits : List Byte) : State :=
  let n := s.freeCtr
  ((s.spend bits.length).shiftOut ((List.range bits.length).map fun k => Config.free 8 (n + k))).onDbg fun d =>
    { d with boundary := bits }

/-- EXTEST (R395): the boundary drives the pins. -/
def execExtest (bits : List Byte) (s : State) : Out := .next (s.tap 0x00 (some 3) fun s => s.shiftBoundary bits)

/-- IDCODE (R395). -/
def idcodeOf (v : Variant) : Nat :=
  match v with
  | .zk7160 => 0x17160B3D
  | .zk7140 => 0x17140B3D
  | .zk7120 => 0x17120B3D

/-- IDCODE: always available. -/
def execIdcode (s : State) : Out := .next (s.tap 0x01 none fun s => s.shiftOut (leBytes 4 (idcodeOf s.variant)))

/-- SAMPLE/PRELOAD (R395): the pins keep their functions. -/
def execSamplePreload (bits : List Byte) (s : State) : Out := .next (s.tap 0x02 (some 3) fun s => s.shiftBoundary bits)

/-- A word of a page as JTAG reads it, in four bytes. -/
def State.jtagWord (s : State) (p : PageId) (off : Nat) : List Byte := leBytes 4 (s.pageWord p off).toNat

/-- DBG_STATUS (R393): the LCS, DBG and chip pages; zeros for every other. -/
def execDbgStatus (p : PageId) (off : Nat) (s : State) : Out :=
  .next (s.tap 0x10 (some 0) fun s =>
    s.shiftOut (if ([PageId.lcs, PageId.dbg, PageId.chip, PageId.chipInt] : List PageId).contains p then s.jtagWord p off
      else leBytes 4 0))

/-- DBG_TRACE (R393): an entry of the Umpire event log; beyond it the trace stream, whose contents are not given (log entry 3). -/
def execDbgTrace (index : Nat) (s : State) : Out :=
  .next (s.tap 0x11 (some 1) fun s =>
    match s.ump.events[index]? with
    | some e => s.shiftOut e.bytes
    | none => (s.spend 1).shiftOut (leBytes 16 (Config.free 128 s.freeCtr).toNat))

/-- The 64-bit counters of the accelerator pages. -/
def counterAt (p : PageId) (off : Nat) : Bool :=
  let o := off / 8 * 8
  match p with
  | .msh => o == 0x088 || o == 0x090 || o == 0x098
  | .klg => o == 0x0B0
  | .meas n => n == 1 && decide (0x200 ≤ o) && decide (o < 0x300)
  | .egt _ => o == 0x098
  | .qad _ => o == 0x088
  | .pke _ => ([0x08, 0x10] : List Nat).contains (o % 0x100) && decide (0x100 ≤ o)
  | .heat => decide (0x100 ≤ o) && decide (o < 0x200)
  | _ => false

/-- DBG_PERF (R393): the 64-bit counters; zeros for everything else. -/
def execDbgPerf (p : PageId) (off : Nat) (s : State) : Out :=
  .next (s.tap 0x12 (some 2) fun s => s.shiftOut (if counterAt p off then s.jtagWord p off else leBytes 4 0))

/-- The halted core runs one instruction (R393). The watchdog stays frozen. -/
def State.stepCore (s : State) : State :=
  let s0 := s.onDbg fun d => { d with halted := false }
  let r := s0.ump.regs
  if s0.coreLive .umpire = false then s
  else
    let s1 :=
      if fetchBad .umpire r.pbk r.pc then s0.trap .umpire (insAddr r.pbk r.pc) .transfer
      else
        let n := s0.fetchIns .umpire r.pbk r.pc.toNat
        match bodyOf n.op with
        | some f => s0.traern .umpire n.op n.x f
        | none => leaves s0 (execReservedOpcode .umpire (BitVec.ofNat 8 n.op) n.x s0)
    if s1.ump.running then s1.onDbg fun d => { d with halted := true } else s1

/-- The core runs on: the watchdog's freeze ends, and a class A response that came during the halt is followed by its renewal (R416,
R432). -/
def State.resumeCore (s : State) : State :=
  let s1 := (s.onDbg fun d => { d with halted := false }).onWdg fun w => { w with frozen := false }
  if s1.umpUp = true ∧ s1.scrapped = false ∧ s1.aod.serviceRoot.isNone = true then s1.renewKeys else s1

/-- What DBG_CORE does (R393, R432): registers are reached while the core is halted. -/
def State.coreOp (s : State) (op : CoreOp) : State :=
  match op with
  | .halt => if s.ump.running then (s.onDbg fun d => { d with halted := true }).onWdg fun w => { w with frozen := true } else s
  | .resume => s.resumeCore
  | .step => if s.dbg.halted then s.stepCore else s
  | .readPc => if s.dbg.halted then s.shiftOut (leBytes 4 (insAddr s.ump.regs.pbk s.ump.regs.pc).toNat) else s
  | .readP n => if s.dbg.halted then s.shiftOut (leBytes 4 (s.ump.regs.ptr n).toNat) else s
  | .writeP n v => if s.dbg.halted then s.modRegs .umpire fun r => r.setPtr n v else s
  | .setBreak a => s.onDbg fun d => { d with brk := if d.brk.contains a then d.brk else d.brk ++ [a] }
  | .clearBreak a => s.onDbg fun d => { d with brk := d.brk.filter (· != a) }

/-- DBG_CORE. -/
def execDbgCore (op : CoreOp) (s : State) : Out := .next (s.tap 0x13 (some 4) fun s => s.coreOp op)

/-- Umpire SRAM and the root-of-trust pages (R393); anything else reads as zero, and a write there has no effect. -/
def State.dbgMemory (s : State) (bank a : Nat) (wr : Option Word) : State :=
  if bank = 0x000 ∨ bank = 0x020 then
    match wr with
    | none => match s.bankRead bank a with
      | .ok (w, s1) => s1.shiftOut (leBytes 16 w.toNat)
      | .error _ => s.shiftOut (leBytes 16 0)
    | some v => match bankAt bank a with
      | some b => s.bankWrite b a allLanes v
      | none => s
  else match wr with
    | none => s.shiftOut (leBytes 16 0)
    | some _ => s

/-- DBG_MEM. -/
def execDbgMem (bank a : Nat) (wr : Option Word) (s : State) : Out :=
  .next (s.tap 0x14 (some 5) fun s => s.dbgMemory bank a wr)

/-- Accelerator pages (R393): a debugger's write acts as one of the Umpire. -/
def State.dbgPage (s : State) (p : PageId) (off : Nat) (wr : Option W32) : State :=
  match wr with
  | none =>
    if PageId.accel p then (s.pageRead p (off / 16 * 16)).2.shiftOut (s.jtagWord p off) else s.shiftOut (leBytes 4 0)
  | some v => if PageId.accel p then s.pageWrite .umpire p off 4 (v.setWidth 64) else s

/-- DBG_ACC. -/
def execDbgAcc (p : PageId) (off : Nat) (wr : Option W32) (s : State) : Out :=
  .next (s.tap 0x15 (some 6) fun s => s.dbgPage p off wr)

/-- Scan begins (R395): the service root goes, both domains are reset and stay so until power-on. -/
def State.enterScan (s : State) (n : BitVec 4) : State :=
  let s1 := s.onAod fun a => { a with serviceRoot := none }
  (((s1.closeForReset).rootReset false false).accWipe false).onDbg fun d =>
    { d with scan := true, ir := BitVec.ofNat 8 (0x20 + n.toNat) }

/-- SCAN_0 to SCAN_15: in MAKER and RETURNED only. -/
def execScan (n : BitVec 4) (s : State) : Out :=
  if s.aod.onCell then .next s
  else if s.lcs.state = 1 ∨ s.lcs.state = 4 then .next (s.enterScan n)
  else .next s.jtagDenied

/-- BYPASS: code 0xFF; any other code that names no instruction is denied. -/
def execBypass (code : BitVec 8) (s : State) : Out :=
  if s.aod.onCell then .next s
  else if code = 0xFF then .next (s.onDbg fun d => { d with ir := 0xFF })
  else .next s.jtagDenied

/-- TAP_RESET: TRST_N resets only the TAP; the IDCODE instruction is selected (IEEE 1149.1, log entry 6). -/
def execTapReset (s : State) : Out := if s.aod.onCell then .next s else .next (s.onDbg fun d => { d with ir := 0x01 })

end Sys2Proof.Machine
end

