-- ==== Sys2Proof/Machine/Pins.lean ====
section
/-!
DEFINITION. What the block's output pins show, read from the state (R83, R307, R313, R324, R370, R403, R420, R435, R464, R471). What
leaves as a pulse or a message stands in State.out.
-/

namespace Sys2Proof.Machine

/-- What the device does to a pin (R471): drive it, drive a wave on it, or neither level. -/
inductive Level where
  | hiZ
  | low
  | high
  /-- The 1 kHz square wave of normal running (R420). -/
  | khz
  /-- The 4 Hz of ROM recovery (R307). -/
  | fourHz
  /-- The last level, held; which one it is depends on when the wave stopped (R420). -/
  | held
  deriving DecidableEq, Repr

/-- A pin of a bank with power; before power-good the device drives no output (R468). -/
def State.pin (s : State) (l : Level) : Level := if s.aod.onCell then .hiZ else l

/-- UMP_ALIVE (R307, R420, R435). -/
def State.pinUmpAlive (s : State) : Level :=
  s.pin (if s.chip.safeHold then .low
    else if s.ump.romRecovery then .fourHz
    else if s.ump.running && s.ump.aliveEn && s.ump.kickUntil.isSome then .khz
    else .held)

/-- SAFE_N, open-drain (R435). -/
def State.pinSafeN (s : State) : Level := s.pin (if s.chip.safeHold then .low else .hiZ)

/-- TAMPER_N, open-drain (R403, R412). -/
def State.pinTamperN (s : State) : Level := s.pin (if s.tmp.tamperLow then .low else .hiZ)

/-- WAKE_N, open-drain (R83): in L2, with an interrupt source and PME enabled. -/
def State.pinWakeN (s : State) : Level :=
  s.pin (if s.pcie.inL2 && s.pcie.wakeEn && s.pcie.pmeEn && s.chip.intSrc != 0 then .low else .hiZ)

/-- A driven level. -/
def levelOf (b : Bool) : Level := if b then .high else .low

/-- PRST_OUT[i] (R302, R307): low until its group is released. -/
def State.pinPrst (s : State) (i : Nat) : Level := s.pin (levelOf (s.psq.prst.getLsbD i && !s.ump.romRecovery))

/-- PWR_EN[i] (R307, R313). -/
def State.pinPwrEn (s : State) (i : Nat) : Level := s.pin (levelOf (s.psq.pwr.getLsbD i && !s.ump.romRecovery))

/-- The outputs of an upstream flash port answer its master: the port is enabled (R324). -/
def State.upstreamDriven (s : State) (port : Bool) : Bool := !s.aod.onCell && (if port then s.fgt.u1 else s.fgt.u0).en

/-- CC_PWR_EN and CC_VSEL of the card slot (R370). -/
def State.pinCcPwrEn (s : State) : Level := s.pin (levelOf s.cci.pwr)
/-- CC_VSEL. -/
def State.pinCcVsel (s : State) : Level := s.pin (levelOf s.cci.vsel)

/-- Configuration requests are answered by Request Retry Status (R25, R307). -/
def State.configRetry (s : State) : Bool := s.pcie.crs || s.ump.romRecovery

/-- The device's own address on the management bus (R475). -/
def State.i3cAddress (s : State) : BitVec 7 := if s.ump.i3cDynamic then s.ump.i3cAddr else 0x2E

end Sys2Proof.Machine
end

