-- ==== Sys2Proof/Machine/Dispatch.lean ====
section
/-! DEFINITION. The dispatch: one arm for each command of the table, each a direct call of that command's meaning. -/

namespace Sys2Proof.Machine

def exec (i : Instr) (s : State) : Host.Outcome State Fault Refusal :=
  match i with
  | .powerGood perstLow crystal d0 d1 stimFail => Sys2Proof.Machine.execPowerGood perstLow crystal d0 d1 stimFail s
  | .mainPowerLoss => Sys2Proof.Machine.execMainPowerLoss s
  | .perstAssert => Sys2Proof.Machine.execPerstAssert s
  | .perstRelease speed width flit => Sys2Proof.Machine.execPerstRelease speed width flit s
  | .linkDown => Sys2Proof.Machine.execLinkDown s
  | .accResetComplete readBackOk => Sys2Proof.Machine.execAccResetComplete readBackOk s
  | .pfFlr => Sys2Proof.Machine.execPfFlr s
  | .vfFlr vf => Sys2Proof.Machine.execVfFlr vf s
  | .numvfsWrite v => Sys2Proof.Machine.execNumvfsWrite v s
  | .vfEnableWrite on => Sys2Proof.Machine.execVfEnableWrite on s
  | .guardedConfigWrite vf => Sys2Proof.Machine.execGuardedConfigWrite vf s
  | .vectorUnmask via vec => Sys2Proof.Machine.execVectorUnmask via vec s
  | .doeDiscovery index => Sys2Proof.Machine.execDoeDiscovery index s
  | .doeAbort => Sys2Proof.Machine.execDoeAbort s
  | .ideKm m => Sys2Proof.Machine.execIdeKm m s
  | .ideCheckFailed stream => Sys2Proof.Machine.execIdeCheckFailed stream s
  | .atsInvalidation tag space lo hi => Sys2Proof.Machine.execAtsInvalidation tag space lo hi s
  | .atsInvalidationComplete tag => Sys2Proof.Machine.execAtsInvalidationComplete tag s
  | .readCompletion f st => Sys2Proof.Machine.execReadCompletion f st s
  | .completionTimeout f => Sys2Proof.Machine.execCompletionTimeout f s
  | .unsupportedRequest fn => Sys2Proof.Machine.execUnsupportedRequest fn s
  | .malformedTlp kind => Sys2Proof.Machine.execMalformedTlp kind s
  | .linkRetrain speed width flit => Sys2Proof.Machine.execLinkRetrain speed width flit s
  | .registerWrite who a width v => Sys2Proof.Machine.execRegisterWrite who a width v s
  | .errRecClr who p => Sys2Proof.Machine.execErrRecClr who p s
  | .pgStatusClear who p mask hwSet => Sys2Proof.Machine.execPgStatusClear who p mask hwSet s
  | .pgIntEnWrite who p v => Sys2Proof.Machine.execPgIntEnWrite who p v s
  | .pgLockWrite who p v => Sys2Proof.Machine.execPgLockWrite who p v s
  | .mirrorRefresh p => Sys2Proof.Machine.execMirrorRefresh p s
  | .admEnable via => Sys2Proof.Machine.execAdmEnable via s
  | .admDisable via => Sys2Proof.Machine.execAdmDisable via s
  | .adminDoorbell via v width => Sys2Proof.Machine.execAdminDoorbell via v width s
  | .createChannel fn dw => Sys2Proof.Machine.execCreateChannel fn dw s
  | .destroyChannel fn dw => Sys2Proof.Machine.execDestroyChannel fn dw s
  | .destroyChannelComplete fn ch => Sys2Proof.Machine.execDestroyChannelComplete fn ch s
  | .modifyChannel fn dw => Sys2Proof.Machine.execModifyChannel fn dw s
  | .queryChannel fn dw => Sys2Proof.Machine.execQueryChannel fn dw s
  | .setSpillArea fn dw => Sys2Proof.Machine.execSetSpillArea fn dw s
  | .createDomain fn dw => Sys2Proof.Machine.execCreateDomain fn dw s
  | .destroyDomain fn dw => Sys2Proof.Machine.execDestroyDomain fn dw s
  | .assignFunction fn dw => Sys2Proof.Machine.execAssignFunction fn dw s
  | .setDomainWeight fn dw => Sys2Proof.Machine.execSetDomainWeight fn dw s
  | .adminReservedOpcode fn dw => Sys2Proof.Machine.execAdminReservedOpcode fn dw s
  | .doorbellWrite via idx v width => Sys2Proof.Machine.execDoorbellWrite via idx v width s
  | .modTimeExpiry fn ch => Sys2Proof.Machine.execModTimeExpiry fn ch s
  | .descriptorFetch fn ch descs => Sys2Proof.Machine.execDescriptorFetch fn ch descs s
  | .requestAdmit req sgl => Sys2Proof.Machine.execRequestAdmit req sgl s
  | .sym req ivt => Sys2Proof.Machine.execSym req ivt s
  | .digest req => Sys2Proof.Machine.execDigest req s
  | .extend req => Sys2Proof.Machine.execExtend req s
  | .compare req => Sys2Proof.Machine.execCompare req s
  | .keyImport req data ns => Sys2Proof.Machine.execKeyImport req data ns s
  | .keyDerive req data => Sys2Proof.Machine.execKeyDerive req data s
  | .keyWrite req data => Sys2Proof.Machine.execKeyWrite req data s
  | .keyDestroy req => Sys2Proof.Machine.execKeyDestroy req s
  | .keyQuery req => Sys2Proof.Machine.execKeyQuery req s
  | .ctxSave req => Sys2Proof.Machine.execCtxSave req s
  | .ctxRestore req data => Sys2Proof.Machine.execCtxRestore req data s
  | .ctxDiscard req => Sys2Proof.Machine.execCtxDiscard req s
  | .fenceRequest req => Sys2Proof.Machine.execFenceRequest req s
  | .nopRequest req => Sys2Proof.Machine.execNopRequest req s
  | .reservedType req => Sys2Proof.Machine.execReservedType req s
  | .load req x => Sys2Proof.Machine.execLoad req x s
  | .loadKey req x => Sys2Proof.Machine.execLoadKey req x s
  | .read req x => Sys2Proof.Machine.execRead req x s
  | .clear req x => Sys2Proof.Machine.execClear req x s
  | .modAdd req x => Sys2Proof.Machine.execModAdd req x s
  | .modSub req x => Sys2Proof.Machine.execModSub req x s
  | .modMul req x => Sys2Proof.Machine.execModMul req x s
  | .modInv req x => Sys2Proof.Machine.execModInv req x s
  | .modExp req x => Sys2Proof.Machine.execModExp req x s
  | .pubkey req x => Sys2Proof.Machine.execPubkey req x s
  | .ecdsaSign req x => Sys2Proof.Machine.execEcdsaSign req x s
  | .ecdsaVerify req x => Sys2Proof.Machine.execEcdsaVerify req x s
  | .ecdh req x => Sys2Proof.Machine.execEcdh req x s
  | .eddsaSign req x => Sys2Proof.Machine.execEddsaSign req x s
  | .eddsaVerify req x => Sys2Proof.Machine.execEddsaVerify req x s
  | .xdh req x => Sys2Proof.Machine.execXdh req x s
  | .rsaPriv req x => Sys2Proof.Machine.execRsaPriv req x s
  | .rsaPub req x => Sys2Proof.Machine.execRsaPub req x s
  | .mldsaSign req x => Sys2Proof.Machine.execMldsaSign req x s
  | .mldsaSignMu req x => Sys2Proof.Machine.execMldsaSignMu req x s
  | .mldsaVerify req x => Sys2Proof.Machine.execMldsaVerify req x s
  | .mlkemEncaps req x => Sys2Proof.Machine.execMlkemEncaps req x s
  | .mlkemDecaps req x => Sys2Proof.Machine.execMlkemDecaps req x s
  | .strokeStart job data aad => Sys2Proof.Machine.execStrokeStart job data aad s
  | .strokeEnd u ref err => Sys2Proof.Machine.execStrokeEnd u ref err s
  | .pkeSegmentEnd slice ns stateBytes => Sys2Proof.Machine.execPkeSegmentEnd slice ns stateBytes s
  | .spillWriteSent job ok => Sys2Proof.Machine.execSpillWriteSent job ok s
  | .frameReadback job data => Sys2Proof.Machine.execFrameReadback job data s
  | .cellFault k unit slot cells code => Sys2Proof.Machine.execCellFault k unit slot cells code s
  | .blockAlarm k unit slot code detail => Sys2Proof.Machine.execBlockAlarm k unit slot code detail s
  | .randomnessWaitTimeout k unit slot cell => Sys2Proof.Machine.execRandomnessWaitTimeout k unit slot cell s
  | .eightCadenceUpdate e blocks norm => Sys2Proof.Machine.execEightCadenceUpdate e blocks norm s
  | .maskFallbackEnd => Sys2Proof.Machine.execMaskFallbackEnd s
  | .programLoad image => Sys2Proof.Machine.execProgramLoad image s
  | .nop c x => Sys2Proof.Machine.execNop c x s
  | .end_ c x => Sys2Proof.Machine.execEnd_ c x s
  | .fence c x => Sys2Proof.Machine.execFence c x s
  | .mov c x => Sys2Proof.Machine.execMov c x s
  | .fld c x => Sys2Proof.Machine.execFld c x s
  | .fldLand c => Sys2Proof.Machine.execFldLand c s
  | .fst c x => Sys2Proof.Machine.execFst c x s
  | .stm c x => Sys2Proof.Machine.execStm c x s
  | .mfsr c x => Sys2Proof.Machine.execMfsr c x s
  | .mtsr c x => Sys2Proof.Machine.execMtsr c x s
  | .xor c x => Sys2Proof.Machine.execXor c x s
  | .and c x => Sys2Proof.Machine.execAnd c x s
  | .or c x => Sys2Proof.Machine.execOr c x s
  | .andn c x => Sys2Proof.Machine.execAndn c x s
  | .xred c x => Sys2Proof.Machine.execXred c x s
  | .addW c x => Sys2Proof.Machine.execAddW c x s
  | .addD c x => Sys2Proof.Machine.execAddD c x s
  | .addQ c x => Sys2Proof.Machine.execAddQ c x s
  | .subW c x => Sys2Proof.Machine.execSubW c x s
  | .subD c x => Sys2Proof.Machine.execSubD c x s
  | .subQ c x => Sys2Proof.Machine.execSubQ c x s
  | .shlW c x => Sys2Proof.Machine.execShlW c x s
  | .shlD c x => Sys2Proof.Machine.execShlD c x s
  | .shlQ c x => Sys2Proof.Machine.execShlQ c x s
  | .shrW c x => Sys2Proof.Machine.execShrW c x s
  | .shrD c x => Sys2Proof.Machine.execShrD c x s
  | .shrQ c x => Sys2Proof.Machine.execShrQ c x s
  | .bfi c x => Sys2Proof.Machine.execBfi c x s
  | .bfx c x => Sys2Proof.Machine.execBfx c x s
  | .clz c x => Sys2Proof.Machine.execClz c x s
  | .bperm c x => Sys2Proof.Machine.execBperm c x s
  | .enc c x => Sys2Proof.Machine.execEnc c x s
  | .dec c x => Sys2Proof.Machine.execDec c x s
  | .gfmulG c x => Sys2Proof.Machine.execGfmulG c x s
  | .gfmulX c x => Sys2Proof.Machine.execGfmulX c x s
  | .tcmp c x => Sys2Proof.Machine.execTcmp c x s
  | .beq c x => Sys2Proof.Machine.execBeq c x s
  | .bne c x => Sys2Proof.Machine.execBne c x s
  | .blt c x => Sys2Proof.Machine.execBlt c x s
  | .bge c x => Sys2Proof.Machine.execBge c x s
  | .bltu c x => Sys2Proof.Machine.execBltu c x s
  | .bgeu c x => Sys2Proof.Machine.execBgeu c x s
  | .bbs c x => Sys2Proof.Machine.execBbs c x s
  | .bbc c x => Sys2Proof.Machine.execBbc c x s
  | .jmp c x => Sys2Proof.Machine.execJmp c x s
  | .call c x => Sys2Proof.Machine.execCall c x s
  | .ret c x => Sys2Proof.Machine.execRet c x s
  | .loop c x => Sys2Proof.Machine.execLoop c x s
  | .jmpi c x => Sys2Proof.Machine.execJmpi c x s
  | .calli c x => Sys2Proof.Machine.execCalli c x s
  | .eret c x => Sys2Proof.Machine.execEret c x s
  | .wfi c x => Sys2Proof.Machine.execWfi c x s
  | .reservedOpcode c opcode x => Sys2Proof.Machine.execReservedOpcode c opcode x s
  | .instructionBudgetExceeded e k => Sys2Proof.Machine.execInstructionBudgetExceeded e k s
  | .umpireInterrupt => Sys2Proof.Machine.execUmpireInterrupt s
  | .directStart who r => Sys2Proof.Machine.execDirectStart who r s
  | .directAbort who r => Sys2Proof.Machine.execDirectAbort who r s
  | .directDone r flash => Sys2Proof.Machine.execDirectDone r flash s
  | .qadDirOutRead who r span => Sys2Proof.Machine.execQadDirOutRead who r span s
  | .measAclWrite who n v => Sys2Proof.Machine.execMeasAclWrite who n v s
  | .modeWrite who slice mac => Sys2Proof.Machine.execModeWrite who slice mac s
  | .modeChangeDone slice => Sys2Proof.Machine.execModeChangeDone slice s
  | .pkeAbort who slice => Sys2Proof.Machine.execPkeAbort who slice s
  | .macClear who slice a b => Sys2Proof.Machine.execMacClear who slice a b s
  | .mulacc who slice a b => Sys2Proof.Machine.execMulacc who slice a b s
  | .addw who slice a b => Sys2Proof.Machine.execAddw who slice a b s
  | .macShr who slice a b => Sys2Proof.Machine.execMacShr who slice a b s
  | .macStore who slice a b => Sys2Proof.Machine.execMacStore who slice a b s
  | .readw who slice a b => Sys2Proof.Machine.execReadw who slice a b s
  | .writew who slice a b => Sys2Proof.Machine.execWritew who slice a b s
  | .loadkey who slice a b => Sys2Proof.Machine.execLoadkey who slice a b s
  | .invalidationDrainDone slot => Sys2Proof.Machine.execInvalidationDrainDone slot s
  | .invalidationRelease slot => Sys2Proof.Machine.execInvalidationRelease slot s
  | .klgQuotaWrite who v => Sys2Proof.Machine.execKlgQuotaWrite who v s
  | .quotaTableCopy => Sys2Proof.Machine.execQuotaTableCopy s
  | .pgoodRise ix => Sys2Proof.Machine.execPgoodRise ix s
  | .powerStepDelayExpiry phase => Sys2Proof.Machine.execPowerStepDelayExpiry phase s
  | .powerStepTimeout phase => Sys2Proof.Machine.execPowerStepTimeout phase s
  | .powerRetryTimer group => Sys2Proof.Machine.execPowerRetryTimer group s
  | .pgoodFall ix => Sys2Proof.Machine.execPgoodFall ix s
  | .counterCommit => Sys2Proof.Machine.execCounterCommit s
  | .flashRead port op addr data => Sys2Proof.Machine.execFlashRead port op addr data s
  | .flashStatus port op data => Sys2Proof.Machine.execFlashStatus port op data s
  | .flashProgram port op addr data => Sys2Proof.Machine.execFlashProgram port op addr data s
  | .flashErase port op addr => Sys2Proof.Machine.execFlashErase port op addr s
  | .flashChipErase port op => Sys2Proof.Machine.execFlashChipErase port op s
  | .flashConfigWrite port op data => Sys2Proof.Machine.execFlashConfigWrite port op data s
  | .flashSuspend port op => Sys2Proof.Machine.execFlashSuspend port op s
  | .flashReset port op => Sys2Proof.Machine.execFlashReset port op s
  | .flashRdid port => Sys2Proof.Machine.execFlashRdid port s
  | .flashSfdp port addr len => Sys2Proof.Machine.execFlashSfdp port addr len s
  | .flashWriteEnable port => Sys2Proof.Machine.execFlashWriteEnable port s
  | .flashWriteDisable port => Sys2Proof.Machine.execFlashWriteDisable port s
  | .flashEnter4b port => Sys2Proof.Machine.execFlashEnter4b port s
  | .flashExit4b port => Sys2Proof.Machine.execFlashExit4b port s
  | .flashPowerDown port => Sys2Proof.Machine.execFlashPowerDown port s
  | .flashReleasePowerDown port => Sys2Proof.Machine.execFlashReleasePowerDown port s
  | .flashUnknownOp port op => Sys2Proof.Machine.execFlashUnknownOp port op s
  | .fgtSwap => Sys2Proof.Machine.execFgtSwap s
  | .bankSwap => Sys2Proof.Machine.execBankSwap s
  | .portEnableWrite u0 u1 => Sys2Proof.Machine.execPortEnableWrite u0 u1 s
  | .logEntryRead => Sys2Proof.Machine.execLogEntryRead s
  | .getVersion t => Sys2Proof.Machine.execGetVersion t s
  | .getCapabilities t version => Sys2Proof.Machine.execGetCapabilities t version s
  | .negotiateAlgorithms t mldsa ecdsa mlkem => Sys2Proof.Machine.execNegotiateAlgorithms t mldsa ecdsa mlkem s
  | .getDigests t => Sys2Proof.Machine.execGetDigests t s
  | .getCertificate t slot off len => Sys2Proof.Machine.execGetCertificate t slot off len s
  | .challenge t slot nonce => Sys2Proof.Machine.execChallenge t slot nonce s
  | .getMeasurements t index sign nonce => Sys2Proof.Machine.execGetMeasurements t index sign nonce s
  | .keyExchange t slot rsid data => Sys2Proof.Machine.execKeyExchange t slot rsid data s
  | .finish t sid ok => Sys2Proof.Machine.execFinish t sid ok s
  | .endSession t sid => Sys2Proof.Machine.execEndSession t sid s
  | .heartbeat t sid => Sys2Proof.Machine.execHeartbeat t sid s
  | .keyUpdate t sid op => Sys2Proof.Machine.execKeyUpdate t sid op s
  | .getCsr t => Sys2Proof.Machine.execGetCsr t s
  | .setCertificate t slot chain => Sys2Proof.Machine.execSetCertificate t slot chain s
  | .chunkSend t handle seq last data => Sys2Proof.Machine.execChunkSend t handle seq last data s
  | .chunkGet t handle seq => Sys2Proof.Machine.execChunkGet t handle seq s
  | .respondIfReady t token => Sys2Proof.Machine.execRespondIfReady t token s
  | .spdmUnsupportedRequest t code => Sys2Proof.Machine.execSpdmUnsupportedRequest t code s
  | .getDomainCerts t args => Sys2Proof.Machine.execGetDomainCerts t args s
  | .getDeviceId t args => Sys2Proof.Machine.execGetDeviceId t args s
  | .getTdispVersion vf => Sys2Proof.Machine.execGetTdispVersion vf s
  | .getTdispCapabilities vf => Sys2Proof.Machine.execGetTdispCapabilities vf s
  | .lockInterfaceRequest vf stream => Sys2Proof.Machine.execLockInterfaceRequest vf stream s
  | .getDeviceInterfaceReport vf => Sys2Proof.Machine.execGetDeviceInterfaceReport vf s
  | .getDeviceInterfaceState vf => Sys2Proof.Machine.execGetDeviceInterfaceState vf s
  | .startInterfaceRequest vf nonceOk => Sys2Proof.Machine.execStartInterfaceRequest vf nonceOk s
  | .stopInterfaceRequest vf => Sys2Proof.Machine.execStopInterfaceRequest vf s
  | .cardInserted => Sys2Proof.Machine.execCardInserted s
  | .cardVselSwitch => Sys2Proof.Machine.execCardVselSwitch s
  | .cardRemoved => Sys2Proof.Machine.execCardRemoved s
  | .goReset => Sys2Proof.Machine.execGoReset s
  | .identify pattern => Sys2Proof.Machine.execIdentify pattern s
  | .negotiate mode => Sys2Proof.Machine.execNegotiate mode s
  | .select serial => Sys2Proof.Machine.execSelect serial s
  | .readBlocks first count1 => Sys2Proof.Machine.execReadBlocks first count1 s
  | .writeBlocks first count1 => Sys2Proof.Machine.execWriteBlocks first count1 s
  | .setTxn id => Sys2Proof.Machine.execSetTxn id s
  | .journalQuery id => Sys2Proof.Machine.execJournalQuery id s
  | .journalResolve id => Sys2Proof.Machine.execJournalResolve id s
  | .setTempWp => Sys2Proof.Machine.execSetTempWp s
  | .clearTempWp => Sys2Proof.Machine.execClearTempWp s
  | .setPermWp arg => Sys2Proof.Machine.execSetPermWp arg s
  | .readWp => Sys2Proof.Machine.execReadWp s
  | .powerDown => Sys2Proof.Machine.execPowerDown s
  | .cciCommandDone d => Sys2Proof.Machine.execCciCommandDone d s
  | .lifecycleTransitionRequest obj => Sys2Proof.Machine.execLifecycleTransitionRequest obj s
  | .debugGrant obj => Sys2Proof.Machine.execDebugGrant obj s
  | .ownerKeyUpdate obj => Sys2Proof.Machine.execOwnerKeyUpdate obj s
  | .extest bits => Sys2Proof.Machine.execExtest bits s
  | .idcode => Sys2Proof.Machine.execIdcode s
  | .samplePreload bits => Sys2Proof.Machine.execSamplePreload bits s
  | .dbgStatus p off => Sys2Proof.Machine.execDbgStatus p off s
  | .dbgTrace index => Sys2Proof.Machine.execDbgTrace index s
  | .dbgPerf p off => Sys2Proof.Machine.execDbgPerf p off s
  | .dbgCore op => Sys2Proof.Machine.execDbgCore op s
  | .dbgMem bank addr wr => Sys2Proof.Machine.execDbgMem bank addr wr s
  | .dbgAcc p off wr => Sys2Proof.Machine.execDbgAcc p off wr s
  | .scan n => Sys2Proof.Machine.execScan n s
  | .bypass code => Sys2Proof.Machine.execBypass code s
  | .tapReset => Sys2Proof.Machine.execTapReset s
  | .shield ix => Sys2Proof.Machine.execShield ix s
  | .supplyUvDetect rail mv => Sys2Proof.Machine.execSupplyUvDetect rail mv s
  | .supplyUv rail mv => Sys2Proof.Machine.execSupplyUv rail mv s
  | .supplyOv rail mv => Sys2Proof.Machine.execSupplyOv rail mv s
  | .thermalHigh ix temp => Sys2Proof.Machine.execThermalHigh ix temp s
  | .thermalLow ix temp => Sys2Proof.Machine.execThermalLow ix temp s
  | .light ix => Sys2Proof.Machine.execLight ix s
  | .emp ix => Sys2Proof.Machine.execEmp ix s
  | .cellRemoved => Sys2Proof.Machine.execCellRemoved s
  | .cellLow => Sys2Proof.Machine.execCellLow s
  | .tloop n => Sys2Proof.Machine.execTloop n s
  | .xtalFail => Sys2Proof.Machine.execXtalFail s
  | .stateInvalid machine => Sys2Proof.Machine.execStateInvalid machine s
  | .tamperRel => Sys2Proof.Machine.execTamperRel s
  | .tamperHoldExpiry => Sys2Proof.Machine.execTamperHoldExpiry s
  | .tmpTestStart => Sys2Proof.Machine.execTmpTestStart s
  | .stimulationWindowEnd detected => Sys2Proof.Machine.execStimulationWindowEnd detected s
  | .tmpClassWrite v => Sys2Proof.Machine.execTmpClassWrite v s
  | .umpKick => Sys2Proof.Machine.execUmpKick s
  | .heartbeatLapse => Sys2Proof.Machine.execHeartbeatLapse s
  | .umpTimerWrite v => Sys2Proof.Machine.execUmpTimerWrite v s
  | .umpTimerExpiry => Sys2Proof.Machine.execUmpTimerExpiry s
  | .getStatus t seq args => Sys2Proof.Machine.execGetStatus t seq args s
  | .groupReset t seq args => Sys2Proof.Machine.execGroupReset t seq args s
  | .recover t seq args => Sys2Proof.Machine.execRecover t seq args s
  | .issueChallenge t seq args => Sys2Proof.Machine.execIssueChallenge t seq args s
  | .applyCard t seq args objs => Sys2Proof.Machine.execApplyCard t seq args objs s
  | .exportAudit t seq args => Sys2Proof.Machine.execExportAudit t seq args s
  | .eraseGrant t seq args => Sys2Proof.Machine.execEraseGrant t seq args s
  | .quarRelease t seq args failed => Sys2Proof.Machine.execQuarRelease t seq args failed s
  | .setMeasAcl t seq args => Sys2Proof.Machine.execSetMeasAcl t seq args s
  | .disableSource t seq args => Sys2Proof.Machine.execDisableSource t seq args s
  | .programMonConfig t seq args => Sys2Proof.Machine.execProgramMonConfig t seq args s
  | .setWdgFuses t seq args => Sys2Proof.Machine.execSetWdgFuses t seq args s
  | .ergMeasure t seq args => Sys2Proof.Machine.execErgMeasure t seq args s
  | .getEvents t seq args => Sys2Proof.Machine.execGetEvents t seq args s
  | .mgmtUnsupported t seq code => Sys2Proof.Machine.execMgmtUnsupported t seq code s
  | .eventLogCopy => Sys2Proof.Machine.execEventLogCopy s
  | .getTid t => Sys2Proof.Machine.execGetTid t s
  | .getPldmVersion t type => Sys2Proof.Machine.execGetPldmVersion t type s
  | .getPldmTypes t => Sys2Proof.Machine.execGetPldmTypes t s
  | .getPldmCommands t type => Sys2Proof.Machine.execGetPldmCommands t type s
  | .setEventReceiver t enable eid => Sys2Proof.Machine.execSetEventReceiver t enable eid s
  | .getPdrRepositoryInfo t => Sys2Proof.Machine.execGetPdrRepositoryInfo t s
  | .getPdr t handle => Sys2Proof.Machine.execGetPdr t handle s
  | .getSensorReading t sensor => Sys2Proof.Machine.execGetSensorReading t sensor s
  | .getStateSensorReadings t sensor => Sys2Proof.Machine.execGetStateSensorReadings t sensor s
  | .setNumericSensorEnable t sensor op => Sys2Proof.Machine.execSetNumericSensorEnable t sensor op s
  | .tempThresholdCrossing diode temp => Sys2Proof.Machine.execTempThresholdCrossing diode temp s
  | .queryDeviceIdentifiers t => Sys2Proof.Machine.execQueryDeviceIdentifiers t s
  | .getFirmwareParameters t => Sys2Proof.Machine.execGetFirmwareParameters t s
  | .requestUpdate t => Sys2Proof.Machine.execRequestUpdate t s
  | .passComponentTable t comp param => Sys2Proof.Machine.execPassComponentTable t comp param s
  | .updateComponent t comp param size => Sys2Proof.Machine.execUpdateComponent t comp param size s
  | .requestFirmwareData off data => Sys2Proof.Machine.execRequestFirmwareData off data s
  | .transferComplete ok => Sys2Proof.Machine.execTransferComplete ok s
  | .verifyComplete staged => Sys2Proof.Machine.execVerifyComplete staged s
  | .applyComplete => Sys2Proof.Machine.execApplyComplete s
  | .activateFirmware t => Sys2Proof.Machine.execActivateFirmware t s
  | .pldmGetStatus t => Sys2Proof.Machine.execPldmGetStatus t s
  | .cancelUpdateComponent t => Sys2Proof.Machine.execCancelUpdateComponent t s
  | .cancelUpdate t => Sys2Proof.Machine.execCancelUpdate t s
  | .wdgCatch => Sys2Proof.Machine.execWdgCatch s
  | .wdgFinish => Sys2Proof.Machine.execWdgFinish s
  | .wdgKeyFault => Sys2Proof.Machine.execWdgKeyFault s
  | .wdgTaskCheckin task => Sys2Proof.Machine.execWdgTaskCheckin task s
  | .wdgWindowOpen => Sys2Proof.Machine.execWdgWindowOpen s
  | .wdgWarn => Sys2Proof.Machine.execWdgWarn s
  | .wdgExpiry late => Sys2Proof.Machine.execWdgExpiry late s
  | .wdgClockStop rc => Sys2Proof.Machine.execWdgClockStop rc s
  | .ergMeasurement counts slow months => Sys2Proof.Machine.execErgMeasurement counts slow months s
  | .measure => Sys2Proof.Machine.execMeasure s
  | .avsStep up ack => Sys2Proof.Machine.execAvsStep up ack s
  | .heatTimerExpiry => Sys2Proof.Machine.execHeatTimerExpiry s
  | .heatInEdge => Sys2Proof.Machine.execHeatInEdge s
  | .heatCtrlClose who => Sys2Proof.Machine.execHeatCtrlClose who s
  | .heldCloseRelease => Sys2Proof.Machine.execHeldCloseRelease s
  | .heatInTimeout => Sys2Proof.Machine.execHeatInTimeout s
  | .bankReady b => Sys2Proof.Machine.execBankReady b s
  | .heatReportWrite heat domain => Sys2Proof.Machine.execHeatReportWrite heat domain s
  | .heatRptTailWrite who v => Sys2Proof.Machine.execHeatRptTailWrite who v s
  | .patrolScrub m symbols overwritten => Sys2Proof.Machine.execPatrolScrub m symbols overwritten s
  | .trngHealthFail => Sys2Proof.Machine.execTrngHealthFail s
  | .trngStartupTestDone => Sys2Proof.Machine.execTrngStartupTestDone s
  | .drbgReseed ix => Sys2Proof.Machine.execDrbgReseed ix s
  | .bstStart => Sys2Proof.Machine.execBstStart s
  | .bstAbort => Sys2Proof.Machine.execBstAbort s
  | .bstRelease => Sys2Proof.Machine.execBstRelease s
  | .bstDone pass sig failAddr => Sys2Proof.Machine.execBstDone pass sig failAddr s
  | .cellRemovalOnBattery => Sys2Proof.Machine.execCellRemovalOnBattery s
  | .crystalStart => Sys2Proof.Machine.execCrystalStart s
  | .tamperConditionClear source index => Sys2Proof.Machine.execTamperConditionClear source index s
  | .downstreamFlashOperationDone port => Sys2Proof.Machine.execDownstreamFlashOperationDone port s
  | .cardStartupRetry => Sys2Proof.Machine.execCardStartupRetry s
  | .i3cDynamicAddressAssignment addr => Sys2Proof.Machine.execI3cDynamicAddressAssignment addr s

end Sys2Proof.Machine
end

