-- ==== Sys2Proof/Machine/Step.lean ====
section
/-!
DEFINITION. The step: the command at the front of the queue takes its effect; with none waiting, one tick passes (log entry 1).
-/

namespace Sys2Proof.Machine

/-- One step of the block. -/
def step (s : State) : Host.Outcome State Fault Refusal :=
  match s.pending with
  | [] => .next s.tick
  | c :: rest => exec c (s.onPending fun _ => rest)

/-- `s` with the command that a word spells in front of its queue; a word that spells none leaves `s` as it is. -/
def State.withFetchWord (s : State) (nbits w : Nat) : State :=
  match decodeTableWord nbits w with
  | some c => s.onPending fun q => c :: q
  | none => s

end Sys2Proof.Machine
end

