-- ==== Sys2Proof/WellFormed.lean ====
section
/-!
DEFINITION. Which commands name things that the device has: instances, banks, lanes, sensors and widths within the ranges of the
largest variant (R4, R19). The machine has a meaning for every command, well-formed or not.
-/

namespace Sys2Proof

/-- A page within the numbers of R19, R56 and R57. -/
def PageId.wf : PageId → Bool
  | .fn n | .adm n => decide (n < 256)
  | .meas i => decide (i < 2)
  | .rgn r | .qad r | .pke r => decide (r < 4)
  | .egt e => decide (e < 12)
  | .mirror k => decide (k < 6)
  | _ => true

/-- A stream that IDE has: the link stream or selective stream 0 to 7 (R76). -/
def streamWf : Option Nat → Bool
  | none => true
  | some n => decide (n < 8)

/-- A requester: VFs are numbered from 1 (R19, R50). -/
def Requester.wf : Requester → Bool
  | .vf n t => decide (1 ≤ n ∧ n < 256) && streamWf t
  | _ => true

/-- A register access that some map covers (R57, R62, R63, R71). -/
def RegAddr.wf : RegAddr → Bool
  | .bar off => decide (off < 0x4000000)
  | .bank b word lane => decide (b < 4096 ∧ word < 262144 ∧ lane < 4)
  | .cfg fn _ => decide (fn < 256)
  | .bar2 off => decide (off < 0x10000)

/-- A core (R11, R155). -/
def Core.wf : Core → Bool
  | .cox e k => decide (e < 12 ∧ k < 8)
  | .umpire => true

/-- The fields of an instruction: three operands and a target at most (R189). -/
def Enc.wf (x : Enc) : Bool := decide (x.f.length ≤ 4)

/-- A unit of a kind of block (R11): an eight, a quad's region, or a pair's region. -/
def BlockKind.wf : BlockKind → Nat → Bool
  | .eight, u => decide (u < 12)
  | .quad, u | .pair, u => decide (u < 4)

/-- Where a stroke ended (R136). -/
def StrokeAt.wf : StrokeAt → Bool
  | .slot e k => decide (e < 12 ∧ k < 8)
  | .cell c => decide (c < 16)

/-- What a read was for (R78, R82). -/
def ReadFor.wf : ReadFor → Bool
  | .admRing fn => decide (fn < 256)
  | .ring fn ch => decide (fn < 256 ∧ ch < 65536)
  | .xlat fn _ _ _ _ need => decide (fn < 256) && need.wf
  | _ => true

/-- An IDE_KM message (R76). -/
def IdeKm.wf : IdeKm → Bool
  | .query => true
  | .keyProg s _ _ | .setGo s _ | .setStop s => streamWf s

/-- A debugger's operation names one of the sixteen pointers (R393). -/
def CoreOp.wf : CoreOp → Bool
  | .readP n | .writeP n _ => decide (n < 16)
  | _ => true

/-- A memory of R455. -/
def MemLoc.wf (m : MemLoc) : Bool := decide (m.mem ≤ 9)

/-- A function of the device, and a stream that IDE has (R68, R76). -/
def LinkFn.wf (a : LinkFn) : Bool := decide (a.fn < 256) && streamWf a.stream

/-- The widths of a register access in bytes (R48). -/
def widthWf (w : Nat) : Bool := w == 1 || w == 2 || w == 4 || w == 8

/-- Every number of the command is one the device has. -/
def Instr.wf (i : Instr) : Bool :=
  match i with
  | .powerGood _ _ _ _ _ => true
  | .mainPowerLoss => true
  | .perstAssert => true
  | .perstRelease _ _ _ => true
  | .linkDown => true
  | .accResetComplete _ => true
  | .pfFlr => true
  | .vfFlr vf => decide (1 ≤ vf ∧ vf < 256)
  | .numvfsWrite _ => true
  | .vfEnableWrite _ => true
  | .guardedConfigWrite vf => decide (1 ≤ vf ∧ vf < 256)
  | .vectorUnmask via vec => via.wf && decide (vec < 2048)
  | .doeDiscovery _ => true
  | .doeAbort => true
  | .ideKm m => m.wf
  | .ideCheckFailed stream => streamWf stream
  | .atsInvalidation _ space _ _ => decide (space.fn < 256)
  | .atsInvalidationComplete _ => true
  | .readCompletion f _ => f.wf
  | .completionTimeout f => f.wf
  | .unsupportedRequest fn => decide (fn < 256)
  | .malformedTlp _ => true
  | .linkRetrain _ _ _ => true
  | .registerWrite who a width _ => who.wf && a.wf && widthWf width
  | .errRecClr who p => who.wf && p.wf
  | .pgStatusClear who p _ _ => who.wf && p.wf
  | .pgIntEnWrite who p _ => who.wf && p.wf
  | .pgLockWrite who p _ => who.wf && p.wf
  | .mirrorRefresh p => p.wf
  | .admEnable via => via.wf
  | .admDisable via => via.wf
  | .adminDoorbell via _ width => via.wf && widthWf width
  | .createChannel fn _ => decide (fn < 256)
  | .destroyChannel fn _ => decide (fn < 256)
  | .destroyChannelComplete fn ch => decide (fn < 256) && decide (ch < 65536)
  | .modifyChannel fn _ => decide (fn < 256)
  | .queryChannel fn _ => decide (fn < 256)
  | .setSpillArea fn _ => decide (fn < 256)
  | .createDomain fn _ => decide (fn < 256)
  | .destroyDomain fn _ => decide (fn < 256)
  | .assignFunction fn _ => decide (fn < 256)
  | .setDomainWeight fn _ => decide (fn < 256)
  | .adminReservedOpcode fn _ => decide (fn < 256)
  | .doorbellWrite via idx _ width => via.wf && decide (idx < 65536) && widthWf width
  | .modTimeExpiry fn ch => decide (fn < 256) && decide (ch < 65536)
  | .descriptorFetch fn ch _ => decide (fn < 256) && decide (ch < 65536)
  | .requestAdmit _ _ => true
  | .sym _ _ => true
  | .digest _ => true
  | .extend _ => true
  | .compare _ => true
  | .keyImport _ _ _ => true
  | .keyDerive _ _ => true
  | .keyWrite _ _ => true
  | .keyDestroy _ => true
  | .keyQuery _ => true
  | .ctxSave _ => true
  | .ctxRestore _ _ => true
  | .ctxDiscard _ => true
  | .fenceRequest _ => true
  | .nopRequest _ => true
  | .reservedType _ => true
  | .load _ _ => true
  | .loadKey _ _ => true
  | .read _ _ => true
  | .clear _ _ => true
  | .modAdd _ _ => true
  | .modSub _ _ => true
  | .modMul _ _ => true
  | .modInv _ _ => true
  | .modExp _ _ => true
  | .pubkey _ _ => true
  | .ecdsaSign _ _ => true
  | .ecdsaVerify _ _ => true
  | .ecdh _ _ => true
  | .eddsaSign _ _ => true
  | .eddsaVerify _ _ => true
  | .xdh _ _ => true
  | .rsaPriv _ _ => true
  | .rsaPub _ _ => true
  | .mldsaSign _ _ => true
  | .mldsaSignMu _ _ => true
  | .mldsaVerify _ _ => true
  | .mlkemEncaps _ _ => true
  | .mlkemDecaps _ _ => true
  | .strokeStart _ _ _ => true
  | .strokeEnd u _ _ => u.wf
  | .pkeSegmentEnd slice _ _ => decide (slice < 8)
  | .spillWriteSent _ _ => true
  | .frameReadback _ _ => true
  | .cellFault k unit _ _ _ => k.wf unit
  | .blockAlarm k unit _ _ _ => k.wf unit
  | .randomnessWaitTimeout k unit _ _ => k.wf unit
  | .eightCadenceUpdate e _ _ => decide (e < 12)
  | .maskFallbackEnd => true
  | .programLoad _ => true
  | .nop c x => c.wf && x.wf
  | .end_ c x => c.wf && x.wf
  | .fence c x => c.wf && x.wf
  | .mov c x => c.wf && x.wf
  | .fld c x => c.wf && x.wf
  | .fldLand c => c.wf
  | .fst c x => c.wf && x.wf
  | .stm c x => c.wf && x.wf
  | .mfsr c x => c.wf && x.wf
  | .mtsr c x => c.wf && x.wf
  | .xor c x => c.wf && x.wf
  | .and c x => c.wf && x.wf
  | .or c x => c.wf && x.wf
  | .andn c x => c.wf && x.wf
  | .xred c x => c.wf && x.wf
  | .addW c x => c.wf && x.wf
  | .addD c x => c.wf && x.wf
  | .addQ c x => c.wf && x.wf
  | .subW c x => c.wf && x.wf
  | .subD c x => c.wf && x.wf
  | .subQ c x => c.wf && x.wf
  | .shlW c x => c.wf && x.wf
  | .shlD c x => c.wf && x.wf
  | .shlQ c x => c.wf && x.wf
  | .shrW c x => c.wf && x.wf
  | .shrD c x => c.wf && x.wf
  | .shrQ c x => c.wf && x.wf
  | .bfi c x => c.wf && x.wf
  | .bfx c x => c.wf && x.wf
  | .clz c x => c.wf && x.wf
  | .bperm c x => c.wf && x.wf
  | .enc c x => c.wf && x.wf
  | .dec c x => c.wf && x.wf
  | .gfmulG c x => c.wf && x.wf
  | .gfmulX c x => c.wf && x.wf
  | .tcmp c x => c.wf && x.wf
  | .beq c x => c.wf && x.wf
  | .bne c x => c.wf && x.wf
  | .blt c x => c.wf && x.wf
  | .bge c x => c.wf && x.wf
  | .bltu c x => c.wf && x.wf
  | .bgeu c x => c.wf && x.wf
  | .bbs c x => c.wf && x.wf
  | .bbc c x => c.wf && x.wf
  | .jmp c x => c.wf && x.wf
  | .call c x => c.wf && x.wf
  | .ret c x => c.wf && x.wf
  | .loop c x => c.wf && x.wf
  | .jmpi c x => c.wf && x.wf
  | .calli c x => c.wf && x.wf
  | .eret c x => c.wf && x.wf
  | .wfi c x => c.wf && x.wf
  | .reservedOpcode c _ x => c.wf && x.wf
  | .instructionBudgetExceeded e k => decide (e < 12) && decide (k < 8)
  | .umpireInterrupt => true
  | .directStart who r => who.wf && decide (r < 4)
  | .directAbort who r => who.wf && decide (r < 4)
  | .directDone r _ => decide (r < 4)
  | .qadDirOutRead who r span => who.wf && decide (r < 4) && widthWf span.width
  | .measAclWrite who n _ => who.wf && decide (32 ≤ n ∧ n < 64)
  | .modeWrite who slice _ => who.wf && decide (slice < 8)
  | .modeChangeDone slice => decide (slice < 8)
  | .pkeAbort who slice => who.wf && decide (slice < 8)
  | .macClear who slice _ _ => who.wf && decide (slice < 8)
  | .mulacc who slice _ _ => who.wf && decide (slice < 8)
  | .addw who slice _ _ => who.wf && decide (slice < 8)
  | .macShr who slice _ _ => who.wf && decide (slice < 8)
  | .macStore who slice _ _ => who.wf && decide (slice < 8)
  | .readw who slice _ _ => who.wf && decide (slice < 8)
  | .writew who slice _ _ => who.wf && decide (slice < 8)
  | .loadkey who slice _ _ => who.wf && decide (slice < 8)
  | .invalidationDrainDone _ => true
  | .invalidationRelease _ => true
  | .klgQuotaWrite who _ => who.wf
  | .quotaTableCopy => true
  | .pgoodRise i => decide (i < 8)
  | .powerStepDelayExpiry _ => true
  | .powerStepTimeout _ => true
  | .powerRetryTimer group => decide (group < 3)
  | .pgoodFall i => decide (i < 8)
  | .counterCommit => true
  | .flashRead _ _ _ _ => true
  | .flashStatus _ _ _ => true
  | .flashProgram _ _ _ _ => true
  | .flashErase _ _ _ => true
  | .flashChipErase _ _ => true
  | .flashConfigWrite _ _ _ => true
  | .flashSuspend _ _ => true
  | .flashReset _ _ => true
  | .flashRdid _ => true
  | .flashSfdp _ _ _ => true
  | .flashWriteEnable _ => true
  | .flashWriteDisable _ => true
  | .flashEnter4b _ => true
  | .flashExit4b _ => true
  | .flashPowerDown _ => true
  | .flashReleasePowerDown _ => true
  | .flashUnknownOp _ _ => true
  | .fgtSwap => true
  | .bankSwap => true
  | .portEnableWrite _ _ => true
  | .logEntryRead => true
  | .getVersion _ => true
  | .getCapabilities _ _ => true
  | .negotiateAlgorithms _ _ _ _ => true
  | .getDigests _ => true
  | .getCertificate _ _ _ _ => true
  | .challenge _ _ _ => true
  | .getMeasurements _ _ _ _ => true
  | .keyExchange _ _ _ _ => true
  | .finish _ _ _ => true
  | .endSession _ _ => true
  | .heartbeat _ _ => true
  | .keyUpdate _ _ _ => true
  | .getCsr _ => true
  | .setCertificate _ _ _ => true
  | .chunkSend _ _ _ _ _ => true
  | .chunkGet _ _ _ => true
  | .respondIfReady _ _ => true
  | .spdmUnsupportedRequest _ _ => true
  | .getDomainCerts _ _ => true
  | .getDeviceId _ _ => true
  | .getTdispVersion vf => decide (1 ≤ vf ∧ vf < 256)
  | .getTdispCapabilities vf => decide (1 ≤ vf ∧ vf < 256)
  | .lockInterfaceRequest vf _ => decide (1 ≤ vf ∧ vf < 256)
  | .getDeviceInterfaceReport vf => decide (1 ≤ vf ∧ vf < 256)
  | .getDeviceInterfaceState vf => decide (1 ≤ vf ∧ vf < 256)
  | .startInterfaceRequest vf _ => decide (1 ≤ vf ∧ vf < 256)
  | .stopInterfaceRequest vf => decide (1 ≤ vf ∧ vf < 256)
  | .cardInserted => true
  | .cardVselSwitch => true
  | .cardRemoved => true
  | .goReset => true
  | .identify _ => true
  | .negotiate _ => true
  | .select _ => true
  | .readBlocks _ _ => true
  | .writeBlocks _ _ => true
  | .setTxn _ => true
  | .journalQuery _ => true
  | .journalResolve _ => true
  | .setTempWp => true
  | .clearTempWp => true
  | .setPermWp _ => true
  | .readWp => true
  | .powerDown => true
  | .cciCommandDone _ => true
  | .lifecycleTransitionRequest _ => true
  | .debugGrant _ => true
  | .ownerKeyUpdate _ => true
  | .extest _ => true
  | .idcode => true
  | .samplePreload _ => true
  | .dbgStatus p _ => p.wf
  | .dbgTrace _ => true
  | .dbgPerf p _ => p.wf
  | .dbgCore op => op.wf
  | .dbgMem bank _ _ => decide (bank < 4096)
  | .dbgAcc p _ _ => p.wf
  | .scan _ => true
  | .bypass _ => true
  | .tapReset => true
  | .shield i => decide (i < 64)
  | .supplyUvDetect rail _ => decide (rail < 7)
  | .supplyUv rail _ => decide (rail < 7)
  | .supplyOv rail _ => decide (rail < 7)
  | .thermalHigh i _ => decide (i < 24)
  | .thermalLow i _ => decide (i < 24)
  | .light i => decide (i < 16)
  | .emp i => decide (i < 16)
  | .cellRemoved => true
  | .cellLow => true
  | .tloop n => decide (n < 4)
  | .xtalFail => true
  | .stateInvalid machine => decide (machine < 4)
  | .tamperRel => true
  | .tamperHoldExpiry => true
  | .tmpTestStart => true
  | .stimulationWindowEnd _ => true
  | .tmpClassWrite _ => true
  | .umpKick => true
  | .heartbeatLapse => true
  | .umpTimerWrite _ => true
  | .umpTimerExpiry => true
  | .getStatus _ _ _ => true
  | .groupReset _ _ _ => true
  | .recover _ _ _ => true
  | .issueChallenge _ _ _ => true
  | .applyCard _ _ _ _ => true
  | .exportAudit _ _ _ => true
  | .eraseGrant _ _ _ => true
  | .quarRelease _ _ _ _ => true
  | .setMeasAcl _ _ _ => true
  | .disableSource _ _ _ => true
  | .programMonConfig _ _ _ => true
  | .setWdgFuses _ _ _ => true
  | .ergMeasure _ _ _ => true
  | .getEvents _ _ _ => true
  | .mgmtUnsupported _ _ _ => true
  | .eventLogCopy => true
  | .getTid _ => true
  | .getPldmVersion _ _ => true
  | .getPldmTypes _ => true
  | .getPldmCommands _ _ => true
  | .setEventReceiver _ _ _ => true
  | .getPdrRepositoryInfo _ => true
  | .getPdr _ _ => true
  | .getSensorReading _ _ => true
  | .getStateSensorReadings _ _ => true
  | .setNumericSensorEnable _ _ _ => true
  | .tempThresholdCrossing diode _ => decide (diode < 24)
  | .queryDeviceIdentifiers _ => true
  | .getFirmwareParameters _ => true
  | .requestUpdate _ => true
  | .passComponentTable _ _ _ => true
  | .updateComponent _ _ _ _ => true
  | .requestFirmwareData _ _ => true
  | .transferComplete _ => true
  | .verifyComplete _ => true
  | .applyComplete => true
  | .activateFirmware _ => true
  | .pldmGetStatus _ => true
  | .cancelUpdateComponent _ => true
  | .cancelUpdate _ => true
  | .wdgCatch => true
  | .wdgFinish => true
  | .wdgKeyFault => true
  | .wdgTaskCheckin _ => true
  | .wdgWindowOpen => true
  | .wdgWarn => true
  | .wdgExpiry _ => true
  | .wdgClockStop _ => true
  | .ergMeasurement _ _ _ => true
  | .measure => true
  | .avsStep _ _ => true
  | .heatTimerExpiry => true
  | .heatInEdge => true
  | .heatCtrlClose who => who.wf
  | .heldCloseRelease => true
  | .heatInTimeout => true
  | .bankReady _ => true
  | .heatReportWrite _ domain => decide (domain < 4096)
  | .heatRptTailWrite who _ => who.wf
  | .patrolScrub m _ _ => m.wf
  | .trngHealthFail => true
  | .trngStartupTestDone => true
  | .drbgReseed _ => true
  | .bstStart => true
  | .bstAbort => true
  | .bstRelease => true
  | .bstDone _ _ _ => true
  | .cellRemovalOnBattery => true
  | .crystalStart => true
  | .tamperConditionClear source _ => decide (source < 16)
  | .downstreamFlashOperationDone _ => true
  | .cardStartupRetry => true
  | .i3cDynamicAddressAssignment _ => true

end Sys2Proof
end

