-- ==== Sys2Proof/Safety.lean ====
section
/-!
DEFINITION. What a safe state is, and the vocabulary of the statements: the bounds that every step keeps, and which parts of the
state a command leaves alone.
-/

namespace Sys2Proof.Machine

/-- A page holds at most four first-error records (R44). -/
def errsBounded (m : SMap Hdr) : Prop := ∀ kv ∈ m, kv.2.errs.length ≤ 4

/-- The Umpire's SRAM is in canonical form, and its event log and the copy of it hold at most 4,096 entries (R63, R424). -/
def Ump.sound (u : Ump) : Prop := u.sram.wf 0 = true ∧ u.events.length ≤ 4096 ∧ u.eventCopy.length ≤ 4096

/-- The gate log holds at most 64 entries (R340). -/
def Fgt.sound (f : Fgt) : Prop := f.log.length ≤ 64

/-- The bounds that the spec gives for what the block keeps. -/
def State.Sound (s : State) : Prop := errsBounded s.hdrs ∧ s.ump.sound ∧ s.fgt.sound

/-- What no command changes: the queue is the step's, the variant is fused. And no command breaks the bounds. -/
def Keeps (s t : State) : Prop := t.pending = s.pending ∧ t.variant = s.variant ∧ (s.Sound → t.Sound)

/-- The parts of the state that a frame can name, one for each field of State but the queue and the variant. -/
inductive Field where
  | out | freeCtr | hdrs | mirrors | chip | pcie | fns | chans | gens | chFreed | reqs | nextReq | jobs | nextJob | msh | eights
  | progs | quads | meas | slices | klg | kslots | kfrees | genBase | domains | heat | aod | otp | wdg | tmp | erg | fgt | psq | cci
  | lcs | dbg | bst | rng | ump | sessions | spdm | mon | pldm | store
  deriving DecidableEq, Repr

/-- Two states agree on a part. -/
def State.agree (s t : State) : Field → Prop
  | .out => t.out = s.out
  | .freeCtr => t.freeCtr = s.freeCtr
  | .hdrs => t.hdrs = s.hdrs
  | .mirrors => t.mirrors = s.mirrors
  | .chip => t.chip = s.chip
  | .pcie => t.pcie = s.pcie
  | .fns => t.fns = s.fns
  | .chans => t.chans = s.chans
  | .gens => t.gens = s.gens
  | .chFreed => t.chFreed = s.chFreed
  | .reqs => t.reqs = s.reqs
  | .nextReq => t.nextReq = s.nextReq
  | .jobs => t.jobs = s.jobs
  | .nextJob => t.nextJob = s.nextJob
  | .msh => t.msh = s.msh
  | .eights => t.eights = s.eights
  | .progs => t.progs = s.progs
  | .quads => t.quads = s.quads
  | .meas => t.meas = s.meas
  | .slices => t.slices = s.slices
  | .klg => t.klg = s.klg
  | .kslots => t.kslots = s.kslots
  | .kfrees => t.kfrees = s.kfrees
  | .genBase => t.genBase = s.genBase
  | .domains => t.domains = s.domains
  | .heat => t.heat = s.heat
  | .aod => t.aod = s.aod
  | .otp => t.otp = s.otp
  | .wdg => t.wdg = s.wdg
  | .tmp => t.tmp = s.tmp
  | .erg => t.erg = s.erg
  | .fgt => t.fgt = s.fgt
  | .psq => t.psq = s.psq
  | .cci => t.cci = s.cci
  | .lcs => t.lcs = s.lcs
  | .dbg => t.dbg = s.dbg
  | .bst => t.bst = s.bst
  | .rng => t.rng = s.rng
  | .ump => t.ump = s.ump
  | .sessions => t.sessions = s.sessions
  | .spdm => t.spdm = s.spdm
  | .mon => t.mon = s.mon
  | .pldm => t.pldm = s.pldm
  | .store => t.store = s.store

/-- From `s` to `t` nothing changes but the parts listed: not the queue, not the variant, not any other part. -/
def Only (l : List Field) (s t : State) : Prop :=
  t.pending = s.pending ∧ t.variant = s.variant ∧ ∀ f : Field, f ∉ l → s.agree t f

/-- The outcome is a next state, and `P` holds of it. -/
def Answers (o : Out) (P : State → Prop) : Prop := ∃ t, o = .next t ∧ P t

/-- From `s` to `t` the open heat has closed with `cause`: its counters stand in its bank, not yet ready, the other bank keeps
what it held, the next heat has opened empty, and no close is held (R445, R446, R448). -/
def HeatClosed (s t : State) (cause : BitVec 4) : Prop :=
  t.aod = { s.aod with heatNo := s.aod.heatNo + 1 } ∧
    t.bankOf s.aod.heatNo.toNat =
      { s.heat.live with heat := s.aod.heatNo, cause := cause, ready := false, closeTicks := s.now, epoch := s.aod.epoch } ∧
    t.bankOf (s.aod.heatNo.toNat + 1) = s.bankOf (s.aod.heatNo.toNat + 1) ∧
    t.heat.live = s.freshLive ∧ t.heat.heldCause = 0 ∧ t.heat.lastClose = s.now ∧ (t.hdr .heat).status.getLsbD 8 = true

/-- From `s` to `t` the accelerator domain has been wiped (R21, R23, R66): no channel, request, job or key, every function, unit and
the Marshal as after reset (but for a PBA bit of the PF that the reset's own events set), measurement registers 32 to 63 zero and 0
to 31 kept, every accelerator page's header cleared (but for the lock of the KLG page, R390, and the chip page's status bits, which
show the change of CHIP_STATUS), the epoch one higher, the heat closed, and no work admitted. -/
def AccWiped (s t : State) : Prop :=
  (t.chans = [] ∧ t.gens = [] ∧ t.reqs = [] ∧ t.jobs = [] ∧ t.msh = {}) ∧
    ((∀ f, f ≠ 0 → t.fn f = {}) ∧ { t.fn 0 with pba := [] } = ({} : Fn)) ∧
    (t.kslots = [] ∧ t.kfrees = [] ∧ t.eights = [] ∧ t.quads = [] ∧ t.slices = []) ∧
    (∀ n, n < 32 → t.mreg n = s.mreg n) ∧ (∀ n, 32 ≤ n → t.mreg n = {}) ∧
    (∀ p, PageId.accel p = true → p ≠ .klg → p ≠ .chip → t.hdr p = {}) ∧
    ((t.hdr .chip).errs = [] ∧ (t.hdr .chip).intEn = 0 ∧ (t.hdr .chip).lock = 0) ∧
    (t.aod = { s.aod with epoch := s.aod.epoch + 1, heatNo := s.aod.heatNo + 1 }) ∧
    t.chip.accReset = true ∧ t.chip.accReady = false

/-- The 32 bytes of an admin completion entry as eight dwords (R92): SQ_HEAD and PHASE as the queue shows them. -/
def admEntry (slot cmdId st detail r0 r1 r2 sqHead : Nat) (phase : Bool) : List W32 :=
  [st + 65536 * cmdId, detail, r0, r1, r2 % 4294967296, r2 / 4294967296, slot, sqHead + 2147483648 * b2n phase].map (BitVec.ofNat 32)

/-- Function `f`'s admin queue takes its next command, and may read it and write the completion entry where it belongs (R78, R90,
R99). -/
def AdmReady (s : State) (f : Nat) : Prop :=
  (s.fn f).adm.canRun = true ∧ s.denies f none ((s.fn f).adm.sqBase.toNat + 64 * (s.fn f).adm.sqHead) 64 false = false ∧
    s.denies f none ((s.fn f).adm.cqBase.toNat + 32 * (s.fn f).adm.cqTail) 32 true = false

/-- The command `dw` at the head of function `f`'s admin ring has left it. -/
def AdmTaken (s t : State) (f : Nat) : Prop :=
  (t.fn f).adm.sqHead = ((s.fn f).adm.sqHead + 1) % 2 ^ (s.fn f).adm.sqLog.toNat

/-- That command has completed: its entry stands next in the completion ring, with status, detail and results (R92, R97). -/
def AdmPosted (s t : State) (f : Nat) (dw : List W32) (st detail r0 r1 r2 : Nat) : Prop :=
  let a := (s.fn f).adm
  (∃ x : Tlp, OutEvent.admCqe f x (a.cqBase.toNat + 32 * a.cqTail) (admEntry a.sqHead (bits (dwAt dw 0) 31 16) st detail r0 r1 r2
    ((a.sqHead + 1) % 2 ^ a.sqLog.toNat) a.phase) ∈ t.out) ∧
  AdmTaken s t f ∧ (t.fn f).adm.cqTail = (a.cqTail + 1) % 2 ^ a.cqLog.toNat ∧ (t.fn f).adm.busy = none

/-- Request `r` is on the chip as `q`, on channel `c`, and its completion entry can be written: the channel is not in ERROR and
no cached translation denies the write (R98, R108). -/
def ReqLive (s : State) (r : Nat) (q : Req) (c : Chan) : Prop :=
  s.req r = some q ∧ s.chan q.fn q.ch = some c ∧ c.errored = false ∧
    s.denies q.fn c.tag (c.cqBase.toNat + 32 * c.cqTail) 32 true = false

/-- Request `r`, live as `q` on channel `c`, has ended with `x`: its completion entry stands at the ring's tail, with the status,
details and results of `x`, and the request has left the chip (R97, R127). -/
def ReqEnds (s t : State) (r : Nat) (q : Req) (c : Chan) (x : Fin) : Prop :=
  (∃ y : Tlp, y.pasid = c.tag ∧ OutEvent.cqe q.fn q.ch y (c.cqBase.toNat + 32 * c.cqTail)
    ((s.cqeDwords q x ++ [q.slot, c.sqHead + 2147483648 * b2n c.phase]).map (BitVec.ofNat 32)) ∈ t.out) ∧ t.req r = none

/-- The request holds no job and no program: it is of a type that runs on no unit (R110). -/
def Req.Bare (q : Req) : Prop := q.job = none ∧ q.prog = none

/-- From `s` to `t` request `r` has made a key from template `x` and material `mat` in domain `d` under `parent`, at the run of
slots that R276 picks, and ended with its handle; or R276 has refused it and no slot has changed (R118, R276, R280). -/
def KeyMade (s t : State) (r : Nat) (q : Req) (c : Chan) (x : Tmpl) (d parent : Nat) (mat : List Byte) : Prop :=
  match algInfo x.alg with
  | none => False
  | some (_, _, n, _) =>
    match s.place d n with
    | .ok i =>
      (∀ j, j < n → t.kslot (i + j) = x.member (BitVec.ofNat 12 d) parent n j (x.part mat j)) ∧
        (∀ j, j < i ∨ i + n ≤ j → t.kslot j = s.kslot j) ∧ ReqEnds s t r q c { st := 0, r0 := s.khandle i }
    | .error e => t.kslots = s.kslots ∧ ReqEnds s t r q c { st := 0x12, detail := e }

/-- No cell of region `r`'s quad and pair is due for isolation at the end of its unit of work (R13). -/
def State.NoneDue (s : State) (r : Nat) : Prop :=
  (s.quad r).pendIso = 0 ∧ (s.slice (2 * r)).pendIso = false ∧ (s.slice (2 * r + 1)).pendIso = false

/-- PKE request `r` of a command runs as job `j` on slice `i`, in the segment that completes it: admitted, live, not aborted, its
key whole, its data fetched, no translation denying its inputs or output, randomness at hand, no isolation due (R13, R78, R254, R262,
R264). -/
def PkeReady (s : State) (r : Nat) (x : PkeIn) (cmd : Nat) (q : Req) (c : Chan) (j : Nat) (b : Job) (i : Nat) : Prop :=
  ReqLive s r q c ∧ (q.typ = 3 ∧ q.cmd = cmd ∧ q.admitted = true ∧ q.job = some j ∧ q.abort = false) ∧
    (s.job j = some b ∧ b.home = some i ∧ b.running = true ∧ b.req = r ∧ s.keyFailedNow b = false) ∧
    (x.inp.length = q.inLen ∧ x.aad.length = q.aadLen) ∧
    (s.rangesDenied q q.inR 0 q.inLen false = false ∧ s.rangesDenied q q.aadR 0 q.aadLen false = false ∧
      ∀ n, s.rangesDenied q q.outR 0 n true = false) ∧ s.rngDry = false ∧ s.NoneDue (i / 2)

/-- That command has completed with result `res`: its completion entry, its output if it succeeded (undefined bytes where OUT
overlaps an input, R122), the slice free again, and the job gone on with its operand slots if a later member of the chain runs on it,
or ended (R254, R259, R261, R269). A job that is none of an AEAD decryption, in a chain whose later members hold no job, writes
nothing when it fails. -/
def PkeDone (s t : State) (r : Nat) (x : PkeIn) (q : Req) (c : Chan) (j : Nat) (b : Job) (i : Nat) (res : PkeRes) : Prop :=
  ReqEnds s t r q c (b.pkeFin i x.ns res) ∧
    (if res.st = 0 then (q.outClash = false → ∀ e, e ∈ (s.writeOut q 0 res.out).out → e ∈ t.out) ∧
        (b.faults = [] → t.hdrs = s.hdrs ∧ t.chip = s.chip)
     else b.hold = false → (∀ m z, m ∈ q.chain.drop (q.chainPos + 1) → s.req m = some z → z.job = none) →
       ∀ f y a d, OutEvent.dma f y a d ∈ t.out → OutEvent.dma f y a d ∈ s.out) ∧
    (if res.st = 0 ∧ s.pkeGoesOn q = true then
      t.job j = some { b with
        running := false
        busyNs := b.busyNs + x.ns
        segments := b.segments + 1
        faults := []
        ops := match res.dest with
          | some (n, v) => b.ops.set none n v
          | none => b.ops }
     else t.job j = none) ∧
    (t.slice i).running = none ∧ (t.slice i).jobs = (s.slice i).jobs + 1 ∧
    Only [.chans, .chip, .eights, .fns, .freeCtr, .hdrs, .heat, .jobs, .msh, .out, .progs, .quads, .reqs, .slices] s t

/-- An access of `who` over the link gets through, with the T bit that its TLP carries: to the PF or to a VF
that is enabled, and to a VF in TDISP RUN with the T bit of the stream bound to it. The Umpire's accesses do not cross the link
(R69, R77, R82). -/
def LinkOpen (s : State) (who : Requester) : Prop :=
  ∀ f, Requester.fnOf who = some f →
    (f ≠ 0 → s.vfsOn.contains f = true) ∧ ((s.fn f).tdisp = .run → Requester.stream who = some (s.fn f).tdispStream)

/-- The cells that a CELL_FAULT names: the seats of an eight, else the digest cell or the slice itself (R12). -/
def faultyCells (k : BlockKind) (n : Nat) (cells : BitVec 8) : List Nat :=
  match k with
  | .eight => (List.range 8).filter fun c => cells.getLsbD c
  | _ => [n]

/-- What an alarm in a block can change: the units, the work they carried, its channels and records, the ledger's reports. -/
def faultFields : List Field :=
  [.chans, .chip, .eights, .fns, .freeCtr, .hdrs, .heat, .jobs, .klg, .kslots, .msh, .out, .progs, .quads, .reqs, .slices]

/-- A command over the link reaches its function: main power, and a function and a T bit for which the access is open (R69, R72, R77). -/
def HostReaches (s : State) (a : LinkFn) : Prop :=
  s.aod.onCell = false ∧ (a.fn ≠ 0 → s.vfsOn.contains a.fn = true) ∧ ((s.fn a.fn).tdisp = .run → a.stream = some (s.fn a.fn).tdispStream)

/-- A write of block-specific registers of page `p` by `who` goes through: main power, the page present, no reset, not
quarantined, and `who` the PF or the Umpire (R50, R53 to R55). -/
def WriteOpen (s : State) (who : Requester) (p : PageId) : Prop :=
  s.aod.onCell = false ∧ (who = .pf ∨ who = .umpire) ∧ s.present p = true ∧ s.chip.accReset = false ∧ s.quarantined p = false

/-- `who` may run a multiply-accumulate operation on slice `i` that names the words `names` (R249, R270). -/
def MacReady (s : State) (who : Requester) (i : Nat) (names : List (BitVec 13)) : Prop :=
  WriteOpen s who (.pke (i / 2)) ∧ ((who == .pf) = (s.slice i).macOwnerPf) ∧ (s.slice i).modeActive = true ∧
    ∀ a, a ∈ names → a.toNat < 7168

/-- Slice `i` is as before but for STAT, which is clear, and what `g` says; nothing else changes. -/
def SliceOnly (s t : State) (i : Nat) (g : Slice → Slice) : Prop :=
  t.slice i = g { s.slice i with macError := false, macCause := 0 } ∧ (∀ k, k ≠ i → t.slice k = s.slice k) ∧ Only [.slices] s t

/-- Rule `r` at index `k` of the live bank is the first that matches a command of class `n` at `a` on a port, and it decides it:
no rule before it matches, and it is no LOG rule (R329, R330). -/
def Decides (s : State) (port : Bool) (n : Nat) (a : Option Nat) (k : Nat) (r : Rule) : Prop :=
  ∃ l1 l2, s.fgt.live = l1 ++ (k, r) :: l2 ∧ r.covers port n a = true ∧ r.action ≠ 3 ∧
    (∀ kv, kv ∈ l1 → kv.2.covers port n a = false) ∧ ∀ kv, kv ∈ l2 → k < kv.1

/-- Where a rule that lets a command through sends it: to its own address, or with REDIRECT that plus DELTA (R329). -/
def Rule.target (r : Rule) (a : Nat) : Nat := if r.action = 2 then (a + r.delta.toNat) % 4294967296 else a

/-- The card port sends a command: the port as `c` says, with its page's fields for the command written, BUSY set and the results
of the last command cleared (R379). -/
def CardSent (s t : State) (c : Cci) (index : BitVec 6) (arg : W32) (long noResp read write busy : Bool) (n : Nat) : Prop :=
  t.cci = { c with
    index := index, arg := arg, long := long, noResp := noResp, read := read, write := write, busyWait := busy
    blocks := BitVec.ofNat 9 n, busy := true, done := false, respTo := false, respCrc := false, dataCrc := false, busyTo := false
    removed := false, card := { c.card with lastCmd := index, retriedCmd := false, resolving := false } } ∧
  t.out = s.out ++ [.cardCmd (cardFrame index arg)] ∧ Only [.cci, .out] s t

/-- The Umpire serves requests from outside: it runs, is not halted, and the device is not scrapped (R380, R412). -/
def Serving (s : State) : Prop := s.umpUp = true ∧ s.scrapped = false

/-- An SPDM response on a transport, `x` being what SPDM then holds of the transport: sent whole, or, where it exceeds
DataTransferSize, kept for CHUNK_GET behind a LargeResponse error that carries its handle (R348, R349). -/
def SpdmAnswers (s t : State) (tr : Transport) (x : Spdm) (code p1 p2 : Nat) (data : List Byte) : Prop :=
  let v := if x.version = 0 then 0x10 else x.version
  let m := [v, byteOf code, byteOf p1, byteOf p2] ++ data
  (if m.length ≤ transferSize tr then t.out = s.out ++ [.spdm (tIndex tr) m] ∧ t.spdmOf tr = x
   else t.out = s.out ++ [.spdm (tIndex tr) [v, 0x7F, 0x0F, 0, x.nextHandle]] ∧
    t.spdmOf tr = { x with large := some (x.nextHandle, m), nextHandle := x.nextHandle + 1 }) ∧
  ∀ u, u ≠ tr → t.spdmOf u = s.spdmOf u

/-- A TDISP request for an enabled VF can be served: the Umpire serves, the variant has TDISP, an SPDM session stands on DOE (R352). -/
def TdispReady (s : State) (vf : Nat) : Prop :=
  Serving s ∧ s.variant.ide = true ∧ s.doeSession = true ∧ s.vfsOn.contains vf = true

/-- A TDISP response about a VF (R352). -/
def tdispMsg (vf code : Nat) (data : List Byte) : OutEvent := .spdm 0 ([0x10, byteOf code, 0, 0] ++ leBytes 4 vf ++ leBytes 8 0 ++ data)

/-- Command `c` is a monitor's detection: tamper source, index and reading (R399). -/
def Detects (c : Instr) (src idx val : Nat) : Prop :=
  (src = 0 ∧ val = 0 ∧ c = .shield idx) ∨ (src = 2 ∧ ∃ v, val = v.toNat ∧ c = .supplyOv idx v) ∨
    (src = 3 ∧ ∃ v, val = v.toNat ∧ c = .thermalHigh idx v) ∨ (src = 4 ∧ ∃ v, val = v.toNat ∧ c = .thermalLow idx v) ∨
    (src = 5 ∧ val = 0 ∧ c = .light idx) ∨ (src = 6 ∧ val = 0 ∧ c = .emp idx) ∨ (src = 7 ∧ val = 0 ∧ idx = 0 ∧ c = .cellRemoved) ∨
    (src = 8 ∧ val = 0 ∧ idx = 0 ∧ c = .cellLow) ∨ (src = 9 + idx ∧ idx < 4 ∧ val = 0 ∧ c = .tloop idx)

/-- A detection at a source and index makes a record: the source enabled, the condition new there, no suppression window (R406,
R410, R414). -/
def DetectReady (s : State) (src idx : Nat) : Prop :=
  s.srcOff src = false ∧ (src, idx) ∉ s.tmp.persist ∧ s.suppressed src idx = false

/-- The slot that the tamper log gives an entry of a source's class (R410). -/
def State.entrySlot (s : State) (src : Nat) : Option Nat := s.aod.logSlot (s.srcClass src == 1 || s.srcClass src == 2)

/-- A record of a source on main power: its entry in slot `i` of the tamper log, its condition persisting, its counter, and the
response of its class: TAMPER_N low and pending for A and B, no general key left after A, the affected regions in quarantine
after B (R298, R403, R404, R408, R410). -/
def TamperLogged (s t : State) (src idx val ticks i : Nat) : Prop :=
  t.aod.log.get none i = some {
    seq := s.aod.seqNext, ticks := BitVec.ofNat 48 ticks, source := byteOf src
    flags := byteOf (s.srcClass src + if s.aod.xtalRunning then 0 else 16), mode := 0
    regions := (s.srcRegions src idx).setWidth 8, index := BitVec.ofNat 16 idx, value := BitVec.ofNat 16 val, bootCnt := s.bootCnt } ∧
  t.aod.seqNext = s.aod.seqNext + 1 ∧ (src, idx) ∈ t.tmp.persist ∧
  (s.srcClass src = 1 → t.tmp.cntA.toNat = min (s.tmp.cntA.toNat + 1) 65535 ∧ ∀ k, s.general k = true → t.kslot k = {}) ∧
  (s.srcClass src = 2 → t.tmp.cntB.toNat = min (s.tmp.cntB.toNat + 1) 65535 ∧ t.aod.quar = s.aod.quar ||| s.srcRegions src idx) ∧
  (s.srcClass src = 1 ∨ s.srcClass src = 2 → t.tmp.tamperLow = true ∧ t.aod.pending = true) ∧
  (s.srcClass src = 3 → t.tmp.cntC.toNat = min (s.tmp.cntC.toNat + 1) 65535) ∧
  (s.srcClass src = 0 ∨ s.srcClass src = 3 → Only [.aod, .chip, .fns, .hdrs, .heat, .out, .tmp] s t)

/-- The expiry's consecutive count, and whether it ends in SAFE_HOLD: no trial, and the repechage limit reached (R434). -/
def State.expiryHolds (s : State) : Bool := !s.aod.trial && decide (s.wdgLimit ≤ s.wdg.consec + 1)

/-- From `s` to `t` the watchdog has expired with a cause: the evidence page says so, the consecutive count has risen, and the step
of the ladder has been taken: SAFE_HOLD with the gate latched and frozen, the Umpire halted, no request left and a fatal error
sent; else the reversion of a trial image; else no SAFE_HOLD (R427, R434 to R436). -/
def Expires (s t : State) (cause : BitVec 4) (late : Bool) : Prop :=
  t.aod.ev = { s.aod.ev with
    pc := s.ump.regs.pbk ++ s.ump.regs.pc, missing := s.wdg.curMask &&& ~~~s.wdg.seen, double := s.wdg.double, cause := cause
    late := late, trial := s.aod.trial, repechage := BitVec.ofNat 3 (s.wdg.consec + 1), limit := BitVec.ofNat 3 s.wdgLimit
    safeHold := s.expiryHolds, time := s.aod.rtc
    total := BitVec.ofNat 32 (min (s.aod.ev.total.toNat + 1) 4294967295) } ∧
  t.wdg.consec = s.wdg.consec + 1 ∧ t.chip.safeHold = s.expiryHolds ∧
  (s.expiryHolds = true → t.fgt.frozen = true ∧ t.fgt.latched = true ∧ t.ump.running = false ∧ t.ump.halted = true ∧
    (∀ r, t.req r = none) ∧ OutEvent.errFatal ∈ t.out ∧ .uncorrectableInternal ∈ (t.fn 0).cfg.aerStatus ∧
    ((s.fn 0).cfg.aerMask.contains .uncorrectableInternal = false → OutEvent.aer 0 .uncorrectableInternal true ∈ t.out)) ∧
  (s.aod.trial = true → t.aod.trial = false ∧ t.aod.prefSlotB = !s.aod.prefSlotB) ∧
  (s.aod.trial = false → t.aod.prefSlotB = s.aod.prefSlotB)

/-- The expiry can be judged: the always-on domain holds its contents and no SAFE_HOLD has been entered. -/
def ExpiryReady (s : State) : Prop := s.aod.onCell = false ∧ s.aod.lost = false ∧ s.chip.safeHold = false

/-! ### Traern instructions -/

/-- The opcodes and their commands (R191, R210). -/
def traernOps : List (Nat × (Core → Enc → Instr)) :=
  [(0x00, .nop), (0x01, .end_), (0x02, .fence), (0x03, .mov), (0x04, .fld), (0x05, .fst), (0x06, .stm), (0x07, .mfsr),
   (0x08, .mtsr), (0x10, .xor), (0x11, .and), (0x12, .or), (0x13, .andn), (0x14, .xred), (0x20, .addW), (0x21, .addD),
   (0x22, .addQ), (0x24, .subW), (0x25, .subD), (0x26, .subQ), (0x28, .shlW), (0x29, .shlD), (0x2A, .shlQ), (0x2C, .shrW),
   (0x2D, .shrD), (0x2E, .shrQ), (0x30, .bfi), (0x31, .bfx), (0x32, .clz), (0x33, .bperm)] ++
  [(0x40, .enc), (0x41, .dec), (0x42, .gfmulG), (0x43, .gfmulX), (0x44, .tcmp), (0x50, .beq), (0x51, .bne), (0x52, .blt),
   (0x53, .bge), (0x54, .bltu), (0x55, .bgeu), (0x56, .bbs), (0x57, .bbc), (0x58, .jmp), (0x59, .call), (0x5A, .ret),
   (0x5B, .loop), (0x60, .jmpi), (0x61, .calli), (0x62, .eret), (0x63, .wfi)]

/-- A core may start opcode `op` now: ENC and DEC wait while no DRBG instance gives randomness (R158, R169). -/
def State.Seated (s : State) (op : Nat) : Prop := op = 0x40 ∨ op = 0x41 → s.rngDry = false

/-- An instruction of core `c` begins at its PC: the core is live, the FLDs that were due have landed, which left `s1`, and nothing
stops the instruction before it begins (R158, R203, R206, R210, R214 to R216). -/
def Begins (s s1 : State) (c : Core) (op : Nat) (r : OpInfo) (x : Enc) : Prop :=
  s.coreLive c = true ∧ opInfo op = some r ∧ s.landDue c = .ok s1 ∧ s1.early op r (s1.atNow c r x) = none ∧ s.Seated op

/-- An instruction that began in `s1` and left `s2` is followed in sequence, or by a loop's start: that leaves `t` (R200). -/
def InSequence (s1 s2 t : State) (i : At) : Prop :=
  s2.wdg.consec ≤ s1.wdg.consec ∧ ∃ u, s2.goNext i = .ok u ∧ t = u.breakCheck i.c

/-- Control has gone to address `a`, which leaves `t` (R184, R197). -/
def Arrives (c : Core) (a : BitVec 30) (s2 t : State) : Prop :=
  match c with
  | .cox _ _ => t = s2.modRegs c fun r => { r with pc := a.setWidth 18 }
  | .umpire =>
    t = (s2.onUmp fun u => { u with stale := [], regs := { u.regs with pbk := a.extractLsb' 18 12, pc := a.setWidth 18 } }).breakCheck c

/-- An address that control may go to: in a cox, within the program slot (R184, R216). -/
def MayArrive (c : Core) (a : BitVec 30) : Prop := c = .umpire ∨ a.toNat % 262144 < 2048

/-- The instruction completes wherever it begins and its elements can be read and written: `P` relates what an instruction is given,
the state in which it runs and the one it leaves. -/
def Completes (op : Nat) (P : At → State → State → Prop) (mk : Core → Enc → Instr) : Prop :=
  ∀ (s s1 s2 t : State) (c : Core) (x : Enc) (r : OpInfo), Begins s s1 c op r x → P (s1.atNow c r x) (s1.count1 c) s2 →
    InSequence s1 s2 t (s1.atNow c r x) → exec (mk c x) s = .next t

/-- Elements 0 to VL - 1 in turn: B and C are read, then A written with a z that `R b c z` (R190). -/
def EachVV (op : Nat) (R : Word → Word → Word → Prop) (i : At) (a d : State) : Prop :=
  ∃ (o : Abc) (w : Nat → State), a.abc op i = .ok o ∧ w 0 = o.s ∧ w i.vl = d ∧ ∀ k, k < i.vl → ∃ b u c v z,
    (w k).readLoc i.c o.b k = .ok (b, u) ∧ u.readLoc i.c o.c k = .ok (c, v) ∧ R b c z ∧
    v.writeLoc i.c o.a k allLanes z = .ok (w (k + 1))

/-- The scalar C is read once; then elements in turn: B is read, then A written. -/
def EachVS (op : Nat) (R : Word → Word → Word → Prop) (i : At) (a d : State) : Prop :=
  ∃ (o : Abc) (c : Word) (w : Nat → State), a.abc op i = .ok o ∧ o.s.readLoc i.c o.c 0 = .ok (c, w 0) ∧ w i.vl = d ∧
    ∀ k, k < i.vl → ∃ b u z, (w k).readLoc i.c o.b k = .ok (b, u) ∧ R b c z ∧ u.writeLoc i.c o.a k allLanes z = .ok (w (k + 1))

/-- As EachVS, where the new word depends on the old word of A too. -/
def EachKeeping (op : Nat) (R : Word → Word → Word → Word → Prop) (i : At) (a d : State) : Prop :=
  ∃ (o : Abc) (c : Word) (w : Nat → State), a.abc op i = .ok o ∧ o.s.readLoc i.c o.c 0 = .ok (c, w 0) ∧ w i.vl = d ∧
    ∀ k, k < i.vl → ∃ b u old v z, (w k).readLoc i.c o.b k = .ok (b, u) ∧ u.oldLoc i.c o.a k = .ok (old, v) ∧ R old b c z ∧
      v.writeLoc i.c o.a k allLanes z = .ok (w (k + 1))

/-- Elements in turn: B is read, then A written. -/
def EachV (op : Nat) (R : Word → Word → Prop) (i : At) (a d : State) : Prop :=
  ∃ (o : Abc) (w : Nat → State), a.abc op i = .ok o ∧ w 0 = o.s ∧ w i.vl = d ∧
    ∀ k, k < i.vl → ∃ b u z, (w k).readLoc i.c o.b k = .ok (b, u) ∧ R b z ∧ u.writeLoc i.c o.a k allLanes z = .ok (w (k + 1))

/-- Elements 0 to `n` - 1 of a source, read in turn from `a`, which leaves `d`. -/
def ReadsAll (c : Core) (l : Loc) (n : Nat) (a : State) (b : Nat → Word) (d : State) : Prop :=
  ∃ w : Nat → State, w 0 = a ∧ w n = d ∧ ∀ k, k < n → (w k).readLoc c l k = .ok (b k, w (k + 1))

/-- Lane by lane, in lanes of `w` bits. -/
def OnLanes (w : Nat) (f : BitVec w → BitVec w → BitVec w) (b c z : Word) : Prop :=
  ∀ n, w * n + w ≤ 128 → z.extractLsb' (w * n) w = f (b.extractLsb' (w * n) w) (c.extractLsb' (w * n) w)

/-- Lane by lane with one count, C[6:0]; a count of the lane width or more gives zero (R192). -/
def OnLanesBy (w : Nat) (f : BitVec w → Nat → BitVec w) (b c z : Word) : Prop :=
  ∀ n, w * n + w ≤ 128 → z.extractLsb' (w * n) w =
    if w ≤ c.toNat % 128 then 0 else f (b.extractLsb' (w * n) w) (c.toNat % 128)

/-- Word `a` of a core's bank 0: the slot's data window, or the Umpire's SRAM (R182). -/
def State.coreWord (s : State) (c : Core) (a : Nat) : Word :=
  match c with
  | .cox e k => (s.slot e k).win.get 0 a
  | .umpire => s.ump.sram.get 0 a

/-- A word of bank 0 that its core may write. -/
def WordOk (c : Core) (a : Nat) : Prop := c = .umpire ∧ a < 262144 ∨ c ≠ .umpire ∧ a < 0x400

/-! ### Management and PLDM -/

/-- A management or PLDM request that comes on a transport is served: over MCTP, by a running Umpire (R422, R425). -/
def ServedOn (s : State) (t : Transport) : Prop := s.umpUp = true ∧ t ≠ .doe

/-- A management response has left: its request's transport, code and sequence, status, detail and result (R422). -/
def MgmtReply (u : State) (t : Transport) (code : Nat) (seq : BitVec 8) (st detail : Nat) (res : List Byte) : Prop :=
  OutEvent.mgmt (tIndex t) (byteOf code) seq (byteOf st) (byteOf detail) res ∈ u.out

/-- A PLDM message has left on transport `t`: command, completion code and data (R425). -/
def PldmReply (u : State) (t cmd code : Nat) (data : List Byte) : Prop := OutEvent.pldm t (byteOf cmd) (byteOf code) data ∈ u.out

/-- JTAG is reached with main power, and the right that an instruction needs is in force (R393, R395). -/
def TapOpen (s : State) (right : Nat) : Prop := s.aod.onCell = false ∧ s.dbg.rights.getLsbD right = true

end Sys2Proof.Machine
end

