-- ==== Sys2Proof/Certificates/Slice0/Obligations.lean ====
section
/-!
DEFINITION. The statements for the provers. A statement `Answers (exec c s) P` says that command `c` completes: it answers a next
state, and `P` holds of that state. `Only l s t` says that from `s` to `t` nothing changes but the parts in `l`.
-/

open Sys2Proof Sys2Proof.Machine

/-- A step with a command waiting is that command's meaning on the state with the rest of the queue (log entry 1). -/
def Obligations.StepRunsFrontCommand : Prop :=
  ∀ (c : Instr) (rest : List Instr) (s : State),
    step { s with pending := c :: rest } = exec c { s with pending := rest }

/-- With an empty queue a step is one tick: the model's choices, log entries 1 and 55. -/
def Obligations.EmptyQueueLetsTimePass : Prop :=
  (∀ s : State, s.pending = [] → s.lcs.trans = none → ∃ t, step s = .next t ∧ t.aod = { s.aod with rtc := s.aod.rtc + 1 } ∧
    (s.wdgCounts = false → t.wdg = s.wdg) ∧ (s.wdgCounts = true → t.wdg.elapsed = s.wdg.elapsed + wdgTicks s.wdg.clkRc s.aod.rtc.toNat) ∧
    Only [.aod, .wdg, .mon, .out] s t) ∧
  (∀ (s : State) (new : Nat), s.pending = [] → s.lcs.trans = some (new, 1) → ∃ t, step s = .next t ∧
    t.otp = { s.otp with pairs := s.otp.pairs ++ [(Config.codeWord new, 0)] } ∧ t.lcs = { s.lcs with trans := some (new, 2) } ∧
    t.aod = { s.aod with rtc := s.aod.rtc + 1 } ∧ Only [.aod, .wdg, .mon, .out, .otp, .lcs] s t) ∧
  ∀ (s : State) (new : Nat), s.pending = [] → s.lcs.trans = some (new, 2) → ∃ t, step s = .next t ∧
    t.otp = { s.otp with pairs := s.otp.pairs.dropLast ++ [(Config.codeWord new, Config.codeWord new)] } ∧
    t.lcs = { s.lcs with trans := some (new, 3) } ∧ t.aod = { s.aod with rtc := s.aod.rtc + 1 } ∧
    Only [.aod, .wdg, .mon, .out, .otp, .lcs] s t

/-- The reset values that the register tables state (R41 to R47, R66, R154, R417, R421, R437, R453). -/
def Obligations.ResetLeavesTheStatedValues : Prop :=
  (∀ p : PageId, State.reset.hdr p = {}) ∧ (({} : Hdr).status = 0 ∧ ({} : Hdr).statusCnt = 0 ∧ ({} : Hdr).intEn = 0 ∧ ({} : Hdr).lock = 0 ∧
      ({} : Hdr).errs = []) ∧
    (State.reset.chip.rating = 0x0640 ∧ State.reset.chip.accReady = false ∧ State.reset.chip.safeHold = false ∧
      State.reset.chip.maskFallback = false ∧ State.reset.chip.ignWrCnt = 0) ∧
    State.reset.msh.strokeLog = 14 ∧ (State.reset.wdg.periodMs = 0x0FA0 ∧ State.reset.wdg.clkRc = false) ∧
    (State.reset.tmp.cls = 0x4EABBFFD ∧ State.reset.tmp.region = 0x00FFFFFFF0000FF0) ∧ State.reset.ump.evb = 0x400000 ∧
    (State.reset.heat.periodS = 0x3C ∧ State.reset.heat.inTimeoutS = 0x78) ∧ State.reset.aod.ev.limit = 3 ∧ State.reset.pending = []

/-- The bounds of R44, R340 and R424 hold after reset. -/
def Obligations.ResetIsSound : Prop :=
  State.reset.Sound

/-- From every sound state a step leads to a sound state (R44, R63, R340, R424). -/
def Obligations.EveryStepKeepsTheStateSound : Prop :=
  ∀ s t : State, s.Sound → step s = .next t → t.Sound

/-- The spec gives every command an effect on every operand: exec answers a next state, and leaves the queue to the step. -/
def Obligations.EveryCommandCompletes : Prop :=
  ∀ (c : Instr) (s : State), ∃ t, exec c s = .next t ∧ t.pending = s.pending ∧ t.variant = s.variant

/-- The write rules of the common header (R43, R44, R47, R51), with their frames. -/
def Obligations.HeaderWritesTakeTheirRule : Prop :=
  ∀ (s : State) (who : Requester) (p : PageId), s.aod.onCell = false → LinkOpen s who → reaches who p = true →
    s.present p = true → s.readablePage p = true → (who = .umpire → PageId.accel p = true → s.chip.accReset = false) →
    (∀ k, p ≠ .mirror k) → (∀ i, p = .meas i → who = .umpire) →
    (Answers (exec (.errRecClr who p) s) fun t => (∀ q, t.hdr q = if q = p then { s.hdr p with errs := [] } else s.hdr q) ∧
      Only [.hdrs] s t) ∧
    (∀ v, Answers (exec (.pgLockWrite who p v) s) fun t =>
      (∀ q, t.hdr q = if q = p then { s.hdr p with lock := (s.hdr p).lock ||| v } else s.hdr q) ∧ Only [.hdrs] s t) ∧
    (∀ v, Answers (exec (.pgIntEnWrite who p v) s) fun t =>
      (∀ q, t.hdr q = if q = p then { s.hdr p with intEn := v } else s.hdr q) ∧ Only [.hdrs, .chip, .out, .fns] s t) ∧
    ∀ mask hw, Answers (exec (.pgStatusClear who p mask hw) s) fun t =>
      (t.hdr p).status = ((s.hdr p).status &&& ~~~mask) ||| (hw &&& 0xFFFFFF3F) ∧
      (∀ q, q ≠ p → t.hdr q = s.hdr q) ∧ ((t.hdr p).errs = (s.hdr p).errs ∧ (t.hdr p).intEn = (s.hdr p).intEn ∧
        (t.hdr p).lock = (s.hdr p).lock ∧ (t.hdr p).quar = (s.hdr p).quar) ∧ Only [.hdrs, .chip, .out, .fns] s t

/-- PG_STATUS_CNT (R42): a saturating count of every hardware set, writable with any value, zero at reset. -/
def Obligations.StatusCountCountsEverySet : Prop :=
  (∀ (s : State) (p : PageId) (mask : W32), ((s.setStatus p mask).hdr p).statusCnt.toNat =
      min ((s.hdr p).statusCnt.toNat + ((List.range 32).filter fun n => mask.getLsbD n).length) 0xFFFFFFFF) ∧
    (∀ (s : State) (p : PageId) (v : W32), ((s.writeHeader p 0x014 v).hdr p).statusCnt = v) ∧
    ∀ p : PageId, (State.reset.hdr p).statusCnt = 0

/-- Register writes (R48, R49, R53, R55) and mirrors (chapter 02). -/
def Obligations.RegisterWritesAndMirrors : Prop :=
  (
  (∀ (s : State) (p : PageId) (off : Nat) (v : W64), s.aod.onCell = false → LinkOpen s .pf →
    s.chip.accReset = false → pfAt off = .page p 0x018 → reaches .pf p = true → s.present p = true → (∀ i, p ≠ .meas i) →
    (Answers (exec (.registerWrite .pf (.bar off) 4 v) s) fun t =>
      (∀ q, t.hdr q = if q = p then { s.hdr p with intEn := v.setWidth 32 } else s.hdr q) ∧ Only [.hdrs, .chip, .out, .fns] s t) ∧
    ∀ w, w ≠ 4 → 1 ≤ w → w ≤ 8 → Answers (exec (.registerWrite .pf (.bar off) w v) s) fun t =>
      (∀ q, t.hdr q = if q = p then (s.hdr p).raise (1#32 <<< 5) else s.hdr q) ∧ Only [.hdrs, .chip, .out, .fns] s t) ∧
  (∀ (s : State) (off w : Nat) (v : W64), s.aod.onCell = false → LinkOpen s .pf → pfAt off = .reserved →
    Answers (exec (.registerWrite .pf (.bar off) w v) s) fun t =>
      t.chip.ignWrCnt.toNat = min (s.chip.ignWrCnt.toNat + 1) 0xFFFF ∧ Only [.chip] s t) ∧
  (∀ (s : State) (off w : Nat) (v : W64), s.aod.onCell = false → LinkOpen s .pf → 0x4000000 ≤ off →
    Answers (exec (.registerWrite .pf (.bar off) w v) s) fun t =>
      t.out = s.out ++ (if Aer.unsupportedRequest ∈ (s.fn 0).cfg.aerMask then [.unsupported]
        else [.unsupported, .aer 0 .unsupportedRequest false]) ∧
      Aer.unsupportedRequest ∈ (t.fn 0).cfg.aerStatus ∧ Only [.out, .fns] s t) ∧
  ∀ (s : State) (w lane : Nat) (v : W64), s.aod.onCell = false → w < 262144 → lane < 4 →
    Answers (exec (.registerWrite .umpire (.bank 0 w lane) 4 v) s) fun t =>
      (t.ump.sram.get 0 w).extractLsb' (32 * lane) 32 = v.setWidth 32 ∧
      (∀ k, k < 4 → k ≠ lane → (t.ump.sram.get 0 w).extractLsb' (32 * k) 32 = (s.ump.sram.get 0 w).extractLsb' (32 * k) 32) ∧
      (∀ j, j ≠ w → t.ump.sram.get 0 j = s.ump.sram.get 0 j) ∧ w ∉ t.ump.poison ∧ Only [.ump] s t) ∧
  (
  ∀ (s : State) (k : Nat), k < 6 → s.umpUp = true → s.chip.safeHold = false →
    Answers (exec (.mirrorRefresh (.mirror k)) s) fun t =>
      t.mirrors.get {} k = { words := s.mirrorNow k, seq := (s.mirrors.get {} k).seq + 2 } ∧
      (∀ j, j ≠ k → t.mirrors.get {} j = s.mirrors.get {} j) ∧ Only [.mirrors, .chip, .out, .fns] s t)

/-- The host-side resets that take the link (R21, R23, R25, R80) and the link's training (R83). AccWiped says what the wipe leaves. -/
def Obligations.LossOfTheLinkWipesTheAcceleratorDomain : Prop :=
  (∀ s : State, s.aod.onCell = false → Answers (exec .perstAssert s) fun t => AccWiped s t ∧ t.pcie.perstLow = true ∧
    t.pcie.linkUp = false ∧ t.sessions = s.sessions.filter (·.transport == .i3c) ∧
    Only [.out, .hdrs, .chip, .pcie, .fns, .chans, .gens, .chFreed, .reqs, .jobs, .msh, .eights, .progs, .quads, .meas, .slices,
      .klg, .kslots, .kfrees, .genBase, .domains, .heat, .aod, .bst, .ump, .freeCtr, .sessions, .spdm] s t) ∧
  (∀ s : State, s.aod.onCell = false → Answers (exec .linkDown s) fun t => AccWiped s t ∧ t.pcie.perstLow = s.pcie.perstLow ∧
    t.pcie.linkUp = false ∧ t.sessions = s.sessions.filter (·.transport == .i3c) ∧
    Only [.out, .hdrs, .chip, .pcie, .fns, .chans, .gens, .chFreed, .reqs, .jobs, .msh, .eights, .progs, .quads, .meas, .slices,
      .klg, .kslots, .kfrees, .genBase, .domains, .heat, .aod, .bst, .ump, .freeCtr, .sessions, .spdm] s t) ∧
  (∀ (s : State) (speed : BitVec 4) (width : BitVec 5) (flit : Bool), s.aod.onCell = false → s.pcie.perstLow = true →
    s.scrapped = false → s.transiting = false → Answers (exec (.perstRelease speed width flit) s) fun t =>
      t.pcie = { s.pcie with perstLow := false, crs := !s.chip.accReady, linkUp := true, speed := speed, width := width, flit := flit, inL2 := false } ∧
      t.hdr .pcx = (if speed.toNat < 7 ∨ width.toNat < s.variant.lanes then (s.hdr .pcx).raise (1#32 <<< 9) else s.hdr .pcx) ∧
      Only [.pcie, .hdrs, .chip, .out, .fns] s t) ∧
  ∀ (s : State) (speed : BitVec 4) (width : BitVec 5) (flit : Bool), s.aod.onCell = false → s.pcie.perstLow = false →
    s.scrapped = false → s.transiting = false → Answers (exec (.linkRetrain speed width flit) s) fun t =>
      t.pcie = { s.pcie with linkUp := true, speed := speed, width := width, flit := flit, inL2 := false } ∧
      t.hdr .pcx = (if speed.toNat < 7 ∨ width.toNat < s.variant.lanes then ((s.hdr .pcx).raise (1#32 <<< 8)).raise (1#32 <<< 9)
        else (s.hdr .pcx).raise (1#32 <<< 8)) ∧ Only [.pcie, .hdrs, .chip, .out, .fns] s t

/-- The function-level resets and what shares their effect (R72, R77, R80, R81, R94). -/
def Obligations.FunctionResetsClearTheirFunctions : Prop :=
  (∀ s : State, s.aod.onCell = false → s.pcie.crs = false → s.chip.accReset = false → Answers (exec .pfFlr s) fun t =>
    (∀ f i, f ≤ s.variant.vfs → i < 65536 → t.chan f i = none) ∧
    (∀ f, 1 ≤ f → f ≤ s.variant.vfs → t.fn f = { domain := (s.fn f).domain, limit := (s.fn f).limit }) ∧
    { t.fn 0 with pba := [] } = ({ domain := (s.fn 0).domain, limit := (s.fn 0).limit } : Fn) ∧
    t.pcie.numVfs = s.pcie.numVfs ∧ t.pcie.vfEnable = s.pcie.vfEnable ∧ t.pcie.vfsInEffect = s.pcie.vfsInEffect ∧ t.pcie.ari = s.pcie.ari ∧
    Only [.chFreed, .chans, .chip, .eights, .fns, .gens, .hdrs, .heat, .jobs, .msh, .out, .pcie, .progs, .quads, .reqs, .sessions,
      .slices, .spdm] s t) ∧
  (∀ (s : State) (n : Nat), s.aod.onCell = false → s.pcie.crs = false → s.chip.accReset = false → s.vfsOn.contains n = true →
    Answers (exec (.vfFlr n) s) fun t => (∀ i, i < 65536 → t.chan n i = none) ∧
      t.fn n = { domain := (s.fn n).domain, limit := (s.fn n).limit } ∧
      (∀ f i, f ≠ n → i < 65536 → (t.chan f i).isSome = (s.chan f i).isSome) ∧
      (∀ f, f ≠ n → f ≠ 0 → (s.fn f).adm.busy = none → t.fn f = s.fn f) ∧
      Only [.chFreed, .chans, .chip, .eights, .fns, .gens, .hdrs, .heat, .jobs, .msh, .out, .pcie, .progs, .quads, .reqs, .slices] s t) ∧
  (∀ (s : State) (n : Nat), s.aod.onCell = false → s.pcie.crs = false → 1 ≤ n → (s.fn n).tdisp = .configLocked ∨ (s.fn n).tdisp = .run →
    Answers (exec (.guardedConfigWrite n) s) fun t => (∀ i, i < 65536 → t.chan n i = none) ∧
      t.fn n = { domain := (s.fn n).domain, limit := (s.fn n).limit, tdisp := .error } ∧
      Only [.chFreed, .chans, .chip, .eights, .fns, .gens, .hdrs, .heat, .jobs, .msh, .out, .pcie, .progs, .quads, .reqs, .slices] s t) ∧
  (∀ s : State, s.aod.onCell = false → s.pcie.crs = false → Answers (exec (.vfEnableWrite false) s) fun t =>
    t.pcie.vfsInEffect = none ∧ t.pcie.vfEnable = false ∧
    (∀ n, s.vfsOn.contains n = true → (∀ i, i < 65536 → t.chan n i = none) ∧ t.fn n = {}) ∧
    Only [.chFreed, .chans, .chip, .eights, .fns, .gens, .hdrs, .heat, .jobs, .msh, .out, .pcie, .progs, .quads, .reqs, .slices] s t) ∧
  (∀ s : State, s.aod.onCell = false → s.pcie.crs = false → s.pcie.vfsInEffect = none → Answers (exec (.vfEnableWrite true) s) fun t =>
    t.pcie = { s.pcie with vfEnable := true, vfsInEffect := if s.numVfsOk s.pcie.numVfs.toNat then some s.pcie.numVfs.toNat else none } ∧
    Only [.pcie] s t) ∧
  (∀ s : State, s.aod.onCell = false → s.pcie.crs = true →
    Answers (exec .pfFlr s) fun t => t.out = s.out ++ [.retryStatus] ∧ Only [.out] s t) ∧
  ∀ (s : State) (v : BitVec 16), s.aod.onCell = false → s.pcie.crs = false →
    Answers (exec (.numvfsWrite v) s) fun t => Only [.pcie] s t ∧
      match s.pcie.vfsInEffect with
      | some _ => t.pcie = s.pcie
      | none => t.pcie = { s.pcie with
          numVfs := v
          vfsInEffect := if s.pcie.vfEnable = true ∧ s.numVfsOk v.toNat = true then some v.toNat else none }

/-- Link protocol (R69, R73, R74, R76, R78, R79) and failed reads (R82, R83, R90). -/
def Obligations.LinkProtocolAndFailedReads : Prop :=
  (
  (∀ (s : State) (f v : Nat), s.aod.onCell = false → f ≤ s.variant.vfs → v < 2048 → s.tdispLocked f = false →
    (f ≠ 0 → s.vfsOn.contains f = true) → Answers (exec (.vectorUnmask ⟨f, none⟩ v) s) fun t => v ∈ (t.fn f).unmasked ∧
      (if (s.fn f).pba.contains v = true ∧ (s.fn f).msixEn = true ∧ (s.fn f).msixFnMask = false
       then t.out = s.out ++ [.msix f v (s.tlp f none false) ((s.fn f).msixAddr.get 0 v) ((s.fn f).msixData.get 0 v)] ∧ v ∉ (t.fn f).pba else t.out = s.out ∧ (t.fn f).pba = (s.fn f).pba) ∧
      (∀ g, g ≠ f → t.fn g = s.fn g) ∧ Only [.fns, .out] s t) ∧
  (∀ (s : State) (k : Nat), s.aod.onCell = false → s.pcie.doeReady = true → s.umpUp = true → Answers (exec (.doeDiscovery k) s) fun t =>
    t.out = s.out ++ [.doe (leBytes 2 1 ++ [0, 0] ++ leBytes 4 3 ++
      if k < 3 then leBytes 2 1 ++ [byteOf k, byteOf ((k + 1) % 3)] else leBytes 2 0xFFFF ++ [0, 0])] ∧ Only [.out] s t) ∧
  (∀ s : State, s.aod.onCell = false → Answers (exec .doeAbort s) fun t =>
    t.pcie = { s.pcie with doeObj := none, doeReady := true } ∧ Only [.pcie] s t) ∧
  (∀ (s : State) (st : Option Nat) (k : BitVec 256), s.aod.onCell = false → s.variant.ide = true → s.doeSession = true →
    s.pcie.doeReady = true → s.umpUp = true → streamOk st = true → (Answers (exec (.ideKm (.keyProg st true k)) s) fun t =>
        (t.ideOf st).key1 = some k ∧ (t.ideOf st).key0 = (s.ideOf st).key0 ∧ (t.ideOf st).state = (s.ideOf st).state ∧ Only [.pcie, .out] s t) ∧
      ((s.ideOf st).key0.isSome = true → Answers (exec (.ideKm (.setGo st false)) s) fun t =>
        (t.ideOf st).state = .secure ∧ (t.ideOf st).kbit = false ∧ Only [.pcie, .out] s t)) ∧
  (∀ (s : State) (st : Option Nat), s.aod.onCell = false → s.variant.ide = true → streamOk st = true →
    Answers (exec (.ideCheckFailed st) s) fun t => (t.ideOf st).state = .insecure ∧ Aer.ideCheckFailed ∈ (t.fn 0).cfg.aerStatus ∧
      (Aer.ideCheckFailed ∉ (s.fn 0).cfg.aerMask → OutEvent.aer 0 .ideCheckFailed false ∈ t.out) ∧
      Only [.pcie, .hdrs, .chip, .out, .fns] s t) ∧
  (∀ (s : State) (tag f lo hi : Nat) (pasid : Option (BitVec 20)), s.aod.onCell = false → s.pcie.invals.length < 32 →
    Answers (exec (.atsInvalidation tag ⟨f, pasid⟩ lo hi) s) fun t =>
      (∀ x, x ∈ t.pcie.xlats ↔ x ∈ s.pcie.xlats ∧ ¬ (x.fn = f ∧ x.pasid = pasid ∧ lo ≤ x.page ∧ x.page ≤ hi)) ∧
      t.pcie.invals = s.pcie.invals ++ [⟨tag, f, pasid, lo, hi⟩] ∧ Only [.pcie] s t) ∧
  (∀ (s : State) (tag : Nat), s.aod.onCell = false → (∃ x ∈ s.pcie.invals, x.tag = tag) → (∀ x ∈ s.pcie.invals, s.invalBusy x = false) →
    Answers (exec (.atsInvalidationComplete tag) s) fun t => (∀ x ∈ t.pcie.invals, x.tag ≠ tag) ∧
      t.out = s.out ++ [.atsComplete tag] ∧ Only [.pcie, .out] s t) ∧
  (∀ (s : State) (f : Nat), s.aod.onCell = false → Answers (exec (.unsupportedRequest f) s) fun t =>
    t.out = s.out ++ (if Aer.unsupportedRequest ∈ (s.fn f).cfg.aerMask then [.unsupported]
      else [.unsupported, .aer f .unsupportedRequest false]) ∧
    Aer.unsupportedRequest ∈ (t.fn f).cfg.aerStatus ∧ Only [.out, .fns] s t) ∧
  ∀ s : State, s.aod.onCell = false → Answers (exec (.malformedTlp 0) s) fun t =>
    t.out = s.out ++ (if Aer.malformedTlp ∈ (s.fn 0).cfg.aerMask then [] else [.aer 0 .malformedTlp true]) ∧
    Aer.malformedTlp ∈ (t.fn 0).cfg.aerStatus ∧ Only [.out, .fns] s t) ∧
  (
  (∀ (s : State) (n page : Nat) (pasid : Option (BitVec 20)) (wr rd : Bool) (need : ReadFor), s.aod.onCell = false →
    s.readLive need = true → Answers (exec (.readCompletion (.xlat n pasid page wr rd need) .data) s) fun t =>
      ⟨n, pasid, page, wr, rd⟩ ∈ t.pcie.xlats ∧ (s.pcie.xlats.length ≤ 4096 → t.pcie.xlats.length ≤ 4096) ∧ Only [.pcie] s t) ∧
  (∀ (s : State) (f : Nat), s.aod.onCell = false → (s.fn f).adm.ready = true → (s.fn f).cfg.ctoOff = false →
    Answers (exec (.completionTimeout (.admRing f)) s) fun t =>
      (t.fn f).adm = { (s.fn f).adm with error := true, ready := false, busy := none } ∧
      Aer.completionTimeout ∈ (t.fn f).cfg.aerStatus ∧ (Aer.completionTimeout ∉ (s.fn f).cfg.aerMask →
        OutEvent.aer f .completionTimeout false ∈ t.out) ∧ t.hdr .pcx = (s.hdr .pcx).raise (1#32 <<< 10) ∧
      t.hdr (.adm f) = (s.hdr (.adm f)).raise (1#32 <<< 8) ∧ Only [.hdrs, .chip, .out, .fns] s t) ∧
  (∀ (s : State) (f : Nat), s.aod.onCell = false → (s.fn f).adm.ready = true →
    Answers (exec (.readCompletion (.admRing f) .poisoned) s) fun t =>
      (t.fn f).adm = { (s.fn f).adm with error := true, ready := false, busy := none } ∧
      Aer.poisonedTlp ∈ (t.fn f).cfg.aerStatus ∧ (Aer.poisonedTlp ∉ (s.fn f).cfg.aerMask → OutEvent.aer f .poisonedTlp false ∈ t.out) ∧ t.hdr .pcx = (s.hdr .pcx).raise (1#32 <<< 11) ∧ Only [.hdrs, .chip, .out, .fns] s t) ∧
  ∀ (s : State) (q : Nat), s.aod.onCell = false → exec (.readCompletion (.data q) .data) s = .next s)

/-- The admin queue's ENABLE (R89), doorbells (R88, R101, R102) and message moderation (R105). -/
def Obligations.DoorbellsAndTheAdminQueue : Prop :=
  (∀ (s : State) (f : Nat) (tee : Option Nat), HostReaches s ⟨f, tee⟩ → (s.fn f).adm.enable = false → s.chip.accReset = false →
    s.present (.adm f) = true → Answers (exec (.admEnable ⟨f, tee⟩) s) fun t =>
      if (s.fn f).adm.valid then (∀ g, g ≠ f → t.fn g = s.fn g) ∧
        (t.fn f).adm = { (s.fn f).adm with
            enable := true, ready := true, error := false, sqHead := 0, sqTail := 0, cqHead := 0, cqTail := 0, phase := true } ∧
          Only [.fns] s t
      else (t.fn f).adm = { (s.fn f).adm with enable := true, ready := false, error := true } ∧
        (∀ g, g ≠ f → t.fn g = { s.fn g with pba := (t.fn g).pba }) ∧
        t.hdr (.adm f) = (s.hdr (.adm f)).raise (1#32 <<< 8) ∧ Only [.fns, .hdrs, .chip, .out] s t) ∧
  (∀ (s : State) (f : Nat) (tee : Option Nat), HostReaches s ⟨f, tee⟩ → (s.fn f).adm.enable = true → Answers (exec (.admDisable ⟨f, tee⟩) s) fun t =>
    (t.fn f).adm = { (s.fn f).adm with enable := false, ready := false, error := false, sqTail := (s.fn f).adm.sqHead } ∧
    (∀ g, g ≠ f → t.fn g = s.fn g) ∧ Only [.fns] s t) ∧
  (∀ (s : State) (f : Nat) (v : W64) (w : Nat) (tee : Option Nat), HostReaches s ⟨f, tee⟩ → (s.fn f).adm.ready = true →
    s.chip.accReset = false → Answers (exec (.adminDoorbell ⟨f, tee⟩ v w) s) fun t =>
      let a := (s.fn f).adm
      let c := dbCause v w a.sqLog.toNat a.sqHead a.sqTail a.cqLog.toNat a.cqHead a.cqTail
      if c = 0 then (t.fn f).adm = { a with
            sqTail := if v.getLsbD 32 then bits64 v 15 0 else a.sqTail
            cqHead := if v.getLsbD 33 then bits64 v 31 16 else a.cqHead } ∧ Only [.fns] s t
      else (t.fn f).adm = a ∧ (t.fn f).dbErrIndex = 0 ∧ (t.fn f).dbErrCause = BitVec.ofNat 3 c ∧ (t.fn f).dbErrAdmin = true ∧
        t.hdr (.fn f) = (s.hdr (.fn f)).raise (1#32 <<< 8) ∧ Only [.fns, .hdrs, .chip, .out] s t) ∧
  (∀ (s : State) (f i : Nat) (v : W64) (w : Nat) (tee : Option Nat) (x : Chan), HostReaches s ⟨f, tee⟩ → s.chip.accReset = false →
    s.chan f i = some x → x.state = .active → v.getLsbD 34 = false → Answers (exec (.doorbellWrite ⟨f, tee⟩ i v w) s) fun t =>
      let c := dbCause v w x.sqLog x.sqHead x.sqTail x.cqLog x.cqHead x.cqTail
      if c = 0 then t.chan f i = some { x with
            sqTail := if v.getLsbD 32 then bits64 v 15 0 else x.sqTail
            cqHead := if v.getLsbD 33 then bits64 v 31 16 else x.cqHead } ∧ Only [.chans] s t
      else (t.fn f).dbErrIndex = BitVec.ofNat 16 i ∧ (t.fn f).dbErrCause = BitVec.ofNat 3 c ∧ (t.fn f).dbErrAdmin = false ∧
        t.hdr (.fn f) = (s.hdr (.fn f)).raise (1#32 <<< 8) ∧ Only [.fns, .hdrs, .chip, .out] s t) ∧
  (∀ (s : State) (f i : Nat) (v : W64) (w : Nat) (tee : Option Nat), HostReaches s ⟨f, tee⟩ → s.chip.accReset = false →
    s.chan f i = none → Answers (exec (.doorbellWrite ⟨f, tee⟩ i v w) s) fun t => t.hdr (.fn f) = (s.hdr (.fn f)).raise (1#32 <<< 9) ∧
      Only [.fns, .hdrs, .chip, .out] s t) ∧
  ∀ (s : State) (f i : Nat) (x : Chan), s.chan f i = some x → x.unsignalled ≠ 0 → x.modTime ≠ 0 → x.irqEn = true →
    (x.oneShot = true → x.armed = true) → Answers (exec (.modTimeExpiry f i) s) fun t =>
      t.chan f i = some { x with unsignalled := 0, armed := x.armed && !x.oneShot } ∧
      (t.out = s.out ++ [.msix f x.vector.toNat (s.tlp f none false) ((s.fn f).msixAddr.get 0 x.vector.toNat)
        ((s.fn f).msixData.get 0 x.vector.toNat)] ∨ t.out = s.out ∧ x.vector.toNat ∈ (t.fn f).pba) ∧ Only [.chans, .fns, .out] s t

/-- The admin commands on channels (R92 to R96, R104, R106, R107). AdmPosted says what a completion entry holds. -/
def Obligations.AdminChannelCommandsRun : Prop :=
  (∀ (s : State) (f : Nat) (dw : List W32) (i : Nat), AdmReady s f → admOp dw = 0x01 → s.createRefused f dw = none →
    s.pickChannel (admTarget f dw) = some i → Answers (exec (.createChannel f dw) s) fun t =>
      t.chan (admTarget f dw) i = some (chanOf (s.chHandle (admTarget f dw) i) dw) ∧
      (∀ k, k ≠ chKey (admTarget f dw) i → t.chans.get none k = s.chans.get none k) ∧
      AdmPosted s t f dw 0 0 (s.chHandle (admTarget f dw) i) 0 0 ∧ Only [.chFreed, .chans, .fns, .heat, .out] s t) ∧
  (∀ (s : State) (f : Nat) (dw : List W32) (i : Nat) (c : Chan), AdmReady s f → admOp dw = 0x03 → s.modifyRefused f dw = none →
    s.handleCh (admTarget f dw) (dwAt dw 1) = some (i, c) → Answers (exec (.modifyChannel f dw) s) fun t =>
      t.chan (admTarget f dw) i = some (c.modified dw) ∧
      (∀ k, k ≠ chKey (admTarget f dw) i → t.chans.get none k = s.chans.get none k) ∧
      AdmPosted s t f dw 0 0 0 0 0 ∧ Only [.chans, .fns, .out] s t) ∧
  (∀ (s : State) (dw : List W32) (i : Nat) (c : Chan), AdmReady s 0 → admOp dw = 0x04 → bits (dwAt dw 0) 15 8 = 0 →
    reserved dw [(1, fullDw)] = false → s.handleCh 0 (dwAt dw 1) = some (i, c) → Answers (exec (.queryChannel 0 dw) s) fun t =>
      AdmPosted s t 0 dw 0 0 (c.sqHead + 65536 * c.cqTail) (s.queryRes 0 i c).r1 c.completed ∧ Only [.fns, .out] s t) ∧
  (∀ (s : State) (dw : List W32), AdmReady s 0 → admOp dw = 0x08 → bits (dwAt dw 0) 15 8 = 0 →
    reserved dw [(2, fullDw), (3, fullDw), (4, fullDw)] = false → baseOk (qwAt dw 2) = true →
    (s.nChans * 576 + 1023) / 1024 ≤ (dwAt dw 4).toNat → s.channelsOf 0 = [] → Answers (exec (.setSpillArea 0 dw) s) fun t =>
      (t.fn 0).spillBase = BitVec.ofNat 64 (qwAt dw 2) ∧ (t.fn 0).spillKib = dwAt dw 4 ∧ AdmPosted s t 0 dw 0 0 0 0 0 ∧
      Only [.fns, .out] s t) ∧
  (∀ (s : State) (f : Nat) (dw : List W32) (i : Nat) (c : Chan), AdmReady s f → admOp dw = 0x02 → s.destroyRefused f dw = none →
    s.handleCh (admTarget f dw) (dwAt dw 1) = some (i, c) → bit (dwAt dw 2) 0 = false →
    Answers (exec (.destroyChannel f dw) s) fun t =>
      t.chan (admTarget f dw) i = some { c with state := .destroying false c.errored } ∧ AdmTaken s t f ∧
      (t.fn f).adm.busy = some (.destroyChannel (chKey (admTarget f dw) i) (s.fn f).adm.sqHead (BitVec.ofNat 16 (bits (dwAt dw 0) 31 16))) ∧
      (∀ x a d, OutEvent.admCqe f x a d ∈ t.out → OutEvent.admCqe f x a d ∈ s.out) ∧ Only [.chans, .fns, .out] s t) ∧
  (∀ (s : State) (f i k slot : Nat) (id : BitVec 16) (c : Chan), (s.fn f).adm.busy = some (.destroyChannel k slot id) →
    k % 65536 = i → s.chans.get none k = some c → s.reqsOf (k / 65536) i = [] →
    s.denies f none ((s.fn f).adm.cqBase.toNat + 32 * (s.fn f).adm.cqTail) 32 true = false →
    Answers (exec (.destroyChannelComplete f i) s) fun t => t.chans.get none k = none ∧
      t.chGen (k / 65536) i = (if s.chGen (k / 65536) i = 4095 then 1 else s.chGen (k / 65536) i + 1) ∧
      (t.fn f).adm.busy = none ∧ (∃ x : Tlp, OutEvent.admCqe f x ((s.fn f).adm.cqBase.toNat + 32 * (s.fn f).adm.cqTail)
        (admEntry slot id.toNat 0 0 (c.fetched % 4294967296) c.sqHead 0 (s.fn f).adm.sqHead (s.fn f).adm.phase) ∈ t.out) ∧
      Only [.chFreed, .chans, .chip, .eights, .fns, .gens, .hdrs, .heat, .jobs, .msh, .out, .progs, .quads, .slices] s t) ∧
  ∀ (s : State) (f : Nat) (dw : List W32), AdmReady s f → admDefined (admOp dw) = false →
    Answers (exec (.adminReservedOpcode f dw) s) fun t => AdmPosted s t f dw 0x10 0x01 0 0 0 ∧ Only [.fns, .out] s t

/-- The admin commands on domains (R93, R94, R140, R286, R287). -/
def Obligations.AdminDomainCommandsRun : Prop :=
  (∀ (s : State) (dw : List W32), AdmReady s 0 → admOp dw = 0x10 → bits (dwAt dw 0) 15 8 = 0 →
    reserved dw ((2, 0xFFF) :: (List.range 8).map fun k => (k + 4, fullDw)) = false → s.badDom (bits (dwAt dw 2) 11 0) = false →
    s.domains.get none (bits (dwAt dw 2) 11 0) = none → Answers (exec (.createDomain 0 dw) s) fun t =>
      let d := bits (dwAt dw 2) 11 0
      let salt := (List.range 8).flatMap fun k => leBytes 4 (dwAt dw (k + 4)).toNat
      t.dom d = some { salt := salt, weight := 16, quota := 0 } ∧
      t.kslot (s.rootSlot d) = { state := .valid, material := kdf (s.kslot 0).material (ascii "DOMAIN" ++ beBytes 2 d ++ salt) 64,
                                 alg := 0x18, usage := 0x40, attr := 0x0A, life := 0x0F, domain := BitVec.ofNat 12 d, keyLen := 64, run := 1 } ∧
      (∀ e, e ≠ d → t.dom e = s.dom e) ∧ (∀ i, i ≠ s.rootSlot d → t.kslot i = s.kslot i) ∧
      AdmPosted s t 0 dw 0 0 (s.khandle (s.rootSlot d)) 0 0 ∧
      Only [.domains, .fns, .heat, .klg, .kslots, .out, .store] s t) ∧
  (∀ (s : State) (dw : List W32) (x : Domain), AdmReady s 0 → admOp dw = 0x13 → bits (dwAt dw 0) 15 8 = 0 →
    reserved dw [(2, 0xFFF), (3, 0xFF)] = false → bits (dwAt dw 2) 11 0 < s.nDoms → s.domIds.contains (bits (dwAt dw 2) 11 0) = true →
    s.dom (bits (dwAt dw 2) 11 0) = some x → Answers (exec (.setDomainWeight 0 dw) s) fun t =>
      let d := bits (dwAt dw 2) 11 0
      let w := bits (dwAt dw 3) 7 0
      t.dom d = some { x with weight := if w = 0 then 16 else BitVec.ofNat 8 w } ∧ (∀ e, e ≠ d → t.dom e = s.dom e) ∧
      AdmPosted s t 0 dw 0 0 0 0 0 ∧ Only [.domains, .fns, .out, .store] s t) ∧
  (∀ (s : State) (dw : List W32), AdmReady s 0 → admOp dw = 0x12 → reserved dw [(2, 0x80000FFF), (3, 0x1FFF)] = false →
    s.vfsOn.contains (bits (dwAt dw 0) 15 8) = true → s.channelsOf (bits (dwAt dw 0) 15 8) = [] →
    s.tdispLocked (bits (dwAt dw 0) 15 8) = false → bit (dwAt dw 2) 31 = false → bits (dwAt dw 2) 11 0 < s.nDoms →
    s.domIds.contains (bits (dwAt dw 2) 11 0) = true → 1 ≤ bits (dwAt dw 3) 12 0 → bits (dwAt dw 3) 12 0 ≤ 4096 →
    Answers (exec (.assignFunction 0 dw) s) fun t =>
      let v := bits (dwAt dw 0) 15 8
      (t.fn v).domain = some (BitVec.ofNat 12 (bits (dwAt dw 2) 11 0)) ∧ (t.fn v).limit = BitVec.ofNat 17 (bits (dwAt dw 3) 12 0) ∧
      t.hdr (.fn v) = (s.hdr (.fn v)).raise (1#32 <<< 11) ∧ (∀ g, g ≠ v → (t.fn g).domain = (s.fn g).domain ∧ (t.fn g).limit = (s.fn g).limit) ∧
      AdmPosted s t 0 dw 0 0 0 0 0 ∧ Only [.chip, .fns, .hdrs, .out] s t) ∧
  ∀ (s : State) (dw : List W32) (x : Domain), AdmReady s 0 → admOp dw = 0x11 → bits (dwAt dw 0) 15 8 = 0 →
    reserved dw [(2, 0xFFF)] = false → s.badDom (bits (dwAt dw 2) 11 0) = false → s.assigned (bits (dwAt dw 2) 11 0) = false →
    s.domIds.contains (bits (dwAt dw 2) 11 0) = true → s.dom (bits (dwAt dw 2) 11 0) = some x →
    Answers (exec (.destroyDomain 0 dw) s) fun t =>
      let d := bits (dwAt dw 2) 11 0
      t.dom d = some { x with ending := true } ∧ (t.kslot (s.rootSlot d)).state = .retiring ∧ AdmTaken s t 0 ∧
      (t.fn 0).adm.busy = some (.destroyDomain d (s.fn 0).adm.sqHead (BitVec.ofNat 16 (bits (dwAt dw 0) 31 16))) ∧
      t.klg.invalidations = s.klg.invalidations + 1 ∧
      (∀ y a e, OutEvent.admCqe 0 y a e ∈ t.out → OutEvent.admCqe 0 y a e ∈ s.out) ∧
      Only [.domains, .eights, .fns, .heat, .klg, .kslots, .meas, .out, .store] s t

/-- From the descriptor to admission (R32, R110, R117, R124, R126, R130, R435). ReqLive and ReqEnds say what a completion is. -/
def Obligations.RequestsAreFetchedAndAdmitted : Prop :=
  (∀ (s : State) (f i : Nat) (ds : List (List W32)) (c : Chan), s.chan f i = some c → s.chip.accReset = false → chainOk ds = true →
    c.canFetch ds.length = true →
    (∀ k, k < ds.length → s.denies f c.tag (c.sqBase.toNat + 64 * ((c.sqHead + k) % 2 ^ c.sqLog)) 64 false = false) →
    (∀ q, q ∈ ((List.range ds.length).map fun k => reqOf f i c ((List.range ds.length).map (s.nextReq + ·)) k (ds.getD k [])) →
      s.formatBad q ((List.range ds.length).map fun k => reqOf f i c ((List.range ds.length).map (s.nextReq + ·)) k (ds.getD k [])) = none) →
    Answers (exec (.descriptorFetch f i ds) s) fun t =>
      (∀ k, k < ds.length → t.req (s.nextReq + k) =
        some (reqOf f i c ((List.range ds.length).map (s.nextReq + ·)) k (ds.getD k []))) ∧
      (∀ r, r < s.nextReq → t.req r = s.req r) ∧ t.nextReq = s.nextReq + ds.length ∧
      t.chan f i = some { c with sqHead := (c.sqHead + ds.length) % 2 ^ c.sqLog, fetched := c.fetched + ds.length } ∧
      Only [.reqs, .nextReq, .chans, .out] s t) ∧
  (∀ (s : State) (r : Nat) (g : Sgls) (q : Req) (slot : Option Nat), s.req r = some q → q.admitted = false → s.orderOk r q = true →
    s.reservedIn q = false → s.chip.safeHold = false → (q.chainPos = 0 → s.chainFailure q = none) → (s.openOf q).bind (fun m => if q.cont then m.lost else none) = none →
    s.firstFailure q g = none → s.keyStep q (s.symProg q) = .ok slot → s.ctxFull q = false →
    Answers (exec (.requestAdmit r g) s) fun t =>
      (∃ x, t.req r = some x ∧ x.admitted = true ∧ x.keySlot = slot ∧ x.domain = (s.fnDomain q.fn).getD 0 ∧ x.dwords = q.dwords ∧
        x.inR = ranges q.inSgl q.inAddr q.inLen g.inL ∧ x.outR = ranges q.outSgl q.outAddr q.outLen g.outL) ∧
      (∀ m, m ≠ r → t.req m = s.req m) ∧ Only [.reqs, .kslots, .jobs, .nextJob] s t) ∧
  (∀ (s : State) (r : Nat) (g : Sgls) (q : Req) (c : Chan), ReqLive s r q c → q.admitted = false → q.job = none → s.orderOk r q = true →
    s.reservedIn q = false → s.chip.safeHold = true → Answers (exec (.requestAdmit r g) s) fun t =>
      ReqEnds s t r q c { st := 0x74 } ∧
      Only [.chans, .chip, .eights, .fns, .hdrs, .heat, .jobs, .msh, .out, .progs, .quads, .reqs, .slices] s t) ∧
  (∀ (s : State) (r : Nat) (q : Req) (c : Chan), ReqLive s r q c → q.typ = 6 → q.admitted = true → q.job = none →
    q.prog = none → Answers (exec (.fenceRequest r) s) fun t => ReqEnds s t r q c { st := 0 } ∧
      Only [.chans, .fns, .heat, .msh, .out, .reqs] s t) ∧
  (∀ (s : State) (r : Nat) (q : Req) (c : Chan), ReqLive s r q c → q.typ = 7 → q.admitted = true → q.job = none →
    q.prog = none → Answers (exec (.nopRequest r) s) fun t => ReqEnds s t r q c { st := 0, r0 := q.param.toNat } ∧
      Only [.chans, .fns, .heat, .msh, .out, .reqs] s t) ∧
  ∀ (s : State) (r : Nat) (q : Req) (c : Chan), ReqLive s r q c → q.reservedType = true → q.chain = [r] → q.chainPos = 0 →
    q.job = none → q.prog = none → Answers (exec (.reservedType r) s) fun t => ReqEnds s t r q c { st := 0x10 } ∧
      Only [.chans, .fns, .heat, .msh, .out, .reqs] s t

/-- Messages come to their units (R112, R113, R133, R135, R137, R224, R252). -/
def Obligations.MessagesGoToTheirUnits : Prop :=
  (∀ (s : State) (r n : Nat) (ivt : List Byte) (q : Req) (p : Prog), s.req r = some q → q.typ = 1 → q.admitted = true → q.job = none →
    q.cont = false → q.prog = some n → s.progs.get none n = some p →
    q.ivtReads.any (fun x => x.2 != 0 && s.denies q.fn (s.chTag q.fn q.ch) x.1 x.2 false) = false → ctrTooLong p (if q.nonce = [] then ivt.take q.ivLen else q.nonce) q.param.toNat q.inLen = false →
    Answers (exec (.sym r ivt) s) fun t =>
      (∃ b, t.job s.nextJob = some b ∧ b.kind = .eight ∧ b.req = r ∧ b.prog = n ∧ b.keySlot = q.keySlot ∧ b.partLen = q.inLen ∧
        b.iv = (if q.nonce = [] then ivt.take q.ivLen else q.nonce) ∧ b.done = 0 ∧ b.home = none ∧
        b.pass = (if p.hold = true ∧ 262144 < q.inLen then .tag else .single)) ∧
      t.req r = some { q with job := some s.nextJob } ∧ t.nextJob = s.nextJob + 1 ∧ Only [.jobs, .nextJob, .reqs] s t) ∧
  (∀ (s : State) (r k : Nat) (q : Req), k ≤ 2 → s.req r = some q → q.typ = 2 → q.subop = k → q.admitted = true → q.job = none →
    q.cont = false → Answers (exec (if k = 0 then .digest r else if k = 1 then .extend r else .compare r) s) fun t =>
      (∃ b, t.job s.nextJob = some b ∧ b.kind = .quad ∧ b.req = r ∧ b.op = q.op ∧ b.subop = k ∧ b.keySlot = q.keySlot ∧
        b.partLen = q.inLen ∧ b.absorbed = [] ∧ b.home = none) ∧
      t.req r = some { q with job := some s.nextJob } ∧ t.nextJob = s.nextJob + 1 ∧ Only [.jobs, .nextJob, .reqs] s t) ∧
  (∀ (s : State) (j e k : Nat) (b : Job) (q : Req) (p : Prog) (data aad : List Byte), s.job j = some b → s.req b.req = some q →
    s.readyJob j b = true → s.mayStart b = true → s.chip.thermalHold = false → b.poison = false → b.kind = .eight → b.home = some e →
    s.noUnitFor b = false → s.inputDenied b q (s.strokeLen b) = false → s.progs.get none b.prog = some p →
    b.dataOk q (s.strokeLen b) data aad = true →
    findFrom (fun k => (s.slot e k).job.isNone) 8 0 = some k → s.keyLost e b = false →
    Answers (exec (.strokeStart j data aad) s) fun t =>
      (t.slot e k).job = some j ∧ (t.slot e k).inData = data ∧ (t.slot e k).aadData = aad ∧
      (t.slot e k).inLeft = s.strokeLen b ∧ (t.slot e k).regs = coxRegs ∧
      (t.slot e k).dummyLevel = levelFor (s.eight e).dummyLevel (match b.keySlot with
        | some i => (s.kslot i).sca
        | none => 0) ∧
      (∀ n, n ≠ k → t.slot e n = s.slot e n) ∧ t.job j = some { b with running := true, faults := [] } ∧
      Only [.msh, .eights, .jobs, .out] s t) ∧
  (∀ (s : State) (j c : Nat) (b : Job) (q : Req) (data aad : List Byte), s.job j = some b → s.req b.req = some q →
    s.readyJob j b = true → s.mayStart b = true → s.chip.thermalHold = false → b.poison = false → b.kind = .quad →
    s.noUnitFor b = false → s.cellFor b = some c → (b.first = true → s.keyFailedNow b = false) →
    s.inputDenied b q (s.strokeLen b) = false → b.dataOk q (s.strokeLen b) data aad = true →
    Answers (exec (.strokeStart j data aad) s) fun t => (t.quad (c / 4)).busy.getLsbD (c % 4) = true ∧
      (∃ x, t.job j = some x ∧ x.running = true ∧ x.home = some c ∧ x.held = data) ∧
      Only [.msh, .quads, .jobs, .out] s t) ∧
  ∀ (s : State) (j i : Nat) (b : Job) (q : Req), s.job j = some b → s.req b.req = some q → s.readyJob j b = true →
    s.mayStart b = true → s.chip.thermalHold = false → b.poison = false → b.kind = .pair → b.fault = false →
    s.homeSlice b = some i → (s.slice i).running = none → Answers (exec (.strokeStart j [] []) s) fun t =>
      (t.slice i).running = some j ∧ (t.slice i).busy = true ∧ (t.slice i).bound = some (.domain b.domain) ∧ j ∈ (t.slice i).frames ∧
      Only [.chans, .jobs, .msh, .out, .slices] s t

/-- Strokes, segments and contexts end (R127, R139, R145, R148, R166, R238, R239, R252). -/
def Obligations.StrokesAndSegmentsEnd : Prop :=
  (∀ (s : State) (cell j : Nat) (js : List Nat) (b : Job) (q : Req) (c : Chan), cell < 16 →
    s.jobsWhere (fun b => b.kind == .quad && b.running && b.home == some cell) = j :: js → s.job j = some b →
    ReqLive s b.req q c → q.job = some j → q.abort = false → q.more = false → q.subop = 1 → q.typ = 2 →
    b.partDone + b.held.length = b.partLen → s.NoneDue (cell / 4) → Answers (exec (.strokeEnd (.cell cell) [] .none) s) fun t =>
      (t.mreg q.mreg).val = sha3_512 ((s.mreg q.mreg).val ++
        padTo 64 (digestOf q.alg b.dkey b.iv (b.absorbed ++ b.held) (if algXof q.alg then q.xof else 0))) ∧
      (t.mreg q.mreg).cnt = (s.mreg q.mreg).cnt + 1 ∧ (t.mreg q.mreg).acl = (s.mreg q.mreg).acl ∧
      (∀ n, n ≠ q.mreg → t.mreg n = s.mreg n) ∧ ReqEnds s t b.req q c { st := 0, r0 := q.mreg } ∧ t.job j = none ∧
      Only [.chans, .chip, .eights, .fns, .hdrs, .heat, .jobs, .meas, .msh, .out, .progs, .quads, .reqs, .slices] s t) ∧
  (∀ (s : State) (i ns n j : Nat) (b : Job), (s.slice i).running = some j → s.job j = some b →
    (∀ q, s.req b.req = some q → q.abort = false) → s.NoneDue (i / 2) → Answers (exec (.pkeSegmentEnd i ns n) s) fun t =>
      (t.slice i).running = none ∧ (t.slice i).busy = false ∧ (t.slice i).keyArea = [] ∧
      (t.slice i).busyNs = (s.slice i).busyNs + BitVec.ofNat 64 ns ∧
      (∃ x, t.job j = some x ∧ x.running = false ∧ x.busyNs = b.busyNs + ns ∧ x.segments = b.segments + 1 ∧
        x.yield = min n 2048 ∧ x.entries = ({ b with yield := min n 2048 } : Job).pkeEntries) ∧
      (b.faults ≠ [] → (t.hdr (.pke (i / 2))).status.getLsbD 0 = true) ∧
      t.msh.creditPair.get 0 b.domain = s.msh.creditPair.get 0 b.domain - (ns : Int) ∧
      Only [.chans, .chip, .fns, .hdrs, .heat, .jobs, .msh, .out, .slices] s t) ∧
  (∀ (s : State) (j : Nat) (b : Job), s.job j = some b → b.frame.isSome = true → b.resident = true →
    s.msh.entryWait.contains j = false → Answers (exec (.spillWriteSent j true) s) fun t =>
      t.job j = some { b with resident := false } ∧ t.msh.spillCnt = s.msh.spillCnt + BitVec.ofNat 64 b.entries ∧ Only [.jobs, .msh, .heat] s t) ∧
  ∀ (s : State) (j : Nat) (b : Job) (c : Chan) (data : List Byte), s.job j = some b → s.chan b.fn b.ch = some c → s.framesOf j ≠ [] →
    b.resident = false → Answers (exec (.frameReadback j data) s) fun t =>
      let bad := (s.framesOf j).filter fun kv => s.checkBlob (cut data (576 * kv.2.part) 576) false b.fn b.domain c.handle
        (some kv.2.seq) (some kv.2.blobCtr) != 0
      t.msh.fillCnt = s.msh.fillCnt + BitVec.ofNat 64 (s.framesOf j).length ∧
      (bad = [] → ∃ x, t.job j = some x ∧ (x.resident = true ∨ j ∈ t.msh.entryWait) ∧ x.frame = none ∧ x.entries = b.entries ∧ x.ctx = b.ctx) ∧
      (bad ≠ [] → (t.hdr .msh).status.getLsbD 9 = true) ∧
      Only [.chans, .chip, .eights, .fns, .hdrs, .heat, .jobs, .msh, .out, .progs, .quads, .reqs, .slices] s t

/-- Faults and alarms in a block (R12 to R14, R16, R44, R169, R264). `faultyCells`: the cells a CELL_FAULT names, the seats of an eight, else the cell itself. -/
def Obligations.CellFaultsAndBlockAlarms : Prop :=
  (∀ (s : State) (k : BlockKind) (u n j : Nat) (cells code : BitVec 8) (b : Job), s.aod.onCell = false →
    s.usable (blockPage k u) = true → s.unitJob k u n = some j → s.job j = some b → b.faults = [] → faultyCells k n cells ≠ [] →
    (∀ c, c ∈ faultyCells k n cells → s.within (s.lastFaultOf k u c) second = false) →
    Answers (exec (.cellFault k u n cells code) s) fun t =>
      t.job j = some { b with faults := faultyCells k n cells } ∧
      (∀ c, c ∈ faultyCells k n cells → t.lastFaultOf k u c = some s.now ∧ t.isIsolated k u c = s.isIsolated k u c) ∧
      (k = .eight → (t.hdr (.egt u)).status.getLsbD 8 = true ∧ t.slot u n = (s.slot u n).again b) ∧
      Only [.chip, .eights, .fns, .hdrs, .jobs, .out, .quads, .slices] s t) ∧
  (∀ (s : State) (k : BlockKind) (u n c j : Nat) (cells code : BitVec 8) (b : Job), s.aod.onCell = false →
    s.usable (blockPage k u) = true → s.unitJob k u n = some j → s.job j = some b → b.faults = [] → c ∈ faultyCells k n cells →
    (k = .quad → n < 4) → s.within (s.lastFaultOf k u c) second = true →
    Answers (exec (.cellFault k u n cells code) s) fun t => t.isIsolated k u c = true ∧ Only faultFields s t) ∧
  (∀ (s : State) (k : BlockKind) (u n j : Nat) (cells code : BitVec 8) (b : Job) (q : Req), s.aod.onCell = false →
    s.usable (blockPage k u) = true → s.unitJob k u n = some j → s.job j = some b → b.faults ≠ [] → faultyCells k n cells ≠ [] →
    s.req b.req = some q → q.job = some j → Answers (exec (.cellFault k u n cells code) s) fun t =>
      t.req b.req = none ∧ t.job j = none ∧
      ((s.hdr (blockPage k u)).errs.length + (faultyCells k n cells).length < 4 →
        ⟨0x84, 1, BitVec.ofNat 5 ((faultyCells k n cells).headD 0), s.aod.heatNo⟩ ∈ (t.hdr (blockPage k u)).errs) ∧
      (k = .eight → (t.eight u).keyCache = [] ∧ (t.hdr (.egt u)).status.getLsbD 10 = true) ∧ Only faultFields s t) ∧
  (∀ (s : State) (k : BlockKind) (u n sent : Nat) (code : BitVec 8) (d : BitVec 5), s.aod.onCell = false →
    s.usable (blockPage k u) = true → Answers (exec (.blockAlarm k u ⟨n, sent⟩ code d) s) fun t =>
      ((s.hdr (blockPage k u)).errs.length < 4 →
        ⟨code, errLevel (blockPage k u) code.toNat, d, s.aod.heatNo⟩ ∈ (t.hdr (blockPage k u)).errs) ∧
      (k = .eight → (t.eight u).keyCache = [] ∧ (t.hdr (.egt u)).status.getLsbD 10 = true) ∧
      (controlCode code.toNat = false → s.NoneDue (blockRegion k u) →
        ∀ k' u', blockPage k' u' ≠ blockPage k u → t.hdr (blockPage k' u') = s.hdr (blockPage k' u')) ∧
      Only faultFields s t) ∧
  ∀ (s : State) (u n c : Nat), s.aod.onCell = false → s.usable (.egt u) = true → (s.unitJob .eight u n).isSome = true →
    Answers (exec (.randomnessWaitTimeout .eight u n c) s) fun t => (t.hdr (.egt u)).status.getLsbD 12 = true ∧
      ((s.hdr (.egt u)).errs.length < 4 → ⟨0x88, 1, BitVec.ofNat 5 c, s.aod.heatNo⟩ ∈ (t.hdr (.egt u)).errs) ∧
      (t.eight u).keyCache = [] ∧ Only faultFields s t

/-- The commands that close a heat (R445 to R448, R453). -/
def Obligations.HeatCloseCommandsCloseTheHeat : Prop :=
  (∀ s : State, s.aod.onCell = false → s.closeHeld = false → s.heat.periodS ≠ 0 →
    (s.heat.inEn = false ∨ s.heat.fallback = true ∧ s.heat.inTimedOut = true) →
    Answers (exec .heatTimerExpiry s) fun t => HeatClosed s t (1 ||| s.heat.heldCause) ∧
      Only [.heat, .aod, .hdrs, .chip, .out, .fns, .ump] s t) ∧
  (∀ (s : State) (who : Requester), WriteOpen s who .heat → s.closeHeld = false →
    Answers (exec (.heatCtrlClose who) s) fun t => HeatClosed s t (4 ||| s.heat.heldCause) ∧
      Only [.heat, .aod, .hdrs, .chip, .out, .fns, .ump] s t) ∧
  (∀ (s : State) (who : Requester), WriteOpen s who .heat → s.closeHeld = true →
    Answers (exec (.heatCtrlClose who) s) fun t => t.heat = { s.heat with heldCause := s.heat.heldCause ||| 4 } ∧ Only [.heat] s t) ∧
  (∀ s : State, s.aod.onCell = false → s.heat.inEn = true → s.closeHeld = false →
    Answers (exec .heatInEdge s) fun t => HeatClosed s t (2 ||| s.heat.heldCause) ∧ t.heat.lastIn = s.now ∧ t.heat.inTimedOut = false ∧
      Only [.heat, .aod, .hdrs, .chip, .out, .fns, .ump] s t) ∧
  ∀ s : State, s.aod.onCell = false → s.heat.heldCause ≠ 0 →
    Answers (exec .heldCloseRelease s) fun t => HeatClosed s t s.heat.heldCause ∧
      Only [.heat, .aod, .hdrs, .chip, .out, .fns, .ump] s t

/-- The rest of the HEAT page's commands (R447, R448, R450, R451, R453). -/
def Obligations.HeatSignalsAndReports : Prop :=
  (∀ s : State, s.aod.onCell = false → s.heat.inEn = false → Answers (exec .heatInEdge s) fun t =>
    t.out = s.out ++ [.heatPulse] ∧ t.heat = { s.heat with lastIn := s.now, inTimedOut := false } ∧ Only [.heat, .out] s t) ∧
  (∀ s : State, s.aod.onCell = false → s.heat.inEn = true → s.heat.inTimeoutS ≠ 0 → Answers (exec .heatInTimeout s) fun t =>
    t.heat = { s.heat with inTimedOut := true } ∧ t.hdr .heat = (s.hdr .heat).raise (1#32 <<< 9) ∧
      Only [.heat, .hdrs, .chip, .out, .fns] s t) ∧
  (∀ (s : State) (b : Bool), s.aod.onCell = false → Answers (exec (.bankReady b) s) fun t =>
    t.heat.bankA.ready = (if b then s.heat.bankA.ready else s.heat.bankA.heat != 0) ∧
    t.heat.bankB.ready = (if b then s.heat.bankB.heat != 0 else s.heat.bankB.ready) ∧ Only [.heat] s t) ∧
  (∀ (s : State) (who : Requester) (v : W32), WriteOpen s who .heat →
    (s.hdr .heat).status.getLsbD 11 = false → Answers (exec (.heatRptTailWrite who v) s) fun t =>
      t.heat = { s.heat with rptTail := v } ∧ Only [.heat] s t) ∧
  ∀ (s : State) (h : BitVec 48) (d : Nat) (b : Bank), s.aod.onCell = false → s.heat.due.contains (h, d) = true →
    s.umpUp = true → s.chip.safeHold = false → s.chip.accReady = true → s.reportBank h = some b →
    Answers (exec (.heatReportWrite h d) s) fun t =>
      (if s.heat.ringFree < roundUp (16 + (s.reportBody b d).length + 4627) 64
       then t.heat = s.heat ∧ t.hdr .heat = (s.hdr .heat).raise (1#32 <<< 11)
       else t.heat.due = s.heat.due.filter (· != (h, d)) ∧ t.heat.rptTail = s.heat.rptTail ∧
         t.heat.rptHead.toNat = (s.heat.rptHead.toNat + roundUp (16 + (s.reportBody b d).length + 4627) 64) %
           (s.heat.rptKib.toNat * 1024) % 4294967296) ∧
      Only [.chans, .chip, .fns, .freeCtr, .hdrs, .heat, .jobs, .msh, .out, .slices] s t

/-- The requests that create and read keys (R115, R118, R276, R280, R289 to R294). -/
def Obligations.KeysAreCreatedAndRead : Prop :=
  (∀ (s : State) (r p : Nat) (data : List Byte) (q : Req) (c : Chan), ReqLive s r q c → q.typ = 4 → q.subop = 1 → q.admitted = true →
    q.keySlot = some p → s.keyDenied q false = false → data.length = q.inLen → algRsa (Tmpl.ofBytes data).alg = false → s.tmplOk (Tmpl.ofBytes data) p = true →
    Answers (exec (.keyDerive r data) s) fun t =>
      KeyMade s t r q c (Tmpl.ofBytes data) (s.kslot p).domain.toNat p (deriveMat (s.keyBytes p) (Tmpl.ofBytes data) data) ∧
      Only [.chans, .chip, .eights, .fns, .hdrs, .heat, .jobs, .klg, .kslots, .msh, .out, .progs, .quads, .reqs, .slices] s t) ∧
  (∀ (s : State) (r : Nat) (data : List Byte) (q : Req) (c : Chan), ReqLive s r q c → q.typ = 4 → q.subop = 2 → q.admitted = true →
    s.keyDenied q false = false → data.length = q.inLen → s.domIds.contains (bits q.op 11 0) = true → s.payloadOk (s.rootSlot (bits q.op 11 0)) data = true →
    Answers (exec (.keyWrite r data) s) fun t =>
      KeyMade s t r q c (Tmpl.ofBytes data) (bits q.op 11 0) (s.rootSlot (bits q.op 11 0)) (data.drop 24) ∧
      Only [.chans, .chip, .eights, .fns, .hdrs, .heat, .jobs, .klg, .kslots, .msh, .out, .progs, .quads, .reqs, .slices] s t) ∧
  (∀ (s : State) (r ns p : Nat) (data : List Byte) (q : Req) (c : Chan), ReqLive s r q c → q.typ = 4 → q.subop = 0 →
    q.admitted = true → s.keyDenied q false = false → blobFormatBad q data = false → leAt data 8 2 = q.domain →
    cut data 0x10 32 = List.replicate 32 0 ∨ cut data 0x10 32 = s.deviceId → (q.keySlot = none → s.noSlice = false) →
    p = q.keySlot.getD (s.rootSlot q.domain) → Answers (exec (.keyImport r data ns) s) fun t =>
      (match s.openBlob q data with
        | none => ReqEnds s t r q c { st := 0x40, detail := 0x13 }
        | some x =>
          if s.payloadOk p x then KeyMade s t r q c (Tmpl.ofBytes x) (s.kslot p).domain.toNat p (x.drop 24)
          else ReqEnds s t r q c { st := 0x32 }) ∧
      Only [.chans, .chip, .eights, .fns, .hdrs, .heat, .jobs, .klg, .kslots, .msh, .out, .progs, .quads, .reqs, .slices] s t) ∧
  ∀ (s : State) (r i a : Nat) (q : Req) (c : Chan), ReqLive s r q c → q.typ = 4 → q.subop = 4 → q.admitted = true →
    q.keySlot = some i → q.Bare → q.outR = [(a, 32)] → q.outClash = false → s.keyDenied q true = false → Answers (exec (.keyQuery r) s) fun t =>
      (∃ y : Tlp, y.pasid = c.tag ∧ OutEvent.dma q.fn y a (s.queryRecord i) ∈ t.out) ∧
      ReqEnds s t r q c { st := 0, r0 := if q.key = 0 then s.khandle i else q.handleOf.toNat } ∧
      Only [.chans, .fns, .heat, .msh, .out, .reqs] s t

/-- Invalidation of keys and the quotas (R115, R275, R287, R296, R300). -/
def Obligations.KeysAreInvalidated : Prop :=
  (∀ (s : State) (r i : Nat) (q : Req), s.req r = some q → q.typ = 4 → q.subop = 3 → q.admitted = true → q.keySlot = some i →
    s.isRoot i = false → (s.kslot i).state = .valid ∨ (s.kslot i).state = .failed → Answers (exec (.keyDestroy r) s) fun t =>
      (∀ j, j ∈ s.runOf i → (t.kslot j).state = .retiring) ∧ (∀ j, j ∉ s.runOf i → t.kslot j = s.kslot j) ∧
      (t.kslot i).drain = some (.request r) ∧ (t.kslot i).drained = false ∧ (t.kslot i).material = (s.kslot i).material ∧
      t.klg = { s.klg with invalidations := s.klg.invalidations + 1 } ∧ Only [.eights, .klg, .kslots] s t) ∧
  (∀ (s : State) (r i : Nat) (q : Req) (c : Chan), ReqLive s r q c → q.typ = 4 → q.subop = 3 → q.admitted = true → q.Bare →
    q.keySlot = some i → s.isRoot i = false → (s.kslot i).state = .orphaned → Answers (exec (.keyDestroy r) s) fun t =>
      (∀ j, j ∈ s.runOf i → t.kslot j = {}) ∧ (∀ j, j ∉ s.runOf i → t.kslot j = s.kslot j) ∧
      t.kfrees.get 0 i = s.kfrees.get 0 i + 1 ∧ ReqEnds s t r q c { st := 0, r0 := q.handleOf.toNat } ∧
      Only [.chans, .fns, .heat, .kfrees, .klg, .kslots, .msh, .out, .reqs] s t) ∧
  (∀ (s : State) (r i : Nat) (q : Req) (c : Chan), ReqLive s r q c → q.Bare → (s.kslot i).state = .retiring → s.headOf i = i →
    (s.kslot i).drained = false → s.loadedUnder i = false → (s.kslot i).drain = some (.request r) →
    Answers (exec (.invalidationDrainDone i) s) fun t =>
      t.kslot i = { s.kslot i with drained := true, drain := none } ∧ (∀ j, j ≠ i → t.kslot j = s.kslot j) ∧
      ReqEnds s t r q c { st := 0, r0 := q.handleOf.toNat } ∧ Only [.chans, .fns, .heat, .kslots, .msh, .out, .reqs] s t) ∧
  (∀ (s : State) (i d f sq : Nat) (id : BitVec 16), (s.kslot i).state = .retiring → s.headOf i = i →
    (s.kslot i).drained = false → s.loadedUnder i = false → (s.kslot i).drain = some (.admin f sq id) →
    (s.fn f).adm.busy = some (.destroyDomain d sq id) →
    s.denies f none ((s.fn f).adm.cqBase.toNat + 32 * (s.fn f).adm.cqTail) 32 true = false →
    Answers (exec (.invalidationDrainDone i) s) fun t =>
      t.kslot i = { s.kslot i with drained := true, drain := none } ∧ (∀ j, j ≠ i → t.kslot j = s.kslot j) ∧
      (∃ y : Tlp, OutEvent.admCqe f y ((s.fn f).adm.cqBase.toNat + 32 * (s.fn f).adm.cqTail)
        (admEntry sq id.toNat 0 0 0 0 0 (s.fn f).adm.sqHead (s.fn f).adm.phase) ∈ t.out) ∧ (t.fn f).adm.busy = none ∧
      Only [.fns, .kslots, .out] s t) ∧
  (∀ (s : State) (i : Nat), (s.kslot i).state = .retiring → s.headOf i = i → (s.kslot i).drained = true → s.usersOf i = [] →
    s.isRoot i = false → Answers (exec (.invalidationRelease i) s) fun t =>
      (∀ j, j ∈ s.runOf i → t.kslot j = {}) ∧ t.kfrees.get 0 i = s.kfrees.get 0 i + 1 ∧
      (∀ j, j ∉ s.runOf i → t.kslot j = (if j ∈ s.descendants i then
        { s.kslot j with
          material := []
          state := if (s.kslot j).state = .valid ∨ (s.kslot j).state = .failed then .orphaned else (s.kslot j).state }
        else s.kslot j)) ∧ t.domains = s.domains ∧ Only [.domains, .eights, .kfrees, .klg, .kslots] s t) ∧
  (∀ (s : State) (i : Nat) (x : Domain), (s.kslot i).state = .retiring → s.headOf i = i → (s.kslot i).drained = true →
    s.usersOf i = [] → s.isRoot i = true → s.domains.get none (s.kslot i).domain.toNat = some x → x.ending = true →
    Answers (exec (.invalidationRelease i) s) fun t =>
      t.kslot i = {} ∧ (∀ j, j ∈ s.domSlots (s.kslot i).domain.toNat → (s.kslot j).alg ≠ 0x38 → t.kslot j = {}) ∧
      t.domains.get none (s.kslot i).domain.toNat = none ∧
      (∀ d, d ≠ (s.kslot i).domain.toNat → t.domains.get none d = s.domains.get none d) ∧
      Only [.domains, .eights, .kfrees, .klg, .kslots] s t) ∧
  (∀ (s : State) (who : Requester) (v : W32), s.aod.onCell = false → who = .pf ∨ who = .umpire → s.chip.accReset = false →
    s.quarantined .klg = false → s.domIds.contains s.klg.quotaSel.toNat = true → Answers (exec (.klgQuotaWrite who v) s) fun t =>
      t.klg = { s.klg with quotaNew := s.klg.quotaNew.set none s.klg.quotaSel.toNat (some (v.setWidth 17)) } ∧ Only [.klg] s t) ∧
  ∀ s : State, s.klg.quotaNew ≠ [] → Answers (exec .quotaTableCopy s) fun t =>
    (∀ (d : Nat) (x : Domain) (v : BitVec 17), s.dom d = some x → (d, some v) ∈ s.klg.quotaNew →
      (∀ u, (d, u) ∈ s.klg.quotaNew → u = some v) → t.dom d = some { x with quota := v }) ∧
    (∀ d, (∀ u, (d, u) ∉ s.klg.quotaNew) → t.dom d = s.dom d) ∧ t.klg = { s.klg with quotaNew := [] } ∧
    Only [.domains, .klg, .store] s t

/-- The CTX requests (R116, R149 to R152, R222). -/
def Obligations.ContextsAreSavedAndRestored : Prop :=
  (∀ (s : State) (r : Nat) (q : Req) (c : Chan) (m : OpenMsg) (b : Job), ReqLive s r q c → q.typ = 5 → q.subop = 0 →
    q.admitted = true → q.job = none → c.openMsg = some m → s.job m.job = some b →
    s.rangesDenied q q.outR 0 (s.sealBlob b c.handle 0 1 (s.msh.blobCtr + 1) c.seq true true).length true = false →
    Answers (exec (.ctxSave r) s) fun t =>
      (∀ e, e ∈ (s.writeOut q 0 (s.sealBlob b c.handle 0 1 (s.msh.blobCtr + 1) c.seq true true)).out → e ∈ t.out) ∧
      (∃ x, t.chan q.fn q.ch = some x ∧ x.openMsg = none ∧ x.seq = c.seq + 1 ∧ x.lastSaved = some c.seq) ∧
      t.msh.saved.get none (chKey q.fn q.ch) = some b ∧ t.msh.blobCtr = s.msh.blobCtr + 1 ∧ t.job m.job = none ∧
      ReqEnds s t r q c { st := 0, r0 := c.seq % 4294967296 } ∧
      Only [.chans, .eights, .fns, .freeCtr, .heat, .jobs, .msh, .out, .progs, .quads, .reqs, .slices] s t) ∧
  (∀ (s : State) (r : Nat) (data : List Byte) (q : Req) (c : Chan) (b : Job), ReqLive s r q c → q.typ = 5 → q.subop = 1 →
    q.admitted = true → q.job = none → s.msh.saved.get none (chKey q.fn q.ch) = some b →
    (b.kind = .eight → (s.versionSlot b).isSome = true) → s.rangesDenied q q.inR 0 q.inLen false = false → Answers (exec (.ctxRestore r data) s) fun t =>
      let st := s.checkBlob data true q.fn q.domain c.handle c.lastSaved none
      (if st = 0 then
        (∃ x, t.job s.nextJob = some x ∧ x.kind = b.kind ∧ x.req = r ∧ x.ctx = b.ctx ∧ x.absorbed = b.absorbed ∧ x.done = b.done ∧
          x.version = b.version ∧ x.keySlot = b.keySlot ∧ x.running = false) ∧
        (∃ x, t.chan q.fn q.ch = some x ∧ x.openMsg = some { job := s.nextJob, digest := b.kind == .quad } ∧ x.lastSaved = none) ∧
        t.msh.saved.get none (chKey q.fn q.ch) = none ∧ ReqEnds s t r q c { st := 0, r0 := leAt data 0x18 4 }
      else t.msh.saved = s.msh.saved ∧ t.nextJob = s.nextJob ∧
        ReqEnds s t r q c { st := st, detail := if st = 0x10 then 0x21 else 0 }) ∧
      Only [.chans, .chip, .eights, .fns, .hdrs, .heat, .jobs, .msh, .nextJob, .out, .progs, .quads, .reqs, .slices] s t) ∧
  (∀ (s : State) (r : Nat) (q : Req) (c : Chan) (m : OpenMsg), ReqLive s r q c → q.typ = 5 → q.subop = 2 → q.admitted = true →
    q.job = none → c.openMsg = some m → m.lost = none → Answers (exec (.ctxDiscard r) s) fun t =>
      (∃ x, t.chan q.fn q.ch = some x ∧ x.openMsg = none ∧ x.seq = c.seq ∧ x.lastSaved = c.lastSaved) ∧ t.job m.job = none ∧
      t.msh.saved = s.msh.saved ∧ t.msh.blobCtr = s.msh.blobCtr ∧ ReqEnds s t r q c { st := 0 } ∧
      Only [.chans, .eights, .fns, .heat, .jobs, .msh, .out, .progs, .quads, .reqs, .slices] s t) ∧
  ∀ (s : State) (r : Nat) (q : Req) (c : Chan), ReqLive s r q c → q.typ = 5 → q.subop = 2 → q.admitted = true →
    q.Bare → c.openMsg = none → Answers (exec (.ctxDiscard r) s) fun t => ReqEnds s t r q c { st := 0 } ∧
      Only [.chans, .fns, .heat, .msh, .out, .reqs] s t

/-- The operand commands (R259, R263). PkeReady says when a command runs, PkeDone how it completes. -/
def Obligations.PkeOperandCommandsRun : Prop :=
  (∀ (s : State) (r : Nat) (x : PkeIn) (q : Req) (c : Chan) (j : Nat) (b : Job) (i : Nat), PkeReady s r x 0x0001 q c j b i →
    hdrOk x true false false false = true → Answers (exec (.load r x) s) fun t =>
      PkeDone s t r x q c j b i { dest := some (hdrAt x 0, some ⟨x.inp.drop 8, false⟩) }) ∧
  (∀ (s : State) (r : Nat) (x : PkeIn) (q : Req) (c : Chan) (j : Nat) (b : Job) (i k : Nat) (v : List Byte),
    PkeReady s r x 0x0002 q c j b i → hdrOk x true true false false = true → b.keySlot = some k →
    s.component k (hdrAt x 1) = some v → Answers (exec (.loadKey r x) s) fun t =>
      PkeDone s t r x q c j b i { dest := some (hdrAt x 0, some ⟨v, true⟩) }) ∧
  (∀ (s : State) (r : Nat) (x : PkeIn) (q : Req) (c : Chan) (j : Nat) (b : Job) (i : Nat) (v : Operand),
    PkeReady s r x 0x0003 q c j b i → hdrOk x false true false false = true → b.opAt (hdrAt x 1) = some v →
    v.taint = false → v.bytes.length = q.outLen → Answers (exec (.read r x) s) fun t =>
      PkeDone s t r x q c j b i { out := v.bytes }) ∧
  (∀ (s : State) (r : Nat) (x : PkeIn) (q : Req) (c : Chan) (j : Nat) (b : Job) (i : Nat) (v : Operand),
    PkeReady s r x 0x0003 q c j b i → hdrOk x false true false false = true → b.opAt (hdrAt x 1) = some v →
    v.taint = true → Answers (exec (.read r x) s) fun t => PkeDone s t r x q c j b i { st := 0x12 }) ∧
  (∀ (s : State) (r : Nat) (x : PkeIn) (q : Req) (c : Chan) (j : Nat) (b : Job) (i : Nat), PkeReady s r x 0x0004 q c j b i →
    hdrOk x true false false false = true → Answers (exec (.clear r x) s) fun t =>
      PkeDone s t r x q c j b i { dest := some (hdrAt x 0, none) }) ∧
  (∀ (s : State) (r : Nat) (x : PkeIn) (q : Req) (c : Chan) (j : Nat) (b : Job) (i : Nat) (u v m : Operand) (k : Nat),
    k ∈ [0x0010, 0x0011, 0x0012, 0x0014] → PkeReady s r x k q c j b i → hdrOk x true true true true = true →
    b.opAt (hdrAt x 1) = some u → b.opAt (hdrAt x 2) = some v → b.opAt (hdrAt x 3) = some m →
    ofBe m.bytes % 2 = 1 → 3 ≤ ofBe m.bytes → ofBe u.bytes < ofBe m.bytes → (k ≠ 0x0014 → ofBe v.bytes < ofBe m.bytes) →
    (k = 0x0014 → 0 < ofBe u.bytes) →
    Answers (exec (if k = 0x0010 then .modAdd r x else if k = 0x0011 then .modSub r x else if k = 0x0012 then .modMul r x else .modExp r x) s)
      fun t =>
        let n := ofBe m.bytes
        let w := if k = 0x0010 then (ofBe u.bytes + ofBe v.bytes) % n else if k = 0x0011 then (ofBe u.bytes + n - ofBe v.bytes) % n
          else if k = 0x0012 then ofBe u.bytes * ofBe v.bytes % n else ofBe u.bytes ^ ofBe v.bytes % n
        PkeDone s t r x q c j b i { dest := some (hdrAt x 0, some ⟨beBytes m.bytes.length w, u.taint || v.taint || m.taint⟩) }) ∧
  ∀ (s : State) (r : Nat) (x : PkeIn) (q : Req) (c : Chan) (j : Nat) (b : Job) (i : Nat) (u m : Operand),
    PkeReady s r x 0x0013 q c j b i → hdrOk x true true false true = true → b.opAt (hdrAt x 1) = some u →
    b.opAt (hdrAt x 3) = some m → ofBe m.bytes % 2 = 1 → 3 ≤ ofBe m.bytes → ofBe u.bytes < ofBe m.bytes →
    Answers (exec (.modInv r x) s) fun t =>
      match invMod (ofBe u.bytes) (ofBe m.bytes) with
      | some w => PkeDone s t r x q c j b i { dest := some (hdrAt x 0, some ⟨beBytes m.bytes.length w, u.taint || m.taint⟩) }
      | none => PkeDone s t r x q c j b i { st := 0x52 }

/-- The commands that use a key (R256 to R258, R263 to R265). The randomness stands as an existential: the spec leaves its value open (log entry 3), and the algorithms are those of the standards that R258 and R260 name (log entries 6 and 7). -/
def Obligations.PkeKeyCommandsRun : Prop :=
  (∀ (s : State) (r : Nat) (x : PkeIn) (q : Req) (c : Chan) (j : Nat) (b : Job) (i : Nat), PkeReady s r x 0x0100 q c j b i →
    Answers (exec (.pubkey r x) s) fun t => PkeDone s t r x q c j b i
      (if (s.publicKey q.set b).length = q.outLen then { out := s.publicKey q.set b } else { st := 0x20, detail := 2 })) ∧
  (∀ (s : State) (r : Nat) (x : PkeIn) (q : Req) (c : Chan) (j : Nat) (b : Job) (i : Nat), PkeReady s r x 0x0101 q c j b i →
    x.fault = false → Answers (exec (.ecdsaSign r x) s) fun t => ∃ k, 1 ≤ k ∧ k < (wCurve q.set).n ∧
      PkeDone s t r x q c j b i { out := ecdsaSign (wCurve q.set) (ofBe (s.pkeKey b)) k x.inp }) ∧
  (∀ (s : State) (r : Nat) (x : PkeIn) (q : Req) (c : Chan) (j : Nat) (b : Job) (i : Nat), PkeReady s r x 0x0102 q c j b i →
    Answers (exec (.ecdsaVerify r x) s) fun t =>
      let w := wCurve q.set
      let u := ofBe (cut x.inp (2 * w.len) w.len)
      let v := ofBe (cut x.inp (3 * w.len) w.len)
      PkeDone s t r x q c j b i (match wDecode w x.inp with
        | none => { st := 0x51 }
        | some p => if 0 < u ∧ u < w.n ∧ 0 < v ∧ v < w.n ∧ ecdsaCheck w (some p) u v (x.inp.drop (4 * w.len)) = true then {}
          else { st := 0x40 })) ∧
  (∀ (s : State) (r : Nat) (x : PkeIn) (q : Req) (c : Chan) (j : Nat) (b : Job) (i : Nat), PkeReady s r x 0x0103 q c j b i →
    Answers (exec (.ecdh r x) s) fun t => PkeDone s t r x q c j b i (match wDecode (wCurve q.set) x.inp with
      | none => { st := 0x51 }
      | some p => { out := (wEncode (wCurve q.set) (wMul (wCurve q.set) (ofBe (s.pkeKey b)) (some p))).take (wCurve q.set).len })) ∧
  (∀ (s : State) (r : Nat) (x : PkeIn) (q : Req) (c : Chan) (j : Nat) (b : Job) (i : Nat), PkeReady s r x 0x0110 q c j b i →
    x.fault = false → Answers (exec (.eddsaSign r x) s) fun t =>
      PkeDone s t r x q c j b i { out := eSign (eCurve q.set) (s.pkeKey b) x.aad x.inp }) ∧
  (∀ (s : State) (r : Nat) (x : PkeIn) (q : Req) (c : Chan) (j : Nat) (b : Job) (i : Nat), PkeReady s r x 0x0111 q c j b i →
    Answers (exec (.eddsaVerify r x) s) fun t =>
      let e := eCurve q.set
      PkeDone s t r x q c j b i (match eDecode e x.inp with
        | none => { st := 0x51 }
        | some p => if eVerify e (x.inp.take e.len) p (cut x.inp e.len (2 * e.len)) x.aad (x.inp.drop (3 * e.len)) = true then {}
          else { st := 0x40 })) ∧
  (∀ (s : State) (r : Nat) (x : PkeIn) (q : Req) (c : Chan) (j : Nat) (b : Job) (i : Nat), PkeReady s r x 0x0120 q c j b i →
    Answers (exec (.xdh r x) s) fun t =>
      let o := xdhOf q.set (s.pkeKey b) (xdhU q.set x.inp).1
      PkeDone s t r x q c j b i (if (xdhU q.set x.inp).2 ≤ (xdhU q.set x.inp).1 ∨ o.all (· == 0) = true then { st := 0x51 } else { out := o })) ∧
  (∀ (s : State) (r : Nat) (x : PkeIn) (q : Req) (c : Chan) (j : Nat) (b : Job) (i k : Nat), PkeReady s r x 0x0130 q c j b i →
    b.keySlot = some k → x.fault = false →
    (0 < ofBe x.inp → ofBe x.inp < s.rsaN k → powMod (rsaCrt (ofBe x.inp) (ofBe (s.rsaComp k 0)) (ofBe (s.rsaComp k 1))
      (ofBe (s.rsaComp k 2)) (ofBe (s.rsaComp k 3)) (ofBe (s.rsaComp k 4))) (ofBe ((s.kslot k).material.take 4)) (s.rsaN k) =
        ofBe x.inp) →
    Answers (exec (.rsaPriv r x) s) fun t =>
      let v := ofBe x.inp
      let d := fun n => ofBe (s.rsaComp k n)
      PkeDone s t r x q c j b i (if v = 0 ∨ d 0 * d 1 ≤ v then { st := 0x50 }
        else { out := beBytes (rsaK q.set) (rsaCrt v (d 0) (d 1) (d 2) (d 3) (d 4)) })) ∧
  (∀ (s : State) (r : Nat) (x : PkeIn) (q : Req) (c : Chan) (j : Nat) (b : Job) (i : Nat), PkeReady s r x 0x0131 q c j b i →
    Answers (exec (.rsaPub r x) s) fun t =>
      let k := rsaK q.set
      let n := ofBe (x.inp.take k)
      let e := ofBe (cut x.inp k 4)
      let v := ofBe (x.inp.drop (k + 4))
      PkeDone s t r x q c j b i (if n % 2 = 0 ∨ n < 3 ∨ e % 2 = 0 ∨ e < 3 ∨ v = 0 ∨ n ≤ v then { st := 0x50 }
        else { out := beBytes k (v ^ e % n) })) ∧
  (∀ (s : State) (r : Nat) (x : PkeIn) (q : Req) (c : Chan) (j : Nat) (b : Job) (i : Nat), PkeReady s r x 0x0140 q c j b i →
    x.fault = false → Answers (exec (.mldsaSign r x) s) fun t => ∃ rnd : List Byte,
      let g := mldsaSign (s.pkeKey b) x.inp x.aad rnd
      if mldsaVerify (mldsaPk (s.pkeKey b)) g.1 x.inp x.aad = true then PkeDone s t r x q c j b i { out := padTo 4627 g.1, iters := g.2 }
      else ReqEnds s t r q c (b.pkeFin i x.ns { st := 0x53 })) ∧
  (∀ (s : State) (r : Nat) (x : PkeIn) (q : Req) (c : Chan) (j : Nat) (b : Job) (i : Nat), PkeReady s r x 0x0141 q c j b i →
    x.fault = false → Answers (exec (.mldsaSignMu r x) s) fun t => ∃ rnd : List Byte,
      let g := mldsaSignMu (s.pkeKey b) x.inp rnd
      if mldsaVerifyMu (mldsaPk (s.pkeKey b)) g.1 x.inp = true then PkeDone s t r x q c j b i { out := padTo 4627 g.1, iters := g.2 }
      else ReqEnds s t r q c (b.pkeFin i x.ns { st := 0x53 })) ∧
  (∀ (s : State) (r : Nat) (x : PkeIn) (q : Req) (c : Chan) (j : Nat) (b : Job) (i : Nat), PkeReady s r x 0x0142 q c j b i →
    Answers (exec (.mldsaVerify r x) s) fun t => PkeDone s t r x q c j b i
      (if mldsaVerify (x.inp.take 2592) (cut x.inp 2592 4627) (x.inp.drop 7219) x.aad = true then {} else { st := 0x40 })) ∧
  (∀ (s : State) (r : Nat) (x : PkeIn) (q : Req) (c : Chan) (j : Nat) (b : Job) (i : Nat), PkeReady s r x 0x0150 q c j b i →
    Answers (exec (.mlkemEncaps r x) s) fun t => ∃ m : List Byte, PkeDone s t r x q c j b i
      (if mlkemEkOk x.inp = true then
        { out := padTo 32 (mlkemEncaps x.inp m).1 ++ padTo 1568 (mlkemEncaps x.inp m).2 } else { st := 0x50 })) ∧
  (∀ (s : State) (r : Nat) (x : PkeIn) (q : Req) (c : Chan) (j : Nat) (b : Job) (i : Nat), PkeReady s r x 0x0151 q c j b i →
    Answers (exec (.mlkemDecaps r x) s) fun t =>
      PkeDone s t r x q c j b i { out := padTo 32 (mlkemDecaps (s.pkeKey b) x.inp) }) ∧
  ∀ (s : State) (r : Nat) (x : PkeIn) (q : Req) (c : Chan) (j : Nat) (b : Job) (i k : Nat), k ∈ [0x0101, 0x0110, 0x0140, 0x0141] →
    PkeReady s r x k q c j b i → x.fault = true →
    Answers (exec (if k = 0x0101 then .ecdsaSign r x else if k = 0x0110 then .eddsaSign r x else if k = 0x0140 then .mldsaSign r x
      else .mldsaSignMu r x) s) fun t => ReqEnds s t r q c (b.pkeFin i x.ns { st := 0x53 })

/-- The modes of a slice and MAC mode (R249, R252, R255, R270). -/
def Obligations.MacModeOperationsRun : Prop :=
  (∀ (s : State) (who : Requester) (i : Nat) (mac : Bool), WriteOpen s who (.pke (i / 2)) → bit (s.hdr (.pke (i / 2))).lock (i % 2) = false →
    ¬(who = .pf ∧ mac = false ∧ (s.slice i).macOwnerPf = false) → Answers (exec (.modeWrite who i mac) s) fun t =>
      t.slice i = { s.slice i with mode := mac, macOwnerPf := who == .pf } ∧
      (∀ k, k ≠ i → t.slice k = s.slice k) ∧ Only [.slices] s t) ∧
  (∀ (s : State) (i : Nat), WriteOpen s .pf (.pke (i / 2)) → (s.slice i).macOwnerPf = false →
    Answers (exec (.modeWrite .pf i false) s) fun t => t.slices = s.slices ∧ Only [.chip, .fns, .hdrs, .out] s t) ∧
  (∀ (s : State) (i : Nat), (s.slice i).mode ≠ (s.slice i).modeActive → (s.slice i).running = none → s.usable (.pke (i / 2)) = true →
    Answers (exec (.modeChangeDone i) s) fun t =>
      t.slice i = { s.slice i with
        frames := [], busy := false, keyArea := [], w := [], wipes := (s.slice i).wipes + 1, modeActive := (s.slice i).mode
        bound := none, acc := 0, accTaint := false } ∧
      (∀ k, k ≠ i → t.slice k = { s.slice k with frames := (t.slice k).frames }) ∧ (t.hdr (.pke (i / 2))).status.getLsbD 12 = true ∧
      Only [.chans, .chip, .fns, .hdrs, .jobs, .msh, .out, .slices] s t) ∧
  (∀ (s : State) (who : Requester) (i : Nat) (a b : BitVec 13), MacReady s who i [] → Answers (exec (.macClear who i a b) s) fun t =>
    SliceOnly s t i fun x => { x with acc := 0, accTaint := false }) ∧
  (∀ (s : State) (who : Requester) (i : Nat) (a b : BitVec 13), MacReady s who i [a, b] → Answers (exec (.mulacc who i a b) s) fun t =>
    SliceOnly s t i fun x => { x with
      acc := BitVec.ofNat 1024 (x.acc.toNat + (x.word a).val.toNat * (x.word b).val.toNat)
      accTaint := x.accTaint || (x.word a).taint || (x.word b).taint }) ∧
  (∀ (s : State) (who : Requester) (i : Nat) (a b : BitVec 13), MacReady s who i [a] → Answers (exec (.addw who i a b) s) fun t =>
    SliceOnly s t i fun x => { x with
      acc := BitVec.ofNat 1024 (x.acc.toNat + (x.word a).val.toNat), accTaint := x.accTaint || (x.word a).taint }) ∧
  (∀ (s : State) (who : Requester) (i : Nat) (a b : BitVec 13), MacReady s who i [] → Answers (exec (.macShr who i a b) s) fun t =>
    SliceOnly s t i fun x => { x with acc := BitVec.ofNat 1024 (x.acc.toNat / 2 ^ 256) }) ∧
  (∀ (s : State) (who : Requester) (i : Nat) (a b : BitVec 13), MacReady s who i [a] → Answers (exec (.macStore who i a b) s) fun t =>
    SliceOnly s t i fun x => { x with w := x.w.set {} a.toNat ⟨BitVec.ofNat 256 x.acc.toNat, x.accTaint⟩ }) ∧
  (∀ (s : State) (who : Requester) (i : Nat) (a b : BitVec 13), MacReady s who i [a] → Answers (exec (.writew who i a b) s) fun t =>
    SliceOnly s t i fun x => { x with w := x.w.set {} a.toNat ⟨x.macData, false⟩ }) ∧
  (∀ (s : State) (who : Requester) (i : Nat) (a b : BitVec 13), MacReady s who i [a] → ((s.slice i).word a).taint = false →
    Answers (exec (.readw who i a b) s) fun t => SliceOnly s t i fun x => { x with macData := (x.word a).val }) ∧
  (∀ (s : State) (who : Requester) (i : Nat) (a b : BitVec 13), MacReady s who i [a] → ((s.slice i).word a).taint = true →
    Answers (exec (.readw who i a b) s) fun t =>
      t.slice i = { s.slice i with macError := false, macCause := 0, macData := 0 } ∧ (∀ k, k ≠ i → t.slice k = s.slice k) ∧
      t.hdr (.pke (i / 2)) = (s.hdr (.pke (i / 2))).raise (1#32 <<< (10 + i % 2)) ∧ Only [.chip, .fns, .hdrs, .out, .slices] s t) ∧
  (∀ (s : State) (i : Nat) (a b : BitVec 13), MacReady s .umpire i [a] → s.keyInvalid .umpire (s.slice i).macKey = false →
    hIndex (s.slice i).macKey < 256 → a.toNat + (macWords (s.wholeKey (hIndex (s.slice i).macKey))).length ≤ 7168 →
    Answers (exec (.loadkey .umpire i a b) s) fun t =>
      let ws := macWords (s.wholeKey (hIndex (s.slice i).macKey))
      (∀ k, k < ws.length → (t.slice i).w.get {} (a.toNat + k) = ⟨ws.getD k 0, true⟩) ∧
      (∀ n, n < a.toNat ∨ a.toNat + ws.length ≤ n → (t.slice i).w.get {} n = (s.slice i).w.get {} n) ∧
      (t.slice i).acc = (s.slice i).acc ∧ (t.slice i).macError = false ∧ (∀ k, k ≠ i → t.slice k = s.slice k) ∧ Only [.slices] s t) ∧
  ∀ (s : State) (i : Nat) (a b : BitVec 13), MacReady s .pf i [a] → Answers (exec (.loadkey .pf i a b) s) fun t =>
    t.slice i = { s.slice i with macError := true, macCause := 1 } ∧ (∀ k, k ≠ i → t.slice k = s.slice k) ∧ Only [.slices] s t

/-- Aborts (R267), the direct port (R245 to R247) and the access lists (R241, R244). -/
def Obligations.PkeAbortDirectPortAndAccessLists : Prop :=
  (∀ (s : State) (i j : Nat) (b : Job) (q : Req), WriteOpen s .umpire (.pke (i / 2)) → (s.slice i).running = some j →
    (∀ k, k ∈ (s.slice i).frames → k = j) → s.job j = some b → s.req b.req = some q → Answers (exec (.pkeAbort .umpire i) s) fun t =>
      t.req b.req = some { q with abort := true } ∧ (∀ r, r ≠ b.req → t.req r = s.req r) ∧ Only [.reqs] s t) ∧
  (∀ (s : State) (i j : Nat) (b : Job) (q : Req) (c : Chan), WriteOpen s .umpire (.pke (i / 2)) → (s.slice i).running = none →
    (s.slice i).frames = [j] → s.job j = some b → ReqLive s b.req q c → q.typ = 3 →
    Answers (exec (.pkeAbort .umpire i) s) fun t =>
      ReqEnds s t b.req q c { st := 0x70 } ∧ (t.slice i).frames = [] ∧ (t.slice i).w = [] ∧
      (t.slice i).wipes = (s.slice i).wipes + 1 ∧ (t.hdr (.pke (i / 2))).status.getLsbD 13 = true ∧
      Only [.chans, .chip, .eights, .fns, .hdrs, .heat, .jobs, .msh, .out, .progs, .quads, .reqs, .slices] s t) ∧
  (∀ (s : State) (r c : Nat), WriteOpen s .umpire (.qad r) → (s.quad r).dirBusy = false → s.freeCell r = some c →
    (∀ k, k < 4 → (s.quad k).direct = 0) → (∀ k, k < r → (s.quad k).dirBusy = false) →
    Answers (exec (.directStart .umpire r) s) fun t =>
      t.quad r = { s.quad r with
        dirBusy := true, dirDone := false, dirError := false, dirOut := [], direct := 1#4 <<< c } ∧
      (∀ k, k ≠ r → t.quad k = s.quad k) ∧ Only [.quads] s t) ∧
  (∀ (s : State) (r : Nat), WriteOpen s .umpire (.qad r) → (∀ k, k ≠ r → (s.quad k).dirBusy = false) → s.NoneDue r →
    Answers (exec (.directAbort .umpire r) s) fun t =>
    t.quad r = { s.quad r with dirBusy := false, dirDone := false, dirOut := [], direct := 0, dirFault := false } ∧
    (∀ k, k ≠ r → t.quad k = s.quad k) ∧ Only [.quads] s t) ∧
  (∀ (s : State) (who : Requester) (r k : Nat), WriteOpen s who (.qad r) → k < 8 → (s.quad r).dirDone = true →
    Answers (exec (.qadDirOutRead who r ⟨8 * k, 8⟩) s) fun t =>
      t.out = s.out ++ [.register (if who = .umpire then BitVec.ofNat 64 (leAt (s.quad r).dirOut (8 * k) 8) else 0)] ∧ Only [.out] s t) ∧
  (∀ (s : State) (who : Requester) (r k : Nat), WriteOpen s who (.qad r) → k < 8 → (s.quad r).dirDone = false →
    Answers (exec (.qadDirOutRead who r ⟨8 * k, 8⟩) s) fun t =>
      t.out.getLast? = some (.register 0) ∧ t.hdr (.qad r) = (s.hdr (.qad r)).raise (1#32 <<< 8) ∧
      Only [.chip, .fns, .hdrs, .out] s t) ∧
  (∀ (s : State) (n : Nat) (v : W64), WriteOpen s .umpire (.meas 1) → 32 ≤ n → n < 64 → bit (s.hdr (.meas 1)).lock 0 = false →
    (s.mreg n).cnt = 0 → Answers (exec (.measAclWrite .umpire n v) s) fun t =>
      (∀ k, k < 64 → (t.mreg n).acl.getLsbD k = (v.getLsbD k && (decide (k % 16 < 12) || decide (k % 16 = 15)))) ∧
      (t.mreg n).val = (s.mreg n).val ∧ (t.mreg n).cnt = 0 ∧ (∀ k, k ≠ n → t.mreg k = s.mreg k) ∧ Only [.meas] s t) ∧
  ∀ (s : State) (n : Nat) (v : W64), WriteOpen s .umpire (.meas 1) → 32 ≤ n → n < 64 → bit (s.hdr (.meas 1)).lock 0 = false →
    (s.mreg n).cnt ≠ 0 → Answers (exec (.measAclWrite .umpire n v) s) fun t =>
      t.meas = s.meas ∧ t.hdr (.meas 1) = (s.hdr (.meas 1)).raise (1#32 <<< 9) ∧ Only [.chip, .fns, .hdrs, .out] s t

/-- The operand modes (R187). -/
def Obligations.OperandModesFormAddresses : Prop :=
  ∀ (s : State) (c : Core) (sp : BitVec 8) (f : BitVec 18) (n : Nat), let r := s.coreRegs c
    let word := fun (a : BitVec 18) => Loc.mem r.dbk.toNat a.toNat
    let point := fun (v : BitVec 18) => s.modRegs c fun r => r.setPtr (spIdx sp) v
    (spMode sp = 0 → s.resolve1 c sp f n = if spIdx sp = 0 then .ok (word f, s) else .error .operand) ∧
    (spMode sp = 1 → spIdx sp < 16 → s.resolve1 c sp f n = .ok (word (r.ptr (spIdx sp)), s)) ∧
    (spMode sp = 2 → spIdx sp < 16 → s.resolve1 c sp f n =
      .ok (word (r.ptr (spIdx sp)), point (r.ptr (spIdx sp) + BitVec.ofNat 18 n))) ∧
    (spMode sp = 3 → spIdx sp < 16 → (spIdx sp = 15 → r.sl ≤ r.ptr 15 - BitVec.ofNat 18 n) → s.resolve1 c sp f n =
      .ok (word (r.ptr (spIdx sp) - BitVec.ofNat 18 n), point (r.ptr (spIdx sp) - BitVec.ofNat 18 n))) ∧
    (spMode sp = 4 → spIdx sp < 16 → s.resolve1 c sp f n =
      .ok (word (BitVec.ofInt 18 ((r.ptr (spIdx sp)).toNat + f.toInt)), s)) ∧
    (spMode sp = 5 → spIdx sp < 16 → s.resolve1 c sp f n = if 64 ≤ f.toNat then .error .operand else
      .ok (word (r.ptr (spIdx sp) + (r.ptr (f.toNat % 16) <<< ([0, 1, 2, 4] : List Nat).getD (f.toNat / 16) 0)), s)) ∧
    (spMode sp = 6 → s.resolve1 c sp f n = if spIdx sp = 0 then .ok (.imm (f.setWidth 128), s)
      else if spIdx sp = 1 then .ok (.imm (f.signExtend 128), s) else .error .operand) ∧
    (∀ v i z, s.writeLoc c (.imm v) i allLanes z = .error .operand) ∧
    (spMode sp = 7 → spIdx sp ≤ 28 → (c = .umpire → spIdx sp < 16) → s.resolve1 c sp f n = .ok (.special (spIdx sp), s)) ∧
    (∀ v, Pos.step (.dest v) n = (if v = true then n else 1) ∧ Pos.step (.src v) n = if v = true then n else 1) ∧
    ∀ p v, p ≠ spIdx sp → ((point v).coreRegs c).ptr p = r.ptr p

/-- Operands in a cox (R182, R188, R190, R199, R202). A vector operand is read or written element by element. -/
def Obligations.SourcesAndDestinationsOfACox : Prop :=
  ∀ (s : State) (e k : Nat), let c := Core.cox e k
    let t := s.slot e k
    (∀ a i, (a + i) % 262144 < 0x400 → s.readLoc c (.mem 0 a) i = .ok (t.win.get 0 ((a + i) % 262144), s)) ∧
    (∀ a i, (a + i) % 262144 < 0x100 → s.readLoc c (.mem 1 a) i = .ok (s.constAt e k ((a + i) % 262144), s)) ∧
    (∀ b a i, 1 < b ∨ b = 0 ∧ 0x400 ≤ (a + i) % 262144 ∨ b = 1 ∧ 0x100 ≤ (a + i) % 262144 →
      s.readLoc c (.mem b a) i = .error (.address (farAddr b ((a + i) % 262144)))) ∧
    (∀ a i v, (a + i) % 262144 < 0x400 → ∃ u, s.writeLoc c (.mem 0 a) i allLanes v = .ok u ∧
      ∀ w, (u.slot e k).win.get 0 w = if w = (a + i) % 262144 then v else t.win.get 0 w) ∧
    (∀ a i v, s.writeLoc c (.mem 1 a) i allLanes v = .error (.address (farAddr 1 ((a + i) % 262144)))) ∧
    (∀ v i, s.readLoc c (.imm v) i = .ok (v, s)) ∧
    (∀ n i, n < 16 → s.readLoc c (.special n) i = .ok ((t.regs.ptr n).setWidth 128, s)) ∧
    (∀ n i v, n < 16 → ∃ u, s.writeLoc c (.special n) i allLanes v = .ok u ∧
      ∀ p, p < 16 → (u.slot e k).regs.ptr p = if p = n then v.setWidth 18 else t.regs.ptr p) ∧
    (∀ i, ∃ v u, s.readLoc c (.special 24) i = .ok (v, u) ∧ u.slot e k = { t with inLeft := t.inLeft - 16 } ∧
      ∀ j, j < 16 → v.extractLsb' (8 * j) 8 = if j < t.inLeft then t.inData.getD (t.inData.length - t.inLeft + j) 0 else 0) ∧
    (∀ i, ∃ v u, s.readLoc c (.special 26) i = .ok (v, u) ∧ u.slot e k = { t with aadLeft := t.aadLeft - 16 } ∧
      ∀ j, j < 16 → v.extractLsb' (8 * j) 8 = if j < t.aadLeft then t.aadData.getD (t.aadData.length - t.aadLeft + j) 0 else 0) ∧
    (∀ i v, ∃ u, s.writeLoc c (.special 25) i allLanes v = .ok u ∧
      u.slot e k = { t with outBuf := t.outBuf ++ (wordBytes v).take (min 16 t.outLeft), outLeft := t.outLeft - 16 }) ∧
    (∀ i, ∃ v, s.readLoc c (.special 27) i = .ok (v, s) ∧
      ∀ j, j < 16 → v.extractLsb' (8 * j) 8 = if j < t.tagLen.toNat then t.tagIn.extractLsb' (8 * j) 8 else 0) ∧
    (∀ i v, ∃ u, s.writeLoc c (.special 27) i allLanes v = .ok u ∧ u.slot e k = { t with tagOut := some v }) ∧
    (∀ i, t.cbgFull = false → ∃ u, s.readLoc c (.special 28) i = .ok (t.cbg, u) ∧
      (cbgLow t.cbgCfg t.cbg + 1 = 2 ^ cbgWidth t.cbgCfg → u.slot e k = { t with cbgFull := true }) ∧
      (cbgLow t.cbgCfg t.cbg + 1 ≠ 2 ^ cbgWidth t.cbgCfg →
        cbgLow t.cbgCfg (u.slot e k).cbg = cbgLow t.cbgCfg t.cbg + 1 ∧
        ofBe (wordBytes (u.slot e k).cbg) / 2 ^ cbgWidth t.cbgCfg = ofBe (wordBytes t.cbg) / 2 ^ cbgWidth t.cbgCfg ∧
        (u.slot e k).cbgFull = false)) ∧
    (∀ i, t.cbgFull = true → s.readLoc c (.special 28) i = .error .counter) ∧
    ∀ i v, s.gcmOver t v = false → ∃ u, s.writeLoc c (.special 28) i allLanes v = .ok u ∧
      u.slot e k = { t with cbg := v, cbgFull := false }

/-- Isolation of cores (R181, R207). traernOps lists the commands that are instructions. -/
def Obligations.InstructionsStayInTheirCore : Prop :=
  (∀ (s s1 s2 : State) (e k op : Nat) (x : Enc) (r : OpInfo) (f : Body) (mk : Core → Enc → Instr), (op, mk) ∈ traernOps →
    bodyOf op = some f → Begins s s1 (.cox e k) op r x → s1.runBody op r (s1.atNow (.cox e k) r x) f = .ok s2 →
    Answers (exec (mk (.cox e k) x) s) fun t => t = s2 ∧ Only [.eights, .freeCtr] s t ∧
      (∀ e' k', (e', k') ≠ (e, k) → t.slot e' k' = s.slot e' k') ∧
      (t.slot e k).k0 = (s.slot e k).k0 ∧ (t.slot e k).k1 = (s.slot e k).k1 ∧ (t.slot e k).job = (s.slot e k).job) ∧
  ∀ (s : State) (op : Nat) (x : Enc) (mk : Core → Enc → Instr), (op, mk) ∈ traernOps → op ≠ 0x04 → op ≠ 0x05 →
    s.ump.regs.dbk = 0 → s.ump.regs.fld = [] → s.ump.regs.res = [] →
    Answers (exec (mk .umpire x) s) (Only [.dbg, .ump, .wdg] s)

/-- The vector instructions (R190 to R192). An operand that cannot be read or written is an operand of a trap. -/
def Obligations.VectorLogicAndArithmetic : Prop :=
  Completes 0x03 (EachV 0x03 fun b z => z = b) .mov ∧
  Completes 0x10 (EachVV 0x10 fun b c z => ∀ i, z.getLsbD i = (b.getLsbD i ^^ c.getLsbD i)) .xor ∧
  Completes 0x11 (EachVV 0x11 fun b c z => ∀ i, z.getLsbD i = (b.getLsbD i && c.getLsbD i)) .and ∧
  Completes 0x12 (EachVV 0x12 fun b c z => ∀ i, z.getLsbD i = (b.getLsbD i || c.getLsbD i)) .or ∧
  Completes 0x13 (EachVV 0x13 fun b c z => ∀ i, z.getLsbD i = (b.getLsbD i && !c.getLsbD i)) .andn ∧
  Completes 0x14 (fun i a d => ∃ (o : Abc) (b : Nat → Word) (u : State) (z : Word), a.abc 0x14 i = .ok o ∧
    ReadsAll i.c o.b i.vl o.s b u ∧
    (∀ j, z.getLsbD j = (((List.range i.vl).filter fun k => (b k).getLsbD j).length % 2 == 1)) ∧
    u.writeLoc i.c o.a 0 allLanes z = .ok d) .xred ∧
  Completes 0x20 (EachVV 0x20 (OnLanes 32 (· + ·))) .addW ∧ Completes 0x21 (EachVV 0x21 (OnLanes 64 (· + ·))) .addD ∧
  Completes 0x22 (EachVV 0x22 (OnLanes 128 (· + ·))) .addQ ∧ Completes 0x24 (EachVV 0x24 (OnLanes 32 (· - ·))) .subW ∧
  Completes 0x25 (EachVV 0x25 (OnLanes 64 (· - ·))) .subD ∧ Completes 0x26 (EachVV 0x26 (OnLanes 128 (· - ·))) .subQ ∧
  Completes 0x28 (EachVS 0x28 (OnLanesBy 32 (· <<< ·))) .shlW ∧ Completes 0x29 (EachVS 0x29 (OnLanesBy 64 (· <<< ·))) .shlD ∧
  Completes 0x2A (EachVS 0x2A (OnLanesBy 128 (· <<< ·))) .shlQ ∧ Completes 0x2C (EachVS 0x2C (OnLanesBy 32 (· >>> ·))) .shrW ∧
  Completes 0x2D (EachVS 0x2D (OnLanesBy 64 (· >>> ·))) .shrD ∧ Completes 0x2E (EachVS 0x2E (OnLanesBy 128 (· >>> ·))) .shrQ

/-- Bit fields and bytes (R193, R194). -/
def Obligations.BitFieldsAndBytesAreMoved : Prop :=
  Completes 0x30 (EachKeeping 0x30 fun old b c z => ∀ i, i < 128 → z.getLsbD i =
    if c.toNat % 128 ≤ i ∧ i ≤ c.toNat % 128 + c.toNat / 128 % 128 then b.getLsbD (i - c.toNat % 128) else old.getLsbD i) .bfi ∧
  Completes 0x31 (EachVS 0x31 fun b c z => ∀ i, i < 128 → z.getLsbD i =
    (decide (i ≤ c.toNat / 128 % 128) && b.getLsbD (i + c.toNat % 128))) .bfx ∧
  Completes 0x33 (EachVS 0x33 fun b c z => ∀ i, i < 16 → z.extractLsb' (8 * i) 8 =
    if c.getLsbD (8 * i + 7) then 0 else b.extractLsb' (8 * (c.extractLsb' (8 * i) 4).toNat) 8) .bperm ∧
  Completes 0x32 (EachV 0x32 fun b z => z.toNat ≤ 128 ∧ (∀ i, 128 - z.toNat ≤ i → b.getLsbD i = false) ∧
    (z.toNat < 128 → b.getLsbD (127 - z.toNat) = true)) .clz

/-- Control flow with a target field (R197), with what CALL (R201) and LOOP (R200) do besides. -/
def Obligations.BranchesJumpsCallsAndLoops : Prop :=
  (∀ row ∈ ([(0x50, .beq, fun p q => p = q), (0x51, .bne, fun p q => p ≠ q), (0x52, .blt, fun p q => p.toInt < q.toInt),
      (0x53, .bge, fun p q => q.toInt ≤ p.toInt), (0x54, .bltu, fun p q => p.toNat < q.toNat), (0x55, .bgeu, fun p q => q.toNat ≤ p.toNat),
      (0x56, .bbs, fun p q => p.getLsbD (q.toNat % 128) = true), (0x57, .bbc, fun p q => p.getLsbD (q.toNat % 128) = false)] :
      List (Nat × (Core → Enc → Instr) × (Word → Word → Prop))),
    ∀ (s s1 s2 t : State) (c : Core) (x : Enc) (r : OpInfo) (p q : Word), Begins s s1 c row.1 r x →
      (s1.count1 c).two row.1 (s1.atNow c r x) = .ok (p, q, s2) →
      (row.2.2 p q → MayArrive c (s1.atNow c r x).target →
        Answers (exec (row.2.1 c x) s) (Arrives c (s1.atNow c r x).target s2)) ∧
      (¬ row.2.2 p q → InSequence s1 s2 t (s1.atNow c r x) → exec (row.2.1 c x) s = .next t)) ∧
  (∀ i : At, i.target = i.pbk ++ BitVec.ofInt 18 (i.next.toNat + (Enc.ft i.x).toInt) ∧
    (Enc.ft i.x = 0 → i.target = i.pbk ++ i.next)) ∧
  (∀ (s s1 : State) (c : Core) (x : Enc) (r : OpInfo), Begins s s1 c 0x58 r x → MayArrive c (s1.atNow c r x).target →
    Answers (exec (.jmp c x) s) (Arrives c (s1.atNow c r x).target (s1.count1 c))) ∧
  (∀ (s s1 : State) (c : Core) (x : Enc) (r : OpInfo), Begins s s1 c 0x59 r x → MayArrive c (s1.atNow c r x).target →
    let q := s1.coreRegs c
    q.sl ≤ q.ptr 15 - 1 → WordOk c (q.ptr 15 - 1).toNat → Answers (exec (.call c x) s) fun t =>
      t.coreWord c (q.ptr 15 - 1).toNat = ((s1.pbkOf c) ++ (s1.atNow c r x).next).setWidth 128 ∧
      (∀ w, w ≠ (q.ptr 15 - 1).toNat → t.coreWord c w = s1.coreWord c w) ∧
      (t.coreRegs c).ptr 15 = q.ptr 15 - 1 ∧ (∀ n, n < 15 → (t.coreRegs c).ptr n = q.ptr n) ∧
      (t.coreRegs c).pc = (s1.atNow c r x).next + Enc.ft x ∧ (t.coreRegs c).ldepth = q.ldepth ∧ (t.coreRegs c).ls = q.ls ∧
      (t.coreRegs c).le = q.le ∧ (t.coreRegs c).lc = q.lc ∧ (t.coreRegs c).dbk = q.dbk ∧ (t.coreRegs c).sl = q.sl) ∧
  (∀ (s s1 s2 t : State) (c : Core) (x : Enc) (r : OpInfo) (o : Abc) (w : Word), Begins s s1 c 0x5B r x →
    (s1.count1 c).abc 0x5B (s1.atNow c r x) = .ok o → o.s.readLoc c o.a 0 = .ok (w, s2) →
    let d := (s2.coreRegs c).ldepth.toNat
    d < 3 → w.toNat % 4294967296 ≠ 0 →
    InSequence s1 (s2.modRegs c fun r' => { r' with
      lc := r'.lc.setIfInBounds d (w.setWidth 32), ls := r'.ls.setIfInBounds d (s1.atNow c r x).after
      le := r'.le.setIfInBounds d (s1.atNow c r x).target, ldepth := BitVec.ofNat 2 (d + 1) }) t (s1.atNow c r x) →
    exec (.loop c x) s = .next t) ∧
  ∀ (s s1 s2 : State) (c : Core) (x : Enc) (r : OpInfo) (o : Abc) (w : Word), Begins s s1 c 0x5B r x →
    (s1.count1 c).abc 0x5B (s1.atNow c r x) = .ok o → o.s.readLoc c o.a 0 = .ok (w, s2) →
    (s2.coreRegs c).ldepth.toNat < 3 → w.toNat % 4294967296 = 0 →
    let g : BitVec 18 := (s1.atNow c r x).next + Enc.ft x
    let a : BitVec 18 := g + BitVec.ofNat 18 (s2.fetchIns c (s1.pbkOf c) g.toNat).len
    MayArrive c (s1.pbkOf c ++ a) → Answers (exec (.loop c x) s) fun t =>
      (t.coreRegs c).pc = a ∧ (t.coreRegs c).ldepth = (s2.coreRegs c).ldepth ∧ (t.coreRegs c).lc = (s2.coreRegs c).lc ∧
      (t.coreRegs c).ls = (s2.coreRegs c).ls ∧ (t.coreRegs c).le = (s2.coreRegs c).le ∧ (t.coreRegs c).p = (s2.coreRegs c).p ∧
      ∀ v, t.coreWord c v = s2.coreWord c v

/-- Sequence, loop ends, returns and the privileged control flow (R200, R201, R210, R212). -/
def Obligations.SequenceLoopEndsReturnsAndUmpireControl : Prop :=
  Completes 0x00 (fun _ a d => d = a) .nop ∧
  (∀ (s s1 : State) (c : Core) (x : Enc) (r : OpInfo), Begins s s1 c 0x00 r x →
    let i := s1.atNow c r x
    let q := s1.coreRegs c
    let ends := fun (d : Nat) => (q.le[d]?).getD 0 = i.here
    let count := fun (d : Nat) => (q.lc[d]?).getD 0
    let start := fun (d : Nat) => (q.ls[d]?).getD 0
    (∀ d, q.ldepth.toNat = d → d = 0 ∨ ¬ ends (d - 1) → MayArrive c i.after → Answers (exec (.nop c x) s) fun t =>
      (t.coreRegs c).pc = i.next ∧ (t.coreRegs c).ldepth = q.ldepth ∧ (t.coreRegs c).lc = q.lc ∧ (t.coreRegs c).p = q.p) ∧
    (∀ d, q.ldepth.toNat = d + 1 → ends d → count d ≠ 1 → MayArrive c (start d) → Answers (exec (.nop c x) s) fun t =>
      (t.coreRegs c).pc = (start d).setWidth 18 ∧ (t.coreRegs c).ldepth = q.ldepth ∧
      (t.coreRegs c).lc = q.lc.setIfInBounds d (count d - 1) ∧ (t.coreRegs c).p = q.p) ∧
    (∀ d, q.ldepth.toNat = d + 1 → ends d → count d = 1 → d = 0 ∨ ¬ ends (d - 1) → MayArrive c i.after →
      Answers (exec (.nop c x) s) fun t => (t.coreRegs c).pc = i.next ∧ (t.coreRegs c).ldepth = BitVec.ofNat 2 d ∧
        (t.coreRegs c).p = q.p) ∧
    ∀ d, q.ldepth.toNat = d + 2 → ends (d + 1) → count (d + 1) = 1 → ends d → count d ≠ 1 → MayArrive c (start d) →
      Answers (exec (.nop c x) s) fun t => (t.coreRegs c).pc = (start d).setWidth 18 ∧
        (t.coreRegs c).ldepth = BitVec.ofNat 2 (d + 1) ∧ ((t.coreRegs c).lc[d]?).getD 0 = count d - 1 ∧ (t.coreRegs c).p = q.p) ∧
  (∀ (s s1 s2 : State) (c : Core) (x : Enc) (r : OpInfo) (w : Word), Begins s s1 c 0x5A r x →
    (s1.count1 c).memRead c 0 ((s1.coreRegs c).ptr 15).toNat = .ok (w, s2) →
    (c ≠ .umpire → w.extractLsb' 18 12 = s1.pbkOf c ∧ (w.extractLsb' 0 18).toNat < s1.codeLen c) → MayArrive c (w.setWidth 30) →
    Answers (exec (.ret c x) s)
      (Arrives c (w.setWidth 30) (s2.modRegs c fun q => q.setPtr 15 ((s1.coreRegs c).ptr 15 + 1)))) ∧
  (∀ (s s1 s2 : State) (x : Enc) (r : OpInfo) (o : Abc) (w : Word), Begins s s1 .umpire 0x60 r x →
    (s1.count1 .umpire).abc 0x60 (s1.atNow .umpire r x) = .ok o → o.s.readLoc .umpire o.a 0 = .ok (w, s2) →
    Answers (exec (.jmpi .umpire x) s) (Arrives .umpire (w.setWidth 30) s2)) ∧
  (∀ (s s1 s2 : State) (x : Enc) (r : OpInfo) (o : Abc) (w : Word), Begins s s1 .umpire 0x61 r x →
    (s1.count1 .umpire).abc 0x61 (s1.atNow .umpire r x) = .ok o → o.s.readLoc .umpire o.a 0 = .ok (w, s2) →
    let sp := s2.ump.regs.ptr 15 - 1
    s2.ump.regs.sl ≤ sp → Answers (exec (.calli .umpire x) s) fun t =>
      t.ump.sram.get 0 sp.toNat = (s1.ump.regs.pbk ++ (s1.atNow .umpire r x).next).setWidth 128 ∧
      (∀ v, v ≠ sp.toNat → t.ump.sram.get 0 v = s2.ump.sram.get 0 v) ∧ t.ump.regs.ptr 15 = sp ∧
      t.ump.regs.pbk ++ t.ump.regs.pc = w.setWidth 30 ∧ Only [.dbg, .ump, .wdg] s2 t) ∧
  (∀ (s s1 : State) (x : Enc) (r : OpInfo), Begins s s1 .umpire 0x62 r x →
    Answers (exec (.eret .umpire x) s)
      (Arrives .umpire s1.ump.epc ((s1.count1 .umpire).onUmp fun u => { u with ie := u.pie }))) ∧
  Completes 0x63 (fun _ a d => d = if (a.ipend &&& a.ump.ien != 0) = true then a else a.onUmp fun u => { u with waiting := true }) .wfi

/-- Far accesses (R203, R213) and special registers (R183, R211). -/
def Obligations.FarAccessesAndSpecialRegisters : Prop :=
  Completes 0x04 (fun i a d => ∃ (o : Abc) (p b : Word) (u v z : State) (val : Word) (ref : Option Nat), a.abc 0x04 i = .ok o ∧
    o.s.readLoc i.c o.b 0 = .ok (p, u) ∧ u.readLoc i.c o.c 0 = .ok (b, v) ∧ Loc.isDest o.a = true ∧
    v.farRead i.c (b.toNat % 4096) (p.toNat % 262144) = .ok (val, ref, z) ∧
    d = z.modRegs i.c fun q => { q with fld := q.fld ++ [match o.a with
      | .mem bank addr => { special := none, bank := bank, addr := addr, val := val, left := 2, pc := i.here, refused := ref }
      | .special n => { special := some n, bank := 0, addr := 0, val := val, left := 2, pc := i.here, refused := ref }
      | .imm _ => { special := none, bank := 0, addr := 0, val := val, left := 2, pc := i.here, refused := ref }] }) .fld ∧
  (∀ (s : State) (c : Core), ((s.count1 c).coreRegs c).fld = (s.coreRegs c).fld.map fun x => { x with left := x.left - 1 }) ∧
  (∀ (s s1 : State) (c : Core), (if c = .umpire then s.umpUp = true else s.coreLive c = true) → s.landDue c = .ok s1 →
    exec (.fldLand c) s = .next s1) ∧
  (∀ (s : State) (c : Core) (x : PendFld), (s.coreRegs c).fld = [x] → x.left = 0 → x.refused = none →
    (x.special = none → x.bank = 0 → WordOk c x.addr → ∃ t, s.landDue c = .ok t ∧ (t.coreRegs c).fld = [] ∧
      ∀ w, t.coreWord c w = if w = x.addr then x.val else s.coreWord c w) ∧
    ∀ n, x.special = some n → n < 16 → ∃ t, s.landDue c = .ok t ∧ (t.coreRegs c).fld = [] ∧
      ∀ p, p < 16 → (t.coreRegs c).ptr p = if p = n then x.val.setWidth 18 else (s.coreRegs c).ptr p) ∧
  Completes 0x05 (fun i a d => ∃ (o : Abc) (p z b : Word) (u v w : State), a.abc 0x05 i = .ok o ∧
    o.s.readLoc i.c o.a 0 = .ok (p, u) ∧ u.readLoc i.c o.b 0 = .ok (z, v) ∧ v.readLoc i.c o.c 0 = .ok (b, w) ∧
    w.memWrite i.c (b.toNat % 4096) (p.toNat % 262144) allLanes z = .ok d) .fst ∧
  Completes 0x06 (fun i a d => ∃ (o : Abc) (z m : Word) (u v : State), a.abc 0x06 i = .ok o ∧
    o.s.readLoc i.c o.b 0 = .ok (z, u) ∧ u.readLoc i.c o.c 0 = .ok (m, v) ∧
    ((∀ n, o.a ≠ .special n ∨ n < 16) ∧ v.writeLoc i.c o.a 0 (fun n => m.getLsbD n) z = .ok d ∨
      (∃ n, o.a = .special n ∧ 16 ≤ n) ∧ ∃ old w, v.oldLoc i.c o.a 0 = .ok (old, w) ∧
        w.writeLoc i.c o.a 0 allLanes (mergeLanes (fun n => m.getLsbD n) old z) = .ok d)) .stm ∧
  (∀ (s : State) (c : Core) (a : Nat) (sel : Nat → Bool) (v : Word), WordOk c a → ∃ t, s.memWrite c 0 a sel v = .ok t ∧
    (∀ n, n < 4 → (t.coreWord c a).extractLsb' (32 * n) 32 =
      if sel n = true then v.extractLsb' (32 * n) 32 else (s.coreWord c a).extractLsb' (32 * n) 32) ∧
    ∀ w, w ≠ a → t.coreWord c w = s.coreWord c w) ∧
  Completes 0x07 (fun i a d => ∃ (o : Abc) (n : Word) (u : State) (r : SrInfo), a.abc 0x07 i = .ok o ∧
    o.s.readLoc i.c o.c 0 = .ok (n, u) ∧ srUse i = true ∧ srOf i.c n.toNat = .ok r ∧
    u.writeLoc i.c o.a 0 allLanes (u.srValue i.c n.toNat) = .ok d) .mfsr ∧
  Completes 0x08 (fun i a d => ∃ (o : Abc) (v n : Word) (u w : State) (r : SrInfo), a.abc 0x08 i = .ok o ∧
    o.s.readLoc i.c o.b 0 = .ok (v, u) ∧ u.readLoc i.c o.c 0 = .ok (n, w) ∧ srUse i = true ∧ srOf i.c n.toNat = .ok r ∧
    (r.rw = true ∧ w.srStop i.c n.toNat v = none ∧ d = w.setSr i.c n.toNat v ∨ r.rw = false ∧ i.c = .umpire ∧ d = w)) .mtsr ∧
  (∀ (s : State) (c : Core) (n : Nat) (v : Word) (r : SrInfo), srOf c n = .ok r → r.rw = true →
    (s.setSr c n v).srValue c n = BitVec.ofNat 128 (v.toNat % 2 ^ r.width) ∧
    ∀ m q, srOf c m = .ok q → m ≠ n → (s.setSr c n v).srValue c m = s.srValue c m) ∧
  (∀ (s : State) (e k : Nat), let t := s.slot e k
    let c := Core.cox e k
    s.srValue c 0x00 = t.regs.dbk.setWidth 128 ∧ s.srValue c 0x02 = t.regs.sl.setWidth 128 ∧
    s.srValue c 0x03 = t.regs.ldepth.setWidth 128 ∧ s.srValue c 0x10 = t.cbgCfg.setWidth 128 ∧
    s.srValue c 0x20 = BitVec.ofNat 128 t.inLeft ∧ s.srValue c 0x21 = BitVec.ofNat 128 t.outLeft ∧
    s.srValue c 0x22 = BitVec.ofNat 128 t.aadLeft ∧ s.srValue c 0x23 = t.ivLen.setWidth 128 ∧
    s.srValue c 0x24 = t.tagLen.setWidth 128 ∧ s.srValue c 0x25 = t.param.setWidth 128 ∧
    s.srValue c 0x26 = t.msgFlags.setWidth 128 ∧ s.srValue c 0x27 = t.done.setWidth 128) ∧
  ∀ s : State, s.srValue .umpire 0x80 = s.ump.evb.setWidth 128 ∧ s.srValue .umpire 0x81 = s.ump.epc.setWidth 128 ∧
    s.srValue .umpire 0x82 = s.ump.cause.setWidth 128 ∧ s.srValue .umpire 0x83 = s.ump.eaddr.setWidth 128 ∧
    s.srValue .umpire 0x84 = s.ump.ien.setWidth 128 ∧ s.srValue .umpire 0x85 = s.ipend.setWidth 128 ∧
    s.srValue .umpire 0x86 = BitVec.ofNat 128 (b2n s.ump.ie + 2 * b2n s.ump.pie) ∧ s.srValue .umpire 0x87 = s.ump.scratch

/-- Seat and field-unit instructions, FENCE and END (R185, R195, R196, R198, R204). -/
def Obligations.SeatsFieldUnitsComparisonFenceAndEnd : Prop :=
  (∀ row ∈ ([(0x40, .enc, aesEncW), (0x41, .dec, aesDecW)] : List (Nat × (Core → Enc → Instr) × (List Byte → Word → Word))),
    Completes row.1 (fun i a d => ∃ (e k : Nat) (o : Abc) (key : List Byte) (bank p : Nat) (b : Nat → Word) (u : State),
      i.c = .cox e k ∧ a.abc row.1 i = .ok o ∧ o.a = .mem bank p ∧
      (spIdx i.x.opc = 16 ∧ (a.slot e k).k0 = some key ∨ spIdx i.x.opc = 17 ∧ (a.slot e k).k1 = some key) ∧
      ReadsAll i.c o.b i.vl o.s b u ∧
      d = (u.modRegs i.c fun q => { q with res := q.res ++ (List.range i.vl).map fun n =>
        { bank := bank, addr := (p + n) % 262144, val := row.2.2 key (b n) } }).seatWork e k i.vl) row.2.1) ∧
  (∀ (s : State) (e k n : Nat), let t := s.seatWork e k n
    Only [.eights, .freeCtr] s t ∧ (∀ e', e' ≠ e → t.eight e' = s.eight e') ∧ (∀ k', k' ≠ k → t.slot e k' = s.slot e k') ∧
    (t.eight e).blocks = (s.eight e).blocks + BitVec.ofNat 64 n ∧
    t.slot e k = { s.slot e k with
      seatOps := (s.slot e k).seatOps + n, dummySteps := (t.slot e k).dummySteps
      masked := decide ((s.slot e k).sca = 3) || (s.eight e).maskForce || s.chip.maskFallback } ∧
    (t.slot e k).dummySteps ≤ (s.slot e k).dummySteps + n * ([0, 2, 4, 8] : List Nat).getD (s.slot e k).dummyLevel.toNat 0) ∧
  (∀ row ∈ ([(0x42, .gfmulG, gfmulG), (0x43, .gfmulX, gfmulX)] : List (Nat × (Core → Enc → Instr) × (Word → Word → Word))),
    Completes row.1 (fun i a d => ∃ (o : Abc) (bank p : Nat) (b c : Nat → Word) (u v : State),
      a.abc row.1 i = .ok o ∧ o.a = .mem bank p ∧ ReadsAll i.c o.b i.vl o.s b u ∧ ReadsAll i.c o.c i.vl u c v ∧
      d = v.modRegs i.c fun q => { q with res := q.res ++ (List.range i.vl).map fun n =>
        { bank := bank, addr := (p + n) % 262144, val := row.2.2 (b n) (c n) } }) row.2.1) ∧
  Completes 0x44 (fun i a d => ∃ (e k : Nat) (o : Abc) (p q n : Word) (u v w : State), i.c = .cox e k ∧ a.abc 0x44 i = .ok o ∧
    o.s.readLoc i.c o.a 0 = .ok (p, u) ∧ u.readLoc i.c o.b 0 = .ok (q, v) ∧ v.readLoc i.c o.c 0 = .ok (n, w) ∧
    0 < n.toNat % 32 ∧ n.toNat % 32 ≤ 16 ∧
    d = w.modSlot e k fun t => { t with
      tcmpSeen := true
      tcmpOk := t.tcmpOk && decide (∀ j, j < n.toNat % 32 → p.extractLsb' (8 * j) 8 = q.extractLsb' (8 * j) 8) }) .tcmp ∧
  Completes 0x02 (fun i a d => a.landAll i.c = .ok d) .fence ∧
  (∀ (s : State) (e k : Nat), let q := (s.slot e k).regs
    q.fld = [] → (∀ x ∈ q.res, x.bank = 0 ∧ x.addr < 0x400) → ∃ d, s.landAll (.cox e k) = .ok d ∧ (d.slot e k).regs.res = [] ∧
      ∀ w, (d.slot e k).win.get 0 w =
        (((q.res.filter fun x => x.addr == w).getLast?).map fun x => x.val).getD ((s.slot e k).win.get 0 w)) ∧
  ∀ (s s1 u : State) (e k : Nat) (x : Enc) (r : OpInfo), Begins s s1 (.cox e k) 0x01 r x →
    (s1.count1 (.cox e k)).landAll (.cox e k) = .ok u → (u.slot e k).outLeft = 0 →
    Answers (exec (.end_ (.cox e k) x) s) fun t =>
      t.slot e k = { u.slot e k with
        ended := true, ctxOut := ((List.range 31).map fun n => (u.slot e k).win.get 0 n) ++ [(u.slot e k).cbg]
        win := [], regs := {}, cbgCfg := 0, cbg := 0, inLeft := 0, outLeft := 0, aadLeft := 0, ivLen := 0, tagLen := 0, param := 0
        msgFlags := 0, done := 0 } ∧
      (∀ e' k', (e', k') ≠ (e, k) → t.slot e' k' = u.slot e' k') ∧ Only [.eights] u t

/-- What ends an instruction (R212, R216), and reserved opcodes (R214), whose effect is a free value. -/
def Obligations.ProgramFaultsExceptionsAndReservedOpcodes : Prop :=
  (∀ (s s1 : State) (e k op : Nat) (x : Enc) (r : OpInfo) (f : Body) (mk : Core → Enc → Instr) (tr : Trap), (op, mk) ∈ traernOps →
    bodyOf op = some f → s.coreLive (.cox e k) = true → opInfo op = some r → s.landDue (.cox e k) = .ok s1 → s.Seated op →
    s1.runBody op r (s1.atNow (.cox e k) r x) f = .error tr → tr ≠ .counter →
    Answers (exec (mk (.cox e k) x) s) fun t => (t.eight e).keyCache = [] ∧ (t.hdr (.egt e)).status.getLsbD 10 = true ∧
      ((s.hdr (.egt e)).errs.length < 4 →
        ⟨0x8E, errLevel (.egt e) 0x8E, BitVec.ofNat 5 tr.detail, s.aod.heatNo⟩ ∈ (t.hdr (.egt e)).errs) ∧ Only faultFields s t) ∧
  (∀ (s : State) (e k : Nat), s.coreLive (.cox e k) = true → 1048576 ≤ (s.slot e k).instrs →
    Answers (exec (.instructionBudgetExceeded e k) s) fun t =>
      (t.eight e).keyCache = [] ∧ (t.hdr (.egt e)).status.getLsbD 10 = true ∧
      ((s.hdr (.egt e)).errs.length < 4 → ⟨0x8E, errLevel (.egt e) 0x8E, 8, s.aod.heatNo⟩ ∈ (t.hdr (.egt e)).errs) ∧
      Only faultFields s t) ∧
  (∀ (s s1 : State) (op : Nat) (x : Enc) (r : OpInfo) (f : Body) (mk : Core → Enc → Instr) (tr : Trap), (op, mk) ∈ traernOps →
    bodyOf op = some f → s.coreLive .umpire = true → opInfo op = some r → s.ump.regs.fld = [] → s.landDue .umpire = .ok s1 →
    s1.runBody op r (s1.atNow .umpire r x) f = .error tr → Answers (exec (mk .umpire x) s) fun t =>
      t.ump.epc = s.ump.regs.pbk ++ s.ump.regs.pc ∧ t.ump.cause = tr.cause ∧ t.ump.pie = s.ump.ie ∧ t.ump.ie = false ∧
      t.ump.regs.pbk ++ t.ump.regs.pc = s.ump.evb ∧ t.ump.regs.p = s.ump.regs.p ∧ t.ump.regs.lc = s.ump.regs.lc ∧
      t.ump.sram = s.ump.sram ∧ (∀ a, tr.eaddr = some a → t.ump.eaddr = BitVec.ofNat 30 a) ∧ Only [.dbg, .ump, .wdg] s t) ∧
  (∀ (s : State) (x : PendFld) (a : Nat), s.umpUp = true → s.ump.regs.fld = [x] → x.left = 0 → x.refused = some a → x.special = none →
    x.bank = 0 → x.addr < 262144 → Answers (exec (.fldLand .umpire) s) fun t =>
      t.ump.epc = x.pc ∧ t.ump.cause = 6 ∧ t.ump.eaddr = BitVec.ofNat 30 a ∧ t.ump.pie = s.ump.ie ∧ t.ump.ie = false ∧
      t.ump.regs.pbk ++ t.ump.regs.pc = s.ump.evb ∧ t.ump.regs.fld = [] ∧
      (∀ w, t.ump.sram.get 0 w = if w = x.addr then x.val else s.ump.sram.get 0 w) ∧ Only [.ump] s t) ∧
  (∀ s : State, s.umpUp = true → s.ump.ie = true → (s.ipend &&& s.ump.ien) ≠ 0 → s.ump.regs.fld = [] →
    Answers (exec .umpireInterrupt s) fun t =>
      t.ump.epc = s.ump.regs.pbk ++ s.ump.regs.pc ∧ t.ump.cause = 0x10 ∧ t.ump.pie = true ∧ t.ump.ie = false ∧
      t.ump.regs.pbk ++ t.ump.regs.pc = s.ump.evb ∧ t.ump.waiting = false ∧ t.ump.regs.p = s.ump.regs.p ∧
      t.ump.regs.lc = s.ump.regs.lc ∧ t.ump.regs.ldepth = s.ump.regs.ldepth ∧ t.ump.sram = s.ump.sram ∧
      Only [.dbg, .ump, .wdg] s t) ∧
  (∀ (s : State) (e k : Nat) (op : BitVec 8) (x : Enc), s.coreLive (.cox e k) = true → opInfo op.toNat = none →
    Answers (exec (.reservedOpcode (.cox e k) op x) s) fun t =>
      ((∃ d : BitVec 5, (s.hdr (.egt e)).errs.length < 4 →
          ⟨0x8E, errLevel (.egt e) 0x8E, d, s.aod.heatNo⟩ ∈ (t.hdr (.egt e)).errs) ∧ (t.eight e).keyCache = [] ∧ Only faultFields s t) ∨
      (Only [.eights, .freeCtr] s t ∧ (∀ e' k', (e', k') ≠ (e, k) → t.slot e' k' = s.slot e' k') ∧
        (t.slot e k).k0 = (s.slot e k).k0 ∧ (t.slot e k).k1 = (s.slot e k).k1 ∧ (t.slot e k).job = (s.slot e k).job)) ∧
  ∀ (s : State) (op : BitVec 8) (x : Enc), s.coreLive .umpire = true → opInfo op.toNat = none → s.ump.regs.dbk = 0 →
    s.ump.regs.fld = [] → Answers (exec (.reservedOpcode .umpire op x) s) fun t =>
      (∀ a, (0, a) ∉ s.addressed x → t.ump.sram.get 0 a = s.ump.sram.get 0 a) ∧ Only [.dbg, .freeCtr, .ump, .wdg] s t

/-- The forwarding of flash commands (R323 to R331). -/
def Obligations.FlashCommandsFollowTheirRule : Prop :=
  (∀ (s : State) (p : Bool) (op : BitVec 8) (addr k : Nat) (data : List Byte) (r : Rule), (s.fgt.port p).en = true → flashClass op = some 0 →
    Decides s p 0 (some ((s.fgt.port p).addrOf op addr)) k r → r.action = 0 ∨ r.action = 2 →
    Answers (exec (.flashRead p op addr data) s) fun t =>
      let a := (s.fgt.port p).addrOf op addr
      let room := r.limit.toNat + 1 - a
      (data.length ≤ room → t.out = s.out ++ [.flashDown p.toNat op (some (r.target a)) [] false, .flashUp p.toNat data] ∧ Only [.out] s t) ∧
      (room < data.length → OutEvent.flashDown p.toNat op (some (r.target a)) [] false ∈ t.out ∧
        t.out.getLast? = some (.flashUp p.toNat (data.take room ++ List.replicate (data.length - room) 0xFF)) ∧
        t.hdr .fgt = (s.hdr .fgt).raise (1#32 <<< 11) ∧ Only [.chip, .fns, .hdrs, .out] s t)) ∧
  (∀ (s : State) (p : Bool) (op : BitVec 8) (k : Nat) (data : List Byte) (r : Rule), (s.fgt.port p).en = true → flashClass op = some 1 →
    Decides s p 1 none k r → r.action = 0 ∨ r.action = 2 → Answers (exec (.flashStatus p op data) s) fun t =>
      t.out = s.out ++ [.flashDown p.toNat op none [] false, .flashUp p.toNat
        (if op = 0x05 then data.map fun b => (b &&& 0xFD) ||| (if (s.fgt.port p).held then 2 else 0) else data)] ∧ Only [.out] s t) ∧
  (∀ (s : State) (p : Bool) (op : BitVec 8) (addr k : Nat) (data : List Byte) (r : Rule), (s.fgt.port p).en = true → flashClass op = some 3 →
    Decides s p 3 (some ((s.fgt.port p).addrOf op addr)) k r → r.action = 0 ∨ r.action = 2 →
    Answers (exec (.flashProgram p op addr data) s) fun t =>
      t.out = s.out ++ [.flashDown p.toNat op (some (r.target ((s.fgt.port p).addrOf op addr))) data (s.fgt.port p).held] ∧
      t.fgt = s.fgt.modPort p (fun u => { u with held := false }) ∧ Only [.fgt, .out] s t) ∧
  (∀ (s : State) (p : Bool) (op : BitVec 8) (addr k n : Nat) (r : Rule), (s.fgt.port p).en = true → flashClass op = some 4 →
    Decides s p 4 (some ((s.fgt.port p).addrOf op addr)) k r → r.action = 0 ∨ r.action = 2 →
    n = (s.fgt.port p).eraseSize.get 0 op.toNat → n ≠ 0 → r.base.toNat ≤ (s.fgt.port p).addrOf op addr / n * n →
    (s.fgt.port p).addrOf op addr / n * n + n ≤ r.limit.toNat + 1 → Answers (exec (.flashErase p op addr) s) fun t =>
      t.out = s.out ++ [.flashDown p.toNat op (some (r.target ((s.fgt.port p).addrOf op addr))) [] (s.fgt.port p).held] ∧
      t.fgt = s.fgt.modPort p (fun u => { u with held := false }) ∧ Only [.fgt, .out] s t) ∧
  (∀ (s : State) (p : Bool) (op : BitVec 8) (k : Nat) (data : List Byte) (r : Rule), (s.fgt.port p).en = true → flashClass op = some 6 →
    Decides s p 6 none k r → r.action = 0 ∨ r.action = 2 → Answers (exec (.flashConfigWrite p op data) s) fun t =>
      t.out = s.out ++ [.flashDown p.toNat op none data (s.fgt.port p).held] ∧
      t.fgt = s.fgt.modPort p (fun u => { u with held := false }) ∧ Only [.fgt, .out] s t) ∧
  (∀ (s : State) (p : Bool) (op : BitVec 8) (k n : Nat) (r : Rule), n = 7 ∨ n = 8 → (s.fgt.port p).en = true → flashClass op = some n →
    Decides s p n none k r → r.action = 0 ∨ r.action = 2 →
    Answers (exec (if n = 7 then .flashSuspend p op else .flashReset p op) s) fun t =>
      t.out = s.out ++ [.flashDown p.toNat op none [] false] ∧ Only [.out] s t) ∧
  (∀ (s : State) (p : Bool) (op : BitVec 8) (addr : Nat) (data : List Byte), (s.fgt.port p).en = true → flashClass op = some 0 →
    ((∃ k r, Decides s p 0 (some ((s.fgt.port p).addrOf op addr)) k r ∧ r.action = 1) ∨
      ∀ kv, kv ∈ s.fgt.live → kv.2.covers p 0 (some ((s.fgt.port p).addrOf op addr)) = false) →
    Answers (exec (.flashRead p op addr data) s) fun t =>
      t.out.getLast? = some (.flashUp p.toNat (List.replicate data.length 0xFF)) ∧
      (∀ a o x d w, OutEvent.flashDown a o x d w ∈ t.out → OutEvent.flashDown a o x d w ∈ s.out) ∧
      t.fgt.deny0 = s.fgt.deny0 + (if p then 0 else 1) ∧ t.fgt.deny1 = s.fgt.deny1 + (if p then 1 else 0) ∧
      (t.hdr .fgt).status.getLsbD 8 = true ∧ Only [.chip, .fgt, .fns, .freeCtr, .hdrs, .out] s t) ∧
  ∀ (s : State) (p : Bool) (op : BitVec 8) (addr : Nat) (data : List Byte), (s.fgt.port p).en = true → flashClass op = some 3 →
    ((∃ k r, Decides s p 3 (some ((s.fgt.port p).addrOf op addr)) k r ∧ r.action = 1) ∨
      ∀ kv, kv ∈ s.fgt.live → kv.2.covers p 3 (some ((s.fgt.port p).addrOf op addr)) = false) →
    Answers (exec (.flashProgram p op addr data) s) fun t =>
      (∀ a o x d w, OutEvent.flashDown a o x d w ∈ t.out → OutEvent.flashDown a o x d w ∈ s.out) ∧
      t.fgt.deny0 = s.fgt.deny0 + (if p then 0 else 1) ∧ t.fgt.deny1 = s.fgt.deny1 + (if p then 1 else 0) ∧
      (t.fgt.port p).held = false ∧ t.fgt.live = s.fgt.live ∧ Only [.chip, .fgt, .fns, .freeCtr, .hdrs, .out] s t

/-- The GATE class and what is always refused (R326 to R328, R340). -/
def Obligations.FlashCommandsTheGateAnswers : Prop :=
  (∀ (s : State) (p : Bool), (s.fgt.port p).en = true → Answers (exec (.flashRdid p) s) fun t =>
    t.out = s.out ++ [.flashUp p.toNat ((s.fgt.port p).idBytes.take 3)] ∧ Only [.out] s t) ∧
  (∀ (s : State) (p : Bool) (addr len : Nat), (s.fgt.port p).en = true → Answers (exec (.flashSfdp p addr len) s) fun t =>
    ∃ d, t.out = s.out ++ [.flashUp p.toNat d] ∧ d.length = len ∧
      (∀ k, k < len → d.getD k 0 = sfdpByte (s.fgt.port p).sfdp (s.fgt.port p).profile.toNat (addr + k)) ∧ Only [.out] s t) ∧
  (∀ (s : State) (p : Bool), (s.fgt.port p).en = true →
    (Answers (exec (.flashWriteEnable p) s) fun t => t.fgt = s.fgt.modPort p (fun u => { u with held := true }) ∧ Only [.fgt] s t) ∧
    (Answers (exec (.flashWriteDisable p) s) fun t => t.fgt = s.fgt.modPort p (fun u => { u with held := false }) ∧ Only [.fgt] s t) ∧
    (Answers (exec (.flashEnter4b p) s) fun t => t.fgt = s.fgt.modPort p (fun u => { u with addr4 := true }) ∧ Only [.fgt] s t) ∧
    Answers (exec (.flashExit4b p) s) fun t => t.fgt = s.fgt.modPort p (fun u => { u with addr4 := false }) ∧ Only [.fgt] s t) ∧
  (∀ (s : State) (p : Bool), exec (.flashPowerDown p) s = .next s ∧ exec (.flashReleasePowerDown p) s = .next s) ∧
  (∀ (s : State) (p : Bool) (op : BitVec 8), (s.fgt.port p).en = true → flashClass op = some 5 → s.fgt.log.length < 64 →
    Answers (exec (.flashChipErase p op) s) fun t =>
      (∃ e : FLog, t.fgt.log = s.fgt.log ++ [e] ∧ e.addr = 0 ∧ e.opcode = op ∧ e.port = p ∧ e.outcome = 1 ∧ e.ticks = s.aod.rtc) ∧
      t.fgt.deny0 = s.fgt.deny0 + (if p then 0 else 1) ∧ t.fgt.deny1 = s.fgt.deny1 + (if p then 1 else 0) ∧
      (∀ a o x d w, OutEvent.flashDown a o x d w ∈ t.out → OutEvent.flashDown a o x d w ∈ s.out) ∧
      (t.hdr .fgt).status.getLsbD 8 = true ∧ Only [.chip, .fgt, .fns, .freeCtr, .hdrs, .out] s t) ∧
  (∀ (s : State) (p : Bool) (op : BitVec 8), (s.fgt.port p).en = true → s.fgt.log.length < 64 →
    Answers (exec (.flashUnknownOp p op) s) fun t =>
      (∃ e : FLog, t.fgt.log = s.fgt.log ++ [e] ∧ e.addr = 0 ∧ e.opcode = op ∧ e.port = p ∧ e.outcome = 3 ∧ e.ticks = s.aod.rtc) ∧
      t.fgt.unknown = s.fgt.unknown + 1 ∧ (t.hdr .fgt).status.getLsbD 9 = true ∧
      Only [.chip, .fgt, .fns, .freeCtr, .hdrs, .out] s t) ∧
  ∀ (s : State) (p : Bool) (op : BitVec 8), (s.fgt.port p).en = true → 64 ≤ s.fgt.log.length →
    Answers (exec (.flashUnknownOp p op) s) fun t =>
      t.fgt.log = s.fgt.log ∧ t.fgt.lost.toNat = min (s.fgt.lost.toNat + 1) 65535 ∧ (t.hdr .fgt).status.getLsbD 10 = true ∧
      t.fgt.unknown = s.fgt.unknown + 1

/-- Banks, enables and the log (R324, R335 to R340). -/
def Obligations.GateBanksAndPorts : Prop :=
  (∀ s : State, s.aod.onCell = false → s.fgt.frozen = false → Answers (exec .fgtSwap s) fun t =>
    t.fgt = { s.fgt with swapPending := true } ∧ Only [.fgt] s t) ∧
  (∀ s : State, s.fgt.swapPending = true → s.fgt.frozen = false → Answers (exec .bankSwap s) fun t =>
    t.fgt.live = s.fgt.shadow ∧ t.fgt.shadow = s.fgt.live ∧ t.fgt.liveBank = !s.fgt.liveBank ∧ t.fgt.swapPending = false ∧
    t.fgt.u0.held = false ∧ t.fgt.u1.held = false ∧ t.fgt.u0.en = s.fgt.u0.en ∧ t.fgt.u1.en = s.fgt.u1.en ∧ t.fgt.log = s.fgt.log ∧
    (∀ k, t.fgt.latchedSet.get {} k = latchRule (s.fgt.shadow.get {} k)) ∧
    t.hdr .fgt = (s.hdr .fgt).raise (1#32 <<< 13) ∧ Only [.chip, .fgt, .fns, .hdrs, .out] s t) ∧
  (∀ s : State, s.fgt.frozen = true → exec .fgtSwap s = .next s ∧ exec .bankSwap s = .next s) ∧
  (∀ (s : State) (a b : Bool), s.aod.onCell = false → Answers (exec (.portEnableWrite a b) s) fun t =>
    t.fgt = { s.fgt with
      u0 := { s.fgt.u0 with
        en := if a && s.fgt.u0.umpireOp then s.fgt.u0.en else a
        enDeferred := a && s.fgt.u0.umpireOp }
      u1 := { s.fgt.u1 with
        en := if b && s.fgt.u1.umpireOp then s.fgt.u1.en else b
        enDeferred := b && s.fgt.u1.umpireOp } } ∧ Only [.fgt] s t) ∧
  (∀ (s : State) (p : Bool), Answers (exec (.downstreamFlashOperationDone p) s) fun t =>
    t.fgt.port p = { s.fgt.port p with
      umpireOp := false
      en := (s.fgt.port p).en || (s.fgt.port p).enDeferred
      enDeferred := false } ∧
    t.fgt.port (!p) = s.fgt.port (!p) ∧ t.fgt.log = s.fgt.log ∧ t.fgt.live = s.fgt.live ∧ Only [.fgt] s t) ∧
  ∀ (s : State) (e : FLog) (l : List FLog), s.fgt.log = e :: l → Answers (exec .logEntryRead s) fun t =>
    t.fgt = { s.fgt with log := l } ∧
    (∃ v : Ev, t.ump.events = (s.ump.events ++ [v]).drop (s.ump.events.length - 4095) ∧ v.page = 0x14 ∧ v.code = e.opcode ∧
      v.ticks = s.aod.rtc) ∧ Only [.fgt, .ump] s t

/-- Starts and their ends (R20, R21, R285, R306, R463), and the direct port (R246, R316). The digest is the model's SHA-3. -/
def Obligations.PowerResetCompletionAndDirectJobs : Prop :=
  (∀ (s : State) (perstLow crystal : Bool) (d0 d1 : Part) (stim : List Nat), s.aod.onCell = true →
    Answers (exec (.powerGood perstLow crystal d0 d1 stim) s) fun t => t.aod.onCell = false ∧ t.chip.accReset = true ∧
      t.chip.accReady = false ∧ t.pcie.perstLow = perstLow ∧ t.chans = [] ∧ t.reqs = [] ∧
      t.ump.running = !t.ump.romRecovery ∧ (s.aod.lost = false → t.aod.bootLow.toNat = min (s.aod.bootLow.toNat + 1) 0xFFFFFF) ∧
      (t.ump.running = true → (t.mreg 2).cnt = 1 ∧
        (t.mreg 2).val = sha3_512 (List.replicate 64 0 ++ padTo 64 t.ump.fwDigest))) ∧
  (∀ s : State, s.aod.onCell = false → Answers (exec .mainPowerLoss s) fun t => t.aod.onCell = true ∧ t.aod.rtc = s.aod.rtc ∧
    t.aod.serviceRoot = s.aod.serviceRoot ∧ (s.lcs.trans = none → t.otp = s.otp) ∧ t.store = s.store ∧
    t.lcs = { state := s.lcs.state } ∧
    (∀ i, s.aod.logSlot false = some i → ∃ r, t.aod.log.get none i = some r ∧ r.source = 0x11 ∧ r.seq = s.aod.seqNext) ∧
    (∀ p, aodKey (pageKey p) = false → t.hdr p = {}) ∧ t.hdr .evidence = s.hdr .evidence ∧ t.chip = {} ∧ t.pcie = {} ∧ t.chans = [] ∧ t.reqs = [] ∧ t.jobs = [] ∧ t.eights = [] ∧ t.quads = [] ∧
    t.slices = [] ∧ t.kslots = [] ∧ t.domains = [] ∧ t.meas = [] ∧ t.psq = {} ∧ t.fgt = {} ∧ t.dbg = {} ∧
    t.ump = { eventCopy := s.ump.eventCopy }) ∧
  (∀ s : State, s.aod.onCell = false → s.chip.accReset = true → s.ump.running = true → s.scrapped = false →
    Answers (exec (.accResetComplete true) s) fun t => t.chip.accReady = true ∧ t.chip.accReset = false ∧ t.klg.rootsReady = true ∧
      (s.jobs = [] → s.nDoms < s.nSlots → t.kslot 0 = internalSlot 0x18 0x40 0 s.kdrBytes) ∧ t.aod = s.aod ∧ t.otp = s.otp) ∧
  (∀ s : State, s.aod.onCell = false → s.chip.accReset = true → s.ump.running = true → s.scrapped = false →
    Answers (exec (.accResetComplete false) s) fun t =>
      .uncorrectableInternal ∈ (t.fn 0).cfg.aerStatus ∧ OutEvent.errFatal ∈ t.out ∧
      ((s.fn 0).cfg.aerMask.contains .uncorrectableInternal = false → OutEvent.aer 0 .uncorrectableInternal true ∈ t.out) ∧
      Only [.fns, .out] s t) ∧
  (∀ (s : State) (r : Nat) (flash : Option (List Byte)), (s.quad r).dirBusy = true → (s.quad r).direct ≠ 0 →
    (s.quad r).dirFault = false → s.NoneDue r → s.psq.verifying = none ∨ r ≠ 0 ∨ s.ump.running = false → Answers (exec (.directDone r flash) s) fun t =>
      (t.quad r).dirBusy = false ∧ Only [.chip, .fns, .hdrs, .meas, .out, .quads] s t ∧
      match s.dirResult (s.quad r) flash with
      | .ok d => (t.quad r).dirDone = true ∧ (t.quad r).dirCode = 0 ∧ (t.quad r).dirOut = padTo 64 d ∧
          if (s.quad r).dirExtend = true then ∀ n, n = (s.quad r).dirMreg.toNat →
            (t.mreg n).val = sha3_512 ((s.mreg n).val ++ padTo 64 d) ∧ (t.mreg n).cnt = (s.mreg n).cnt + 1
          else t.meas = s.meas
      | .error e => (t.quad r).dirError = true ∧ (t.quad r).dirCode = BitVec.ofNat 8 e ∧ t.meas = s.meas ∧
          (t.hdr (.qad r)).status.getLsbD 9 = true) ∧
  ∀ (s : State) (flash : Option (List Byte)) (k : Nat) (b : Bool) (e : Entry), (s.quad 0).dirBusy = true → s.ump.running = true →
    (s.quad 0).direct ≠ 0 → (s.quad 0).dirFault = false → s.NoneDue 0 → s.psq.verifying = some (k, b) → s.verEntry k = some e → (s.quad 0).dirExtend = false →
    (s.quad 0).dirError = false → Answers (exec (.directDone 0 flash) s) fun t =>
      match s.dirResult (s.quad 0) flash with
      | .ok d =>
          if padTo 64 d = e.digest then t.entState k = (if b = true then EntryState.copyB else .copyA) ∧
            ∀ n, n = e.mreg.toNat → (t.mreg n).val = sha3_512 ((s.mreg n).val ++ padTo 64 e.digest) ∧
              (t.mreg n).cnt = (s.mreg n).cnt + 1
          else (t.hdr .psq).status.getLsbD 10 = true ∧ (b = false → e.alt = true → t.psq.verifying = some (k, true) ∧
            t.psq.code = 0x10 ∧ t.meas = s.meas)
      | .error _ => (t.hdr .psq).status.getLsbD 10 = true

/-- Power steps and power-good inputs (R302, R313, R319), and the counters (R309). -/
def Obligations.PowerSequencingAndCounters : Prop :=
  (∀ (s : State) (i : Nat), i < 8 → s.aod.onCell = false → Answers (exec (.pgoodRise i) s) fun t => t.psq.level.getLsbD i = true ∧
    (s.ump.running = false → Only [.psq] s t ∧ t.psq.stepAt = s.psq.stepAt ∧ t.psq.pwr = s.psq.pwr ∧ t.psq.prst = s.psq.prst) ∧
    ∀ ph k x m, ph < 3 → s.ump.running = true → s.waitsFor i ph = some k → s.phaseMan ph = some m → m.steps[k]? = some x →
      x.delayMs ≠ 0 → t.psq.stepAt.get none ph = some (k, true)) ∧
  (∀ (s : State) (ph k : Nat) (m : Manifest), ph < 3 → s.ump.running = true → s.psq.stepAt.get none ph = some (k, true) →
    s.phaseMan ph = some m → Answers (exec (.powerStepDelayExpiry ph) s) fun t =>
      match (m.phaseSteps ph).filter fun x => decide (k < x.1) with
      | [] => t.psq.phaseDone.getLsbD ph = true ∧ t.psq.stepAt.get none ph = none
      | x :: _ => x.2.pwr.toNat < 8 → t.psq.pwr.getLsbD x.2.pwr.toNat = true) ∧
  (∀ (s : State) (ph k : Nat) (m : Manifest), ph < 3 → s.ump.running = true → s.psq.stepAt.get none ph = some (k, false) →
    s.phaseMan ph = some m → Answers (exec (.powerStepTimeout ph) s) fun t =>
      (t.hdr .psq).status.getLsbD 9 = true ∧ t.psq.code = 0x20 ∧ t.psq.entry = s.psq.entry ∧
      (∀ x ∈ m.phaseSteps ph, t.psq.pwr.getLsbD x.2.pwr.toNat = false) ∧ t.psq.stepAt.get none ph = none ∧
      t.psq.phaseDone.getLsbD ph = false ∧ t.psq.prst = s.psq.prst ∧ t.psq.level = s.psq.level ∧
      (if s.psq.retried.getLsbD ph = true then ∀ g ∈ phaseGroups ph, t.grp g = .off
       else t.psq.retried.getLsbD ph = true ∧ t.psq.retryTimer.getLsbD (phaseTimer ph) = true ∧ t.psq.host = s.psq.host ∧
         t.psq.bmc = s.psq.bmc) ∧ Only [.chip, .fns, .hdrs, .out, .psq, .ump] s t) ∧
  (∀ (s : State) (g : Nat), g < 3 → s.ump.running = true → s.psq.retryTimer.getLsbD g = true →
    Answers (exec (.powerRetryTimer g) s) fun t => t.psq.retryTimer = s.psq.retryTimer &&& ~~~(1#3 <<< g) ∧
      t.psq.level = s.psq.level ∧ t.meas = s.meas) ∧
  (∀ (s : State) (i : Nat), i < 8 → s.psq.watch.getLsbD i = false → Answers (exec (.pgoodFall i) s) fun t =>
    t.psq = { s.psq with level := s.psq.level &&& ~~~(1#8 <<< i) } ∧ Only [.psq] s t) ∧
  (∀ (s : State) (i ph : Nat), i < 8 → s.psq.watch.getLsbD i = true → s.phaseOf i = some ph →
    s.ump.running = false ∨ (∀ g ∈ phaseGroups ph, s.grp g ≠ .released) → Answers (exec (.pgoodFall i) s) fun t =>
      t.psq.level.getLsbD i = false ∧ (t.hdr .psq).status.getLsbD 8 = true ∧ t.psq.pwr = s.psq.pwr ∧
      (∀ g m, g ∈ phaseGroups ph → s.manOf g = some m → t.psq.prst &&& m.mask g = 0) ∧ Only [.chip, .fns, .hdrs, .out, .psq] s t) ∧
  (∀ (s : State) (i ph g : Nat), i < 8 → s.psq.watch.getLsbD i = true → s.phaseOf i = some ph → s.ump.running = true →
    g ∈ phaseGroups ph → s.grp g = .released → Answers (exec (.pgoodFall i) s) fun t =>
      t.psq.level.getLsbD i = false ∧ (t.hdr .psq).status.getLsbD 8 = true ∧
      t.psq.lostAt.get none (phaseTimer ph) = some s.now ∧
      if s.within (s.psq.lostAt.get none (phaseTimer ph)) (60 * second) = true then t.grp g = .off
      else t.grp g = .held ∧ t.psq.retryTimer.getLsbD (phaseTimer ph) = true) ∧
  ∀ (s : State) (k : Nat), s.psq.fullRelease = some k → k + 600 * second ≤ s.now → s.ump.running = true → Answers (exec .counterCommit s) fun t =>
    t.aod = { s.aod with trial := false } ∧
    t.counter 0 = (if s.ump.fwCommit = true then max (s.counter 0) s.ump.fwSvn.toNat else s.counter 0) ∧
    (∀ m, s.psq.manifest = some m → m.commit = true → t.counter 1 = max (s.counter 1) m.svn.toNat ∧
      ∀ n, 2 ≤ n → n < 32 → t.counter n = max (s.counter n) (leAt m.minSvn n 1)) ∧
    ((∀ m, s.psq.manifest = some m → m.commit = false) → ∀ n, 0 < n → t.counter n = s.counter n) ∧
    (t.otp.counters = s.otp.counters → t.meas = s.meas) ∧
    (t.otp.counters ≠ s.otp.counters → (t.mreg 3).cnt = (s.mreg 3).cnt + 1 ∧
      (t.mreg 3).val = sha3_512 ((s.mreg 3).val ++ padTo 64 (sha3_512 t.counterBytes))) ∧
    Only [.aod, .chip, .fns, .hdrs, .meas, .otp, .out] s t

/-- The commands of the custody card (R366, R379). -/
def Obligations.CardCommandsAreSent : Prop :=
  ∀ s : State, s.cci.pwr = true → s.cci.busy = false →
    (Answers (exec .goReset s) fun t => CardSent s t s.cci 0 0 false true false false false 0) ∧
    (∀ x : BitVec 8, Answers (exec (.identify x) s) fun t =>
      CardSent s t { s.cci with card := { s.cci.card with pattern := x } } 1 (x.setWidth 32) true false false false false 0) ∧
    (∀ m : BitVec 2, Answers (exec (.negotiate m) s) fun t =>
      CardSent s t s.cci 2 (BitVec.ofNat 32 (min m.toNat s.cci.card.maxMode.toNat)) false false false false false 0) ∧
    (∀ n : W32, Answers (exec (.select n) s) fun t => CardSent s t s.cci 3 n false false false false false 0) ∧
    (∀ (a : BitVec 24) (n : BitVec 8), Answers (exec (.readBlocks a n) s) fun t =>
      CardSent s t s.cci 8 (BitVec.ofNat 32 (256 * a.toNat + n.toNat)) false false true false false (n.toNat + 1)) ∧
    (∀ (a : BitVec 24) (n : BitVec 8), s.cci.card.tempWp = false → s.cci.card.permWp = false →
      s.cci.card.record = false ∨ s.cci.card.ours = true → Answers (exec (.writeBlocks a n) s) fun t =>
      t.cci.index = 9 ∧ t.cci.arg = BitVec.ofNat 32 (256 * a.toNat + n.toNat) ∧ t.cci.write = true ∧ t.cci.busyWait = true ∧
      t.cci.busy = true ∧ t.cci.done = false ∧ t.cci.blocks = BitVec.ofNat 9 (n.toNat + 1) ∧ t.cci.card.txnLeft = some (n.toNat + 1) ∧
      t.cci.txnOpen = s.cci.txnOpen ∧ t.cci.txnOutcome = s.cci.txnOutcome ∧ t.cci.exports = s.cci.exports ∧
      t.out = s.out ++ [.cardCmd (cardFrame 9 (BitVec.ofNat 32 (256 * a.toNat + n.toNat))), .cardBlocks
        ((chunks 512 ((s.cci.exportData a.toNat).getD (s.sramBytes s.cci.buf.toNat (512 * (n.toNat + 1))))).map (blockLines s.cci.wide))] ∧ Only [.cci, .out] s t) ∧
    (∀ n : BitVec 16, s.cci.card.tempWp = false → s.cci.card.permWp = false →
      s.cci.card.record = false ∨ s.cci.card.ours = true → n ≠ 0 → Answers (exec (.setTxn n) s) fun t =>
      CardSent s t { s.cci with txnId := n, card := { s.cci.card with ours := s.cci.card.ours && n == s.cci.txnId } } 10 (BitVec.ofNat 32 (65536 * n.toNat)) false false false false false 0) ∧
    (∀ n : BitVec 16, Answers (exec (.journalQuery n) s) fun t =>
      CardSent s t s.cci 12 (BitVec.ofNat 32 (65536 * n.toNat)) false false false false false 0) ∧
    (∀ n : BitVec 16, Answers (exec (.journalResolve n) s) fun t =>
      CardSent s t s.cci 13 (BitVec.ofNat 32 (65536 * n.toNat)) false false false false false 0) ∧
    (Answers (exec .setTempWp s) fun t => CardSent s t s.cci 16 0 false false false false true 0) ∧
    (Answers (exec .clearTempWp s) fun t => CardSent s t s.cci 17 0 false false false false true 0) ∧
    (∀ a : W32, Answers (exec (.setPermWp a) s) fun t => CardSent s t s.cci 18 a false false false false true 0) ∧
    (Answers (exec .readWp s) fun t => CardSent s t s.cci 19 0 false false false false false 0) ∧
    Answers (exec .powerDown s) fun t => CardSent s t s.cci 31 0 false false false false true 0

/-- The life of a card on the port (R365, R370 to R373). During WRITE_BLOCKS the phase decides between the marks of R373; which, is left free (log entry 3). -/
def Obligations.CardInsertionsAndEndsOfCommands : Prop :=
  (∀ s : State, s.aod.onCell = false → s.cci.pwr = false → Answers (exec .cardInserted s) fun t =>
    t.cci = { s.cci with
      det := true, pwr := true, vsel := false, wide := false, clk10k := 40, again := false, card := { present := true, maxMode := 2 } } ∧
    t.hdr .cci = (s.hdr .cci).raise (1#32 <<< 8) ∧ Only [.cci, .chip, .fns, .hdrs, .out] s t) ∧
  (∀ s : State, s.cci.again = true → s.cci.det = true → Answers (exec .cardStartupRetry s) fun t =>
    t.cci = { s.cci with
      pwr := true, vsel := false, wide := false, clk10k := 40, again := false, card := { present := true, maxMode := 1 } } ∧
    Only [.cci] s t) ∧
  (∀ s : State, s.cci.pwr = true → s.cci.busy = false → s.cci.card.mode = 2 → s.cci.vsel = false →
    Answers (exec .cardVselSwitch s) fun t =>
      CardSent s t { s.cci with vsel := true, clk10k := 40, card := { s.cci.card with pattern := s.cci.card.pattern + 1 } } 1
        ((s.cci.card.pattern + 1).setWidth 32) true false false false false 0) ∧
  (∀ (s : State) (d : CardDone), s.cci.busy = true → s.cci.index.toNat ∈ [3, 13, 16, 17, 18, 19] → d.respTo = false → d.respCrc = false →
    d.busyTo = false → Answers (exec (.cciCommandDone d) s) fun t =>
      t.cci = { s.cci with
        busy := false, done := true, respTo := false, respCrc := false, dataCrc := d.dataCrc, busyTo := false
        token := if s.cci.write then d.token else s.cci.token, resp := if s.cci.noResp then s.cci.resp else d.resp
        card := { s.cci.card with
          record := d.resp.getLsbD 7, state := (d.resp >>> 8).setWidth 4, tempWp := d.resp.getLsbD 12, permWp := d.resp.getLsbD 13 } } ∧
      Only [.cci] s t) ∧
  (∀ (s : State) (d : CardDone), s.cci.busy = true → s.cci.index = 10 → d.respTo = false → d.respCrc = false → d.busyTo = false →
    Answers (exec (.cciCommandDone d) s) fun t =>
      t.cci.txnOpen = !(d.resp.getLsbD 1 || d.resp.getLsbD 3 || d.resp.getLsbD 4) ∧ t.cci.busy = false ∧ t.cci.done = true ∧
      Only [.cci] s t) ∧
  (∀ (s : State) (d : CardDone), s.cci.busy = true → s.cci.index = 9 → d.respTo = false → d.respCrc = false → d.busyTo = false →
    Answers (exec (.cciCommandDone d) s) fun t =>
      t.cci.txnOpen = false ∧ t.cci.txnOutcome = (if d.token = 1 then 1 else 2) ∧ t.cci.busy = false ∧
      t.cci.blkCnt = s.cci.blkCnt + s.cci.blocks.setWidth 64 ∧ Only [.aod, .cci] s t) ∧
  (∀ (s : State) (d : CardDone), s.cci.pwr = true → s.cci.busy = true → s.cci.index.toNat ∈ [3, 8, 12, 19] → s.cci.noResp = false →
    d.respTo = true → d.busyTo = false → s.cci.card.retriedCmd = false → Answers (exec (.cciCommandDone d) s) fun t =>
      t.out = s.out ++ [.cardCmd (cardFrame s.cci.index s.cci.arg)] ∧ t.cci.busy = true ∧ t.cci.card.retriedCmd = true ∧ t.cci.index = s.cci.index ∧
      Only [.cci, .out] s t) ∧
  (∀ (s : State) (d : CardDone), s.cci.pwr = true → s.cci.busy = true → s.cci.index.toNat ∈ [2, 9, 10, 13, 16, 17, 18, 31] →
    s.cci.noResp = false → d.respTo = true → d.busyTo = false → s.cci.card.retriedCmd = false →
    Answers (exec (.cciCommandDone d) s) fun t => t.out = s.out ++ [.cardCmd (cardFrame 12 (s.cci.txnId ++ 0#16))] ∧ t.cci.busy = true ∧
      t.cci.index = 12 ∧ t.cci.card.resolving = true ∧ t.cci.card.retriedCmd = true ∧ Only [.cci, .out] s t) ∧
  (∀ (s : State) (d : CardDone), s.cci.pwr = true → s.cci.busy = true → s.cci.index = 12 → s.cci.card.resolving = true →
    d.respTo = false → d.respCrc = false → d.busyTo = false → Answers (exec (.cciCommandDone d) s) fun t =>
      t.out = s.out ++ [.cardCmd (cardFrame 19 0)] ∧ t.cci.busy = true ∧ t.cci.index = 19 ∧ t.cci.card.retriedCmd = true ∧
      Only [.aod, .cci, .out] s t) ∧
  (∀ (s : State) (d : CardDone), s.cci.busy = true → s.cci.index.toNat ∈ [3, 8, 12, 19] → s.cci.noResp = false → d.respTo = true →
    d.busyTo = false → s.cci.card.retriedCmd = true → Answers (exec (.cciCommandDone d) s) fun t =>
      t.cci.pwr = false ∧ t.cci.vsel = false ∧ t.cci.busy = false ∧ t.cci.txnOpen = false ∧ (t.hdr .cci).status.getLsbD 11 = true ∧
      Only [.cci, .chip, .fns, .freeCtr, .hdrs, .out, .psq, .ump] s t) ∧
  ∀ s : State, s.cci.det = true → Answers (exec .cardRemoved s) fun t =>
    t.cci.pwr = false ∧ t.cci.vsel = false ∧ t.cci.clk10k = 0 ∧ t.cci.busy = false ∧ t.cci.det = false ∧ t.cci.txnOpen = false ∧
    t.cci.removed = (s.cci.removed || s.cci.busy) ∧ t.cci.card = {} ∧
    (s.cci.txnOpen = false → t.cci.txnOutcome = s.cci.txnOutcome) ∧
    (s.cci.txnOpen = true → (if s.cci.busy = true ∧ s.cci.index = 9 then t.cci.txnOutcome = 2 ∨ t.cci.txnOutcome = 3
      else t.cci.txnOutcome = if s.cci.card.txnLeft = some 0 then 3 else 2)) ∧
    (t.hdr .cci).status.getLsbD 9 = true ∧ Only [.cci, .chip, .fns, .freeCtr, .hdrs, .out, .psq, .ump] s t

/-- R350, whole. The 32 random bytes of the response stand as an existential; the framing of a block is the SPDM standard's (log entry 8). -/
def Obligations.MeasurementsAreTheRegisters : Prop :=
  let block : State → Nat → List Byte := fun s n =>
    [byteOf n, 1, 75, 0, 0x80 + (if n = 1 then 2 else if n = 3 ∨ n = 5 ∨ (17 ≤ n ∧ n ≤ 32) then 1 else 3), 72, 0] ++
      (s.mreg (n - 1)).val ++ leBytes 8 (s.mreg (n - 1)).cnt.toNat
  ∀ (s : State) (tr : Transport) (i : BitVec 8) (nonce : List Byte), Serving s → (s.spdmOf tr).mldsa.isSome = true →
    s.chip.accReset = false → Answers (exec (.getMeasurements tr i false nonce) s) fun t =>
      (let body : List Nat → List Byte := fun l =>
        [byteOf l.length] ++ leBytes 3 (l.flatMap (block s)).length ++ l.flatMap (block s)
      if i = 0 then ∃ r : List Byte, r.length = 32 ∧ SpdmAnswers s t tr (s.spdmOf tr) 0x60 64 0 ([0, 0, 0, 0] ++ r)
      else if i.toNat ≤ 64 then ∃ r : List Byte, r.length = 32 ∧ SpdmAnswers s t tr (s.spdmOf tr) 0x60 0 0 (body [i.toNat] ++ r)
      else if i = 0xFF then ∃ r : List Byte, r.length = 32 ∧
        SpdmAnswers s t tr (s.spdmOf tr) 0x60 0 0 (body ((List.range 64).map (· + 1)) ++ r)
      else t.out = s.out ++ [.spdm (tIndex tr)
        [if (s.spdmOf tr).version = 0 then 0x10 else (s.spdmOf tr).version, 0x7F, 0x01, 0]] ∧ t.spdm = s.spdm) ∧
      Only [.freeCtr, .out, .spdm] s t

/-- The SPDM requests of the negotiation and of authentication (R346 to R351). Random bytes and signatures are what the log's entries 3 and 6 leave open. -/
def Obligations.SpdmNegotiationAndCertificates : Prop :=
  (∀ (s : State) (tr : Transport), Serving s → Answers (exec (.getVersion tr) s) fun t =>
    SpdmAnswers s t tr { nextHandle := (s.spdmOf tr).nextHandle, nextToken := (s.spdmOf tr).nextToken } 0x04 0 0
      [0, 3, 0, 0x12, 0, 0x13, 0, 0x14] ∧ Only [.out, .spdm] s t) ∧
  (∀ (s : State) (tr : Transport) (v : BitVec 8), Serving s → v = 0x12 ∨ v = 0x13 ∨ v = 0x14 →
    Answers (exec (.getCapabilities tr v) s) fun t =>
      SpdmAnswers s t tr { s.spdmOf tr with version := v, caps := true, mldsa := none } 0x61 0 0
        ([0, 19, 0, 0] ++ leBytes 4 spdmFlags ++ leBytes 4 (transferSize tr) ++ leBytes 4 131072) ∧ Only [.out, .spdm] s t) ∧
  (∀ (s : State) (tr : Transport) (m e k : Bool), Serving s → (s.spdmOf tr).caps = true →
    (m && (s.spdmOf tr).version == 0x14) = true ∨ e = true → Answers (exec (.negotiateAlgorithms tr m e k) s) fun t =>
      let a := m && (s.spdmOf tr).version == 0x14
      let q := k && (s.spdmOf tr).version == 0x14
      SpdmAnswers s t tr { s.spdmOf tr with mldsa := some a, mlkem := q } 0x63 0 0 [byteOf (b2n a), byteOf (b2n q)] ∧
      Only [.out, .spdm] s t) ∧
  (∀ (s : State) (tr : Transport) (a : Bool), Serving s → (s.spdmOf tr).mldsa = some a → Answers (exec (.getDigests tr) s) fun t =>
    let l := (List.range 4).filter fun n => (s.served n).isSome
    SpdmAnswers s t tr (s.spdmOf tr) 0x01 0 ((l.map (2 ^ ·)).sum) (l.flatMap fun n => spdmHash a ((s.served n).getD [])) ∧
    Only [.out, .spdm] s t) ∧
  (∀ (s : State) (tr : Transport) (n off len : Nat) (c : List Byte), Serving s → (s.spdmOf tr).mldsa.isSome = true → s.served n = some c →
    off < c.length → Answers (exec (.getCertificate tr n off len) s) fun t =>
      SpdmAnswers s t tr (s.spdmOf tr) 0x02 n 0 (leBytes 2 (min len (c.length - off)) ++ leBytes 2 (c.length - off - min len (c.length - off)) ++
        (c.drop off).take len) ∧ Only [.out, .spdm] s t) ∧
  (∀ (s : State) (tr : Transport) (n : Nat) (c nonce : List Byte), Serving s → s.chip.accReset = false → (s.spdmOf tr).mldsa = some (n % 2 == 0) →
    s.served n = some c → Answers (exec (.challenge tr n nonce) s) fun t => ∃ r rnd : List Byte, r.length = 32 ∧
      SpdmAnswers s t tr (s.spdmOf tr) 0x03 n (2 ^ n) (spdmHash (n % 2 == 0) c ++ r ++ Config.spdmSign (n % 2 == 0)
        (s.aliasKey (n % 2 == 0)) (nonce ++ (spdmHash (n % 2 == 0) c ++ r)) rnd) ∧ Only [.freeCtr, .out, .spdm] s t) ∧
  (∀ (s : State) (tr : Transport) (n : Nat) (c nonce : List Byte), Serving s → s.chip.accReset = true → (s.spdmOf tr).mldsa = some (n % 2 == 0) →
    s.served n = some c → Answers (exec (.challenge tr n nonce) s) fun t =>
      (∃ m, t.spdmOf tr = { s.spdmOf tr with held := (s.spdmOf tr).held ++ [m] }) ∧ (∀ u, u ≠ tr → t.spdmOf u = s.spdmOf u) ∧
      Only [.freeCtr, .spdm] s t) ∧
  (∀ (s : State) (tr : Transport) (i : BitVec 8) (sign : Bool) (nonce : List Byte), Serving s → (s.spdmOf tr).mldsa.isSome = true →
    s.chip.accReset = true → (33 ≤ i.toNat ∧ i.toNat ≤ 64) ∨ i = 0xFF → Answers (exec (.getMeasurements tr i sign nonce) s) fun t =>
      let x := s.spdmOf tr
      t.out = s.out ++ [.spdm (tIndex tr) [if x.version = 0 then 0x10 else x.version, 0x7F, 0x42, 0, 0, 0xE1, x.nextToken]] ∧
      t.spdmOf tr = { x with waiting := some (x.nextToken, i, sign, nonce), nextToken := x.nextToken + 1 } ∧
      (∀ u, u ≠ tr → t.spdmOf u = s.spdmOf u) ∧ Only [.out, .spdm] s t) ∧
  ∀ (s : State) (tr : Transport) (k i : BitVec 8) (nonce : List Byte), Serving s → (s.spdmOf tr).mldsa.isSome = true →
    s.chip.accReset = false → (s.spdmOf tr).waiting = some (k, i, false, nonce) → 1 ≤ i.toNat → i.toNat ≤ 64 →
    Answers (exec (.respondIfReady tr k) s) fun t => ∃ r : List Byte, r.length = 32 ∧
      SpdmAnswers s t tr { s.spdmOf tr with waiting := none } 0x60 0 0
        ([1] ++ leBytes 3 (s.measBlock (i.toNat - 1)).length ++ s.measBlock (i.toNat - 1) ++ r) ∧ Only [.freeCtr, .out, .spdm] s t

/-- Sessions, chunks and vendor requests (R345 to R349, R353). -/
def Obligations.SpdmSessionsAndChunks : Prop :=
  (∀ (s : State) (tr : Transport) (n : Nat) (h : BitVec 16) (d : List Byte), Serving s → s.chip.accReset = false → (s.served n).isSome = true →
    (s.spdmOf tr).mldsa = some (n % 2 == 0) → s.sessions.length < 8 → (tr = .doe → s.sessionsOn .doe < 4) →
    Answers (exec (.keyExchange tr n h d) s) fun t => ∃ (x : BitVec 16) (b : List Byte),
      t.sessions = s.sessions ++ [{ transport := tr, id := x ++ h, established := false }] ∧
      SpdmAnswers s t tr (s.spdmOf tr) 0x64 60 0 (leBytes 2 x.toNat ++ b) ∧ Only [.freeCtr, .out, .sessions, .spdm] s t) ∧
  (∀ (s : State) (tr : Transport) (i : W32) (x : Session), Serving s → s.session tr i = some x → x.established = false →
    (Answers (exec (.finish tr i true) s) fun t =>
      t.sessions = s.sessions.map (fun y => if y.transport = tr ∧ y.id = i then { y with established := true } else y) ∧
      SpdmAnswers s t tr (s.spdmOf tr) 0x65 0 0 [] ∧ Only [.out, .sessions, .spdm] s t) ∧
    Answers (exec (.finish tr i false) s) fun t => t.session tr i = none ∧
      (∀ y, y ∈ t.sessions ↔ y ∈ s.sessions ∧ ¬(y.transport = tr ∧ y.id = i)) ∧ Only [.out, .sessions] s t) ∧
  (∀ (s : State) (tr : Transport) (i : W32) (x : Session), Serving s → s.session tr i = some x → x.established = true →
    (Answers (exec (.endSession tr i) s) fun t => (∀ y, y ∈ t.sessions ↔ y ∈ s.sessions ∧ ¬(y.transport = tr ∧ y.id = i)) ∧
      SpdmAnswers s t tr (s.spdmOf tr) 0x6C 0 0 [] ∧ Only [.out, .sessions, .spdm] s t) ∧
    (Answers (exec (.heartbeat tr i) s) fun t => SpdmAnswers s t tr (s.spdmOf tr) 0x68 0 0 [] ∧ Only [.out, .spdm] s t) ∧
    ∀ op : BitVec 8, 1 ≤ op.toNat → op.toNat ≤ 3 → Answers (exec (.keyUpdate tr i op) s) fun t =>
      t.sessions = s.sessions.map (fun y => if (y.transport = tr ∧ y.id = i) ∧ op.toNat ≤ 2 then { y with updates := y.updates + 1 } else y) ∧
      SpdmAnswers s t tr (s.spdmOf tr) 0x69 op.toNat 0 [] ∧ Only [.out, .sessions, .spdm] s t) ∧
  (∀ (s : State) (tr : Transport) (a : Bool), Serving s → (s.spdmOf tr).mldsa = some a →
    Answers (exec (.getCsr tr) s) fun t =>
      (if s.lcs.state = 1 ∨ s.lcs.state = 2 then SpdmAnswers s t tr (s.spdmOf tr) 0x6D 0 0
          (leBytes 2 (Config.csr (s.devicePk a)).length ++ [0, 0] ++ Config.csr (s.devicePk a))
        else t.out = s.out ++ [.spdm (tIndex tr) [if (s.spdmOf tr).version = 0 then 0x10 else (s.spdmOf tr).version, 0x7F, 0x04, 0]]) ∧
      Only [.out, .spdm] s t) ∧
  (∀ (s : State) (tr : Transport) (n : Nat) (c : List Byte), Serving s → (s.spdmOf tr).mldsa.isSome = true →
    Answers (exec (.setCertificate tr n c) s) fun t =>
      (if n < 4 ∧ s.chainOk n c = true then t.store = { s.store with certs := s.store.certs.set [] n c } ∧
          SpdmAnswers s t tr (s.spdmOf tr) 0x6E n 0 []
        else t.store = s.store ∧
          t.out = s.out ++ [.spdm (tIndex tr) [if (s.spdmOf tr).version = 0 then 0x10 else (s.spdmOf tr).version, 0x7F, 0x44, 0]]) ∧
      Only [.out, .spdm, .store] s t) ∧
  (∀ (s : State) (tr : Transport) (h : BitVec 8) (n : BitVec 16) (last : Bool) (d l : List Byte), Serving s →
    (n = 0 ∧ l = []) ∨ (n ≠ 0 ∧ (s.spdmOf tr).chunk = some (h, n, l)) → l.length + d.length ≤ 131072 →
    Answers (exec (.chunkSend tr h n last d) s) fun t =>
      SpdmAnswers s t tr { s.spdmOf tr with chunk := if last then none else some (h, n + 1, l ++ d) } 0x85 0 h.toNat (leBytes 2 n.toNat) ∧
      Only [.out, .spdm] s t) ∧
  (∀ (s : State) (tr : Transport) (h : BitVec 8) (n : BitVec 16) (m : List Byte), Serving s → (s.spdmOf tr).large = some (h, m) →
    n.toNat * (transferSize tr - 16) < m.length → Answers (exec (.chunkGet tr h n) s) fun t =>
      let k := transferSize tr - 16
      let p := (m.drop (n.toNat * k)).take k
      let fin := decide (m.length ≤ n.toNat * k + k)
      SpdmAnswers s t tr { s.spdmOf tr with large := if fin then none else some (h, m) } 0x86 (b2n fin) h.toNat
        (leBytes 2 n.toNat ++ [0, 0] ++ leBytes 4 p.length ++ (if n = 0 then leBytes 4 m.length else []) ++ p) ∧ Only [.out, .spdm] s t) ∧
  (∀ (s : State) (tr : Transport) (code : BitVec 8), Serving s → Answers (exec (.spdmUnsupportedRequest tr code) s) fun t =>
    t.out = s.out ++ [.spdm (tIndex tr) [if (s.spdmOf tr).version = 0 then 0x10 else (s.spdmOf tr).version, 0x7F, 0x07, code]] ∧
    Only [.out] s t) ∧
  (∀ (s : State) (tr : Transport) (d : Nat) (x : Domain), Serving s → d < 65536 → s.dom d = some x → x.ending = false →
    Answers (exec (.getDomainCerts tr (leBytes 2 d)) s) fun t =>
      let a := s.attestCert d x.salt
      let b := s.importCert d x.salt
      let r := [0] ++ leBytes 2 a.length ++ a ++ leBytes 2 b.length ++ b
      SpdmAnswers s t tr (s.spdmOf tr) 0x7E 0 0 ([3, 0, 2, 0x3C, 0x1F] ++ leBytes 2 r.length ++ r) ∧ Only [.out, .spdm] s t) ∧
  ∀ (s : State) (tr : Transport), Serving s → Answers (exec (.getDeviceId tr []) s) fun t =>
    SpdmAnswers s t tr (s.spdmOf tr) 0x7E 0 0 ([3, 0, 2, 0x3C, 0x1F, 33, 0, 0] ++ padTo 32 s.deviceId) ∧ Only [.out, .spdm] s t

/-- TDISP (R77, R352). The codes of TDISP messages are the standard's (log entry 8). -/
def Obligations.TdispRequests : Prop :=
  (∀ (s : State) (v : Nat), TdispReady s v → Answers (exec (.getTdispVersion v) s) fun t =>
    t.out = s.out ++ [tdispMsg v 0x01 [1, 0x10]] ∧ Only [.out] s t) ∧
  (∀ (s : State) (v : Nat), TdispReady s v → Answers (exec (.getTdispCapabilities v) s) fun t =>
    (∃ d, t.out = s.out ++ [tdispMsg v 0x02 d]) ∧ Only [.out] s t) ∧
  (∀ (s : State) (v k : Nat), TdispReady s v → (s.fn v).domain.isSome = true → (s.fn v).tdisp = .configUnlocked →
    Answers (exec (.lockInterfaceRequest v k) s) fun t =>
      t.fn v = { s.fn v with tdisp := .configLocked, tdispStream := k } ∧ (∀ f, f ≠ v → t.fn f = s.fn f) ∧
      (∃ n : List Byte, n.length = 32 ∧ t.out = s.out ++ [tdispMsg v 0x03 n]) ∧ Only [.fns, .freeCtr, .out] s t) ∧
  (∀ (s : State) (v k : Nat), TdispReady s v → (s.fn v).domain = none → Answers (exec (.lockInterfaceRequest v k) s) fun t =>
    t.out = s.out ++ [tdispMsg v 0x7F [1, 0, 0, 0, 0, 0, 0, 0]] ∧ Only [.out] s t) ∧
  (∀ (s : State) (v : Nat), TdispReady s v → (s.fn v).tdisp = .configLocked ∨ (s.fn v).tdisp = .run →
    Answers (exec (.getDeviceInterfaceReport v) s) fun t =>
      t.out = s.out ++ [tdispMsg v 0x04 (leBytes 4 2 ++ leBytes 4 16 ++ leBytes 4 0 ++ leBytes 4 16 ++ leBytes 4 2 ++ leBytes 4 64
        ++ s.tdispArea v)] ∧ Only [.out] s t) ∧
  (∀ (s : State) (v : Nat), TdispReady s v → Answers (exec (.getDeviceInterfaceState v) s) fun t =>
    t.out = s.out ++ [tdispMsg v 0x05 [match (s.fn v).tdisp with
      | .configUnlocked => 0
      | .configLocked => 1
      | .run => 2
      | .error => 3]] ∧ Only [.out] s t) ∧
  (∀ (s : State) (v : Nat) (ok : Bool), TdispReady s v → (s.fn v).tdisp = .configLocked →
    Answers (exec (.startInterfaceRequest v ok) s) fun t =>
      (if ok then t.fn v = { s.fn v with tdisp := .run } ∧ t.out = s.out ++ [tdispMsg v 0x06 []] else t.fns = s.fns) ∧
      (∀ f, f ≠ v → t.fn f = s.fn f) ∧ Only [.fns, .out] s t) ∧
  ∀ (s : State) (v : Nat), TdispReady s v → Answers (exec (.stopInterfaceRequest v) s) fun t =>
    (∀ i, i < 65536 → t.chan v i = none) ∧ t.fn v = { domain := (s.fn v).domain, limit := (s.fn v).limit } ∧
    t.out.getLast? = some (tdispMsg v 0x07 []) ∧
    Only [.chFreed, .chans, .chip, .eights, .fns, .gens, .hdrs, .heat, .jobs, .msh, .out, .pcie, .progs, .quads, .reqs, .slices] s t

/-- Detections (R399 to R410), and the always-on domain on its cell (R411, R413). Detects names the commands, TamperLogged says what a record does. -/
def Obligations.DetectionsAreLoggedAnsweredOrDeferred : Prop :=
  (
  (∀ (s : State) (c : Instr) (src idx val i : Nat), s.aod.onCell = false → Detects c src idx val → DetectReady s src idx →
    (s.srcClass src = 3 → s.within (s.tmp.lastC.get none src) second = false) → s.entrySlot src = some i →
    Answers (exec c s) fun t => TamperLogged s t src idx val s.now i) ∧
  (∀ (s : State) (rail tick i : Nat) (mv : BitVec 16), s.aod.onCell = false →
    (s.tmp.uvPending.find? fun x => x.1 == rail) = some (rail, tick) → DetectReady s 1 rail →
    (s.srcClass 1 = 3 → s.within (s.tmp.lastC.get none 1) second = false) → s.entrySlot 1 = some i →
    Answers (exec (.supplyUv rail mv) s) fun t => TamperLogged s t 1 rail mv.toNat tick i ∧ ∀ x, x ∈ t.tmp.uvPending → x.1 ≠ rail) ∧
  (∀ (s : State) (i : Nat), s.aod.onCell = false → DetectReady s 13 0 →
    (s.srcClass 13 = 3 → s.within (s.tmp.lastC.get none 13) second = false) → s.entrySlot 13 = some i →
    Answers (exec .xtalFail s) fun t =>
      TamperLogged (s.onAod fun a => { a with xtalRunning := false }) t 13 0 0 s.now i ∧ t.tmp.timeApprox = true ∧
      t.aod.xtalRunning = false) ∧
  ∀ (s : State) (rail : Nat) (mv : BitVec 16), s.aod.onCell = false → s.srcOff 1 = false → (∀ x, x ∈ s.tmp.uvPending → x.1 ≠ rail) →
    Answers (exec (.supplyUvDetect rail mv) s) fun t =>
      t.tmp = { s.tmp with uvPending := s.tmp.uvPending ++ [(rail, s.now)] } ∧ Only [.tmp] s t) ∧
  (
  (∀ (s : State) (c : Instr) (src idx val i : Nat), s.aod.onCell = true → Detects c src idx val → DetectReady s src idx →
    src = 0 ∨ 8 ≤ src → s.srcClass src = 1 ∨ s.srcClass src = 2 → s.entrySlot src = some i → Answers (exec c s) fun t =>
      (∃ r : TRec, t.aod.log.get none i = some r ∧ r.seq = s.aod.seqNext ∧ r.source = byteOf src ∧ r.index = BitVec.ofNat 16 idx ∧
        r.flags = byteOf (s.srcClass src + 8 + if s.aod.xtalRunning then 0 else 16) ∧ r.mode = 1 ∧ r.bootCnt = 0) ∧
      t.aod.deferSeq = some (s.aod.deferSeq.getD s.aod.seqNext) ∧ t.aod.pending = true ∧
      t.aod.deferQuar = s.aod.deferQuar ||| s.srcRegions src idx ∧
      t.aod.serviceRoot = (if s.srcClass src = 1 then none else s.aod.serviceRoot) ∧ (src, idx) ∈ t.tmp.persist ∧ Only [.aod, .tmp] s t) ∧
  ∀ s : State, s.aod.onCell = true → Answers (exec .cellRemovalOnBattery s) fun t => t.aod = {} ∧ Only [.aod] s t)

/-- What ends or tests the monitors' work (R163, R403, R406, R410, R414, R415, R477). -/
def Obligations.TamperReleaseFallBackAndStimulation : Prop :=
  (∀ s : State, s.tmp.tamperLow = true → s.tmp.respA = false → s.tmp.respB = false → Answers (exec .tamperRel s) fun t =>
    (if s.tmp.holdMin = false then t.tmp = { s.tmp with tamperLow := false, relWritten := false } ∧ t.aod = { s.aod with pending := false }
     else t.tmp = { s.tmp with relWritten := true } ∧ t.aod = s.aod) ∧ Only [.aod, .tmp] s t) ∧
  (∀ s : State, Answers (exec .tamperHoldExpiry s) fun t =>
    (if s.tmp.relWritten = true then
      t.tmp = { s.tmp with tamperLow := false, holdMin := false, relWritten := false } ∧ t.aod = { s.aod with pending := false }
     else t.tmp = { s.tmp with holdMin := false } ∧ t.aod = s.aod) ∧ Only [.aod, .tmp] s t) ∧
  (∀ (s : State) (a b : Nat), Answers (exec (.tamperConditionClear a b) s) fun t =>
    (∀ x, x ∈ t.tmp.persist ↔ x ∈ s.tmp.persist ∧ x ≠ (a, b)) ∧ t.tmp.cls = s.tmp.cls ∧ t.tmp.cntA = s.tmp.cntA ∧ Only [.freeCtr, .out, .tmp] s t ∧
    (a ≠ 1 → a ≠ 2 → Only [.tmp] s t)) ∧
  (∀ s : State, s.chip.maskFallback = true → s.chip.maskUntil ≤ s.now → Answers (exec .maskFallbackEnd s) fun t =>
    t.chip.maskFallback = false ∧ (∀ e, e < s.variant.eights → (t.hdr (.egt e)).status.getLsbD 13 = true) ∧
    Only [.chip, .fns, .hdrs, .out] s t) ∧
  (∀ s : State, Answers (exec .crystalStart s) fun t =>
    t.aod = { s.aod with xtalRunning := true } ∧ t.tmp = { s.tmp with timeApprox := false } ∧ t.wdg = { s.wdg with xtalOk := true } ∧
    Only [.aod, .tmp, .wdg] s t) ∧
  (∀ s : State, s.aod.onCell = false → Answers (exec .tmpTestStart s) fun t =>
    (if bit s.dbg.rights 8 = false then t.tmp = { s.tmp with testDenied := true }
     else if s.tmp.testBusy = true ∨ s.srcOff s.tmp.testSource.toNat = true ∨ s.tmp.testSource = 14 then t.tmp = s.tmp
     else t.tmp = { s.tmp with testBusy := true, testPass := false, testFail := false, testDenied := false }) ∧ Only [.tmp] s t) ∧
  (∀ (s : State) (i : Nat), s.tmp.testBusy = true → s.tmp.testPass = false → s.entrySlot s.tmp.testSource.toNat = some i →
    Answers (exec (.stimulationWindowEnd true) s) fun t =>
      t.tmp = { s.tmp with testBusy := false, testPass := true } ∧
      (∃ r : TRec, t.aod.log.get none i = some r ∧ r.seq = s.aod.seqNext ∧ r.source = byteOf s.tmp.testSource.toNat ∧
        r.flags = byteOf (s.srcClass s.tmp.testSource.toNat + 4 + if s.aod.xtalRunning then 0 else 16)) ∧
      t.aod.pending = s.aod.pending ∧ Only [.aod, .chip, .fns, .freeCtr, .hdrs, .out, .tmp] s t) ∧
  (∀ s : State, s.tmp.testBusy = true → s.tmp.testPass = false → Answers (exec (.stimulationWindowEnd false) s) fun t =>
    t.tmp.testBusy = false ∧ t.tmp.testFail = true ∧ (t.hdr .tmp).status.getLsbD 11 = true) ∧
  ∀ (s : State) (v : W32), s.aod.onCell = false → bit (s.hdr .tmp).lock 0 = false → Answers (exec (.tmpClassWrite v) s) fun t =>
    (∀ n, n < 14 → bits t.tmp.cls (2 * n + 1) (2 * n) =
      (if bits v (2 * n + 1) (2 * n) = 0 then bits s.tmp.cls (2 * n + 1) (2 * n) else bits v (2 * n + 1) (2 * n))) ∧
    bits t.tmp.cls 29 28 = 0 ∧ bits t.tmp.cls 31 30 = 1 ∧ t.tmp.region = s.tmp.region ∧ t.tmp.persist = s.tmp.persist ∧ Only [.tmp] s t

/-- Watchdog service and tasks (R428 to R433), heartbeat and timer (R420, R421). -/
def Obligations.WatchdogServiceTasksHeartbeatAndTimer : Prop :=
  (
  (∀ s : State, s.aod.onCell = false → s.wdg.armed = false → Answers (exec .wdgCatch s) fun t =>
    t.wdg = { s.wdg with armed := true } ∧ Only [.wdg] s t) ∧
  (∀ (s : State) (c : Instr), s.aod.onCell = false → s.wdg.keyFaults = 0 →
    (c = .wdgCatch ∧ s.wdg.armed = true) ∨ (c = .wdgFinish ∧ s.wdg.armed = false) ∨ c = .wdgKeyFault → Answers (exec c s) fun t =>
      t.wdg = { s.wdg with armed := false, keyFaults := 1 } ∧ t.hdr .wdg = (s.hdr .wdg).raise (1#32 <<< 10) ∧
      Only [.chip, .fns, .hdrs, .out, .wdg] s t) ∧
  (∀ s : State, s.aod.onCell = false → s.wdg.armed = true → s.wdg.windowOpen = true → s.wdg.curMask &&& ~~~s.wdg.seen = 0 →
    Answers (exec .wdgFinish s) fun t =>
      t.wdg = { s.wdg with
        seen := 0, double := 0, windowOpen := false, armed := false, keyFaults := 0, elapsed := 0, curMs := s.wdg.periodMs
        curMask := s.wdg.taskMask, refused := false, consec := 0 } ∧
      t.aod = { s.aod with ev := { s.aod.ev with svc := s.aod.rtc } } ∧ t.hdr .wdg = (s.hdr .wdg).raise (1#32 <<< 9) ∧
      Only [.aod, .chip, .fns, .hdrs, .out, .wdg] s t) ∧
  (∀ s : State, s.aod.onCell = false → s.wdg.armed = true → s.wdg.windowOpen = true → s.wdg.curMask &&& ~~~s.wdg.seen ≠ 0 →
    Answers (exec .wdgFinish s) fun t => t.wdg = { s.wdg with armed := false, refused := true } ∧
      t.hdr .wdg = (s.hdr .wdg).raise (1#32 <<< 11) ∧ Only [.chip, .fns, .hdrs, .out, .wdg] s t) ∧
  (∀ (s : State) (k : BitVec 4), s.aod.onCell = false → Answers (exec (.wdgTaskCheckin k) s) fun t =>
    (∀ i, i < 16 → t.wdg.seen.getLsbD i = (s.wdg.seen.getLsbD i || decide (i = k.toNat)) ∧
      t.wdg.double.getLsbD i = (s.wdg.double.getLsbD i || (decide (i = k.toNat) && s.wdg.seen.getLsbD i))) ∧
    t.wdg.armed = s.wdg.armed ∧ t.wdg.consec = s.wdg.consec ∧ t.wdg.curMask = s.wdg.curMask ∧ Only [.wdg] s t) ∧
  (∀ s : State, s.wdgCounts = true → (Answers (exec .wdgWindowOpen s) fun t => t.wdg = { s.wdg with windowOpen := true } ∧ Only [.wdg] s t) ∧
    Answers (exec .wdgWarn s) fun t => t.hdr .wdg = (s.hdr .wdg).raise (1#32 <<< 8) ∧ Only [.chip, .fns, .hdrs, .out] s t) ∧
  ∀ (s : State) (rc : Bool), s.aod.onCell = false → s.wdg.clkRc ≠ rc → Answers (exec (.wdgClockStop rc) s) fun t =>
    t.wdg = { s.wdg with rcOk := if rc then false else s.wdg.rcOk, xtalOk := if rc then s.wdg.xtalOk else false } ∧ Only [.wdg] s t) ∧
  (
  ∀ s : State, s.aod.onCell = false →
    (Answers (exec .umpKick s) fun t => t.ump = { s.ump with kickUntil := some (s.now + 328) } ∧ Only [.ump] s t) ∧
    (Answers (exec .heartbeatLapse s) fun t => t.ump = { s.ump with kickUntil := none } ∧ Only [.ump] s t) ∧
    (∀ v : W32, Answers (exec (.umpTimerWrite v) s) fun t =>
      t.ump = { s.ump with timerUs := v, timerRunning := v != 0, timerExpired := false } ∧ Only [.ump] s t) ∧
    Answers (exec .umpTimerExpiry s) fun t =>
      t.ump = (if s.ump.timerRunning then { s.ump with timerRunning := false, timerExpired := true } else s.ump) ∧ Only [.ump] s t)

/-- Expiries (R427, R428, R434 to R436) and STATE_INVALID (R402). -/
def Obligations.WatchdogExpiries : Prop :=
  (∀ (s : State) (late : Bool), ExpiryReady s → s.wdgCounts = true → Answers (exec (.wdgExpiry late) s) fun t =>
    Expires s t (if s.wdg.refused then 4 else 1) late) ∧
  (∀ s : State, ExpiryReady s → s.wdgLive = true → s.wdg.armed = true → s.wdg.windowOpen = false → Answers (exec .wdgFinish s) fun t =>
    Expires s t 2 false) ∧
  (∀ (s : State) (c : Instr), ExpiryReady s → s.wdgLive = true → s.wdg.keyFaults ≠ 0 →
    (c = .wdgCatch ∧ s.wdg.armed = true) ∨ (c = .wdgFinish ∧ s.wdg.armed = false) ∨ c = .wdgKeyFault → Answers (exec c s) fun t =>
      Expires s t 3 false) ∧
  (∀ s : State, ExpiryReady s → s.wdgLive = true → Answers (exec (.wdgClockStop s.wdg.clkRc) s) fun t =>
    Expires s t 5 false ∧ t.wdg.clkRc = !s.wdg.clkRc ∧ (t.hdr .wdg).status.getLsbD 12 = true) ∧
  (∀ (s : State) (late : Bool), ExpiryReady s → s.wdgCounts = true → s.aod.trial = false → s.wdg.consec = 0 → 2 ≤ s.wdgLimit →
    s.ump.running = true → Answers (exec (.wdgExpiry late) s) fun t =>
      let raw := if s.ump.fwSlotB then s.store.fwB else s.store.fwA
      if fwFormatOk raw = true ∧ sha3_512 (fwImage raw) = s.ump.fwDigest then
        t.ump.running = true ∧ t.ump.regs = { pc := BitVec.ofNat 18 (fwEntry (fwImage raw)) } ∧ t.sessions = [] ∧ t.cci.pwr = false ∧
        t.chip.accReset = s.chip.accReset ∧ t.reqs = s.reqs ∧ t.chans = s.chans ∧ t.kslots = s.kslots ∧
        (∀ n, s.lcs.trans = some (n, 0) → t.lcs.trans = none ∧ t.lcs.resultCode = 9 ∧
          (s.aod.challenge = none → t.aod.challenge = s.lcs.heldChal)) ∧ (s.lcs.trans = none → t.lcs = s.lcs) ∧
        Only [.aod, .cci, .chip, .fns, .freeCtr, .hdrs, .lcs, .mon, .out, .pldm, .sessions, .spdm, .ump, .wdg] s t
      else t.chip.accReset = true ∧ t.chans = [] ∧ t.reqs = []) ∧
  ∀ (s : State) (m i : Nat), m < 3 → s.aod.onCell = false → DetectReady s 15 m → s.entrySlot 15 = some i →
    Answers (exec (.stateInvalid m) s) fun t => TamperLogged s t 15 m 0 s.now i

/-- Self-test (R460 to R462), scrubbing (R454 to R456; log entry 3 for three symbols or more), random numbers (R458, R459). -/
def Obligations.SelfTestScrubAndRandomness : Prop :=
  (∀ s : State, s.bst.busy = false → 0 < s.bst.test.toNat → s.bst.test.toNat ≤ 3 → Answers (exec .bstStart s) fun t =>
    Only [.bst] s t ∧ match bstPage s.bst.kind.toNat s.bst.inst.toNat with
      | none => t.bst = { s.bst with done := true, cause := 2, result := 0, resultN := 0 }
      | some p => t.bst =
          if s.present p = false then { s.bst with done := true, cause := 2, result := 0, resultN := 0 }
          else if s.bstAllowed s.bst.kind.toNat s.bst.inst.toNat p = false then
            { s.bst with done := true, cause := 1, result := 0, resultN := 0 }
          else { s.bst with busy := true, done := false, cause := 0, result := 0, resultN := 0, runs := s.bst.runs + 1
                            passed := s.bst.passed.filter (· != bstKey s.bst) }) ∧
  (∀ s : State, Answers (exec .bstAbort s) fun t => Only [.bst] s t ∧ t.bst =
    if s.bst.busy = true then { s.bst with busy := false, done := true, cause := 3, result := 0, resultN := 0 } else s.bst) ∧
  (∀ (s : State) (pass : Bool) (sig : W64) (a : BitVec 30), s.bst.busy = true →
    let ok := pass = true ∧ (s.bst.test.getLsbD 0 = true → sig = Config.bstExpected s.bst.kind.toNat)
    Answers (exec (.bstDone pass sig a) s) fun t => t.bst.busy = false ∧ t.bst.done = true ∧
      (ok → t.bst.result = 0x96 ∧ t.bst.resultN = 0x69 ∧ bstKey s.bst ∈ t.bst.passed ∧ (t.hdr .bst).status.getLsbD 8 = true) ∧
      (¬ ok → t.bst.result = 0x5A ∧ t.bst.resultN = 0xA5 ∧ t.bst.passed = s.bst.passed ∧
        (t.hdr .bst).status.getLsbD 9 = true) ∧
      t.bst.runs = s.bst.runs ∧ Only [.bst, .chip, .eights, .fns, .hdrs, .jobs, .out, .slices] s t) ∧
  (∀ s : State, s.aod.onCell = false → Answers (exec .bstRelease s) fun t =>
    (s.bst.passed.contains (bstKey s.bst) = false → t.bst = { s.bst with cause := 5 } ∧ Only [.bst] s t) ∧
    (s.bst.passed.contains (bstKey s.bst) = true → s.bst.kind = 5 → (∀ p ∈ regionPages s.bst.inst.toNat, (t.hdr p).quar = false) ∧
      t.aod.quar = s.aod.quar &&& ~~~(1#4 <<< s.bst.inst.toNat) ∧ (t.eight (3 * s.bst.inst.toNat)).isolated = 0 ∧
      (t.quad s.bst.inst.toNat).isolated = 0) ∧
    (s.bst.passed.contains (bstKey s.bst) = true → s.bst.kind = 1 → (t.eight s.bst.inst.toNat).isolated = 0 ∧
      (t.hdr (.egt s.bst.inst.toNat)).quar = s.aod.quar.getLsbD (s.bst.inst.toNat / 3)) ∧
    (s.bst.passed.contains (bstKey s.bst) = true → s.bst.kind = 2 → (t.quad s.bst.inst.toNat).isolated = 0 ∧
      (t.hdr (.qad s.bst.inst.toNat)).quar = s.aod.quar.getLsbD s.bst.inst.toNat) ∧
    Only [.aod, .bst, .chip, .eights, .fns, .hdrs, .out, .quads, .slices] s t) ∧
  (∀ (s : State) (m : MemLoc), s.aod.onCell = false → m.mem ≤ 8 → m.wipe = true → s.usable (memPage m) = true →
    Answers (exec (.patrolScrub m 2 false) s) fun t => (t.hdr (memPage m)).status.getLsbD 1 = true ∧
      (m.mem ≤ 5 → (t.hdr (memPage m)).quar = true) ∧
      (6 ≤ m.mem → .uncorrectableInternal ∈ (t.fn 0).cfg.aerStatus ∧ OutEvent.errFatal ∈ t.out ∧ Only [.chip, .fns, .hdrs, .out] s t)) ∧
  (∀ (s : State) (m : MemLoc) (ow : Bool), s.aod.onCell = false → m.mem ≤ 9 → m.wipe = false → s.usable (memPage m) = true →
    exec (.patrolScrub m 0 ow) s = .next s ∧
    (Answers (exec (.patrolScrub m 1 ow) s) fun t => (t.hdr (memPage m)).status.getLsbD 0 = true ∧
      ((s.hdr (memPage m)).errs.length < 4 → (t.hdr (memPage m)).errs = (s.hdr (memPage m)).errs ++
        [⟨0x80, errLevel (memPage m) 0x80, BitVec.ofNat 5 m.mem, s.aod.heatNo⟩]) ∧ Only [.chip, .fns, .hdrs, .out] s t) ∧
    (Answers (exec (.patrolScrub m 2 true) s) fun t => (t.hdr (memPage m)).status.getLsbD 1 = true ∧
      ((s.hdr (memPage m)).errs.length < 4 → (t.hdr (memPage m)).errs = (s.hdr (memPage m)).errs ++
        [⟨0x81, errLevel (memPage m) 0x81, BitVec.ofNat 5 m.mem, s.aod.heatNo⟩]) ∧ Only [.chip, .fns, .hdrs, .out] s t) ∧
    (Answers (exec (.patrolScrub m 2 false) s) fun t =>
      (m.mem ≤ 5 → (t.hdr (memPage m)).quar = true ∧ (t.hdr (memPage m)).status.getLsbD 1 = true) ∧
      (m.mem = 9 → m.word ∈ t.ump.poison ∧ (t.hdr .ump).status.getLsbD 1 = true) ∧
      (6 ≤ m.mem → m.mem ≤ 8 → m.ctrl = true → t.chip.accReset = true ∧ t.chip.accReady = false ∧ t.chans = [])) ∧
    ∀ k, ∃ n, n < 3 ∧ exec (.patrolScrub m (k + 3) ow) s = exec (.patrolScrub m n ow) (s.spend 1)) ∧
  (∀ s : State, s.aod.onCell = false → let recent := s.rng.fails.filter fun x => decide (s.now < x + 60 * second)
    Answers (exec .trngHealthFail s) fun t => (t.hdr .rng).status.getLsbD 8 = true ∧ t.rng.fails = recent ++ [s.now] ∧
      ((∃ x ∈ recent, s.now < x + second) ∨ 2 ≤ recent.length → t.rng.stopped = true ∧ t.rng.started = false ∧
        (t.hdr .rng).status.getLsbD 9 = true) ∧
      ((∀ x ∈ recent, x + second ≤ s.now) → recent.length < 2 → t.rng = { s.rng with fails := recent ++ [s.now] }) ∧
      t.rng.locked = (s.rng.locked || decide (2 ≤ recent.length)) ∧ Only [.chip, .fns, .hdrs, .out, .rng] s t) ∧
  (∀ s : State, s.aod.onCell = false → Answers (exec .trngStartupTestDone s) fun t => Only [.rng] s t ∧
    t.rng = if s.rng.locked = true then s.rng else { s.rng with started := true, stopped := false }) ∧
  ∀ (s : State) (i : Nat), s.rng.started = true → s.rng.stopped = false → i = 4 ∨ i < s.variant.regions →
    Answers (exec (.drbgReseed i) s) fun t => t.rng = { s.rng with reseeds := s.rng.reseeds + 1 } ∧ Only [.rng] s t

/-- Programs (R220), life cycle (R388 to R392; one tick for each step of the engine is the model's choice, log entry 55), ageing (R438 to R442), cadence (R28). The checks are the model's functions for the chapters' lists. -/
def Obligations.ProgramsLifeCycleAndAgeing : Prop :=
  (∀ (s : State) (img : List Byte), s.aod.onCell = false → Answers (exec (.programLoad img) s) fun t =>
    (∃ e, t.ump.events.getLast? = some e ∧ e.page = 0x0F ∧ e.code = BitVec.ofNat 8 (s.checkProgram img).1 ∧
      e.flags = BitVec.ofNat 8 (s.checkProgram img).2.1) ∧
    ((s.checkProgram img).1 = 0 → (t.mreg 4).val = sha3_512 ((s.mreg 4).val ++ padTo 64 (sha3_512 img)) ∧
      (t.mreg 4).cnt = (s.mreg 4).cnt + 1 ∧
      ∀ n, s.freeProg = some n → imgSyl img ≠ 0 → t.progs.get none n = some (imgProg img)) ∧
    ((s.checkProgram img).1 ≠ 0 → Only [.ump] s t) ∧ Only [.chip, .fns, .hdrs, .meas, .out, .progs, .store, .ump] s t) ∧
  (∀ (s : State) (obj : List Byte), s.ump.running = true → Answers (exec (.lifecycleTransitionRequest obj) s) fun t =>
    (s.checkTransition obj ≠ 0 → t.lcs = { s.lcs with
      resultCode := BitVec.ofNat 8 (s.checkTransition obj), resultKind := 1, resultValid := true } ∧
      (t.hdr .lcs).status.getLsbD 9 = true ∧ Only [.chip, .fns, .hdrs, .lcs, .out] s t) ∧
    (s.checkTransition obj = 0 → t.lcs = { s.lcs with
        resultCode := 0, resultKind := 1, resultValid := true, trans := some (leAt obj 0x49 1, 0), heldChal := s.aod.challenge } ∧
      t.aod = { s.aod with challenge := none } ∧ Only [.aod, .lcs] s t)) ∧
  (∀ (s : State) (new : Nat), let t := s.lifeTick
    (s.lcs.trans = none → t = s) ∧
    (s.lcs.trans = some (new, 0) → t.lcs = { state := s.lcs.state, trans := some (new, 1) } ∧ t.domains = [] ∧ t.store.domA = none ∧
      t.store.domB = none ∧ t.aod.serviceRoot = none ∧ t.aod.challenge = none ∧ t.aod.ev = {} ∧ t.aod.epoch = s.aod.epoch ∧
      t.chip.accReset = true ∧ t.chip.accReady = false ∧ t.chans = [] ∧ t.ump.running = false ∧ t.cci.pwr = false ∧ t.otp = s.otp) ∧
    (s.lcs.trans = some (new, 1) → t.otp = { s.otp with pairs := s.otp.pairs ++ [(Config.codeWord new, 0)] } ∧
      t.lcs = { s.lcs with trans := some (new, 2) } ∧ Only [.lcs, .otp] s t) ∧
    (s.lcs.trans = some (new, 2) → t.lcs = { s.lcs with trans := some (new, 3) } ∧
      t.otp = { s.otp with pairs := s.otp.pairs.dropLast ++ [(Config.codeWord new, Config.codeWord new)] } ∧ Only [.lcs, .otp] s t) ∧
    (s.lcs.trans = some (new, 3) → t.lcs.trans = none ∧ t.otp.pairs = s.otp.pairs ∧ t.chip.accReset = true ∧
      t.chip.accReady = false ∧ t.chans = [] ∧ (new = 5 → t.otp.identityRoot = some (BitVec.allOnes 512)))) ∧
  (∀ (s : State) (obj : List Byte), s.ump.running = true → Answers (exec (.debugGrant obj) s) fun t =>
    t.lcs = { s.lcs with resultCode := BitVec.ofNat 8 (s.checkGrant obj true), resultKind := 2, resultValid := true } ∧
    (if s.checkGrant obj true = 0x10 then t.store = { s.store with grant := some (grantOf obj), grantRaw := obj }
     else t.store = s.store ∧ (t.hdr .lcs).status.getLsbD 9 = true) ∧ t.dbg = s.dbg ∧
    Only [.chip, .fns, .hdrs, .lcs, .out, .store] s t) ∧
  (∀ (s : State) (obj : List Byte), s.ump.running = true → Answers (exec (.ownerKeyUpdate obj) s) fun t =>
    t.lcs = { s.lcs with resultCode := BitVec.ofNat 8 (s.checkOwnerKey obj), resultKind := 3, resultValid := true } ∧
    (if s.checkOwnerKey obj = 0 then t.otp = s.otp.addHash (leAt obj 0x48 1) (cut obj 0x50 64) ∧
        t.aod = { s.aod with challenge := none } ∧ (t.hdr .lcs).status.getLsbD 10 = true
     else t.otp = s.otp ∧ t.aod = s.aod ∧ (t.hdr .lcs).status.getLsbD 9 = true) ∧
    Only [.aod, .chip, .fns, .hdrs, .lcs, .otp, .out] s t) ∧
  (∀ s : State, s.umpUp = true → Answers (exec .measure s) fun t => t.erg = { s.erg with measuring := true } ∧ Only [.erg] s t) ∧
  (∀ (s : State) (counts slow : List (BitVec 16)) (months : BitVec 16), s.umpUp = true →
    Answers (exec (.ergMeasurement counts slow months) s) fun t =>
      (∀ k, k < 48 → t.erg.now.get 0 k = counts.getD k 0) ∧ (∀ k, k < 48 → slow.getD k 0 ≤ t.erg.worst) ∧
      (t.erg.worst ≠ 0 → slow.getD t.erg.worstChain.toNat 0 = t.erg.worst ∧
        ∀ k, k < t.erg.worstChain.toNat → slow.getD k 0 < t.erg.worst) ∧
      t.erg.proj = months ∧ t.erg.last = s.aod.rtc ∧ t.erg.measuring = false ∧ (t.hdr .erg).status.getLsbD 8 = true ∧
      (months.toNat ≤ 36 → t.chip.rePlan = true ∧ (t.hdr .erg).status.getLsbD 10 = true) ∧
      (36 < months.toNat → t.chip.rePlan = s.chip.rePlan) ∧ t.erg.setMv = s.erg.setMv ∧ t.erg.t0 = s.erg.t0 ∧
      Only [.chip, .erg, .fns, .hdrs, .out] s t) ∧
  (∀ (s : State) (up ack : Bool) (mv : BitVec 10), s.avsReady = true →
    (if up = true then s.qNum < s.qDen ∧ s.erg.setMv.toNat + 5 ≤ 850 ∧ mv = s.erg.setMv + 5
     else s.qHigh = true ∧ 655 ≤ s.erg.setMv.toNat ∧ mv = s.erg.setMv - 5 ∧
       ∃ x, s.erg.highSince = some x ∧ x + 60 * second ≤ s.now) → Answers (exec (.avsStep up ack) s) fun t =>
      OutEvent.avs mv.toNat ∈ t.out ∧
      (if ack = true then t.erg = { s.erg with setMv := mv, lastStep := some s.now } ∧ (t.hdr .erg).status.getLsbD 9 = true
       else t.erg = { s.erg with lastStep := some s.now } ∧ (t.hdr .erg).status.getLsbD 12 = true) ∧
      Only [.chip, .erg, .fns, .hdrs, .out] s t) ∧
  ∀ (s : State) (e : Nat) (blocks norm : W32), s.usable (.egt e) = true → s.chip.accReady = true →
    Answers (exec (.eightCadenceUpdate e blocks norm) s) fun t =>
      t.eight e = { s.eight e with cadence := blocks, cadenceNorm := norm } ∧ (∀ i, i ≠ e → t.eight i = s.eight i) ∧
      t.chip = t.sumCadence.chip ∧ (103 * t.qDen < 100 * t.qNum → t.erg.highSince = some (s.erg.highSince.getD s.now)) ∧
      (100 * t.qNum ≤ 103 * t.qDen → t.erg.highSince = none) ∧ (s.erg.setMv ≠ 850 → Only [.chip, .eights, .erg] s t) ∧
      Only [.chip, .eights, .erg, .fns, .hdrs, .out] s t

/-- Management requests (R422, R423) and the event log (R424). -/
def Obligations.ManagementRequestsAreCheckedAndServed : Prop :=
  (∀ (s : State) (t : Transport) (seq : BitVec 8) (args : List Byte) (objs : List CardObj) (failed : BitVec 4), ServedOn s t →
    ∀ row ∈ ([(0x01, .getStatus t seq args, args.isEmpty, true, []),
        (0x02, .groupReset t seq args, args.length == 1 && decide (leAt args 0 1 < 2), t == .i3c || leAt args 0 1 == 0, []),
        (0x03, .recover t seq args, args.length == 2 && decide (leAt args 0 1 < 2) && decide (1 ≤ leAt args 1 1) &&
          decide (leAt args 1 1 ≤ 3), true, []),
        (0x04, .issueChallenge t seq args, args.isEmpty, true, []), (0x05, .applyCard t seq args objs, args.isEmpty, true, []),
        (0x06, .exportAudit t seq args, args.isEmpty, true, []), (0x07, .eraseGrant t seq args, args.isEmpty, true, [2, 3]),
        (0x08, .quarRelease t seq args failed, args.length == 1 && decide (leAt args 0 1 < 16), t == .vdm, [])] ++
       [(0x09, .setMeasAcl t seq args, args.length == 9 && decide (32 ≤ leAt args 0 1) && decide (leAt args 0 1 < 64), t == .vdm, []),
        (0x0A, .disableSource t seq args, args.length == 2 && decide (leAt args 0 2 < 16384), true, [1, 2]),
        (0x0B, .programMonConfig t seq args, args.length == 12, true, [1, 2]),
        (0x0C, .setWdgFuses t seq args, args.length == 2 && decide (leAt args 0 1 < 4) && decide (leAt args 1 1 < 8), true, [1, 2]),
        (0x0D, .ergMeasure t seq args, args.isEmpty, true, []), (0x0E, .getEvents t seq args, args.length == 2, true, [])] :
        List (Nat × Instr × Bool × Bool × List Nat)),
      (row.2.2.1 = false → Answers (exec row.2.1 s) fun u => MgmtReply u t row.1 seq 2 0 [] ∧ Only [.out] s u) ∧
      (row.2.2.1 = true → row.2.2.2.1 = false → Answers (exec row.2.1 s) fun u => MgmtReply u t row.1 seq 3 0 [] ∧ Only [.out] s u) ∧
      (row.2.2.1 = true → row.2.2.2.1 = true → row.2.2.2.2 ≠ [] → s.lcs.state.toNat ∉ row.2.2.2.2 →
        Answers (exec row.2.1 s) fun u => MgmtReply u t row.1 seq 4 0 [] ∧ Only [.out] s u)) ∧
  (∀ (s : State) (t : Transport) (seq code : BitVec 8), ServedOn s t → code.toNat = 0 ∨ 0x0E < code.toNat →
    Answers (exec (.mgmtUnsupported t seq code) s) fun u => MgmtReply u t code.toNat seq 1 0 [] ∧ Only [.out] s u) ∧
  (∀ (s : State) (t : Transport) (seq : BitVec 8), ServedOn s t →
    (Answers (exec (.getStatus t seq []) s) fun u => MgmtReply u t 0x01 seq 0 0 (leBytes 4 s.chipStatus ++ leBytes 4 s.psqVerdict ++
      leBytes 4 s.lcsState ++ leBytes 4 s.tmpStatus ++
      (List.range 9).flatMap fun i => leBytes 4 (s.pageWord .evidence (0x080 + 4 * i)).toNat) ∧ Only [.out] s u) ∧
    (Answers (exec (.issueChallenge t seq []) s) fun u => u.aod = { s.aod with challenge := some (s.draw 256) } ∧
      (s.chip.accReset = false → MgmtReply u t 0x04 seq 0 0 s.newChallenge.challengeObject ∧ u.ump = s.ump) ∧
      (s.chip.accReset = true → u.out = s.out ∧
        u.ump = { s.ump with held := s.ump.held ++ [.mgmt (tIndex t) 4 seq 0 0 s.newChallenge.challengeObject] }) ∧
      Only [.aod, .freeCtr, .out, .ump] s u) ∧
    (Answers (exec (.exportAudit t seq []) s) fun u =>
      if s.exportAudit.2 = true then MgmtReply u t 0x06 seq 0 0 [] ∧ u.cci = s.exportAudit.1.cci
      else ∃ d, MgmtReply u t 0x06 seq 6 d []) ∧
    (s.lcs.state = 2 ∨ s.lcs.state = 3 → Answers (exec (.eraseGrant t seq []) s) fun u => MgmtReply u t 0x07 seq 0 0 [] ∧
      u.store = { s.store with grant := none, grantRaw := [] } ∧ Only [.out, .store] s u) ∧
    (Answers (exec (.ergMeasure t seq []) s) fun u => MgmtReply u t 0x0D seq 0 0 [] ∧
      u.erg = { s.erg with measuring := true } ∧ Only [.erg, .out] s u) ∧
    ∀ args, args.length = 2 → Answers (exec (.getEvents t seq args) s) fun u =>
      MgmtReply u t 0x0E seq 0 0 (((s.ump.events.drop (leAt args 0 2)).take 64).flatMap Ev.bytes) ∧ Only [.out] s u) ∧
  (∀ (s : State) (t : Transport) (seq b : BitVec 8) (g : Nat), ServedOn s t → b = byteOf g → g < 2 → t = .i3c ∨ g = 0 →
    Answers (exec (.groupReset t seq [b]) s) fun u => MgmtReply u t 0x02 seq 0 0 [] ∧ (∀ k, k / 32 = g → u.entState k = .untried) ∧
      u.psq.retryTimer.getLsbD g = false ∧ (u.groupEntries g ≠ [] → u.grp g ≠ .released)) ∧
  (∀ (s : State) (t : Transport) (seq : BitVec 8) (g src : Nat), ServedOn s t → g < 2 → 1 ≤ src → src ≤ 3 →
    Answers (exec (.recover t seq [byteOf g, byteOf src]) s) fun u =>
      if g = 1 ∧ src = 2 then (∃ d, MgmtReply u t 0x03 seq 6 d []) ∧ u.psq = s.psq
      else MgmtReply u t 0x03 seq 0 0 [] ∧ u.grp g = .recovery ∧ u.psq.only.get 0 g = src) ∧
  ∀ s : State, s.umpUp = true → Answers (exec .eventLogCopy s) fun u =>
    u.ump = { s.ump with eventCopy := s.ump.events } ∧ Only [.ump] s u

/-- Requests that change settings (R423), each served. -/
def Obligations.ManagementRequestsThatChangeSettings : Prop :=
  ∀ (s : State) (t : Transport) (seq : BitVec 8), ServedOn s t →
    (∀ objs, s.cci.card.hdr = [] → Answers (exec (.applyCard t seq [] objs) s) fun u => (∃ d, MgmtReply u t 0x05 seq 6 d []) ∧
      Only [.freeCtr, .out] s u) ∧
    (∀ objs, s.cci.card.hdr ≠ [] → (∀ o ∈ objs, s.mine o.target = false) →
      Answers (exec (.applyCard t seq [] objs) s) fun u => MgmtReply u t 0x05 seq 0 0 [] ∧ Only [.out] s u) ∧
    (∀ o : CardObj, s.cci.card.hdr ≠ [] → s.mine o.target = true → Answers (exec (.applyCard t seq [] [o]) s) fun u =>
      (o.kind = 5 → u.progs = (s.loadProgram o.data).1.progs ∧ u.meas = (s.loadProgram o.data).1.meas ∧
        MgmtReply u t 0x05 seq (if (s.loadProgram o.data).2 = 0 then 0 else 6) (s.loadProgram o.data).2 []) ∧
      (o.kind = 7 → u.store = (s.grantRequest o.data).store ∧ u.lcs = (s.grantRequest o.data).lcs ∧
        (s.checkGrant o.data true = 0x10 → MgmtReply u t 0x05 seq 0 0 []) ∧
        (s.checkGrant o.data true ≠ 0x10 → s.checkGrant o.data true ≠ 0 → MgmtReply u t 0x05 seq 6 (s.checkGrant o.data true) [])) ∧
      (o.kind = 8 → u.otp = (s.ownerKeyRequest o.data).otp ∧ u.lcs = (s.ownerKeyRequest o.data).lcs ∧
        MgmtReply u t 0x05 seq (if s.checkOwnerKey o.data = 0 then 0 else 6) (s.checkOwnerKey o.data) [])) ∧
    (∀ (b : BitVec 8) (failed : BitVec 4), t = .vdm → b.toNat < 16 →
      let bad : BitVec 4 := b.setWidth 4 &&& (failed ||| ~~~(BitVec.ofNat 4 (2 ^ s.variant.regions - 1)))
      Answers (exec (.quarRelease t seq [b] failed) s) fun u =>
        MgmtReply u t 0x08 seq (if bad = 0 then 0 else 6) bad.toNat [] ∧ ∀ r, r < 4 →
          (b.getLsbD r = true → bad.getLsbD r = false → u.aod.quar.getLsbD r = false ∧ ∀ p ∈ regionPages r, (u.hdr p).quar = false) ∧
          (bad.getLsbD r = true ∨ b.getLsbD r = false → u.aod.quar.getLsbD r = s.aod.quar.getLsbD r ∧
            ∀ p ∈ regionPages r, (u.hdr p).quar = (s.hdr p).quar)) ∧
    (∀ args, t = .vdm → args.length = 9 → 32 ≤ leAt args 0 1 → leAt args 0 1 < 64 →
      Answers (exec (.setMeasAcl t seq args) s) fun u =>
        if s.chip.accReset = true ∨ bit (s.hdr (.meas 1)).lock 0 = true ∨ (s.mreg (leAt args 0 1)).cnt ≠ 0 then
          (∃ d, MgmtReply u t 0x09 seq 6 d []) ∧ u.meas = s.meas
        else MgmtReply u t 0x09 seq 0 0 [] ∧ Only [.meas, .out] s u ∧
          (∀ n, n = leAt args 0 1 → u.mreg n = { s.mreg n with acl := BitVec.ofNat 64 (leAt args 1 8) &&& 0x8FFF8FFF8FFF8FFF }) ∧
          ∀ n, n ≠ leAt args 0 1 → u.mreg n = s.mreg n) ∧
    (s.lcs.state = 1 ∨ s.lcs.state = 2 →
      (∀ args, args.length = 2 → leAt args 0 2 < 16384 → Answers (exec (.disableSource t seq args) s) fun u =>
        MgmtReply u t 0x0A seq 0 0 [] ∧ u.otp = { s.otp with disable := s.otp.disable ||| BitVec.ofNat 14 (leAt args 0 2) } ∧
        Only [.otp, .out] s u) ∧
      (∀ args, args.length = 12 → Answers (exec (.programMonConfig t seq args) s) fun u =>
        if s.otp.mon.length < 4 then MgmtReply u t 0x0B seq 0 0 [] ∧ u.otp = { s.otp with mon := s.otp.mon ++
          [{ cls := mergeClass s.tmp.cls (BitVec.ofNat 32 (leAt args 0 4)), region := BitVec.ofNat 64 (leAt args 4 8), valid := true }] }
        else (∃ d, MgmtReply u t 0x0B seq 6 d []) ∧ u.otp = s.otp) ∧
      ∀ args, args.length = 2 → leAt args 0 1 < 4 → leAt args 1 1 < 8 → Answers (exec (.setWdgFuses t seq args) s) fun u =>
        if (leAt args 0 1 = 0 ∨ s.otp.wdgWin = none) ∧ (leAt args 1 1 = 0 ∨ s.otp.wdgRep = none) then
          MgmtReply u t 0x0C seq 0 0 [] ∧ Only [.otp, .out] s u ∧ u.otp = { s.otp with
            wdgWin := if leAt args 0 1 = 0 then s.otp.wdgWin else some (BitVec.ofNat 2 (leAt args 0 1))
            wdgRep := if leAt args 1 1 = 0 then s.otp.wdgRep else some (BitVec.ofNat 3 (leAt args 1 1)) }
        else (∃ d, MgmtReply u t 0x0C seq 6 d []) ∧ u.otp = s.otp)

/-- PLDM (R425, R426) and I3C (R475). Message layouts are the model's, from the PLDM standards (log entry 8). -/
def Obligations.PldmBaseAndSensors : Prop :=
  (∀ (s : State) (t : Transport), ServedOn s t →
    (Answers (exec (.getTid t) s) fun u => PldmReply u (tIndex t) 0x02 0 [0] ∧ Only [.out] s u) ∧
    (∀ ty : BitVec 8, Answers (exec (.getPldmVersion t ty) s) fun u => Only [.freeCtr, .out] s u ∧
      if ty.toNat ∈ [0, 2, 5] then ∃ d, PldmReply u (tIndex t) 0x03 0 d else PldmReply u (tIndex t) 0x03 0x83 []) ∧
    (Answers (exec (.getPldmTypes t) s) fun u => PldmReply u (tIndex t) 0x04 0 [0x25, 0, 0, 0, 0, 0, 0, 0] ∧ Only [.out] s u) ∧
    (∀ ty : BitVec 8, Answers (exec (.getPldmCommands t ty) s) fun u => Only [.out] s u ∧
      if ty.toNat ∈ [0, 2, 5] then PldmReply u (tIndex t) 0x05 0 (leBytes 32 ((pldmCommands ty.toNat).foldl (fun a b => a + 2 ^ b) 0))
      else PldmReply u (tIndex t) 0x05 0x83 []) ∧
    (∀ en eid : BitVec 8, Answers (exec (.setEventReceiver t en eid) s) fun u => Only [.mon, .out] s u ∧
      (1 < en.toNat → PldmReply u (tIndex t) 0x04 0x81 [] ∧ u.mon = s.mon) ∧
      (en.toNat ≤ 1 → PldmReply u (tIndex t) 0x04 0 [] ∧
        u.mon.receiver.get none (tIndex t) = (if en = 1 then some eid else none) ∧
        ∀ k, k ≠ tIndex t → u.mon.receiver.get none k = s.mon.receiver.get none k)) ∧
    (Answers (exec (.getPdrRepositoryInfo t) s) fun u => Only [.freeCtr, .out] s u ∧
      ∃ d, PldmReply u (tIndex t) 0x50 0 ([0, 41, 0, 0, 0] ++ d)) ∧
    (∀ h : W32, Answers (exec (.getPdr t h) s) fun u => Only [.out] s u ∧
      match sensors[(if h = 0 then 1 else h.toNat) - 1]? with
      | none => PldmReply u (tIndex t) 0x51 0x82 []
      | some n => ∃ d, PldmReply u (tIndex t) 0x51 0 (d ++ [if 1 ≤ n ∧ n ≤ 36 then 2 else 4] ++ leBytes 2 n ++
          (thresholds n).flatMap (leBytes 2))) ∧
    (∀ n, Answers (exec (.getSensorReading t n) s) fun u => Only [.freeCtr, .out] s u ∧
      if 1 ≤ n ∧ n ≤ 36 then PldmReply u (tIndex t) 0x11 0
        ([byteOf (b2n (s.mon.disabled.contains n))] ++ leBytes 4 (s.numericReading n))
      else PldmReply u (tIndex t) 0x11 0x80 []) ∧
    (∀ n, Answers (exec (.getStateSensorReadings t n) s) fun u => Only [.out] s u ∧
      if 40 ≤ n ∧ n ≤ 44 then PldmReply u (tIndex t) 0x21 0 [1, 0, byteOf (s.stateReading n), byteOf (s.mon.reported.get 0 n)]
      else PldmReply u (tIndex t) 0x21 0x80 []) ∧
    (∀ (n : Nat) (op : BitVec 8), Answers (exec (.setNumericSensorEnable t n op) s) fun u => Only [.mon, .out] s u ∧
      if 1 ≤ n ∧ n ≤ 36 ∧ op.toNat ≤ 2 then PldmReply u (tIndex t) 0x10 0 [] ∧ (n ∈ u.mon.disabled ↔ op ≠ 0) ∧
        ∀ k, k ≠ n → (k ∈ u.mon.disabled ↔ k ∈ s.mon.disabled)
      else u.mon = s.mon) ∧
    (Answers (exec (.queryDeviceIdentifiers t) s) fun u => Only [.out] s u ∧
      PldmReply u (tIndex t) 0x01 0 ([3, 0, 0, 2, 0, 0x3C, 0x1F, 0x00, 0x01, 2, 0] ++ leBytes 2 s.variant.deviceCode ++ [0xFF, 0xFF] ++
        leBytes 2 s.deviceId.length ++ s.deviceId)) ∧
    Answers (exec (.getFirmwareParameters t) s) fun u => Only [.out] s u ∧
      PldmReply u (tIndex t) 0x02 0 (leBytes 2 components.length ++ components.flatMap (leBytes 2) ++ leBytes 4 s.ump.fwVersion.toNat ++
        s.programVersions)) ∧
  (∀ (s : State) (d : Nat) (temp : Int), s.aod.onCell = false → d < 24 →
    let l := if 110 ≤ temp then 3 else if 105 ≤ temp then 2 else if 100 ≤ temp then 1 else 0
    s.mon.level.get 0 d ≠ l → Answers (exec (.tempThresholdCrossing d temp) s) fun u =>
      (∀ k, u.mon.level.get 0 k = if k = d then l else s.mon.level.get 0 k) ∧
      (s.umpUp = true → s.mon.receiver ≠ [] → s.mon.disabled.contains (d + 1) = false → OutEvent.pldmEvent (d + 1) temp ∈ u.out) ∧
      (110 ≤ temp → u.chip.thermalHold = true) ∧
      (temp < 105 → (∀ k, k < 24 → k ≠ d → s.mon.level.get 0 k < 2) → u.chip.thermalHold = false) ∧ Only [.chip, .mon, .out] s u) ∧
  ∀ (s : State) (a : BitVec 7), s.aod.onCell = false → Answers (exec (.i3cDynamicAddressAssignment a) s) fun u =>
    u.ump = { s.ump with i3cDynamic := true, i3cAddr := a } ∧ Only [.ump] s u

/-- Firmware update (R426, R427). Phases and codes are the model's, from the PLDM standard (log entry 8). -/
def Obligations.PldmFirmwareUpdate : Prop :=
  (∀ (s : State) (t : Transport), ServedOn s t →
    (Answers (exec (.requestUpdate t) s) fun u => Only [.out, .pldm] s u ∧
      if s.pldm.phase = 0 then u.pldm = { t := tIndex t, phase := 1 } ∧ PldmReply u (tIndex t) 0x10 0 [0, 0, 0]
      else u.pldm = s.pldm ∧ PldmReply u (tIndex t) 0x10 0x81 []) ∧
    (∀ c p : BitVec 16, s.pldm.phase = 1 ∨ s.pldm.phase = 2 → Answers (exec (.passComponentTable t c p) s) fun u => Only [.out, .pldm] s u ∧
      if s.mayUpdate c.toNat = true then
        u.pldm = { s.pldm with phase := 2, passed := s.pldm.passed ++ [c], param := p } ∧ PldmReply u (tIndex t) 0x13 0 [0, 0]
      else u.pldm = s.pldm ∧ PldmReply u (tIndex t) 0x13 0 [1, 6]) ∧
    (∀ (c p : BitVec 16) (n : Nat), s.pldm.phase = 2 → s.pldm.passed.contains c = true →
      Answers (exec (.updateComponent t c p n) s) fun u => Only [.out, .pldm] s u ∧
        u.pldm = { s.pldm with phase := 3, comp := c, param := p, size := n, data := [], result := 0 } ∧
        PldmReply u (tIndex t) 0x14 0 [0, 0, 0, 0, 0, 0, 0]) ∧
    (s.pldm.phase = 2 → (∀ c ∈ s.pldm.passed, c ∈ s.pldm.applied) → Answers (exec (.activateFirmware t) s) fun u =>
      PldmReply u (tIndex t) 0x1A 0 [0, 0] ∧ u.pldm = {} ∧
      (if 1 ∈ s.pldm.applied then s.aod.lost = false → u.aod.trial = true ∧ u.aod.prefSlotB = (!s.ump.fwSlotB) ∧ u.chip.accReset = true ∧
          u.chip.accReady = false
       else Only [.out, .pldm] s u)) ∧
    (s.pldm.phase ≠ 2 → Answers (exec (.activateFirmware t) s) fun u => PldmReply u (tIndex t) 0x1A 0x84 [] ∧ Only [.out] s u) ∧
    (Answers (exec (.pldmGetStatus t) s) fun u =>
      PldmReply u (tIndex t) 0x1B 0 [s.pldm.phase.setWidth 8, s.pldm.result] ∧ Only [.out] s u) ∧
    (Answers (exec (.cancelUpdateComponent t) s) fun u => Only [.out, .pldm] s u ∧
      if 3 ≤ s.pldm.phase.toNat then u.pldm = { s.pldm with phase := 2, data := [] } ∧ PldmReply u (tIndex t) 0x1C 0 []
      else u.pldm = s.pldm) ∧
    Answers (exec (.cancelUpdate t) s) fun u => Only [.out, .pldm] s u ∧
      if s.pldm.phase = 0 then u.pldm = s.pldm ∧ PldmReply u (tIndex t) 0x1D 0x80 []
      else u.pldm = {} ∧ PldmReply u (tIndex t) 0x1D 0 [0]) ∧
  ∀ s : State, s.umpUp = true →
    (∀ data, s.pldm.phase = 3 → s.pldm.data.length < s.pldm.size → data.length = min 4096 (s.pldm.size - s.pldm.data.length) →
      Answers (exec (.requestFirmwareData s.pldm.data.length data) s) fun u =>
        u.pldm = { s.pldm with data := s.pldm.data ++ data } ∧ Only [.out, .pldm] s u ∧
        PldmReply u s.pldm.t 0x15 0 (leBytes 4 s.pldm.data.length ++ leBytes 4 data.length)) ∧
    (∀ ok, s.pldm.phase = 3 → Answers (exec (.transferComplete ok) s) fun u => Only [.out, .pldm] s u ∧
      if ok = true ∧ s.pldm.data.length = s.pldm.size then
        u.pldm = { s.pldm with phase := 4 } ∧ PldmReply u s.pldm.t 0x16 0 [0]
      else u.pldm = { s.pldm with phase := 2, data := [] } ∧ PldmReply u s.pldm.t 0x16 0 [1]) ∧
    (∀ staged, s.pldm.phase = 4 → Answers (exec (.verifyComplete staged) s) fun u =>
      PldmReply u s.pldm.t 0x17 0 [byteOf (s.pldmVerify staged)] ∧
      u.pldm = { s.pldm with phase := if s.pldmVerify staged = 0 then 5 else 2, result := byteOf (s.pldmVerify staged) } ∧
      (u.store = if s.pldm.comp = 1 then
        (if s.ump.fwSlotB = true then { s.store with fwA := s.pldm.data } else { s.store with fwB := s.pldm.data }) else s.store) ∧
      (s.pldm.comp = 5 → s.pldmVerify staged ≠ 0 → ∃ e, u.ump.events.getLast? = some e ∧ e.page = 0x0F ∧
        e.code = BitVec.ofNat 8 (s.checkProgram s.pldm.data).1) ∧
      (s.pldm.comp ≠ 5 → u.ump = s.ump) ∧ Only [.freeCtr, .out, .pldm, .store, .ump] s u) ∧
    (s.pldm.phase = 5 → Answers (exec .applyComplete s) fun u =>
      let e := if s.pldm.comp = 5 ∧ (s.loadProgram s.pldm.data).2 ≠ 0 then 0x90 + (s.loadProgram s.pldm.data).2 else 0
      PldmReply u s.pldm.t 0x18 0 [byteOf e] ∧ u.pldm.phase = 2 ∧ u.pldm.data = [] ∧ u.pldm.result = byteOf e ∧
      u.pldm.applied = (if e = 0 then s.pldm.applied ++ [s.pldm.comp] else s.pldm.applied) ∧
      (s.pldm.comp = 5 → u.progs = (s.loadProgram s.pldm.data).1.progs ∧ u.meas = (s.loadProgram s.pldm.data).1.meas) ∧
      (s.pldm.comp = 1 → Only [.out, .pldm] s u))

/-- JTAG (R393 to R395). That TAP reset selects IDCODE is the model's reading of IEEE 1149.1 (log entry 6). -/
def Obligations.JtagInstructions : Prop :=
  (∀ (s : State), s.aod.onCell = false →
    (Answers (exec .idcode s) fun t => OutEvent.jtag (leBytes 4 (idcodeOf s.variant)) ∈ t.out ∧ t.dbg = { s.dbg with ir := 1 } ∧
      Only [.dbg, .out] s t) ∧
    (∀ (bits : List Byte) (p : PageId) (off i a : Nat) (op : CoreOp) (w : Option Word) (v : Option W32),
      ∀ row ∈ ([(3, .extest bits), (3, .samplePreload bits), (0, .dbgStatus p off), (1, .dbgTrace i), (2, .dbgPerf p off),
        (4, .dbgCore op), (5, .dbgMem i a w), (6, .dbgAcc p off v)] : List (Nat × Instr)), s.dbg.rights.getLsbD row.1 = false →
      Answers (exec row.2 s) fun t => t.dbg = { s.dbg with ir := 0xFF, denyCnt := BitVec.ofNat 32 (min (s.dbg.denyCnt.toNat + 1) 4294967295) } ∧
        (t.hdr .dbg).status.getLsbD 8 = true ∧ Only [.chip, .dbg, .fns, .hdrs, .out] s t) ∧
    (∀ n : BitVec 4, Answers (exec (.scan n) s) fun t =>
      if s.lcs.state = 1 ∨ s.lcs.state = 4 then t.aod.serviceRoot = none ∧ t.dbg.scan = true ∧ t.dbg.ir = 0x20#8 + n.setWidth 8 ∧
        t.chip.accReset = true ∧ t.chip.accReady = false ∧ t.ump.running = false ∧ t.chans = [] ∧ t.kslots = []
      else t.dbg = { s.dbg with ir := 0xFF, denyCnt := BitVec.ofNat 32 (min (s.dbg.denyCnt.toNat + 1) 4294967295) }) ∧
    (∀ c : BitVec 8, Answers (exec (.bypass c) s) fun t => t.dbg.ir = 0xFF ∧
      (c = 0xFF → t.dbg = { s.dbg with ir := 0xFF } ∧ Only [.dbg] s t) ∧
      (c ≠ 0xFF → t.dbg.denyCnt.toNat = min (s.dbg.denyCnt.toNat + 1) 4294967295 ∧ Only [.chip, .dbg, .fns, .hdrs, .out] s t)) ∧
    Answers (exec .tapReset s) fun t => t.dbg = { s.dbg with ir := 1 } ∧ Only [.dbg] s t) ∧
  (∀ (s : State) (bits : List Byte), TapOpen s 3 →
    (Answers (exec (.extest bits) s) fun t => t.dbg = { s.dbg with ir := 0, boundary := bits } ∧
      (∃ d : List Byte, d.length = bits.length ∧ OutEvent.jtag d ∈ t.out) ∧ Only [.dbg, .freeCtr, .out] s t) ∧
    Answers (exec (.samplePreload bits) s) fun t => t.dbg = { s.dbg with ir := 2, boundary := bits } ∧
      (∃ d : List Byte, d.length = bits.length ∧ OutEvent.jtag d ∈ t.out) ∧ Only [.dbg, .freeCtr, .out] s t) ∧
  (∀ (s : State) (p : PageId) (off : Nat), TapOpen s 0 → Answers (exec (.dbgStatus p off) s) fun t => Only [.dbg, .out] s t ∧
    t.dbg = { s.dbg with ir := 0x10 } ∧ OutEvent.jtag (leBytes 4
      (if p ∈ [PageId.lcs, PageId.dbg, PageId.chip, PageId.chipInt] then ({ s with dbg := t.dbg } : State).pageWord p off else 0).toNat) ∈ t.out) ∧
  (∀ (s : State) (i : Nat), TapOpen s 1 → Answers (exec (.dbgTrace i) s) fun t => Only [.dbg, .freeCtr, .out] s t ∧
    ∃ d, OutEvent.jtag d ∈ t.out ∧ ∀ e, s.ump.events[i]? = some e → d = e.bytes) ∧
  (∀ (s : State) (p : PageId) (off : Nat), TapOpen s 2 → Answers (exec (.dbgPerf p off) s) fun t => Only [.dbg, .out] s t ∧
    OutEvent.jtag (leBytes 4 (if counterAt p off = true then ({ s with dbg := t.dbg } : State).pageWord p off else 0).toNat) ∈ t.out) ∧
  (∀ s : State, TapOpen s 4 →
    (s.ump.running = true → Answers (exec (.dbgCore .halt) s) fun t => t.dbg = { s.dbg with ir := 0x13, halted := true } ∧
      t.wdg = { s.wdg with frozen := true } ∧ Only [.dbg, .wdg] s t) ∧
    (s.aod.serviceRoot.isSome = true ∨ s.ump.running = false → Answers (exec (.dbgCore .resume) s) fun t =>
      t.dbg = { s.dbg with ir := 0x13, halted := false } ∧ t.wdg = { s.wdg with frozen := false } ∧ Only [.dbg, .wdg] s t) ∧
    (s.aod.serviceRoot = none → s.ump.running = true → s.ump.halted = false → s.scrapped = false →
      Answers (exec (.dbgCore .resume) s) fun t => t.dbg = { s.dbg with ir := 0x13, halted := false } ∧
        t.wdg = { s.wdg with frozen := false } ∧ t.aod.serviceRoot.isSome = true ∧ (t.hdr .klg).status.getLsbD 10 = true) ∧
    (s.dbg.halted = true → s.ump.running = true → s.ump.halted = false → s.ump.waiting = false → s.ump.regs.fld = [] →
      s.ump.regs.ldepth = 0 → fetchBad .umpire s.ump.regs.pbk s.ump.regs.pc = false →
      let n := s.fetchIns .umpire s.ump.regs.pbk s.ump.regs.pc.toNat
      n.op = 0 → Answers (exec (.dbgCore .step) s) fun t => t.dbg.halted = true ∧ t.dbg.ir = 0x13 ∧
        t.ump.regs.pc = s.ump.regs.pc + BitVec.ofNat 18 (Enc.len n.x false) ∧ t.ump.regs.p = s.ump.regs.p ∧
        t.ump.sram = s.ump.sram ∧ Only [.dbg, .ump, .wdg] s t) ∧
    (s.dbg.halted = true → Answers (exec (.dbgCore .readPc) s) fun t =>
      OutEvent.jtag (leBytes 4 (s.ump.regs.pbk ++ s.ump.regs.pc).toNat) ∈ t.out ∧ Only [.dbg, .out] s t) ∧
    (∀ n, s.dbg.halted = true → Answers (exec (.dbgCore (.readP n)) s) fun t =>
      OutEvent.jtag (leBytes 4 (s.ump.regs.ptr n).toNat) ∈ t.out ∧ Only [.dbg, .out] s t) ∧
    (∀ n v, s.dbg.halted = true → n < 16 → Answers (exec (.dbgCore (.writeP n v)) s) fun t =>
      (∀ k, k < 16 → t.ump.regs.ptr k = if k = n then v else s.ump.regs.ptr k) ∧ t.ump.sram = s.ump.sram ∧
      t.ump.regs.pc = s.ump.regs.pc ∧ Only [.dbg, .ump] s t) ∧
    (∀ a, Answers (exec (.dbgCore (.setBreak a)) s) fun t => (∀ x, x ∈ t.dbg.brk ↔ x = a ∨ x ∈ s.dbg.brk) ∧ Only [.dbg] s t) ∧
    ∀ a, Answers (exec (.dbgCore (.clearBreak a)) s) fun t => (∀ x, x ∈ t.dbg.brk ↔ x ≠ a ∧ x ∈ s.dbg.brk) ∧ Only [.dbg] s t) ∧
  (∀ (s : State) (a : Nat), TapOpen s 5 → a < 262144 →
    (a ∉ s.ump.poison → Answers (exec (.dbgMem 0 a none) s) fun t =>
      OutEvent.jtag (leBytes 16 (s.ump.sram.get 0 a).toNat) ∈ t.out ∧ Only [.dbg, .out] s t) ∧
    ∀ v, Answers (exec (.dbgMem 0 a (some v)) s) fun t =>
      (∀ w, t.ump.sram.get 0 w = if w = a then v else s.ump.sram.get 0 w) ∧ t.ump.regs = s.ump.regs ∧ Only [.dbg, .ump] s t) ∧
  ∀ (s : State) (p : PageId) (off : Nat), TapOpen s 6 → PageId.accel p = true →
    (Answers (exec (.dbgAcc p off none) s) fun t => t.dbg = { s.dbg with ir := 0x15 } ∧
      OutEvent.jtag (leBytes 4 (({ s with dbg := t.dbg } : State).pageWord p off).toNat) ∈ t.out) ∧
    ∀ v : W32, Answers (exec (.dbgAcc p off (some v)) s) fun t =>
      t = (s.onDbg fun d => { d with ir := 0x15 }).pageWrite .umpire p off 4 (v.setWidth 64)
end

