-- ==== Sys2Proof/Laws/SMap.lean ====
section
/-!
SUPPORT. Laws of the sparse map: what a read after a write gives, and that every operation keeps the canonical form.
-/

namespace Sys2Proof.SMap

variable {α : Type}

@[simp] theorem get_nil (d : α) (k : Nat) : get d [] k = d := rfl

/-- A lower bound may be lowered. -/
theorem wfFrom_mono [DecidableEq α] {d : α} {m : SMap α} {lo lo' : Nat} (h : wfFrom d lo m = true) (hl : lo' ≤ lo) :
    wfFrom d lo' m = true := by
  cases m with
  | nil => rfl
  | cons kv r =>
    simp only [wfFrom, Bool.and_eq_true, decide_eq_true_eq] at h ⊢
    exact ⟨⟨le_trans hl h.1.1, h.1.2⟩, h.2⟩

theorem wfFrom_erase [DecidableEq α] {d : α} (k : Nat) {m : SMap α} {lo : Nat} (h : wfFrom d lo m = true) :
    wfFrom d lo (erase m k) = true := by
  induction m generalizing lo with
  | nil => rfl
  | cons kv r ih =>
    obtain ⟨k', v⟩ := kv
    simp only [wfFrom, Bool.and_eq_true, decide_eq_true_eq] at h
    unfold erase
    split
    · exact wfFrom_mono (ih h.2) (by omega)
    · simp [wfFrom, h.1.1, h.1.2, ih h.2]

theorem wfFrom_insert [DecidableEq α] {d v : α} (hv : v ≠ d) {k : Nat} {m : SMap α} {lo : Nat} (h : wfFrom d lo m = true)
    (hk : lo ≤ k) : wfFrom d lo (insert m k v) = true := by
  induction m generalizing lo with
  | nil => simp [insert, wfFrom, hk, hv]
  | cons kv r ih =>
    obtain ⟨k', v'⟩ := kv
    simp only [wfFrom, Bool.and_eq_true, decide_eq_true_eq] at h
    unfold insert
    split
    · rename_i e
      subst e
      simp [wfFrom, hk, hv, h.2]
    · split
      · rename_i h2
        simp [wfFrom, hk, hv, h.1.2, h.2, h2]
      · simp [wfFrom, h.1.1, h.1.2, ih h.2 (by omega : k' + 1 ≤ k)]

/-- Writing keeps the canonical form. -/
theorem wf_set [DecidableEq α] {d : α} {m : SMap α} (h : wf d m = true) (k : Nat) (v : α) : wf d (set d m k v) = true := by
  unfold set wf
  split
  · exact wfFrom_erase k h
  · rename_i hv
    exact wfFrom_insert hv h (Nat.zero_le k)

theorem wfFrom_filter [DecidableEq α] {d : α} (p : Nat × α → Bool) {m : SMap α} {lo : Nat} (h : wfFrom d lo m = true) :
    wfFrom d lo (m.filter p) = true := by
  induction m generalizing lo with
  | nil => rfl
  | cons kv r ih =>
    simp only [wfFrom, Bool.and_eq_true, decide_eq_true_eq] at h
    have h1 := ih h.2
    rw [List.filter_cons]
    split
    · simp [wfFrom, h.1.1, h.1.2, h1]
    · exact wfFrom_mono h1 (by omega)

/-- Dropping entries keeps the canonical form. -/
theorem wf_filter [DecidableEq α] {d : α} (p : Nat × α → Bool) {m : SMap α} (h : wf d m = true) : wf d (m.filter p) = true :=
  wfFrom_filter p h

theorem wfFrom_mapVals [DecidableEq α] {d : α} (f : Nat → α → α) {m : SMap α} {lo : Nat} (h : wfFrom d lo m = true) :
    wfFrom d lo (mapVals d f m) = true := by
  induction m generalizing lo with
  | nil => rfl
  | cons kv r ih =>
    obtain ⟨k, v⟩ := kv
    simp only [wfFrom, Bool.and_eq_true, decide_eq_true_eq] at h
    have h1 := ih h.2
    unfold mapVals
    by_cases hc : f k v = d
    · simp only [hc, if_true]
      exact wfFrom_mono (wfFrom_erase k h1) (by omega)
    · simp only [hc, if_false]
      simp [wfFrom, h.1.1, hc, h1]

/-- Changing every value keeps the canonical form. -/
theorem wf_mapVals [DecidableEq α] {d : α} (f : Nat → α → α) {m : SMap α} (h : wf d m = true) : wf d (mapVals d f m) = true :=
  wfFrom_mapVals f h

theorem get_insert_same {d v : α} (m : SMap α) (k : Nat) : get d (insert m k v) k = v := by
  induction m with
  | nil => simp [insert, get]
  | cons kv r ih =>
    obtain ⟨k', v'⟩ := kv
    unfold insert
    split
    · simp [get]
    · split
      · simp [get]
      · rename_i h1 h2
        simp [get, h1, ih]

theorem get_erase_same {d : α} (m : SMap α) (k : Nat) : get d (erase m k) k = d := by
  induction m with
  | nil => rfl
  | cons kv r ih =>
    obtain ⟨k', v'⟩ := kv
    unfold erase
    split
    · exact ih
    · rename_i h1
      simp [get, h1, ih]

theorem get_insert_other {d v : α} (m : SMap α) {k j : Nat} (hj : j ≠ k) : get d (insert m k v) j = get d m j := by
  induction m with
  | nil => simp [insert, get, hj]
  | cons kv r ih =>
    obtain ⟨k', v'⟩ := kv
    unfold insert
    split
    · rename_i e
      subst e
      simp [get, hj]
    · split
      · simp [get, hj]
      · simp [get, ih]

theorem get_erase_other {d : α} (m : SMap α) {k j : Nat} (hj : j ≠ k) : get d (erase m k) j = get d m j := by
  induction m with
  | nil => rfl
  | cons kv r ih =>
    obtain ⟨k', v'⟩ := kv
    unfold erase
    split
    · rename_i e
      subst e
      simp [get, hj, ih]
    · simp [get, ih]

/-- A read after a write to the same key gives the value written. -/
@[simp] theorem get_set_same [DecidableEq α] (d : α) (m : SMap α) (k : Nat) (v : α) : get d (set d m k v) k = v := by
  unfold set
  split
  · rename_i e
    rw [get_erase_same, e]
  · exact get_insert_same m k

/-- A write leaves every other key alone. -/
theorem get_set_other [DecidableEq α] {d : α} (m : SMap α) {k j : Nat} (hj : j ≠ k) (v : α) :
    get d (set d m k v) j = get d m j := by
  unfold set
  split
  · exact get_erase_other m hj
  · exact get_insert_other m hj

/-- A read after every value was changed, by a change that keeps the default, gives the value changed. -/
theorem get_mapVals [DecidableEq α] {d : α} (f : Nat → α → α) (m : SMap α) (k : Nat) (h : f k d = d) :
    get d (mapVals d f m) k = f k (get d m k) := by
  induction m with
  | nil => exact h.symm
  | cons kv r ih =>
    obtain ⟨k', v⟩ := kv
    unfold mapVals
    by_cases hk : k = k'
    · subst hk
      by_cases hc : f k v = d
      · simp only [hc, if_true, get_erase_same]
        simp [get, hc]
      · simp [hc, get]
    · by_cases hc : f k' v = d
      · simp only [hc, if_true, get_erase_other _ hk]
        simp [get, hk, ih]
      · simp [hc, get, hk, ih]

theorem mem_insert {m : SMap α} {k : Nat} {v : α} {x : Nat × α} (h : x ∈ insert m k v) : x = (k, v) ∨ x ∈ m := by
  induction m with
  | nil => exact Or.inl (by simpa [insert] using h)
  | cons kv r ih =>
    obtain ⟨k', v'⟩ := kv
    unfold insert at h
    split at h
    · rcases List.mem_cons.1 h with h | h
      · exact Or.inl h
      · exact Or.inr (List.mem_cons_of_mem _ h)
    · split at h
      · rcases List.mem_cons.1 h with h | h
        · exact Or.inl h
        · exact Or.inr h
      · rcases List.mem_cons.1 h with h | h
        · exact Or.inr (h ▸ List.mem_cons_self)
        · rcases ih h with h | h
          · exact Or.inl h
          · exact Or.inr (List.mem_cons_of_mem _ h)

theorem mem_erase {m : SMap α} {k : Nat} {x : Nat × α} (h : x ∈ erase m k) : x ∈ m := by
  induction m with
  | nil => exact h
  | cons kv r ih =>
    obtain ⟨k', v'⟩ := kv
    unfold erase at h
    split at h
    · exact List.mem_cons_of_mem _ (ih h)
    · rcases List.mem_cons.1 h with h | h
      · exact h ▸ List.mem_cons_self
      · exact List.mem_cons_of_mem _ (ih h)

/-- What a map lists after a write: the entry written, or one it listed before. -/
theorem mem_set [DecidableEq α] {d : α} {m : SMap α} {k : Nat} {v : α} {x : Nat × α} (h : x ∈ set d m k v) :
    x = (k, v) ∨ x ∈ m := by
  unfold set at h
  split at h
  · exact Or.inr (mem_erase h)
  · exact mem_insert h

/-- What a map reads at a key is its default or an entry that it lists. -/
theorem get_mem {d : α} (m : SMap α) (k : Nat) : get d m k = d ∨ (k, get d m k) ∈ m := by
  induction m with
  | nil => exact Or.inl rfl
  | cons kv r ih =>
    obtain ⟨k', v'⟩ := kv
    unfold get
    split
    · rename_i e
      subst e
      exact Or.inr List.mem_cons_self
    · exact ih.imp id (List.mem_cons_of_mem _)

/-- A filter that keeps a key keeps what it reads. -/
theorem get_filter (d : α) (p : Nat × α → Bool) (m : SMap α) (k : Nat) (h : ∀ v, p (k, v) = true) :
    get d (m.filter p) k = get d m k := by
  induction m with
  | nil => rfl
  | cons kv r ih =>
    obtain ⟨k', v⟩ := kv
    by_cases e : p (k', v) = true
    · rw [List.filter_cons_of_pos (by exact e)]
      simp only [get, ih]
    · rw [List.filter_cons_of_neg (by exact e), ih]
      by_cases c : k = k'
      · subst c; exact absurd (h v) e
      · simp [get, c]

/-- A filter that drops a key leaves it reading the default. -/
theorem get_filter_none (d : α) (p : Nat × α → Bool) (m : SMap α) (k : Nat) (h : ∀ v, p (k, v) = false) :
    get d (m.filter p) k = d := by
  induction m with
  | nil => rfl
  | cons kv r ih =>
    obtain ⟨k', v⟩ := kv
    by_cases e : p (k', v) = true
    · rw [List.filter_cons_of_pos (by exact e)]
      by_cases c : k = k'
      · subst c; exact absurd e (by simp [h v])
      · simp only [get, ih]; simp [c]
    · rw [List.filter_cons_of_neg (by exact e), ih]

end Sys2Proof.SMap
end

