-- ==== Sys2Proof/Laws/Keeps.lean ====
section
/-!
SUPPORT. The relation Keeps: it composes, and every update of a field has it, on the conditions that its field asks for.
-/

namespace Sys2Proof.Machine

theorem Keeps.refl (s : State) : Keeps s s := ⟨rfl, rfl, id⟩

theorem Keeps.trans {s t u : State} (h : Keeps s t) (k : Keeps t u) : Keeps s u :=
  ⟨k.1.trans h.1, k.2.1.trans h.2.1, fun x => k.2.2 (h.2.2 x)⟩

theorem Keeps.after {s t u : State} (k : Keeps t u) (h : Keeps s t) : Keeps s u := h.trans k

theorem Keeps.foldl {α : Type} {g : State → α → State} (h : ∀ t x, Keeps t (g t x)) (l : List α) (s : State) :
    Keeps s (l.foldl g s) := by
  induction l generalizing s with
  | nil => exact Keeps.refl s
  | cons x r ih => exact (h s x).trans (ih (g s x))

/-- A meaning keeps what Keeps says, if it answers a next state. -/
def KeepsO (s : State) (o : Out) : Prop := ∀ t, o = .next t → Keeps s t

/-- An operation that can fail keeps what Keeps says, where it succeeds. -/
def KeepsE {α : Type} (p : α → State) (s : State) (r : Except Trap α) : Prop := ∀ a, r = .ok a → Keeps s (p a)

/-- The meaning of an opcode keeps what Keeps says, where it does not trap. -/
def KeepsB (f : Body) : Prop := ∀ i s, KeepsE (fun a => a.1) s (f i s)

theorem KeepsO.next {s t : State} (h : Keeps s t) : KeepsO s (.next t) := by
  intro u e
  cases e
  exact h

theorem KeepsO.powered {s : State} {f : State → Out} (h : ∀ t, KeepsO t (f t)) : KeepsO s (s.powered f) := by
  unfold State.powered
  split
  · exact KeepsO.next (Keeps.refl s)
  · exact h s

theorem KeepsO.trans {s t : State} {o : Out} (h : Keeps s t) (k : KeepsO t o) : KeepsO s o :=
  fun u e => h.trans (k u e)

theorem Keeps.leaves {s : State} {o : Out} (h : KeepsO s o) : Keeps s (leaves s o) := by
  unfold Sys2Proof.Machine.leaves
  split
  · exact h _ rfl
  · exact Keeps.refl s

theorem KeepsE.ok {α : Type} {p : α → State} {s : State} {a : α} (h : Keeps s (p a)) : KeepsE p s (.ok a) := by
  intro b e
  cases e
  exact h

theorem KeepsE.error {α : Type} (p : α → State) (s : State) (e : Trap) : KeepsE p s (.error e) := by
  intro b h
  cases h

theorem KeepsE.trans {α : Type} {p : α → State} {s t : State} {r : Except Trap α} (h : Keeps s t) (k : KeepsE p t r) :
    KeepsE p s r := fun a e => h.trans (k a e)

/-- An intermediate state is kept, and then it may be anything. -/
theorem Keeps.cut {s t u : State} (h : Keeps s t) (k : Keeps s t → Keeps s u) : Keeps s u := k h

theorem KeepsO.cut {s t : State} {o : Out} (h : Keeps s t) (k : Keeps s t → KeepsO s o) : KeepsO s o := k h

theorem KeepsE.cut {α : Type} {p : α → State} {s t : State} {r : Except Trap α} (h : Keeps s t)
    (k : Keeps s t → KeepsE p s r) : KeepsE p s r := k h

theorem KeepsE.of_ok {α : Type} {p : α → State} {s : State} {r : Except Trap α} {a : α} (e : r = .ok a) (h : KeepsE p s r) :
    Keeps s (p a) := h a e

/-- The state in a pair that an operation answers. -/
theorem Keeps.fst1 {α : Type} {s t : State} {x : α} {r : State × α} (e : r = (t, x)) (h : Keeps s r.1) : Keeps s t := by
  subst e
  exact h

theorem Keeps.fst2 {α : Type} {s t : State} {x : α} {r : α × State} (e : r = (x, t)) (h : Keeps s r.2) : Keeps s t := by
  subst e
  exact h

theorem Keeps.onHdrs {s : State} {g : SMap Hdr → SMap Hdr} (h : ∀ m, errsBounded m → errsBounded (g m)) :
    Keeps s (s.onHdrs g) := ⟨rfl, rfl, fun x => ⟨h _ x.1, x.2⟩⟩

theorem Keeps.onUmp {s : State} {g : Ump → Ump} (h : ∀ u : Ump, u.sound → (g u).sound) : Keeps s (s.onUmp g) :=
  ⟨rfl, rfl, fun x => ⟨x.1, h _ x.2.1, x.2.2⟩⟩

theorem Keeps.onFgt {s : State} {g : Fgt → Fgt} (h : ∀ f : Fgt, f.sound → (g f).sound) : Keeps s (s.onFgt g) :=
  ⟨rfl, rfl, fun x => ⟨x.1, x.2.1, h _ x.2.2⟩⟩

theorem Keeps.onOut (s : State) (g : (List OutEvent) → (List OutEvent)) : Keeps s (s.onOut g) := ⟨rfl, rfl, id⟩
theorem Keeps.onFreeCtr (s : State) (g : Nat → Nat) : Keeps s (s.onFreeCtr g) := ⟨rfl, rfl, id⟩
theorem Keeps.onMirrors (s : State) (g : (SMap Mirror) → (SMap Mirror)) : Keeps s (s.onMirrors g) := ⟨rfl, rfl, id⟩
theorem Keeps.onChip (s : State) (g : Chip → Chip) : Keeps s (s.onChip g) := ⟨rfl, rfl, id⟩
theorem Keeps.onPcie (s : State) (g : Pcie → Pcie) : Keeps s (s.onPcie g) := ⟨rfl, rfl, id⟩
theorem Keeps.onFns (s : State) (g : (SMap Fn) → (SMap Fn)) : Keeps s (s.onFns g) := ⟨rfl, rfl, id⟩
theorem Keeps.onChans (s : State) (g : (SMap (Option Chan)) → (SMap (Option Chan))) : Keeps s (s.onChans g) := ⟨rfl, rfl, id⟩
theorem Keeps.onGens (s : State) (g : (SMap Nat) → (SMap Nat)) : Keeps s (s.onGens g) := ⟨rfl, rfl, id⟩
theorem Keeps.onChFreed (s : State) (g : (List Nat) → (List Nat)) : Keeps s (s.onChFreed g) := ⟨rfl, rfl, id⟩
theorem Keeps.onReqs (s : State) (g : (SMap (Option Req)) → (SMap (Option Req))) : Keeps s (s.onReqs g) := ⟨rfl, rfl, id⟩
theorem Keeps.onNextReq (s : State) (g : Nat → Nat) : Keeps s (s.onNextReq g) := ⟨rfl, rfl, id⟩
theorem Keeps.onJobs (s : State) (g : (SMap (Option Job)) → (SMap (Option Job))) : Keeps s (s.onJobs g) := ⟨rfl, rfl, id⟩
theorem Keeps.onNextJob (s : State) (g : Nat → Nat) : Keeps s (s.onNextJob g) := ⟨rfl, rfl, id⟩
theorem Keeps.onMsh (s : State) (g : Msh → Msh) : Keeps s (s.onMsh g) := ⟨rfl, rfl, id⟩
theorem Keeps.onEights (s : State) (g : (SMap Eight) → (SMap Eight)) : Keeps s (s.onEights g) := ⟨rfl, rfl, id⟩
theorem Keeps.onProgs (s : State) (g : (SMap (Option Prog)) → (SMap (Option Prog))) : Keeps s (s.onProgs g) := ⟨rfl, rfl, id⟩
theorem Keeps.onQuads (s : State) (g : (SMap Quad) → (SMap Quad)) : Keeps s (s.onQuads g) := ⟨rfl, rfl, id⟩
theorem Keeps.onMeas (s : State) (g : (SMap Meas) → (SMap Meas)) : Keeps s (s.onMeas g) := ⟨rfl, rfl, id⟩
theorem Keeps.onSlices (s : State) (g : (SMap Slice) → (SMap Slice)) : Keeps s (s.onSlices g) := ⟨rfl, rfl, id⟩
theorem Keeps.onKlg (s : State) (g : Klg → Klg) : Keeps s (s.onKlg g) := ⟨rfl, rfl, id⟩
theorem Keeps.onKslots (s : State) (g : (SMap KSlot) → (SMap KSlot)) : Keeps s (s.onKslots g) := ⟨rfl, rfl, id⟩
theorem Keeps.onKfrees (s : State) (g : (SMap Nat) → (SMap Nat)) : Keeps s (s.onKfrees g) := ⟨rfl, rfl, id⟩
theorem Keeps.onGenBase (s : State) (g : Nat → Nat) : Keeps s (s.onGenBase g) := ⟨rfl, rfl, id⟩
theorem Keeps.onDomains (s : State) (g : (SMap (Option Domain)) → (SMap (Option Domain))) : Keeps s (s.onDomains g) := ⟨rfl, rfl, id⟩
theorem Keeps.onHeat (s : State) (g : Heat → Heat) : Keeps s (s.onHeat g) := ⟨rfl, rfl, id⟩
theorem Keeps.onAod (s : State) (g : Aod → Aod) : Keeps s (s.onAod g) := ⟨rfl, rfl, id⟩
theorem Keeps.onOtp (s : State) (g : Otp → Otp) : Keeps s (s.onOtp g) := ⟨rfl, rfl, id⟩
theorem Keeps.onWdg (s : State) (g : Wdg → Wdg) : Keeps s (s.onWdg g) := ⟨rfl, rfl, id⟩
theorem Keeps.onTmp (s : State) (g : Tmp → Tmp) : Keeps s (s.onTmp g) := ⟨rfl, rfl, id⟩
theorem Keeps.onErg (s : State) (g : Erg → Erg) : Keeps s (s.onErg g) := ⟨rfl, rfl, id⟩
theorem Keeps.onPsq (s : State) (g : Psq → Psq) : Keeps s (s.onPsq g) := ⟨rfl, rfl, id⟩
theorem Keeps.onCci (s : State) (g : Cci → Cci) : Keeps s (s.onCci g) := ⟨rfl, rfl, id⟩
theorem Keeps.onLcs (s : State) (g : Lcs → Lcs) : Keeps s (s.onLcs g) := ⟨rfl, rfl, id⟩
theorem Keeps.onDbg (s : State) (g : Dbg → Dbg) : Keeps s (s.onDbg g) := ⟨rfl, rfl, id⟩
theorem Keeps.onBst (s : State) (g : Bst → Bst) : Keeps s (s.onBst g) := ⟨rfl, rfl, id⟩
theorem Keeps.onRng (s : State) (g : Rng → Rng) : Keeps s (s.onRng g) := ⟨rfl, rfl, id⟩
theorem Keeps.onSessions (s : State) (g : (List Session) → (List Session)) : Keeps s (s.onSessions g) := ⟨rfl, rfl, id⟩
theorem Keeps.onSpdm (s : State) (g : (SMap Spdm) → (SMap Spdm)) : Keeps s (s.onSpdm g) := ⟨rfl, rfl, id⟩
theorem Keeps.onMon (s : State) (g : Mon → Mon) : Keeps s (s.onMon g) := ⟨rfl, rfl, id⟩
theorem Keeps.onPldm (s : State) (g : Pldm5 → Pldm5) : Keeps s (s.onPldm g) := ⟨rfl, rfl, id⟩
theorem Keeps.onStore (s : State) (g : Store → Store) : Keeps s (s.onStore g) := ⟨rfl, rfl, id⟩

end Sys2Proof.Machine
end

