-- ==== Sys2Proof/Laws/KeepsOps.lean ====
section
/-!
SUPPORT. Every operation of Machine/Ops.lean keeps the queue, the variant and the bounds of Safety.lean.
-/

namespace Sys2Proof.Machine
theorem State.modFn_keeps (s : State) (f : Nat) (g : Fn → Fn)  : Keeps s (State.modFn s f g) := by
  unfold State.modFn
  repeat' first
    | (with_reducible apply Keeps.refl)
    | (with_reducible assumption)
    | (with_reducible (apply Keeps.after; apply Keeps.onFns))

theorem State.emit_keeps (s : State) (e : OutEvent)  : Keeps s (State.emit s e) := by
  unfold State.emit
  repeat' first
    | (with_reducible apply Keeps.refl)
    | (with_reducible assumption)
    | (with_reducible (apply Keeps.after; apply Keeps.onOut))

theorem State.reportAer_keeps (s : State) (f : Nat) (e : Aer) (fatal : Bool)  : Keeps s (State.reportAer s f e fatal) := by
  unfold State.reportAer
  repeat' first
    | (with_reducible apply Keeps.refl)
    | (with_reducible assumption)
    | (with_reducible (apply Keeps.after; apply State.modFn_keeps))
    | (with_reducible (apply Keeps.after; apply State.emit_keeps))
    | (extract_lets +onlyGivenNames x; refine Keeps.cut (t := x) ?_ ?_; rotate_left; intro hx; clear_value x; rotate_left; dsimp only [x])
    | extract_lets +onlyGivenNames x
    | (with_reducible intro _)
    | split

theorem State.unsupported_keeps (s : State) (f : Nat)  : Keeps s (State.unsupported s f) := by
  unfold State.unsupported
  repeat' first
    | (with_reducible apply Keeps.refl)
    | (with_reducible assumption)
    | (with_reducible (apply Keeps.after; apply State.reportAer_keeps))
    | (with_reducible (apply Keeps.after; apply State.emit_keeps))

theorem State.mmio_keeps (s : State) (f : Nat) (tee : Option Nat) (k : State → State) (hk : ∀ t, Keeps t (k t)) : Keeps s (State.mmio s f tee k) := by
  unfold State.mmio
  repeat' first
    | (with_reducible apply Keeps.refl)
    | (with_reducible assumption)
    | (with_reducible apply hk)
    | (with_reducible (apply Keeps.after; apply State.unsupported_keeps))
    | (with_reducible intro _)
    | split

theorem State.access_keeps (s : State) (who : Requester) (k : State → State) (hk : ∀ t, Keeps t (k t)) : Keeps s (State.access s who k) := by
  unfold State.access
  repeat' first
    | (with_reducible apply Keeps.refl)
    | (with_reducible assumption)
    | (with_reducible apply hk)
    | (with_reducible (apply Keeps.after; apply State.mmio_keeps))
    | (with_reducible intro _)
    | split

theorem State.modHdr_keeps (s : State) (p : PageId) (f : Hdr → Hdr) (hf : ∀ h : Hdr, h.errs.length ≤ 4 → (f h).errs.length ≤ 4) : Keeps s (State.modHdr s p f) := by
  unfold State.modHdr
  refine Keeps.onHdrs fun m hm kv hkv => ?_
  rcases SMap.mem_set hkv with h | h
  · rw [h]
    refine hf _ ?_
    rcases SMap.get_mem (d := ({} : Hdr)) m (pageKey p) with e | e
    · rw [e]
      exact Nat.zero_le 4
    · exact hm _ e
  · exact hm _ h

theorem State.sendMsix_keeps (s : State) (f : Nat) (v : Nat)  : Keeps s (State.sendMsix s f v) := by
  unfold State.sendMsix
  repeat' first
    | (with_reducible apply Keeps.refl)
    | (with_reducible assumption)
    | (with_reducible (apply Keeps.after; apply State.emit_keeps))

theorem State.msix_keeps (s : State) (f : Nat) (v : Nat)  : Keeps s (State.msix s f v) := by
  unfold State.msix
  repeat' first
    | (with_reducible apply Keeps.refl)
    | (with_reducible assumption)
    | (with_reducible (apply Keeps.after; apply State.sendMsix_keeps))
    | (with_reducible (apply Keeps.after; apply State.modFn_keeps))
    | extract_lets +onlyGivenNames x
    | (with_reducible intro _)
    | split

theorem State.syncInt_keeps (s : State)  : Keeps s (State.syncInt s) := by
  unfold State.syncInt
  repeat' first
    | (with_reducible apply Keeps.refl)
    | (with_reducible assumption)
    | (with_reducible (apply Keeps.after; apply State.msix_keeps))
    | (with_reducible (apply Keeps.after; apply Keeps.onChip))
    | (extract_lets +onlyGivenNames x; refine Keeps.cut (t := x) ?_ ?_; rotate_left; intro hx; clear_value x; rotate_left; dsimp only [x])
    | extract_lets +onlyGivenNames x
    | (with_reducible intro _)
    | split

theorem State.modHdrInt_keeps (s : State) (p : PageId) (f : Hdr → Hdr) (hf : ∀ h : Hdr, h.errs.length ≤ 4 → (f h).errs.length ≤ 4) : Keeps s (State.modHdrInt s p f) := by
  unfold State.modHdrInt
  repeat' first
    | (with_reducible apply Keeps.refl)
    | (with_reducible assumption)
    | (with_reducible (apply Keeps.after; apply State.modHdr_keeps))
    | (with_reducible (apply Keeps.after; apply State.msix_keeps))
    | (with_reducible (apply Keeps.after; apply State.syncInt_keeps))
    | (with_reducible exact fun _ hh => hh)
    | extract_lets +onlyGivenNames x
    | (with_reducible intro _)
    | split

theorem State.setStatus_keeps (s : State) (p : PageId) (mask : W32)  : Keeps s (State.setStatus s p mask) := by
  unfold State.setStatus
  exact State.modHdrInt_keeps _ _ _ fun _ hh => hh

theorem State.setBit_keeps (s : State) (p : PageId) (n : Nat)  : Keeps s (State.setBit s p n) := by
  unfold State.setBit
  repeat' first
    | (with_reducible apply Keeps.refl)
    | (with_reducible assumption)
    | (with_reducible (apply Keeps.after; apply State.setStatus_keeps))

theorem State.accessErr_keeps (s : State) (p : PageId)  : Keeps s (State.accessErr s p) := by
  unfold State.accessErr
  repeat' first
    | (with_reducible apply Keeps.refl)
    | (with_reducible assumption)
    | (with_reducible (apply Keeps.after; apply State.setBit_keeps))

theorem State.bstEnd_keeps (s : State) (cause : Nat)  : Keeps s (State.bstEnd s cause) := by
  unfold State.bstEnd
  repeat' first
    | (with_reducible apply Keeps.refl)
    | (with_reducible assumption)
    | (with_reducible (apply Keeps.after; apply Keeps.onBst))
    | (with_reducible intro _)
    | split

theorem State.ignoredWrite_keeps (s : State)  : Keeps s (State.ignoredWrite s) := by
  unfold State.ignoredWrite
  repeat' first
    | (with_reducible apply Keeps.refl)
    | (with_reducible assumption)
    | (with_reducible (apply Keeps.after; apply Keeps.onChip))

theorem State.gateWrite_keeps (s : State) (who : Requester) (p : PageId) (umpireOnly : Bool) (k : State → State) (hk : ∀ t, Keeps t (k t)) : Keeps s (State.gateWrite s who p umpireOnly k) := by
  unfold State.gateWrite
  split
  · exact State.ignoredWrite_keeps s
  · split
    · exact State.ignoredWrite_keeps s
    · split
      · exact Keeps.refl s
      · split
        · exact Keeps.refl s
        · split
          · exact State.accessErr_keeps s p
          · exact hk s
  · split
    · exact State.ignoredWrite_keeps s
    · split
      · exact Keeps.refl s
      · split
        · exact Keeps.refl s
        · exact hk s

theorem State.lockViol_keeps (s : State) (p : PageId)  : Keeps s (State.lockViol s p) := by
  unfold State.lockViol
  repeat' first
    | (with_reducible apply Keeps.refl)
    | (with_reducible assumption)
    | (with_reducible (apply Keeps.after; apply State.setBit_keeps))

theorem State.locked_keeps (s : State) (p : PageId) (n : Nat) (k : State → State) (hk : ∀ t, Keeps t (k t)) : Keeps s (State.locked s p n k) := by
  unfold State.locked
  repeat' first
    | (with_reducible apply Keeps.refl)
    | (with_reducible assumption)
    | (with_reducible apply hk)
    | (with_reducible (apply Keeps.after; apply State.lockViol_keeps))
    | (with_reducible intro _)
    | split

theorem State.logEvent_keeps (s : State) (page : Nat) (code : Nat) (flags : Nat) (detail : Nat)  : Keeps s (State.logEvent s page code flags detail) := by
  unfold State.logEvent
  refine Keeps.onUmp fun u hu => ⟨hu.1, ?_, hu.2.2⟩
  simp only [List.length_drop, List.length_append, List.length_singleton]
  omega

theorem State.modAdm_keeps (s : State) (f : Nat) (g : Adm → Adm)  : Keeps s (State.modAdm s f g) := by
  unfold State.modAdm
  repeat' first
    | (with_reducible apply Keeps.refl)
    | (with_reducible assumption)
    | (with_reducible (apply Keeps.after; apply State.modFn_keeps))

theorem State.modChan_keeps (s : State) (f : Nat) (i : Nat) (g : Chan → Chan)  : Keeps s (State.modChan s f i g) := by
  unfold State.modChan
  repeat' first
    | (with_reducible apply Keeps.refl)
    | (with_reducible assumption)
    | (with_reducible (apply Keeps.after; apply Keeps.onChans))

theorem State.modChip_keeps (s : State) (f : Chip → Chip)  : Keeps s (State.modChip s f) := by
  unfold State.modChip
  repeat' first
    | (with_reducible apply Keeps.refl)
    | (with_reducible assumption)
    | (with_reducible (apply Keeps.after; apply State.setStatus_keeps))
    | (with_reducible (apply Keeps.after; apply Keeps.onChip))
    | (extract_lets +onlyGivenNames x; refine Keeps.cut (t := x) ?_ ?_; rotate_left; intro hx; clear_value x; rotate_left; dsimp only [x])
    | extract_lets +onlyGivenNames x
    | (with_reducible intro _)
    | split

theorem State.modDom_keeps (s : State) (d : Nat) (g : Domain → Domain)  : Keeps s (State.modDom s d g) := by
  unfold State.modDom
  repeat' first
    | (with_reducible apply Keeps.refl)
    | (with_reducible assumption)
    | (with_reducible (apply Keeps.after; apply Keeps.onDomains))

theorem State.modEight_keeps (s : State) (e : Nat) (g : Eight → Eight)  : Keeps s (State.modEight s e g) := by
  unfold State.modEight
  repeat' first
    | (with_reducible apply Keeps.refl)
    | (with_reducible assumption)
    | (with_reducible (apply Keeps.after; apply Keeps.onEights))

theorem State.modJob_keeps (s : State) (j : Nat) (g : Job → Job)  : Keeps s (State.modJob s j g) := by
  unfold State.modJob
  repeat' first
    | (with_reducible apply Keeps.refl)
    | (with_reducible assumption)
    | (with_reducible (apply Keeps.after; apply Keeps.onJobs))

theorem State.modKslot_keeps (s : State) (i : Nat) (g : KSlot → KSlot)  : Keeps s (State.modKslot s i g) := by
  unfold State.modKslot
  repeat' first
    | (with_reducible apply Keeps.refl)
    | (with_reducible assumption)
    | (with_reducible (apply Keeps.after; apply Keeps.onKslots))

theorem State.modMeas_keeps (s : State) (n : Nat) (g : Meas → Meas)  : Keeps s (State.modMeas s n g) := by
  unfold State.modMeas
  repeat' first
    | (with_reducible apply Keeps.refl)
    | (with_reducible assumption)
    | (with_reducible (apply Keeps.after; apply Keeps.onMeas))

theorem State.modQuad_keeps (s : State) (r : Nat) (g : Quad → Quad)  : Keeps s (State.modQuad s r g) := by
  unfold State.modQuad
  repeat' first
    | (with_reducible apply Keeps.refl)
    | (with_reducible assumption)
    | (with_reducible (apply Keeps.after; apply Keeps.onQuads))

theorem State.modReq_keeps (s : State) (r : Nat) (g : Req → Req)  : Keeps s (State.modReq s r g) := by
  unfold State.modReq
  repeat' first
    | (with_reducible apply Keeps.refl)
    | (with_reducible assumption)
    | (with_reducible (apply Keeps.after; apply Keeps.onReqs))

theorem State.modSlice_keeps (s : State) (i : Nat) (g : Slice → Slice)  : Keeps s (State.modSlice s i g) := by
  unfold State.modSlice
  repeat' first
    | (with_reducible apply Keeps.refl)
    | (with_reducible assumption)
    | (with_reducible (apply Keeps.after; apply Keeps.onSlices))

theorem State.modSlot_keeps (s : State) (e : Nat) (k : Nat) (g : Slot → Slot)  : Keeps s (State.modSlot s e k g) := by
  unfold State.modSlot
  repeat' first
    | (with_reducible apply Keeps.refl)
    | (with_reducible assumption)
    | (with_reducible (apply Keeps.after; apply State.modEight_keeps))

theorem State.recErr_keeps (s : State) (p : PageId) (code : Nat) (detail : Nat)  : Keeps s (State.recErr s p code detail) := by
  unfold State.recErr
  split
  · rename_i hlt
    refine ⟨rfl, rfl, fun x => ⟨fun kv hkv => ?_, x.2⟩⟩
    rcases SMap.mem_set hkv with h | h
    · rw [h]
      simp only [List.length_append, List.length_singleton]
      exact hlt
    · exact x.1 kv h
  · exact State.setBit_keeps s p 2

theorem State.spend_keeps (s : State) (n : Nat)  : Keeps s (State.spend s n) := by
  unfold State.spend
  repeat' first
    | (with_reducible apply Keeps.refl)
    | (with_reducible assumption)
    | (with_reducible (apply Keeps.after; apply Keeps.onFreeCtr))

theorem State.sumCadence_keeps (s : State)  : Keeps s (State.sumCadence s) := by
  unfold State.sumCadence
  repeat' first
    | (with_reducible apply Keeps.refl)
    | (with_reducible assumption)
    | (with_reducible (apply Keeps.after; apply Keeps.onChip))

theorem State.syncQuar_keeps (s : State)  : Keeps s (State.syncQuar s) := by
  unfold State.syncQuar
  repeat' first
    | (with_reducible apply Keeps.refl)
    | (with_reducible assumption)
    | (with_reducible (apply Keeps.after; apply State.modChip_keeps))

end Sys2Proof.Machine
end

