-- ==== Sys2Proof/Laws/KeepsWork.lean ====
section
/-!
SUPPORT. Every operation of Machine/Work.lean keeps the queue, the variant and the bounds of Safety.lean.
-/

namespace Sys2Proof.Machine
theorem State.askXlat_keeps (s : State) (f : Nat) (pasid : Option (BitVec 20)) (addr : Nat) (len : Nat)  : Keeps s (State.askXlat s f pasid addr len) := by
  unfold State.askXlat
  repeat' first
    | (with_reducible apply Keeps.refl)
    | (with_reducible assumption)
    | (with_reducible (apply Keeps.after; apply State.emit_keeps))
    | (with_reducible (apply Keeps.after; apply Keeps.foldl))
    | (with_reducible intro _)
    | split

theorem State.askRanges_keeps (s : State) (q : Req) (rs : List (Nat × Nat)) (off : Nat) (n : Nat)  : Keeps s (State.askRanges s q rs off n) := by
  unfold State.askRanges
  repeat' first
    | (with_reducible apply Keeps.refl)
    | (with_reducible assumption)
    | (with_reducible (apply Keeps.after; apply State.askXlat_keeps))
    | (with_reducible (apply Keeps.after; apply Keeps.foldl))
    | (with_reducible intro _)

theorem State.atOnce_keeps (s : State) (k : State → State) (hk : ∀ t, Keeps t (k t)) : Keeps s (State.atOnce s k) := by
  unfold State.atOnce
  repeat' first
    | (with_reducible apply Keeps.refl)
    | (with_reducible assumption)
    | (with_reducible apply hk)
    | (with_reducible (apply Keeps.after; apply Keeps.onOut))

theorem State.chError_keeps (s : State) (f : Nat) (i : Nat) (cause : Nat)  : Keeps s (State.chError s f i cause) := by
  unfold State.chError
  repeat' first
    | (with_reducible apply Keeps.refl)
    | (with_reducible assumption)
    | (with_reducible (apply Keeps.after; apply State.modChan_keeps))
    | (with_reducible (apply Keeps.after; apply State.setBit_keeps))
    | (with_reducible (apply Keeps.after; apply State.modFn_keeps))
    | (extract_lets +onlyGivenNames x; refine Keeps.cut (t := x) ?_ ?_; rotate_left; intro hx; clear_value x; rotate_left; dsimp only [x])
    | extract_lets +onlyGivenNames x
    | (with_reducible intro _)
    | split

theorem State.chMessage_keeps (s : State) (f : Nat) (i : Nat)  : Keeps s (State.chMessage s f i) := by
  unfold State.chMessage
  repeat' first
    | (with_reducible apply Keeps.refl)
    | (with_reducible assumption)
    | (with_reducible (apply Keeps.after; apply State.modChan_keeps))
    | (with_reducible (apply Keeps.after; apply State.msix_keeps))
    | (with_reducible intro _)
    | split

theorem State.dmaWrite_keeps (s : State) (f : Nat) (x : Tlp) (addr : Nat) (data : List Byte)  : Keeps s (State.dmaWrite s f x addr data) := by
  unfold State.dmaWrite
  repeat' first
    | (with_reducible apply Keeps.refl)
    | (with_reducible assumption)
    | (with_reducible (apply Keeps.after; apply State.emit_keeps))
    | (with_reducible (apply Keeps.after; apply State.askXlat_keeps))

theorem State.giveDirect_keeps (s : State)  : Keeps s (State.giveDirect s) := by
  unfold State.giveDirect
  repeat' first
    | (with_reducible apply Keeps.refl)
    | (with_reducible assumption)
    | (with_reducible (apply Keeps.after; apply State.modQuad_keeps))
    | (with_reducible intro _)
    | split

theorem State.unplace_keeps (s : State) (j : Nat)  : Keeps s (State.unplace s j) := by
  unfold State.unplace
  repeat' first
    | (with_reducible apply Keeps.refl)
    | (with_reducible assumption)
    | (with_reducible (apply Keeps.after; apply State.giveDirect_keeps))
    | (with_reducible (apply Keeps.after; apply State.modQuad_keeps))
    | (with_reducible (apply Keeps.after; apply State.modJob_keeps))
    | (with_reducible (apply Keeps.after; apply Keeps.onEights))
    | (with_reducible (apply Keeps.after; apply Keeps.onSlices))
    | (extract_lets +onlyGivenNames x; refine Keeps.cut (t := x) ?_ ?_; rotate_left; intro hx; clear_value x; rotate_left; dsimp only [x])
    | extract_lets +onlyGivenNames x
    | (with_reducible intro _)
    | split

theorem State.giveEntries_keeps (s : State)  : Keeps s (State.giveEntries s) := by
  unfold State.giveEntries
  repeat' first
    | (with_reducible apply Keeps.refl)
    | (with_reducible assumption)
    | (with_reducible (apply Keeps.after; apply State.modJob_keeps))
    | (with_reducible (apply Keeps.after; apply Keeps.onMsh))
    | (with_reducible (apply Keeps.after; apply Keeps.foldl))
    | (with_reducible intro _)
    | split

theorem State.reapProg_keeps (s : State) (n : Nat)  : Keeps s (State.reapProg s n) := by
  unfold State.reapProg
  repeat' first
    | (with_reducible apply Keeps.refl)
    | (with_reducible assumption)
    | (with_reducible (apply Keeps.after; apply Keeps.onProgs))
    | (with_reducible intro _)
    | split

theorem State.endJob_keeps (s : State) (j : Nat)  : Keeps s (State.endJob s j) := by
  unfold State.endJob
  repeat' first
    | (with_reducible apply Keeps.refl)
    | (with_reducible assumption)
    | (with_reducible (apply Keeps.after; apply State.unplace_keeps))
    | (with_reducible (apply Keeps.after; apply State.modEight_keeps))
    | (with_reducible (apply Keeps.after; apply State.giveEntries_keeps))
    | (with_reducible (apply Keeps.after; apply State.reapProg_keeps))
    | (with_reducible (apply Keeps.after; apply Keeps.onSlices))
    | (with_reducible (apply Keeps.after; apply Keeps.onMsh))
    | (with_reducible (apply Keeps.after; apply Keeps.onJobs))
    | (extract_lets +onlyGivenNames x; refine Keeps.cut (t := x) ?_ ?_; rotate_left; intro hx; clear_value x; rotate_left; dsimp only [x])
    | extract_lets +onlyGivenNames x
    | (with_reducible intro _)
    | split

theorem State.settleCredits_keeps (s : State)  : Keeps s (State.settleCredits s) := by
  unfold State.settleCredits
  repeat' first
    | (with_reducible apply Keeps.refl)
    | (with_reducible assumption)
    | (with_reducible (apply Keeps.after; apply Keeps.onMsh))

theorem State.dropReq_keeps (s : State) (r : Nat)  : Keeps s (State.dropReq s r) := by
  unfold State.dropReq
  repeat' first
    | (with_reducible apply Keeps.refl)
    | (with_reducible assumption)
    | (with_reducible (apply Keeps.after; apply State.endJob_keeps))
    | (with_reducible (apply Keeps.after; apply State.settleCredits_keeps))
    | (with_reducible (apply Keeps.after; apply Keeps.onReqs))
    | extract_lets +onlyGivenNames x
    | (with_reducible intro _)
    | split

theorem State.writeRanges_keeps (s : State) (f : Nat) (x : Tlp) (rs : List (Nat × Nat)) (data : List Byte)  : Keeps s (State.writeRanges s f x rs data) := by
  induction rs generalizing s data with
  | nil => exact Keeps.refl s
  | cons r rs ih =>
    unfold State.writeRanges
    split
    · exact ih _ _
    · exact (State.dmaWrite_keeps _ _ _ _ _).trans (ih _ _)

theorem State.putOut_keeps (s : State) (q : Req) (off : Nat) (data : List Byte)  : Keeps s (State.putOut s q off data) := by
  unfold State.putOut
  repeat' first
    | (with_reducible apply Keeps.refl)
    | (with_reducible assumption)
    | (with_reducible (apply Keeps.after; apply State.writeRanges_keeps))

theorem State.zeroWritten_keeps (s : State) (q : Req) (st : Nat)  : Keeps s (State.zeroWritten s q st) := by
  unfold State.zeroWritten
  repeat' first
    | (with_reducible apply Keeps.refl)
    | (with_reducible assumption)
    | (with_reducible (apply Keeps.after; apply State.putOut_keeps))
    | (with_reducible intro _)
    | split

theorem State.meter_keeps (s : State) (f : Nat) (i : Nat) (ups : List (Nat × Nat))  : Keeps s (State.meter s f i ups) := by
  unfold State.meter
  repeat' first
    | (with_reducible apply Keeps.refl)
    | (with_reducible assumption)
    | (with_reducible (apply Keeps.after; apply Keeps.onHeat))

theorem State.writeCqe_keeps (s : State) (f : Nat) (i : Nat) (dw : List Nat) (slot : Nat)  : Keeps s (State.writeCqe s f i dw slot) := by
  unfold State.writeCqe
  repeat' first
    | (with_reducible apply Keeps.refl)
    | (with_reducible assumption)
    | (with_reducible (apply Keeps.after; apply State.chError_keeps))
    | (with_reducible (apply Keeps.after; apply State.askXlat_keeps))
    | (with_reducible (apply Keeps.after; apply State.modChan_keeps))
    | (with_reducible (apply Keeps.after; apply State.emit_keeps))
    | (with_reducible (apply Keeps.after; apply State.chMessage_keeps))
    | (extract_lets +onlyGivenNames x; refine Keeps.cut (t := x) ?_ ?_; rotate_left; intro hx; clear_value x; rotate_left; dsimp only [x])
    | extract_lets +onlyGivenNames x
    | (with_reducible intro _)
    | split

theorem State.finish1_keeps (s : State) (r : Nat) (x0 : Fin)  : Keeps s (State.finish1 s r x0) := by
  unfold State.finish1
  repeat' first
    | (with_reducible apply Keeps.refl)
    | (with_reducible assumption)
    | (with_reducible (apply Keeps.after; apply State.zeroWritten_keeps))
    | (with_reducible (apply Keeps.after; apply State.meter_keeps))
    | (with_reducible (apply Keeps.after; apply State.writeCqe_keeps))
    | (with_reducible (apply Keeps.after; apply State.modChan_keeps))
    | (with_reducible (apply Keeps.after; apply State.endJob_keeps))
    | (with_reducible (apply Keeps.after; apply State.settleCredits_keeps))
    | (with_reducible (apply Keeps.after; apply State.reapProg_keeps))
    | (with_reducible (apply Keeps.after; apply Keeps.onReqs))
    | extract_lets +onlyGivenNames x
    | (with_reducible intro _)
    | split

theorem State.finish_keeps (s : State) (r : Nat) (x : Fin)  : Keeps s (State.finish s r x) := by
  unfold State.finish
  repeat' first
    | (with_reducible apply Keeps.refl)
    | (with_reducible assumption)
    | (with_reducible (apply Keeps.after; apply State.finish1_keeps))
    | (with_reducible (apply Keeps.after; apply State.endJob_keeps))
    | (with_reducible (apply Keeps.after; apply Keeps.foldl))
    | (extract_lets +onlyGivenNames x; refine Keeps.cut (t := x) ?_ ?_; rotate_left; intro hx; clear_value x; rotate_left; dsimp only [x])
    | extract_lets +onlyGivenNames x
    | (with_reducible intro _)
    | split

theorem State.failJob_keeps (s : State) (j : Nat) (x : Fin)  : Keeps s (State.failJob s j x) := by
  unfold State.failJob
  repeat' first
    | (with_reducible apply Keeps.refl)
    | (with_reducible assumption)
    | (with_reducible (apply Keeps.after; apply State.finish_keeps))
    | (with_reducible (apply Keeps.after; apply State.endJob_keeps))
    | (with_reducible (apply Keeps.after; apply State.modChan_keeps))
    | (extract_lets +onlyGivenNames x; refine Keeps.cut (t := x) ?_ ?_; rotate_left; intro hx; clear_value x; rotate_left; dsimp only [x])
    | extract_lets +onlyGivenNames x
    | (with_reducible intro _)
    | split

theorem State.writeOut_keeps (s : State) (q : Req) (off : Nat) (data : List Byte)  : Keeps s (State.writeOut s q off data) := by
  unfold State.writeOut
  repeat' first
    | (with_reducible apply Keeps.refl)
    | (with_reducible assumption)
    | (with_reducible (apply Keeps.after; apply State.spend_keeps))
    | (with_reducible (apply Keeps.after; apply State.putOut_keeps))

end Sys2Proof.Machine
end

