-- ==== Sys2Proof/Laws/KeepsLedger.lean ====
section
/-!
SUPPORT. Every operation of Machine/Ledger.lean keeps the queue, the variant and the bounds of Safety.lean.
-/

namespace Sys2Proof.Machine
theorem State.sweepKeys_keeps (s : State)  : Keeps s (State.sweepKeys s) := by
  unfold State.sweepKeys
  repeat' first
    | (with_reducible apply Keeps.refl)
    | (with_reducible assumption)
    | (with_reducible (apply Keeps.after; apply Keeps.onEights))

theorem State.retire_keeps (s : State) (i : Nat) (w : Option Drain)  : Keeps s (State.retire s i w) := by
  unfold State.retire
  repeat' first
    | (with_reducible apply Keeps.refl)
    | (with_reducible assumption)
    | (with_reducible (apply Keeps.after; apply State.modKslot_keeps))
    | (with_reducible (apply Keeps.after; apply State.sweepKeys_keeps))
    | (with_reducible (apply Keeps.after; apply Keeps.onKlg))
    | (with_reducible (apply Keeps.after; apply Keeps.foldl))
    | extract_lets +onlyGivenNames x
    | (with_reducible intro _)

theorem State.alarmReport_keeps (s : State) (i : Nat)  : Keeps s (State.alarmReport s i).1 := by
  unfold State.alarmReport
  repeat' first
    | (with_reducible apply Keeps.refl)
    | (with_reducible assumption)
    | (with_reducible (apply Keeps.after; apply State.setBit_keeps))
    | (with_reducible (apply Keeps.after; apply State.retire_keeps))
    | (with_reducible (apply Keeps.after; apply Keeps.onKlg))
    | (extract_lets +onlyGivenNames x; refine Keeps.cut (t := x) ?_ ?_; rotate_left; intro hx; clear_value x; rotate_left; dsimp only [x])
    | extract_lets +onlyGivenNames x
    | (with_reducible intro _)
    | split

theorem State.countUse_keeps (s : State) (i : Nat)  : Keeps s (State.countUse s i) := by
  unfold State.countUse
  repeat' first
    | (with_reducible apply Keeps.refl)
    | (with_reducible assumption)
    | (with_reducible (apply Keeps.after; apply State.modKslot_keeps))

theorem State.createKey_keeps (s : State) (t : Tmpl) (d : Nat) (parent : Nat) (mat : List Byte)  : Keeps s (State.createKey s t d parent mat).1 := by
  unfold State.createKey
  repeat' first
    | (with_reducible apply Keeps.refl)
    | (with_reducible assumption)
    | (with_reducible (apply Keeps.after; apply State.setBit_keeps))
    | (with_reducible (apply Keeps.after; apply State.modKslot_keeps))
    | (with_reducible (apply Keeps.after; apply Keeps.onKlg))
    | (with_reducible (apply Keeps.after; apply Keeps.foldl))
    | extract_lets +onlyGivenNames x
    | (with_reducible intro _)
    | split

theorem State.deriveIdentity_keeps (s : State)  : Keeps s (State.deriveIdentity s) := by
  unfold State.deriveIdentity
  repeat' first
    | (with_reducible apply Keeps.refl)
    | (with_reducible assumption)
    | (with_reducible (apply Keeps.after; apply State.modKslot_keeps))

theorem State.deriveRoot_keeps (s : State) (d : Nat)  : Keeps s (State.deriveRoot s d) := by
  unfold State.deriveRoot
  repeat' first
    | (with_reducible apply Keeps.refl)
    | (with_reducible assumption)
    | (with_reducible (apply Keeps.after; apply State.modKslot_keeps))
    | (with_reducible intro _)
    | split

theorem State.deriveRoots_keeps (s : State)  : Keeps s (State.deriveRoots s) := by
  unfold State.deriveRoots
  exact (((State.modKslot_keeps _ _ _).trans (Keeps.foldl (fun t x => State.deriveRoot_keeps t x) _ _)).trans
    (State.deriveIdentity_keeps _)).trans (Keeps.onKlg _ _)

theorem State.failSlot_keeps (s : State) (i : Nat) (code : Nat)  : Keeps s (State.failSlot s i code) := by
  unfold State.failSlot
  repeat' first
    | (with_reducible apply Keeps.refl)
    | (with_reducible assumption)
    | (with_reducible (apply Keeps.after; apply State.modKslot_keeps))
    | (with_reducible (apply Keeps.after; apply State.recErr_keeps))
    | (with_reducible (apply Keeps.after; apply State.setBit_keeps))
    | (with_reducible (apply Keeps.after; apply Keeps.onKlg))
    | (with_reducible (apply Keeps.after; apply Keeps.foldl))
    | extract_lets +onlyGivenNames x
    | (with_reducible intro _)

theorem State.freeRun_keeps (s : State) (i : Nat)  : Keeps s (State.freeRun s i) := by
  unfold State.freeRun
  repeat' first
    | (with_reducible apply Keeps.refl)
    | (with_reducible assumption)
    | (with_reducible (apply Keeps.after; apply State.modKslot_keeps))
    | (with_reducible (apply Keeps.after; apply Keeps.onKlg))
    | (with_reducible (apply Keeps.after; apply Keeps.onKfrees))
    | (with_reducible (apply Keeps.after; apply Keeps.foldl))
    | (with_reducible intro _)

theorem State.uncache_keeps (s : State) (p : Nat → Bool)  : Keeps s (State.uncache s p) := by
  unfold State.uncache
  repeat' first
    | (with_reducible apply Keeps.refl)
    | (with_reducible assumption)
    | (with_reducible (apply Keeps.after; apply Keeps.onEights))

theorem State.release_keeps (s : State) (i : Nat)  : Keeps s (State.release s i) := by
  unfold State.release
  repeat' first
    | (with_reducible apply Keeps.refl)
    | (with_reducible assumption)
    | (with_reducible (apply Keeps.after; apply State.uncache_keeps))
    | (with_reducible (apply Keeps.after; apply State.freeRun_keeps))
    | (with_reducible (apply Keeps.after; apply State.modKslot_keeps))
    | (with_reducible (apply Keeps.after; apply Keeps.onDomains))
    | (with_reducible (apply Keeps.after; apply Keeps.foldl))
    | (extract_lets +onlyGivenNames x; refine Keeps.cut (t := x) ?_ ?_; rotate_left; intro hx; clear_value x; rotate_left; dsimp only [x])
    | extract_lets +onlyGivenNames x
    | (with_reducible intro _)
    | split

theorem State.renewRoot_keeps (s : State)  : Keeps s (State.renewRoot s) := by
  unfold State.renewRoot
  repeat' first
    | (with_reducible apply Keeps.refl)
    | (with_reducible assumption)
    | (with_reducible (apply Keeps.after; apply State.setBit_keeps))
    | (with_reducible (apply Keeps.after; apply State.spend_keeps))
    | (with_reducible (apply Keeps.after; apply Keeps.onAod))

end Sys2Proof.Machine
end

