-- ==== Sys2Proof/Laws/State.lean ====
section
/-!
SUPPORT. Each update of State changes its own field by its function and no other field.
-/

namespace Sys2Proof.Machine

@[simp] theorem State.onVariant_variant (s : State) (f : Variant → Variant) : (s.onVariant f).variant = f s.variant := rfl
@[simp] theorem State.onVariant_pending (s : State) (f : Variant → Variant) : (s.onVariant f).pending = s.pending := rfl
@[simp] theorem State.onVariant_out (s : State) (f : Variant → Variant) : (s.onVariant f).out = s.out := rfl
@[simp] theorem State.onVariant_freeCtr (s : State) (f : Variant → Variant) : (s.onVariant f).freeCtr = s.freeCtr := rfl
@[simp] theorem State.onVariant_hdrs (s : State) (f : Variant → Variant) : (s.onVariant f).hdrs = s.hdrs := rfl
@[simp] theorem State.onVariant_mirrors (s : State) (f : Variant → Variant) : (s.onVariant f).mirrors = s.mirrors := rfl
@[simp] theorem State.onVariant_chip (s : State) (f : Variant → Variant) : (s.onVariant f).chip = s.chip := rfl
@[simp] theorem State.onVariant_pcie (s : State) (f : Variant → Variant) : (s.onVariant f).pcie = s.pcie := rfl
@[simp] theorem State.onVariant_fns (s : State) (f : Variant → Variant) : (s.onVariant f).fns = s.fns := rfl
@[simp] theorem State.onVariant_chans (s : State) (f : Variant → Variant) : (s.onVariant f).chans = s.chans := rfl
@[simp] theorem State.onVariant_gens (s : State) (f : Variant → Variant) : (s.onVariant f).gens = s.gens := rfl
@[simp] theorem State.onVariant_chFreed (s : State) (f : Variant → Variant) : (s.onVariant f).chFreed = s.chFreed := rfl
@[simp] theorem State.onVariant_reqs (s : State) (f : Variant → Variant) : (s.onVariant f).reqs = s.reqs := rfl
@[simp] theorem State.onVariant_nextReq (s : State) (f : Variant → Variant) : (s.onVariant f).nextReq = s.nextReq := rfl
@[simp] theorem State.onVariant_jobs (s : State) (f : Variant → Variant) : (s.onVariant f).jobs = s.jobs := rfl
@[simp] theorem State.onVariant_nextJob (s : State) (f : Variant → Variant) : (s.onVariant f).nextJob = s.nextJob := rfl
@[simp] theorem State.onVariant_msh (s : State) (f : Variant → Variant) : (s.onVariant f).msh = s.msh := rfl
@[simp] theorem State.onVariant_eights (s : State) (f : Variant → Variant) : (s.onVariant f).eights = s.eights := rfl
@[simp] theorem State.onVariant_progs (s : State) (f : Variant → Variant) : (s.onVariant f).progs = s.progs := rfl
@[simp] theorem State.onVariant_quads (s : State) (f : Variant → Variant) : (s.onVariant f).quads = s.quads := rfl
@[simp] theorem State.onVariant_meas (s : State) (f : Variant → Variant) : (s.onVariant f).meas = s.meas := rfl
@[simp] theorem State.onVariant_slices (s : State) (f : Variant → Variant) : (s.onVariant f).slices = s.slices := rfl
@[simp] theorem State.onVariant_klg (s : State) (f : Variant → Variant) : (s.onVariant f).klg = s.klg := rfl
@[simp] theorem State.onVariant_kslots (s : State) (f : Variant → Variant) : (s.onVariant f).kslots = s.kslots := rfl
@[simp] theorem State.onVariant_kfrees (s : State) (f : Variant → Variant) : (s.onVariant f).kfrees = s.kfrees := rfl
@[simp] theorem State.onVariant_genBase (s : State) (f : Variant → Variant) : (s.onVariant f).genBase = s.genBase := rfl
@[simp] theorem State.onVariant_domains (s : State) (f : Variant → Variant) : (s.onVariant f).domains = s.domains := rfl
@[simp] theorem State.onVariant_heat (s : State) (f : Variant → Variant) : (s.onVariant f).heat = s.heat := rfl
@[simp] theorem State.onVariant_aod (s : State) (f : Variant → Variant) : (s.onVariant f).aod = s.aod := rfl
@[simp] theorem State.onVariant_otp (s : State) (f : Variant → Variant) : (s.onVariant f).otp = s.otp := rfl
@[simp] theorem State.onVariant_wdg (s : State) (f : Variant → Variant) : (s.onVariant f).wdg = s.wdg := rfl
@[simp] theorem State.onVariant_tmp (s : State) (f : Variant → Variant) : (s.onVariant f).tmp = s.tmp := rfl
@[simp] theorem State.onVariant_erg (s : State) (f : Variant → Variant) : (s.onVariant f).erg = s.erg := rfl
@[simp] theorem State.onVariant_fgt (s : State) (f : Variant → Variant) : (s.onVariant f).fgt = s.fgt := rfl
@[simp] theorem State.onVariant_psq (s : State) (f : Variant → Variant) : (s.onVariant f).psq = s.psq := rfl
@[simp] theorem State.onVariant_cci (s : State) (f : Variant → Variant) : (s.onVariant f).cci = s.cci := rfl
@[simp] theorem State.onVariant_lcs (s : State) (f : Variant → Variant) : (s.onVariant f).lcs = s.lcs := rfl
@[simp] theorem State.onVariant_dbg (s : State) (f : Variant → Variant) : (s.onVariant f).dbg = s.dbg := rfl
@[simp] theorem State.onVariant_bst (s : State) (f : Variant → Variant) : (s.onVariant f).bst = s.bst := rfl
@[simp] theorem State.onVariant_rng (s : State) (f : Variant → Variant) : (s.onVariant f).rng = s.rng := rfl
@[simp] theorem State.onVariant_ump (s : State) (f : Variant → Variant) : (s.onVariant f).ump = s.ump := rfl
@[simp] theorem State.onVariant_sessions (s : State) (f : Variant → Variant) : (s.onVariant f).sessions = s.sessions := rfl
@[simp] theorem State.onVariant_spdm (s : State) (f : Variant → Variant) : (s.onVariant f).spdm = s.spdm := rfl
@[simp] theorem State.onVariant_mon (s : State) (f : Variant → Variant) : (s.onVariant f).mon = s.mon := rfl
@[simp] theorem State.onVariant_pldm (s : State) (f : Variant → Variant) : (s.onVariant f).pldm = s.pldm := rfl
@[simp] theorem State.onVariant_store (s : State) (f : Variant → Variant) : (s.onVariant f).store = s.store := rfl
@[simp] theorem State.onPending_variant (s : State) (f : (List Instr) → List Instr) : (s.onPending f).variant = s.variant := rfl
@[simp] theorem State.onPending_pending (s : State) (f : (List Instr) → List Instr) : (s.onPending f).pending = f s.pending := rfl
@[simp] theorem State.onPending_out (s : State) (f : (List Instr) → List Instr) : (s.onPending f).out = s.out := rfl
@[simp] theorem State.onPending_freeCtr (s : State) (f : (List Instr) → List Instr) : (s.onPending f).freeCtr = s.freeCtr := rfl
@[simp] theorem State.onPending_hdrs (s : State) (f : (List Instr) → List Instr) : (s.onPending f).hdrs = s.hdrs := rfl
@[simp] theorem State.onPending_mirrors (s : State) (f : (List Instr) → List Instr) : (s.onPending f).mirrors = s.mirrors := rfl
@[simp] theorem State.onPending_chip (s : State) (f : (List Instr) → List Instr) : (s.onPending f).chip = s.chip := rfl
@[simp] theorem State.onPending_pcie (s : State) (f : (List Instr) → List Instr) : (s.onPending f).pcie = s.pcie := rfl
@[simp] theorem State.onPending_fns (s : State) (f : (List Instr) → List Instr) : (s.onPending f).fns = s.fns := rfl
@[simp] theorem State.onPending_chans (s : State) (f : (List Instr) → List Instr) : (s.onPending f).chans = s.chans := rfl
@[simp] theorem State.onPending_gens (s : State) (f : (List Instr) → List Instr) : (s.onPending f).gens = s.gens := rfl
@[simp] theorem State.onPending_chFreed (s : State) (f : (List Instr) → List Instr) : (s.onPending f).chFreed = s.chFreed := rfl
@[simp] theorem State.onPending_reqs (s : State) (f : (List Instr) → List Instr) : (s.onPending f).reqs = s.reqs := rfl
@[simp] theorem State.onPending_nextReq (s : State) (f : (List Instr) → List Instr) : (s.onPending f).nextReq = s.nextReq := rfl
@[simp] theorem State.onPending_jobs (s : State) (f : (List Instr) → List Instr) : (s.onPending f).jobs = s.jobs := rfl
@[simp] theorem State.onPending_nextJob (s : State) (f : (List Instr) → List Instr) : (s.onPending f).nextJob = s.nextJob := rfl
@[simp] theorem State.onPending_msh (s : State) (f : (List Instr) → List Instr) : (s.onPending f).msh = s.msh := rfl
@[simp] theorem State.onPending_eights (s : State) (f : (List Instr) → List Instr) : (s.onPending f).eights = s.eights := rfl
@[simp] theorem State.onPending_progs (s : State) (f : (List Instr) → List Instr) : (s.onPending f).progs = s.progs := rfl
@[simp] theorem State.onPending_quads (s : State) (f : (List Instr) → List Instr) : (s.onPending f).quads = s.quads := rfl
@[simp] theorem State.onPending_meas (s : State) (f : (List Instr) → List Instr) : (s.onPending f).meas = s.meas := rfl
@[simp] theorem State.onPending_slices (s : State) (f : (List Instr) → List Instr) : (s.onPending f).slices = s.slices := rfl
@[simp] theorem State.onPending_klg (s : State) (f : (List Instr) → List Instr) : (s.onPending f).klg = s.klg := rfl
@[simp] theorem State.onPending_kslots (s : State) (f : (List Instr) → List Instr) : (s.onPending f).kslots = s.kslots := rfl
@[simp] theorem State.onPending_kfrees (s : State) (f : (List Instr) → List Instr) : (s.onPending f).kfrees = s.kfrees := rfl
@[simp] theorem State.onPending_genBase (s : State) (f : (List Instr) → List Instr) : (s.onPending f).genBase = s.genBase := rfl
@[simp] theorem State.onPending_domains (s : State) (f : (List Instr) → List Instr) : (s.onPending f).domains = s.domains := rfl
@[simp] theorem State.onPending_heat (s : State) (f : (List Instr) → List Instr) : (s.onPending f).heat = s.heat := rfl
@[simp] theorem State.onPending_aod (s : State) (f : (List Instr) → List Instr) : (s.onPending f).aod = s.aod := rfl
@[simp] theorem State.onPending_otp (s : State) (f : (List Instr) → List Instr) : (s.onPending f).otp = s.otp := rfl
@[simp] theorem State.onPending_wdg (s : State) (f : (List Instr) → List Instr) : (s.onPending f).wdg = s.wdg := rfl
@[simp] theorem State.onPending_tmp (s : State) (f : (List Instr) → List Instr) : (s.onPending f).tmp = s.tmp := rfl
@[simp] theorem State.onPending_erg (s : State) (f : (List Instr) → List Instr) : (s.onPending f).erg = s.erg := rfl
@[simp] theorem State.onPending_fgt (s : State) (f : (List Instr) → List Instr) : (s.onPending f).fgt = s.fgt := rfl
@[simp] theorem State.onPending_psq (s : State) (f : (List Instr) → List Instr) : (s.onPending f).psq = s.psq := rfl
@[simp] theorem State.onPending_cci (s : State) (f : (List Instr) → List Instr) : (s.onPending f).cci = s.cci := rfl
@[simp] theorem State.onPending_lcs (s : State) (f : (List Instr) → List Instr) : (s.onPending f).lcs = s.lcs := rfl
@[simp] theorem State.onPending_dbg (s : State) (f : (List Instr) → List Instr) : (s.onPending f).dbg = s.dbg := rfl
@[simp] theorem State.onPending_bst (s : State) (f : (List Instr) → List Instr) : (s.onPending f).bst = s.bst := rfl
@[simp] theorem State.onPending_rng (s : State) (f : (List Instr) → List Instr) : (s.onPending f).rng = s.rng := rfl
@[simp] theorem State.onPending_ump (s : State) (f : (List Instr) → List Instr) : (s.onPending f).ump = s.ump := rfl
@[simp] theorem State.onPending_sessions (s : State) (f : (List Instr) → List Instr) : (s.onPending f).sessions = s.sessions := rfl
@[simp] theorem State.onPending_spdm (s : State) (f : (List Instr) → List Instr) : (s.onPending f).spdm = s.spdm := rfl
@[simp] theorem State.onPending_mon (s : State) (f : (List Instr) → List Instr) : (s.onPending f).mon = s.mon := rfl
@[simp] theorem State.onPending_pldm (s : State) (f : (List Instr) → List Instr) : (s.onPending f).pldm = s.pldm := rfl
@[simp] theorem State.onPending_store (s : State) (f : (List Instr) → List Instr) : (s.onPending f).store = s.store := rfl
@[simp] theorem State.onOut_variant (s : State) (f : (List OutEvent) → List OutEvent) : (s.onOut f).variant = s.variant := rfl
@[simp] theorem State.onOut_pending (s : State) (f : (List OutEvent) → List OutEvent) : (s.onOut f).pending = s.pending := rfl
@[simp] theorem State.onOut_out (s : State) (f : (List OutEvent) → List OutEvent) : (s.onOut f).out = f s.out := rfl
@[simp] theorem State.onOut_freeCtr (s : State) (f : (List OutEvent) → List OutEvent) : (s.onOut f).freeCtr = s.freeCtr := rfl
@[simp] theorem State.onOut_hdrs (s : State) (f : (List OutEvent) → List OutEvent) : (s.onOut f).hdrs = s.hdrs := rfl
@[simp] theorem State.onOut_mirrors (s : State) (f : (List OutEvent) → List OutEvent) : (s.onOut f).mirrors = s.mirrors := rfl
@[simp] theorem State.onOut_chip (s : State) (f : (List OutEvent) → List OutEvent) : (s.onOut f).chip = s.chip := rfl
@[simp] theorem State.onOut_pcie (s : State) (f : (List OutEvent) → List OutEvent) : (s.onOut f).pcie = s.pcie := rfl
@[simp] theorem State.onOut_fns (s : State) (f : (List OutEvent) → List OutEvent) : (s.onOut f).fns = s.fns := rfl
@[simp] theorem State.onOut_chans (s : State) (f : (List OutEvent) → List OutEvent) : (s.onOut f).chans = s.chans := rfl
@[simp] theorem State.onOut_gens (s : State) (f : (List OutEvent) → List OutEvent) : (s.onOut f).gens = s.gens := rfl
@[simp] theorem State.onOut_chFreed (s : State) (f : (List OutEvent) → List OutEvent) : (s.onOut f).chFreed = s.chFreed := rfl
@[simp] theorem State.onOut_reqs (s : State) (f : (List OutEvent) → List OutEvent) : (s.onOut f).reqs = s.reqs := rfl
@[simp] theorem State.onOut_nextReq (s : State) (f : (List OutEvent) → List OutEvent) : (s.onOut f).nextReq = s.nextReq := rfl
@[simp] theorem State.onOut_jobs (s : State) (f : (List OutEvent) → List OutEvent) : (s.onOut f).jobs = s.jobs := rfl
@[simp] theorem State.onOut_nextJob (s : State) (f : (List OutEvent) → List OutEvent) : (s.onOut f).nextJob = s.nextJob := rfl
@[simp] theorem State.onOut_msh (s : State) (f : (List OutEvent) → List OutEvent) : (s.onOut f).msh = s.msh := rfl
@[simp] theorem State.onOut_eights (s : State) (f : (List OutEvent) → List OutEvent) : (s.onOut f).eights = s.eights := rfl
@[simp] theorem State.onOut_progs (s : State) (f : (List OutEvent) → List OutEvent) : (s.onOut f).progs = s.progs := rfl
@[simp] theorem State.onOut_quads (s : State) (f : (List OutEvent) → List OutEvent) : (s.onOut f).quads = s.quads := rfl
@[simp] theorem State.onOut_meas (s : State) (f : (List OutEvent) → List OutEvent) : (s.onOut f).meas = s.meas := rfl
@[simp] theorem State.onOut_slices (s : State) (f : (List OutEvent) → List OutEvent) : (s.onOut f).slices = s.slices := rfl
@[simp] theorem State.onOut_klg (s : State) (f : (List OutEvent) → List OutEvent) : (s.onOut f).klg = s.klg := rfl
@[simp] theorem State.onOut_kslots (s : State) (f : (List OutEvent) → List OutEvent) : (s.onOut f).kslots = s.kslots := rfl
@[simp] theorem State.onOut_kfrees (s : State) (f : (List OutEvent) → List OutEvent) : (s.onOut f).kfrees = s.kfrees := rfl
@[simp] theorem State.onOut_genBase (s : State) (f : (List OutEvent) → List OutEvent) : (s.onOut f).genBase = s.genBase := rfl
@[simp] theorem State.onOut_domains (s : State) (f : (List OutEvent) → List OutEvent) : (s.onOut f).domains = s.domains := rfl
@[simp] theorem State.onOut_heat (s : State) (f : (List OutEvent) → List OutEvent) : (s.onOut f).heat = s.heat := rfl
@[simp] theorem State.onOut_aod (s : State) (f : (List OutEvent) → List OutEvent) : (s.onOut f).aod = s.aod := rfl
@[simp] theorem State.onOut_otp (s : State) (f : (List OutEvent) → List OutEvent) : (s.onOut f).otp = s.otp := rfl
@[simp] theorem State.onOut_wdg (s : State) (f : (List OutEvent) → List OutEvent) : (s.onOut f).wdg = s.wdg := rfl
@[simp] theorem State.onOut_tmp (s : State) (f : (List OutEvent) → List OutEvent) : (s.onOut f).tmp = s.tmp := rfl
@[simp] theorem State.onOut_erg (s : State) (f : (List OutEvent) → List OutEvent) : (s.onOut f).erg = s.erg := rfl
@[simp] theorem State.onOut_fgt (s : State) (f : (List OutEvent) → List OutEvent) : (s.onOut f).fgt = s.fgt := rfl
@[simp] theorem State.onOut_psq (s : State) (f : (List OutEvent) → List OutEvent) : (s.onOut f).psq = s.psq := rfl
@[simp] theorem State.onOut_cci (s : State) (f : (List OutEvent) → List OutEvent) : (s.onOut f).cci = s.cci := rfl
@[simp] theorem State.onOut_lcs (s : State) (f : (List OutEvent) → List OutEvent) : (s.onOut f).lcs = s.lcs := rfl
@[simp] theorem State.onOut_dbg (s : State) (f : (List OutEvent) → List OutEvent) : (s.onOut f).dbg = s.dbg := rfl
@[simp] theorem State.onOut_bst (s : State) (f : (List OutEvent) → List OutEvent) : (s.onOut f).bst = s.bst := rfl
@[simp] theorem State.onOut_rng (s : State) (f : (List OutEvent) → List OutEvent) : (s.onOut f).rng = s.rng := rfl
@[simp] theorem State.onOut_ump (s : State) (f : (List OutEvent) → List OutEvent) : (s.onOut f).ump = s.ump := rfl
@[simp] theorem State.onOut_sessions (s : State) (f : (List OutEvent) → List OutEvent) : (s.onOut f).sessions = s.sessions := rfl
@[simp] theorem State.onOut_spdm (s : State) (f : (List OutEvent) → List OutEvent) : (s.onOut f).spdm = s.spdm := rfl
@[simp] theorem State.onOut_mon (s : State) (f : (List OutEvent) → List OutEvent) : (s.onOut f).mon = s.mon := rfl
@[simp] theorem State.onOut_pldm (s : State) (f : (List OutEvent) → List OutEvent) : (s.onOut f).pldm = s.pldm := rfl
@[simp] theorem State.onOut_store (s : State) (f : (List OutEvent) → List OutEvent) : (s.onOut f).store = s.store := rfl
@[simp] theorem State.onFreeCtr_variant (s : State) (f : Nat → Nat) : (s.onFreeCtr f).variant = s.variant := rfl
@[simp] theorem State.onFreeCtr_pending (s : State) (f : Nat → Nat) : (s.onFreeCtr f).pending = s.pending := rfl
@[simp] theorem State.onFreeCtr_out (s : State) (f : Nat → Nat) : (s.onFreeCtr f).out = s.out := rfl
@[simp] theorem State.onFreeCtr_freeCtr (s : State) (f : Nat → Nat) : (s.onFreeCtr f).freeCtr = f s.freeCtr := rfl
@[simp] theorem State.onFreeCtr_hdrs (s : State) (f : Nat → Nat) : (s.onFreeCtr f).hdrs = s.hdrs := rfl
@[simp] theorem State.onFreeCtr_mirrors (s : State) (f : Nat → Nat) : (s.onFreeCtr f).mirrors = s.mirrors := rfl
@[simp] theorem State.onFreeCtr_chip (s : State) (f : Nat → Nat) : (s.onFreeCtr f).chip = s.chip := rfl
@[simp] theorem State.onFreeCtr_pcie (s : State) (f : Nat → Nat) : (s.onFreeCtr f).pcie = s.pcie := rfl
@[simp] theorem State.onFreeCtr_fns (s : State) (f : Nat → Nat) : (s.onFreeCtr f).fns = s.fns := rfl
@[simp] theorem State.onFreeCtr_chans (s : State) (f : Nat → Nat) : (s.onFreeCtr f).chans = s.chans := rfl
@[simp] theorem State.onFreeCtr_gens (s : State) (f : Nat → Nat) : (s.onFreeCtr f).gens = s.gens := rfl
@[simp] theorem State.onFreeCtr_chFreed (s : State) (f : Nat → Nat) : (s.onFreeCtr f).chFreed = s.chFreed := rfl
@[simp] theorem State.onFreeCtr_reqs (s : State) (f : Nat → Nat) : (s.onFreeCtr f).reqs = s.reqs := rfl
@[simp] theorem State.onFreeCtr_nextReq (s : State) (f : Nat → Nat) : (s.onFreeCtr f).nextReq = s.nextReq := rfl
@[simp] theorem State.onFreeCtr_jobs (s : State) (f : Nat → Nat) : (s.onFreeCtr f).jobs = s.jobs := rfl
@[simp] theorem State.onFreeCtr_nextJob (s : State) (f : Nat → Nat) : (s.onFreeCtr f).nextJob = s.nextJob := rfl
@[simp] theorem State.onFreeCtr_msh (s : State) (f : Nat → Nat) : (s.onFreeCtr f).msh = s.msh := rfl
@[simp] theorem State.onFreeCtr_eights (s : State) (f : Nat → Nat) : (s.onFreeCtr f).eights = s.eights := rfl
@[simp] theorem State.onFreeCtr_progs (s : State) (f : Nat → Nat) : (s.onFreeCtr f).progs = s.progs := rfl
@[simp] theorem State.onFreeCtr_quads (s : State) (f : Nat → Nat) : (s.onFreeCtr f).quads = s.quads := rfl
@[simp] theorem State.onFreeCtr_meas (s : State) (f : Nat → Nat) : (s.onFreeCtr f).meas = s.meas := rfl
@[simp] theorem State.onFreeCtr_slices (s : State) (f : Nat → Nat) : (s.onFreeCtr f).slices = s.slices := rfl
@[simp] theorem State.onFreeCtr_klg (s : State) (f : Nat → Nat) : (s.onFreeCtr f).klg = s.klg := rfl
@[simp] theorem State.onFreeCtr_kslots (s : State) (f : Nat → Nat) : (s.onFreeCtr f).kslots = s.kslots := rfl
@[simp] theorem State.onFreeCtr_kfrees (s : State) (f : Nat → Nat) : (s.onFreeCtr f).kfrees = s.kfrees := rfl
@[simp] theorem State.onFreeCtr_genBase (s : State) (f : Nat → Nat) : (s.onFreeCtr f).genBase = s.genBase := rfl
@[simp] theorem State.onFreeCtr_domains (s : State) (f : Nat → Nat) : (s.onFreeCtr f).domains = s.domains := rfl
@[simp] theorem State.onFreeCtr_heat (s : State) (f : Nat → Nat) : (s.onFreeCtr f).heat = s.heat := rfl
@[simp] theorem State.onFreeCtr_aod (s : State) (f : Nat → Nat) : (s.onFreeCtr f).aod = s.aod := rfl
@[simp] theorem State.onFreeCtr_otp (s : State) (f : Nat → Nat) : (s.onFreeCtr f).otp = s.otp := rfl
@[simp] theorem State.onFreeCtr_wdg (s : State) (f : Nat → Nat) : (s.onFreeCtr f).wdg = s.wdg := rfl
@[simp] theorem State.onFreeCtr_tmp (s : State) (f : Nat → Nat) : (s.onFreeCtr f).tmp = s.tmp := rfl
@[simp] theorem State.onFreeCtr_erg (s : State) (f : Nat → Nat) : (s.onFreeCtr f).erg = s.erg := rfl
@[simp] theorem State.onFreeCtr_fgt (s : State) (f : Nat → Nat) : (s.onFreeCtr f).fgt = s.fgt := rfl
@[simp] theorem State.onFreeCtr_psq (s : State) (f : Nat → Nat) : (s.onFreeCtr f).psq = s.psq := rfl
@[simp] theorem State.onFreeCtr_cci (s : State) (f : Nat → Nat) : (s.onFreeCtr f).cci = s.cci := rfl
@[simp] theorem State.onFreeCtr_lcs (s : State) (f : Nat → Nat) : (s.onFreeCtr f).lcs = s.lcs := rfl
@[simp] theorem State.onFreeCtr_dbg (s : State) (f : Nat → Nat) : (s.onFreeCtr f).dbg = s.dbg := rfl
@[simp] theorem State.onFreeCtr_bst (s : State) (f : Nat → Nat) : (s.onFreeCtr f).bst = s.bst := rfl
@[simp] theorem State.onFreeCtr_rng (s : State) (f : Nat → Nat) : (s.onFreeCtr f).rng = s.rng := rfl
@[simp] theorem State.onFreeCtr_ump (s : State) (f : Nat → Nat) : (s.onFreeCtr f).ump = s.ump := rfl
@[simp] theorem State.onFreeCtr_sessions (s : State) (f : Nat → Nat) : (s.onFreeCtr f).sessions = s.sessions := rfl
@[simp] theorem State.onFreeCtr_spdm (s : State) (f : Nat → Nat) : (s.onFreeCtr f).spdm = s.spdm := rfl
@[simp] theorem State.onFreeCtr_mon (s : State) (f : Nat → Nat) : (s.onFreeCtr f).mon = s.mon := rfl
@[simp] theorem State.onFreeCtr_pldm (s : State) (f : Nat → Nat) : (s.onFreeCtr f).pldm = s.pldm := rfl
@[simp] theorem State.onFreeCtr_store (s : State) (f : Nat → Nat) : (s.onFreeCtr f).store = s.store := rfl
@[simp] theorem State.onHdrs_variant (s : State) (f : (SMap Hdr) → SMap Hdr) : (s.onHdrs f).variant = s.variant := rfl
@[simp] theorem State.onHdrs_pending (s : State) (f : (SMap Hdr) → SMap Hdr) : (s.onHdrs f).pending = s.pending := rfl
@[simp] theorem State.onHdrs_out (s : State) (f : (SMap Hdr) → SMap Hdr) : (s.onHdrs f).out = s.out := rfl
@[simp] theorem State.onHdrs_freeCtr (s : State) (f : (SMap Hdr) → SMap Hdr) : (s.onHdrs f).freeCtr = s.freeCtr := rfl
@[simp] theorem State.onHdrs_hdrs (s : State) (f : (SMap Hdr) → SMap Hdr) : (s.onHdrs f).hdrs = f s.hdrs := rfl
@[simp] theorem State.onHdrs_mirrors (s : State) (f : (SMap Hdr) → SMap Hdr) : (s.onHdrs f).mirrors = s.mirrors := rfl
@[simp] theorem State.onHdrs_chip (s : State) (f : (SMap Hdr) → SMap Hdr) : (s.onHdrs f).chip = s.chip := rfl
@[simp] theorem State.onHdrs_pcie (s : State) (f : (SMap Hdr) → SMap Hdr) : (s.onHdrs f).pcie = s.pcie := rfl
@[simp] theorem State.onHdrs_fns (s : State) (f : (SMap Hdr) → SMap Hdr) : (s.onHdrs f).fns = s.fns := rfl
@[simp] theorem State.onHdrs_chans (s : State) (f : (SMap Hdr) → SMap Hdr) : (s.onHdrs f).chans = s.chans := rfl
@[simp] theorem State.onHdrs_gens (s : State) (f : (SMap Hdr) → SMap Hdr) : (s.onHdrs f).gens = s.gens := rfl
@[simp] theorem State.onHdrs_chFreed (s : State) (f : (SMap Hdr) → SMap Hdr) : (s.onHdrs f).chFreed = s.chFreed := rfl
@[simp] theorem State.onHdrs_reqs (s : State) (f : (SMap Hdr) → SMap Hdr) : (s.onHdrs f).reqs = s.reqs := rfl
@[simp] theorem State.onHdrs_nextReq (s : State) (f : (SMap Hdr) → SMap Hdr) : (s.onHdrs f).nextReq = s.nextReq := rfl
@[simp] theorem State.onHdrs_jobs (s : State) (f : (SMap Hdr) → SMap Hdr) : (s.onHdrs f).jobs = s.jobs := rfl
@[simp] theorem State.onHdrs_nextJob (s : State) (f : (SMap Hdr) → SMap Hdr) : (s.onHdrs f).nextJob = s.nextJob := rfl
@[simp] theorem State.onHdrs_msh (s : State) (f : (SMap Hdr) → SMap Hdr) : (s.onHdrs f).msh = s.msh := rfl
@[simp] theorem State.onHdrs_eights (s : State) (f : (SMap Hdr) → SMap Hdr) : (s.onHdrs f).eights = s.eights := rfl
@[simp] theorem State.onHdrs_progs (s : State) (f : (SMap Hdr) → SMap Hdr) : (s.onHdrs f).progs = s.progs := rfl
@[simp] theorem State.onHdrs_quads (s : State) (f : (SMap Hdr) → SMap Hdr) : (s.onHdrs f).quads = s.quads := rfl
@[simp] theorem State.onHdrs_meas (s : State) (f : (SMap Hdr) → SMap Hdr) : (s.onHdrs f).meas = s.meas := rfl
@[simp] theorem State.onHdrs_slices (s : State) (f : (SMap Hdr) → SMap Hdr) : (s.onHdrs f).slices = s.slices := rfl
@[simp] theorem State.onHdrs_klg (s : State) (f : (SMap Hdr) → SMap Hdr) : (s.onHdrs f).klg = s.klg := rfl
@[simp] theorem State.onHdrs_kslots (s : State) (f : (SMap Hdr) → SMap Hdr) : (s.onHdrs f).kslots = s.kslots := rfl
@[simp] theorem State.onHdrs_kfrees (s : State) (f : (SMap Hdr) → SMap Hdr) : (s.onHdrs f).kfrees = s.kfrees := rfl
@[simp] theorem State.onHdrs_genBase (s : State) (f : (SMap Hdr) → SMap Hdr) : (s.onHdrs f).genBase = s.genBase := rfl
@[simp] theorem State.onHdrs_domains (s : State) (f : (SMap Hdr) → SMap Hdr) : (s.onHdrs f).domains = s.domains := rfl
@[simp] theorem State.onHdrs_heat (s : State) (f : (SMap Hdr) → SMap Hdr) : (s.onHdrs f).heat = s.heat := rfl
@[simp] theorem State.onHdrs_aod (s : State) (f : (SMap Hdr) → SMap Hdr) : (s.onHdrs f).aod = s.aod := rfl
@[simp] theorem State.onHdrs_otp (s : State) (f : (SMap Hdr) → SMap Hdr) : (s.onHdrs f).otp = s.otp := rfl
@[simp] theorem State.onHdrs_wdg (s : State) (f : (SMap Hdr) → SMap Hdr) : (s.onHdrs f).wdg = s.wdg := rfl
@[simp] theorem State.onHdrs_tmp (s : State) (f : (SMap Hdr) → SMap Hdr) : (s.onHdrs f).tmp = s.tmp := rfl
@[simp] theorem State.onHdrs_erg (s : State) (f : (SMap Hdr) → SMap Hdr) : (s.onHdrs f).erg = s.erg := rfl
@[simp] theorem State.onHdrs_fgt (s : State) (f : (SMap Hdr) → SMap Hdr) : (s.onHdrs f).fgt = s.fgt := rfl
@[simp] theorem State.onHdrs_psq (s : State) (f : (SMap Hdr) → SMap Hdr) : (s.onHdrs f).psq = s.psq := rfl
@[simp] theorem State.onHdrs_cci (s : State) (f : (SMap Hdr) → SMap Hdr) : (s.onHdrs f).cci = s.cci := rfl
@[simp] theorem State.onHdrs_lcs (s : State) (f : (SMap Hdr) → SMap Hdr) : (s.onHdrs f).lcs = s.lcs := rfl
@[simp] theorem State.onHdrs_dbg (s : State) (f : (SMap Hdr) → SMap Hdr) : (s.onHdrs f).dbg = s.dbg := rfl
@[simp] theorem State.onHdrs_bst (s : State) (f : (SMap Hdr) → SMap Hdr) : (s.onHdrs f).bst = s.bst := rfl
@[simp] theorem State.onHdrs_rng (s : State) (f : (SMap Hdr) → SMap Hdr) : (s.onHdrs f).rng = s.rng := rfl
@[simp] theorem State.onHdrs_ump (s : State) (f : (SMap Hdr) → SMap Hdr) : (s.onHdrs f).ump = s.ump := rfl
@[simp] theorem State.onHdrs_sessions (s : State) (f : (SMap Hdr) → SMap Hdr) : (s.onHdrs f).sessions = s.sessions := rfl
@[simp] theorem State.onHdrs_spdm (s : State) (f : (SMap Hdr) → SMap Hdr) : (s.onHdrs f).spdm = s.spdm := rfl
@[simp] theorem State.onHdrs_mon (s : State) (f : (SMap Hdr) → SMap Hdr) : (s.onHdrs f).mon = s.mon := rfl
@[simp] theorem State.onHdrs_pldm (s : State) (f : (SMap Hdr) → SMap Hdr) : (s.onHdrs f).pldm = s.pldm := rfl
@[simp] theorem State.onHdrs_store (s : State) (f : (SMap Hdr) → SMap Hdr) : (s.onHdrs f).store = s.store := rfl
@[simp] theorem State.onMirrors_variant (s : State) (f : (SMap Mirror) → SMap Mirror) : (s.onMirrors f).variant = s.variant := rfl
@[simp] theorem State.onMirrors_pending (s : State) (f : (SMap Mirror) → SMap Mirror) : (s.onMirrors f).pending = s.pending := rfl
@[simp] theorem State.onMirrors_out (s : State) (f : (SMap Mirror) → SMap Mirror) : (s.onMirrors f).out = s.out := rfl
@[simp] theorem State.onMirrors_freeCtr (s : State) (f : (SMap Mirror) → SMap Mirror) : (s.onMirrors f).freeCtr = s.freeCtr := rfl
@[simp] theorem State.onMirrors_hdrs (s : State) (f : (SMap Mirror) → SMap Mirror) : (s.onMirrors f).hdrs = s.hdrs := rfl
@[simp] theorem State.onMirrors_mirrors (s : State) (f : (SMap Mirror) → SMap Mirror) : (s.onMirrors f).mirrors = f s.mirrors := rfl
@[simp] theorem State.onMirrors_chip (s : State) (f : (SMap Mirror) → SMap Mirror) : (s.onMirrors f).chip = s.chip := rfl
@[simp] theorem State.onMirrors_pcie (s : State) (f : (SMap Mirror) → SMap Mirror) : (s.onMirrors f).pcie = s.pcie := rfl
@[simp] theorem State.onMirrors_fns (s : State) (f : (SMap Mirror) → SMap Mirror) : (s.onMirrors f).fns = s.fns := rfl
@[simp] theorem State.onMirrors_chans (s : State) (f : (SMap Mirror) → SMap Mirror) : (s.onMirrors f).chans = s.chans := rfl
@[simp] theorem State.onMirrors_gens (s : State) (f : (SMap Mirror) → SMap Mirror) : (s.onMirrors f).gens = s.gens := rfl
@[simp] theorem State.onMirrors_chFreed (s : State) (f : (SMap Mirror) → SMap Mirror) : (s.onMirrors f).chFreed = s.chFreed := rfl
@[simp] theorem State.onMirrors_reqs (s : State) (f : (SMap Mirror) → SMap Mirror) : (s.onMirrors f).reqs = s.reqs := rfl
@[simp] theorem State.onMirrors_nextReq (s : State) (f : (SMap Mirror) → SMap Mirror) : (s.onMirrors f).nextReq = s.nextReq := rfl
@[simp] theorem State.onMirrors_jobs (s : State) (f : (SMap Mirror) → SMap Mirror) : (s.onMirrors f).jobs = s.jobs := rfl
@[simp] theorem State.onMirrors_nextJob (s : State) (f : (SMap Mirror) → SMap Mirror) : (s.onMirrors f).nextJob = s.nextJob := rfl
@[simp] theorem State.onMirrors_msh (s : State) (f : (SMap Mirror) → SMap Mirror) : (s.onMirrors f).msh = s.msh := rfl
@[simp] theorem State.onMirrors_eights (s : State) (f : (SMap Mirror) → SMap Mirror) : (s.onMirrors f).eights = s.eights := rfl
@[simp] theorem State.onMirrors_progs (s : State) (f : (SMap Mirror) → SMap Mirror) : (s.onMirrors f).progs = s.progs := rfl
@[simp] theorem State.onMirrors_quads (s : State) (f : (SMap Mirror) → SMap Mirror) : (s.onMirrors f).quads = s.quads := rfl
@[simp] theorem State.onMirrors_meas (s : State) (f : (SMap Mirror) → SMap Mirror) : (s.onMirrors f).meas = s.meas := rfl
@[simp] theorem State.onMirrors_slices (s : State) (f : (SMap Mirror) → SMap Mirror) : (s.onMirrors f).slices = s.slices := rfl
@[simp] theorem State.onMirrors_klg (s : State) (f : (SMap Mirror) → SMap Mirror) : (s.onMirrors f).klg = s.klg := rfl
@[simp] theorem State.onMirrors_kslots (s : State) (f : (SMap Mirror) → SMap Mirror) : (s.onMirrors f).kslots = s.kslots := rfl
@[simp] theorem State.onMirrors_kfrees (s : State) (f : (SMap Mirror) → SMap Mirror) : (s.onMirrors f).kfrees = s.kfrees := rfl
@[simp] theorem State.onMirrors_genBase (s : State) (f : (SMap Mirror) → SMap Mirror) : (s.onMirrors f).genBase = s.genBase := rfl
@[simp] theorem State.onMirrors_domains (s : State) (f : (SMap Mirror) → SMap Mirror) : (s.onMirrors f).domains = s.domains := rfl
@[simp] theorem State.onMirrors_heat (s : State) (f : (SMap Mirror) → SMap Mirror) : (s.onMirrors f).heat = s.heat := rfl
@[simp] theorem State.onMirrors_aod (s : State) (f : (SMap Mirror) → SMap Mirror) : (s.onMirrors f).aod = s.aod := rfl
@[simp] theorem State.onMirrors_otp (s : State) (f : (SMap Mirror) → SMap Mirror) : (s.onMirrors f).otp = s.otp := rfl
@[simp] theorem State.onMirrors_wdg (s : State) (f : (SMap Mirror) → SMap Mirror) : (s.onMirrors f).wdg = s.wdg := rfl
@[simp] theorem State.onMirrors_tmp (s : State) (f : (SMap Mirror) → SMap Mirror) : (s.onMirrors f).tmp = s.tmp := rfl
@[simp] theorem State.onMirrors_erg (s : State) (f : (SMap Mirror) → SMap Mirror) : (s.onMirrors f).erg = s.erg := rfl
@[simp] theorem State.onMirrors_fgt (s : State) (f : (SMap Mirror) → SMap Mirror) : (s.onMirrors f).fgt = s.fgt := rfl
@[simp] theorem State.onMirrors_psq (s : State) (f : (SMap Mirror) → SMap Mirror) : (s.onMirrors f).psq = s.psq := rfl
@[simp] theorem State.onMirrors_cci (s : State) (f : (SMap Mirror) → SMap Mirror) : (s.onMirrors f).cci = s.cci := rfl
@[simp] theorem State.onMirrors_lcs (s : State) (f : (SMap Mirror) → SMap Mirror) : (s.onMirrors f).lcs = s.lcs := rfl
@[simp] theorem State.onMirrors_dbg (s : State) (f : (SMap Mirror) → SMap Mirror) : (s.onMirrors f).dbg = s.dbg := rfl
@[simp] theorem State.onMirrors_bst (s : State) (f : (SMap Mirror) → SMap Mirror) : (s.onMirrors f).bst = s.bst := rfl
@[simp] theorem State.onMirrors_rng (s : State) (f : (SMap Mirror) → SMap Mirror) : (s.onMirrors f).rng = s.rng := rfl
@[simp] theorem State.onMirrors_ump (s : State) (f : (SMap Mirror) → SMap Mirror) : (s.onMirrors f).ump = s.ump := rfl
@[simp] theorem State.onMirrors_sessions (s : State) (f : (SMap Mirror) → SMap Mirror) : (s.onMirrors f).sessions = s.sessions := rfl
@[simp] theorem State.onMirrors_spdm (s : State) (f : (SMap Mirror) → SMap Mirror) : (s.onMirrors f).spdm = s.spdm := rfl
@[simp] theorem State.onMirrors_mon (s : State) (f : (SMap Mirror) → SMap Mirror) : (s.onMirrors f).mon = s.mon := rfl
@[simp] theorem State.onMirrors_pldm (s : State) (f : (SMap Mirror) → SMap Mirror) : (s.onMirrors f).pldm = s.pldm := rfl
@[simp] theorem State.onMirrors_store (s : State) (f : (SMap Mirror) → SMap Mirror) : (s.onMirrors f).store = s.store := rfl
@[simp] theorem State.onChip_variant (s : State) (f : Chip → Chip) : (s.onChip f).variant = s.variant := rfl
@[simp] theorem State.onChip_pending (s : State) (f : Chip → Chip) : (s.onChip f).pending = s.pending := rfl
@[simp] theorem State.onChip_out (s : State) (f : Chip → Chip) : (s.onChip f).out = s.out := rfl
@[simp] theorem State.onChip_freeCtr (s : State) (f : Chip → Chip) : (s.onChip f).freeCtr = s.freeCtr := rfl
@[simp] theorem State.onChip_hdrs (s : State) (f : Chip → Chip) : (s.onChip f).hdrs = s.hdrs := rfl
@[simp] theorem State.onChip_mirrors (s : State) (f : Chip → Chip) : (s.onChip f).mirrors = s.mirrors := rfl
@[simp] theorem State.onChip_chip (s : State) (f : Chip → Chip) : (s.onChip f).chip = f s.chip := rfl
@[simp] theorem State.onChip_pcie (s : State) (f : Chip → Chip) : (s.onChip f).pcie = s.pcie := rfl
@[simp] theorem State.onChip_fns (s : State) (f : Chip → Chip) : (s.onChip f).fns = s.fns := rfl
@[simp] theorem State.onChip_chans (s : State) (f : Chip → Chip) : (s.onChip f).chans = s.chans := rfl
@[simp] theorem State.onChip_gens (s : State) (f : Chip → Chip) : (s.onChip f).gens = s.gens := rfl
@[simp] theorem State.onChip_chFreed (s : State) (f : Chip → Chip) : (s.onChip f).chFreed = s.chFreed := rfl
@[simp] theorem State.onChip_reqs (s : State) (f : Chip → Chip) : (s.onChip f).reqs = s.reqs := rfl
@[simp] theorem State.onChip_nextReq (s : State) (f : Chip → Chip) : (s.onChip f).nextReq = s.nextReq := rfl
@[simp] theorem State.onChip_jobs (s : State) (f : Chip → Chip) : (s.onChip f).jobs = s.jobs := rfl
@[simp] theorem State.onChip_nextJob (s : State) (f : Chip → Chip) : (s.onChip f).nextJob = s.nextJob := rfl
@[simp] theorem State.onChip_msh (s : State) (f : Chip → Chip) : (s.onChip f).msh = s.msh := rfl
@[simp] theorem State.onChip_eights (s : State) (f : Chip → Chip) : (s.onChip f).eights = s.eights := rfl
@[simp] theorem State.onChip_progs (s : State) (f : Chip → Chip) : (s.onChip f).progs = s.progs := rfl
@[simp] theorem State.onChip_quads (s : State) (f : Chip → Chip) : (s.onChip f).quads = s.quads := rfl
@[simp] theorem State.onChip_meas (s : State) (f : Chip → Chip) : (s.onChip f).meas = s.meas := rfl
@[simp] theorem State.onChip_slices (s : State) (f : Chip → Chip) : (s.onChip f).slices = s.slices := rfl
@[simp] theorem State.onChip_klg (s : State) (f : Chip → Chip) : (s.onChip f).klg = s.klg := rfl
@[simp] theorem State.onChip_kslots (s : State) (f : Chip → Chip) : (s.onChip f).kslots = s.kslots := rfl
@[simp] theorem State.onChip_kfrees (s : State) (f : Chip → Chip) : (s.onChip f).kfrees = s.kfrees := rfl
@[simp] theorem State.onChip_genBase (s : State) (f : Chip → Chip) : (s.onChip f).genBase = s.genBase := rfl
@[simp] theorem State.onChip_domains (s : State) (f : Chip → Chip) : (s.onChip f).domains = s.domains := rfl
@[simp] theorem State.onChip_heat (s : State) (f : Chip → Chip) : (s.onChip f).heat = s.heat := rfl
@[simp] theorem State.onChip_aod (s : State) (f : Chip → Chip) : (s.onChip f).aod = s.aod := rfl
@[simp] theorem State.onChip_otp (s : State) (f : Chip → Chip) : (s.onChip f).otp = s.otp := rfl
@[simp] theorem State.onChip_wdg (s : State) (f : Chip → Chip) : (s.onChip f).wdg = s.wdg := rfl
@[simp] theorem State.onChip_tmp (s : State) (f : Chip → Chip) : (s.onChip f).tmp = s.tmp := rfl
@[simp] theorem State.onChip_erg (s : State) (f : Chip → Chip) : (s.onChip f).erg = s.erg := rfl
@[simp] theorem State.onChip_fgt (s : State) (f : Chip → Chip) : (s.onChip f).fgt = s.fgt := rfl
@[simp] theorem State.onChip_psq (s : State) (f : Chip → Chip) : (s.onChip f).psq = s.psq := rfl
@[simp] theorem State.onChip_cci (s : State) (f : Chip → Chip) : (s.onChip f).cci = s.cci := rfl
@[simp] theorem State.onChip_lcs (s : State) (f : Chip → Chip) : (s.onChip f).lcs = s.lcs := rfl
@[simp] theorem State.onChip_dbg (s : State) (f : Chip → Chip) : (s.onChip f).dbg = s.dbg := rfl
@[simp] theorem State.onChip_bst (s : State) (f : Chip → Chip) : (s.onChip f).bst = s.bst := rfl
@[simp] theorem State.onChip_rng (s : State) (f : Chip → Chip) : (s.onChip f).rng = s.rng := rfl
@[simp] theorem State.onChip_ump (s : State) (f : Chip → Chip) : (s.onChip f).ump = s.ump := rfl
@[simp] theorem State.onChip_sessions (s : State) (f : Chip → Chip) : (s.onChip f).sessions = s.sessions := rfl
@[simp] theorem State.onChip_spdm (s : State) (f : Chip → Chip) : (s.onChip f).spdm = s.spdm := rfl
@[simp] theorem State.onChip_mon (s : State) (f : Chip → Chip) : (s.onChip f).mon = s.mon := rfl
@[simp] theorem State.onChip_pldm (s : State) (f : Chip → Chip) : (s.onChip f).pldm = s.pldm := rfl
@[simp] theorem State.onChip_store (s : State) (f : Chip → Chip) : (s.onChip f).store = s.store := rfl
@[simp] theorem State.onPcie_variant (s : State) (f : Pcie → Pcie) : (s.onPcie f).variant = s.variant := rfl
@[simp] theorem State.onPcie_pending (s : State) (f : Pcie → Pcie) : (s.onPcie f).pending = s.pending := rfl
@[simp] theorem State.onPcie_out (s : State) (f : Pcie → Pcie) : (s.onPcie f).out = s.out := rfl
@[simp] theorem State.onPcie_freeCtr (s : State) (f : Pcie → Pcie) : (s.onPcie f).freeCtr = s.freeCtr := rfl
@[simp] theorem State.onPcie_hdrs (s : State) (f : Pcie → Pcie) : (s.onPcie f).hdrs = s.hdrs := rfl
@[simp] theorem State.onPcie_mirrors (s : State) (f : Pcie → Pcie) : (s.onPcie f).mirrors = s.mirrors := rfl
@[simp] theorem State.onPcie_chip (s : State) (f : Pcie → Pcie) : (s.onPcie f).chip = s.chip := rfl
@[simp] theorem State.onPcie_pcie (s : State) (f : Pcie → Pcie) : (s.onPcie f).pcie = f s.pcie := rfl
@[simp] theorem State.onPcie_fns (s : State) (f : Pcie → Pcie) : (s.onPcie f).fns = s.fns := rfl
@[simp] theorem State.onPcie_chans (s : State) (f : Pcie → Pcie) : (s.onPcie f).chans = s.chans := rfl
@[simp] theorem State.onPcie_gens (s : State) (f : Pcie → Pcie) : (s.onPcie f).gens = s.gens := rfl
@[simp] theorem State.onPcie_chFreed (s : State) (f : Pcie → Pcie) : (s.onPcie f).chFreed = s.chFreed := rfl
@[simp] theorem State.onPcie_reqs (s : State) (f : Pcie → Pcie) : (s.onPcie f).reqs = s.reqs := rfl
@[simp] theorem State.onPcie_nextReq (s : State) (f : Pcie → Pcie) : (s.onPcie f).nextReq = s.nextReq := rfl
@[simp] theorem State.onPcie_jobs (s : State) (f : Pcie → Pcie) : (s.onPcie f).jobs = s.jobs := rfl
@[simp] theorem State.onPcie_nextJob (s : State) (f : Pcie → Pcie) : (s.onPcie f).nextJob = s.nextJob := rfl
@[simp] theorem State.onPcie_msh (s : State) (f : Pcie → Pcie) : (s.onPcie f).msh = s.msh := rfl
@[simp] theorem State.onPcie_eights (s : State) (f : Pcie → Pcie) : (s.onPcie f).eights = s.eights := rfl
@[simp] theorem State.onPcie_progs (s : State) (f : Pcie → Pcie) : (s.onPcie f).progs = s.progs := rfl
@[simp] theorem State.onPcie_quads (s : State) (f : Pcie → Pcie) : (s.onPcie f).quads = s.quads := rfl
@[simp] theorem State.onPcie_meas (s : State) (f : Pcie → Pcie) : (s.onPcie f).meas = s.meas := rfl
@[simp] theorem State.onPcie_slices (s : State) (f : Pcie → Pcie) : (s.onPcie f).slices = s.slices := rfl
@[simp] theorem State.onPcie_klg (s : State) (f : Pcie → Pcie) : (s.onPcie f).klg = s.klg := rfl
@[simp] theorem State.onPcie_kslots (s : State) (f : Pcie → Pcie) : (s.onPcie f).kslots = s.kslots := rfl
@[simp] theorem State.onPcie_kfrees (s : State) (f : Pcie → Pcie) : (s.onPcie f).kfrees = s.kfrees := rfl
@[simp] theorem State.onPcie_genBase (s : State) (f : Pcie → Pcie) : (s.onPcie f).genBase = s.genBase := rfl
@[simp] theorem State.onPcie_domains (s : State) (f : Pcie → Pcie) : (s.onPcie f).domains = s.domains := rfl
@[simp] theorem State.onPcie_heat (s : State) (f : Pcie → Pcie) : (s.onPcie f).heat = s.heat := rfl
@[simp] theorem State.onPcie_aod (s : State) (f : Pcie → Pcie) : (s.onPcie f).aod = s.aod := rfl
@[simp] theorem State.onPcie_otp (s : State) (f : Pcie → Pcie) : (s.onPcie f).otp = s.otp := rfl
@[simp] theorem State.onPcie_wdg (s : State) (f : Pcie → Pcie) : (s.onPcie f).wdg = s.wdg := rfl
@[simp] theorem State.onPcie_tmp (s : State) (f : Pcie → Pcie) : (s.onPcie f).tmp = s.tmp := rfl
@[simp] theorem State.onPcie_erg (s : State) (f : Pcie → Pcie) : (s.onPcie f).erg = s.erg := rfl
@[simp] theorem State.onPcie_fgt (s : State) (f : Pcie → Pcie) : (s.onPcie f).fgt = s.fgt := rfl
@[simp] theorem State.onPcie_psq (s : State) (f : Pcie → Pcie) : (s.onPcie f).psq = s.psq := rfl
@[simp] theorem State.onPcie_cci (s : State) (f : Pcie → Pcie) : (s.onPcie f).cci = s.cci := rfl
@[simp] theorem State.onPcie_lcs (s : State) (f : Pcie → Pcie) : (s.onPcie f).lcs = s.lcs := rfl
@[simp] theorem State.onPcie_dbg (s : State) (f : Pcie → Pcie) : (s.onPcie f).dbg = s.dbg := rfl
@[simp] theorem State.onPcie_bst (s : State) (f : Pcie → Pcie) : (s.onPcie f).bst = s.bst := rfl
@[simp] theorem State.onPcie_rng (s : State) (f : Pcie → Pcie) : (s.onPcie f).rng = s.rng := rfl
@[simp] theorem State.onPcie_ump (s : State) (f : Pcie → Pcie) : (s.onPcie f).ump = s.ump := rfl
@[simp] theorem State.onPcie_sessions (s : State) (f : Pcie → Pcie) : (s.onPcie f).sessions = s.sessions := rfl
@[simp] theorem State.onPcie_spdm (s : State) (f : Pcie → Pcie) : (s.onPcie f).spdm = s.spdm := rfl
@[simp] theorem State.onPcie_mon (s : State) (f : Pcie → Pcie) : (s.onPcie f).mon = s.mon := rfl
@[simp] theorem State.onPcie_pldm (s : State) (f : Pcie → Pcie) : (s.onPcie f).pldm = s.pldm := rfl
@[simp] theorem State.onPcie_store (s : State) (f : Pcie → Pcie) : (s.onPcie f).store = s.store := rfl
@[simp] theorem State.onFns_variant (s : State) (f : (SMap Fn) → SMap Fn) : (s.onFns f).variant = s.variant := rfl
@[simp] theorem State.onFns_pending (s : State) (f : (SMap Fn) → SMap Fn) : (s.onFns f).pending = s.pending := rfl
@[simp] theorem State.onFns_out (s : State) (f : (SMap Fn) → SMap Fn) : (s.onFns f).out = s.out := rfl
@[simp] theorem State.onFns_freeCtr (s : State) (f : (SMap Fn) → SMap Fn) : (s.onFns f).freeCtr = s.freeCtr := rfl
@[simp] theorem State.onFns_hdrs (s : State) (f : (SMap Fn) → SMap Fn) : (s.onFns f).hdrs = s.hdrs := rfl
@[simp] theorem State.onFns_mirrors (s : State) (f : (SMap Fn) → SMap Fn) : (s.onFns f).mirrors = s.mirrors := rfl
@[simp] theorem State.onFns_chip (s : State) (f : (SMap Fn) → SMap Fn) : (s.onFns f).chip = s.chip := rfl
@[simp] theorem State.onFns_pcie (s : State) (f : (SMap Fn) → SMap Fn) : (s.onFns f).pcie = s.pcie := rfl
@[simp] theorem State.onFns_fns (s : State) (f : (SMap Fn) → SMap Fn) : (s.onFns f).fns = f s.fns := rfl
@[simp] theorem State.onFns_chans (s : State) (f : (SMap Fn) → SMap Fn) : (s.onFns f).chans = s.chans := rfl
@[simp] theorem State.onFns_gens (s : State) (f : (SMap Fn) → SMap Fn) : (s.onFns f).gens = s.gens := rfl
@[simp] theorem State.onFns_chFreed (s : State) (f : (SMap Fn) → SMap Fn) : (s.onFns f).chFreed = s.chFreed := rfl
@[simp] theorem State.onFns_reqs (s : State) (f : (SMap Fn) → SMap Fn) : (s.onFns f).reqs = s.reqs := rfl
@[simp] theorem State.onFns_nextReq (s : State) (f : (SMap Fn) → SMap Fn) : (s.onFns f).nextReq = s.nextReq := rfl
@[simp] theorem State.onFns_jobs (s : State) (f : (SMap Fn) → SMap Fn) : (s.onFns f).jobs = s.jobs := rfl
@[simp] theorem State.onFns_nextJob (s : State) (f : (SMap Fn) → SMap Fn) : (s.onFns f).nextJob = s.nextJob := rfl
@[simp] theorem State.onFns_msh (s : State) (f : (SMap Fn) → SMap Fn) : (s.onFns f).msh = s.msh := rfl
@[simp] theorem State.onFns_eights (s : State) (f : (SMap Fn) → SMap Fn) : (s.onFns f).eights = s.eights := rfl
@[simp] theorem State.onFns_progs (s : State) (f : (SMap Fn) → SMap Fn) : (s.onFns f).progs = s.progs := rfl
@[simp] theorem State.onFns_quads (s : State) (f : (SMap Fn) → SMap Fn) : (s.onFns f).quads = s.quads := rfl
@[simp] theorem State.onFns_meas (s : State) (f : (SMap Fn) → SMap Fn) : (s.onFns f).meas = s.meas := rfl
@[simp] theorem State.onFns_slices (s : State) (f : (SMap Fn) → SMap Fn) : (s.onFns f).slices = s.slices := rfl
@[simp] theorem State.onFns_klg (s : State) (f : (SMap Fn) → SMap Fn) : (s.onFns f).klg = s.klg := rfl
@[simp] theorem State.onFns_kslots (s : State) (f : (SMap Fn) → SMap Fn) : (s.onFns f).kslots = s.kslots := rfl
@[simp] theorem State.onFns_kfrees (s : State) (f : (SMap Fn) → SMap Fn) : (s.onFns f).kfrees = s.kfrees := rfl
@[simp] theorem State.onFns_genBase (s : State) (f : (SMap Fn) → SMap Fn) : (s.onFns f).genBase = s.genBase := rfl
@[simp] theorem State.onFns_domains (s : State) (f : (SMap Fn) → SMap Fn) : (s.onFns f).domains = s.domains := rfl
@[simp] theorem State.onFns_heat (s : State) (f : (SMap Fn) → SMap Fn) : (s.onFns f).heat = s.heat := rfl
@[simp] theorem State.onFns_aod (s : State) (f : (SMap Fn) → SMap Fn) : (s.onFns f).aod = s.aod := rfl
@[simp] theorem State.onFns_otp (s : State) (f : (SMap Fn) → SMap Fn) : (s.onFns f).otp = s.otp := rfl
@[simp] theorem State.onFns_wdg (s : State) (f : (SMap Fn) → SMap Fn) : (s.onFns f).wdg = s.wdg := rfl
@[simp] theorem State.onFns_tmp (s : State) (f : (SMap Fn) → SMap Fn) : (s.onFns f).tmp = s.tmp := rfl
@[simp] theorem State.onFns_erg (s : State) (f : (SMap Fn) → SMap Fn) : (s.onFns f).erg = s.erg := rfl
@[simp] theorem State.onFns_fgt (s : State) (f : (SMap Fn) → SMap Fn) : (s.onFns f).fgt = s.fgt := rfl
@[simp] theorem State.onFns_psq (s : State) (f : (SMap Fn) → SMap Fn) : (s.onFns f).psq = s.psq := rfl
@[simp] theorem State.onFns_cci (s : State) (f : (SMap Fn) → SMap Fn) : (s.onFns f).cci = s.cci := rfl
@[simp] theorem State.onFns_lcs (s : State) (f : (SMap Fn) → SMap Fn) : (s.onFns f).lcs = s.lcs := rfl
@[simp] theorem State.onFns_dbg (s : State) (f : (SMap Fn) → SMap Fn) : (s.onFns f).dbg = s.dbg := rfl
@[simp] theorem State.onFns_bst (s : State) (f : (SMap Fn) → SMap Fn) : (s.onFns f).bst = s.bst := rfl
@[simp] theorem State.onFns_rng (s : State) (f : (SMap Fn) → SMap Fn) : (s.onFns f).rng = s.rng := rfl
@[simp] theorem State.onFns_ump (s : State) (f : (SMap Fn) → SMap Fn) : (s.onFns f).ump = s.ump := rfl
@[simp] theorem State.onFns_sessions (s : State) (f : (SMap Fn) → SMap Fn) : (s.onFns f).sessions = s.sessions := rfl
@[simp] theorem State.onFns_spdm (s : State) (f : (SMap Fn) → SMap Fn) : (s.onFns f).spdm = s.spdm := rfl
@[simp] theorem State.onFns_mon (s : State) (f : (SMap Fn) → SMap Fn) : (s.onFns f).mon = s.mon := rfl
@[simp] theorem State.onFns_pldm (s : State) (f : (SMap Fn) → SMap Fn) : (s.onFns f).pldm = s.pldm := rfl
@[simp] theorem State.onFns_store (s : State) (f : (SMap Fn) → SMap Fn) : (s.onFns f).store = s.store := rfl
@[simp] theorem State.onChans_variant (s : State) (f : (SMap (Option Chan)) → SMap (Option Chan)) : (s.onChans f).variant = s.variant := rfl
@[simp] theorem State.onChans_pending (s : State) (f : (SMap (Option Chan)) → SMap (Option Chan)) : (s.onChans f).pending = s.pending := rfl
@[simp] theorem State.onChans_out (s : State) (f : (SMap (Option Chan)) → SMap (Option Chan)) : (s.onChans f).out = s.out := rfl
@[simp] theorem State.onChans_freeCtr (s : State) (f : (SMap (Option Chan)) → SMap (Option Chan)) : (s.onChans f).freeCtr = s.freeCtr := rfl
@[simp] theorem State.onChans_hdrs (s : State) (f : (SMap (Option Chan)) → SMap (Option Chan)) : (s.onChans f).hdrs = s.hdrs := rfl
@[simp] theorem State.onChans_mirrors (s : State) (f : (SMap (Option Chan)) → SMap (Option Chan)) : (s.onChans f).mirrors = s.mirrors := rfl
@[simp] theorem State.onChans_chip (s : State) (f : (SMap (Option Chan)) → SMap (Option Chan)) : (s.onChans f).chip = s.chip := rfl
@[simp] theorem State.onChans_pcie (s : State) (f : (SMap (Option Chan)) → SMap (Option Chan)) : (s.onChans f).pcie = s.pcie := rfl
@[simp] theorem State.onChans_fns (s : State) (f : (SMap (Option Chan)) → SMap (Option Chan)) : (s.onChans f).fns = s.fns := rfl
@[simp] theorem State.onChans_chans (s : State) (f : (SMap (Option Chan)) → SMap (Option Chan)) : (s.onChans f).chans = f s.chans := rfl
@[simp] theorem State.onChans_gens (s : State) (f : (SMap (Option Chan)) → SMap (Option Chan)) : (s.onChans f).gens = s.gens := rfl
@[simp] theorem State.onChans_chFreed (s : State) (f : (SMap (Option Chan)) → SMap (Option Chan)) : (s.onChans f).chFreed = s.chFreed := rfl
@[simp] theorem State.onChans_reqs (s : State) (f : (SMap (Option Chan)) → SMap (Option Chan)) : (s.onChans f).reqs = s.reqs := rfl
@[simp] theorem State.onChans_nextReq (s : State) (f : (SMap (Option Chan)) → SMap (Option Chan)) : (s.onChans f).nextReq = s.nextReq := rfl
@[simp] theorem State.onChans_jobs (s : State) (f : (SMap (Option Chan)) → SMap (Option Chan)) : (s.onChans f).jobs = s.jobs := rfl
@[simp] theorem State.onChans_nextJob (s : State) (f : (SMap (Option Chan)) → SMap (Option Chan)) : (s.onChans f).nextJob = s.nextJob := rfl
@[simp] theorem State.onChans_msh (s : State) (f : (SMap (Option Chan)) → SMap (Option Chan)) : (s.onChans f).msh = s.msh := rfl
@[simp] theorem State.onChans_eights (s : State) (f : (SMap (Option Chan)) → SMap (Option Chan)) : (s.onChans f).eights = s.eights := rfl
@[simp] theorem State.onChans_progs (s : State) (f : (SMap (Option Chan)) → SMap (Option Chan)) : (s.onChans f).progs = s.progs := rfl
@[simp] theorem State.onChans_quads (s : State) (f : (SMap (Option Chan)) → SMap (Option Chan)) : (s.onChans f).quads = s.quads := rfl
@[simp] theorem State.onChans_meas (s : State) (f : (SMap (Option Chan)) → SMap (Option Chan)) : (s.onChans f).meas = s.meas := rfl
@[simp] theorem State.onChans_slices (s : State) (f : (SMap (Option Chan)) → SMap (Option Chan)) : (s.onChans f).slices = s.slices := rfl
@[simp] theorem State.onChans_klg (s : State) (f : (SMap (Option Chan)) → SMap (Option Chan)) : (s.onChans f).klg = s.klg := rfl
@[simp] theorem State.onChans_kslots (s : State) (f : (SMap (Option Chan)) → SMap (Option Chan)) : (s.onChans f).kslots = s.kslots := rfl
@[simp] theorem State.onChans_kfrees (s : State) (f : (SMap (Option Chan)) → SMap (Option Chan)) : (s.onChans f).kfrees = s.kfrees := rfl
@[simp] theorem State.onChans_genBase (s : State) (f : (SMap (Option Chan)) → SMap (Option Chan)) : (s.onChans f).genBase = s.genBase := rfl
@[simp] theorem State.onChans_domains (s : State) (f : (SMap (Option Chan)) → SMap (Option Chan)) : (s.onChans f).domains = s.domains := rfl
@[simp] theorem State.onChans_heat (s : State) (f : (SMap (Option Chan)) → SMap (Option Chan)) : (s.onChans f).heat = s.heat := rfl
@[simp] theorem State.onChans_aod (s : State) (f : (SMap (Option Chan)) → SMap (Option Chan)) : (s.onChans f).aod = s.aod := rfl
@[simp] theorem State.onChans_otp (s : State) (f : (SMap (Option Chan)) → SMap (Option Chan)) : (s.onChans f).otp = s.otp := rfl
@[simp] theorem State.onChans_wdg (s : State) (f : (SMap (Option Chan)) → SMap (Option Chan)) : (s.onChans f).wdg = s.wdg := rfl
@[simp] theorem State.onChans_tmp (s : State) (f : (SMap (Option Chan)) → SMap (Option Chan)) : (s.onChans f).tmp = s.tmp := rfl
@[simp] theorem State.onChans_erg (s : State) (f : (SMap (Option Chan)) → SMap (Option Chan)) : (s.onChans f).erg = s.erg := rfl
@[simp] theorem State.onChans_fgt (s : State) (f : (SMap (Option Chan)) → SMap (Option Chan)) : (s.onChans f).fgt = s.fgt := rfl
@[simp] theorem State.onChans_psq (s : State) (f : (SMap (Option Chan)) → SMap (Option Chan)) : (s.onChans f).psq = s.psq := rfl
@[simp] theorem State.onChans_cci (s : State) (f : (SMap (Option Chan)) → SMap (Option Chan)) : (s.onChans f).cci = s.cci := rfl
@[simp] theorem State.onChans_lcs (s : State) (f : (SMap (Option Chan)) → SMap (Option Chan)) : (s.onChans f).lcs = s.lcs := rfl
@[simp] theorem State.onChans_dbg (s : State) (f : (SMap (Option Chan)) → SMap (Option Chan)) : (s.onChans f).dbg = s.dbg := rfl
@[simp] theorem State.onChans_bst (s : State) (f : (SMap (Option Chan)) → SMap (Option Chan)) : (s.onChans f).bst = s.bst := rfl
@[simp] theorem State.onChans_rng (s : State) (f : (SMap (Option Chan)) → SMap (Option Chan)) : (s.onChans f).rng = s.rng := rfl
@[simp] theorem State.onChans_ump (s : State) (f : (SMap (Option Chan)) → SMap (Option Chan)) : (s.onChans f).ump = s.ump := rfl
@[simp] theorem State.onChans_sessions (s : State) (f : (SMap (Option Chan)) → SMap (Option Chan)) : (s.onChans f).sessions = s.sessions := rfl
@[simp] theorem State.onChans_spdm (s : State) (f : (SMap (Option Chan)) → SMap (Option Chan)) : (s.onChans f).spdm = s.spdm := rfl
@[simp] theorem State.onChans_mon (s : State) (f : (SMap (Option Chan)) → SMap (Option Chan)) : (s.onChans f).mon = s.mon := rfl
@[simp] theorem State.onChans_pldm (s : State) (f : (SMap (Option Chan)) → SMap (Option Chan)) : (s.onChans f).pldm = s.pldm := rfl
@[simp] theorem State.onChans_store (s : State) (f : (SMap (Option Chan)) → SMap (Option Chan)) : (s.onChans f).store = s.store := rfl
@[simp] theorem State.onGens_variant (s : State) (f : (SMap Nat) → SMap Nat) : (s.onGens f).variant = s.variant := rfl
@[simp] theorem State.onGens_pending (s : State) (f : (SMap Nat) → SMap Nat) : (s.onGens f).pending = s.pending := rfl
@[simp] theorem State.onGens_out (s : State) (f : (SMap Nat) → SMap Nat) : (s.onGens f).out = s.out := rfl
@[simp] theorem State.onGens_freeCtr (s : State) (f : (SMap Nat) → SMap Nat) : (s.onGens f).freeCtr = s.freeCtr := rfl
@[simp] theorem State.onGens_hdrs (s : State) (f : (SMap Nat) → SMap Nat) : (s.onGens f).hdrs = s.hdrs := rfl
@[simp] theorem State.onGens_mirrors (s : State) (f : (SMap Nat) → SMap Nat) : (s.onGens f).mirrors = s.mirrors := rfl
@[simp] theorem State.onGens_chip (s : State) (f : (SMap Nat) → SMap Nat) : (s.onGens f).chip = s.chip := rfl
@[simp] theorem State.onGens_pcie (s : State) (f : (SMap Nat) → SMap Nat) : (s.onGens f).pcie = s.pcie := rfl
@[simp] theorem State.onGens_fns (s : State) (f : (SMap Nat) → SMap Nat) : (s.onGens f).fns = s.fns := rfl
@[simp] theorem State.onGens_chans (s : State) (f : (SMap Nat) → SMap Nat) : (s.onGens f).chans = s.chans := rfl
@[simp] theorem State.onGens_gens (s : State) (f : (SMap Nat) → SMap Nat) : (s.onGens f).gens = f s.gens := rfl
@[simp] theorem State.onGens_chFreed (s : State) (f : (SMap Nat) → SMap Nat) : (s.onGens f).chFreed = s.chFreed := rfl
@[simp] theorem State.onGens_reqs (s : State) (f : (SMap Nat) → SMap Nat) : (s.onGens f).reqs = s.reqs := rfl
@[simp] theorem State.onGens_nextReq (s : State) (f : (SMap Nat) → SMap Nat) : (s.onGens f).nextReq = s.nextReq := rfl
@[simp] theorem State.onGens_jobs (s : State) (f : (SMap Nat) → SMap Nat) : (s.onGens f).jobs = s.jobs := rfl
@[simp] theorem State.onGens_nextJob (s : State) (f : (SMap Nat) → SMap Nat) : (s.onGens f).nextJob = s.nextJob := rfl
@[simp] theorem State.onGens_msh (s : State) (f : (SMap Nat) → SMap Nat) : (s.onGens f).msh = s.msh := rfl
@[simp] theorem State.onGens_eights (s : State) (f : (SMap Nat) → SMap Nat) : (s.onGens f).eights = s.eights := rfl
@[simp] theorem State.onGens_progs (s : State) (f : (SMap Nat) → SMap Nat) : (s.onGens f).progs = s.progs := rfl
@[simp] theorem State.onGens_quads (s : State) (f : (SMap Nat) → SMap Nat) : (s.onGens f).quads = s.quads := rfl
@[simp] theorem State.onGens_meas (s : State) (f : (SMap Nat) → SMap Nat) : (s.onGens f).meas = s.meas := rfl
@[simp] theorem State.onGens_slices (s : State) (f : (SMap Nat) → SMap Nat) : (s.onGens f).slices = s.slices := rfl
@[simp] theorem State.onGens_klg (s : State) (f : (SMap Nat) → SMap Nat) : (s.onGens f).klg = s.klg := rfl
@[simp] theorem State.onGens_kslots (s : State) (f : (SMap Nat) → SMap Nat) : (s.onGens f).kslots = s.kslots := rfl
@[simp] theorem State.onGens_kfrees (s : State) (f : (SMap Nat) → SMap Nat) : (s.onGens f).kfrees = s.kfrees := rfl
@[simp] theorem State.onGens_genBase (s : State) (f : (SMap Nat) → SMap Nat) : (s.onGens f).genBase = s.genBase := rfl
@[simp] theorem State.onGens_domains (s : State) (f : (SMap Nat) → SMap Nat) : (s.onGens f).domains = s.domains := rfl
@[simp] theorem State.onGens_heat (s : State) (f : (SMap Nat) → SMap Nat) : (s.onGens f).heat = s.heat := rfl
@[simp] theorem State.onGens_aod (s : State) (f : (SMap Nat) → SMap Nat) : (s.onGens f).aod = s.aod := rfl
@[simp] theorem State.onGens_otp (s : State) (f : (SMap Nat) → SMap Nat) : (s.onGens f).otp = s.otp := rfl
@[simp] theorem State.onGens_wdg (s : State) (f : (SMap Nat) → SMap Nat) : (s.onGens f).wdg = s.wdg := rfl
@[simp] theorem State.onGens_tmp (s : State) (f : (SMap Nat) → SMap Nat) : (s.onGens f).tmp = s.tmp := rfl
@[simp] theorem State.onGens_erg (s : State) (f : (SMap Nat) → SMap Nat) : (s.onGens f).erg = s.erg := rfl
@[simp] theorem State.onGens_fgt (s : State) (f : (SMap Nat) → SMap Nat) : (s.onGens f).fgt = s.fgt := rfl
@[simp] theorem State.onGens_psq (s : State) (f : (SMap Nat) → SMap Nat) : (s.onGens f).psq = s.psq := rfl
@[simp] theorem State.onGens_cci (s : State) (f : (SMap Nat) → SMap Nat) : (s.onGens f).cci = s.cci := rfl
@[simp] theorem State.onGens_lcs (s : State) (f : (SMap Nat) → SMap Nat) : (s.onGens f).lcs = s.lcs := rfl
@[simp] theorem State.onGens_dbg (s : State) (f : (SMap Nat) → SMap Nat) : (s.onGens f).dbg = s.dbg := rfl
@[simp] theorem State.onGens_bst (s : State) (f : (SMap Nat) → SMap Nat) : (s.onGens f).bst = s.bst := rfl
@[simp] theorem State.onGens_rng (s : State) (f : (SMap Nat) → SMap Nat) : (s.onGens f).rng = s.rng := rfl
@[simp] theorem State.onGens_ump (s : State) (f : (SMap Nat) → SMap Nat) : (s.onGens f).ump = s.ump := rfl
@[simp] theorem State.onGens_sessions (s : State) (f : (SMap Nat) → SMap Nat) : (s.onGens f).sessions = s.sessions := rfl
@[simp] theorem State.onGens_spdm (s : State) (f : (SMap Nat) → SMap Nat) : (s.onGens f).spdm = s.spdm := rfl
@[simp] theorem State.onGens_mon (s : State) (f : (SMap Nat) → SMap Nat) : (s.onGens f).mon = s.mon := rfl
@[simp] theorem State.onGens_pldm (s : State) (f : (SMap Nat) → SMap Nat) : (s.onGens f).pldm = s.pldm := rfl
@[simp] theorem State.onGens_store (s : State) (f : (SMap Nat) → SMap Nat) : (s.onGens f).store = s.store := rfl
@[simp] theorem State.onChFreed_variant (s : State) (f : (List Nat) → List Nat) : (s.onChFreed f).variant = s.variant := rfl
@[simp] theorem State.onChFreed_pending (s : State) (f : (List Nat) → List Nat) : (s.onChFreed f).pending = s.pending := rfl
@[simp] theorem State.onChFreed_out (s : State) (f : (List Nat) → List Nat) : (s.onChFreed f).out = s.out := rfl
@[simp] theorem State.onChFreed_freeCtr (s : State) (f : (List Nat) → List Nat) : (s.onChFreed f).freeCtr = s.freeCtr := rfl
@[simp] theorem State.onChFreed_hdrs (s : State) (f : (List Nat) → List Nat) : (s.onChFreed f).hdrs = s.hdrs := rfl
@[simp] theorem State.onChFreed_mirrors (s : State) (f : (List Nat) → List Nat) : (s.onChFreed f).mirrors = s.mirrors := rfl
@[simp] theorem State.onChFreed_chip (s : State) (f : (List Nat) → List Nat) : (s.onChFreed f).chip = s.chip := rfl
@[simp] theorem State.onChFreed_pcie (s : State) (f : (List Nat) → List Nat) : (s.onChFreed f).pcie = s.pcie := rfl
@[simp] theorem State.onChFreed_fns (s : State) (f : (List Nat) → List Nat) : (s.onChFreed f).fns = s.fns := rfl
@[simp] theorem State.onChFreed_chans (s : State) (f : (List Nat) → List Nat) : (s.onChFreed f).chans = s.chans := rfl
@[simp] theorem State.onChFreed_gens (s : State) (f : (List Nat) → List Nat) : (s.onChFreed f).gens = s.gens := rfl
@[simp] theorem State.onChFreed_chFreed (s : State) (f : (List Nat) → List Nat) : (s.onChFreed f).chFreed = f s.chFreed := rfl
@[simp] theorem State.onChFreed_reqs (s : State) (f : (List Nat) → List Nat) : (s.onChFreed f).reqs = s.reqs := rfl
@[simp] theorem State.onChFreed_nextReq (s : State) (f : (List Nat) → List Nat) : (s.onChFreed f).nextReq = s.nextReq := rfl
@[simp] theorem State.onChFreed_jobs (s : State) (f : (List Nat) → List Nat) : (s.onChFreed f).jobs = s.jobs := rfl
@[simp] theorem State.onChFreed_nextJob (s : State) (f : (List Nat) → List Nat) : (s.onChFreed f).nextJob = s.nextJob := rfl
@[simp] theorem State.onChFreed_msh (s : State) (f : (List Nat) → List Nat) : (s.onChFreed f).msh = s.msh := rfl
@[simp] theorem State.onChFreed_eights (s : State) (f : (List Nat) → List Nat) : (s.onChFreed f).eights = s.eights := rfl
@[simp] theorem State.onChFreed_progs (s : State) (f : (List Nat) → List Nat) : (s.onChFreed f).progs = s.progs := rfl
@[simp] theorem State.onChFreed_quads (s : State) (f : (List Nat) → List Nat) : (s.onChFreed f).quads = s.quads := rfl
@[simp] theorem State.onChFreed_meas (s : State) (f : (List Nat) → List Nat) : (s.onChFreed f).meas = s.meas := rfl
@[simp] theorem State.onChFreed_slices (s : State) (f : (List Nat) → List Nat) : (s.onChFreed f).slices = s.slices := rfl
@[simp] theorem State.onChFreed_klg (s : State) (f : (List Nat) → List Nat) : (s.onChFreed f).klg = s.klg := rfl
@[simp] theorem State.onChFreed_kslots (s : State) (f : (List Nat) → List Nat) : (s.onChFreed f).kslots = s.kslots := rfl
@[simp] theorem State.onChFreed_kfrees (s : State) (f : (List Nat) → List Nat) : (s.onChFreed f).kfrees = s.kfrees := rfl
@[simp] theorem State.onChFreed_genBase (s : State) (f : (List Nat) → List Nat) : (s.onChFreed f).genBase = s.genBase := rfl
@[simp] theorem State.onChFreed_domains (s : State) (f : (List Nat) → List Nat) : (s.onChFreed f).domains = s.domains := rfl
@[simp] theorem State.onChFreed_heat (s : State) (f : (List Nat) → List Nat) : (s.onChFreed f).heat = s.heat := rfl
@[simp] theorem State.onChFreed_aod (s : State) (f : (List Nat) → List Nat) : (s.onChFreed f).aod = s.aod := rfl
@[simp] theorem State.onChFreed_otp (s : State) (f : (List Nat) → List Nat) : (s.onChFreed f).otp = s.otp := rfl
@[simp] theorem State.onChFreed_wdg (s : State) (f : (List Nat) → List Nat) : (s.onChFreed f).wdg = s.wdg := rfl
@[simp] theorem State.onChFreed_tmp (s : State) (f : (List Nat) → List Nat) : (s.onChFreed f).tmp = s.tmp := rfl
@[simp] theorem State.onChFreed_erg (s : State) (f : (List Nat) → List Nat) : (s.onChFreed f).erg = s.erg := rfl
@[simp] theorem State.onChFreed_fgt (s : State) (f : (List Nat) → List Nat) : (s.onChFreed f).fgt = s.fgt := rfl
@[simp] theorem State.onChFreed_psq (s : State) (f : (List Nat) → List Nat) : (s.onChFreed f).psq = s.psq := rfl
@[simp] theorem State.onChFreed_cci (s : State) (f : (List Nat) → List Nat) : (s.onChFreed f).cci = s.cci := rfl
@[simp] theorem State.onChFreed_lcs (s : State) (f : (List Nat) → List Nat) : (s.onChFreed f).lcs = s.lcs := rfl
@[simp] theorem State.onChFreed_dbg (s : State) (f : (List Nat) → List Nat) : (s.onChFreed f).dbg = s.dbg := rfl
@[simp] theorem State.onChFreed_bst (s : State) (f : (List Nat) → List Nat) : (s.onChFreed f).bst = s.bst := rfl
@[simp] theorem State.onChFreed_rng (s : State) (f : (List Nat) → List Nat) : (s.onChFreed f).rng = s.rng := rfl
@[simp] theorem State.onChFreed_ump (s : State) (f : (List Nat) → List Nat) : (s.onChFreed f).ump = s.ump := rfl
@[simp] theorem State.onChFreed_sessions (s : State) (f : (List Nat) → List Nat) : (s.onChFreed f).sessions = s.sessions := rfl
@[simp] theorem State.onChFreed_spdm (s : State) (f : (List Nat) → List Nat) : (s.onChFreed f).spdm = s.spdm := rfl
@[simp] theorem State.onChFreed_mon (s : State) (f : (List Nat) → List Nat) : (s.onChFreed f).mon = s.mon := rfl
@[simp] theorem State.onChFreed_pldm (s : State) (f : (List Nat) → List Nat) : (s.onChFreed f).pldm = s.pldm := rfl
@[simp] theorem State.onChFreed_store (s : State) (f : (List Nat) → List Nat) : (s.onChFreed f).store = s.store := rfl
@[simp] theorem State.onReqs_variant (s : State) (f : (SMap (Option Req)) → SMap (Option Req)) : (s.onReqs f).variant = s.variant := rfl
@[simp] theorem State.onReqs_pending (s : State) (f : (SMap (Option Req)) → SMap (Option Req)) : (s.onReqs f).pending = s.pending := rfl
@[simp] theorem State.onReqs_out (s : State) (f : (SMap (Option Req)) → SMap (Option Req)) : (s.onReqs f).out = s.out := rfl
@[simp] theorem State.onReqs_freeCtr (s : State) (f : (SMap (Option Req)) → SMap (Option Req)) : (s.onReqs f).freeCtr = s.freeCtr := rfl
@[simp] theorem State.onReqs_hdrs (s : State) (f : (SMap (Option Req)) → SMap (Option Req)) : (s.onReqs f).hdrs = s.hdrs := rfl
@[simp] theorem State.onReqs_mirrors (s : State) (f : (SMap (Option Req)) → SMap (Option Req)) : (s.onReqs f).mirrors = s.mirrors := rfl
@[simp] theorem State.onReqs_chip (s : State) (f : (SMap (Option Req)) → SMap (Option Req)) : (s.onReqs f).chip = s.chip := rfl
@[simp] theorem State.onReqs_pcie (s : State) (f : (SMap (Option Req)) → SMap (Option Req)) : (s.onReqs f).pcie = s.pcie := rfl
@[simp] theorem State.onReqs_fns (s : State) (f : (SMap (Option Req)) → SMap (Option Req)) : (s.onReqs f).fns = s.fns := rfl
@[simp] theorem State.onReqs_chans (s : State) (f : (SMap (Option Req)) → SMap (Option Req)) : (s.onReqs f).chans = s.chans := rfl
@[simp] theorem State.onReqs_gens (s : State) (f : (SMap (Option Req)) → SMap (Option Req)) : (s.onReqs f).gens = s.gens := rfl
@[simp] theorem State.onReqs_chFreed (s : State) (f : (SMap (Option Req)) → SMap (Option Req)) : (s.onReqs f).chFreed = s.chFreed := rfl
@[simp] theorem State.onReqs_reqs (s : State) (f : (SMap (Option Req)) → SMap (Option Req)) : (s.onReqs f).reqs = f s.reqs := rfl
@[simp] theorem State.onReqs_nextReq (s : State) (f : (SMap (Option Req)) → SMap (Option Req)) : (s.onReqs f).nextReq = s.nextReq := rfl
@[simp] theorem State.onReqs_jobs (s : State) (f : (SMap (Option Req)) → SMap (Option Req)) : (s.onReqs f).jobs = s.jobs := rfl
@[simp] theorem State.onReqs_nextJob (s : State) (f : (SMap (Option Req)) → SMap (Option Req)) : (s.onReqs f).nextJob = s.nextJob := rfl
@[simp] theorem State.onReqs_msh (s : State) (f : (SMap (Option Req)) → SMap (Option Req)) : (s.onReqs f).msh = s.msh := rfl
@[simp] theorem State.onReqs_eights (s : State) (f : (SMap (Option Req)) → SMap (Option Req)) : (s.onReqs f).eights = s.eights := rfl
@[simp] theorem State.onReqs_progs (s : State) (f : (SMap (Option Req)) → SMap (Option Req)) : (s.onReqs f).progs = s.progs := rfl
@[simp] theorem State.onReqs_quads (s : State) (f : (SMap (Option Req)) → SMap (Option Req)) : (s.onReqs f).quads = s.quads := rfl
@[simp] theorem State.onReqs_meas (s : State) (f : (SMap (Option Req)) → SMap (Option Req)) : (s.onReqs f).meas = s.meas := rfl
@[simp] theorem State.onReqs_slices (s : State) (f : (SMap (Option Req)) → SMap (Option Req)) : (s.onReqs f).slices = s.slices := rfl
@[simp] theorem State.onReqs_klg (s : State) (f : (SMap (Option Req)) → SMap (Option Req)) : (s.onReqs f).klg = s.klg := rfl
@[simp] theorem State.onReqs_kslots (s : State) (f : (SMap (Option Req)) → SMap (Option Req)) : (s.onReqs f).kslots = s.kslots := rfl
@[simp] theorem State.onReqs_kfrees (s : State) (f : (SMap (Option Req)) → SMap (Option Req)) : (s.onReqs f).kfrees = s.kfrees := rfl
@[simp] theorem State.onReqs_genBase (s : State) (f : (SMap (Option Req)) → SMap (Option Req)) : (s.onReqs f).genBase = s.genBase := rfl
@[simp] theorem State.onReqs_domains (s : State) (f : (SMap (Option Req)) → SMap (Option Req)) : (s.onReqs f).domains = s.domains := rfl
@[simp] theorem State.onReqs_heat (s : State) (f : (SMap (Option Req)) → SMap (Option Req)) : (s.onReqs f).heat = s.heat := rfl
@[simp] theorem State.onReqs_aod (s : State) (f : (SMap (Option Req)) → SMap (Option Req)) : (s.onReqs f).aod = s.aod := rfl
@[simp] theorem State.onReqs_otp (s : State) (f : (SMap (Option Req)) → SMap (Option Req)) : (s.onReqs f).otp = s.otp := rfl
@[simp] theorem State.onReqs_wdg (s : State) (f : (SMap (Option Req)) → SMap (Option Req)) : (s.onReqs f).wdg = s.wdg := rfl
@[simp] theorem State.onReqs_tmp (s : State) (f : (SMap (Option Req)) → SMap (Option Req)) : (s.onReqs f).tmp = s.tmp := rfl
@[simp] theorem State.onReqs_erg (s : State) (f : (SMap (Option Req)) → SMap (Option Req)) : (s.onReqs f).erg = s.erg := rfl
@[simp] theorem State.onReqs_fgt (s : State) (f : (SMap (Option Req)) → SMap (Option Req)) : (s.onReqs f).fgt = s.fgt := rfl
@[simp] theorem State.onReqs_psq (s : State) (f : (SMap (Option Req)) → SMap (Option Req)) : (s.onReqs f).psq = s.psq := rfl
@[simp] theorem State.onReqs_cci (s : State) (f : (SMap (Option Req)) → SMap (Option Req)) : (s.onReqs f).cci = s.cci := rfl
@[simp] theorem State.onReqs_lcs (s : State) (f : (SMap (Option Req)) → SMap (Option Req)) : (s.onReqs f).lcs = s.lcs := rfl
@[simp] theorem State.onReqs_dbg (s : State) (f : (SMap (Option Req)) → SMap (Option Req)) : (s.onReqs f).dbg = s.dbg := rfl
@[simp] theorem State.onReqs_bst (s : State) (f : (SMap (Option Req)) → SMap (Option Req)) : (s.onReqs f).bst = s.bst := rfl
@[simp] theorem State.onReqs_rng (s : State) (f : (SMap (Option Req)) → SMap (Option Req)) : (s.onReqs f).rng = s.rng := rfl
@[simp] theorem State.onReqs_ump (s : State) (f : (SMap (Option Req)) → SMap (Option Req)) : (s.onReqs f).ump = s.ump := rfl
@[simp] theorem State.onReqs_sessions (s : State) (f : (SMap (Option Req)) → SMap (Option Req)) : (s.onReqs f).sessions = s.sessions := rfl
@[simp] theorem State.onReqs_spdm (s : State) (f : (SMap (Option Req)) → SMap (Option Req)) : (s.onReqs f).spdm = s.spdm := rfl
@[simp] theorem State.onReqs_mon (s : State) (f : (SMap (Option Req)) → SMap (Option Req)) : (s.onReqs f).mon = s.mon := rfl
@[simp] theorem State.onReqs_pldm (s : State) (f : (SMap (Option Req)) → SMap (Option Req)) : (s.onReqs f).pldm = s.pldm := rfl
@[simp] theorem State.onReqs_store (s : State) (f : (SMap (Option Req)) → SMap (Option Req)) : (s.onReqs f).store = s.store := rfl
@[simp] theorem State.onNextReq_variant (s : State) (f : Nat → Nat) : (s.onNextReq f).variant = s.variant := rfl
@[simp] theorem State.onNextReq_pending (s : State) (f : Nat → Nat) : (s.onNextReq f).pending = s.pending := rfl
@[simp] theorem State.onNextReq_out (s : State) (f : Nat → Nat) : (s.onNextReq f).out = s.out := rfl
@[simp] theorem State.onNextReq_freeCtr (s : State) (f : Nat → Nat) : (s.onNextReq f).freeCtr = s.freeCtr := rfl
@[simp] theorem State.onNextReq_hdrs (s : State) (f : Nat → Nat) : (s.onNextReq f).hdrs = s.hdrs := rfl
@[simp] theorem State.onNextReq_mirrors (s : State) (f : Nat → Nat) : (s.onNextReq f).mirrors = s.mirrors := rfl
@[simp] theorem State.onNextReq_chip (s : State) (f : Nat → Nat) : (s.onNextReq f).chip = s.chip := rfl
@[simp] theorem State.onNextReq_pcie (s : State) (f : Nat → Nat) : (s.onNextReq f).pcie = s.pcie := rfl
@[simp] theorem State.onNextReq_fns (s : State) (f : Nat → Nat) : (s.onNextReq f).fns = s.fns := rfl
@[simp] theorem State.onNextReq_chans (s : State) (f : Nat → Nat) : (s.onNextReq f).chans = s.chans := rfl
@[simp] theorem State.onNextReq_gens (s : State) (f : Nat → Nat) : (s.onNextReq f).gens = s.gens := rfl
@[simp] theorem State.onNextReq_chFreed (s : State) (f : Nat → Nat) : (s.onNextReq f).chFreed = s.chFreed := rfl
@[simp] theorem State.onNextReq_reqs (s : State) (f : Nat → Nat) : (s.onNextReq f).reqs = s.reqs := rfl
@[simp] theorem State.onNextReq_nextReq (s : State) (f : Nat → Nat) : (s.onNextReq f).nextReq = f s.nextReq := rfl
@[simp] theorem State.onNextReq_jobs (s : State) (f : Nat → Nat) : (s.onNextReq f).jobs = s.jobs := rfl
@[simp] theorem State.onNextReq_nextJob (s : State) (f : Nat → Nat) : (s.onNextReq f).nextJob = s.nextJob := rfl
@[simp] theorem State.onNextReq_msh (s : State) (f : Nat → Nat) : (s.onNextReq f).msh = s.msh := rfl
@[simp] theorem State.onNextReq_eights (s : State) (f : Nat → Nat) : (s.onNextReq f).eights = s.eights := rfl
@[simp] theorem State.onNextReq_progs (s : State) (f : Nat → Nat) : (s.onNextReq f).progs = s.progs := rfl
@[simp] theorem State.onNextReq_quads (s : State) (f : Nat → Nat) : (s.onNextReq f).quads = s.quads := rfl
@[simp] theorem State.onNextReq_meas (s : State) (f : Nat → Nat) : (s.onNextReq f).meas = s.meas := rfl
@[simp] theorem State.onNextReq_slices (s : State) (f : Nat → Nat) : (s.onNextReq f).slices = s.slices := rfl
@[simp] theorem State.onNextReq_klg (s : State) (f : Nat → Nat) : (s.onNextReq f).klg = s.klg := rfl
@[simp] theorem State.onNextReq_kslots (s : State) (f : Nat → Nat) : (s.onNextReq f).kslots = s.kslots := rfl
@[simp] theorem State.onNextReq_kfrees (s : State) (f : Nat → Nat) : (s.onNextReq f).kfrees = s.kfrees := rfl
@[simp] theorem State.onNextReq_genBase (s : State) (f : Nat → Nat) : (s.onNextReq f).genBase = s.genBase := rfl
@[simp] theorem State.onNextReq_domains (s : State) (f : Nat → Nat) : (s.onNextReq f).domains = s.domains := rfl
@[simp] theorem State.onNextReq_heat (s : State) (f : Nat → Nat) : (s.onNextReq f).heat = s.heat := rfl
@[simp] theorem State.onNextReq_aod (s : State) (f : Nat → Nat) : (s.onNextReq f).aod = s.aod := rfl
@[simp] theorem State.onNextReq_otp (s : State) (f : Nat → Nat) : (s.onNextReq f).otp = s.otp := rfl
@[simp] theorem State.onNextReq_wdg (s : State) (f : Nat → Nat) : (s.onNextReq f).wdg = s.wdg := rfl
@[simp] theorem State.onNextReq_tmp (s : State) (f : Nat → Nat) : (s.onNextReq f).tmp = s.tmp := rfl
@[simp] theorem State.onNextReq_erg (s : State) (f : Nat → Nat) : (s.onNextReq f).erg = s.erg := rfl
@[simp] theorem State.onNextReq_fgt (s : State) (f : Nat → Nat) : (s.onNextReq f).fgt = s.fgt := rfl
@[simp] theorem State.onNextReq_psq (s : State) (f : Nat → Nat) : (s.onNextReq f).psq = s.psq := rfl
@[simp] theorem State.onNextReq_cci (s : State) (f : Nat → Nat) : (s.onNextReq f).cci = s.cci := rfl
@[simp] theorem State.onNextReq_lcs (s : State) (f : Nat → Nat) : (s.onNextReq f).lcs = s.lcs := rfl
@[simp] theorem State.onNextReq_dbg (s : State) (f : Nat → Nat) : (s.onNextReq f).dbg = s.dbg := rfl
@[simp] theorem State.onNextReq_bst (s : State) (f : Nat → Nat) : (s.onNextReq f).bst = s.bst := rfl
@[simp] theorem State.onNextReq_rng (s : State) (f : Nat → Nat) : (s.onNextReq f).rng = s.rng := rfl
@[simp] theorem State.onNextReq_ump (s : State) (f : Nat → Nat) : (s.onNextReq f).ump = s.ump := rfl
@[simp] theorem State.onNextReq_sessions (s : State) (f : Nat → Nat) : (s.onNextReq f).sessions = s.sessions := rfl
@[simp] theorem State.onNextReq_spdm (s : State) (f : Nat → Nat) : (s.onNextReq f).spdm = s.spdm := rfl
@[simp] theorem State.onNextReq_mon (s : State) (f : Nat → Nat) : (s.onNextReq f).mon = s.mon := rfl
@[simp] theorem State.onNextReq_pldm (s : State) (f : Nat → Nat) : (s.onNextReq f).pldm = s.pldm := rfl
@[simp] theorem State.onNextReq_store (s : State) (f : Nat → Nat) : (s.onNextReq f).store = s.store := rfl
@[simp] theorem State.onJobs_variant (s : State) (f : (SMap (Option Job)) → SMap (Option Job)) : (s.onJobs f).variant = s.variant := rfl
@[simp] theorem State.onJobs_pending (s : State) (f : (SMap (Option Job)) → SMap (Option Job)) : (s.onJobs f).pending = s.pending := rfl
@[simp] theorem State.onJobs_out (s : State) (f : (SMap (Option Job)) → SMap (Option Job)) : (s.onJobs f).out = s.out := rfl
@[simp] theorem State.onJobs_freeCtr (s : State) (f : (SMap (Option Job)) → SMap (Option Job)) : (s.onJobs f).freeCtr = s.freeCtr := rfl
@[simp] theorem State.onJobs_hdrs (s : State) (f : (SMap (Option Job)) → SMap (Option Job)) : (s.onJobs f).hdrs = s.hdrs := rfl
@[simp] theorem State.onJobs_mirrors (s : State) (f : (SMap (Option Job)) → SMap (Option Job)) : (s.onJobs f).mirrors = s.mirrors := rfl
@[simp] theorem State.onJobs_chip (s : State) (f : (SMap (Option Job)) → SMap (Option Job)) : (s.onJobs f).chip = s.chip := rfl
@[simp] theorem State.onJobs_pcie (s : State) (f : (SMap (Option Job)) → SMap (Option Job)) : (s.onJobs f).pcie = s.pcie := rfl
@[simp] theorem State.onJobs_fns (s : State) (f : (SMap (Option Job)) → SMap (Option Job)) : (s.onJobs f).fns = s.fns := rfl
@[simp] theorem State.onJobs_chans (s : State) (f : (SMap (Option Job)) → SMap (Option Job)) : (s.onJobs f).chans = s.chans := rfl
@[simp] theorem State.onJobs_gens (s : State) (f : (SMap (Option Job)) → SMap (Option Job)) : (s.onJobs f).gens = s.gens := rfl
@[simp] theorem State.onJobs_chFreed (s : State) (f : (SMap (Option Job)) → SMap (Option Job)) : (s.onJobs f).chFreed = s.chFreed := rfl
@[simp] theorem State.onJobs_reqs (s : State) (f : (SMap (Option Job)) → SMap (Option Job)) : (s.onJobs f).reqs = s.reqs := rfl
@[simp] theorem State.onJobs_nextReq (s : State) (f : (SMap (Option Job)) → SMap (Option Job)) : (s.onJobs f).nextReq = s.nextReq := rfl
@[simp] theorem State.onJobs_jobs (s : State) (f : (SMap (Option Job)) → SMap (Option Job)) : (s.onJobs f).jobs = f s.jobs := rfl
@[simp] theorem State.onJobs_nextJob (s : State) (f : (SMap (Option Job)) → SMap (Option Job)) : (s.onJobs f).nextJob = s.nextJob := rfl
@[simp] theorem State.onJobs_msh (s : State) (f : (SMap (Option Job)) → SMap (Option Job)) : (s.onJobs f).msh = s.msh := rfl
@[simp] theorem State.onJobs_eights (s : State) (f : (SMap (Option Job)) → SMap (Option Job)) : (s.onJobs f).eights = s.eights := rfl
@[simp] theorem State.onJobs_progs (s : State) (f : (SMap (Option Job)) → SMap (Option Job)) : (s.onJobs f).progs = s.progs := rfl
@[simp] theorem State.onJobs_quads (s : State) (f : (SMap (Option Job)) → SMap (Option Job)) : (s.onJobs f).quads = s.quads := rfl
@[simp] theorem State.onJobs_meas (s : State) (f : (SMap (Option Job)) → SMap (Option Job)) : (s.onJobs f).meas = s.meas := rfl
@[simp] theorem State.onJobs_slices (s : State) (f : (SMap (Option Job)) → SMap (Option Job)) : (s.onJobs f).slices = s.slices := rfl
@[simp] theorem State.onJobs_klg (s : State) (f : (SMap (Option Job)) → SMap (Option Job)) : (s.onJobs f).klg = s.klg := rfl
@[simp] theorem State.onJobs_kslots (s : State) (f : (SMap (Option Job)) → SMap (Option Job)) : (s.onJobs f).kslots = s.kslots := rfl
@[simp] theorem State.onJobs_kfrees (s : State) (f : (SMap (Option Job)) → SMap (Option Job)) : (s.onJobs f).kfrees = s.kfrees := rfl
@[simp] theorem State.onJobs_genBase (s : State) (f : (SMap (Option Job)) → SMap (Option Job)) : (s.onJobs f).genBase = s.genBase := rfl
@[simp] theorem State.onJobs_domains (s : State) (f : (SMap (Option Job)) → SMap (Option Job)) : (s.onJobs f).domains = s.domains := rfl
@[simp] theorem State.onJobs_heat (s : State) (f : (SMap (Option Job)) → SMap (Option Job)) : (s.onJobs f).heat = s.heat := rfl
@[simp] theorem State.onJobs_aod (s : State) (f : (SMap (Option Job)) → SMap (Option Job)) : (s.onJobs f).aod = s.aod := rfl
@[simp] theorem State.onJobs_otp (s : State) (f : (SMap (Option Job)) → SMap (Option Job)) : (s.onJobs f).otp = s.otp := rfl
@[simp] theorem State.onJobs_wdg (s : State) (f : (SMap (Option Job)) → SMap (Option Job)) : (s.onJobs f).wdg = s.wdg := rfl
@[simp] theorem State.onJobs_tmp (s : State) (f : (SMap (Option Job)) → SMap (Option Job)) : (s.onJobs f).tmp = s.tmp := rfl
@[simp] theorem State.onJobs_erg (s : State) (f : (SMap (Option Job)) → SMap (Option Job)) : (s.onJobs f).erg = s.erg := rfl
@[simp] theorem State.onJobs_fgt (s : State) (f : (SMap (Option Job)) → SMap (Option Job)) : (s.onJobs f).fgt = s.fgt := rfl
@[simp] theorem State.onJobs_psq (s : State) (f : (SMap (Option Job)) → SMap (Option Job)) : (s.onJobs f).psq = s.psq := rfl
@[simp] theorem State.onJobs_cci (s : State) (f : (SMap (Option Job)) → SMap (Option Job)) : (s.onJobs f).cci = s.cci := rfl
@[simp] theorem State.onJobs_lcs (s : State) (f : (SMap (Option Job)) → SMap (Option Job)) : (s.onJobs f).lcs = s.lcs := rfl
@[simp] theorem State.onJobs_dbg (s : State) (f : (SMap (Option Job)) → SMap (Option Job)) : (s.onJobs f).dbg = s.dbg := rfl
@[simp] theorem State.onJobs_bst (s : State) (f : (SMap (Option Job)) → SMap (Option Job)) : (s.onJobs f).bst = s.bst := rfl
@[simp] theorem State.onJobs_rng (s : State) (f : (SMap (Option Job)) → SMap (Option Job)) : (s.onJobs f).rng = s.rng := rfl
@[simp] theorem State.onJobs_ump (s : State) (f : (SMap (Option Job)) → SMap (Option Job)) : (s.onJobs f).ump = s.ump := rfl
@[simp] theorem State.onJobs_sessions (s : State) (f : (SMap (Option Job)) → SMap (Option Job)) : (s.onJobs f).sessions = s.sessions := rfl
@[simp] theorem State.onJobs_spdm (s : State) (f : (SMap (Option Job)) → SMap (Option Job)) : (s.onJobs f).spdm = s.spdm := rfl
@[simp] theorem State.onJobs_mon (s : State) (f : (SMap (Option Job)) → SMap (Option Job)) : (s.onJobs f).mon = s.mon := rfl
@[simp] theorem State.onJobs_pldm (s : State) (f : (SMap (Option Job)) → SMap (Option Job)) : (s.onJobs f).pldm = s.pldm := rfl
@[simp] theorem State.onJobs_store (s : State) (f : (SMap (Option Job)) → SMap (Option Job)) : (s.onJobs f).store = s.store := rfl
@[simp] theorem State.onNextJob_variant (s : State) (f : Nat → Nat) : (s.onNextJob f).variant = s.variant := rfl
@[simp] theorem State.onNextJob_pending (s : State) (f : Nat → Nat) : (s.onNextJob f).pending = s.pending := rfl
@[simp] theorem State.onNextJob_out (s : State) (f : Nat → Nat) : (s.onNextJob f).out = s.out := rfl
@[simp] theorem State.onNextJob_freeCtr (s : State) (f : Nat → Nat) : (s.onNextJob f).freeCtr = s.freeCtr := rfl
@[simp] theorem State.onNextJob_hdrs (s : State) (f : Nat → Nat) : (s.onNextJob f).hdrs = s.hdrs := rfl
@[simp] theorem State.onNextJob_mirrors (s : State) (f : Nat → Nat) : (s.onNextJob f).mirrors = s.mirrors := rfl
@[simp] theorem State.onNextJob_chip (s : State) (f : Nat → Nat) : (s.onNextJob f).chip = s.chip := rfl
@[simp] theorem State.onNextJob_pcie (s : State) (f : Nat → Nat) : (s.onNextJob f).pcie = s.pcie := rfl
@[simp] theorem State.onNextJob_fns (s : State) (f : Nat → Nat) : (s.onNextJob f).fns = s.fns := rfl
@[simp] theorem State.onNextJob_chans (s : State) (f : Nat → Nat) : (s.onNextJob f).chans = s.chans := rfl
@[simp] theorem State.onNextJob_gens (s : State) (f : Nat → Nat) : (s.onNextJob f).gens = s.gens := rfl
@[simp] theorem State.onNextJob_chFreed (s : State) (f : Nat → Nat) : (s.onNextJob f).chFreed = s.chFreed := rfl
@[simp] theorem State.onNextJob_reqs (s : State) (f : Nat → Nat) : (s.onNextJob f).reqs = s.reqs := rfl
@[simp] theorem State.onNextJob_nextReq (s : State) (f : Nat → Nat) : (s.onNextJob f).nextReq = s.nextReq := rfl
@[simp] theorem State.onNextJob_jobs (s : State) (f : Nat → Nat) : (s.onNextJob f).jobs = s.jobs := rfl
@[simp] theorem State.onNextJob_nextJob (s : State) (f : Nat → Nat) : (s.onNextJob f).nextJob = f s.nextJob := rfl
@[simp] theorem State.onNextJob_msh (s : State) (f : Nat → Nat) : (s.onNextJob f).msh = s.msh := rfl
@[simp] theorem State.onNextJob_eights (s : State) (f : Nat → Nat) : (s.onNextJob f).eights = s.eights := rfl
@[simp] theorem State.onNextJob_progs (s : State) (f : Nat → Nat) : (s.onNextJob f).progs = s.progs := rfl
@[simp] theorem State.onNextJob_quads (s : State) (f : Nat → Nat) : (s.onNextJob f).quads = s.quads := rfl
@[simp] theorem State.onNextJob_meas (s : State) (f : Nat → Nat) : (s.onNextJob f).meas = s.meas := rfl
@[simp] theorem State.onNextJob_slices (s : State) (f : Nat → Nat) : (s.onNextJob f).slices = s.slices := rfl
@[simp] theorem State.onNextJob_klg (s : State) (f : Nat → Nat) : (s.onNextJob f).klg = s.klg := rfl
@[simp] theorem State.onNextJob_kslots (s : State) (f : Nat → Nat) : (s.onNextJob f).kslots = s.kslots := rfl
@[simp] theorem State.onNextJob_kfrees (s : State) (f : Nat → Nat) : (s.onNextJob f).kfrees = s.kfrees := rfl
@[simp] theorem State.onNextJob_genBase (s : State) (f : Nat → Nat) : (s.onNextJob f).genBase = s.genBase := rfl
@[simp] theorem State.onNextJob_domains (s : State) (f : Nat → Nat) : (s.onNextJob f).domains = s.domains := rfl
@[simp] theorem State.onNextJob_heat (s : State) (f : Nat → Nat) : (s.onNextJob f).heat = s.heat := rfl
@[simp] theorem State.onNextJob_aod (s : State) (f : Nat → Nat) : (s.onNextJob f).aod = s.aod := rfl
@[simp] theorem State.onNextJob_otp (s : State) (f : Nat → Nat) : (s.onNextJob f).otp = s.otp := rfl
@[simp] theorem State.onNextJob_wdg (s : State) (f : Nat → Nat) : (s.onNextJob f).wdg = s.wdg := rfl
@[simp] theorem State.onNextJob_tmp (s : State) (f : Nat → Nat) : (s.onNextJob f).tmp = s.tmp := rfl
@[simp] theorem State.onNextJob_erg (s : State) (f : Nat → Nat) : (s.onNextJob f).erg = s.erg := rfl
@[simp] theorem State.onNextJob_fgt (s : State) (f : Nat → Nat) : (s.onNextJob f).fgt = s.fgt := rfl
@[simp] theorem State.onNextJob_psq (s : State) (f : Nat → Nat) : (s.onNextJob f).psq = s.psq := rfl
@[simp] theorem State.onNextJob_cci (s : State) (f : Nat → Nat) : (s.onNextJob f).cci = s.cci := rfl
@[simp] theorem State.onNextJob_lcs (s : State) (f : Nat → Nat) : (s.onNextJob f).lcs = s.lcs := rfl
@[simp] theorem State.onNextJob_dbg (s : State) (f : Nat → Nat) : (s.onNextJob f).dbg = s.dbg := rfl
@[simp] theorem State.onNextJob_bst (s : State) (f : Nat → Nat) : (s.onNextJob f).bst = s.bst := rfl
@[simp] theorem State.onNextJob_rng (s : State) (f : Nat → Nat) : (s.onNextJob f).rng = s.rng := rfl
@[simp] theorem State.onNextJob_ump (s : State) (f : Nat → Nat) : (s.onNextJob f).ump = s.ump := rfl
@[simp] theorem State.onNextJob_sessions (s : State) (f : Nat → Nat) : (s.onNextJob f).sessions = s.sessions := rfl
@[simp] theorem State.onNextJob_spdm (s : State) (f : Nat → Nat) : (s.onNextJob f).spdm = s.spdm := rfl
@[simp] theorem State.onNextJob_mon (s : State) (f : Nat → Nat) : (s.onNextJob f).mon = s.mon := rfl
@[simp] theorem State.onNextJob_pldm (s : State) (f : Nat → Nat) : (s.onNextJob f).pldm = s.pldm := rfl
@[simp] theorem State.onNextJob_store (s : State) (f : Nat → Nat) : (s.onNextJob f).store = s.store := rfl
@[simp] theorem State.onMsh_variant (s : State) (f : Msh → Msh) : (s.onMsh f).variant = s.variant := rfl
@[simp] theorem State.onMsh_pending (s : State) (f : Msh → Msh) : (s.onMsh f).pending = s.pending := rfl
@[simp] theorem State.onMsh_out (s : State) (f : Msh → Msh) : (s.onMsh f).out = s.out := rfl
@[simp] theorem State.onMsh_freeCtr (s : State) (f : Msh → Msh) : (s.onMsh f).freeCtr = s.freeCtr := rfl
@[simp] theorem State.onMsh_hdrs (s : State) (f : Msh → Msh) : (s.onMsh f).hdrs = s.hdrs := rfl
@[simp] theorem State.onMsh_mirrors (s : State) (f : Msh → Msh) : (s.onMsh f).mirrors = s.mirrors := rfl
@[simp] theorem State.onMsh_chip (s : State) (f : Msh → Msh) : (s.onMsh f).chip = s.chip := rfl
@[simp] theorem State.onMsh_pcie (s : State) (f : Msh → Msh) : (s.onMsh f).pcie = s.pcie := rfl
@[simp] theorem State.onMsh_fns (s : State) (f : Msh → Msh) : (s.onMsh f).fns = s.fns := rfl
@[simp] theorem State.onMsh_chans (s : State) (f : Msh → Msh) : (s.onMsh f).chans = s.chans := rfl
@[simp] theorem State.onMsh_gens (s : State) (f : Msh → Msh) : (s.onMsh f).gens = s.gens := rfl
@[simp] theorem State.onMsh_chFreed (s : State) (f : Msh → Msh) : (s.onMsh f).chFreed = s.chFreed := rfl
@[simp] theorem State.onMsh_reqs (s : State) (f : Msh → Msh) : (s.onMsh f).reqs = s.reqs := rfl
@[simp] theorem State.onMsh_nextReq (s : State) (f : Msh → Msh) : (s.onMsh f).nextReq = s.nextReq := rfl
@[simp] theorem State.onMsh_jobs (s : State) (f : Msh → Msh) : (s.onMsh f).jobs = s.jobs := rfl
@[simp] theorem State.onMsh_nextJob (s : State) (f : Msh → Msh) : (s.onMsh f).nextJob = s.nextJob := rfl
@[simp] theorem State.onMsh_msh (s : State) (f : Msh → Msh) : (s.onMsh f).msh = f s.msh := rfl
@[simp] theorem State.onMsh_eights (s : State) (f : Msh → Msh) : (s.onMsh f).eights = s.eights := rfl
@[simp] theorem State.onMsh_progs (s : State) (f : Msh → Msh) : (s.onMsh f).progs = s.progs := rfl
@[simp] theorem State.onMsh_quads (s : State) (f : Msh → Msh) : (s.onMsh f).quads = s.quads := rfl
@[simp] theorem State.onMsh_meas (s : State) (f : Msh → Msh) : (s.onMsh f).meas = s.meas := rfl
@[simp] theorem State.onMsh_slices (s : State) (f : Msh → Msh) : (s.onMsh f).slices = s.slices := rfl
@[simp] theorem State.onMsh_klg (s : State) (f : Msh → Msh) : (s.onMsh f).klg = s.klg := rfl
@[simp] theorem State.onMsh_kslots (s : State) (f : Msh → Msh) : (s.onMsh f).kslots = s.kslots := rfl
@[simp] theorem State.onMsh_kfrees (s : State) (f : Msh → Msh) : (s.onMsh f).kfrees = s.kfrees := rfl
@[simp] theorem State.onMsh_genBase (s : State) (f : Msh → Msh) : (s.onMsh f).genBase = s.genBase := rfl
@[simp] theorem State.onMsh_domains (s : State) (f : Msh → Msh) : (s.onMsh f).domains = s.domains := rfl
@[simp] theorem State.onMsh_heat (s : State) (f : Msh → Msh) : (s.onMsh f).heat = s.heat := rfl
@[simp] theorem State.onMsh_aod (s : State) (f : Msh → Msh) : (s.onMsh f).aod = s.aod := rfl
@[simp] theorem State.onMsh_otp (s : State) (f : Msh → Msh) : (s.onMsh f).otp = s.otp := rfl
@[simp] theorem State.onMsh_wdg (s : State) (f : Msh → Msh) : (s.onMsh f).wdg = s.wdg := rfl
@[simp] theorem State.onMsh_tmp (s : State) (f : Msh → Msh) : (s.onMsh f).tmp = s.tmp := rfl
@[simp] theorem State.onMsh_erg (s : State) (f : Msh → Msh) : (s.onMsh f).erg = s.erg := rfl
@[simp] theorem State.onMsh_fgt (s : State) (f : Msh → Msh) : (s.onMsh f).fgt = s.fgt := rfl
@[simp] theorem State.onMsh_psq (s : State) (f : Msh → Msh) : (s.onMsh f).psq = s.psq := rfl
@[simp] theorem State.onMsh_cci (s : State) (f : Msh → Msh) : (s.onMsh f).cci = s.cci := rfl
@[simp] theorem State.onMsh_lcs (s : State) (f : Msh → Msh) : (s.onMsh f).lcs = s.lcs := rfl
@[simp] theorem State.onMsh_dbg (s : State) (f : Msh → Msh) : (s.onMsh f).dbg = s.dbg := rfl
@[simp] theorem State.onMsh_bst (s : State) (f : Msh → Msh) : (s.onMsh f).bst = s.bst := rfl
@[simp] theorem State.onMsh_rng (s : State) (f : Msh → Msh) : (s.onMsh f).rng = s.rng := rfl
@[simp] theorem State.onMsh_ump (s : State) (f : Msh → Msh) : (s.onMsh f).ump = s.ump := rfl
@[simp] theorem State.onMsh_sessions (s : State) (f : Msh → Msh) : (s.onMsh f).sessions = s.sessions := rfl
@[simp] theorem State.onMsh_spdm (s : State) (f : Msh → Msh) : (s.onMsh f).spdm = s.spdm := rfl
@[simp] theorem State.onMsh_mon (s : State) (f : Msh → Msh) : (s.onMsh f).mon = s.mon := rfl
@[simp] theorem State.onMsh_pldm (s : State) (f : Msh → Msh) : (s.onMsh f).pldm = s.pldm := rfl
@[simp] theorem State.onMsh_store (s : State) (f : Msh → Msh) : (s.onMsh f).store = s.store := rfl
@[simp] theorem State.onEights_variant (s : State) (f : (SMap Eight) → SMap Eight) : (s.onEights f).variant = s.variant := rfl
@[simp] theorem State.onEights_pending (s : State) (f : (SMap Eight) → SMap Eight) : (s.onEights f).pending = s.pending := rfl
@[simp] theorem State.onEights_out (s : State) (f : (SMap Eight) → SMap Eight) : (s.onEights f).out = s.out := rfl
@[simp] theorem State.onEights_freeCtr (s : State) (f : (SMap Eight) → SMap Eight) : (s.onEights f).freeCtr = s.freeCtr := rfl
@[simp] theorem State.onEights_hdrs (s : State) (f : (SMap Eight) → SMap Eight) : (s.onEights f).hdrs = s.hdrs := rfl
@[simp] theorem State.onEights_mirrors (s : State) (f : (SMap Eight) → SMap Eight) : (s.onEights f).mirrors = s.mirrors := rfl
@[simp] theorem State.onEights_chip (s : State) (f : (SMap Eight) → SMap Eight) : (s.onEights f).chip = s.chip := rfl
@[simp] theorem State.onEights_pcie (s : State) (f : (SMap Eight) → SMap Eight) : (s.onEights f).pcie = s.pcie := rfl
@[simp] theorem State.onEights_fns (s : State) (f : (SMap Eight) → SMap Eight) : (s.onEights f).fns = s.fns := rfl
@[simp] theorem State.onEights_chans (s : State) (f : (SMap Eight) → SMap Eight) : (s.onEights f).chans = s.chans := rfl
@[simp] theorem State.onEights_gens (s : State) (f : (SMap Eight) → SMap Eight) : (s.onEights f).gens = s.gens := rfl
@[simp] theorem State.onEights_chFreed (s : State) (f : (SMap Eight) → SMap Eight) : (s.onEights f).chFreed = s.chFreed := rfl
@[simp] theorem State.onEights_reqs (s : State) (f : (SMap Eight) → SMap Eight) : (s.onEights f).reqs = s.reqs := rfl
@[simp] theorem State.onEights_nextReq (s : State) (f : (SMap Eight) → SMap Eight) : (s.onEights f).nextReq = s.nextReq := rfl
@[simp] theorem State.onEights_jobs (s : State) (f : (SMap Eight) → SMap Eight) : (s.onEights f).jobs = s.jobs := rfl
@[simp] theorem State.onEights_nextJob (s : State) (f : (SMap Eight) → SMap Eight) : (s.onEights f).nextJob = s.nextJob := rfl
@[simp] theorem State.onEights_msh (s : State) (f : (SMap Eight) → SMap Eight) : (s.onEights f).msh = s.msh := rfl
@[simp] theorem State.onEights_eights (s : State) (f : (SMap Eight) → SMap Eight) : (s.onEights f).eights = f s.eights := rfl
@[simp] theorem State.onEights_progs (s : State) (f : (SMap Eight) → SMap Eight) : (s.onEights f).progs = s.progs := rfl
@[simp] theorem State.onEights_quads (s : State) (f : (SMap Eight) → SMap Eight) : (s.onEights f).quads = s.quads := rfl
@[simp] theorem State.onEights_meas (s : State) (f : (SMap Eight) → SMap Eight) : (s.onEights f).meas = s.meas := rfl
@[simp] theorem State.onEights_slices (s : State) (f : (SMap Eight) → SMap Eight) : (s.onEights f).slices = s.slices := rfl
@[simp] theorem State.onEights_klg (s : State) (f : (SMap Eight) → SMap Eight) : (s.onEights f).klg = s.klg := rfl
@[simp] theorem State.onEights_kslots (s : State) (f : (SMap Eight) → SMap Eight) : (s.onEights f).kslots = s.kslots := rfl
@[simp] theorem State.onEights_kfrees (s : State) (f : (SMap Eight) → SMap Eight) : (s.onEights f).kfrees = s.kfrees := rfl
@[simp] theorem State.onEights_genBase (s : State) (f : (SMap Eight) → SMap Eight) : (s.onEights f).genBase = s.genBase := rfl
@[simp] theorem State.onEights_domains (s : State) (f : (SMap Eight) → SMap Eight) : (s.onEights f).domains = s.domains := rfl
@[simp] theorem State.onEights_heat (s : State) (f : (SMap Eight) → SMap Eight) : (s.onEights f).heat = s.heat := rfl
@[simp] theorem State.onEights_aod (s : State) (f : (SMap Eight) → SMap Eight) : (s.onEights f).aod = s.aod := rfl
@[simp] theorem State.onEights_otp (s : State) (f : (SMap Eight) → SMap Eight) : (s.onEights f).otp = s.otp := rfl
@[simp] theorem State.onEights_wdg (s : State) (f : (SMap Eight) → SMap Eight) : (s.onEights f).wdg = s.wdg := rfl
@[simp] theorem State.onEights_tmp (s : State) (f : (SMap Eight) → SMap Eight) : (s.onEights f).tmp = s.tmp := rfl
@[simp] theorem State.onEights_erg (s : State) (f : (SMap Eight) → SMap Eight) : (s.onEights f).erg = s.erg := rfl
@[simp] theorem State.onEights_fgt (s : State) (f : (SMap Eight) → SMap Eight) : (s.onEights f).fgt = s.fgt := rfl
@[simp] theorem State.onEights_psq (s : State) (f : (SMap Eight) → SMap Eight) : (s.onEights f).psq = s.psq := rfl
@[simp] theorem State.onEights_cci (s : State) (f : (SMap Eight) → SMap Eight) : (s.onEights f).cci = s.cci := rfl
@[simp] theorem State.onEights_lcs (s : State) (f : (SMap Eight) → SMap Eight) : (s.onEights f).lcs = s.lcs := rfl
@[simp] theorem State.onEights_dbg (s : State) (f : (SMap Eight) → SMap Eight) : (s.onEights f).dbg = s.dbg := rfl
@[simp] theorem State.onEights_bst (s : State) (f : (SMap Eight) → SMap Eight) : (s.onEights f).bst = s.bst := rfl
@[simp] theorem State.onEights_rng (s : State) (f : (SMap Eight) → SMap Eight) : (s.onEights f).rng = s.rng := rfl
@[simp] theorem State.onEights_ump (s : State) (f : (SMap Eight) → SMap Eight) : (s.onEights f).ump = s.ump := rfl
@[simp] theorem State.onEights_sessions (s : State) (f : (SMap Eight) → SMap Eight) : (s.onEights f).sessions = s.sessions := rfl
@[simp] theorem State.onEights_spdm (s : State) (f : (SMap Eight) → SMap Eight) : (s.onEights f).spdm = s.spdm := rfl
@[simp] theorem State.onEights_mon (s : State) (f : (SMap Eight) → SMap Eight) : (s.onEights f).mon = s.mon := rfl
@[simp] theorem State.onEights_pldm (s : State) (f : (SMap Eight) → SMap Eight) : (s.onEights f).pldm = s.pldm := rfl
@[simp] theorem State.onEights_store (s : State) (f : (SMap Eight) → SMap Eight) : (s.onEights f).store = s.store := rfl
@[simp] theorem State.onProgs_variant (s : State) (f : (SMap (Option Prog)) → SMap (Option Prog)) : (s.onProgs f).variant = s.variant := rfl
@[simp] theorem State.onProgs_pending (s : State) (f : (SMap (Option Prog)) → SMap (Option Prog)) : (s.onProgs f).pending = s.pending := rfl
@[simp] theorem State.onProgs_out (s : State) (f : (SMap (Option Prog)) → SMap (Option Prog)) : (s.onProgs f).out = s.out := rfl
@[simp] theorem State.onProgs_freeCtr (s : State) (f : (SMap (Option Prog)) → SMap (Option Prog)) : (s.onProgs f).freeCtr = s.freeCtr := rfl
@[simp] theorem State.onProgs_hdrs (s : State) (f : (SMap (Option Prog)) → SMap (Option Prog)) : (s.onProgs f).hdrs = s.hdrs := rfl
@[simp] theorem State.onProgs_mirrors (s : State) (f : (SMap (Option Prog)) → SMap (Option Prog)) : (s.onProgs f).mirrors = s.mirrors := rfl
@[simp] theorem State.onProgs_chip (s : State) (f : (SMap (Option Prog)) → SMap (Option Prog)) : (s.onProgs f).chip = s.chip := rfl
@[simp] theorem State.onProgs_pcie (s : State) (f : (SMap (Option Prog)) → SMap (Option Prog)) : (s.onProgs f).pcie = s.pcie := rfl
@[simp] theorem State.onProgs_fns (s : State) (f : (SMap (Option Prog)) → SMap (Option Prog)) : (s.onProgs f).fns = s.fns := rfl
@[simp] theorem State.onProgs_chans (s : State) (f : (SMap (Option Prog)) → SMap (Option Prog)) : (s.onProgs f).chans = s.chans := rfl
@[simp] theorem State.onProgs_gens (s : State) (f : (SMap (Option Prog)) → SMap (Option Prog)) : (s.onProgs f).gens = s.gens := rfl
@[simp] theorem State.onProgs_chFreed (s : State) (f : (SMap (Option Prog)) → SMap (Option Prog)) : (s.onProgs f).chFreed = s.chFreed := rfl
@[simp] theorem State.onProgs_reqs (s : State) (f : (SMap (Option Prog)) → SMap (Option Prog)) : (s.onProgs f).reqs = s.reqs := rfl
@[simp] theorem State.onProgs_nextReq (s : State) (f : (SMap (Option Prog)) → SMap (Option Prog)) : (s.onProgs f).nextReq = s.nextReq := rfl
@[simp] theorem State.onProgs_jobs (s : State) (f : (SMap (Option Prog)) → SMap (Option Prog)) : (s.onProgs f).jobs = s.jobs := rfl
@[simp] theorem State.onProgs_nextJob (s : State) (f : (SMap (Option Prog)) → SMap (Option Prog)) : (s.onProgs f).nextJob = s.nextJob := rfl
@[simp] theorem State.onProgs_msh (s : State) (f : (SMap (Option Prog)) → SMap (Option Prog)) : (s.onProgs f).msh = s.msh := rfl
@[simp] theorem State.onProgs_eights (s : State) (f : (SMap (Option Prog)) → SMap (Option Prog)) : (s.onProgs f).eights = s.eights := rfl
@[simp] theorem State.onProgs_progs (s : State) (f : (SMap (Option Prog)) → SMap (Option Prog)) : (s.onProgs f).progs = f s.progs := rfl
@[simp] theorem State.onProgs_quads (s : State) (f : (SMap (Option Prog)) → SMap (Option Prog)) : (s.onProgs f).quads = s.quads := rfl
@[simp] theorem State.onProgs_meas (s : State) (f : (SMap (Option Prog)) → SMap (Option Prog)) : (s.onProgs f).meas = s.meas := rfl
@[simp] theorem State.onProgs_slices (s : State) (f : (SMap (Option Prog)) → SMap (Option Prog)) : (s.onProgs f).slices = s.slices := rfl
@[simp] theorem State.onProgs_klg (s : State) (f : (SMap (Option Prog)) → SMap (Option Prog)) : (s.onProgs f).klg = s.klg := rfl
@[simp] theorem State.onProgs_kslots (s : State) (f : (SMap (Option Prog)) → SMap (Option Prog)) : (s.onProgs f).kslots = s.kslots := rfl
@[simp] theorem State.onProgs_kfrees (s : State) (f : (SMap (Option Prog)) → SMap (Option Prog)) : (s.onProgs f).kfrees = s.kfrees := rfl
@[simp] theorem State.onProgs_genBase (s : State) (f : (SMap (Option Prog)) → SMap (Option Prog)) : (s.onProgs f).genBase = s.genBase := rfl
@[simp] theorem State.onProgs_domains (s : State) (f : (SMap (Option Prog)) → SMap (Option Prog)) : (s.onProgs f).domains = s.domains := rfl
@[simp] theorem State.onProgs_heat (s : State) (f : (SMap (Option Prog)) → SMap (Option Prog)) : (s.onProgs f).heat = s.heat := rfl
@[simp] theorem State.onProgs_aod (s : State) (f : (SMap (Option Prog)) → SMap (Option Prog)) : (s.onProgs f).aod = s.aod := rfl
@[simp] theorem State.onProgs_otp (s : State) (f : (SMap (Option Prog)) → SMap (Option Prog)) : (s.onProgs f).otp = s.otp := rfl
@[simp] theorem State.onProgs_wdg (s : State) (f : (SMap (Option Prog)) → SMap (Option Prog)) : (s.onProgs f).wdg = s.wdg := rfl
@[simp] theorem State.onProgs_tmp (s : State) (f : (SMap (Option Prog)) → SMap (Option Prog)) : (s.onProgs f).tmp = s.tmp := rfl
@[simp] theorem State.onProgs_erg (s : State) (f : (SMap (Option Prog)) → SMap (Option Prog)) : (s.onProgs f).erg = s.erg := rfl
@[simp] theorem State.onProgs_fgt (s : State) (f : (SMap (Option Prog)) → SMap (Option Prog)) : (s.onProgs f).fgt = s.fgt := rfl
@[simp] theorem State.onProgs_psq (s : State) (f : (SMap (Option Prog)) → SMap (Option Prog)) : (s.onProgs f).psq = s.psq := rfl
@[simp] theorem State.onProgs_cci (s : State) (f : (SMap (Option Prog)) → SMap (Option Prog)) : (s.onProgs f).cci = s.cci := rfl
@[simp] theorem State.onProgs_lcs (s : State) (f : (SMap (Option Prog)) → SMap (Option Prog)) : (s.onProgs f).lcs = s.lcs := rfl
@[simp] theorem State.onProgs_dbg (s : State) (f : (SMap (Option Prog)) → SMap (Option Prog)) : (s.onProgs f).dbg = s.dbg := rfl
@[simp] theorem State.onProgs_bst (s : State) (f : (SMap (Option Prog)) → SMap (Option Prog)) : (s.onProgs f).bst = s.bst := rfl
@[simp] theorem State.onProgs_rng (s : State) (f : (SMap (Option Prog)) → SMap (Option Prog)) : (s.onProgs f).rng = s.rng := rfl
@[simp] theorem State.onProgs_ump (s : State) (f : (SMap (Option Prog)) → SMap (Option Prog)) : (s.onProgs f).ump = s.ump := rfl
@[simp] theorem State.onProgs_sessions (s : State) (f : (SMap (Option Prog)) → SMap (Option Prog)) : (s.onProgs f).sessions = s.sessions := rfl
@[simp] theorem State.onProgs_spdm (s : State) (f : (SMap (Option Prog)) → SMap (Option Prog)) : (s.onProgs f).spdm = s.spdm := rfl
@[simp] theorem State.onProgs_mon (s : State) (f : (SMap (Option Prog)) → SMap (Option Prog)) : (s.onProgs f).mon = s.mon := rfl
@[simp] theorem State.onProgs_pldm (s : State) (f : (SMap (Option Prog)) → SMap (Option Prog)) : (s.onProgs f).pldm = s.pldm := rfl
@[simp] theorem State.onProgs_store (s : State) (f : (SMap (Option Prog)) → SMap (Option Prog)) : (s.onProgs f).store = s.store := rfl
@[simp] theorem State.onQuads_variant (s : State) (f : (SMap Quad) → SMap Quad) : (s.onQuads f).variant = s.variant := rfl
@[simp] theorem State.onQuads_pending (s : State) (f : (SMap Quad) → SMap Quad) : (s.onQuads f).pending = s.pending := rfl
@[simp] theorem State.onQuads_out (s : State) (f : (SMap Quad) → SMap Quad) : (s.onQuads f).out = s.out := rfl
@[simp] theorem State.onQuads_freeCtr (s : State) (f : (SMap Quad) → SMap Quad) : (s.onQuads f).freeCtr = s.freeCtr := rfl
@[simp] theorem State.onQuads_hdrs (s : State) (f : (SMap Quad) → SMap Quad) : (s.onQuads f).hdrs = s.hdrs := rfl
@[simp] theorem State.onQuads_mirrors (s : State) (f : (SMap Quad) → SMap Quad) : (s.onQuads f).mirrors = s.mirrors := rfl
@[simp] theorem State.onQuads_chip (s : State) (f : (SMap Quad) → SMap Quad) : (s.onQuads f).chip = s.chip := rfl
@[simp] theorem State.onQuads_pcie (s : State) (f : (SMap Quad) → SMap Quad) : (s.onQuads f).pcie = s.pcie := rfl
@[simp] theorem State.onQuads_fns (s : State) (f : (SMap Quad) → SMap Quad) : (s.onQuads f).fns = s.fns := rfl
@[simp] theorem State.onQuads_chans (s : State) (f : (SMap Quad) → SMap Quad) : (s.onQuads f).chans = s.chans := rfl
@[simp] theorem State.onQuads_gens (s : State) (f : (SMap Quad) → SMap Quad) : (s.onQuads f).gens = s.gens := rfl
@[simp] theorem State.onQuads_chFreed (s : State) (f : (SMap Quad) → SMap Quad) : (s.onQuads f).chFreed = s.chFreed := rfl
@[simp] theorem State.onQuads_reqs (s : State) (f : (SMap Quad) → SMap Quad) : (s.onQuads f).reqs = s.reqs := rfl
@[simp] theorem State.onQuads_nextReq (s : State) (f : (SMap Quad) → SMap Quad) : (s.onQuads f).nextReq = s.nextReq := rfl
@[simp] theorem State.onQuads_jobs (s : State) (f : (SMap Quad) → SMap Quad) : (s.onQuads f).jobs = s.jobs := rfl
@[simp] theorem State.onQuads_nextJob (s : State) (f : (SMap Quad) → SMap Quad) : (s.onQuads f).nextJob = s.nextJob := rfl
@[simp] theorem State.onQuads_msh (s : State) (f : (SMap Quad) → SMap Quad) : (s.onQuads f).msh = s.msh := rfl
@[simp] theorem State.onQuads_eights (s : State) (f : (SMap Quad) → SMap Quad) : (s.onQuads f).eights = s.eights := rfl
@[simp] theorem State.onQuads_progs (s : State) (f : (SMap Quad) → SMap Quad) : (s.onQuads f).progs = s.progs := rfl
@[simp] theorem State.onQuads_quads (s : State) (f : (SMap Quad) → SMap Quad) : (s.onQuads f).quads = f s.quads := rfl
@[simp] theorem State.onQuads_meas (s : State) (f : (SMap Quad) → SMap Quad) : (s.onQuads f).meas = s.meas := rfl
@[simp] theorem State.onQuads_slices (s : State) (f : (SMap Quad) → SMap Quad) : (s.onQuads f).slices = s.slices := rfl
@[simp] theorem State.onQuads_klg (s : State) (f : (SMap Quad) → SMap Quad) : (s.onQuads f).klg = s.klg := rfl
@[simp] theorem State.onQuads_kslots (s : State) (f : (SMap Quad) → SMap Quad) : (s.onQuads f).kslots = s.kslots := rfl
@[simp] theorem State.onQuads_kfrees (s : State) (f : (SMap Quad) → SMap Quad) : (s.onQuads f).kfrees = s.kfrees := rfl
@[simp] theorem State.onQuads_genBase (s : State) (f : (SMap Quad) → SMap Quad) : (s.onQuads f).genBase = s.genBase := rfl
@[simp] theorem State.onQuads_domains (s : State) (f : (SMap Quad) → SMap Quad) : (s.onQuads f).domains = s.domains := rfl
@[simp] theorem State.onQuads_heat (s : State) (f : (SMap Quad) → SMap Quad) : (s.onQuads f).heat = s.heat := rfl
@[simp] theorem State.onQuads_aod (s : State) (f : (SMap Quad) → SMap Quad) : (s.onQuads f).aod = s.aod := rfl
@[simp] theorem State.onQuads_otp (s : State) (f : (SMap Quad) → SMap Quad) : (s.onQuads f).otp = s.otp := rfl
@[simp] theorem State.onQuads_wdg (s : State) (f : (SMap Quad) → SMap Quad) : (s.onQuads f).wdg = s.wdg := rfl
@[simp] theorem State.onQuads_tmp (s : State) (f : (SMap Quad) → SMap Quad) : (s.onQuads f).tmp = s.tmp := rfl
@[simp] theorem State.onQuads_erg (s : State) (f : (SMap Quad) → SMap Quad) : (s.onQuads f).erg = s.erg := rfl
@[simp] theorem State.onQuads_fgt (s : State) (f : (SMap Quad) → SMap Quad) : (s.onQuads f).fgt = s.fgt := rfl
@[simp] theorem State.onQuads_psq (s : State) (f : (SMap Quad) → SMap Quad) : (s.onQuads f).psq = s.psq := rfl
@[simp] theorem State.onQuads_cci (s : State) (f : (SMap Quad) → SMap Quad) : (s.onQuads f).cci = s.cci := rfl
@[simp] theorem State.onQuads_lcs (s : State) (f : (SMap Quad) → SMap Quad) : (s.onQuads f).lcs = s.lcs := rfl
@[simp] theorem State.onQuads_dbg (s : State) (f : (SMap Quad) → SMap Quad) : (s.onQuads f).dbg = s.dbg := rfl
@[simp] theorem State.onQuads_bst (s : State) (f : (SMap Quad) → SMap Quad) : (s.onQuads f).bst = s.bst := rfl
@[simp] theorem State.onQuads_rng (s : State) (f : (SMap Quad) → SMap Quad) : (s.onQuads f).rng = s.rng := rfl
@[simp] theorem State.onQuads_ump (s : State) (f : (SMap Quad) → SMap Quad) : (s.onQuads f).ump = s.ump := rfl
@[simp] theorem State.onQuads_sessions (s : State) (f : (SMap Quad) → SMap Quad) : (s.onQuads f).sessions = s.sessions := rfl
@[simp] theorem State.onQuads_spdm (s : State) (f : (SMap Quad) → SMap Quad) : (s.onQuads f).spdm = s.spdm := rfl
@[simp] theorem State.onQuads_mon (s : State) (f : (SMap Quad) → SMap Quad) : (s.onQuads f).mon = s.mon := rfl
@[simp] theorem State.onQuads_pldm (s : State) (f : (SMap Quad) → SMap Quad) : (s.onQuads f).pldm = s.pldm := rfl
@[simp] theorem State.onQuads_store (s : State) (f : (SMap Quad) → SMap Quad) : (s.onQuads f).store = s.store := rfl
@[simp] theorem State.onMeas_variant (s : State) (f : (SMap Meas) → SMap Meas) : (s.onMeas f).variant = s.variant := rfl
@[simp] theorem State.onMeas_pending (s : State) (f : (SMap Meas) → SMap Meas) : (s.onMeas f).pending = s.pending := rfl
@[simp] theorem State.onMeas_out (s : State) (f : (SMap Meas) → SMap Meas) : (s.onMeas f).out = s.out := rfl
@[simp] theorem State.onMeas_freeCtr (s : State) (f : (SMap Meas) → SMap Meas) : (s.onMeas f).freeCtr = s.freeCtr := rfl
@[simp] theorem State.onMeas_hdrs (s : State) (f : (SMap Meas) → SMap Meas) : (s.onMeas f).hdrs = s.hdrs := rfl
@[simp] theorem State.onMeas_mirrors (s : State) (f : (SMap Meas) → SMap Meas) : (s.onMeas f).mirrors = s.mirrors := rfl
@[simp] theorem State.onMeas_chip (s : State) (f : (SMap Meas) → SMap Meas) : (s.onMeas f).chip = s.chip := rfl
@[simp] theorem State.onMeas_pcie (s : State) (f : (SMap Meas) → SMap Meas) : (s.onMeas f).pcie = s.pcie := rfl
@[simp] theorem State.onMeas_fns (s : State) (f : (SMap Meas) → SMap Meas) : (s.onMeas f).fns = s.fns := rfl
@[simp] theorem State.onMeas_chans (s : State) (f : (SMap Meas) → SMap Meas) : (s.onMeas f).chans = s.chans := rfl
@[simp] theorem State.onMeas_gens (s : State) (f : (SMap Meas) → SMap Meas) : (s.onMeas f).gens = s.gens := rfl
@[simp] theorem State.onMeas_chFreed (s : State) (f : (SMap Meas) → SMap Meas) : (s.onMeas f).chFreed = s.chFreed := rfl
@[simp] theorem State.onMeas_reqs (s : State) (f : (SMap Meas) → SMap Meas) : (s.onMeas f).reqs = s.reqs := rfl
@[simp] theorem State.onMeas_nextReq (s : State) (f : (SMap Meas) → SMap Meas) : (s.onMeas f).nextReq = s.nextReq := rfl
@[simp] theorem State.onMeas_jobs (s : State) (f : (SMap Meas) → SMap Meas) : (s.onMeas f).jobs = s.jobs := rfl
@[simp] theorem State.onMeas_nextJob (s : State) (f : (SMap Meas) → SMap Meas) : (s.onMeas f).nextJob = s.nextJob := rfl
@[simp] theorem State.onMeas_msh (s : State) (f : (SMap Meas) → SMap Meas) : (s.onMeas f).msh = s.msh := rfl
@[simp] theorem State.onMeas_eights (s : State) (f : (SMap Meas) → SMap Meas) : (s.onMeas f).eights = s.eights := rfl
@[simp] theorem State.onMeas_progs (s : State) (f : (SMap Meas) → SMap Meas) : (s.onMeas f).progs = s.progs := rfl
@[simp] theorem State.onMeas_quads (s : State) (f : (SMap Meas) → SMap Meas) : (s.onMeas f).quads = s.quads := rfl
@[simp] theorem State.onMeas_meas (s : State) (f : (SMap Meas) → SMap Meas) : (s.onMeas f).meas = f s.meas := rfl
@[simp] theorem State.onMeas_slices (s : State) (f : (SMap Meas) → SMap Meas) : (s.onMeas f).slices = s.slices := rfl
@[simp] theorem State.onMeas_klg (s : State) (f : (SMap Meas) → SMap Meas) : (s.onMeas f).klg = s.klg := rfl
@[simp] theorem State.onMeas_kslots (s : State) (f : (SMap Meas) → SMap Meas) : (s.onMeas f).kslots = s.kslots := rfl
@[simp] theorem State.onMeas_kfrees (s : State) (f : (SMap Meas) → SMap Meas) : (s.onMeas f).kfrees = s.kfrees := rfl
@[simp] theorem State.onMeas_genBase (s : State) (f : (SMap Meas) → SMap Meas) : (s.onMeas f).genBase = s.genBase := rfl
@[simp] theorem State.onMeas_domains (s : State) (f : (SMap Meas) → SMap Meas) : (s.onMeas f).domains = s.domains := rfl
@[simp] theorem State.onMeas_heat (s : State) (f : (SMap Meas) → SMap Meas) : (s.onMeas f).heat = s.heat := rfl
@[simp] theorem State.onMeas_aod (s : State) (f : (SMap Meas) → SMap Meas) : (s.onMeas f).aod = s.aod := rfl
@[simp] theorem State.onMeas_otp (s : State) (f : (SMap Meas) → SMap Meas) : (s.onMeas f).otp = s.otp := rfl
@[simp] theorem State.onMeas_wdg (s : State) (f : (SMap Meas) → SMap Meas) : (s.onMeas f).wdg = s.wdg := rfl
@[simp] theorem State.onMeas_tmp (s : State) (f : (SMap Meas) → SMap Meas) : (s.onMeas f).tmp = s.tmp := rfl
@[simp] theorem State.onMeas_erg (s : State) (f : (SMap Meas) → SMap Meas) : (s.onMeas f).erg = s.erg := rfl
@[simp] theorem State.onMeas_fgt (s : State) (f : (SMap Meas) → SMap Meas) : (s.onMeas f).fgt = s.fgt := rfl
@[simp] theorem State.onMeas_psq (s : State) (f : (SMap Meas) → SMap Meas) : (s.onMeas f).psq = s.psq := rfl
@[simp] theorem State.onMeas_cci (s : State) (f : (SMap Meas) → SMap Meas) : (s.onMeas f).cci = s.cci := rfl
@[simp] theorem State.onMeas_lcs (s : State) (f : (SMap Meas) → SMap Meas) : (s.onMeas f).lcs = s.lcs := rfl
@[simp] theorem State.onMeas_dbg (s : State) (f : (SMap Meas) → SMap Meas) : (s.onMeas f).dbg = s.dbg := rfl
@[simp] theorem State.onMeas_bst (s : State) (f : (SMap Meas) → SMap Meas) : (s.onMeas f).bst = s.bst := rfl
@[simp] theorem State.onMeas_rng (s : State) (f : (SMap Meas) → SMap Meas) : (s.onMeas f).rng = s.rng := rfl
@[simp] theorem State.onMeas_ump (s : State) (f : (SMap Meas) → SMap Meas) : (s.onMeas f).ump = s.ump := rfl
@[simp] theorem State.onMeas_sessions (s : State) (f : (SMap Meas) → SMap Meas) : (s.onMeas f).sessions = s.sessions := rfl
@[simp] theorem State.onMeas_spdm (s : State) (f : (SMap Meas) → SMap Meas) : (s.onMeas f).spdm = s.spdm := rfl
@[simp] theorem State.onMeas_mon (s : State) (f : (SMap Meas) → SMap Meas) : (s.onMeas f).mon = s.mon := rfl
@[simp] theorem State.onMeas_pldm (s : State) (f : (SMap Meas) → SMap Meas) : (s.onMeas f).pldm = s.pldm := rfl
@[simp] theorem State.onMeas_store (s : State) (f : (SMap Meas) → SMap Meas) : (s.onMeas f).store = s.store := rfl
@[simp] theorem State.onSlices_variant (s : State) (f : (SMap Slice) → SMap Slice) : (s.onSlices f).variant = s.variant := rfl
@[simp] theorem State.onSlices_pending (s : State) (f : (SMap Slice) → SMap Slice) : (s.onSlices f).pending = s.pending := rfl
@[simp] theorem State.onSlices_out (s : State) (f : (SMap Slice) → SMap Slice) : (s.onSlices f).out = s.out := rfl
@[simp] theorem State.onSlices_freeCtr (s : State) (f : (SMap Slice) → SMap Slice) : (s.onSlices f).freeCtr = s.freeCtr := rfl
@[simp] theorem State.onSlices_hdrs (s : State) (f : (SMap Slice) → SMap Slice) : (s.onSlices f).hdrs = s.hdrs := rfl
@[simp] theorem State.onSlices_mirrors (s : State) (f : (SMap Slice) → SMap Slice) : (s.onSlices f).mirrors = s.mirrors := rfl
@[simp] theorem State.onSlices_chip (s : State) (f : (SMap Slice) → SMap Slice) : (s.onSlices f).chip = s.chip := rfl
@[simp] theorem State.onSlices_pcie (s : State) (f : (SMap Slice) → SMap Slice) : (s.onSlices f).pcie = s.pcie := rfl
@[simp] theorem State.onSlices_fns (s : State) (f : (SMap Slice) → SMap Slice) : (s.onSlices f).fns = s.fns := rfl
@[simp] theorem State.onSlices_chans (s : State) (f : (SMap Slice) → SMap Slice) : (s.onSlices f).chans = s.chans := rfl
@[simp] theorem State.onSlices_gens (s : State) (f : (SMap Slice) → SMap Slice) : (s.onSlices f).gens = s.gens := rfl
@[simp] theorem State.onSlices_chFreed (s : State) (f : (SMap Slice) → SMap Slice) : (s.onSlices f).chFreed = s.chFreed := rfl
@[simp] theorem State.onSlices_reqs (s : State) (f : (SMap Slice) → SMap Slice) : (s.onSlices f).reqs = s.reqs := rfl
@[simp] theorem State.onSlices_nextReq (s : State) (f : (SMap Slice) → SMap Slice) : (s.onSlices f).nextReq = s.nextReq := rfl
@[simp] theorem State.onSlices_jobs (s : State) (f : (SMap Slice) → SMap Slice) : (s.onSlices f).jobs = s.jobs := rfl
@[simp] theorem State.onSlices_nextJob (s : State) (f : (SMap Slice) → SMap Slice) : (s.onSlices f).nextJob = s.nextJob := rfl
@[simp] theorem State.onSlices_msh (s : State) (f : (SMap Slice) → SMap Slice) : (s.onSlices f).msh = s.msh := rfl
@[simp] theorem State.onSlices_eights (s : State) (f : (SMap Slice) → SMap Slice) : (s.onSlices f).eights = s.eights := rfl
@[simp] theorem State.onSlices_progs (s : State) (f : (SMap Slice) → SMap Slice) : (s.onSlices f).progs = s.progs := rfl
@[simp] theorem State.onSlices_quads (s : State) (f : (SMap Slice) → SMap Slice) : (s.onSlices f).quads = s.quads := rfl
@[simp] theorem State.onSlices_meas (s : State) (f : (SMap Slice) → SMap Slice) : (s.onSlices f).meas = s.meas := rfl
@[simp] theorem State.onSlices_slices (s : State) (f : (SMap Slice) → SMap Slice) : (s.onSlices f).slices = f s.slices := rfl
@[simp] theorem State.onSlices_klg (s : State) (f : (SMap Slice) → SMap Slice) : (s.onSlices f).klg = s.klg := rfl
@[simp] theorem State.onSlices_kslots (s : State) (f : (SMap Slice) → SMap Slice) : (s.onSlices f).kslots = s.kslots := rfl
@[simp] theorem State.onSlices_kfrees (s : State) (f : (SMap Slice) → SMap Slice) : (s.onSlices f).kfrees = s.kfrees := rfl
@[simp] theorem State.onSlices_genBase (s : State) (f : (SMap Slice) → SMap Slice) : (s.onSlices f).genBase = s.genBase := rfl
@[simp] theorem State.onSlices_domains (s : State) (f : (SMap Slice) → SMap Slice) : (s.onSlices f).domains = s.domains := rfl
@[simp] theorem State.onSlices_heat (s : State) (f : (SMap Slice) → SMap Slice) : (s.onSlices f).heat = s.heat := rfl
@[simp] theorem State.onSlices_aod (s : State) (f : (SMap Slice) → SMap Slice) : (s.onSlices f).aod = s.aod := rfl
@[simp] theorem State.onSlices_otp (s : State) (f : (SMap Slice) → SMap Slice) : (s.onSlices f).otp = s.otp := rfl
@[simp] theorem State.onSlices_wdg (s : State) (f : (SMap Slice) → SMap Slice) : (s.onSlices f).wdg = s.wdg := rfl
@[simp] theorem State.onSlices_tmp (s : State) (f : (SMap Slice) → SMap Slice) : (s.onSlices f).tmp = s.tmp := rfl
@[simp] theorem State.onSlices_erg (s : State) (f : (SMap Slice) → SMap Slice) : (s.onSlices f).erg = s.erg := rfl
@[simp] theorem State.onSlices_fgt (s : State) (f : (SMap Slice) → SMap Slice) : (s.onSlices f).fgt = s.fgt := rfl
@[simp] theorem State.onSlices_psq (s : State) (f : (SMap Slice) → SMap Slice) : (s.onSlices f).psq = s.psq := rfl
@[simp] theorem State.onSlices_cci (s : State) (f : (SMap Slice) → SMap Slice) : (s.onSlices f).cci = s.cci := rfl
@[simp] theorem State.onSlices_lcs (s : State) (f : (SMap Slice) → SMap Slice) : (s.onSlices f).lcs = s.lcs := rfl
@[simp] theorem State.onSlices_dbg (s : State) (f : (SMap Slice) → SMap Slice) : (s.onSlices f).dbg = s.dbg := rfl
@[simp] theorem State.onSlices_bst (s : State) (f : (SMap Slice) → SMap Slice) : (s.onSlices f).bst = s.bst := rfl
@[simp] theorem State.onSlices_rng (s : State) (f : (SMap Slice) → SMap Slice) : (s.onSlices f).rng = s.rng := rfl
@[simp] theorem State.onSlices_ump (s : State) (f : (SMap Slice) → SMap Slice) : (s.onSlices f).ump = s.ump := rfl
@[simp] theorem State.onSlices_sessions (s : State) (f : (SMap Slice) → SMap Slice) : (s.onSlices f).sessions = s.sessions := rfl
@[simp] theorem State.onSlices_spdm (s : State) (f : (SMap Slice) → SMap Slice) : (s.onSlices f).spdm = s.spdm := rfl
@[simp] theorem State.onSlices_mon (s : State) (f : (SMap Slice) → SMap Slice) : (s.onSlices f).mon = s.mon := rfl
@[simp] theorem State.onSlices_pldm (s : State) (f : (SMap Slice) → SMap Slice) : (s.onSlices f).pldm = s.pldm := rfl
@[simp] theorem State.onSlices_store (s : State) (f : (SMap Slice) → SMap Slice) : (s.onSlices f).store = s.store := rfl
@[simp] theorem State.onKlg_variant (s : State) (f : Klg → Klg) : (s.onKlg f).variant = s.variant := rfl
@[simp] theorem State.onKlg_pending (s : State) (f : Klg → Klg) : (s.onKlg f).pending = s.pending := rfl
@[simp] theorem State.onKlg_out (s : State) (f : Klg → Klg) : (s.onKlg f).out = s.out := rfl
@[simp] theorem State.onKlg_freeCtr (s : State) (f : Klg → Klg) : (s.onKlg f).freeCtr = s.freeCtr := rfl
@[simp] theorem State.onKlg_hdrs (s : State) (f : Klg → Klg) : (s.onKlg f).hdrs = s.hdrs := rfl
@[simp] theorem State.onKlg_mirrors (s : State) (f : Klg → Klg) : (s.onKlg f).mirrors = s.mirrors := rfl
@[simp] theorem State.onKlg_chip (s : State) (f : Klg → Klg) : (s.onKlg f).chip = s.chip := rfl
@[simp] theorem State.onKlg_pcie (s : State) (f : Klg → Klg) : (s.onKlg f).pcie = s.pcie := rfl
@[simp] theorem State.onKlg_fns (s : State) (f : Klg → Klg) : (s.onKlg f).fns = s.fns := rfl
@[simp] theorem State.onKlg_chans (s : State) (f : Klg → Klg) : (s.onKlg f).chans = s.chans := rfl
@[simp] theorem State.onKlg_gens (s : State) (f : Klg → Klg) : (s.onKlg f).gens = s.gens := rfl
@[simp] theorem State.onKlg_chFreed (s : State) (f : Klg → Klg) : (s.onKlg f).chFreed = s.chFreed := rfl
@[simp] theorem State.onKlg_reqs (s : State) (f : Klg → Klg) : (s.onKlg f).reqs = s.reqs := rfl
@[simp] theorem State.onKlg_nextReq (s : State) (f : Klg → Klg) : (s.onKlg f).nextReq = s.nextReq := rfl
@[simp] theorem State.onKlg_jobs (s : State) (f : Klg → Klg) : (s.onKlg f).jobs = s.jobs := rfl
@[simp] theorem State.onKlg_nextJob (s : State) (f : Klg → Klg) : (s.onKlg f).nextJob = s.nextJob := rfl
@[simp] theorem State.onKlg_msh (s : State) (f : Klg → Klg) : (s.onKlg f).msh = s.msh := rfl
@[simp] theorem State.onKlg_eights (s : State) (f : Klg → Klg) : (s.onKlg f).eights = s.eights := rfl
@[simp] theorem State.onKlg_progs (s : State) (f : Klg → Klg) : (s.onKlg f).progs = s.progs := rfl
@[simp] theorem State.onKlg_quads (s : State) (f : Klg → Klg) : (s.onKlg f).quads = s.quads := rfl
@[simp] theorem State.onKlg_meas (s : State) (f : Klg → Klg) : (s.onKlg f).meas = s.meas := rfl
@[simp] theorem State.onKlg_slices (s : State) (f : Klg → Klg) : (s.onKlg f).slices = s.slices := rfl
@[simp] theorem State.onKlg_klg (s : State) (f : Klg → Klg) : (s.onKlg f).klg = f s.klg := rfl
@[simp] theorem State.onKlg_kslots (s : State) (f : Klg → Klg) : (s.onKlg f).kslots = s.kslots := rfl
@[simp] theorem State.onKlg_kfrees (s : State) (f : Klg → Klg) : (s.onKlg f).kfrees = s.kfrees := rfl
@[simp] theorem State.onKlg_genBase (s : State) (f : Klg → Klg) : (s.onKlg f).genBase = s.genBase := rfl
@[simp] theorem State.onKlg_domains (s : State) (f : Klg → Klg) : (s.onKlg f).domains = s.domains := rfl
@[simp] theorem State.onKlg_heat (s : State) (f : Klg → Klg) : (s.onKlg f).heat = s.heat := rfl
@[simp] theorem State.onKlg_aod (s : State) (f : Klg → Klg) : (s.onKlg f).aod = s.aod := rfl
@[simp] theorem State.onKlg_otp (s : State) (f : Klg → Klg) : (s.onKlg f).otp = s.otp := rfl
@[simp] theorem State.onKlg_wdg (s : State) (f : Klg → Klg) : (s.onKlg f).wdg = s.wdg := rfl
@[simp] theorem State.onKlg_tmp (s : State) (f : Klg → Klg) : (s.onKlg f).tmp = s.tmp := rfl
@[simp] theorem State.onKlg_erg (s : State) (f : Klg → Klg) : (s.onKlg f).erg = s.erg := rfl
@[simp] theorem State.onKlg_fgt (s : State) (f : Klg → Klg) : (s.onKlg f).fgt = s.fgt := rfl
@[simp] theorem State.onKlg_psq (s : State) (f : Klg → Klg) : (s.onKlg f).psq = s.psq := rfl
@[simp] theorem State.onKlg_cci (s : State) (f : Klg → Klg) : (s.onKlg f).cci = s.cci := rfl
@[simp] theorem State.onKlg_lcs (s : State) (f : Klg → Klg) : (s.onKlg f).lcs = s.lcs := rfl
@[simp] theorem State.onKlg_dbg (s : State) (f : Klg → Klg) : (s.onKlg f).dbg = s.dbg := rfl
@[simp] theorem State.onKlg_bst (s : State) (f : Klg → Klg) : (s.onKlg f).bst = s.bst := rfl
@[simp] theorem State.onKlg_rng (s : State) (f : Klg → Klg) : (s.onKlg f).rng = s.rng := rfl
@[simp] theorem State.onKlg_ump (s : State) (f : Klg → Klg) : (s.onKlg f).ump = s.ump := rfl
@[simp] theorem State.onKlg_sessions (s : State) (f : Klg → Klg) : (s.onKlg f).sessions = s.sessions := rfl
@[simp] theorem State.onKlg_spdm (s : State) (f : Klg → Klg) : (s.onKlg f).spdm = s.spdm := rfl
@[simp] theorem State.onKlg_mon (s : State) (f : Klg → Klg) : (s.onKlg f).mon = s.mon := rfl
@[simp] theorem State.onKlg_pldm (s : State) (f : Klg → Klg) : (s.onKlg f).pldm = s.pldm := rfl
@[simp] theorem State.onKlg_store (s : State) (f : Klg → Klg) : (s.onKlg f).store = s.store := rfl
@[simp] theorem State.onKslots_variant (s : State) (f : (SMap KSlot) → SMap KSlot) : (s.onKslots f).variant = s.variant := rfl
@[simp] theorem State.onKslots_pending (s : State) (f : (SMap KSlot) → SMap KSlot) : (s.onKslots f).pending = s.pending := rfl
@[simp] theorem State.onKslots_out (s : State) (f : (SMap KSlot) → SMap KSlot) : (s.onKslots f).out = s.out := rfl
@[simp] theorem State.onKslots_freeCtr (s : State) (f : (SMap KSlot) → SMap KSlot) : (s.onKslots f).freeCtr = s.freeCtr := rfl
@[simp] theorem State.onKslots_hdrs (s : State) (f : (SMap KSlot) → SMap KSlot) : (s.onKslots f).hdrs = s.hdrs := rfl
@[simp] theorem State.onKslots_mirrors (s : State) (f : (SMap KSlot) → SMap KSlot) : (s.onKslots f).mirrors = s.mirrors := rfl
@[simp] theorem State.onKslots_chip (s : State) (f : (SMap KSlot) → SMap KSlot) : (s.onKslots f).chip = s.chip := rfl
@[simp] theorem State.onKslots_pcie (s : State) (f : (SMap KSlot) → SMap KSlot) : (s.onKslots f).pcie = s.pcie := rfl
@[simp] theorem State.onKslots_fns (s : State) (f : (SMap KSlot) → SMap KSlot) : (s.onKslots f).fns = s.fns := rfl
@[simp] theorem State.onKslots_chans (s : State) (f : (SMap KSlot) → SMap KSlot) : (s.onKslots f).chans = s.chans := rfl
@[simp] theorem State.onKslots_gens (s : State) (f : (SMap KSlot) → SMap KSlot) : (s.onKslots f).gens = s.gens := rfl
@[simp] theorem State.onKslots_chFreed (s : State) (f : (SMap KSlot) → SMap KSlot) : (s.onKslots f).chFreed = s.chFreed := rfl
@[simp] theorem State.onKslots_reqs (s : State) (f : (SMap KSlot) → SMap KSlot) : (s.onKslots f).reqs = s.reqs := rfl
@[simp] theorem State.onKslots_nextReq (s : State) (f : (SMap KSlot) → SMap KSlot) : (s.onKslots f).nextReq = s.nextReq := rfl
@[simp] theorem State.onKslots_jobs (s : State) (f : (SMap KSlot) → SMap KSlot) : (s.onKslots f).jobs = s.jobs := rfl
@[simp] theorem State.onKslots_nextJob (s : State) (f : (SMap KSlot) → SMap KSlot) : (s.onKslots f).nextJob = s.nextJob := rfl
@[simp] theorem State.onKslots_msh (s : State) (f : (SMap KSlot) → SMap KSlot) : (s.onKslots f).msh = s.msh := rfl
@[simp] theorem State.onKslots_eights (s : State) (f : (SMap KSlot) → SMap KSlot) : (s.onKslots f).eights = s.eights := rfl
@[simp] theorem State.onKslots_progs (s : State) (f : (SMap KSlot) → SMap KSlot) : (s.onKslots f).progs = s.progs := rfl
@[simp] theorem State.onKslots_quads (s : State) (f : (SMap KSlot) → SMap KSlot) : (s.onKslots f).quads = s.quads := rfl
@[simp] theorem State.onKslots_meas (s : State) (f : (SMap KSlot) → SMap KSlot) : (s.onKslots f).meas = s.meas := rfl
@[simp] theorem State.onKslots_slices (s : State) (f : (SMap KSlot) → SMap KSlot) : (s.onKslots f).slices = s.slices := rfl
@[simp] theorem State.onKslots_klg (s : State) (f : (SMap KSlot) → SMap KSlot) : (s.onKslots f).klg = s.klg := rfl
@[simp] theorem State.onKslots_kslots (s : State) (f : (SMap KSlot) → SMap KSlot) : (s.onKslots f).kslots = f s.kslots := rfl
@[simp] theorem State.onKslots_kfrees (s : State) (f : (SMap KSlot) → SMap KSlot) : (s.onKslots f).kfrees = s.kfrees := rfl
@[simp] theorem State.onKslots_genBase (s : State) (f : (SMap KSlot) → SMap KSlot) : (s.onKslots f).genBase = s.genBase := rfl
@[simp] theorem State.onKslots_domains (s : State) (f : (SMap KSlot) → SMap KSlot) : (s.onKslots f).domains = s.domains := rfl
@[simp] theorem State.onKslots_heat (s : State) (f : (SMap KSlot) → SMap KSlot) : (s.onKslots f).heat = s.heat := rfl
@[simp] theorem State.onKslots_aod (s : State) (f : (SMap KSlot) → SMap KSlot) : (s.onKslots f).aod = s.aod := rfl
@[simp] theorem State.onKslots_otp (s : State) (f : (SMap KSlot) → SMap KSlot) : (s.onKslots f).otp = s.otp := rfl
@[simp] theorem State.onKslots_wdg (s : State) (f : (SMap KSlot) → SMap KSlot) : (s.onKslots f).wdg = s.wdg := rfl
@[simp] theorem State.onKslots_tmp (s : State) (f : (SMap KSlot) → SMap KSlot) : (s.onKslots f).tmp = s.tmp := rfl
@[simp] theorem State.onKslots_erg (s : State) (f : (SMap KSlot) → SMap KSlot) : (s.onKslots f).erg = s.erg := rfl
@[simp] theorem State.onKslots_fgt (s : State) (f : (SMap KSlot) → SMap KSlot) : (s.onKslots f).fgt = s.fgt := rfl
@[simp] theorem State.onKslots_psq (s : State) (f : (SMap KSlot) → SMap KSlot) : (s.onKslots f).psq = s.psq := rfl
@[simp] theorem State.onKslots_cci (s : State) (f : (SMap KSlot) → SMap KSlot) : (s.onKslots f).cci = s.cci := rfl
@[simp] theorem State.onKslots_lcs (s : State) (f : (SMap KSlot) → SMap KSlot) : (s.onKslots f).lcs = s.lcs := rfl
@[simp] theorem State.onKslots_dbg (s : State) (f : (SMap KSlot) → SMap KSlot) : (s.onKslots f).dbg = s.dbg := rfl
@[simp] theorem State.onKslots_bst (s : State) (f : (SMap KSlot) → SMap KSlot) : (s.onKslots f).bst = s.bst := rfl
@[simp] theorem State.onKslots_rng (s : State) (f : (SMap KSlot) → SMap KSlot) : (s.onKslots f).rng = s.rng := rfl
@[simp] theorem State.onKslots_ump (s : State) (f : (SMap KSlot) → SMap KSlot) : (s.onKslots f).ump = s.ump := rfl
@[simp] theorem State.onKslots_sessions (s : State) (f : (SMap KSlot) → SMap KSlot) : (s.onKslots f).sessions = s.sessions := rfl
@[simp] theorem State.onKslots_spdm (s : State) (f : (SMap KSlot) → SMap KSlot) : (s.onKslots f).spdm = s.spdm := rfl
@[simp] theorem State.onKslots_mon (s : State) (f : (SMap KSlot) → SMap KSlot) : (s.onKslots f).mon = s.mon := rfl
@[simp] theorem State.onKslots_pldm (s : State) (f : (SMap KSlot) → SMap KSlot) : (s.onKslots f).pldm = s.pldm := rfl
@[simp] theorem State.onKslots_store (s : State) (f : (SMap KSlot) → SMap KSlot) : (s.onKslots f).store = s.store := rfl
@[simp] theorem State.onKfrees_variant (s : State) (f : (SMap Nat) → SMap Nat) : (s.onKfrees f).variant = s.variant := rfl
@[simp] theorem State.onKfrees_pending (s : State) (f : (SMap Nat) → SMap Nat) : (s.onKfrees f).pending = s.pending := rfl
@[simp] theorem State.onKfrees_out (s : State) (f : (SMap Nat) → SMap Nat) : (s.onKfrees f).out = s.out := rfl
@[simp] theorem State.onKfrees_freeCtr (s : State) (f : (SMap Nat) → SMap Nat) : (s.onKfrees f).freeCtr = s.freeCtr := rfl
@[simp] theorem State.onKfrees_hdrs (s : State) (f : (SMap Nat) → SMap Nat) : (s.onKfrees f).hdrs = s.hdrs := rfl
@[simp] theorem State.onKfrees_mirrors (s : State) (f : (SMap Nat) → SMap Nat) : (s.onKfrees f).mirrors = s.mirrors := rfl
@[simp] theorem State.onKfrees_chip (s : State) (f : (SMap Nat) → SMap Nat) : (s.onKfrees f).chip = s.chip := rfl
@[simp] theorem State.onKfrees_pcie (s : State) (f : (SMap Nat) → SMap Nat) : (s.onKfrees f).pcie = s.pcie := rfl
@[simp] theorem State.onKfrees_fns (s : State) (f : (SMap Nat) → SMap Nat) : (s.onKfrees f).fns = s.fns := rfl
@[simp] theorem State.onKfrees_chans (s : State) (f : (SMap Nat) → SMap Nat) : (s.onKfrees f).chans = s.chans := rfl
@[simp] theorem State.onKfrees_gens (s : State) (f : (SMap Nat) → SMap Nat) : (s.onKfrees f).gens = s.gens := rfl
@[simp] theorem State.onKfrees_chFreed (s : State) (f : (SMap Nat) → SMap Nat) : (s.onKfrees f).chFreed = s.chFreed := rfl
@[simp] theorem State.onKfrees_reqs (s : State) (f : (SMap Nat) → SMap Nat) : (s.onKfrees f).reqs = s.reqs := rfl
@[simp] theorem State.onKfrees_nextReq (s : State) (f : (SMap Nat) → SMap Nat) : (s.onKfrees f).nextReq = s.nextReq := rfl
@[simp] theorem State.onKfrees_jobs (s : State) (f : (SMap Nat) → SMap Nat) : (s.onKfrees f).jobs = s.jobs := rfl
@[simp] theorem State.onKfrees_nextJob (s : State) (f : (SMap Nat) → SMap Nat) : (s.onKfrees f).nextJob = s.nextJob := rfl
@[simp] theorem State.onKfrees_msh (s : State) (f : (SMap Nat) → SMap Nat) : (s.onKfrees f).msh = s.msh := rfl
@[simp] theorem State.onKfrees_eights (s : State) (f : (SMap Nat) → SMap Nat) : (s.onKfrees f).eights = s.eights := rfl
@[simp] theorem State.onKfrees_progs (s : State) (f : (SMap Nat) → SMap Nat) : (s.onKfrees f).progs = s.progs := rfl
@[simp] theorem State.onKfrees_quads (s : State) (f : (SMap Nat) → SMap Nat) : (s.onKfrees f).quads = s.quads := rfl
@[simp] theorem State.onKfrees_meas (s : State) (f : (SMap Nat) → SMap Nat) : (s.onKfrees f).meas = s.meas := rfl
@[simp] theorem State.onKfrees_slices (s : State) (f : (SMap Nat) → SMap Nat) : (s.onKfrees f).slices = s.slices := rfl
@[simp] theorem State.onKfrees_klg (s : State) (f : (SMap Nat) → SMap Nat) : (s.onKfrees f).klg = s.klg := rfl
@[simp] theorem State.onKfrees_kslots (s : State) (f : (SMap Nat) → SMap Nat) : (s.onKfrees f).kslots = s.kslots := rfl
@[simp] theorem State.onKfrees_kfrees (s : State) (f : (SMap Nat) → SMap Nat) : (s.onKfrees f).kfrees = f s.kfrees := rfl
@[simp] theorem State.onKfrees_genBase (s : State) (f : (SMap Nat) → SMap Nat) : (s.onKfrees f).genBase = s.genBase := rfl
@[simp] theorem State.onKfrees_domains (s : State) (f : (SMap Nat) → SMap Nat) : (s.onKfrees f).domains = s.domains := rfl
@[simp] theorem State.onKfrees_heat (s : State) (f : (SMap Nat) → SMap Nat) : (s.onKfrees f).heat = s.heat := rfl
@[simp] theorem State.onKfrees_aod (s : State) (f : (SMap Nat) → SMap Nat) : (s.onKfrees f).aod = s.aod := rfl
@[simp] theorem State.onKfrees_otp (s : State) (f : (SMap Nat) → SMap Nat) : (s.onKfrees f).otp = s.otp := rfl
@[simp] theorem State.onKfrees_wdg (s : State) (f : (SMap Nat) → SMap Nat) : (s.onKfrees f).wdg = s.wdg := rfl
@[simp] theorem State.onKfrees_tmp (s : State) (f : (SMap Nat) → SMap Nat) : (s.onKfrees f).tmp = s.tmp := rfl
@[simp] theorem State.onKfrees_erg (s : State) (f : (SMap Nat) → SMap Nat) : (s.onKfrees f).erg = s.erg := rfl
@[simp] theorem State.onKfrees_fgt (s : State) (f : (SMap Nat) → SMap Nat) : (s.onKfrees f).fgt = s.fgt := rfl
@[simp] theorem State.onKfrees_psq (s : State) (f : (SMap Nat) → SMap Nat) : (s.onKfrees f).psq = s.psq := rfl
@[simp] theorem State.onKfrees_cci (s : State) (f : (SMap Nat) → SMap Nat) : (s.onKfrees f).cci = s.cci := rfl
@[simp] theorem State.onKfrees_lcs (s : State) (f : (SMap Nat) → SMap Nat) : (s.onKfrees f).lcs = s.lcs := rfl
@[simp] theorem State.onKfrees_dbg (s : State) (f : (SMap Nat) → SMap Nat) : (s.onKfrees f).dbg = s.dbg := rfl
@[simp] theorem State.onKfrees_bst (s : State) (f : (SMap Nat) → SMap Nat) : (s.onKfrees f).bst = s.bst := rfl
@[simp] theorem State.onKfrees_rng (s : State) (f : (SMap Nat) → SMap Nat) : (s.onKfrees f).rng = s.rng := rfl
@[simp] theorem State.onKfrees_ump (s : State) (f : (SMap Nat) → SMap Nat) : (s.onKfrees f).ump = s.ump := rfl
@[simp] theorem State.onKfrees_sessions (s : State) (f : (SMap Nat) → SMap Nat) : (s.onKfrees f).sessions = s.sessions := rfl
@[simp] theorem State.onKfrees_spdm (s : State) (f : (SMap Nat) → SMap Nat) : (s.onKfrees f).spdm = s.spdm := rfl
@[simp] theorem State.onKfrees_mon (s : State) (f : (SMap Nat) → SMap Nat) : (s.onKfrees f).mon = s.mon := rfl
@[simp] theorem State.onKfrees_pldm (s : State) (f : (SMap Nat) → SMap Nat) : (s.onKfrees f).pldm = s.pldm := rfl
@[simp] theorem State.onKfrees_store (s : State) (f : (SMap Nat) → SMap Nat) : (s.onKfrees f).store = s.store := rfl
@[simp] theorem State.onGenBase_variant (s : State) (f : Nat → Nat) : (s.onGenBase f).variant = s.variant := rfl
@[simp] theorem State.onGenBase_pending (s : State) (f : Nat → Nat) : (s.onGenBase f).pending = s.pending := rfl
@[simp] theorem State.onGenBase_out (s : State) (f : Nat → Nat) : (s.onGenBase f).out = s.out := rfl
@[simp] theorem State.onGenBase_freeCtr (s : State) (f : Nat → Nat) : (s.onGenBase f).freeCtr = s.freeCtr := rfl
@[simp] theorem State.onGenBase_hdrs (s : State) (f : Nat → Nat) : (s.onGenBase f).hdrs = s.hdrs := rfl
@[simp] theorem State.onGenBase_mirrors (s : State) (f : Nat → Nat) : (s.onGenBase f).mirrors = s.mirrors := rfl
@[simp] theorem State.onGenBase_chip (s : State) (f : Nat → Nat) : (s.onGenBase f).chip = s.chip := rfl
@[simp] theorem State.onGenBase_pcie (s : State) (f : Nat → Nat) : (s.onGenBase f).pcie = s.pcie := rfl
@[simp] theorem State.onGenBase_fns (s : State) (f : Nat → Nat) : (s.onGenBase f).fns = s.fns := rfl
@[simp] theorem State.onGenBase_chans (s : State) (f : Nat → Nat) : (s.onGenBase f).chans = s.chans := rfl
@[simp] theorem State.onGenBase_gens (s : State) (f : Nat → Nat) : (s.onGenBase f).gens = s.gens := rfl
@[simp] theorem State.onGenBase_chFreed (s : State) (f : Nat → Nat) : (s.onGenBase f).chFreed = s.chFreed := rfl
@[simp] theorem State.onGenBase_reqs (s : State) (f : Nat → Nat) : (s.onGenBase f).reqs = s.reqs := rfl
@[simp] theorem State.onGenBase_nextReq (s : State) (f : Nat → Nat) : (s.onGenBase f).nextReq = s.nextReq := rfl
@[simp] theorem State.onGenBase_jobs (s : State) (f : Nat → Nat) : (s.onGenBase f).jobs = s.jobs := rfl
@[simp] theorem State.onGenBase_nextJob (s : State) (f : Nat → Nat) : (s.onGenBase f).nextJob = s.nextJob := rfl
@[simp] theorem State.onGenBase_msh (s : State) (f : Nat → Nat) : (s.onGenBase f).msh = s.msh := rfl
@[simp] theorem State.onGenBase_eights (s : State) (f : Nat → Nat) : (s.onGenBase f).eights = s.eights := rfl
@[simp] theorem State.onGenBase_progs (s : State) (f : Nat → Nat) : (s.onGenBase f).progs = s.progs := rfl
@[simp] theorem State.onGenBase_quads (s : State) (f : Nat → Nat) : (s.onGenBase f).quads = s.quads := rfl
@[simp] theorem State.onGenBase_meas (s : State) (f : Nat → Nat) : (s.onGenBase f).meas = s.meas := rfl
@[simp] theorem State.onGenBase_slices (s : State) (f : Nat → Nat) : (s.onGenBase f).slices = s.slices := rfl
@[simp] theorem State.onGenBase_klg (s : State) (f : Nat → Nat) : (s.onGenBase f).klg = s.klg := rfl
@[simp] theorem State.onGenBase_kslots (s : State) (f : Nat → Nat) : (s.onGenBase f).kslots = s.kslots := rfl
@[simp] theorem State.onGenBase_kfrees (s : State) (f : Nat → Nat) : (s.onGenBase f).kfrees = s.kfrees := rfl
@[simp] theorem State.onGenBase_genBase (s : State) (f : Nat → Nat) : (s.onGenBase f).genBase = f s.genBase := rfl
@[simp] theorem State.onGenBase_domains (s : State) (f : Nat → Nat) : (s.onGenBase f).domains = s.domains := rfl
@[simp] theorem State.onGenBase_heat (s : State) (f : Nat → Nat) : (s.onGenBase f).heat = s.heat := rfl
@[simp] theorem State.onGenBase_aod (s : State) (f : Nat → Nat) : (s.onGenBase f).aod = s.aod := rfl
@[simp] theorem State.onGenBase_otp (s : State) (f : Nat → Nat) : (s.onGenBase f).otp = s.otp := rfl
@[simp] theorem State.onGenBase_wdg (s : State) (f : Nat → Nat) : (s.onGenBase f).wdg = s.wdg := rfl
@[simp] theorem State.onGenBase_tmp (s : State) (f : Nat → Nat) : (s.onGenBase f).tmp = s.tmp := rfl
@[simp] theorem State.onGenBase_erg (s : State) (f : Nat → Nat) : (s.onGenBase f).erg = s.erg := rfl
@[simp] theorem State.onGenBase_fgt (s : State) (f : Nat → Nat) : (s.onGenBase f).fgt = s.fgt := rfl
@[simp] theorem State.onGenBase_psq (s : State) (f : Nat → Nat) : (s.onGenBase f).psq = s.psq := rfl
@[simp] theorem State.onGenBase_cci (s : State) (f : Nat → Nat) : (s.onGenBase f).cci = s.cci := rfl
@[simp] theorem State.onGenBase_lcs (s : State) (f : Nat → Nat) : (s.onGenBase f).lcs = s.lcs := rfl
@[simp] theorem State.onGenBase_dbg (s : State) (f : Nat → Nat) : (s.onGenBase f).dbg = s.dbg := rfl
@[simp] theorem State.onGenBase_bst (s : State) (f : Nat → Nat) : (s.onGenBase f).bst = s.bst := rfl
@[simp] theorem State.onGenBase_rng (s : State) (f : Nat → Nat) : (s.onGenBase f).rng = s.rng := rfl
@[simp] theorem State.onGenBase_ump (s : State) (f : Nat → Nat) : (s.onGenBase f).ump = s.ump := rfl
@[simp] theorem State.onGenBase_sessions (s : State) (f : Nat → Nat) : (s.onGenBase f).sessions = s.sessions := rfl
@[simp] theorem State.onGenBase_spdm (s : State) (f : Nat → Nat) : (s.onGenBase f).spdm = s.spdm := rfl
@[simp] theorem State.onGenBase_mon (s : State) (f : Nat → Nat) : (s.onGenBase f).mon = s.mon := rfl
@[simp] theorem State.onGenBase_pldm (s : State) (f : Nat → Nat) : (s.onGenBase f).pldm = s.pldm := rfl
@[simp] theorem State.onGenBase_store (s : State) (f : Nat → Nat) : (s.onGenBase f).store = s.store := rfl
@[simp] theorem State.onDomains_variant (s : State) (f : (SMap (Option Domain)) → SMap (Option Domain)) : (s.onDomains f).variant = s.variant := rfl
@[simp] theorem State.onDomains_pending (s : State) (f : (SMap (Option Domain)) → SMap (Option Domain)) : (s.onDomains f).pending = s.pending := rfl
@[simp] theorem State.onDomains_out (s : State) (f : (SMap (Option Domain)) → SMap (Option Domain)) : (s.onDomains f).out = s.out := rfl
@[simp] theorem State.onDomains_freeCtr (s : State) (f : (SMap (Option Domain)) → SMap (Option Domain)) : (s.onDomains f).freeCtr = s.freeCtr := rfl
@[simp] theorem State.onDomains_hdrs (s : State) (f : (SMap (Option Domain)) → SMap (Option Domain)) : (s.onDomains f).hdrs = s.hdrs := rfl
@[simp] theorem State.onDomains_mirrors (s : State) (f : (SMap (Option Domain)) → SMap (Option Domain)) : (s.onDomains f).mirrors = s.mirrors := rfl
@[simp] theorem State.onDomains_chip (s : State) (f : (SMap (Option Domain)) → SMap (Option Domain)) : (s.onDomains f).chip = s.chip := rfl
@[simp] theorem State.onDomains_pcie (s : State) (f : (SMap (Option Domain)) → SMap (Option Domain)) : (s.onDomains f).pcie = s.pcie := rfl
@[simp] theorem State.onDomains_fns (s : State) (f : (SMap (Option Domain)) → SMap (Option Domain)) : (s.onDomains f).fns = s.fns := rfl
@[simp] theorem State.onDomains_chans (s : State) (f : (SMap (Option Domain)) → SMap (Option Domain)) : (s.onDomains f).chans = s.chans := rfl
@[simp] theorem State.onDomains_gens (s : State) (f : (SMap (Option Domain)) → SMap (Option Domain)) : (s.onDomains f).gens = s.gens := rfl
@[simp] theorem State.onDomains_chFreed (s : State) (f : (SMap (Option Domain)) → SMap (Option Domain)) : (s.onDomains f).chFreed = s.chFreed := rfl
@[simp] theorem State.onDomains_reqs (s : State) (f : (SMap (Option Domain)) → SMap (Option Domain)) : (s.onDomains f).reqs = s.reqs := rfl
@[simp] theorem State.onDomains_nextReq (s : State) (f : (SMap (Option Domain)) → SMap (Option Domain)) : (s.onDomains f).nextReq = s.nextReq := rfl
@[simp] theorem State.onDomains_jobs (s : State) (f : (SMap (Option Domain)) → SMap (Option Domain)) : (s.onDomains f).jobs = s.jobs := rfl
@[simp] theorem State.onDomains_nextJob (s : State) (f : (SMap (Option Domain)) → SMap (Option Domain)) : (s.onDomains f).nextJob = s.nextJob := rfl
@[simp] theorem State.onDomains_msh (s : State) (f : (SMap (Option Domain)) → SMap (Option Domain)) : (s.onDomains f).msh = s.msh := rfl
@[simp] theorem State.onDomains_eights (s : State) (f : (SMap (Option Domain)) → SMap (Option Domain)) : (s.onDomains f).eights = s.eights := rfl
@[simp] theorem State.onDomains_progs (s : State) (f : (SMap (Option Domain)) → SMap (Option Domain)) : (s.onDomains f).progs = s.progs := rfl
@[simp] theorem State.onDomains_quads (s : State) (f : (SMap (Option Domain)) → SMap (Option Domain)) : (s.onDomains f).quads = s.quads := rfl
@[simp] theorem State.onDomains_meas (s : State) (f : (SMap (Option Domain)) → SMap (Option Domain)) : (s.onDomains f).meas = s.meas := rfl
@[simp] theorem State.onDomains_slices (s : State) (f : (SMap (Option Domain)) → SMap (Option Domain)) : (s.onDomains f).slices = s.slices := rfl
@[simp] theorem State.onDomains_klg (s : State) (f : (SMap (Option Domain)) → SMap (Option Domain)) : (s.onDomains f).klg = s.klg := rfl
@[simp] theorem State.onDomains_kslots (s : State) (f : (SMap (Option Domain)) → SMap (Option Domain)) : (s.onDomains f).kslots = s.kslots := rfl
@[simp] theorem State.onDomains_kfrees (s : State) (f : (SMap (Option Domain)) → SMap (Option Domain)) : (s.onDomains f).kfrees = s.kfrees := rfl
@[simp] theorem State.onDomains_genBase (s : State) (f : (SMap (Option Domain)) → SMap (Option Domain)) : (s.onDomains f).genBase = s.genBase := rfl
@[simp] theorem State.onDomains_domains (s : State) (f : (SMap (Option Domain)) → SMap (Option Domain)) : (s.onDomains f).domains = f s.domains := rfl
@[simp] theorem State.onDomains_heat (s : State) (f : (SMap (Option Domain)) → SMap (Option Domain)) : (s.onDomains f).heat = s.heat := rfl
@[simp] theorem State.onDomains_aod (s : State) (f : (SMap (Option Domain)) → SMap (Option Domain)) : (s.onDomains f).aod = s.aod := rfl
@[simp] theorem State.onDomains_otp (s : State) (f : (SMap (Option Domain)) → SMap (Option Domain)) : (s.onDomains f).otp = s.otp := rfl
@[simp] theorem State.onDomains_wdg (s : State) (f : (SMap (Option Domain)) → SMap (Option Domain)) : (s.onDomains f).wdg = s.wdg := rfl
@[simp] theorem State.onDomains_tmp (s : State) (f : (SMap (Option Domain)) → SMap (Option Domain)) : (s.onDomains f).tmp = s.tmp := rfl
@[simp] theorem State.onDomains_erg (s : State) (f : (SMap (Option Domain)) → SMap (Option Domain)) : (s.onDomains f).erg = s.erg := rfl
@[simp] theorem State.onDomains_fgt (s : State) (f : (SMap (Option Domain)) → SMap (Option Domain)) : (s.onDomains f).fgt = s.fgt := rfl
@[simp] theorem State.onDomains_psq (s : State) (f : (SMap (Option Domain)) → SMap (Option Domain)) : (s.onDomains f).psq = s.psq := rfl
@[simp] theorem State.onDomains_cci (s : State) (f : (SMap (Option Domain)) → SMap (Option Domain)) : (s.onDomains f).cci = s.cci := rfl
@[simp] theorem State.onDomains_lcs (s : State) (f : (SMap (Option Domain)) → SMap (Option Domain)) : (s.onDomains f).lcs = s.lcs := rfl
@[simp] theorem State.onDomains_dbg (s : State) (f : (SMap (Option Domain)) → SMap (Option Domain)) : (s.onDomains f).dbg = s.dbg := rfl
@[simp] theorem State.onDomains_bst (s : State) (f : (SMap (Option Domain)) → SMap (Option Domain)) : (s.onDomains f).bst = s.bst := rfl
@[simp] theorem State.onDomains_rng (s : State) (f : (SMap (Option Domain)) → SMap (Option Domain)) : (s.onDomains f).rng = s.rng := rfl
@[simp] theorem State.onDomains_ump (s : State) (f : (SMap (Option Domain)) → SMap (Option Domain)) : (s.onDomains f).ump = s.ump := rfl
@[simp] theorem State.onDomains_sessions (s : State) (f : (SMap (Option Domain)) → SMap (Option Domain)) : (s.onDomains f).sessions = s.sessions := rfl
@[simp] theorem State.onDomains_spdm (s : State) (f : (SMap (Option Domain)) → SMap (Option Domain)) : (s.onDomains f).spdm = s.spdm := rfl
@[simp] theorem State.onDomains_mon (s : State) (f : (SMap (Option Domain)) → SMap (Option Domain)) : (s.onDomains f).mon = s.mon := rfl
@[simp] theorem State.onDomains_pldm (s : State) (f : (SMap (Option Domain)) → SMap (Option Domain)) : (s.onDomains f).pldm = s.pldm := rfl
@[simp] theorem State.onDomains_store (s : State) (f : (SMap (Option Domain)) → SMap (Option Domain)) : (s.onDomains f).store = s.store := rfl
@[simp] theorem State.onHeat_variant (s : State) (f : Heat → Heat) : (s.onHeat f).variant = s.variant := rfl
@[simp] theorem State.onHeat_pending (s : State) (f : Heat → Heat) : (s.onHeat f).pending = s.pending := rfl
@[simp] theorem State.onHeat_out (s : State) (f : Heat → Heat) : (s.onHeat f).out = s.out := rfl
@[simp] theorem State.onHeat_freeCtr (s : State) (f : Heat → Heat) : (s.onHeat f).freeCtr = s.freeCtr := rfl
@[simp] theorem State.onHeat_hdrs (s : State) (f : Heat → Heat) : (s.onHeat f).hdrs = s.hdrs := rfl
@[simp] theorem State.onHeat_mirrors (s : State) (f : Heat → Heat) : (s.onHeat f).mirrors = s.mirrors := rfl
@[simp] theorem State.onHeat_chip (s : State) (f : Heat → Heat) : (s.onHeat f).chip = s.chip := rfl
@[simp] theorem State.onHeat_pcie (s : State) (f : Heat → Heat) : (s.onHeat f).pcie = s.pcie := rfl
@[simp] theorem State.onHeat_fns (s : State) (f : Heat → Heat) : (s.onHeat f).fns = s.fns := rfl
@[simp] theorem State.onHeat_chans (s : State) (f : Heat → Heat) : (s.onHeat f).chans = s.chans := rfl
@[simp] theorem State.onHeat_gens (s : State) (f : Heat → Heat) : (s.onHeat f).gens = s.gens := rfl
@[simp] theorem State.onHeat_chFreed (s : State) (f : Heat → Heat) : (s.onHeat f).chFreed = s.chFreed := rfl
@[simp] theorem State.onHeat_reqs (s : State) (f : Heat → Heat) : (s.onHeat f).reqs = s.reqs := rfl
@[simp] theorem State.onHeat_nextReq (s : State) (f : Heat → Heat) : (s.onHeat f).nextReq = s.nextReq := rfl
@[simp] theorem State.onHeat_jobs (s : State) (f : Heat → Heat) : (s.onHeat f).jobs = s.jobs := rfl
@[simp] theorem State.onHeat_nextJob (s : State) (f : Heat → Heat) : (s.onHeat f).nextJob = s.nextJob := rfl
@[simp] theorem State.onHeat_msh (s : State) (f : Heat → Heat) : (s.onHeat f).msh = s.msh := rfl
@[simp] theorem State.onHeat_eights (s : State) (f : Heat → Heat) : (s.onHeat f).eights = s.eights := rfl
@[simp] theorem State.onHeat_progs (s : State) (f : Heat → Heat) : (s.onHeat f).progs = s.progs := rfl
@[simp] theorem State.onHeat_quads (s : State) (f : Heat → Heat) : (s.onHeat f).quads = s.quads := rfl
@[simp] theorem State.onHeat_meas (s : State) (f : Heat → Heat) : (s.onHeat f).meas = s.meas := rfl
@[simp] theorem State.onHeat_slices (s : State) (f : Heat → Heat) : (s.onHeat f).slices = s.slices := rfl
@[simp] theorem State.onHeat_klg (s : State) (f : Heat → Heat) : (s.onHeat f).klg = s.klg := rfl
@[simp] theorem State.onHeat_kslots (s : State) (f : Heat → Heat) : (s.onHeat f).kslots = s.kslots := rfl
@[simp] theorem State.onHeat_kfrees (s : State) (f : Heat → Heat) : (s.onHeat f).kfrees = s.kfrees := rfl
@[simp] theorem State.onHeat_genBase (s : State) (f : Heat → Heat) : (s.onHeat f).genBase = s.genBase := rfl
@[simp] theorem State.onHeat_domains (s : State) (f : Heat → Heat) : (s.onHeat f).domains = s.domains := rfl
@[simp] theorem State.onHeat_heat (s : State) (f : Heat → Heat) : (s.onHeat f).heat = f s.heat := rfl
@[simp] theorem State.onHeat_aod (s : State) (f : Heat → Heat) : (s.onHeat f).aod = s.aod := rfl
@[simp] theorem State.onHeat_otp (s : State) (f : Heat → Heat) : (s.onHeat f).otp = s.otp := rfl
@[simp] theorem State.onHeat_wdg (s : State) (f : Heat → Heat) : (s.onHeat f).wdg = s.wdg := rfl
@[simp] theorem State.onHeat_tmp (s : State) (f : Heat → Heat) : (s.onHeat f).tmp = s.tmp := rfl
@[simp] theorem State.onHeat_erg (s : State) (f : Heat → Heat) : (s.onHeat f).erg = s.erg := rfl
@[simp] theorem State.onHeat_fgt (s : State) (f : Heat → Heat) : (s.onHeat f).fgt = s.fgt := rfl
@[simp] theorem State.onHeat_psq (s : State) (f : Heat → Heat) : (s.onHeat f).psq = s.psq := rfl
@[simp] theorem State.onHeat_cci (s : State) (f : Heat → Heat) : (s.onHeat f).cci = s.cci := rfl
@[simp] theorem State.onHeat_lcs (s : State) (f : Heat → Heat) : (s.onHeat f).lcs = s.lcs := rfl
@[simp] theorem State.onHeat_dbg (s : State) (f : Heat → Heat) : (s.onHeat f).dbg = s.dbg := rfl
@[simp] theorem State.onHeat_bst (s : State) (f : Heat → Heat) : (s.onHeat f).bst = s.bst := rfl
@[simp] theorem State.onHeat_rng (s : State) (f : Heat → Heat) : (s.onHeat f).rng = s.rng := rfl
@[simp] theorem State.onHeat_ump (s : State) (f : Heat → Heat) : (s.onHeat f).ump = s.ump := rfl
@[simp] theorem State.onHeat_sessions (s : State) (f : Heat → Heat) : (s.onHeat f).sessions = s.sessions := rfl
@[simp] theorem State.onHeat_spdm (s : State) (f : Heat → Heat) : (s.onHeat f).spdm = s.spdm := rfl
@[simp] theorem State.onHeat_mon (s : State) (f : Heat → Heat) : (s.onHeat f).mon = s.mon := rfl
@[simp] theorem State.onHeat_pldm (s : State) (f : Heat → Heat) : (s.onHeat f).pldm = s.pldm := rfl
@[simp] theorem State.onHeat_store (s : State) (f : Heat → Heat) : (s.onHeat f).store = s.store := rfl
@[simp] theorem State.onAod_variant (s : State) (f : Aod → Aod) : (s.onAod f).variant = s.variant := rfl
@[simp] theorem State.onAod_pending (s : State) (f : Aod → Aod) : (s.onAod f).pending = s.pending := rfl
@[simp] theorem State.onAod_out (s : State) (f : Aod → Aod) : (s.onAod f).out = s.out := rfl
@[simp] theorem State.onAod_freeCtr (s : State) (f : Aod → Aod) : (s.onAod f).freeCtr = s.freeCtr := rfl
@[simp] theorem State.onAod_hdrs (s : State) (f : Aod → Aod) : (s.onAod f).hdrs = s.hdrs := rfl
@[simp] theorem State.onAod_mirrors (s : State) (f : Aod → Aod) : (s.onAod f).mirrors = s.mirrors := rfl
@[simp] theorem State.onAod_chip (s : State) (f : Aod → Aod) : (s.onAod f).chip = s.chip := rfl
@[simp] theorem State.onAod_pcie (s : State) (f : Aod → Aod) : (s.onAod f).pcie = s.pcie := rfl
@[simp] theorem State.onAod_fns (s : State) (f : Aod → Aod) : (s.onAod f).fns = s.fns := rfl
@[simp] theorem State.onAod_chans (s : State) (f : Aod → Aod) : (s.onAod f).chans = s.chans := rfl
@[simp] theorem State.onAod_gens (s : State) (f : Aod → Aod) : (s.onAod f).gens = s.gens := rfl
@[simp] theorem State.onAod_chFreed (s : State) (f : Aod → Aod) : (s.onAod f).chFreed = s.chFreed := rfl
@[simp] theorem State.onAod_reqs (s : State) (f : Aod → Aod) : (s.onAod f).reqs = s.reqs := rfl
@[simp] theorem State.onAod_nextReq (s : State) (f : Aod → Aod) : (s.onAod f).nextReq = s.nextReq := rfl
@[simp] theorem State.onAod_jobs (s : State) (f : Aod → Aod) : (s.onAod f).jobs = s.jobs := rfl
@[simp] theorem State.onAod_nextJob (s : State) (f : Aod → Aod) : (s.onAod f).nextJob = s.nextJob := rfl
@[simp] theorem State.onAod_msh (s : State) (f : Aod → Aod) : (s.onAod f).msh = s.msh := rfl
@[simp] theorem State.onAod_eights (s : State) (f : Aod → Aod) : (s.onAod f).eights = s.eights := rfl
@[simp] theorem State.onAod_progs (s : State) (f : Aod → Aod) : (s.onAod f).progs = s.progs := rfl
@[simp] theorem State.onAod_quads (s : State) (f : Aod → Aod) : (s.onAod f).quads = s.quads := rfl
@[simp] theorem State.onAod_meas (s : State) (f : Aod → Aod) : (s.onAod f).meas = s.meas := rfl
@[simp] theorem State.onAod_slices (s : State) (f : Aod → Aod) : (s.onAod f).slices = s.slices := rfl
@[simp] theorem State.onAod_klg (s : State) (f : Aod → Aod) : (s.onAod f).klg = s.klg := rfl
@[simp] theorem State.onAod_kslots (s : State) (f : Aod → Aod) : (s.onAod f).kslots = s.kslots := rfl
@[simp] theorem State.onAod_kfrees (s : State) (f : Aod → Aod) : (s.onAod f).kfrees = s.kfrees := rfl
@[simp] theorem State.onAod_genBase (s : State) (f : Aod → Aod) : (s.onAod f).genBase = s.genBase := rfl
@[simp] theorem State.onAod_domains (s : State) (f : Aod → Aod) : (s.onAod f).domains = s.domains := rfl
@[simp] theorem State.onAod_heat (s : State) (f : Aod → Aod) : (s.onAod f).heat = s.heat := rfl
@[simp] theorem State.onAod_aod (s : State) (f : Aod → Aod) : (s.onAod f).aod = f s.aod := rfl
@[simp] theorem State.onAod_otp (s : State) (f : Aod → Aod) : (s.onAod f).otp = s.otp := rfl
@[simp] theorem State.onAod_wdg (s : State) (f : Aod → Aod) : (s.onAod f).wdg = s.wdg := rfl
@[simp] theorem State.onAod_tmp (s : State) (f : Aod → Aod) : (s.onAod f).tmp = s.tmp := rfl
@[simp] theorem State.onAod_erg (s : State) (f : Aod → Aod) : (s.onAod f).erg = s.erg := rfl
@[simp] theorem State.onAod_fgt (s : State) (f : Aod → Aod) : (s.onAod f).fgt = s.fgt := rfl
@[simp] theorem State.onAod_psq (s : State) (f : Aod → Aod) : (s.onAod f).psq = s.psq := rfl
@[simp] theorem State.onAod_cci (s : State) (f : Aod → Aod) : (s.onAod f).cci = s.cci := rfl
@[simp] theorem State.onAod_lcs (s : State) (f : Aod → Aod) : (s.onAod f).lcs = s.lcs := rfl
@[simp] theorem State.onAod_dbg (s : State) (f : Aod → Aod) : (s.onAod f).dbg = s.dbg := rfl
@[simp] theorem State.onAod_bst (s : State) (f : Aod → Aod) : (s.onAod f).bst = s.bst := rfl
@[simp] theorem State.onAod_rng (s : State) (f : Aod → Aod) : (s.onAod f).rng = s.rng := rfl
@[simp] theorem State.onAod_ump (s : State) (f : Aod → Aod) : (s.onAod f).ump = s.ump := rfl
@[simp] theorem State.onAod_sessions (s : State) (f : Aod → Aod) : (s.onAod f).sessions = s.sessions := rfl
@[simp] theorem State.onAod_spdm (s : State) (f : Aod → Aod) : (s.onAod f).spdm = s.spdm := rfl
@[simp] theorem State.onAod_mon (s : State) (f : Aod → Aod) : (s.onAod f).mon = s.mon := rfl
@[simp] theorem State.onAod_pldm (s : State) (f : Aod → Aod) : (s.onAod f).pldm = s.pldm := rfl
@[simp] theorem State.onAod_store (s : State) (f : Aod → Aod) : (s.onAod f).store = s.store := rfl
@[simp] theorem State.onOtp_variant (s : State) (f : Otp → Otp) : (s.onOtp f).variant = s.variant := rfl
@[simp] theorem State.onOtp_pending (s : State) (f : Otp → Otp) : (s.onOtp f).pending = s.pending := rfl
@[simp] theorem State.onOtp_out (s : State) (f : Otp → Otp) : (s.onOtp f).out = s.out := rfl
@[simp] theorem State.onOtp_freeCtr (s : State) (f : Otp → Otp) : (s.onOtp f).freeCtr = s.freeCtr := rfl
@[simp] theorem State.onOtp_hdrs (s : State) (f : Otp → Otp) : (s.onOtp f).hdrs = s.hdrs := rfl
@[simp] theorem State.onOtp_mirrors (s : State) (f : Otp → Otp) : (s.onOtp f).mirrors = s.mirrors := rfl
@[simp] theorem State.onOtp_chip (s : State) (f : Otp → Otp) : (s.onOtp f).chip = s.chip := rfl
@[simp] theorem State.onOtp_pcie (s : State) (f : Otp → Otp) : (s.onOtp f).pcie = s.pcie := rfl
@[simp] theorem State.onOtp_fns (s : State) (f : Otp → Otp) : (s.onOtp f).fns = s.fns := rfl
@[simp] theorem State.onOtp_chans (s : State) (f : Otp → Otp) : (s.onOtp f).chans = s.chans := rfl
@[simp] theorem State.onOtp_gens (s : State) (f : Otp → Otp) : (s.onOtp f).gens = s.gens := rfl
@[simp] theorem State.onOtp_chFreed (s : State) (f : Otp → Otp) : (s.onOtp f).chFreed = s.chFreed := rfl
@[simp] theorem State.onOtp_reqs (s : State) (f : Otp → Otp) : (s.onOtp f).reqs = s.reqs := rfl
@[simp] theorem State.onOtp_nextReq (s : State) (f : Otp → Otp) : (s.onOtp f).nextReq = s.nextReq := rfl
@[simp] theorem State.onOtp_jobs (s : State) (f : Otp → Otp) : (s.onOtp f).jobs = s.jobs := rfl
@[simp] theorem State.onOtp_nextJob (s : State) (f : Otp → Otp) : (s.onOtp f).nextJob = s.nextJob := rfl
@[simp] theorem State.onOtp_msh (s : State) (f : Otp → Otp) : (s.onOtp f).msh = s.msh := rfl
@[simp] theorem State.onOtp_eights (s : State) (f : Otp → Otp) : (s.onOtp f).eights = s.eights := rfl
@[simp] theorem State.onOtp_progs (s : State) (f : Otp → Otp) : (s.onOtp f).progs = s.progs := rfl
@[simp] theorem State.onOtp_quads (s : State) (f : Otp → Otp) : (s.onOtp f).quads = s.quads := rfl
@[simp] theorem State.onOtp_meas (s : State) (f : Otp → Otp) : (s.onOtp f).meas = s.meas := rfl
@[simp] theorem State.onOtp_slices (s : State) (f : Otp → Otp) : (s.onOtp f).slices = s.slices := rfl
@[simp] theorem State.onOtp_klg (s : State) (f : Otp → Otp) : (s.onOtp f).klg = s.klg := rfl
@[simp] theorem State.onOtp_kslots (s : State) (f : Otp → Otp) : (s.onOtp f).kslots = s.kslots := rfl
@[simp] theorem State.onOtp_kfrees (s : State) (f : Otp → Otp) : (s.onOtp f).kfrees = s.kfrees := rfl
@[simp] theorem State.onOtp_genBase (s : State) (f : Otp → Otp) : (s.onOtp f).genBase = s.genBase := rfl
@[simp] theorem State.onOtp_domains (s : State) (f : Otp → Otp) : (s.onOtp f).domains = s.domains := rfl
@[simp] theorem State.onOtp_heat (s : State) (f : Otp → Otp) : (s.onOtp f).heat = s.heat := rfl
@[simp] theorem State.onOtp_aod (s : State) (f : Otp → Otp) : (s.onOtp f).aod = s.aod := rfl
@[simp] theorem State.onOtp_otp (s : State) (f : Otp → Otp) : (s.onOtp f).otp = f s.otp := rfl
@[simp] theorem State.onOtp_wdg (s : State) (f : Otp → Otp) : (s.onOtp f).wdg = s.wdg := rfl
@[simp] theorem State.onOtp_tmp (s : State) (f : Otp → Otp) : (s.onOtp f).tmp = s.tmp := rfl
@[simp] theorem State.onOtp_erg (s : State) (f : Otp → Otp) : (s.onOtp f).erg = s.erg := rfl
@[simp] theorem State.onOtp_fgt (s : State) (f : Otp → Otp) : (s.onOtp f).fgt = s.fgt := rfl
@[simp] theorem State.onOtp_psq (s : State) (f : Otp → Otp) : (s.onOtp f).psq = s.psq := rfl
@[simp] theorem State.onOtp_cci (s : State) (f : Otp → Otp) : (s.onOtp f).cci = s.cci := rfl
@[simp] theorem State.onOtp_lcs (s : State) (f : Otp → Otp) : (s.onOtp f).lcs = s.lcs := rfl
@[simp] theorem State.onOtp_dbg (s : State) (f : Otp → Otp) : (s.onOtp f).dbg = s.dbg := rfl
@[simp] theorem State.onOtp_bst (s : State) (f : Otp → Otp) : (s.onOtp f).bst = s.bst := rfl
@[simp] theorem State.onOtp_rng (s : State) (f : Otp → Otp) : (s.onOtp f).rng = s.rng := rfl
@[simp] theorem State.onOtp_ump (s : State) (f : Otp → Otp) : (s.onOtp f).ump = s.ump := rfl
@[simp] theorem State.onOtp_sessions (s : State) (f : Otp → Otp) : (s.onOtp f).sessions = s.sessions := rfl
@[simp] theorem State.onOtp_spdm (s : State) (f : Otp → Otp) : (s.onOtp f).spdm = s.spdm := rfl
@[simp] theorem State.onOtp_mon (s : State) (f : Otp → Otp) : (s.onOtp f).mon = s.mon := rfl
@[simp] theorem State.onOtp_pldm (s : State) (f : Otp → Otp) : (s.onOtp f).pldm = s.pldm := rfl
@[simp] theorem State.onOtp_store (s : State) (f : Otp → Otp) : (s.onOtp f).store = s.store := rfl
@[simp] theorem State.onWdg_variant (s : State) (f : Wdg → Wdg) : (s.onWdg f).variant = s.variant := rfl
@[simp] theorem State.onWdg_pending (s : State) (f : Wdg → Wdg) : (s.onWdg f).pending = s.pending := rfl
@[simp] theorem State.onWdg_out (s : State) (f : Wdg → Wdg) : (s.onWdg f).out = s.out := rfl
@[simp] theorem State.onWdg_freeCtr (s : State) (f : Wdg → Wdg) : (s.onWdg f).freeCtr = s.freeCtr := rfl
@[simp] theorem State.onWdg_hdrs (s : State) (f : Wdg → Wdg) : (s.onWdg f).hdrs = s.hdrs := rfl
@[simp] theorem State.onWdg_mirrors (s : State) (f : Wdg → Wdg) : (s.onWdg f).mirrors = s.mirrors := rfl
@[simp] theorem State.onWdg_chip (s : State) (f : Wdg → Wdg) : (s.onWdg f).chip = s.chip := rfl
@[simp] theorem State.onWdg_pcie (s : State) (f : Wdg → Wdg) : (s.onWdg f).pcie = s.pcie := rfl
@[simp] theorem State.onWdg_fns (s : State) (f : Wdg → Wdg) : (s.onWdg f).fns = s.fns := rfl
@[simp] theorem State.onWdg_chans (s : State) (f : Wdg → Wdg) : (s.onWdg f).chans = s.chans := rfl
@[simp] theorem State.onWdg_gens (s : State) (f : Wdg → Wdg) : (s.onWdg f).gens = s.gens := rfl
@[simp] theorem State.onWdg_chFreed (s : State) (f : Wdg → Wdg) : (s.onWdg f).chFreed = s.chFreed := rfl
@[simp] theorem State.onWdg_reqs (s : State) (f : Wdg → Wdg) : (s.onWdg f).reqs = s.reqs := rfl
@[simp] theorem State.onWdg_nextReq (s : State) (f : Wdg → Wdg) : (s.onWdg f).nextReq = s.nextReq := rfl
@[simp] theorem State.onWdg_jobs (s : State) (f : Wdg → Wdg) : (s.onWdg f).jobs = s.jobs := rfl
@[simp] theorem State.onWdg_nextJob (s : State) (f : Wdg → Wdg) : (s.onWdg f).nextJob = s.nextJob := rfl
@[simp] theorem State.onWdg_msh (s : State) (f : Wdg → Wdg) : (s.onWdg f).msh = s.msh := rfl
@[simp] theorem State.onWdg_eights (s : State) (f : Wdg → Wdg) : (s.onWdg f).eights = s.eights := rfl
@[simp] theorem State.onWdg_progs (s : State) (f : Wdg → Wdg) : (s.onWdg f).progs = s.progs := rfl
@[simp] theorem State.onWdg_quads (s : State) (f : Wdg → Wdg) : (s.onWdg f).quads = s.quads := rfl
@[simp] theorem State.onWdg_meas (s : State) (f : Wdg → Wdg) : (s.onWdg f).meas = s.meas := rfl
@[simp] theorem State.onWdg_slices (s : State) (f : Wdg → Wdg) : (s.onWdg f).slices = s.slices := rfl
@[simp] theorem State.onWdg_klg (s : State) (f : Wdg → Wdg) : (s.onWdg f).klg = s.klg := rfl
@[simp] theorem State.onWdg_kslots (s : State) (f : Wdg → Wdg) : (s.onWdg f).kslots = s.kslots := rfl
@[simp] theorem State.onWdg_kfrees (s : State) (f : Wdg → Wdg) : (s.onWdg f).kfrees = s.kfrees := rfl
@[simp] theorem State.onWdg_genBase (s : State) (f : Wdg → Wdg) : (s.onWdg f).genBase = s.genBase := rfl
@[simp] theorem State.onWdg_domains (s : State) (f : Wdg → Wdg) : (s.onWdg f).domains = s.domains := rfl
@[simp] theorem State.onWdg_heat (s : State) (f : Wdg → Wdg) : (s.onWdg f).heat = s.heat := rfl
@[simp] theorem State.onWdg_aod (s : State) (f : Wdg → Wdg) : (s.onWdg f).aod = s.aod := rfl
@[simp] theorem State.onWdg_otp (s : State) (f : Wdg → Wdg) : (s.onWdg f).otp = s.otp := rfl
@[simp] theorem State.onWdg_wdg (s : State) (f : Wdg → Wdg) : (s.onWdg f).wdg = f s.wdg := rfl
@[simp] theorem State.onWdg_tmp (s : State) (f : Wdg → Wdg) : (s.onWdg f).tmp = s.tmp := rfl
@[simp] theorem State.onWdg_erg (s : State) (f : Wdg → Wdg) : (s.onWdg f).erg = s.erg := rfl
@[simp] theorem State.onWdg_fgt (s : State) (f : Wdg → Wdg) : (s.onWdg f).fgt = s.fgt := rfl
@[simp] theorem State.onWdg_psq (s : State) (f : Wdg → Wdg) : (s.onWdg f).psq = s.psq := rfl
@[simp] theorem State.onWdg_cci (s : State) (f : Wdg → Wdg) : (s.onWdg f).cci = s.cci := rfl
@[simp] theorem State.onWdg_lcs (s : State) (f : Wdg → Wdg) : (s.onWdg f).lcs = s.lcs := rfl
@[simp] theorem State.onWdg_dbg (s : State) (f : Wdg → Wdg) : (s.onWdg f).dbg = s.dbg := rfl
@[simp] theorem State.onWdg_bst (s : State) (f : Wdg → Wdg) : (s.onWdg f).bst = s.bst := rfl
@[simp] theorem State.onWdg_rng (s : State) (f : Wdg → Wdg) : (s.onWdg f).rng = s.rng := rfl
@[simp] theorem State.onWdg_ump (s : State) (f : Wdg → Wdg) : (s.onWdg f).ump = s.ump := rfl
@[simp] theorem State.onWdg_sessions (s : State) (f : Wdg → Wdg) : (s.onWdg f).sessions = s.sessions := rfl
@[simp] theorem State.onWdg_spdm (s : State) (f : Wdg → Wdg) : (s.onWdg f).spdm = s.spdm := rfl
@[simp] theorem State.onWdg_mon (s : State) (f : Wdg → Wdg) : (s.onWdg f).mon = s.mon := rfl
@[simp] theorem State.onWdg_pldm (s : State) (f : Wdg → Wdg) : (s.onWdg f).pldm = s.pldm := rfl
@[simp] theorem State.onWdg_store (s : State) (f : Wdg → Wdg) : (s.onWdg f).store = s.store := rfl
@[simp] theorem State.onTmp_variant (s : State) (f : Tmp → Tmp) : (s.onTmp f).variant = s.variant := rfl
@[simp] theorem State.onTmp_pending (s : State) (f : Tmp → Tmp) : (s.onTmp f).pending = s.pending := rfl
@[simp] theorem State.onTmp_out (s : State) (f : Tmp → Tmp) : (s.onTmp f).out = s.out := rfl
@[simp] theorem State.onTmp_freeCtr (s : State) (f : Tmp → Tmp) : (s.onTmp f).freeCtr = s.freeCtr := rfl
@[simp] theorem State.onTmp_hdrs (s : State) (f : Tmp → Tmp) : (s.onTmp f).hdrs = s.hdrs := rfl
@[simp] theorem State.onTmp_mirrors (s : State) (f : Tmp → Tmp) : (s.onTmp f).mirrors = s.mirrors := rfl
@[simp] theorem State.onTmp_chip (s : State) (f : Tmp → Tmp) : (s.onTmp f).chip = s.chip := rfl
@[simp] theorem State.onTmp_pcie (s : State) (f : Tmp → Tmp) : (s.onTmp f).pcie = s.pcie := rfl
@[simp] theorem State.onTmp_fns (s : State) (f : Tmp → Tmp) : (s.onTmp f).fns = s.fns := rfl
@[simp] theorem State.onTmp_chans (s : State) (f : Tmp → Tmp) : (s.onTmp f).chans = s.chans := rfl
@[simp] theorem State.onTmp_gens (s : State) (f : Tmp → Tmp) : (s.onTmp f).gens = s.gens := rfl
@[simp] theorem State.onTmp_chFreed (s : State) (f : Tmp → Tmp) : (s.onTmp f).chFreed = s.chFreed := rfl
@[simp] theorem State.onTmp_reqs (s : State) (f : Tmp → Tmp) : (s.onTmp f).reqs = s.reqs := rfl
@[simp] theorem State.onTmp_nextReq (s : State) (f : Tmp → Tmp) : (s.onTmp f).nextReq = s.nextReq := rfl
@[simp] theorem State.onTmp_jobs (s : State) (f : Tmp → Tmp) : (s.onTmp f).jobs = s.jobs := rfl
@[simp] theorem State.onTmp_nextJob (s : State) (f : Tmp → Tmp) : (s.onTmp f).nextJob = s.nextJob := rfl
@[simp] theorem State.onTmp_msh (s : State) (f : Tmp → Tmp) : (s.onTmp f).msh = s.msh := rfl
@[simp] theorem State.onTmp_eights (s : State) (f : Tmp → Tmp) : (s.onTmp f).eights = s.eights := rfl
@[simp] theorem State.onTmp_progs (s : State) (f : Tmp → Tmp) : (s.onTmp f).progs = s.progs := rfl
@[simp] theorem State.onTmp_quads (s : State) (f : Tmp → Tmp) : (s.onTmp f).quads = s.quads := rfl
@[simp] theorem State.onTmp_meas (s : State) (f : Tmp → Tmp) : (s.onTmp f).meas = s.meas := rfl
@[simp] theorem State.onTmp_slices (s : State) (f : Tmp → Tmp) : (s.onTmp f).slices = s.slices := rfl
@[simp] theorem State.onTmp_klg (s : State) (f : Tmp → Tmp) : (s.onTmp f).klg = s.klg := rfl
@[simp] theorem State.onTmp_kslots (s : State) (f : Tmp → Tmp) : (s.onTmp f).kslots = s.kslots := rfl
@[simp] theorem State.onTmp_kfrees (s : State) (f : Tmp → Tmp) : (s.onTmp f).kfrees = s.kfrees := rfl
@[simp] theorem State.onTmp_genBase (s : State) (f : Tmp → Tmp) : (s.onTmp f).genBase = s.genBase := rfl
@[simp] theorem State.onTmp_domains (s : State) (f : Tmp → Tmp) : (s.onTmp f).domains = s.domains := rfl
@[simp] theorem State.onTmp_heat (s : State) (f : Tmp → Tmp) : (s.onTmp f).heat = s.heat := rfl
@[simp] theorem State.onTmp_aod (s : State) (f : Tmp → Tmp) : (s.onTmp f).aod = s.aod := rfl
@[simp] theorem State.onTmp_otp (s : State) (f : Tmp → Tmp) : (s.onTmp f).otp = s.otp := rfl
@[simp] theorem State.onTmp_wdg (s : State) (f : Tmp → Tmp) : (s.onTmp f).wdg = s.wdg := rfl
@[simp] theorem State.onTmp_tmp (s : State) (f : Tmp → Tmp) : (s.onTmp f).tmp = f s.tmp := rfl
@[simp] theorem State.onTmp_erg (s : State) (f : Tmp → Tmp) : (s.onTmp f).erg = s.erg := rfl
@[simp] theorem State.onTmp_fgt (s : State) (f : Tmp → Tmp) : (s.onTmp f).fgt = s.fgt := rfl
@[simp] theorem State.onTmp_psq (s : State) (f : Tmp → Tmp) : (s.onTmp f).psq = s.psq := rfl
@[simp] theorem State.onTmp_cci (s : State) (f : Tmp → Tmp) : (s.onTmp f).cci = s.cci := rfl
@[simp] theorem State.onTmp_lcs (s : State) (f : Tmp → Tmp) : (s.onTmp f).lcs = s.lcs := rfl
@[simp] theorem State.onTmp_dbg (s : State) (f : Tmp → Tmp) : (s.onTmp f).dbg = s.dbg := rfl
@[simp] theorem State.onTmp_bst (s : State) (f : Tmp → Tmp) : (s.onTmp f).bst = s.bst := rfl
@[simp] theorem State.onTmp_rng (s : State) (f : Tmp → Tmp) : (s.onTmp f).rng = s.rng := rfl
@[simp] theorem State.onTmp_ump (s : State) (f : Tmp → Tmp) : (s.onTmp f).ump = s.ump := rfl
@[simp] theorem State.onTmp_sessions (s : State) (f : Tmp → Tmp) : (s.onTmp f).sessions = s.sessions := rfl
@[simp] theorem State.onTmp_spdm (s : State) (f : Tmp → Tmp) : (s.onTmp f).spdm = s.spdm := rfl
@[simp] theorem State.onTmp_mon (s : State) (f : Tmp → Tmp) : (s.onTmp f).mon = s.mon := rfl
@[simp] theorem State.onTmp_pldm (s : State) (f : Tmp → Tmp) : (s.onTmp f).pldm = s.pldm := rfl
@[simp] theorem State.onTmp_store (s : State) (f : Tmp → Tmp) : (s.onTmp f).store = s.store := rfl
@[simp] theorem State.onErg_variant (s : State) (f : Erg → Erg) : (s.onErg f).variant = s.variant := rfl
@[simp] theorem State.onErg_pending (s : State) (f : Erg → Erg) : (s.onErg f).pending = s.pending := rfl
@[simp] theorem State.onErg_out (s : State) (f : Erg → Erg) : (s.onErg f).out = s.out := rfl
@[simp] theorem State.onErg_freeCtr (s : State) (f : Erg → Erg) : (s.onErg f).freeCtr = s.freeCtr := rfl
@[simp] theorem State.onErg_hdrs (s : State) (f : Erg → Erg) : (s.onErg f).hdrs = s.hdrs := rfl
@[simp] theorem State.onErg_mirrors (s : State) (f : Erg → Erg) : (s.onErg f).mirrors = s.mirrors := rfl
@[simp] theorem State.onErg_chip (s : State) (f : Erg → Erg) : (s.onErg f).chip = s.chip := rfl
@[simp] theorem State.onErg_pcie (s : State) (f : Erg → Erg) : (s.onErg f).pcie = s.pcie := rfl
@[simp] theorem State.onErg_fns (s : State) (f : Erg → Erg) : (s.onErg f).fns = s.fns := rfl
@[simp] theorem State.onErg_chans (s : State) (f : Erg → Erg) : (s.onErg f).chans = s.chans := rfl
@[simp] theorem State.onErg_gens (s : State) (f : Erg → Erg) : (s.onErg f).gens = s.gens := rfl
@[simp] theorem State.onErg_chFreed (s : State) (f : Erg → Erg) : (s.onErg f).chFreed = s.chFreed := rfl
@[simp] theorem State.onErg_reqs (s : State) (f : Erg → Erg) : (s.onErg f).reqs = s.reqs := rfl
@[simp] theorem State.onErg_nextReq (s : State) (f : Erg → Erg) : (s.onErg f).nextReq = s.nextReq := rfl
@[simp] theorem State.onErg_jobs (s : State) (f : Erg → Erg) : (s.onErg f).jobs = s.jobs := rfl
@[simp] theorem State.onErg_nextJob (s : State) (f : Erg → Erg) : (s.onErg f).nextJob = s.nextJob := rfl
@[simp] theorem State.onErg_msh (s : State) (f : Erg → Erg) : (s.onErg f).msh = s.msh := rfl
@[simp] theorem State.onErg_eights (s : State) (f : Erg → Erg) : (s.onErg f).eights = s.eights := rfl
@[simp] theorem State.onErg_progs (s : State) (f : Erg → Erg) : (s.onErg f).progs = s.progs := rfl
@[simp] theorem State.onErg_quads (s : State) (f : Erg → Erg) : (s.onErg f).quads = s.quads := rfl
@[simp] theorem State.onErg_meas (s : State) (f : Erg → Erg) : (s.onErg f).meas = s.meas := rfl
@[simp] theorem State.onErg_slices (s : State) (f : Erg → Erg) : (s.onErg f).slices = s.slices := rfl
@[simp] theorem State.onErg_klg (s : State) (f : Erg → Erg) : (s.onErg f).klg = s.klg := rfl
@[simp] theorem State.onErg_kslots (s : State) (f : Erg → Erg) : (s.onErg f).kslots = s.kslots := rfl
@[simp] theorem State.onErg_kfrees (s : State) (f : Erg → Erg) : (s.onErg f).kfrees = s.kfrees := rfl
@[simp] theorem State.onErg_genBase (s : State) (f : Erg → Erg) : (s.onErg f).genBase = s.genBase := rfl
@[simp] theorem State.onErg_domains (s : State) (f : Erg → Erg) : (s.onErg f).domains = s.domains := rfl
@[simp] theorem State.onErg_heat (s : State) (f : Erg → Erg) : (s.onErg f).heat = s.heat := rfl
@[simp] theorem State.onErg_aod (s : State) (f : Erg → Erg) : (s.onErg f).aod = s.aod := rfl
@[simp] theorem State.onErg_otp (s : State) (f : Erg → Erg) : (s.onErg f).otp = s.otp := rfl
@[simp] theorem State.onErg_wdg (s : State) (f : Erg → Erg) : (s.onErg f).wdg = s.wdg := rfl
@[simp] theorem State.onErg_tmp (s : State) (f : Erg → Erg) : (s.onErg f).tmp = s.tmp := rfl
@[simp] theorem State.onErg_erg (s : State) (f : Erg → Erg) : (s.onErg f).erg = f s.erg := rfl
@[simp] theorem State.onErg_fgt (s : State) (f : Erg → Erg) : (s.onErg f).fgt = s.fgt := rfl
@[simp] theorem State.onErg_psq (s : State) (f : Erg → Erg) : (s.onErg f).psq = s.psq := rfl
@[simp] theorem State.onErg_cci (s : State) (f : Erg → Erg) : (s.onErg f).cci = s.cci := rfl
@[simp] theorem State.onErg_lcs (s : State) (f : Erg → Erg) : (s.onErg f).lcs = s.lcs := rfl
@[simp] theorem State.onErg_dbg (s : State) (f : Erg → Erg) : (s.onErg f).dbg = s.dbg := rfl
@[simp] theorem State.onErg_bst (s : State) (f : Erg → Erg) : (s.onErg f).bst = s.bst := rfl
@[simp] theorem State.onErg_rng (s : State) (f : Erg → Erg) : (s.onErg f).rng = s.rng := rfl
@[simp] theorem State.onErg_ump (s : State) (f : Erg → Erg) : (s.onErg f).ump = s.ump := rfl
@[simp] theorem State.onErg_sessions (s : State) (f : Erg → Erg) : (s.onErg f).sessions = s.sessions := rfl
@[simp] theorem State.onErg_spdm (s : State) (f : Erg → Erg) : (s.onErg f).spdm = s.spdm := rfl
@[simp] theorem State.onErg_mon (s : State) (f : Erg → Erg) : (s.onErg f).mon = s.mon := rfl
@[simp] theorem State.onErg_pldm (s : State) (f : Erg → Erg) : (s.onErg f).pldm = s.pldm := rfl
@[simp] theorem State.onErg_store (s : State) (f : Erg → Erg) : (s.onErg f).store = s.store := rfl
@[simp] theorem State.onFgt_variant (s : State) (f : Fgt → Fgt) : (s.onFgt f).variant = s.variant := rfl
@[simp] theorem State.onFgt_pending (s : State) (f : Fgt → Fgt) : (s.onFgt f).pending = s.pending := rfl
@[simp] theorem State.onFgt_out (s : State) (f : Fgt → Fgt) : (s.onFgt f).out = s.out := rfl
@[simp] theorem State.onFgt_freeCtr (s : State) (f : Fgt → Fgt) : (s.onFgt f).freeCtr = s.freeCtr := rfl
@[simp] theorem State.onFgt_hdrs (s : State) (f : Fgt → Fgt) : (s.onFgt f).hdrs = s.hdrs := rfl
@[simp] theorem State.onFgt_mirrors (s : State) (f : Fgt → Fgt) : (s.onFgt f).mirrors = s.mirrors := rfl
@[simp] theorem State.onFgt_chip (s : State) (f : Fgt → Fgt) : (s.onFgt f).chip = s.chip := rfl
@[simp] theorem State.onFgt_pcie (s : State) (f : Fgt → Fgt) : (s.onFgt f).pcie = s.pcie := rfl
@[simp] theorem State.onFgt_fns (s : State) (f : Fgt → Fgt) : (s.onFgt f).fns = s.fns := rfl
@[simp] theorem State.onFgt_chans (s : State) (f : Fgt → Fgt) : (s.onFgt f).chans = s.chans := rfl
@[simp] theorem State.onFgt_gens (s : State) (f : Fgt → Fgt) : (s.onFgt f).gens = s.gens := rfl
@[simp] theorem State.onFgt_chFreed (s : State) (f : Fgt → Fgt) : (s.onFgt f).chFreed = s.chFreed := rfl
@[simp] theorem State.onFgt_reqs (s : State) (f : Fgt → Fgt) : (s.onFgt f).reqs = s.reqs := rfl
@[simp] theorem State.onFgt_nextReq (s : State) (f : Fgt → Fgt) : (s.onFgt f).nextReq = s.nextReq := rfl
@[simp] theorem State.onFgt_jobs (s : State) (f : Fgt → Fgt) : (s.onFgt f).jobs = s.jobs := rfl
@[simp] theorem State.onFgt_nextJob (s : State) (f : Fgt → Fgt) : (s.onFgt f).nextJob = s.nextJob := rfl
@[simp] theorem State.onFgt_msh (s : State) (f : Fgt → Fgt) : (s.onFgt f).msh = s.msh := rfl
@[simp] theorem State.onFgt_eights (s : State) (f : Fgt → Fgt) : (s.onFgt f).eights = s.eights := rfl
@[simp] theorem State.onFgt_progs (s : State) (f : Fgt → Fgt) : (s.onFgt f).progs = s.progs := rfl
@[simp] theorem State.onFgt_quads (s : State) (f : Fgt → Fgt) : (s.onFgt f).quads = s.quads := rfl
@[simp] theorem State.onFgt_meas (s : State) (f : Fgt → Fgt) : (s.onFgt f).meas = s.meas := rfl
@[simp] theorem State.onFgt_slices (s : State) (f : Fgt → Fgt) : (s.onFgt f).slices = s.slices := rfl
@[simp] theorem State.onFgt_klg (s : State) (f : Fgt → Fgt) : (s.onFgt f).klg = s.klg := rfl
@[simp] theorem State.onFgt_kslots (s : State) (f : Fgt → Fgt) : (s.onFgt f).kslots = s.kslots := rfl
@[simp] theorem State.onFgt_kfrees (s : State) (f : Fgt → Fgt) : (s.onFgt f).kfrees = s.kfrees := rfl
@[simp] theorem State.onFgt_genBase (s : State) (f : Fgt → Fgt) : (s.onFgt f).genBase = s.genBase := rfl
@[simp] theorem State.onFgt_domains (s : State) (f : Fgt → Fgt) : (s.onFgt f).domains = s.domains := rfl
@[simp] theorem State.onFgt_heat (s : State) (f : Fgt → Fgt) : (s.onFgt f).heat = s.heat := rfl
@[simp] theorem State.onFgt_aod (s : State) (f : Fgt → Fgt) : (s.onFgt f).aod = s.aod := rfl
@[simp] theorem State.onFgt_otp (s : State) (f : Fgt → Fgt) : (s.onFgt f).otp = s.otp := rfl
@[simp] theorem State.onFgt_wdg (s : State) (f : Fgt → Fgt) : (s.onFgt f).wdg = s.wdg := rfl
@[simp] theorem State.onFgt_tmp (s : State) (f : Fgt → Fgt) : (s.onFgt f).tmp = s.tmp := rfl
@[simp] theorem State.onFgt_erg (s : State) (f : Fgt → Fgt) : (s.onFgt f).erg = s.erg := rfl
@[simp] theorem State.onFgt_fgt (s : State) (f : Fgt → Fgt) : (s.onFgt f).fgt = f s.fgt := rfl
@[simp] theorem State.onFgt_psq (s : State) (f : Fgt → Fgt) : (s.onFgt f).psq = s.psq := rfl
@[simp] theorem State.onFgt_cci (s : State) (f : Fgt → Fgt) : (s.onFgt f).cci = s.cci := rfl
@[simp] theorem State.onFgt_lcs (s : State) (f : Fgt → Fgt) : (s.onFgt f).lcs = s.lcs := rfl
@[simp] theorem State.onFgt_dbg (s : State) (f : Fgt → Fgt) : (s.onFgt f).dbg = s.dbg := rfl
@[simp] theorem State.onFgt_bst (s : State) (f : Fgt → Fgt) : (s.onFgt f).bst = s.bst := rfl
@[simp] theorem State.onFgt_rng (s : State) (f : Fgt → Fgt) : (s.onFgt f).rng = s.rng := rfl
@[simp] theorem State.onFgt_ump (s : State) (f : Fgt → Fgt) : (s.onFgt f).ump = s.ump := rfl
@[simp] theorem State.onFgt_sessions (s : State) (f : Fgt → Fgt) : (s.onFgt f).sessions = s.sessions := rfl
@[simp] theorem State.onFgt_spdm (s : State) (f : Fgt → Fgt) : (s.onFgt f).spdm = s.spdm := rfl
@[simp] theorem State.onFgt_mon (s : State) (f : Fgt → Fgt) : (s.onFgt f).mon = s.mon := rfl
@[simp] theorem State.onFgt_pldm (s : State) (f : Fgt → Fgt) : (s.onFgt f).pldm = s.pldm := rfl
@[simp] theorem State.onFgt_store (s : State) (f : Fgt → Fgt) : (s.onFgt f).store = s.store := rfl
@[simp] theorem State.onPsq_variant (s : State) (f : Psq → Psq) : (s.onPsq f).variant = s.variant := rfl
@[simp] theorem State.onPsq_pending (s : State) (f : Psq → Psq) : (s.onPsq f).pending = s.pending := rfl
@[simp] theorem State.onPsq_out (s : State) (f : Psq → Psq) : (s.onPsq f).out = s.out := rfl
@[simp] theorem State.onPsq_freeCtr (s : State) (f : Psq → Psq) : (s.onPsq f).freeCtr = s.freeCtr := rfl
@[simp] theorem State.onPsq_hdrs (s : State) (f : Psq → Psq) : (s.onPsq f).hdrs = s.hdrs := rfl
@[simp] theorem State.onPsq_mirrors (s : State) (f : Psq → Psq) : (s.onPsq f).mirrors = s.mirrors := rfl
@[simp] theorem State.onPsq_chip (s : State) (f : Psq → Psq) : (s.onPsq f).chip = s.chip := rfl
@[simp] theorem State.onPsq_pcie (s : State) (f : Psq → Psq) : (s.onPsq f).pcie = s.pcie := rfl
@[simp] theorem State.onPsq_fns (s : State) (f : Psq → Psq) : (s.onPsq f).fns = s.fns := rfl
@[simp] theorem State.onPsq_chans (s : State) (f : Psq → Psq) : (s.onPsq f).chans = s.chans := rfl
@[simp] theorem State.onPsq_gens (s : State) (f : Psq → Psq) : (s.onPsq f).gens = s.gens := rfl
@[simp] theorem State.onPsq_chFreed (s : State) (f : Psq → Psq) : (s.onPsq f).chFreed = s.chFreed := rfl
@[simp] theorem State.onPsq_reqs (s : State) (f : Psq → Psq) : (s.onPsq f).reqs = s.reqs := rfl
@[simp] theorem State.onPsq_nextReq (s : State) (f : Psq → Psq) : (s.onPsq f).nextReq = s.nextReq := rfl
@[simp] theorem State.onPsq_jobs (s : State) (f : Psq → Psq) : (s.onPsq f).jobs = s.jobs := rfl
@[simp] theorem State.onPsq_nextJob (s : State) (f : Psq → Psq) : (s.onPsq f).nextJob = s.nextJob := rfl
@[simp] theorem State.onPsq_msh (s : State) (f : Psq → Psq) : (s.onPsq f).msh = s.msh := rfl
@[simp] theorem State.onPsq_eights (s : State) (f : Psq → Psq) : (s.onPsq f).eights = s.eights := rfl
@[simp] theorem State.onPsq_progs (s : State) (f : Psq → Psq) : (s.onPsq f).progs = s.progs := rfl
@[simp] theorem State.onPsq_quads (s : State) (f : Psq → Psq) : (s.onPsq f).quads = s.quads := rfl
@[simp] theorem State.onPsq_meas (s : State) (f : Psq → Psq) : (s.onPsq f).meas = s.meas := rfl
@[simp] theorem State.onPsq_slices (s : State) (f : Psq → Psq) : (s.onPsq f).slices = s.slices := rfl
@[simp] theorem State.onPsq_klg (s : State) (f : Psq → Psq) : (s.onPsq f).klg = s.klg := rfl
@[simp] theorem State.onPsq_kslots (s : State) (f : Psq → Psq) : (s.onPsq f).kslots = s.kslots := rfl
@[simp] theorem State.onPsq_kfrees (s : State) (f : Psq → Psq) : (s.onPsq f).kfrees = s.kfrees := rfl
@[simp] theorem State.onPsq_genBase (s : State) (f : Psq → Psq) : (s.onPsq f).genBase = s.genBase := rfl
@[simp] theorem State.onPsq_domains (s : State) (f : Psq → Psq) : (s.onPsq f).domains = s.domains := rfl
@[simp] theorem State.onPsq_heat (s : State) (f : Psq → Psq) : (s.onPsq f).heat = s.heat := rfl
@[simp] theorem State.onPsq_aod (s : State) (f : Psq → Psq) : (s.onPsq f).aod = s.aod := rfl
@[simp] theorem State.onPsq_otp (s : State) (f : Psq → Psq) : (s.onPsq f).otp = s.otp := rfl
@[simp] theorem State.onPsq_wdg (s : State) (f : Psq → Psq) : (s.onPsq f).wdg = s.wdg := rfl
@[simp] theorem State.onPsq_tmp (s : State) (f : Psq → Psq) : (s.onPsq f).tmp = s.tmp := rfl
@[simp] theorem State.onPsq_erg (s : State) (f : Psq → Psq) : (s.onPsq f).erg = s.erg := rfl
@[simp] theorem State.onPsq_fgt (s : State) (f : Psq → Psq) : (s.onPsq f).fgt = s.fgt := rfl
@[simp] theorem State.onPsq_psq (s : State) (f : Psq → Psq) : (s.onPsq f).psq = f s.psq := rfl
@[simp] theorem State.onPsq_cci (s : State) (f : Psq → Psq) : (s.onPsq f).cci = s.cci := rfl
@[simp] theorem State.onPsq_lcs (s : State) (f : Psq → Psq) : (s.onPsq f).lcs = s.lcs := rfl
@[simp] theorem State.onPsq_dbg (s : State) (f : Psq → Psq) : (s.onPsq f).dbg = s.dbg := rfl
@[simp] theorem State.onPsq_bst (s : State) (f : Psq → Psq) : (s.onPsq f).bst = s.bst := rfl
@[simp] theorem State.onPsq_rng (s : State) (f : Psq → Psq) : (s.onPsq f).rng = s.rng := rfl
@[simp] theorem State.onPsq_ump (s : State) (f : Psq → Psq) : (s.onPsq f).ump = s.ump := rfl
@[simp] theorem State.onPsq_sessions (s : State) (f : Psq → Psq) : (s.onPsq f).sessions = s.sessions := rfl
@[simp] theorem State.onPsq_spdm (s : State) (f : Psq → Psq) : (s.onPsq f).spdm = s.spdm := rfl
@[simp] theorem State.onPsq_mon (s : State) (f : Psq → Psq) : (s.onPsq f).mon = s.mon := rfl
@[simp] theorem State.onPsq_pldm (s : State) (f : Psq → Psq) : (s.onPsq f).pldm = s.pldm := rfl
@[simp] theorem State.onPsq_store (s : State) (f : Psq → Psq) : (s.onPsq f).store = s.store := rfl
@[simp] theorem State.onCci_variant (s : State) (f : Cci → Cci) : (s.onCci f).variant = s.variant := rfl
@[simp] theorem State.onCci_pending (s : State) (f : Cci → Cci) : (s.onCci f).pending = s.pending := rfl
@[simp] theorem State.onCci_out (s : State) (f : Cci → Cci) : (s.onCci f).out = s.out := rfl
@[simp] theorem State.onCci_freeCtr (s : State) (f : Cci → Cci) : (s.onCci f).freeCtr = s.freeCtr := rfl
@[simp] theorem State.onCci_hdrs (s : State) (f : Cci → Cci) : (s.onCci f).hdrs = s.hdrs := rfl
@[simp] theorem State.onCci_mirrors (s : State) (f : Cci → Cci) : (s.onCci f).mirrors = s.mirrors := rfl
@[simp] theorem State.onCci_chip (s : State) (f : Cci → Cci) : (s.onCci f).chip = s.chip := rfl
@[simp] theorem State.onCci_pcie (s : State) (f : Cci → Cci) : (s.onCci f).pcie = s.pcie := rfl
@[simp] theorem State.onCci_fns (s : State) (f : Cci → Cci) : (s.onCci f).fns = s.fns := rfl
@[simp] theorem State.onCci_chans (s : State) (f : Cci → Cci) : (s.onCci f).chans = s.chans := rfl
@[simp] theorem State.onCci_gens (s : State) (f : Cci → Cci) : (s.onCci f).gens = s.gens := rfl
@[simp] theorem State.onCci_chFreed (s : State) (f : Cci → Cci) : (s.onCci f).chFreed = s.chFreed := rfl
@[simp] theorem State.onCci_reqs (s : State) (f : Cci → Cci) : (s.onCci f).reqs = s.reqs := rfl
@[simp] theorem State.onCci_nextReq (s : State) (f : Cci → Cci) : (s.onCci f).nextReq = s.nextReq := rfl
@[simp] theorem State.onCci_jobs (s : State) (f : Cci → Cci) : (s.onCci f).jobs = s.jobs := rfl
@[simp] theorem State.onCci_nextJob (s : State) (f : Cci → Cci) : (s.onCci f).nextJob = s.nextJob := rfl
@[simp] theorem State.onCci_msh (s : State) (f : Cci → Cci) : (s.onCci f).msh = s.msh := rfl
@[simp] theorem State.onCci_eights (s : State) (f : Cci → Cci) : (s.onCci f).eights = s.eights := rfl
@[simp] theorem State.onCci_progs (s : State) (f : Cci → Cci) : (s.onCci f).progs = s.progs := rfl
@[simp] theorem State.onCci_quads (s : State) (f : Cci → Cci) : (s.onCci f).quads = s.quads := rfl
@[simp] theorem State.onCci_meas (s : State) (f : Cci → Cci) : (s.onCci f).meas = s.meas := rfl
@[simp] theorem State.onCci_slices (s : State) (f : Cci → Cci) : (s.onCci f).slices = s.slices := rfl
@[simp] theorem State.onCci_klg (s : State) (f : Cci → Cci) : (s.onCci f).klg = s.klg := rfl
@[simp] theorem State.onCci_kslots (s : State) (f : Cci → Cci) : (s.onCci f).kslots = s.kslots := rfl
@[simp] theorem State.onCci_kfrees (s : State) (f : Cci → Cci) : (s.onCci f).kfrees = s.kfrees := rfl
@[simp] theorem State.onCci_genBase (s : State) (f : Cci → Cci) : (s.onCci f).genBase = s.genBase := rfl
@[simp] theorem State.onCci_domains (s : State) (f : Cci → Cci) : (s.onCci f).domains = s.domains := rfl
@[simp] theorem State.onCci_heat (s : State) (f : Cci → Cci) : (s.onCci f).heat = s.heat := rfl
@[simp] theorem State.onCci_aod (s : State) (f : Cci → Cci) : (s.onCci f).aod = s.aod := rfl
@[simp] theorem State.onCci_otp (s : State) (f : Cci → Cci) : (s.onCci f).otp = s.otp := rfl
@[simp] theorem State.onCci_wdg (s : State) (f : Cci → Cci) : (s.onCci f).wdg = s.wdg := rfl
@[simp] theorem State.onCci_tmp (s : State) (f : Cci → Cci) : (s.onCci f).tmp = s.tmp := rfl
@[simp] theorem State.onCci_erg (s : State) (f : Cci → Cci) : (s.onCci f).erg = s.erg := rfl
@[simp] theorem State.onCci_fgt (s : State) (f : Cci → Cci) : (s.onCci f).fgt = s.fgt := rfl
@[simp] theorem State.onCci_psq (s : State) (f : Cci → Cci) : (s.onCci f).psq = s.psq := rfl
@[simp] theorem State.onCci_cci (s : State) (f : Cci → Cci) : (s.onCci f).cci = f s.cci := rfl
@[simp] theorem State.onCci_lcs (s : State) (f : Cci → Cci) : (s.onCci f).lcs = s.lcs := rfl
@[simp] theorem State.onCci_dbg (s : State) (f : Cci → Cci) : (s.onCci f).dbg = s.dbg := rfl
@[simp] theorem State.onCci_bst (s : State) (f : Cci → Cci) : (s.onCci f).bst = s.bst := rfl
@[simp] theorem State.onCci_rng (s : State) (f : Cci → Cci) : (s.onCci f).rng = s.rng := rfl
@[simp] theorem State.onCci_ump (s : State) (f : Cci → Cci) : (s.onCci f).ump = s.ump := rfl
@[simp] theorem State.onCci_sessions (s : State) (f : Cci → Cci) : (s.onCci f).sessions = s.sessions := rfl
@[simp] theorem State.onCci_spdm (s : State) (f : Cci → Cci) : (s.onCci f).spdm = s.spdm := rfl
@[simp] theorem State.onCci_mon (s : State) (f : Cci → Cci) : (s.onCci f).mon = s.mon := rfl
@[simp] theorem State.onCci_pldm (s : State) (f : Cci → Cci) : (s.onCci f).pldm = s.pldm := rfl
@[simp] theorem State.onCci_store (s : State) (f : Cci → Cci) : (s.onCci f).store = s.store := rfl
@[simp] theorem State.onLcs_variant (s : State) (f : Lcs → Lcs) : (s.onLcs f).variant = s.variant := rfl
@[simp] theorem State.onLcs_pending (s : State) (f : Lcs → Lcs) : (s.onLcs f).pending = s.pending := rfl
@[simp] theorem State.onLcs_out (s : State) (f : Lcs → Lcs) : (s.onLcs f).out = s.out := rfl
@[simp] theorem State.onLcs_freeCtr (s : State) (f : Lcs → Lcs) : (s.onLcs f).freeCtr = s.freeCtr := rfl
@[simp] theorem State.onLcs_hdrs (s : State) (f : Lcs → Lcs) : (s.onLcs f).hdrs = s.hdrs := rfl
@[simp] theorem State.onLcs_mirrors (s : State) (f : Lcs → Lcs) : (s.onLcs f).mirrors = s.mirrors := rfl
@[simp] theorem State.onLcs_chip (s : State) (f : Lcs → Lcs) : (s.onLcs f).chip = s.chip := rfl
@[simp] theorem State.onLcs_pcie (s : State) (f : Lcs → Lcs) : (s.onLcs f).pcie = s.pcie := rfl
@[simp] theorem State.onLcs_fns (s : State) (f : Lcs → Lcs) : (s.onLcs f).fns = s.fns := rfl
@[simp] theorem State.onLcs_chans (s : State) (f : Lcs → Lcs) : (s.onLcs f).chans = s.chans := rfl
@[simp] theorem State.onLcs_gens (s : State) (f : Lcs → Lcs) : (s.onLcs f).gens = s.gens := rfl
@[simp] theorem State.onLcs_chFreed (s : State) (f : Lcs → Lcs) : (s.onLcs f).chFreed = s.chFreed := rfl
@[simp] theorem State.onLcs_reqs (s : State) (f : Lcs → Lcs) : (s.onLcs f).reqs = s.reqs := rfl
@[simp] theorem State.onLcs_nextReq (s : State) (f : Lcs → Lcs) : (s.onLcs f).nextReq = s.nextReq := rfl
@[simp] theorem State.onLcs_jobs (s : State) (f : Lcs → Lcs) : (s.onLcs f).jobs = s.jobs := rfl
@[simp] theorem State.onLcs_nextJob (s : State) (f : Lcs → Lcs) : (s.onLcs f).nextJob = s.nextJob := rfl
@[simp] theorem State.onLcs_msh (s : State) (f : Lcs → Lcs) : (s.onLcs f).msh = s.msh := rfl
@[simp] theorem State.onLcs_eights (s : State) (f : Lcs → Lcs) : (s.onLcs f).eights = s.eights := rfl
@[simp] theorem State.onLcs_progs (s : State) (f : Lcs → Lcs) : (s.onLcs f).progs = s.progs := rfl
@[simp] theorem State.onLcs_quads (s : State) (f : Lcs → Lcs) : (s.onLcs f).quads = s.quads := rfl
@[simp] theorem State.onLcs_meas (s : State) (f : Lcs → Lcs) : (s.onLcs f).meas = s.meas := rfl
@[simp] theorem State.onLcs_slices (s : State) (f : Lcs → Lcs) : (s.onLcs f).slices = s.slices := rfl
@[simp] theorem State.onLcs_klg (s : State) (f : Lcs → Lcs) : (s.onLcs f).klg = s.klg := rfl
@[simp] theorem State.onLcs_kslots (s : State) (f : Lcs → Lcs) : (s.onLcs f).kslots = s.kslots := rfl
@[simp] theorem State.onLcs_kfrees (s : State) (f : Lcs → Lcs) : (s.onLcs f).kfrees = s.kfrees := rfl
@[simp] theorem State.onLcs_genBase (s : State) (f : Lcs → Lcs) : (s.onLcs f).genBase = s.genBase := rfl
@[simp] theorem State.onLcs_domains (s : State) (f : Lcs → Lcs) : (s.onLcs f).domains = s.domains := rfl
@[simp] theorem State.onLcs_heat (s : State) (f : Lcs → Lcs) : (s.onLcs f).heat = s.heat := rfl
@[simp] theorem State.onLcs_aod (s : State) (f : Lcs → Lcs) : (s.onLcs f).aod = s.aod := rfl
@[simp] theorem State.onLcs_otp (s : State) (f : Lcs → Lcs) : (s.onLcs f).otp = s.otp := rfl
@[simp] theorem State.onLcs_wdg (s : State) (f : Lcs → Lcs) : (s.onLcs f).wdg = s.wdg := rfl
@[simp] theorem State.onLcs_tmp (s : State) (f : Lcs → Lcs) : (s.onLcs f).tmp = s.tmp := rfl
@[simp] theorem State.onLcs_erg (s : State) (f : Lcs → Lcs) : (s.onLcs f).erg = s.erg := rfl
@[simp] theorem State.onLcs_fgt (s : State) (f : Lcs → Lcs) : (s.onLcs f).fgt = s.fgt := rfl
@[simp] theorem State.onLcs_psq (s : State) (f : Lcs → Lcs) : (s.onLcs f).psq = s.psq := rfl
@[simp] theorem State.onLcs_cci (s : State) (f : Lcs → Lcs) : (s.onLcs f).cci = s.cci := rfl
@[simp] theorem State.onLcs_lcs (s : State) (f : Lcs → Lcs) : (s.onLcs f).lcs = f s.lcs := rfl
@[simp] theorem State.onLcs_dbg (s : State) (f : Lcs → Lcs) : (s.onLcs f).dbg = s.dbg := rfl
@[simp] theorem State.onLcs_bst (s : State) (f : Lcs → Lcs) : (s.onLcs f).bst = s.bst := rfl
@[simp] theorem State.onLcs_rng (s : State) (f : Lcs → Lcs) : (s.onLcs f).rng = s.rng := rfl
@[simp] theorem State.onLcs_ump (s : State) (f : Lcs → Lcs) : (s.onLcs f).ump = s.ump := rfl
@[simp] theorem State.onLcs_sessions (s : State) (f : Lcs → Lcs) : (s.onLcs f).sessions = s.sessions := rfl
@[simp] theorem State.onLcs_spdm (s : State) (f : Lcs → Lcs) : (s.onLcs f).spdm = s.spdm := rfl
@[simp] theorem State.onLcs_mon (s : State) (f : Lcs → Lcs) : (s.onLcs f).mon = s.mon := rfl
@[simp] theorem State.onLcs_pldm (s : State) (f : Lcs → Lcs) : (s.onLcs f).pldm = s.pldm := rfl
@[simp] theorem State.onLcs_store (s : State) (f : Lcs → Lcs) : (s.onLcs f).store = s.store := rfl
@[simp] theorem State.onDbg_variant (s : State) (f : Dbg → Dbg) : (s.onDbg f).variant = s.variant := rfl
@[simp] theorem State.onDbg_pending (s : State) (f : Dbg → Dbg) : (s.onDbg f).pending = s.pending := rfl
@[simp] theorem State.onDbg_out (s : State) (f : Dbg → Dbg) : (s.onDbg f).out = s.out := rfl
@[simp] theorem State.onDbg_freeCtr (s : State) (f : Dbg → Dbg) : (s.onDbg f).freeCtr = s.freeCtr := rfl
@[simp] theorem State.onDbg_hdrs (s : State) (f : Dbg → Dbg) : (s.onDbg f).hdrs = s.hdrs := rfl
@[simp] theorem State.onDbg_mirrors (s : State) (f : Dbg → Dbg) : (s.onDbg f).mirrors = s.mirrors := rfl
@[simp] theorem State.onDbg_chip (s : State) (f : Dbg → Dbg) : (s.onDbg f).chip = s.chip := rfl
@[simp] theorem State.onDbg_pcie (s : State) (f : Dbg → Dbg) : (s.onDbg f).pcie = s.pcie := rfl
@[simp] theorem State.onDbg_fns (s : State) (f : Dbg → Dbg) : (s.onDbg f).fns = s.fns := rfl
@[simp] theorem State.onDbg_chans (s : State) (f : Dbg → Dbg) : (s.onDbg f).chans = s.chans := rfl
@[simp] theorem State.onDbg_gens (s : State) (f : Dbg → Dbg) : (s.onDbg f).gens = s.gens := rfl
@[simp] theorem State.onDbg_chFreed (s : State) (f : Dbg → Dbg) : (s.onDbg f).chFreed = s.chFreed := rfl
@[simp] theorem State.onDbg_reqs (s : State) (f : Dbg → Dbg) : (s.onDbg f).reqs = s.reqs := rfl
@[simp] theorem State.onDbg_nextReq (s : State) (f : Dbg → Dbg) : (s.onDbg f).nextReq = s.nextReq := rfl
@[simp] theorem State.onDbg_jobs (s : State) (f : Dbg → Dbg) : (s.onDbg f).jobs = s.jobs := rfl
@[simp] theorem State.onDbg_nextJob (s : State) (f : Dbg → Dbg) : (s.onDbg f).nextJob = s.nextJob := rfl
@[simp] theorem State.onDbg_msh (s : State) (f : Dbg → Dbg) : (s.onDbg f).msh = s.msh := rfl
@[simp] theorem State.onDbg_eights (s : State) (f : Dbg → Dbg) : (s.onDbg f).eights = s.eights := rfl
@[simp] theorem State.onDbg_progs (s : State) (f : Dbg → Dbg) : (s.onDbg f).progs = s.progs := rfl
@[simp] theorem State.onDbg_quads (s : State) (f : Dbg → Dbg) : (s.onDbg f).quads = s.quads := rfl
@[simp] theorem State.onDbg_meas (s : State) (f : Dbg → Dbg) : (s.onDbg f).meas = s.meas := rfl
@[simp] theorem State.onDbg_slices (s : State) (f : Dbg → Dbg) : (s.onDbg f).slices = s.slices := rfl
@[simp] theorem State.onDbg_klg (s : State) (f : Dbg → Dbg) : (s.onDbg f).klg = s.klg := rfl
@[simp] theorem State.onDbg_kslots (s : State) (f : Dbg → Dbg) : (s.onDbg f).kslots = s.kslots := rfl
@[simp] theorem State.onDbg_kfrees (s : State) (f : Dbg → Dbg) : (s.onDbg f).kfrees = s.kfrees := rfl
@[simp] theorem State.onDbg_genBase (s : State) (f : Dbg → Dbg) : (s.onDbg f).genBase = s.genBase := rfl
@[simp] theorem State.onDbg_domains (s : State) (f : Dbg → Dbg) : (s.onDbg f).domains = s.domains := rfl
@[simp] theorem State.onDbg_heat (s : State) (f : Dbg → Dbg) : (s.onDbg f).heat = s.heat := rfl
@[simp] theorem State.onDbg_aod (s : State) (f : Dbg → Dbg) : (s.onDbg f).aod = s.aod := rfl
@[simp] theorem State.onDbg_otp (s : State) (f : Dbg → Dbg) : (s.onDbg f).otp = s.otp := rfl
@[simp] theorem State.onDbg_wdg (s : State) (f : Dbg → Dbg) : (s.onDbg f).wdg = s.wdg := rfl
@[simp] theorem State.onDbg_tmp (s : State) (f : Dbg → Dbg) : (s.onDbg f).tmp = s.tmp := rfl
@[simp] theorem State.onDbg_erg (s : State) (f : Dbg → Dbg) : (s.onDbg f).erg = s.erg := rfl
@[simp] theorem State.onDbg_fgt (s : State) (f : Dbg → Dbg) : (s.onDbg f).fgt = s.fgt := rfl
@[simp] theorem State.onDbg_psq (s : State) (f : Dbg → Dbg) : (s.onDbg f).psq = s.psq := rfl
@[simp] theorem State.onDbg_cci (s : State) (f : Dbg → Dbg) : (s.onDbg f).cci = s.cci := rfl
@[simp] theorem State.onDbg_lcs (s : State) (f : Dbg → Dbg) : (s.onDbg f).lcs = s.lcs := rfl
@[simp] theorem State.onDbg_dbg (s : State) (f : Dbg → Dbg) : (s.onDbg f).dbg = f s.dbg := rfl
@[simp] theorem State.onDbg_bst (s : State) (f : Dbg → Dbg) : (s.onDbg f).bst = s.bst := rfl
@[simp] theorem State.onDbg_rng (s : State) (f : Dbg → Dbg) : (s.onDbg f).rng = s.rng := rfl
@[simp] theorem State.onDbg_ump (s : State) (f : Dbg → Dbg) : (s.onDbg f).ump = s.ump := rfl
@[simp] theorem State.onDbg_sessions (s : State) (f : Dbg → Dbg) : (s.onDbg f).sessions = s.sessions := rfl
@[simp] theorem State.onDbg_spdm (s : State) (f : Dbg → Dbg) : (s.onDbg f).spdm = s.spdm := rfl
@[simp] theorem State.onDbg_mon (s : State) (f : Dbg → Dbg) : (s.onDbg f).mon = s.mon := rfl
@[simp] theorem State.onDbg_pldm (s : State) (f : Dbg → Dbg) : (s.onDbg f).pldm = s.pldm := rfl
@[simp] theorem State.onDbg_store (s : State) (f : Dbg → Dbg) : (s.onDbg f).store = s.store := rfl
@[simp] theorem State.onBst_variant (s : State) (f : Bst → Bst) : (s.onBst f).variant = s.variant := rfl
@[simp] theorem State.onBst_pending (s : State) (f : Bst → Bst) : (s.onBst f).pending = s.pending := rfl
@[simp] theorem State.onBst_out (s : State) (f : Bst → Bst) : (s.onBst f).out = s.out := rfl
@[simp] theorem State.onBst_freeCtr (s : State) (f : Bst → Bst) : (s.onBst f).freeCtr = s.freeCtr := rfl
@[simp] theorem State.onBst_hdrs (s : State) (f : Bst → Bst) : (s.onBst f).hdrs = s.hdrs := rfl
@[simp] theorem State.onBst_mirrors (s : State) (f : Bst → Bst) : (s.onBst f).mirrors = s.mirrors := rfl
@[simp] theorem State.onBst_chip (s : State) (f : Bst → Bst) : (s.onBst f).chip = s.chip := rfl
@[simp] theorem State.onBst_pcie (s : State) (f : Bst → Bst) : (s.onBst f).pcie = s.pcie := rfl
@[simp] theorem State.onBst_fns (s : State) (f : Bst → Bst) : (s.onBst f).fns = s.fns := rfl
@[simp] theorem State.onBst_chans (s : State) (f : Bst → Bst) : (s.onBst f).chans = s.chans := rfl
@[simp] theorem State.onBst_gens (s : State) (f : Bst → Bst) : (s.onBst f).gens = s.gens := rfl
@[simp] theorem State.onBst_chFreed (s : State) (f : Bst → Bst) : (s.onBst f).chFreed = s.chFreed := rfl
@[simp] theorem State.onBst_reqs (s : State) (f : Bst → Bst) : (s.onBst f).reqs = s.reqs := rfl
@[simp] theorem State.onBst_nextReq (s : State) (f : Bst → Bst) : (s.onBst f).nextReq = s.nextReq := rfl
@[simp] theorem State.onBst_jobs (s : State) (f : Bst → Bst) : (s.onBst f).jobs = s.jobs := rfl
@[simp] theorem State.onBst_nextJob (s : State) (f : Bst → Bst) : (s.onBst f).nextJob = s.nextJob := rfl
@[simp] theorem State.onBst_msh (s : State) (f : Bst → Bst) : (s.onBst f).msh = s.msh := rfl
@[simp] theorem State.onBst_eights (s : State) (f : Bst → Bst) : (s.onBst f).eights = s.eights := rfl
@[simp] theorem State.onBst_progs (s : State) (f : Bst → Bst) : (s.onBst f).progs = s.progs := rfl
@[simp] theorem State.onBst_quads (s : State) (f : Bst → Bst) : (s.onBst f).quads = s.quads := rfl
@[simp] theorem State.onBst_meas (s : State) (f : Bst → Bst) : (s.onBst f).meas = s.meas := rfl
@[simp] theorem State.onBst_slices (s : State) (f : Bst → Bst) : (s.onBst f).slices = s.slices := rfl
@[simp] theorem State.onBst_klg (s : State) (f : Bst → Bst) : (s.onBst f).klg = s.klg := rfl
@[simp] theorem State.onBst_kslots (s : State) (f : Bst → Bst) : (s.onBst f).kslots = s.kslots := rfl
@[simp] theorem State.onBst_kfrees (s : State) (f : Bst → Bst) : (s.onBst f).kfrees = s.kfrees := rfl
@[simp] theorem State.onBst_genBase (s : State) (f : Bst → Bst) : (s.onBst f).genBase = s.genBase := rfl
@[simp] theorem State.onBst_domains (s : State) (f : Bst → Bst) : (s.onBst f).domains = s.domains := rfl
@[simp] theorem State.onBst_heat (s : State) (f : Bst → Bst) : (s.onBst f).heat = s.heat := rfl
@[simp] theorem State.onBst_aod (s : State) (f : Bst → Bst) : (s.onBst f).aod = s.aod := rfl
@[simp] theorem State.onBst_otp (s : State) (f : Bst → Bst) : (s.onBst f).otp = s.otp := rfl
@[simp] theorem State.onBst_wdg (s : State) (f : Bst → Bst) : (s.onBst f).wdg = s.wdg := rfl
@[simp] theorem State.onBst_tmp (s : State) (f : Bst → Bst) : (s.onBst f).tmp = s.tmp := rfl
@[simp] theorem State.onBst_erg (s : State) (f : Bst → Bst) : (s.onBst f).erg = s.erg := rfl
@[simp] theorem State.onBst_fgt (s : State) (f : Bst → Bst) : (s.onBst f).fgt = s.fgt := rfl
@[simp] theorem State.onBst_psq (s : State) (f : Bst → Bst) : (s.onBst f).psq = s.psq := rfl
@[simp] theorem State.onBst_cci (s : State) (f : Bst → Bst) : (s.onBst f).cci = s.cci := rfl
@[simp] theorem State.onBst_lcs (s : State) (f : Bst → Bst) : (s.onBst f).lcs = s.lcs := rfl
@[simp] theorem State.onBst_dbg (s : State) (f : Bst → Bst) : (s.onBst f).dbg = s.dbg := rfl
@[simp] theorem State.onBst_bst (s : State) (f : Bst → Bst) : (s.onBst f).bst = f s.bst := rfl
@[simp] theorem State.onBst_rng (s : State) (f : Bst → Bst) : (s.onBst f).rng = s.rng := rfl
@[simp] theorem State.onBst_ump (s : State) (f : Bst → Bst) : (s.onBst f).ump = s.ump := rfl
@[simp] theorem State.onBst_sessions (s : State) (f : Bst → Bst) : (s.onBst f).sessions = s.sessions := rfl
@[simp] theorem State.onBst_spdm (s : State) (f : Bst → Bst) : (s.onBst f).spdm = s.spdm := rfl
@[simp] theorem State.onBst_mon (s : State) (f : Bst → Bst) : (s.onBst f).mon = s.mon := rfl
@[simp] theorem State.onBst_pldm (s : State) (f : Bst → Bst) : (s.onBst f).pldm = s.pldm := rfl
@[simp] theorem State.onBst_store (s : State) (f : Bst → Bst) : (s.onBst f).store = s.store := rfl
@[simp] theorem State.onRng_variant (s : State) (f : Rng → Rng) : (s.onRng f).variant = s.variant := rfl
@[simp] theorem State.onRng_pending (s : State) (f : Rng → Rng) : (s.onRng f).pending = s.pending := rfl
@[simp] theorem State.onRng_out (s : State) (f : Rng → Rng) : (s.onRng f).out = s.out := rfl
@[simp] theorem State.onRng_freeCtr (s : State) (f : Rng → Rng) : (s.onRng f).freeCtr = s.freeCtr := rfl
@[simp] theorem State.onRng_hdrs (s : State) (f : Rng → Rng) : (s.onRng f).hdrs = s.hdrs := rfl
@[simp] theorem State.onRng_mirrors (s : State) (f : Rng → Rng) : (s.onRng f).mirrors = s.mirrors := rfl
@[simp] theorem State.onRng_chip (s : State) (f : Rng → Rng) : (s.onRng f).chip = s.chip := rfl
@[simp] theorem State.onRng_pcie (s : State) (f : Rng → Rng) : (s.onRng f).pcie = s.pcie := rfl
@[simp] theorem State.onRng_fns (s : State) (f : Rng → Rng) : (s.onRng f).fns = s.fns := rfl
@[simp] theorem State.onRng_chans (s : State) (f : Rng → Rng) : (s.onRng f).chans = s.chans := rfl
@[simp] theorem State.onRng_gens (s : State) (f : Rng → Rng) : (s.onRng f).gens = s.gens := rfl
@[simp] theorem State.onRng_chFreed (s : State) (f : Rng → Rng) : (s.onRng f).chFreed = s.chFreed := rfl
@[simp] theorem State.onRng_reqs (s : State) (f : Rng → Rng) : (s.onRng f).reqs = s.reqs := rfl
@[simp] theorem State.onRng_nextReq (s : State) (f : Rng → Rng) : (s.onRng f).nextReq = s.nextReq := rfl
@[simp] theorem State.onRng_jobs (s : State) (f : Rng → Rng) : (s.onRng f).jobs = s.jobs := rfl
@[simp] theorem State.onRng_nextJob (s : State) (f : Rng → Rng) : (s.onRng f).nextJob = s.nextJob := rfl
@[simp] theorem State.onRng_msh (s : State) (f : Rng → Rng) : (s.onRng f).msh = s.msh := rfl
@[simp] theorem State.onRng_eights (s : State) (f : Rng → Rng) : (s.onRng f).eights = s.eights := rfl
@[simp] theorem State.onRng_progs (s : State) (f : Rng → Rng) : (s.onRng f).progs = s.progs := rfl
@[simp] theorem State.onRng_quads (s : State) (f : Rng → Rng) : (s.onRng f).quads = s.quads := rfl
@[simp] theorem State.onRng_meas (s : State) (f : Rng → Rng) : (s.onRng f).meas = s.meas := rfl
@[simp] theorem State.onRng_slices (s : State) (f : Rng → Rng) : (s.onRng f).slices = s.slices := rfl
@[simp] theorem State.onRng_klg (s : State) (f : Rng → Rng) : (s.onRng f).klg = s.klg := rfl
@[simp] theorem State.onRng_kslots (s : State) (f : Rng → Rng) : (s.onRng f).kslots = s.kslots := rfl
@[simp] theorem State.onRng_kfrees (s : State) (f : Rng → Rng) : (s.onRng f).kfrees = s.kfrees := rfl
@[simp] theorem State.onRng_genBase (s : State) (f : Rng → Rng) : (s.onRng f).genBase = s.genBase := rfl
@[simp] theorem State.onRng_domains (s : State) (f : Rng → Rng) : (s.onRng f).domains = s.domains := rfl
@[simp] theorem State.onRng_heat (s : State) (f : Rng → Rng) : (s.onRng f).heat = s.heat := rfl
@[simp] theorem State.onRng_aod (s : State) (f : Rng → Rng) : (s.onRng f).aod = s.aod := rfl
@[simp] theorem State.onRng_otp (s : State) (f : Rng → Rng) : (s.onRng f).otp = s.otp := rfl
@[simp] theorem State.onRng_wdg (s : State) (f : Rng → Rng) : (s.onRng f).wdg = s.wdg := rfl
@[simp] theorem State.onRng_tmp (s : State) (f : Rng → Rng) : (s.onRng f).tmp = s.tmp := rfl
@[simp] theorem State.onRng_erg (s : State) (f : Rng → Rng) : (s.onRng f).erg = s.erg := rfl
@[simp] theorem State.onRng_fgt (s : State) (f : Rng → Rng) : (s.onRng f).fgt = s.fgt := rfl
@[simp] theorem State.onRng_psq (s : State) (f : Rng → Rng) : (s.onRng f).psq = s.psq := rfl
@[simp] theorem State.onRng_cci (s : State) (f : Rng → Rng) : (s.onRng f).cci = s.cci := rfl
@[simp] theorem State.onRng_lcs (s : State) (f : Rng → Rng) : (s.onRng f).lcs = s.lcs := rfl
@[simp] theorem State.onRng_dbg (s : State) (f : Rng → Rng) : (s.onRng f).dbg = s.dbg := rfl
@[simp] theorem State.onRng_bst (s : State) (f : Rng → Rng) : (s.onRng f).bst = s.bst := rfl
@[simp] theorem State.onRng_rng (s : State) (f : Rng → Rng) : (s.onRng f).rng = f s.rng := rfl
@[simp] theorem State.onRng_ump (s : State) (f : Rng → Rng) : (s.onRng f).ump = s.ump := rfl
@[simp] theorem State.onRng_sessions (s : State) (f : Rng → Rng) : (s.onRng f).sessions = s.sessions := rfl
@[simp] theorem State.onRng_spdm (s : State) (f : Rng → Rng) : (s.onRng f).spdm = s.spdm := rfl
@[simp] theorem State.onRng_mon (s : State) (f : Rng → Rng) : (s.onRng f).mon = s.mon := rfl
@[simp] theorem State.onRng_pldm (s : State) (f : Rng → Rng) : (s.onRng f).pldm = s.pldm := rfl
@[simp] theorem State.onRng_store (s : State) (f : Rng → Rng) : (s.onRng f).store = s.store := rfl
@[simp] theorem State.onUmp_variant (s : State) (f : Ump → Ump) : (s.onUmp f).variant = s.variant := rfl
@[simp] theorem State.onUmp_pending (s : State) (f : Ump → Ump) : (s.onUmp f).pending = s.pending := rfl
@[simp] theorem State.onUmp_out (s : State) (f : Ump → Ump) : (s.onUmp f).out = s.out := rfl
@[simp] theorem State.onUmp_freeCtr (s : State) (f : Ump → Ump) : (s.onUmp f).freeCtr = s.freeCtr := rfl
@[simp] theorem State.onUmp_hdrs (s : State) (f : Ump → Ump) : (s.onUmp f).hdrs = s.hdrs := rfl
@[simp] theorem State.onUmp_mirrors (s : State) (f : Ump → Ump) : (s.onUmp f).mirrors = s.mirrors := rfl
@[simp] theorem State.onUmp_chip (s : State) (f : Ump → Ump) : (s.onUmp f).chip = s.chip := rfl
@[simp] theorem State.onUmp_pcie (s : State) (f : Ump → Ump) : (s.onUmp f).pcie = s.pcie := rfl
@[simp] theorem State.onUmp_fns (s : State) (f : Ump → Ump) : (s.onUmp f).fns = s.fns := rfl
@[simp] theorem State.onUmp_chans (s : State) (f : Ump → Ump) : (s.onUmp f).chans = s.chans := rfl
@[simp] theorem State.onUmp_gens (s : State) (f : Ump → Ump) : (s.onUmp f).gens = s.gens := rfl
@[simp] theorem State.onUmp_chFreed (s : State) (f : Ump → Ump) : (s.onUmp f).chFreed = s.chFreed := rfl
@[simp] theorem State.onUmp_reqs (s : State) (f : Ump → Ump) : (s.onUmp f).reqs = s.reqs := rfl
@[simp] theorem State.onUmp_nextReq (s : State) (f : Ump → Ump) : (s.onUmp f).nextReq = s.nextReq := rfl
@[simp] theorem State.onUmp_jobs (s : State) (f : Ump → Ump) : (s.onUmp f).jobs = s.jobs := rfl
@[simp] theorem State.onUmp_nextJob (s : State) (f : Ump → Ump) : (s.onUmp f).nextJob = s.nextJob := rfl
@[simp] theorem State.onUmp_msh (s : State) (f : Ump → Ump) : (s.onUmp f).msh = s.msh := rfl
@[simp] theorem State.onUmp_eights (s : State) (f : Ump → Ump) : (s.onUmp f).eights = s.eights := rfl
@[simp] theorem State.onUmp_progs (s : State) (f : Ump → Ump) : (s.onUmp f).progs = s.progs := rfl
@[simp] theorem State.onUmp_quads (s : State) (f : Ump → Ump) : (s.onUmp f).quads = s.quads := rfl
@[simp] theorem State.onUmp_meas (s : State) (f : Ump → Ump) : (s.onUmp f).meas = s.meas := rfl
@[simp] theorem State.onUmp_slices (s : State) (f : Ump → Ump) : (s.onUmp f).slices = s.slices := rfl
@[simp] theorem State.onUmp_klg (s : State) (f : Ump → Ump) : (s.onUmp f).klg = s.klg := rfl
@[simp] theorem State.onUmp_kslots (s : State) (f : Ump → Ump) : (s.onUmp f).kslots = s.kslots := rfl
@[simp] theorem State.onUmp_kfrees (s : State) (f : Ump → Ump) : (s.onUmp f).kfrees = s.kfrees := rfl
@[simp] theorem State.onUmp_genBase (s : State) (f : Ump → Ump) : (s.onUmp f).genBase = s.genBase := rfl
@[simp] theorem State.onUmp_domains (s : State) (f : Ump → Ump) : (s.onUmp f).domains = s.domains := rfl
@[simp] theorem State.onUmp_heat (s : State) (f : Ump → Ump) : (s.onUmp f).heat = s.heat := rfl
@[simp] theorem State.onUmp_aod (s : State) (f : Ump → Ump) : (s.onUmp f).aod = s.aod := rfl
@[simp] theorem State.onUmp_otp (s : State) (f : Ump → Ump) : (s.onUmp f).otp = s.otp := rfl
@[simp] theorem State.onUmp_wdg (s : State) (f : Ump → Ump) : (s.onUmp f).wdg = s.wdg := rfl
@[simp] theorem State.onUmp_tmp (s : State) (f : Ump → Ump) : (s.onUmp f).tmp = s.tmp := rfl
@[simp] theorem State.onUmp_erg (s : State) (f : Ump → Ump) : (s.onUmp f).erg = s.erg := rfl
@[simp] theorem State.onUmp_fgt (s : State) (f : Ump → Ump) : (s.onUmp f).fgt = s.fgt := rfl
@[simp] theorem State.onUmp_psq (s : State) (f : Ump → Ump) : (s.onUmp f).psq = s.psq := rfl
@[simp] theorem State.onUmp_cci (s : State) (f : Ump → Ump) : (s.onUmp f).cci = s.cci := rfl
@[simp] theorem State.onUmp_lcs (s : State) (f : Ump → Ump) : (s.onUmp f).lcs = s.lcs := rfl
@[simp] theorem State.onUmp_dbg (s : State) (f : Ump → Ump) : (s.onUmp f).dbg = s.dbg := rfl
@[simp] theorem State.onUmp_bst (s : State) (f : Ump → Ump) : (s.onUmp f).bst = s.bst := rfl
@[simp] theorem State.onUmp_rng (s : State) (f : Ump → Ump) : (s.onUmp f).rng = s.rng := rfl
@[simp] theorem State.onUmp_ump (s : State) (f : Ump → Ump) : (s.onUmp f).ump = f s.ump := rfl
@[simp] theorem State.onUmp_sessions (s : State) (f : Ump → Ump) : (s.onUmp f).sessions = s.sessions := rfl
@[simp] theorem State.onUmp_spdm (s : State) (f : Ump → Ump) : (s.onUmp f).spdm = s.spdm := rfl
@[simp] theorem State.onUmp_mon (s : State) (f : Ump → Ump) : (s.onUmp f).mon = s.mon := rfl
@[simp] theorem State.onUmp_pldm (s : State) (f : Ump → Ump) : (s.onUmp f).pldm = s.pldm := rfl
@[simp] theorem State.onUmp_store (s : State) (f : Ump → Ump) : (s.onUmp f).store = s.store := rfl
@[simp] theorem State.onSessions_variant (s : State) (f : (List Session) → List Session) : (s.onSessions f).variant = s.variant := rfl
@[simp] theorem State.onSessions_pending (s : State) (f : (List Session) → List Session) : (s.onSessions f).pending = s.pending := rfl
@[simp] theorem State.onSessions_out (s : State) (f : (List Session) → List Session) : (s.onSessions f).out = s.out := rfl
@[simp] theorem State.onSessions_freeCtr (s : State) (f : (List Session) → List Session) : (s.onSessions f).freeCtr = s.freeCtr := rfl
@[simp] theorem State.onSessions_hdrs (s : State) (f : (List Session) → List Session) : (s.onSessions f).hdrs = s.hdrs := rfl
@[simp] theorem State.onSessions_mirrors (s : State) (f : (List Session) → List Session) : (s.onSessions f).mirrors = s.mirrors := rfl
@[simp] theorem State.onSessions_chip (s : State) (f : (List Session) → List Session) : (s.onSessions f).chip = s.chip := rfl
@[simp] theorem State.onSessions_pcie (s : State) (f : (List Session) → List Session) : (s.onSessions f).pcie = s.pcie := rfl
@[simp] theorem State.onSessions_fns (s : State) (f : (List Session) → List Session) : (s.onSessions f).fns = s.fns := rfl
@[simp] theorem State.onSessions_chans (s : State) (f : (List Session) → List Session) : (s.onSessions f).chans = s.chans := rfl
@[simp] theorem State.onSessions_gens (s : State) (f : (List Session) → List Session) : (s.onSessions f).gens = s.gens := rfl
@[simp] theorem State.onSessions_chFreed (s : State) (f : (List Session) → List Session) : (s.onSessions f).chFreed = s.chFreed := rfl
@[simp] theorem State.onSessions_reqs (s : State) (f : (List Session) → List Session) : (s.onSessions f).reqs = s.reqs := rfl
@[simp] theorem State.onSessions_nextReq (s : State) (f : (List Session) → List Session) : (s.onSessions f).nextReq = s.nextReq := rfl
@[simp] theorem State.onSessions_jobs (s : State) (f : (List Session) → List Session) : (s.onSessions f).jobs = s.jobs := rfl
@[simp] theorem State.onSessions_nextJob (s : State) (f : (List Session) → List Session) : (s.onSessions f).nextJob = s.nextJob := rfl
@[simp] theorem State.onSessions_msh (s : State) (f : (List Session) → List Session) : (s.onSessions f).msh = s.msh := rfl
@[simp] theorem State.onSessions_eights (s : State) (f : (List Session) → List Session) : (s.onSessions f).eights = s.eights := rfl
@[simp] theorem State.onSessions_progs (s : State) (f : (List Session) → List Session) : (s.onSessions f).progs = s.progs := rfl
@[simp] theorem State.onSessions_quads (s : State) (f : (List Session) → List Session) : (s.onSessions f).quads = s.quads := rfl
@[simp] theorem State.onSessions_meas (s : State) (f : (List Session) → List Session) : (s.onSessions f).meas = s.meas := rfl
@[simp] theorem State.onSessions_slices (s : State) (f : (List Session) → List Session) : (s.onSessions f).slices = s.slices := rfl
@[simp] theorem State.onSessions_klg (s : State) (f : (List Session) → List Session) : (s.onSessions f).klg = s.klg := rfl
@[simp] theorem State.onSessions_kslots (s : State) (f : (List Session) → List Session) : (s.onSessions f).kslots = s.kslots := rfl
@[simp] theorem State.onSessions_kfrees (s : State) (f : (List Session) → List Session) : (s.onSessions f).kfrees = s.kfrees := rfl
@[simp] theorem State.onSessions_genBase (s : State) (f : (List Session) → List Session) : (s.onSessions f).genBase = s.genBase := rfl
@[simp] theorem State.onSessions_domains (s : State) (f : (List Session) → List Session) : (s.onSessions f).domains = s.domains := rfl
@[simp] theorem State.onSessions_heat (s : State) (f : (List Session) → List Session) : (s.onSessions f).heat = s.heat := rfl
@[simp] theorem State.onSessions_aod (s : State) (f : (List Session) → List Session) : (s.onSessions f).aod = s.aod := rfl
@[simp] theorem State.onSessions_otp (s : State) (f : (List Session) → List Session) : (s.onSessions f).otp = s.otp := rfl
@[simp] theorem State.onSessions_wdg (s : State) (f : (List Session) → List Session) : (s.onSessions f).wdg = s.wdg := rfl
@[simp] theorem State.onSessions_tmp (s : State) (f : (List Session) → List Session) : (s.onSessions f).tmp = s.tmp := rfl
@[simp] theorem State.onSessions_erg (s : State) (f : (List Session) → List Session) : (s.onSessions f).erg = s.erg := rfl
@[simp] theorem State.onSessions_fgt (s : State) (f : (List Session) → List Session) : (s.onSessions f).fgt = s.fgt := rfl
@[simp] theorem State.onSessions_psq (s : State) (f : (List Session) → List Session) : (s.onSessions f).psq = s.psq := rfl
@[simp] theorem State.onSessions_cci (s : State) (f : (List Session) → List Session) : (s.onSessions f).cci = s.cci := rfl
@[simp] theorem State.onSessions_lcs (s : State) (f : (List Session) → List Session) : (s.onSessions f).lcs = s.lcs := rfl
@[simp] theorem State.onSessions_dbg (s : State) (f : (List Session) → List Session) : (s.onSessions f).dbg = s.dbg := rfl
@[simp] theorem State.onSessions_bst (s : State) (f : (List Session) → List Session) : (s.onSessions f).bst = s.bst := rfl
@[simp] theorem State.onSessions_rng (s : State) (f : (List Session) → List Session) : (s.onSessions f).rng = s.rng := rfl
@[simp] theorem State.onSessions_ump (s : State) (f : (List Session) → List Session) : (s.onSessions f).ump = s.ump := rfl
@[simp] theorem State.onSessions_sessions (s : State) (f : (List Session) → List Session) : (s.onSessions f).sessions = f s.sessions := rfl
@[simp] theorem State.onSessions_spdm (s : State) (f : (List Session) → List Session) : (s.onSessions f).spdm = s.spdm := rfl
@[simp] theorem State.onSessions_mon (s : State) (f : (List Session) → List Session) : (s.onSessions f).mon = s.mon := rfl
@[simp] theorem State.onSessions_pldm (s : State) (f : (List Session) → List Session) : (s.onSessions f).pldm = s.pldm := rfl
@[simp] theorem State.onSessions_store (s : State) (f : (List Session) → List Session) : (s.onSessions f).store = s.store := rfl
@[simp] theorem State.onSpdm_variant (s : State) (f : (SMap Spdm) → SMap Spdm) : (s.onSpdm f).variant = s.variant := rfl
@[simp] theorem State.onSpdm_pending (s : State) (f : (SMap Spdm) → SMap Spdm) : (s.onSpdm f).pending = s.pending := rfl
@[simp] theorem State.onSpdm_out (s : State) (f : (SMap Spdm) → SMap Spdm) : (s.onSpdm f).out = s.out := rfl
@[simp] theorem State.onSpdm_freeCtr (s : State) (f : (SMap Spdm) → SMap Spdm) : (s.onSpdm f).freeCtr = s.freeCtr := rfl
@[simp] theorem State.onSpdm_hdrs (s : State) (f : (SMap Spdm) → SMap Spdm) : (s.onSpdm f).hdrs = s.hdrs := rfl
@[simp] theorem State.onSpdm_mirrors (s : State) (f : (SMap Spdm) → SMap Spdm) : (s.onSpdm f).mirrors = s.mirrors := rfl
@[simp] theorem State.onSpdm_chip (s : State) (f : (SMap Spdm) → SMap Spdm) : (s.onSpdm f).chip = s.chip := rfl
@[simp] theorem State.onSpdm_pcie (s : State) (f : (SMap Spdm) → SMap Spdm) : (s.onSpdm f).pcie = s.pcie := rfl
@[simp] theorem State.onSpdm_fns (s : State) (f : (SMap Spdm) → SMap Spdm) : (s.onSpdm f).fns = s.fns := rfl
@[simp] theorem State.onSpdm_chans (s : State) (f : (SMap Spdm) → SMap Spdm) : (s.onSpdm f).chans = s.chans := rfl
@[simp] theorem State.onSpdm_gens (s : State) (f : (SMap Spdm) → SMap Spdm) : (s.onSpdm f).gens = s.gens := rfl
@[simp] theorem State.onSpdm_chFreed (s : State) (f : (SMap Spdm) → SMap Spdm) : (s.onSpdm f).chFreed = s.chFreed := rfl
@[simp] theorem State.onSpdm_reqs (s : State) (f : (SMap Spdm) → SMap Spdm) : (s.onSpdm f).reqs = s.reqs := rfl
@[simp] theorem State.onSpdm_nextReq (s : State) (f : (SMap Spdm) → SMap Spdm) : (s.onSpdm f).nextReq = s.nextReq := rfl
@[simp] theorem State.onSpdm_jobs (s : State) (f : (SMap Spdm) → SMap Spdm) : (s.onSpdm f).jobs = s.jobs := rfl
@[simp] theorem State.onSpdm_nextJob (s : State) (f : (SMap Spdm) → SMap Spdm) : (s.onSpdm f).nextJob = s.nextJob := rfl
@[simp] theorem State.onSpdm_msh (s : State) (f : (SMap Spdm) → SMap Spdm) : (s.onSpdm f).msh = s.msh := rfl
@[simp] theorem State.onSpdm_eights (s : State) (f : (SMap Spdm) → SMap Spdm) : (s.onSpdm f).eights = s.eights := rfl
@[simp] theorem State.onSpdm_progs (s : State) (f : (SMap Spdm) → SMap Spdm) : (s.onSpdm f).progs = s.progs := rfl
@[simp] theorem State.onSpdm_quads (s : State) (f : (SMap Spdm) → SMap Spdm) : (s.onSpdm f).quads = s.quads := rfl
@[simp] theorem State.onSpdm_meas (s : State) (f : (SMap Spdm) → SMap Spdm) : (s.onSpdm f).meas = s.meas := rfl
@[simp] theorem State.onSpdm_slices (s : State) (f : (SMap Spdm) → SMap Spdm) : (s.onSpdm f).slices = s.slices := rfl
@[simp] theorem State.onSpdm_klg (s : State) (f : (SMap Spdm) → SMap Spdm) : (s.onSpdm f).klg = s.klg := rfl
@[simp] theorem State.onSpdm_kslots (s : State) (f : (SMap Spdm) → SMap Spdm) : (s.onSpdm f).kslots = s.kslots := rfl
@[simp] theorem State.onSpdm_kfrees (s : State) (f : (SMap Spdm) → SMap Spdm) : (s.onSpdm f).kfrees = s.kfrees := rfl
@[simp] theorem State.onSpdm_genBase (s : State) (f : (SMap Spdm) → SMap Spdm) : (s.onSpdm f).genBase = s.genBase := rfl
@[simp] theorem State.onSpdm_domains (s : State) (f : (SMap Spdm) → SMap Spdm) : (s.onSpdm f).domains = s.domains := rfl
@[simp] theorem State.onSpdm_heat (s : State) (f : (SMap Spdm) → SMap Spdm) : (s.onSpdm f).heat = s.heat := rfl
@[simp] theorem State.onSpdm_aod (s : State) (f : (SMap Spdm) → SMap Spdm) : (s.onSpdm f).aod = s.aod := rfl
@[simp] theorem State.onSpdm_otp (s : State) (f : (SMap Spdm) → SMap Spdm) : (s.onSpdm f).otp = s.otp := rfl
@[simp] theorem State.onSpdm_wdg (s : State) (f : (SMap Spdm) → SMap Spdm) : (s.onSpdm f).wdg = s.wdg := rfl
@[simp] theorem State.onSpdm_tmp (s : State) (f : (SMap Spdm) → SMap Spdm) : (s.onSpdm f).tmp = s.tmp := rfl
@[simp] theorem State.onSpdm_erg (s : State) (f : (SMap Spdm) → SMap Spdm) : (s.onSpdm f).erg = s.erg := rfl
@[simp] theorem State.onSpdm_fgt (s : State) (f : (SMap Spdm) → SMap Spdm) : (s.onSpdm f).fgt = s.fgt := rfl
@[simp] theorem State.onSpdm_psq (s : State) (f : (SMap Spdm) → SMap Spdm) : (s.onSpdm f).psq = s.psq := rfl
@[simp] theorem State.onSpdm_cci (s : State) (f : (SMap Spdm) → SMap Spdm) : (s.onSpdm f).cci = s.cci := rfl
@[simp] theorem State.onSpdm_lcs (s : State) (f : (SMap Spdm) → SMap Spdm) : (s.onSpdm f).lcs = s.lcs := rfl
@[simp] theorem State.onSpdm_dbg (s : State) (f : (SMap Spdm) → SMap Spdm) : (s.onSpdm f).dbg = s.dbg := rfl
@[simp] theorem State.onSpdm_bst (s : State) (f : (SMap Spdm) → SMap Spdm) : (s.onSpdm f).bst = s.bst := rfl
@[simp] theorem State.onSpdm_rng (s : State) (f : (SMap Spdm) → SMap Spdm) : (s.onSpdm f).rng = s.rng := rfl
@[simp] theorem State.onSpdm_ump (s : State) (f : (SMap Spdm) → SMap Spdm) : (s.onSpdm f).ump = s.ump := rfl
@[simp] theorem State.onSpdm_sessions (s : State) (f : (SMap Spdm) → SMap Spdm) : (s.onSpdm f).sessions = s.sessions := rfl
@[simp] theorem State.onSpdm_spdm (s : State) (f : (SMap Spdm) → SMap Spdm) : (s.onSpdm f).spdm = f s.spdm := rfl
@[simp] theorem State.onSpdm_mon (s : State) (f : (SMap Spdm) → SMap Spdm) : (s.onSpdm f).mon = s.mon := rfl
@[simp] theorem State.onSpdm_pldm (s : State) (f : (SMap Spdm) → SMap Spdm) : (s.onSpdm f).pldm = s.pldm := rfl
@[simp] theorem State.onSpdm_store (s : State) (f : (SMap Spdm) → SMap Spdm) : (s.onSpdm f).store = s.store := rfl
@[simp] theorem State.onMon_variant (s : State) (f : Mon → Mon) : (s.onMon f).variant = s.variant := rfl
@[simp] theorem State.onMon_pending (s : State) (f : Mon → Mon) : (s.onMon f).pending = s.pending := rfl
@[simp] theorem State.onMon_out (s : State) (f : Mon → Mon) : (s.onMon f).out = s.out := rfl
@[simp] theorem State.onMon_freeCtr (s : State) (f : Mon → Mon) : (s.onMon f).freeCtr = s.freeCtr := rfl
@[simp] theorem State.onMon_hdrs (s : State) (f : Mon → Mon) : (s.onMon f).hdrs = s.hdrs := rfl
@[simp] theorem State.onMon_mirrors (s : State) (f : Mon → Mon) : (s.onMon f).mirrors = s.mirrors := rfl
@[simp] theorem State.onMon_chip (s : State) (f : Mon → Mon) : (s.onMon f).chip = s.chip := rfl
@[simp] theorem State.onMon_pcie (s : State) (f : Mon → Mon) : (s.onMon f).pcie = s.pcie := rfl
@[simp] theorem State.onMon_fns (s : State) (f : Mon → Mon) : (s.onMon f).fns = s.fns := rfl
@[simp] theorem State.onMon_chans (s : State) (f : Mon → Mon) : (s.onMon f).chans = s.chans := rfl
@[simp] theorem State.onMon_gens (s : State) (f : Mon → Mon) : (s.onMon f).gens = s.gens := rfl
@[simp] theorem State.onMon_chFreed (s : State) (f : Mon → Mon) : (s.onMon f).chFreed = s.chFreed := rfl
@[simp] theorem State.onMon_reqs (s : State) (f : Mon → Mon) : (s.onMon f).reqs = s.reqs := rfl
@[simp] theorem State.onMon_nextReq (s : State) (f : Mon → Mon) : (s.onMon f).nextReq = s.nextReq := rfl
@[simp] theorem State.onMon_jobs (s : State) (f : Mon → Mon) : (s.onMon f).jobs = s.jobs := rfl
@[simp] theorem State.onMon_nextJob (s : State) (f : Mon → Mon) : (s.onMon f).nextJob = s.nextJob := rfl
@[simp] theorem State.onMon_msh (s : State) (f : Mon → Mon) : (s.onMon f).msh = s.msh := rfl
@[simp] theorem State.onMon_eights (s : State) (f : Mon → Mon) : (s.onMon f).eights = s.eights := rfl
@[simp] theorem State.onMon_progs (s : State) (f : Mon → Mon) : (s.onMon f).progs = s.progs := rfl
@[simp] theorem State.onMon_quads (s : State) (f : Mon → Mon) : (s.onMon f).quads = s.quads := rfl
@[simp] theorem State.onMon_meas (s : State) (f : Mon → Mon) : (s.onMon f).meas = s.meas := rfl
@[simp] theorem State.onMon_slices (s : State) (f : Mon → Mon) : (s.onMon f).slices = s.slices := rfl
@[simp] theorem State.onMon_klg (s : State) (f : Mon → Mon) : (s.onMon f).klg = s.klg := rfl
@[simp] theorem State.onMon_kslots (s : State) (f : Mon → Mon) : (s.onMon f).kslots = s.kslots := rfl
@[simp] theorem State.onMon_kfrees (s : State) (f : Mon → Mon) : (s.onMon f).kfrees = s.kfrees := rfl
@[simp] theorem State.onMon_genBase (s : State) (f : Mon → Mon) : (s.onMon f).genBase = s.genBase := rfl
@[simp] theorem State.onMon_domains (s : State) (f : Mon → Mon) : (s.onMon f).domains = s.domains := rfl
@[simp] theorem State.onMon_heat (s : State) (f : Mon → Mon) : (s.onMon f).heat = s.heat := rfl
@[simp] theorem State.onMon_aod (s : State) (f : Mon → Mon) : (s.onMon f).aod = s.aod := rfl
@[simp] theorem State.onMon_otp (s : State) (f : Mon → Mon) : (s.onMon f).otp = s.otp := rfl
@[simp] theorem State.onMon_wdg (s : State) (f : Mon → Mon) : (s.onMon f).wdg = s.wdg := rfl
@[simp] theorem State.onMon_tmp (s : State) (f : Mon → Mon) : (s.onMon f).tmp = s.tmp := rfl
@[simp] theorem State.onMon_erg (s : State) (f : Mon → Mon) : (s.onMon f).erg = s.erg := rfl
@[simp] theorem State.onMon_fgt (s : State) (f : Mon → Mon) : (s.onMon f).fgt = s.fgt := rfl
@[simp] theorem State.onMon_psq (s : State) (f : Mon → Mon) : (s.onMon f).psq = s.psq := rfl
@[simp] theorem State.onMon_cci (s : State) (f : Mon → Mon) : (s.onMon f).cci = s.cci := rfl
@[simp] theorem State.onMon_lcs (s : State) (f : Mon → Mon) : (s.onMon f).lcs = s.lcs := rfl
@[simp] theorem State.onMon_dbg (s : State) (f : Mon → Mon) : (s.onMon f).dbg = s.dbg := rfl
@[simp] theorem State.onMon_bst (s : State) (f : Mon → Mon) : (s.onMon f).bst = s.bst := rfl
@[simp] theorem State.onMon_rng (s : State) (f : Mon → Mon) : (s.onMon f).rng = s.rng := rfl
@[simp] theorem State.onMon_ump (s : State) (f : Mon → Mon) : (s.onMon f).ump = s.ump := rfl
@[simp] theorem State.onMon_sessions (s : State) (f : Mon → Mon) : (s.onMon f).sessions = s.sessions := rfl
@[simp] theorem State.onMon_spdm (s : State) (f : Mon → Mon) : (s.onMon f).spdm = s.spdm := rfl
@[simp] theorem State.onMon_mon (s : State) (f : Mon → Mon) : (s.onMon f).mon = f s.mon := rfl
@[simp] theorem State.onMon_pldm (s : State) (f : Mon → Mon) : (s.onMon f).pldm = s.pldm := rfl
@[simp] theorem State.onMon_store (s : State) (f : Mon → Mon) : (s.onMon f).store = s.store := rfl
@[simp] theorem State.onPldm_variant (s : State) (f : Pldm5 → Pldm5) : (s.onPldm f).variant = s.variant := rfl
@[simp] theorem State.onPldm_pending (s : State) (f : Pldm5 → Pldm5) : (s.onPldm f).pending = s.pending := rfl
@[simp] theorem State.onPldm_out (s : State) (f : Pldm5 → Pldm5) : (s.onPldm f).out = s.out := rfl
@[simp] theorem State.onPldm_freeCtr (s : State) (f : Pldm5 → Pldm5) : (s.onPldm f).freeCtr = s.freeCtr := rfl
@[simp] theorem State.onPldm_hdrs (s : State) (f : Pldm5 → Pldm5) : (s.onPldm f).hdrs = s.hdrs := rfl
@[simp] theorem State.onPldm_mirrors (s : State) (f : Pldm5 → Pldm5) : (s.onPldm f).mirrors = s.mirrors := rfl
@[simp] theorem State.onPldm_chip (s : State) (f : Pldm5 → Pldm5) : (s.onPldm f).chip = s.chip := rfl
@[simp] theorem State.onPldm_pcie (s : State) (f : Pldm5 → Pldm5) : (s.onPldm f).pcie = s.pcie := rfl
@[simp] theorem State.onPldm_fns (s : State) (f : Pldm5 → Pldm5) : (s.onPldm f).fns = s.fns := rfl
@[simp] theorem State.onPldm_chans (s : State) (f : Pldm5 → Pldm5) : (s.onPldm f).chans = s.chans := rfl
@[simp] theorem State.onPldm_gens (s : State) (f : Pldm5 → Pldm5) : (s.onPldm f).gens = s.gens := rfl
@[simp] theorem State.onPldm_chFreed (s : State) (f : Pldm5 → Pldm5) : (s.onPldm f).chFreed = s.chFreed := rfl
@[simp] theorem State.onPldm_reqs (s : State) (f : Pldm5 → Pldm5) : (s.onPldm f).reqs = s.reqs := rfl
@[simp] theorem State.onPldm_nextReq (s : State) (f : Pldm5 → Pldm5) : (s.onPldm f).nextReq = s.nextReq := rfl
@[simp] theorem State.onPldm_jobs (s : State) (f : Pldm5 → Pldm5) : (s.onPldm f).jobs = s.jobs := rfl
@[simp] theorem State.onPldm_nextJob (s : State) (f : Pldm5 → Pldm5) : (s.onPldm f).nextJob = s.nextJob := rfl
@[simp] theorem State.onPldm_msh (s : State) (f : Pldm5 → Pldm5) : (s.onPldm f).msh = s.msh := rfl
@[simp] theorem State.onPldm_eights (s : State) (f : Pldm5 → Pldm5) : (s.onPldm f).eights = s.eights := rfl
@[simp] theorem State.onPldm_progs (s : State) (f : Pldm5 → Pldm5) : (s.onPldm f).progs = s.progs := rfl
@[simp] theorem State.onPldm_quads (s : State) (f : Pldm5 → Pldm5) : (s.onPldm f).quads = s.quads := rfl
@[simp] theorem State.onPldm_meas (s : State) (f : Pldm5 → Pldm5) : (s.onPldm f).meas = s.meas := rfl
@[simp] theorem State.onPldm_slices (s : State) (f : Pldm5 → Pldm5) : (s.onPldm f).slices = s.slices := rfl
@[simp] theorem State.onPldm_klg (s : State) (f : Pldm5 → Pldm5) : (s.onPldm f).klg = s.klg := rfl
@[simp] theorem State.onPldm_kslots (s : State) (f : Pldm5 → Pldm5) : (s.onPldm f).kslots = s.kslots := rfl
@[simp] theorem State.onPldm_kfrees (s : State) (f : Pldm5 → Pldm5) : (s.onPldm f).kfrees = s.kfrees := rfl
@[simp] theorem State.onPldm_genBase (s : State) (f : Pldm5 → Pldm5) : (s.onPldm f).genBase = s.genBase := rfl
@[simp] theorem State.onPldm_domains (s : State) (f : Pldm5 → Pldm5) : (s.onPldm f).domains = s.domains := rfl
@[simp] theorem State.onPldm_heat (s : State) (f : Pldm5 → Pldm5) : (s.onPldm f).heat = s.heat := rfl
@[simp] theorem State.onPldm_aod (s : State) (f : Pldm5 → Pldm5) : (s.onPldm f).aod = s.aod := rfl
@[simp] theorem State.onPldm_otp (s : State) (f : Pldm5 → Pldm5) : (s.onPldm f).otp = s.otp := rfl
@[simp] theorem State.onPldm_wdg (s : State) (f : Pldm5 → Pldm5) : (s.onPldm f).wdg = s.wdg := rfl
@[simp] theorem State.onPldm_tmp (s : State) (f : Pldm5 → Pldm5) : (s.onPldm f).tmp = s.tmp := rfl
@[simp] theorem State.onPldm_erg (s : State) (f : Pldm5 → Pldm5) : (s.onPldm f).erg = s.erg := rfl
@[simp] theorem State.onPldm_fgt (s : State) (f : Pldm5 → Pldm5) : (s.onPldm f).fgt = s.fgt := rfl
@[simp] theorem State.onPldm_psq (s : State) (f : Pldm5 → Pldm5) : (s.onPldm f).psq = s.psq := rfl
@[simp] theorem State.onPldm_cci (s : State) (f : Pldm5 → Pldm5) : (s.onPldm f).cci = s.cci := rfl
@[simp] theorem State.onPldm_lcs (s : State) (f : Pldm5 → Pldm5) : (s.onPldm f).lcs = s.lcs := rfl
@[simp] theorem State.onPldm_dbg (s : State) (f : Pldm5 → Pldm5) : (s.onPldm f).dbg = s.dbg := rfl
@[simp] theorem State.onPldm_bst (s : State) (f : Pldm5 → Pldm5) : (s.onPldm f).bst = s.bst := rfl
@[simp] theorem State.onPldm_rng (s : State) (f : Pldm5 → Pldm5) : (s.onPldm f).rng = s.rng := rfl
@[simp] theorem State.onPldm_ump (s : State) (f : Pldm5 → Pldm5) : (s.onPldm f).ump = s.ump := rfl
@[simp] theorem State.onPldm_sessions (s : State) (f : Pldm5 → Pldm5) : (s.onPldm f).sessions = s.sessions := rfl
@[simp] theorem State.onPldm_spdm (s : State) (f : Pldm5 → Pldm5) : (s.onPldm f).spdm = s.spdm := rfl
@[simp] theorem State.onPldm_mon (s : State) (f : Pldm5 → Pldm5) : (s.onPldm f).mon = s.mon := rfl
@[simp] theorem State.onPldm_pldm (s : State) (f : Pldm5 → Pldm5) : (s.onPldm f).pldm = f s.pldm := rfl
@[simp] theorem State.onPldm_store (s : State) (f : Pldm5 → Pldm5) : (s.onPldm f).store = s.store := rfl
@[simp] theorem State.onStore_variant (s : State) (f : Store → Store) : (s.onStore f).variant = s.variant := rfl
@[simp] theorem State.onStore_pending (s : State) (f : Store → Store) : (s.onStore f).pending = s.pending := rfl
@[simp] theorem State.onStore_out (s : State) (f : Store → Store) : (s.onStore f).out = s.out := rfl
@[simp] theorem State.onStore_freeCtr (s : State) (f : Store → Store) : (s.onStore f).freeCtr = s.freeCtr := rfl
@[simp] theorem State.onStore_hdrs (s : State) (f : Store → Store) : (s.onStore f).hdrs = s.hdrs := rfl
@[simp] theorem State.onStore_mirrors (s : State) (f : Store → Store) : (s.onStore f).mirrors = s.mirrors := rfl
@[simp] theorem State.onStore_chip (s : State) (f : Store → Store) : (s.onStore f).chip = s.chip := rfl
@[simp] theorem State.onStore_pcie (s : State) (f : Store → Store) : (s.onStore f).pcie = s.pcie := rfl
@[simp] theorem State.onStore_fns (s : State) (f : Store → Store) : (s.onStore f).fns = s.fns := rfl
@[simp] theorem State.onStore_chans (s : State) (f : Store → Store) : (s.onStore f).chans = s.chans := rfl
@[simp] theorem State.onStore_gens (s : State) (f : Store → Store) : (s.onStore f).gens = s.gens := rfl
@[simp] theorem State.onStore_chFreed (s : State) (f : Store → Store) : (s.onStore f).chFreed = s.chFreed := rfl
@[simp] theorem State.onStore_reqs (s : State) (f : Store → Store) : (s.onStore f).reqs = s.reqs := rfl
@[simp] theorem State.onStore_nextReq (s : State) (f : Store → Store) : (s.onStore f).nextReq = s.nextReq := rfl
@[simp] theorem State.onStore_jobs (s : State) (f : Store → Store) : (s.onStore f).jobs = s.jobs := rfl
@[simp] theorem State.onStore_nextJob (s : State) (f : Store → Store) : (s.onStore f).nextJob = s.nextJob := rfl
@[simp] theorem State.onStore_msh (s : State) (f : Store → Store) : (s.onStore f).msh = s.msh := rfl
@[simp] theorem State.onStore_eights (s : State) (f : Store → Store) : (s.onStore f).eights = s.eights := rfl
@[simp] theorem State.onStore_progs (s : State) (f : Store → Store) : (s.onStore f).progs = s.progs := rfl
@[simp] theorem State.onStore_quads (s : State) (f : Store → Store) : (s.onStore f).quads = s.quads := rfl
@[simp] theorem State.onStore_meas (s : State) (f : Store → Store) : (s.onStore f).meas = s.meas := rfl
@[simp] theorem State.onStore_slices (s : State) (f : Store → Store) : (s.onStore f).slices = s.slices := rfl
@[simp] theorem State.onStore_klg (s : State) (f : Store → Store) : (s.onStore f).klg = s.klg := rfl
@[simp] theorem State.onStore_kslots (s : State) (f : Store → Store) : (s.onStore f).kslots = s.kslots := rfl
@[simp] theorem State.onStore_kfrees (s : State) (f : Store → Store) : (s.onStore f).kfrees = s.kfrees := rfl
@[simp] theorem State.onStore_genBase (s : State) (f : Store → Store) : (s.onStore f).genBase = s.genBase := rfl
@[simp] theorem State.onStore_domains (s : State) (f : Store → Store) : (s.onStore f).domains = s.domains := rfl
@[simp] theorem State.onStore_heat (s : State) (f : Store → Store) : (s.onStore f).heat = s.heat := rfl
@[simp] theorem State.onStore_aod (s : State) (f : Store → Store) : (s.onStore f).aod = s.aod := rfl
@[simp] theorem State.onStore_otp (s : State) (f : Store → Store) : (s.onStore f).otp = s.otp := rfl
@[simp] theorem State.onStore_wdg (s : State) (f : Store → Store) : (s.onStore f).wdg = s.wdg := rfl
@[simp] theorem State.onStore_tmp (s : State) (f : Store → Store) : (s.onStore f).tmp = s.tmp := rfl
@[simp] theorem State.onStore_erg (s : State) (f : Store → Store) : (s.onStore f).erg = s.erg := rfl
@[simp] theorem State.onStore_fgt (s : State) (f : Store → Store) : (s.onStore f).fgt = s.fgt := rfl
@[simp] theorem State.onStore_psq (s : State) (f : Store → Store) : (s.onStore f).psq = s.psq := rfl
@[simp] theorem State.onStore_cci (s : State) (f : Store → Store) : (s.onStore f).cci = s.cci := rfl
@[simp] theorem State.onStore_lcs (s : State) (f : Store → Store) : (s.onStore f).lcs = s.lcs := rfl
@[simp] theorem State.onStore_dbg (s : State) (f : Store → Store) : (s.onStore f).dbg = s.dbg := rfl
@[simp] theorem State.onStore_bst (s : State) (f : Store → Store) : (s.onStore f).bst = s.bst := rfl
@[simp] theorem State.onStore_rng (s : State) (f : Store → Store) : (s.onStore f).rng = s.rng := rfl
@[simp] theorem State.onStore_ump (s : State) (f : Store → Store) : (s.onStore f).ump = s.ump := rfl
@[simp] theorem State.onStore_sessions (s : State) (f : Store → Store) : (s.onStore f).sessions = s.sessions := rfl
@[simp] theorem State.onStore_spdm (s : State) (f : Store → Store) : (s.onStore f).spdm = s.spdm := rfl
@[simp] theorem State.onStore_mon (s : State) (f : Store → Store) : (s.onStore f).mon = s.mon := rfl
@[simp] theorem State.onStore_pldm (s : State) (f : Store → Store) : (s.onStore f).pldm = s.pldm := rfl
@[simp] theorem State.onStore_store (s : State) (f : Store → Store) : (s.onStore f).store = f s.store := rfl

end Sys2Proof.Machine
end

