-- ==== Sys2Proof/Laws/Only.lean ====
section
/-!
SUPPORT. Frames: what each shared operation changes and leaves alone, said once, and how frames compose.
-/

namespace Sys2Proof.Machine

variable {l l' : List Field} {s t u : State}

theorem Only.refl (l : List Field) (s : State) : Only l s s := ⟨rfl, rfl, fun f _ => by cases f <;> rfl⟩

theorem Only.trans (h : Only l s t) (h' : Only l t u) : Only l s u := by
  refine ⟨h'.1.trans h.1, h'.2.1.trans h.2.1, fun f hf => ?_⟩
  have h1 := h.2.2 f hf
  have h2 := h'.2.2 f hf
  cases f <;> exact Eq.trans h2 h1

theorem Only.mono (h : Only l s t) (hl : l ⊆ l') : Only l' s t :=
  ⟨h.1, h.2.1, fun f hf => h.2.2 f fun h1 => hf (hl h1)⟩

/-! ### After one update of a field -/

theorem Only.onOut (hl : Field.out ∈ l) (h : Only l s t) (f : (List OutEvent) → List OutEvent) : Only l s (t.onOut f) :=
  h.trans ⟨rfl, rfl, fun x hx => by cases x <;> first | rfl | exact absurd hl hx⟩

theorem Only.onFreeCtr (hl : Field.freeCtr ∈ l) (h : Only l s t) (f : Nat → Nat) : Only l s (t.onFreeCtr f) :=
  h.trans ⟨rfl, rfl, fun x hx => by cases x <;> first | rfl | exact absurd hl hx⟩

theorem Only.onHdrs (hl : Field.hdrs ∈ l) (h : Only l s t) (f : (SMap Hdr) → SMap Hdr) : Only l s (t.onHdrs f) :=
  h.trans ⟨rfl, rfl, fun x hx => by cases x <;> first | rfl | exact absurd hl hx⟩

theorem Only.onMirrors (hl : Field.mirrors ∈ l) (h : Only l s t) (f : (SMap Mirror) → SMap Mirror) : Only l s (t.onMirrors f) :=
  h.trans ⟨rfl, rfl, fun x hx => by cases x <;> first | rfl | exact absurd hl hx⟩

theorem Only.onChip (hl : Field.chip ∈ l) (h : Only l s t) (f : Chip → Chip) : Only l s (t.onChip f) :=
  h.trans ⟨rfl, rfl, fun x hx => by cases x <;> first | rfl | exact absurd hl hx⟩

theorem Only.onPcie (hl : Field.pcie ∈ l) (h : Only l s t) (f : Pcie → Pcie) : Only l s (t.onPcie f) :=
  h.trans ⟨rfl, rfl, fun x hx => by cases x <;> first | rfl | exact absurd hl hx⟩

theorem Only.onFns (hl : Field.fns ∈ l) (h : Only l s t) (f : (SMap Fn) → SMap Fn) : Only l s (t.onFns f) :=
  h.trans ⟨rfl, rfl, fun x hx => by cases x <;> first | rfl | exact absurd hl hx⟩

theorem Only.onChans (hl : Field.chans ∈ l) (h : Only l s t) (f : (SMap (Option Chan)) → SMap (Option Chan)) : Only l s (t.onChans f) :=
  h.trans ⟨rfl, rfl, fun x hx => by cases x <;> first | rfl | exact absurd hl hx⟩

theorem Only.onGens (hl : Field.gens ∈ l) (h : Only l s t) (f : (SMap Nat) → SMap Nat) : Only l s (t.onGens f) :=
  h.trans ⟨rfl, rfl, fun x hx => by cases x <;> first | rfl | exact absurd hl hx⟩

theorem Only.onChFreed (hl : Field.chFreed ∈ l) (h : Only l s t) (f : (List Nat) → List Nat) : Only l s (t.onChFreed f) :=
  h.trans ⟨rfl, rfl, fun x hx => by cases x <;> first | rfl | exact absurd hl hx⟩

theorem Only.onReqs (hl : Field.reqs ∈ l) (h : Only l s t) (f : (SMap (Option Req)) → SMap (Option Req)) : Only l s (t.onReqs f) :=
  h.trans ⟨rfl, rfl, fun x hx => by cases x <;> first | rfl | exact absurd hl hx⟩

theorem Only.onNextReq (hl : Field.nextReq ∈ l) (h : Only l s t) (f : Nat → Nat) : Only l s (t.onNextReq f) :=
  h.trans ⟨rfl, rfl, fun x hx => by cases x <;> first | rfl | exact absurd hl hx⟩

theorem Only.onJobs (hl : Field.jobs ∈ l) (h : Only l s t) (f : (SMap (Option Job)) → SMap (Option Job)) : Only l s (t.onJobs f) :=
  h.trans ⟨rfl, rfl, fun x hx => by cases x <;> first | rfl | exact absurd hl hx⟩

theorem Only.onNextJob (hl : Field.nextJob ∈ l) (h : Only l s t) (f : Nat → Nat) : Only l s (t.onNextJob f) :=
  h.trans ⟨rfl, rfl, fun x hx => by cases x <;> first | rfl | exact absurd hl hx⟩

theorem Only.onMsh (hl : Field.msh ∈ l) (h : Only l s t) (f : Msh → Msh) : Only l s (t.onMsh f) :=
  h.trans ⟨rfl, rfl, fun x hx => by cases x <;> first | rfl | exact absurd hl hx⟩

theorem Only.onEights (hl : Field.eights ∈ l) (h : Only l s t) (f : (SMap Eight) → SMap Eight) : Only l s (t.onEights f) :=
  h.trans ⟨rfl, rfl, fun x hx => by cases x <;> first | rfl | exact absurd hl hx⟩

theorem Only.onProgs (hl : Field.progs ∈ l) (h : Only l s t) (f : (SMap (Option Prog)) → SMap (Option Prog)) : Only l s (t.onProgs f) :=
  h.trans ⟨rfl, rfl, fun x hx => by cases x <;> first | rfl | exact absurd hl hx⟩

theorem Only.onQuads (hl : Field.quads ∈ l) (h : Only l s t) (f : (SMap Quad) → SMap Quad) : Only l s (t.onQuads f) :=
  h.trans ⟨rfl, rfl, fun x hx => by cases x <;> first | rfl | exact absurd hl hx⟩

theorem Only.onMeas (hl : Field.meas ∈ l) (h : Only l s t) (f : (SMap Meas) → SMap Meas) : Only l s (t.onMeas f) :=
  h.trans ⟨rfl, rfl, fun x hx => by cases x <;> first | rfl | exact absurd hl hx⟩

theorem Only.onSlices (hl : Field.slices ∈ l) (h : Only l s t) (f : (SMap Slice) → SMap Slice) : Only l s (t.onSlices f) :=
  h.trans ⟨rfl, rfl, fun x hx => by cases x <;> first | rfl | exact absurd hl hx⟩

theorem Only.onKlg (hl : Field.klg ∈ l) (h : Only l s t) (f : Klg → Klg) : Only l s (t.onKlg f) :=
  h.trans ⟨rfl, rfl, fun x hx => by cases x <;> first | rfl | exact absurd hl hx⟩

theorem Only.onKslots (hl : Field.kslots ∈ l) (h : Only l s t) (f : (SMap KSlot) → SMap KSlot) : Only l s (t.onKslots f) :=
  h.trans ⟨rfl, rfl, fun x hx => by cases x <;> first | rfl | exact absurd hl hx⟩

theorem Only.onKfrees (hl : Field.kfrees ∈ l) (h : Only l s t) (f : (SMap Nat) → SMap Nat) : Only l s (t.onKfrees f) :=
  h.trans ⟨rfl, rfl, fun x hx => by cases x <;> first | rfl | exact absurd hl hx⟩

theorem Only.onGenBase (hl : Field.genBase ∈ l) (h : Only l s t) (f : Nat → Nat) : Only l s (t.onGenBase f) :=
  h.trans ⟨rfl, rfl, fun x hx => by cases x <;> first | rfl | exact absurd hl hx⟩

theorem Only.onDomains (hl : Field.domains ∈ l) (h : Only l s t) (f : (SMap (Option Domain)) → SMap (Option Domain)) : Only l s (t.onDomains f) :=
  h.trans ⟨rfl, rfl, fun x hx => by cases x <;> first | rfl | exact absurd hl hx⟩

theorem Only.onHeat (hl : Field.heat ∈ l) (h : Only l s t) (f : Heat → Heat) : Only l s (t.onHeat f) :=
  h.trans ⟨rfl, rfl, fun x hx => by cases x <;> first | rfl | exact absurd hl hx⟩

theorem Only.onAod (hl : Field.aod ∈ l) (h : Only l s t) (f : Aod → Aod) : Only l s (t.onAod f) :=
  h.trans ⟨rfl, rfl, fun x hx => by cases x <;> first | rfl | exact absurd hl hx⟩

theorem Only.onOtp (hl : Field.otp ∈ l) (h : Only l s t) (f : Otp → Otp) : Only l s (t.onOtp f) :=
  h.trans ⟨rfl, rfl, fun x hx => by cases x <;> first | rfl | exact absurd hl hx⟩

theorem Only.onWdg (hl : Field.wdg ∈ l) (h : Only l s t) (f : Wdg → Wdg) : Only l s (t.onWdg f) :=
  h.trans ⟨rfl, rfl, fun x hx => by cases x <;> first | rfl | exact absurd hl hx⟩

theorem Only.onTmp (hl : Field.tmp ∈ l) (h : Only l s t) (f : Tmp → Tmp) : Only l s (t.onTmp f) :=
  h.trans ⟨rfl, rfl, fun x hx => by cases x <;> first | rfl | exact absurd hl hx⟩

theorem Only.onErg (hl : Field.erg ∈ l) (h : Only l s t) (f : Erg → Erg) : Only l s (t.onErg f) :=
  h.trans ⟨rfl, rfl, fun x hx => by cases x <;> first | rfl | exact absurd hl hx⟩

theorem Only.onFgt (hl : Field.fgt ∈ l) (h : Only l s t) (f : Fgt → Fgt) : Only l s (t.onFgt f) :=
  h.trans ⟨rfl, rfl, fun x hx => by cases x <;> first | rfl | exact absurd hl hx⟩

theorem Only.onPsq (hl : Field.psq ∈ l) (h : Only l s t) (f : Psq → Psq) : Only l s (t.onPsq f) :=
  h.trans ⟨rfl, rfl, fun x hx => by cases x <;> first | rfl | exact absurd hl hx⟩

theorem Only.onCci (hl : Field.cci ∈ l) (h : Only l s t) (f : Cci → Cci) : Only l s (t.onCci f) :=
  h.trans ⟨rfl, rfl, fun x hx => by cases x <;> first | rfl | exact absurd hl hx⟩

theorem Only.onLcs (hl : Field.lcs ∈ l) (h : Only l s t) (f : Lcs → Lcs) : Only l s (t.onLcs f) :=
  h.trans ⟨rfl, rfl, fun x hx => by cases x <;> first | rfl | exact absurd hl hx⟩

theorem Only.onDbg (hl : Field.dbg ∈ l) (h : Only l s t) (f : Dbg → Dbg) : Only l s (t.onDbg f) :=
  h.trans ⟨rfl, rfl, fun x hx => by cases x <;> first | rfl | exact absurd hl hx⟩

theorem Only.onBst (hl : Field.bst ∈ l) (h : Only l s t) (f : Bst → Bst) : Only l s (t.onBst f) :=
  h.trans ⟨rfl, rfl, fun x hx => by cases x <;> first | rfl | exact absurd hl hx⟩

theorem Only.onRng (hl : Field.rng ∈ l) (h : Only l s t) (f : Rng → Rng) : Only l s (t.onRng f) :=
  h.trans ⟨rfl, rfl, fun x hx => by cases x <;> first | rfl | exact absurd hl hx⟩

theorem Only.onUmp (hl : Field.ump ∈ l) (h : Only l s t) (f : Ump → Ump) : Only l s (t.onUmp f) :=
  h.trans ⟨rfl, rfl, fun x hx => by cases x <;> first | rfl | exact absurd hl hx⟩

theorem Only.onSessions (hl : Field.sessions ∈ l) (h : Only l s t) (f : (List Session) → List Session) : Only l s (t.onSessions f) :=
  h.trans ⟨rfl, rfl, fun x hx => by cases x <;> first | rfl | exact absurd hl hx⟩

theorem Only.onSpdm (hl : Field.spdm ∈ l) (h : Only l s t) (f : (SMap Spdm) → SMap Spdm) : Only l s (t.onSpdm f) :=
  h.trans ⟨rfl, rfl, fun x hx => by cases x <;> first | rfl | exact absurd hl hx⟩

theorem Only.onMon (hl : Field.mon ∈ l) (h : Only l s t) (f : Mon → Mon) : Only l s (t.onMon f) :=
  h.trans ⟨rfl, rfl, fun x hx => by cases x <;> first | rfl | exact absurd hl hx⟩

theorem Only.onPldm (hl : Field.pldm ∈ l) (h : Only l s t) (f : Pldm5 → Pldm5) : Only l s (t.onPldm f) :=
  h.trans ⟨rfl, rfl, fun x hx => by cases x <;> first | rfl | exact absurd hl hx⟩

theorem Only.onStore (hl : Field.store ∈ l) (h : Only l s t) (f : Store → Store) : Only l s (t.onStore f) :=
  h.trans ⟨rfl, rfl, fun x hx => by cases x <;> first | rfl | exact absurd hl hx⟩

/-! ### After the shared operations -/

theorem Only.ite {c : Prop} [Decidable c] (h : Only l s t) (h' : Only l s u) : Only l s (if c then t else u) := by
  split <;> assumption

theorem Only.emit (hl : Field.out ∈ l) (h : Only l s t) (e : OutEvent) : Only l s (t.emit e) := h.onOut hl _

theorem Only.spend (hl : Field.freeCtr ∈ l) (h : Only l s t) (n : Nat) : Only l s (t.spend n) := h.onFreeCtr hl _

theorem Only.modHdr (hl : Field.hdrs ∈ l) (h : Only l s t) (p : PageId) (f : Hdr → Hdr) : Only l s (t.modHdr p f) := h.onHdrs hl _

theorem Only.modFn (hl : Field.fns ∈ l) (h : Only l s t) (n : Nat) (f : Fn → Fn) : Only l s (t.modFn n f) := h.onFns hl _

theorem Only.modAdm (hl : Field.fns ∈ l) (h : Only l s t) (n : Nat) (f : Adm → Adm) : Only l s (t.modAdm n f) := h.onFns hl _

theorem Only.modChan (hl : Field.chans ∈ l) (h : Only l s t) (f i : Nat) (g : Chan → Chan) : Only l s (t.modChan f i g) :=
  h.onChans hl _

theorem Only.modReq (hl : Field.reqs ∈ l) (h : Only l s t) (r : Nat) (g : Req → Req) : Only l s (t.modReq r g) := h.onReqs hl _

theorem Only.modJob (hl : Field.jobs ∈ l) (h : Only l s t) (j : Nat) (g : Job → Job) : Only l s (t.modJob j g) := h.onJobs hl _

theorem Only.modEight (hl : Field.eights ∈ l) (h : Only l s t) (e : Nat) (g : Eight → Eight) : Only l s (t.modEight e g) :=
  h.onEights hl _

theorem Only.modSlot (hl : Field.eights ∈ l) (h : Only l s t) (e k : Nat) (g : Slot → Slot) : Only l s (t.modSlot e k g) :=
  h.onEights hl _

theorem Only.modQuad (hl : Field.quads ∈ l) (h : Only l s t) (r : Nat) (g : Quad → Quad) : Only l s (t.modQuad r g) :=
  h.onQuads hl _

theorem Only.modMeas (hl : Field.meas ∈ l) (h : Only l s t) (n : Nat) (g : Meas → Meas) : Only l s (t.modMeas n g) := h.onMeas hl _

theorem Only.modSlice (hl : Field.slices ∈ l) (h : Only l s t) (i : Nat) (g : Slice → Slice) : Only l s (t.modSlice i g) :=
  h.onSlices hl _

theorem Only.modKslot (hl : Field.kslots ∈ l) (h : Only l s t) (i : Nat) (g : KSlot → KSlot) : Only l s (t.modKslot i g) :=
  h.onKslots hl _

theorem Only.modDom (hl : Field.domains ∈ l) (h : Only l s t) (d : Nat) (g : Domain → Domain) : Only l s (t.modDom d g) :=
  h.onDomains hl _

theorem Only.logEvent (hl : Field.ump ∈ l) (h : Only l s t) (p c f d : Nat) : Only l s (t.logEvent p c f d) := h.onUmp hl _

/-- A message, or the PBA bit (R73). -/
theorem Only.msix (h1 : Field.out ∈ l) (h2 : Field.fns ∈ l) (h : Only l s t) (f v : Nat) : Only l s (t.msix f v) := by
  unfold State.msix
  exact (h.emit h1 _).ite (h.modFn h2 _ _)

/-- The chip interrupt source list follows, with a message (R67). -/
theorem Only.syncInt (h1 : Field.out ∈ l) (h2 : Field.fns ∈ l) (h3 : Field.chip ∈ l) (h : Only l s t) : Only l s t.syncInt := by
  unfold State.syncInt
  exact (h.onChip h3 _).ite ((h.onChip h3 _).msix h1 h2 _ _)

/-- A header's change and the interrupt requests that follow (R43). -/
theorem Only.modHdrInt (h1 : Field.out ∈ l) (h2 : Field.fns ∈ l) (h3 : Field.chip ∈ l) (h4 : Field.hdrs ∈ l) (h : Only l s t)
    (p : PageId) (f : Hdr → Hdr) : Only l s (t.modHdrInt p f) := by
  unfold State.modHdrInt
  apply Only.syncInt h1 h2 h3
  have h5 := h.modHdr h4 p f
  split
  · exact h5.msix h1 h2 _ _
  · exact h5.msix h1 h2 _ _
  · exact h5

theorem Only.setStatus (h1 : Field.out ∈ l) (h2 : Field.fns ∈ l) (h3 : Field.chip ∈ l) (h4 : Field.hdrs ∈ l) (h : Only l s t)
    (p : PageId) (m : W32) : Only l s (t.setStatus p m) := h.modHdrInt h1 h2 h3 h4 p _

theorem Only.setBit (h1 : Field.out ∈ l) (h2 : Field.fns ∈ l) (h3 : Field.chip ∈ l) (h4 : Field.hdrs ∈ l) (h : Only l s t)
    (p : PageId) (n : Nat) : Only l s (t.setBit p n) := h.setStatus h1 h2 h3 h4 p _

theorem Only.recErr (h1 : Field.out ∈ l) (h2 : Field.fns ∈ l) (h3 : Field.chip ∈ l) (h4 : Field.hdrs ∈ l) (h : Only l s t)
    (p : PageId) (c d : Nat) : Only l s (t.recErr p c d) := by
  unfold State.recErr
  exact (h.modHdr h4 _ _).ite (h.setBit h1 h2 h3 h4 _ _)

theorem Only.modChip (h1 : Field.out ∈ l) (h2 : Field.fns ∈ l) (h3 : Field.chip ∈ l) (h4 : Field.hdrs ∈ l) (h : Only l s t)
    (f : Chip → Chip) : Only l s (t.modChip f) := by
  unfold State.modChip
  exact (h.onChip h3 _).ite ((h.onChip h3 _).setStatus h1 h2 h3 h4 _ _)

theorem Only.accessErr (h1 : Field.out ∈ l) (h2 : Field.fns ∈ l) (h3 : Field.chip ∈ l) (h4 : Field.hdrs ∈ l) (h : Only l s t)
    (p : PageId) : Only l s (t.accessErr p) := h.setBit h1 h2 h3 h4 p _

theorem Only.ignoredWrite (h3 : Field.chip ∈ l) (h : Only l s t) : Only l s t.ignoredWrite := h.onChip h3 _

theorem Only.foldl {α : Type} {f : State → α → State} (hf : ∀ (u : State) (x : α), Only l s u → Only l s (f u x)) (xs : List α)
    (h : Only l s t) : Only l s (xs.foldl f t) := by
  induction xs generalizing t with
  | nil => exact h
  | cons x xs ih => exact ih (hf _ _ h)

theorem Only.askXlat (h1 : Field.out ∈ l) (h : Only l s t) (f : Nat) (p : Option (BitVec 20)) (a n : Nat) :
    Only l s (t.askXlat f p a n) := by
  unfold State.askXlat
  exact h.ite (Only.foldl (fun u x hu => hu.ite (hu.emit h1 _)) _ h)

theorem Only.dmaWrite (h1 : Field.out ∈ l) (h : Only l s t) (f : Nat) (x : Tlp) (a : Nat) (data : List Byte) :
    Only l s (t.dmaWrite f x a data) := (h.askXlat h1 f x.pasid a data.length).emit h1 _

theorem Only.writeRanges (h1 : Field.out ∈ l) (h : Only l s t) (f : Nat) (y : Tlp) (rs : List (Nat × Nat)) (data : List Byte) :
    Only l s (t.writeRanges f y rs data) := by
  induction rs generalizing t data with
  | nil => exact h
  | cons x rs ih => exact ih (h.ite (h.dmaWrite h1 f y _ _)) _

theorem Only.pldmEvent (h1 : Field.out ∈ l) (h : Only l s t) (n : Nat) (v : Int) : Only l s (t.pldmEvent n v) := by
  unfold State.pldmEvent
  exact h.ite (h.emit h1 _)

theorem Only.reportStates (h1 : Field.mon ∈ l) (h2 : Field.out ∈ l) (h : Only l s t) : Only l s t.reportStates := by
  unfold State.reportStates
  refine h.ite (Only.foldl (fun u x hu => ?_) _ h)
  exact hu.ite ((hu.onMon h1 _).pldmEvent h2 _ _)

/-! ### What a page's header reads after the shared operations -/

theorem pageKey_injective {p q : PageId} (h : pageKey p = pageKey q) : p = q := by
  cases p <;> cases q <;> first | rfl | exact absurd h (by decide) | (simp only [pageKey] at h; first | omega | exact congrArg _ (by omega))

theorem hdr_modHdr (s : State) (p q : PageId) (f : Hdr → Hdr) :
    (s.modHdr p f).hdr q = if q = p then f (s.hdr p) else s.hdr q := by
  unfold State.modHdr State.hdr State.onHdrs
  split
  · subst_vars; simp
  · rename_i h
    simp only [SMap.get_set_other _ (fun e => h (pageKey_injective e))]

@[simp] theorem hdrs_msix (s : State) (f v : Nat) : (s.msix f v).hdrs = s.hdrs :=
  (Only.msix (l := [.out, .fns]) (by decide) (by decide) (Only.refl _ s) f v).2.2 .hdrs (by decide)

@[simp] theorem hdrs_syncInt (s : State) : s.syncInt.hdrs = s.hdrs :=
  (Only.syncInt (l := [.out, .fns, .chip]) (by decide) (by decide) (by decide) (Only.refl _ s)).2.2 .hdrs (by decide)

/-- A header's change with its interrupt requests changes that header as `f` says, and no other (R43). -/
theorem hdr_modHdrInt (s : State) (p q : PageId) (f : Hdr → Hdr) :
    (s.modHdrInt p f).hdr q = if q = p then f (s.hdr p) else s.hdr q := by
  rw [← hdr_modHdr]
  unfold State.modHdrInt State.hdr
  simp only [hdrs_syncInt]
  split <;> simp

theorem hdr_setStatus (s : State) (p q : PageId) (m : W32) :
    (s.setStatus p m).hdr q = if q = p then (s.hdr p).raise m else s.hdr q := hdr_modHdrInt s p q _

theorem hdr_setBit (s : State) (p q : PageId) (n : Nat) :
    (s.setBit p n).hdr q = if q = p then (s.hdr p).raise (1#32 <<< n) else s.hdr q := hdr_modHdrInt s p q _

/-! ### Accesses over the link -/

theorem mmio_open {f : Nat} {tee : Option Nat} (h1 : f ≠ 0 → s.vfsOn.contains f = true)
    (h2 : (s.fn f).tdisp = .run → tee = some (s.fn f).tdispStream) (k : State → State) : s.mmio f tee k = k s := by
  unfold State.mmio
  rw [if_neg (fun c => Bool.noConfusion ((h1 c.1).symm.trans c.2)), if_neg (fun c => c.2 (h2 c.1))]

theorem access_open {who : Requester} (h : LinkOpen s who) (k : State → State) : s.access who k = k s := by
  unfold State.access
  split
  · rename_i f e
    exact mmio_open (h f e).1 (h f e).2 k
  · rfl

/-! ### Heats -/

theorem Only.loseReports (h1 : Field.out ∈ l) (h2 : Field.fns ∈ l) (h3 : Field.chip ∈ l) (h4 : Field.hdrs ∈ l)
    (h5 : Field.heat ∈ l) (h6 : Field.ump ∈ l) (h : Only l s t) (n : Nat) : Only l s (t.loseReports n) := by
  unfold State.loseReports
  refine h.ite (Only.setBit h1 h2 h3 h4 (Only.foldl (fun u x hu => hu.logEvent h6 _ _ _ _) _ (h.onHeat h5 _)) _ _)

theorem Only.closeNow (h1 : Field.out ∈ l) (h2 : Field.fns ∈ l) (h3 : Field.chip ∈ l) (h4 : Field.hdrs ∈ l)
    (h5 : Field.heat ∈ l) (h6 : Field.ump ∈ l) (h7 : Field.aod ∈ l) (h : Only l s t) (c : BitVec 4) : Only l s (t.closeNow c) := by
  unfold State.closeNow
  exact (((h.onHeat h5 _).onAod h7 _).loseReports h1 h2 h3 h4 h5 h6 _).setBit h1 h2 h3 h4 _ _

theorem Only.closeHeat (h1 : Field.out ∈ l) (h2 : Field.fns ∈ l) (h3 : Field.chip ∈ l) (h4 : Field.hdrs ∈ l)
    (h5 : Field.heat ∈ l) (h6 : Field.ump ∈ l) (h7 : Field.aod ∈ l) (h : Only l s t) (c : BitVec 4) : Only l s (t.closeHeat c) := by
  unfold State.closeHeat
  exact (h.onHeat h5 _).ite (h.closeNow h1 h2 h3 h4 h5 h6 h7 _)

theorem Only.closeByOwn (h1 : Field.out ∈ l) (h2 : Field.fns ∈ l) (h3 : Field.chip ∈ l) (h4 : Field.hdrs ∈ l)
    (h5 : Field.heat ∈ l) (h6 : Field.ump ∈ l) (h7 : Field.aod ∈ l) (h : Only l s t) (c : BitVec 4) : Only l s (t.closeByOwn c) := by
  unfold State.closeByOwn
  exact ((h.closeHeat h1 h2 h3 h4 h5 h6 h7 _).emit h1 _).ite (h.closeHeat h1 h2 h3 h4 h5 h6 h7 _)

/-- Losing reports touches the lists of reports alone. -/
theorem heat_loseReports (s : State) (n : Nat) :
    (s.loseReports n).heat = { s.heat with due := (s.loseReports n).heat.due, prevLost := (s.loseReports n).heat.prevLost } := by
  unfold State.loseReports
  dsimp only
  split
  · rfl
  · have h : ∀ (u : State) (gone : List (BitVec 48 × Nat)),
        ((gone.foldl (fun s x => s.logEvent 2 10 0 x.2) u).setBit .heat 10).heat = u.heat := by
      intro u gone
      have h1 : Only [.out, .fns, .chip, .hdrs, .ump] u (gone.foldl (fun s x => s.logEvent 2 10 0 x.2) u) :=
        Only.foldl (fun v x hv => hv.logEvent (by decide) _ _ _ _) _ (Only.refl _ _)
      exact (h1.setBit (by decide) (by decide) (by decide) (by decide) .heat 10).2.2 .heat (by decide)
    rw [h]
    rfl

/-- Everything a close does to the heat's records (R445, R446, R448). -/
theorem heatClosed_closeNow (s : State) (c : BitVec 4) : HeatClosed s (s.closeNow c) c := by
  have hh : (s.closeNow c).heat = ((((s.onHeat fun t =>
    { t with bankA := if s.aod.heatNo.toNat % 2 = 0 then { s.heat.live with heat := s.aod.heatNo, cause := c, ready := false, closeTicks := s.now, epoch := s.aod.epoch } else t.bankA
             bankB := if s.aod.heatNo.toNat % 2 = 0 then t.bankB else { s.heat.live with heat := s.aod.heatNo, cause := c, ready := false, closeTicks := s.now, epoch := s.aod.epoch }
             live := s.freshLive, lastClose := s.now, heldCause := 0
             due := if t.rptKib = 0 then t.due else t.due ++ (s.heat.live.domains.map (·.1)).map fun d => (s.aod.heatNo, d) }).onAod
               fun a => { a with heatNo := s.aod.heatNo + 1 }).loseReports (s.aod.heatNo.toNat - 2)).setBit .heat 8).heat := rfl
  have hs : ∀ (u : State) (p : PageId) (n : Nat), (u.setBit p n).heat = u.heat := fun u p n =>
    (Only.setBit (l := [.out, .fns, .chip, .hdrs]) (by decide) (by decide) (by decide) (by decide) (Only.refl _ u) p n).2.2 .heat (by decide)
  rw [hs, heat_loseReports] at hh
  have ha := (Only.setBit (l := [.out, .fns, .chip, .hdrs, .heat, .ump]) (by decide) (by decide) (by decide) (by decide)
    (Only.loseReports (by decide) (by decide) (by decide) (by decide) (by decide) (by decide) (Only.refl _ ((s.onHeat fun t =>
    { t with bankA := if s.aod.heatNo.toNat % 2 = 0 then { s.heat.live with heat := s.aod.heatNo, cause := c, ready := false, closeTicks := s.now, epoch := s.aod.epoch } else t.bankA
             bankB := if s.aod.heatNo.toNat % 2 = 0 then t.bankB else { s.heat.live with heat := s.aod.heatNo, cause := c, ready := false, closeTicks := s.now, epoch := s.aod.epoch }
             live := s.freshLive, lastClose := s.now, heldCause := 0
             due := if t.rptKib = 0 then t.due else t.due ++ (s.heat.live.domains.map (·.1)).map fun d => (s.aod.heatNo, d) }).onAod
               fun a => { a with heatNo := s.aod.heatNo + 1 })) (s.aod.heatNo.toNat - 2)) .heat 8).2.2 .aod (by decide)
  refine ⟨ha, ?_, ?_, ?_, ?_, ?_, ?_⟩
  · unfold State.bankOf
    rw [hh]
    by_cases e : s.aod.heatNo.toNat % 2 = 0 <;> simp [e]
  · unfold State.bankOf
    rw [hh]
    by_cases e : s.aod.heatNo.toNat % 2 = 0
    · have : (s.aod.heatNo.toNat + 1) % 2 = 1 := by omega
      simp [e, this]
    · have : (s.aod.heatNo.toNat + 1) % 2 = 0 := by omega
      simp [e, this]
  · rw [hh]; rfl
  · rw [hh]; rfl
  · rw [hh]; rfl
  · unfold State.closeNow
    rw [hdr_setBit]
    simp [Hdr.raise]

end Sys2Proof.Machine
end

