-- ==== Sys2Proof/Laws/Wipe.lean ====
section
/-!
SUPPORT. What the wipe of the accelerator domain does (R21, R23, R66), and what status bits do to the functions and the chip page.
-/

namespace Sys2Proof.Machine

variable {l : List Field} {s t : State}

theorem Only.closeForReset (h1 : Field.out ∈ l) (h2 : Field.fns ∈ l) (h3 : Field.chip ∈ l) (h4 : Field.hdrs ∈ l)
    (h5 : Field.heat ∈ l) (h6 : Field.ump ∈ l) (h7 : Field.aod ∈ l) (h : Only l s t) : Only l s t.closeForReset := by
  unfold State.closeForReset
  have h0 : Only l s (if t.heat.outAll then t.emit .heatPulse else t) := by
    split
    · exact h.emit h1 _
    · exact h
  exact ((h0.closeNow h1 h2 h3 h4 h5 h6 h7 _).loseReports h1 h2 h3 h4 h5 h6 _).onHeat h5 _

theorem aod_closeForReset (s : State) : s.closeForReset.aod = { s.aod with heatNo := s.aod.heatNo + 1 } := by
  unfold State.closeForReset
  dsimp only
  generalize hs : (if s.heat.outAll then s.emit .heatPulse else s) = s0
  have ha : s0.aod = s.aod := by subst hs; split <;> rfl
  rw [← ha, ← (heatClosed_closeNow s0 (8 ||| s.heat.heldCause)).1]
  exact (Only.onHeat (l := [.out, .fns, .chip, .hdrs, .heat, .ump]) (by decide) (Only.loseReports (by decide) (by decide) (by decide) (by decide) (by decide) (by decide) (Only.refl _ _) _) _).2.2 .aod (by decide)

theorem fn_modFn (s : State) (f g : Nat) (k : Fn → Fn) : (s.modFn f k).fn g = if g = f then k (s.fn f) else s.fn g := by
  unfold State.modFn State.fn State.onFns
  split
  · subst_vars; simp
  · rename_i h; simp only [SMap.get_set_other _ h]

/-- A message leaves every function but the PBA of the one it comes from. -/
theorem fn_msix (s : State) (f v g : Nat) : ∃ pba, (s.msix f v).fn g = (if g = f then { s.fn g with pba := pba } else s.fn g) := by
  unfold State.msix
  dsimp only
  split
  · refine ⟨(s.fn g).pba, ?_⟩
    show s.fn g = _
    split <;> rfl
  · refine ⟨addNew (s.fn f).pba v, ?_⟩
    rw [fn_modFn]
    split
    · subst_vars; rfl
    · rfl

/-- PG_STATUS bits of a page that is no function's change the PF's PBA at most. -/
theorem fn_syncInt (s : State) (g : Nat) : ∃ pba, s.syncInt.fn g = (if g = 0 then { s.fn g with pba := pba } else s.fn g) := by
  unfold State.syncInt
  dsimp only
  split
  · refine ⟨(s.fn g).pba, ?_⟩
    show s.fn g = _
    split <;> rfl
  · exact fn_msix (s.onChip _) 0 _ g
theorem fn_setStatus (s : State) (p : PageId) (m : W32) (h1 : ∀ n, p ≠ .fn n) (h2 : ∀ n, p ≠ .adm n) (g : Nat) :
    ∃ pba, (s.setStatus p m).fn g = (if g = 0 then { s.fn g with pba := pba } else s.fn g) := by
  have e : s.setStatus p m = (s.modHdr p fun h => h.raise m).syncInt := by
    unfold State.setStatus State.modHdrInt
    dsimp only
    congr 1
    split
    · exact absurd rfl (h1 _)
    · exact absurd rfl (h2 _)
    · rfl
  rw [e]
  exact fn_syncInt (s.modHdr p fun h => h.raise m) g

theorem fn_modChip (s : State) (f : Chip → Chip) (g : Nat) :
    ∃ pba, (s.modChip f).fn g = (if g = 0 then { s.fn g with pba := pba } else s.fn g) := by
  unfold State.modChip
  dsimp only
  split
  · refine ⟨(s.fn g).pba, ?_⟩
    show s.fn g = _
    split <;> rfl
  · exact fn_setStatus (s.onChip f) .chip _ (by simp) (by simp) g

theorem hdr_modChip (s : State) (f : Chip → Chip) (q : PageId) :
    (s.modChip f).hdr q = s.hdr q ∨ q = .chip ∧ ∃ m, (s.modChip f).hdr q = (s.hdr q).raise m := by
  unfold State.modChip
  dsimp only
  split
  · exact .inl rfl
  · rw [hdr_setStatus]
    split
    · subst_vars; exact .inr ⟨rfl, _, rfl⟩
    · exact .inl rfl

theorem accelKey_of_ge {k : Nat} (h1 : 32 ≤ k) (h2 : k ≠ 34) (h3 : k % 64 ≠ 39) : accelKey k = true := by
  simp [accelKey, h1, h2, h3]

/-- The headers of the accelerator domain's pages are the keys that its wipe drops. -/
theorem accelKey_pageKey {p : PageId} (h : PageId.accel p = true) : accelKey (pageKey p) = true := by
  cases p <;> simp [PageId.accel] at h <;> try rfl
  all_goals
    first
    | (subst h; rfl)
    | exact accelKey_of_ge (by simp only [pageKey]; omega) (by simp only [pageKey]; omega) (by simp only [pageKey]; omega)

theorem hdr_klgLock (s : State) (p : PageId) (h : p ≠ .klg) : s.klgLock.hdr p = s.hdr p := by
  unfold State.klgLock
  split
  · rw [hdr_modHdr, if_neg h]
  · rfl

theorem fn_setFields (s t : State) (h : t.fns = s.fns) (g : Nat) : t.fn g = s.fn g := by
  unfold State.fn; rw [h]

/-- Interrupt requests change the chip page's source list alone. -/
theorem chip_syncInt (s : State) : ∃ x, s.syncInt.chip = { s.chip with intSrc := x } := by
  unfold State.syncInt
  dsimp only
  split
  · exact ⟨_, rfl⟩
  · refine ⟨s.intSrcNow, ?_⟩
    exact (Only.msix (l := [.out, .fns]) (by decide) (by decide) (Only.refl _ _) 0 s.chip.intVec.toNat).2.2 .chip (by decide)

theorem chip_setStatus (s : State) (p : PageId) (m : W32) : ∃ x, (s.setStatus p m).chip = { s.chip with intSrc := x } := by
  unfold State.setStatus State.modHdrInt
  dsimp only
  obtain ⟨x, hx⟩ := chip_syncInt (match p, (s.hdr p).pend == 0 && !(((s.modHdr p fun h => h.raise m).hdr p).pend == 0) with
    | .fn n, true => (s.modHdr p fun h => h.raise m).msix n ((s.modHdr p fun h => h.raise m).fn n).intVec.toNat
    | .adm n, true => (s.modHdr p fun h => h.raise m).msix n ((s.modHdr p fun h => h.raise m).fn n).intVec.toNat
    | _, _ => s.modHdr p fun h => h.raise m)
  refine ⟨x, hx.trans ?_⟩
  have h : ∀ n v, ((s.modHdr p fun h => h.raise m).msix n v).chip = s.chip := fun n v =>
    (Only.msix (l := [.out, .fns, .hdrs]) (by decide) (by decide) (Only.modHdr (by decide) (Only.refl _ s) p _) n v).2.2 .chip (by decide)
  split
  · rw [h]
  · rw [h]
  · rfl

theorem chip_modChip (s : State) (f : Chip → Chip) : ∃ x, (s.modChip f).chip = { f s.chip with intSrc := x } := by
  unfold State.modChip
  dsimp only
  split
  · exact ⟨_, rfl⟩
  · exact chip_setStatus (s.onChip f) _ _

theorem Only.klgLock (h1 : Field.hdrs ∈ l) (h : Only l s t) : Only l s t.klgLock := by
  unfold State.klgLock
  exact (h.modHdr h1 _ _).ite h

theorem Only.endDoe (h1 : Field.pcie ∈ l) (h2 : Field.sessions ∈ l) (h3 : Field.spdm ∈ l) (h : Only l s t) :
    Only l s t.endDoe := ((h.onPcie h1 _).onSessions h2 _).onSpdm h3 _

/-- Everything a wipe of the accelerator domain does (R21, R23, R66). -/
theorem accWiped_accReset (s : State) (umpire : Bool) : AccWiped s (s.accReset umpire) := by
  have hc : Only [.out, .fns, .chip, .hdrs, .heat, .ump, .aod] s s.closeForReset :=
    Only.closeForReset (by decide) (by decide) (by decide) (by decide) (by decide) (by decide) (by decide) (Only.refl _ s)
  have ha := aod_closeForReset s
  unfold State.accReset
  generalize s.closeForReset = c at hc ha ⊢
  have hm : c.meas = s.meas := hc.2.2 .meas (by decide)
  have hu : let u := c.clearUnits.clearStaleProgs.bstEnd 4
      (u.chans = [] ∧ u.gens = [] ∧ u.reqs = [] ∧ u.jobs = [] ∧ u.msh = {} ∧ u.fns = []) ∧
        (u.kslots = [] ∧ u.kfrees = [] ∧ u.eights = [] ∧ u.quads = [] ∧ u.slices = []) ∧
        u.meas = c.meas.filter (fun kv => kv.1 < 32) ∧ u.aod = c.aod := by
    dsimp only
    unfold State.bstEnd State.clearStaleProgs State.clearUnits
    split <;> simp
  unfold State.accWipe
  generalize c.clearUnits.clearStaleProgs.bstEnd 4 = u at hu ⊢
  obtain ⟨⟨u1, u2, u3, u4, u5, u6⟩, ⟨u7, u8, u9, u10, u11⟩, u12, u13⟩ := hu
  dsimp only
  have hv : let v := (((((u.onAod fun a => { a with epoch := u.aod.epoch + 1 }).onGenBase fun _ => genBaseOf (u.aod.epoch + 1).toNat).onKlg
      fun k => { integrityKey := ((u.onAod fun a => { a with epoch := u.aod.epoch + 1 }).onGenBase fun _ => genBaseOf (u.aod.epoch + 1).toNat).draw 256, debugRoot := k.debugRoot, debugRootVal := k.debugRootVal }).spend 1).onHdrs fun m => m.filter fun kv => !accelKey kv.1).klgLock
      Only [.aod, .genBase, .klg, .freeCtr, .hdrs] u v ∧ v.aod = { u.aod with epoch := u.aod.epoch + 1 } ∧
        ∀ p, PageId.accel p = true → p ≠ .klg → v.hdr p = {} := by
    dsimp only
    refine ⟨?_, ?_, ?_⟩
    · exact Only.klgLock (by decide) (Only.onHdrs (by decide) (Only.spend (by decide) (Only.onKlg (by decide) (Only.onGenBase (by decide) (Only.onAod (by decide) (Only.refl _ u) _) _) _) _) _)
    · exact ((Only.klgLock (l := [.hdrs]) (by decide) (Only.refl _ _)).2.2 .aod (by decide)).trans rfl
    · intro p hp hk
      rw [hdr_klgLock _ p hk]
      exact SMap.get_filter_none _ _ _ _ (fun v => by simp [accelKey_pageKey hp])
  generalize State.klgLock _ = v at hv ⊢
  obtain ⟨v1, v2, v3⟩ := hv
  have hw : let w := v.onDomains fun m => m.mapVals none fun _ d => match d with
      | some x => if x.ending then none else some x
      | none => none
      Only [.aod, .genBase, .klg, .freeCtr, .hdrs, .domains] u w ∧ w.aod = v.aod ∧ ∀ p, w.hdr p = v.hdr p :=
    ⟨Only.onDomains (by decide) (v1.mono (by decide)) _, rfl, fun _ => rfl⟩
  generalize State.onDomains v _ = w at hw ⊢
  obtain ⟨w1, w2, w3⟩ := hw
  have hx : ∀ f : Chip → Chip, Only [.aod, .genBase, .klg, .freeCtr, .hdrs, .domains, .chip, .fns, .out] u (w.modChip f) := fun f =>
    Only.modChip (by decide) (by decide) (by decide) (by decide) (w1.mono (by decide)) f
  have hz : ∀ f : Chip → Chip, (w.modChip f).aod = w.aod := fun f =>
    (Only.modChip (l := [.out, .fns, .chip, .hdrs]) (by decide) (by decide) (by decide) (by decide) (Only.refl _ w) f).2.2 .aod (by decide)
  have hf : ∀ (f : Chip → Chip) (g : Nat), ∃ pba, (w.modChip f).fn g = if g = 0 then { ({} : Fn) with pba := pba } else {} := fun f g => by
    obtain ⟨pba, e⟩ := fn_modChip w f g
    refine ⟨pba, e.trans ?_⟩
    have : w.fn g = {} := by unfold State.fn; rw [show w.fns = u.fns from w1.2.2 .fns (by decide), u6]; rfl
    rw [this]
  have hh : ∀ (f : Chip → Chip) (p : PageId), PageId.accel p = true → p ≠ .klg → (w.modChip f).hdr p = {} ∨
      p = .chip ∧ ∃ m, (w.modChip f).hdr p = ({} : Hdr).raise m := fun f p hp hk => by
    have e : w.hdr p = {} := (w3 p).trans (v3 p hp hk)
    rcases hdr_modChip w f p with h | ⟨h, m, h'⟩
    · exact .inl (h.trans e)
    · exact .inr ⟨h, m, by rw [h', e]⟩
  obtain ⟨q, hq⟩ := chip_modChip w (Chip.wiped umpire)
  specialize hx (Chip.wiped umpire)
  specialize hf (Chip.wiped umpire)
  specialize hz (Chip.wiped umpire)
  specialize hh (Chip.wiped umpire)
  generalize State.modChip w _ = x at hx hf hh hz hq ⊢
  have fin : ∀ y : State, Only [.heat, .pcie, .sessions, .spdm] x y → AccWiped s y := by
    intro y hy
    have g : ∀ f : Field, f ∉ [Field.aod, .genBase, .klg, .freeCtr, .hdrs, .domains, .chip, .fns, .out, .heat, .pcie, .sessions, .spdm] → u.agree y f := fun f hf =>
      ((hx.mono (by decide)).trans (hy.mono (by decide))).2.2 f hf
    have hyf : ∀ n, y.fn n = x.fn n := fun n => by unfold State.fn; rw [show y.fns = x.fns from hy.2.2 .fns (by decide)]
    have hyh : ∀ p, y.hdr p = x.hdr p := fun p => by unfold State.hdr; rw [show y.hdrs = x.hdrs from hy.2.2 .hdrs (by decide)]
    have hmr : ∀ n, y.mreg n = SMap.get {} (s.meas.filter fun kv => kv.1 < 32) n := fun n => by
      unfold State.mreg; rw [show y.meas = u.meas from g .meas (by decide), u12, hm]
    refine ⟨⟨(g .chans (by decide)).trans u1, (g .gens (by decide)).trans u2, (g .reqs (by decide)).trans u3, (g .jobs (by decide)).trans u4, (g .msh (by decide)).trans u5⟩,
      ⟨fun n hn => ?_, ?_⟩, ⟨(g .kslots (by decide)).trans u7, (g .kfrees (by decide)).trans u8, (g .eights (by decide)).trans u9, (g .quads (by decide)).trans u10, (g .slices (by decide)).trans u11⟩,
      fun n hn => ?_, fun n hn => ?_, fun p hp hk hc => ?_, ?_, ?_, ?_⟩
    · obtain ⟨pba, e⟩ := hf n; rw [hyf, e, if_neg hn]
    · obtain ⟨pba, e⟩ := hf 0; rw [hyf, e]; rfl
    · rw [hmr, SMap.get_filter _ _ _ _ (fun v => by simp [hn])]; rfl
    · rw [hmr, SMap.get_filter_none _ _ _ _ (fun v => by simp; omega)]
    · rcases hh p hp hk with h | h
      · rw [hyh, h]
      · exact absurd h.1 hc
    · rw [hyh]
      rcases hh .chip rfl (by simp) with h | ⟨_, m, h⟩
      · rw [h]; exact ⟨rfl, rfl, rfl⟩
      · rw [h]; exact ⟨rfl, rfl, rfl⟩
    · refine (hy.2.2 .aod (by decide)).trans ?_
      rw [hz, w2, v2, u13, ha]
    · refine ⟨?_, ?_⟩
      · rw [show y.chip = x.chip from hy.2.2 .chip (by decide), hq]; rfl
      · rw [show y.chip = x.chip from hy.2.2 .chip (by decide), hq]; rfl
  split
  · exact fin _ (Only.onPcie (by decide) (Only.onHeat (by decide) (Only.refl _ x) _) _)
  · exact fin _ (Only.onPcie (by decide) (Only.endDoe (by decide) (by decide) (by decide) (Only.onHeat (by decide) (Only.refl _ x) _)) _)
end Sys2Proof.Machine
end

