-- ==== Sys2Proof/Tests/Slice0.lean ====
section
/-!
SUPPORT. Small tests of the model: the checks of WellFormed, and for every statement a state and operands that meet its hypotheses.
-/

namespace Sys2Proof.Tests

open Sys2Proof.Machine

/-- The state after reset with main power on. -/
def onPower : State := { aod := { onCell := false } }

/-! ### The checks of WellFormed -/

/-- Five fields: one more than an instruction has. -/
def E5 : Enc := { f := [0, 0, 0, 0, 0] }
/-- Each command of the list is refused by the checks. -/
def allRefused (l : List Instr) : Bool := l.all fun i => !i.wf

theorem test_ill_formed_commands_1 : allRefused [
    .vfFlr 0, .vfFlr 256, .guardedConfigWrite 0, .guardedConfigWrite 256, .vectorUnmask ⟨256, none⟩ 0,
    .vectorUnmask ⟨0, some 8⟩ 0, .vectorUnmask ⟨0, none⟩ 2048, .ideKm (.keyProg (some 8) false 0),
    .ideKm (.setGo (some 8) true), .ideKm (.setStop (some 8)), .ideCheckFailed (some 8), .atsInvalidation 0 ⟨256, none⟩ 0 0,
    .readCompletion (.admRing 256) .data, .readCompletion (.ring 256 0) .data, .readCompletion (.ring 0 65536) .data,
    .readCompletion (.xlat 256 none 0 true true (.frame 0)) .data,
    .readCompletion (.xlat 0 none 0 true true (.admRing 256)) .data, .completionTimeout (.ring 0 65536),
    .unsupportedRequest 256, .registerWrite (.vf 0) (.bar 0) 4 0, .registerWrite (.vf 256) (.bar 0) 4 0,
    .registerWrite (.vf 1 (some 8)) (.bar 0) 4 0, .registerWrite .pf (.bar 0x4000000) 4 0,
    .registerWrite .pf (.bank 4096 0 0) 4 0, .registerWrite .pf (.bank 0 262144 0) 4 0, .registerWrite .pf (.bank 0 0 4) 4 0,
    .registerWrite .pf (.cfg 256 .atsEnable) 4 0, .registerWrite .pf (.bar2 65536) 4 0, .registerWrite .pf (.bar 0) 3 0,
    .errRecClr (.vf 256) .chip, .errRecClr .pf (.fn 256), .errRecClr .pf (.adm 256), .errRecClr .pf (.meas 2),
    .errRecClr .pf (.rgn 4), .errRecClr .pf (.qad 4), .errRecClr .pf (.pke 4), .errRecClr .pf (.egt 12),
    .errRecClr .pf (.mirror 6), .pgStatusClear (.vf 256) .chip 0 0, .pgStatusClear .pf (.egt 12) 0 0] = true := by decide
theorem test_ill_formed_commands_2 : allRefused [
    .pgIntEnWrite (.vf 256) .chip 0, .pgIntEnWrite .pf (.egt 12) 0, .pgLockWrite (.vf 256) .chip 0,
    .pgLockWrite .pf (.egt 12) 0, .mirrorRefresh (.egt 12), .admEnable ⟨256, none⟩, .admDisable ⟨256, none⟩,
    .adminDoorbell ⟨256, none⟩ 0 4, .adminDoorbell ⟨0, none⟩ 0 3, .createChannel 256 [], .destroyChannel 256 [],
    .destroyChannelComplete 256 0, .destroyChannelComplete 0 65536, .modifyChannel 256 [], .queryChannel 256 [],
    .setSpillArea 256 [], .createDomain 256 [], .destroyDomain 256 [], .assignFunction 256 [], .setDomainWeight 256 [],
    .adminReservedOpcode 256 [], .doorbellWrite ⟨256, none⟩ 0 0 4, .doorbellWrite ⟨0, none⟩ 65536 0 4,
    .doorbellWrite ⟨0, none⟩ 0 0 3, .modTimeExpiry 256 0, .modTimeExpiry 0 65536, .descriptorFetch 256 0 [],
    .descriptorFetch 0 65536 [], .strokeEnd (.slot 12 0) [] .none, .strokeEnd (.slot 0 8) [] .none,
    .strokeEnd (.cell 16) [] .none, .pkeSegmentEnd 8 0 0, .cellFault .eight 12 0 0 0, .cellFault .quad 4 0 0 0,
    .cellFault .pair 4 0 0 0, .blockAlarm .pair 4 ⟨0, 0⟩ 0 0, .randomnessWaitTimeout .pair 4 0 0, .eightCadenceUpdate 12 0 0,
    .instructionBudgetExceeded 12 0, .instructionBudgetExceeded 0 8] = true := by decide
theorem test_ill_formed_commands_3 : allRefused [
    .directStart (.vf 256) 0, .directStart .pf 4, .directAbort (.vf 256) 0, .directAbort .pf 4, .directDone 4 none,
    .qadDirOutRead (.vf 256) 0 ⟨0, 4⟩, .qadDirOutRead .pf 4 ⟨0, 4⟩, .qadDirOutRead .pf 0 ⟨0, 3⟩, .measAclWrite (.vf 256) 32 0,
    .measAclWrite .pf 31 0, .measAclWrite .pf 64 0, .modeWrite (.vf 256) 0 false, .modeWrite .pf 8 false, .modeChangeDone 8,
    .pkeAbort (.vf 256) 0, .pkeAbort .pf 8, .macClear (.vf 256) 0 0 0, .macClear .pf 8 0 0, .mulacc (.vf 256) 0 0 0,
    .mulacc .pf 8 0 0, .addw (.vf 256) 0 0 0, .addw .pf 8 0 0, .macShr (.vf 256) 0 0 0, .macShr .pf 8 0 0,
    .macStore (.vf 256) 0 0 0, .macStore .pf 8 0 0, .readw (.vf 256) 0 0 0, .readw .pf 8 0 0, .writew (.vf 256) 0 0 0,
    .writew .pf 8 0 0, .loadkey (.vf 256) 0 0 0, .loadkey .pf 8 0 0, .klgQuotaWrite (.vf 256) 0, .pgoodRise 8,
    .powerRetryTimer 3, .pgoodFall 8, .getTdispVersion 0, .getTdispVersion 256, .getTdispCapabilities 0,
    .getTdispCapabilities 256] = true := by decide
theorem test_ill_formed_commands_4 : allRefused [
    .lockInterfaceRequest 0 0, .lockInterfaceRequest 256 0, .getDeviceInterfaceReport 0, .getDeviceInterfaceReport 256,
    .getDeviceInterfaceState 0, .getDeviceInterfaceState 256, .startInterfaceRequest 0 false, .startInterfaceRequest 256 false,
    .stopInterfaceRequest 0, .stopInterfaceRequest 256, .dbgStatus (.egt 12) 0, .dbgPerf (.egt 12) 0, .dbgCore (.readP 16),
    .dbgCore (.writeP 16 0), .dbgMem 4096 0 none, .dbgAcc (.egt 12) 0 none, .shield 64, .supplyUvDetect 7 0, .supplyUv 7 0,
    .supplyOv 7 0, .thermalHigh 24 0, .thermalLow 24 0, .light 16, .emp 16, .tloop 4, .stateInvalid 4,
    .tempThresholdCrossing 24 0, .heatCtrlClose (.vf 256), .heatReportWrite 0 4096, .heatRptTailWrite (.vf 256) 0,
    .patrolScrub ⟨10, 0, 0, false, none, false⟩ 0 false, .tamperConditionClear 16 0] = true := by decide
theorem test_ill_formed_instructions_1 : allRefused [
    .nop (.cox 12 0) {}, .nop (.cox 0 8) {}, .nop .umpire E5, .end_ (.cox 12 0) {}, .end_ .umpire E5, .fence (.cox 12 0) {},
    .fence .umpire E5, .mov (.cox 12 0) {}, .mov .umpire E5, .fld (.cox 12 0) {}, .fld .umpire E5, .fldLand (.cox 12 0),
    .fst (.cox 12 0) {}, .fst .umpire E5, .stm (.cox 12 0) {}, .stm .umpire E5, .mfsr (.cox 12 0) {}, .mfsr .umpire E5,
    .mtsr (.cox 12 0) {}, .mtsr .umpire E5, .xor (.cox 12 0) {}, .xor .umpire E5, .and (.cox 12 0) {}, .and .umpire E5,
    .or (.cox 12 0) {}, .or .umpire E5, .andn (.cox 12 0) {}, .andn .umpire E5, .xred (.cox 12 0) {}, .xred .umpire E5,
    .addW (.cox 12 0) {}, .addW .umpire E5, .addD (.cox 12 0) {}, .addD .umpire E5, .addQ (.cox 12 0) {}, .addQ .umpire E5,
    .subW (.cox 12 0) {}, .subW .umpire E5, .subD (.cox 12 0) {}, .subD .umpire E5] = true := by decide
theorem test_ill_formed_instructions_2 : allRefused [
    .subQ (.cox 12 0) {}, .subQ .umpire E5, .shlW (.cox 12 0) {}, .shlW .umpire E5, .shlD (.cox 12 0) {}, .shlD .umpire E5,
    .shlQ (.cox 12 0) {}, .shlQ .umpire E5, .shrW (.cox 12 0) {}, .shrW .umpire E5, .shrD (.cox 12 0) {}, .shrD .umpire E5,
    .shrQ (.cox 12 0) {}, .shrQ .umpire E5, .bfi (.cox 12 0) {}, .bfi .umpire E5, .bfx (.cox 12 0) {}, .bfx .umpire E5,
    .clz (.cox 12 0) {}, .clz .umpire E5, .bperm (.cox 12 0) {}, .bperm .umpire E5, .enc (.cox 12 0) {}, .enc .umpire E5,
    .dec (.cox 12 0) {}, .dec .umpire E5, .gfmulG (.cox 12 0) {}, .gfmulG .umpire E5, .gfmulX (.cox 12 0) {},
    .gfmulX .umpire E5, .tcmp (.cox 12 0) {}, .tcmp .umpire E5, .beq (.cox 12 0) {}, .beq .umpire E5, .bne (.cox 12 0) {},
    .bne .umpire E5, .blt (.cox 12 0) {}, .blt .umpire E5, .bge (.cox 12 0) {}, .bge .umpire E5] = true := by decide
theorem test_ill_formed_instructions_3 : allRefused [
    .bltu (.cox 12 0) {}, .bltu .umpire E5, .bgeu (.cox 12 0) {}, .bgeu .umpire E5, .bbs (.cox 12 0) {}, .bbs .umpire E5,
    .bbc (.cox 12 0) {}, .bbc .umpire E5, .jmp (.cox 12 0) {}, .jmp .umpire E5, .call (.cox 12 0) {}, .call .umpire E5,
    .ret (.cox 12 0) {}, .ret .umpire E5, .loop (.cox 12 0) {}, .loop .umpire E5, .jmpi (.cox 12 0) {}, .jmpi .umpire E5,
    .calli (.cox 12 0) {}, .calli .umpire E5, .eret (.cox 12 0) {}, .eret .umpire E5, .wfi (.cox 12 0) {}, .wfi .umpire E5,
    .reservedOpcode (.cox 12 0) 0 {}, .reservedOpcode .umpire 0 E5] = true := by decide
theorem test_well_formed_1 : ([
    .vfFlr 1, .guardedConfigWrite 1, .vectorUnmask ⟨0, none⟩ 0, .ideKm .query, .ideCheckFailed none,
    .atsInvalidation 0 ⟨0, none⟩ 0 0, .readCompletion (.frame 0) .data, .completionTimeout (.frame 0), .unsupportedRequest 0,
    .registerWrite .pf (.bar 0) 4 0, .errRecClr .pf .chip, .pgStatusClear .pf .chip 0 0, .pgIntEnWrite .pf .chip 0,
    .pgLockWrite .pf .chip 0, .mirrorRefresh .chip, .admEnable ⟨0, none⟩, .admDisable ⟨0, none⟩, .adminDoorbell ⟨0, none⟩ 0 4,
    .createChannel 0 [], .destroyChannel 0 [], .destroyChannelComplete 0 0, .modifyChannel 0 [], .queryChannel 0 [],
    .setSpillArea 0 [], .createDomain 0 [], .destroyDomain 0 [], .assignFunction 0 [], .setDomainWeight 0 [],
    .adminReservedOpcode 0 [], .doorbellWrite ⟨0, none⟩ 0 0 4, .modTimeExpiry 0 0, .descriptorFetch 0 0 [],
    .strokeEnd (.cell 0) [] .none, .pkeSegmentEnd 0 0 0, .cellFault .eight 0 0 0 0, .blockAlarm .eight 0 ⟨0, 0⟩ 0 0,
    .randomnessWaitTimeout .eight 0 0 0, .eightCadenceUpdate 0 0 0, .nop .umpire {}, .end_ .umpire {}, .fence .umpire {},
    .mov .umpire {}, .fld .umpire {}, .fldLand .umpire, .fst .umpire {}, .stm .umpire {}, .mfsr .umpire {}, .mtsr .umpire {},
    .xor .umpire {}, .and .umpire {}, .or .umpire {}, .andn .umpire {}, .xred .umpire {}, .addW .umpire {}, .addD .umpire {},
    .addQ .umpire {}, .subW .umpire {}, .subD .umpire {}, .subQ .umpire {}, .shlW .umpire {}] : List Instr).all Instr.wf = true := by decide
theorem test_well_formed_2 : ([
    .shlD .umpire {}, .shlQ .umpire {}, .shrW .umpire {}, .shrD .umpire {}, .shrQ .umpire {}, .bfi .umpire {}, .bfx .umpire {},
    .clz .umpire {}, .bperm .umpire {}, .enc .umpire {}, .dec .umpire {}, .gfmulG .umpire {}, .gfmulX .umpire {},
    .tcmp .umpire {}, .beq .umpire {}, .bne .umpire {}, .blt .umpire {}, .bge .umpire {}, .bltu .umpire {}, .bgeu .umpire {},
    .bbs .umpire {}, .bbc .umpire {}, .jmp .umpire {}, .call .umpire {}, .ret .umpire {}, .loop .umpire {}, .jmpi .umpire {},
    .calli .umpire {}, .eret .umpire {}, .wfi .umpire {}, .reservedOpcode .umpire 0 {}, .instructionBudgetExceeded 0 0,
    .directStart .pf 0, .directAbort .pf 0, .directDone 0 none, .qadDirOutRead .pf 0 ⟨0, 4⟩, .measAclWrite .pf 32 0,
    .modeWrite .pf 0 false, .modeChangeDone 0, .pkeAbort .pf 0, .macClear .pf 0 0 0, .mulacc .pf 0 0 0, .addw .pf 0 0 0,
    .macShr .pf 0 0 0, .macStore .pf 0 0 0, .readw .pf 0 0 0, .writew .pf 0 0 0, .loadkey .pf 0 0 0, .klgQuotaWrite .pf 0,
    .pgoodRise 0, .powerRetryTimer 0, .pgoodFall 0, .getTdispVersion 1, .getTdispCapabilities 1, .lockInterfaceRequest 1 0,
    .getDeviceInterfaceReport 1, .getDeviceInterfaceState 1, .startInterfaceRequest 1 false, .stopInterfaceRequest 1,
    .dbgStatus .chip 0] : List Instr).all Instr.wf = true := by decide
theorem test_well_formed_3 : ([
    .dbgPerf .chip 0, .dbgCore .halt, .dbgMem 0 0 none, .dbgAcc .chip 0 none, .shield 0, .supplyUvDetect 0 0, .supplyUv 0 0,
    .supplyOv 0 0, .thermalHigh 0 0, .thermalLow 0 0, .light 0, .emp 0, .tloop 0, .stateInvalid 0, .tempThresholdCrossing 0 0,
    .heatCtrlClose .pf, .heatReportWrite 0 0, .heatRptTailWrite .pf 0, .patrolScrub ⟨0, 0, 0, false, none, false⟩ 0 false,
    .tamperConditionClear 0 0] : List Instr).all Instr.wf = true := by decide

/-! ### Values from the tables of the spec -/

/-- R113: SHA-256, HMAC-SHA-384 and KMAC128 (XOF_LEN 40); 0x20 is reserved and takes no key. -/
theorem test_digest_lengths_and_keys : ({ fn := 0, ch := 0, slot := 0, dwords := [2, 0, 0x00000001] } : Req).digestLen = 32 ∧
    ({ fn := 0, ch := 0, slot := 0, dwords := [2, 0, 0x00000022] } : Req).digestLen = 48 ∧ ({ fn := 0, ch := 0, slot := 0, dwords := [2, 0, 0x00280038] } : Req).digestLen = 40 ∧
    algKeyed 0x20 = false ∧ algKeyed 0x21 = true ∧ algKeyed 0x38 = true ∧ algKeyed 0x18 = false := by decide

/-- R88, R89: an admin queue enabled without bases stops with ERROR, and RING_ERR sets. -/
theorem test_adm_enable_without_rings : (match exec (.admEnable ⟨0, none⟩) onPower with
    | .next t => (t.fn 0).adm.error && !(t.fn 0).adm.ready && (t.hdr (.adm 0)).status == 0x100
    | _ => false) = true := by decide

/-- FIPS 203 and FIPS 204: twiddle factors of the two rings, and the edges of Decompose and Compress. -/
theorem test_lattice_constants : kemRing.twiddle 1 = 1729 ∧ kemRing.twiddle 2 = 2580 ∧ dsaRing.twiddle 1 = 4808194 ∧
    (dsaDecompose 8380416) = (0, 8380416) ∧ kemCompress 1 1664 = 1 ∧ kemCompress 1 832 = 0 := by decide

theorem witness_EmptyQueueLetsTimePass : State.reset.pending = [] ∧ State.reset.lcs.trans = none ∧
    ({ onPower with lcs := { trans := some (3, 1) } } : State).lcs.trans = some (3, 1) ∧ State.reset.wdgCounts = false ∧
    ({ onPower with wdg := { armed := true }, ump := { running := true } } : State).wdgCounts = true := by decide

theorem witness_EveryStepKeepsTheStateSound : State.reset.Sound ∧ step State.reset = .next State.reset.tick := by
  refine ⟨?_, rfl⟩
  unfold State.Sound errsBounded Ump.sound Fgt.sound
  exact ⟨fun _ h => (nomatch h), by decide⟩

theorem witness_HeaderWritesTakeTheirRule : LinkOpen onPower .pf ∧ onPower.chip.accReset = false ∧ onPower.aod.onCell = false ∧ reaches .pf .chip = true ∧ onPower.present .chip = true ∧
    onPower.readablePage .chip = true ∧ (∀ k, PageId.chip ≠ .mirror k) ∧ (∀ i, PageId.chip = .meas i → Requester.pf = .umpire) ∧
    reaches .umpire (.meas 1) = true ∧ onPower.present (.meas 1) = true ∧ onPower.readablePage (.meas 1) = true :=
  ⟨fun f h => by cases h; exact ⟨fun h => absurd rfl h, by decide⟩, by decide, by decide, by decide, by decide, by decide, by simp, by simp, by decide, by decide, by decide⟩

theorem witness_RegisterWriteReachesTheRegister : LinkOpen onPower .pf ∧ onPower.aod.onCell = false ∧ onPower.chip.accReset = false ∧
    pfAt 0x018 = .page .chip 0x018 ∧ pfAt 0x20018 = .page .msh 0x018 ∧ reaches .pf .msh = true ∧ onPower.present .msh = true ∧ pfAt 0x03000 = .reserved ∧
    pfAt 0x4000000 = .outside := ⟨witness_HeaderWritesTakeTheirRule.1, by decide⟩
theorem witness_MirrorRefreshCopiesItsSource : ({ onPower with ump := { running := true } } : State).umpUp = true ∧
    ({ onPower with ump := { running := true } } : State).chip.safeHold = false := by decide

theorem witness_LossOfTheLinkWipesTheAcceleratorDomain : onPower.aod.onCell = false ∧ onPower.pcie.perstLow = true ∧
    onPower.scrapped = false ∧ onPower.transiting = false ∧ ({ onPower with pcie := { perstLow := false } } : State).pcie.perstLow = false ∧
    ({ onPower with pcie := { perstLow := false } } : State).scrapped = false := by decide

/-- Two VFs are in effect and the interface of VF 1 is locked. -/
def withVfs : State := { onPower with pcie := { perstLow := false, crs := false, numVfs := 2, vfEnable := true, vfsInEffect := some 2 }, fns := [(1, { tdisp := .configLocked })] }
theorem witness_FunctionResetsClearTheirFunctions : withVfs.aod.onCell = false ∧ withVfs.pcie.crs = false ∧
    ({ onPower with pcie := { crs := true } } : State).pcie.crs = true ∧ withVfs.chip.accReset = false ∧
    withVfs.vfsOn.contains 2 = true ∧ (withVfs.fn 1).tdisp = .configLocked ∧ onPower.pcie.vfsInEffect = none ∧
    withVfs.pcie.vfsInEffect = some 2 := by decide

/-- An established session on DOE, a programmed link key, and one invalidation outstanding. -/
def withDoe : State := { onPower with
  sessions := [{ transport := .doe, id := 1, established := true }]
  ump := { running := true }
  pcie := { doeReady := true, ideLink := { key0 := some 1 }, invals := [⟨31, 0, none, 0, 4095⟩] } }
theorem witness_LinkProtocolCommands : withDoe.aod.onCell = false ∧ withDoe.pcie.doeReady = true ∧ withDoe.umpUp = true ∧
    (∀ x ∈ withDoe.pcie.invals, withDoe.invalBusy x = false) ∧ withVfs.vfsOn.contains 2 = true ∧ withVfs.tdispLocked 2 = false ∧ 255 ≤ withDoe.variant.vfs ∧ withDoe.tdispLocked 255 = false ∧
    withDoe.variant.ide = true ∧ withDoe.doeSession = true ∧ streamOk none = true ∧ streamOk (some 7) = true ∧
    (withDoe.ideOf none).key0.isSome = true ∧ withDoe.pcie.invals.length < 32 ∧ (∃ x ∈ withDoe.pcie.invals, x.tag = 31) := by decide
theorem witness_FailedReadsAreReported : onPower.aod.onCell = false ∧
    (let s : State := { onPower with fns := [(0, { adm := { ready := true } })] }
     (s.fn 0).adm.ready = true ∧ (s.fn 0).cfg.ctoOff = false ∧ s.readLive (.admRing 0) = true) := by decide

/-- An admin queue that runs, and a channel with completions not yet signalled. -/
def withQueue : State := { onPower with
  fns := [(0, { adm := { sqBase := 0x1000, cqBase := 0x2000, enable := true, ready := true, sqTail := 1 }, spillBase := 0x100000 })]
  chans := [(5, some { handle := 0x100005, unsignalled := 1, modTime := 1, irqEn := true, oneShot := true })] }
theorem witness_DoorbellsAndTheAdminQueue : onPower.aod.onCell = false ∧ withVfs.vfsOn.contains 2 = true ∧ (withVfs.fn 2).tdisp = .configUnlocked ∧ (onPower.fn 255).adm.enable = false ∧
    onPower.chip.accReset = false ∧ onPower.present (.adm 255) = true ∧ (withQueue.fn 0).adm.enable = true ∧
    (withQueue.fn 0).adm.ready = true ∧ (withQueue.fn 0).adm.valid = true ∧ dbCause 0x300000001 8 6 0 1 6 0 0 = 0 ∧
    dbCause 0x100000040 8 6 0 1 6 0 0 = 2 ∧
    withQueue.chan 0 5 = some { handle := 0x100005, unsignalled := 1, modTime := 1, irqEn := true, oneShot := true } ∧
    withQueue.chan 0 6 = none := by decide

/-- The dwords of an admin command: opcode and function in dword 0, then dwords 1 to 15. -/
def admCmd (op : Nat) (rest : List W32) : List W32 := [BitVec.ofNat 32 op] ++ rest ++ List.replicate (15 - rest.length) 0
/-- `withQueue` without its channel. -/
def noChannel : State := { withQueue with chans := [] }
theorem witness_AdminChannelCommandsRun :
    ((withQueue.fn 0).adm.canRun = true ∧ withQueue.denies 0 none 0x1000 64 false = false ∧ withQueue.denies 0 none 0x2000 32 true = false) ∧
    (let dw := admCmd 1 [0, 0x10000, 0, 0x20000, 0, 0x0606]
     admOp dw = 1 ∧ withQueue.createRefused 0 dw = none ∧ withQueue.pickChannel 0 = some 0) ∧
    (let dw := admCmd 3 [0x100005, 0x1F]
     admOp dw = 3 ∧ withQueue.modifyRefused 0 dw = none ∧ (withQueue.handleCh 0 (dwAt dw 1)).isSome = true) ∧
    (let dw := admCmd 4 [0x100005]
     admOp dw = 4 ∧ bits (dwAt dw 0) 15 8 = 0 ∧ reserved dw [(1, fullDw)] = false ∧ (withQueue.handleCh 0 (dwAt dw 1)).isSome = true) ∧
    (let dw := admCmd 8 [0, 0x100000, 0, 36864]
     admOp dw = 8 ∧ bits (dwAt dw 0) 15 8 = 0 ∧ reserved dw [(2, fullDw), (3, fullDw), (4, fullDw)] = false ∧
     baseOk (qwAt dw 2) = true ∧ (noChannel.nChans * 576 + 1023) / 1024 ≤ (dwAt dw 4).toNat ∧ noChannel.channelsOf 0 = []) ∧
    (let dw := admCmd 2 [0x100005]
     admOp dw = 2 ∧ withQueue.destroyRefused 0 dw = none ∧ bit (dwAt dw 2) 0 = false) ∧
    withQueue.reqsOf 0 5 = [] ∧ admDefined (admOp (admCmd 5 [])) = false := by decide
theorem witness_DestroyChannelComplete :
    let s : State := { withQueue with fns := [(0, { adm := { busy := some (.destroyChannel 5 0 0) } })] }
    (s.fn 0).adm.busy = some (.destroyChannel 5 0 0) ∧ (s.chans.get none 5).isSome = true ∧ s.reqsOf 0 5 = [] ∧
      s.denies 0 none 0 32 true = false := by decide

/-- `withQueue` with a domain 7 and VF 255 in effect. -/
def withDomain : State := { withQueue with
  domains := [(7, some { salt := [] })]
  pcie := { vfsInEffect := some 255 } }
theorem witness_AdminDomainCommandsRun :
    ((withDomain.fn 0).adm.canRun = true ∧ withDomain.denies 0 none 0x1000 64 false = false ∧ withDomain.denies 0 none 0x2000 32 true = false) ∧
    (let dw := admCmd 0x10 [0, 4095]
     admOp dw = 0x10 ∧ bits (dwAt dw 0) 15 8 = 0 ∧ reserved dw ((2, 0xFFF) :: (List.range 8).map fun k => (k + 4, fullDw)) = false ∧
     withDomain.badDom (bits (dwAt dw 2) 11 0) = false ∧ withDomain.domains.get none (bits (dwAt dw 2) 11 0) = none) ∧
    (let dw := admCmd 0x13 [0, 7, 255]
     admOp dw = 0x13 ∧ reserved dw [(2, 0xFFF), (3, 0xFF)] = false ∧ withDomain.domIds.contains (bits (dwAt dw 2) 11 0) = true ∧
     withDomain.dom (bits (dwAt dw 2) 11 0) = some { salt := [] } ∧ 7 < withDomain.nDoms) ∧
    (let dw := admCmd 0xFF12 [0, 7, 4096]
     admOp dw = 0x12 ∧ reserved dw [(2, 0x80000FFF), (3, 0x1FFF)] = false ∧ withDomain.vfsOn.contains (bits (dwAt dw 0) 15 8) = true ∧
     withDomain.channelsOf (bits (dwAt dw 0) 15 8) = [] ∧ withDomain.tdispLocked (bits (dwAt dw 0) 15 8) = false ∧
     bit (dwAt dw 2) 31 = false ∧ bits (dwAt dw 2) 11 0 < withDomain.nDoms ∧
     withDomain.domIds.contains (bits (dwAt dw 2) 11 0) = true ∧ bits (dwAt dw 3) 12 0 = 4096) ∧
    (let dw := admCmd 0x11 [0, 7]
     admOp dw = 0x11 ∧ reserved dw [(2, 0xFFF)] = false ∧ withDomain.badDom (bits (dwAt dw 2) 11 0) = false ∧
     withDomain.assigned (bits (dwAt dw 2) 11 0) = false ∧ withDomain.domIds.contains (bits (dwAt dw 2) 11 0) = true) := by decide

/-- The dwords of a descriptor: dword 0, then dwords 1 to 15. -/
def desc (d0 : W32) (rest : List W32) : List W32 := [d0] ++ rest ++ List.replicate (15 - rest.length) 0
/-- A channel 0 of the PF. -/
def chan0 : Chan := { handle := 0x100000, sqBase := 0x10000, cqBase := 0x20000, sqTail := 2 }
/-- A request of that channel. -/
def reqWith (d : List W32) (admitted : Bool) : Req := { fn := 0, ch := 0, slot := 0, dwords := d, chain := [0], admitted := admitted }
/-- The PF's channel 0 with one request on the chip. -/
def withReq (q : Req) : State := { onPower with
  chans := [(0, some chan0)]
  reqs := [(0, some q)]
  nextReq := 1
  quads := [] }
set_option maxRecDepth 4000 in
theorem witness_RequestsAreFetchedAndAdmitted :
    (let s : State := { onPower with chans := [(0, some chan0)] }
     let ds := [desc 0x107 [], desc 0x006 []]
     s.chan 0 0 = some chan0 ∧ s.chip.accReset = false ∧ chainOk ds = true ∧ chan0.canFetch ds.length = true ∧
     ∀ q ∈ (List.range ds.length).map (fun k => reqOf 0 0 chan0 ((List.range ds.length).map (s.nextReq + ·)) k (ds.getD k [])),
       s.formatBad q ((List.range ds.length).map fun k => reqOf 0 0 chan0 ((List.range ds.length).map (s.nextReq + ·)) k (ds.getD k [])) = none) ∧
    (let q := reqWith (desc 7 [0, 0, 5]) false
     let s := withReq q
     s.req 0 = some q ∧ s.orderOk 0 q = true ∧ s.reservedIn q = false ∧ s.chip.safeHold = false ∧
     s.chainFailure q = none ∧ s.firstFailure q ⟨[], [], []⟩ = none ∧ (match s.keyStep q (s.symProg q) with
       | .ok none => true
       | _ => false) = true ∧ s.ctxFull q = false) := by decide
theorem witness_RequestsEnd (d : W32) (a : Bool) : ReqLive (withReq (reqWith (desc d []) a)) 0 (reqWith (desc d []) a) chan0 := by
  unfold ReqLive
  simp [State.req, State.chan, withReq, reqWith, chKey, SMap.get, State.denies, State.fn, onPower, Chan.errored, chan0]
theorem witness_RequestsEndWithTheirTypes : (reqWith (desc 6 []) true).typ = 6 ∧ (reqWith (desc 7 []) true).typ = 7 ∧
    (reqWith (desc 15 []) true).reservedType = true ∧ (reqWith (desc 8 []) true).reservedType = true ∧
    ({ withReq (reqWith (desc 7 []) false) with chip := { safeHold := true } } : State).chip.safeHold = true := by decide

/-- A program with no rule that a message breaks. -/
def prog1 : Prog :=
  { id := 0x200, version := 0, svn := 0, flags := 0, keys := 1, usage := 1, ivMin := 0, ivMax := 16, tagMin := 0, tagMax := 0, outRule := 0
    inAlign := 0, inMin := 0, inMax := 0, tagSet := 0, lenRule := 0, code := [], consts := [] }
/-- A request on the chip that job 0 of a kind works for; every unit's cadence is 0. -/
def withJob (d : List W32) (b : Job) : State := { onPower with
  chans := [(0, some chan0)]
  reqs := [(0, some { reqWith d true with job := some 0 })]
  jobs := [(0, some b)]
  progs := [(0, some prog1)]
  nextReq := 1
  nextJob := 1 }
set_option maxRecDepth 4000 in
theorem witness_MessagesGoToTheirUnits :
    (let q := reqWith (desc 1 [0, 0x00100200]) true
     let s : State := { withReq q with progs := [(0, some prog1)] }
     s.req 0 = some q ∧ q.typ = 1 ∧ q.cont = false ∧ ({ q with prog := some 0 } : Req).prog = some 0 ∧ s.progs.get none 0 = some prog1 ∧
     q.ivtReads.any (fun x => x.2 != 0 && s.denies q.fn (s.chTag q.fn q.ch) x.1 x.2 false) = false ∧
     ctrTooLong prog1 (if q.nonce = [] then ([] : List Byte).take q.ivLen else q.nonce) q.param.toNat q.inLen = false) ∧
    (reqWith (desc 0x02 []) true).subop = 0 ∧ (reqWith (desc 0x12 []) true).subop = 1 ∧ (reqWith (desc 0x22 []) true).subop = 2 ∧
    (let b : Job := { kind := .eight, req := 0, fn := 0, ch := 0, domain := 0, home := some 11, partLen := 1 }
     let s := withJob (desc 1 []) b
     s.job 0 = some b ∧ s.readyJob 0 b = true ∧ s.mayStart b = true ∧ (s.req 0).isSome = true ∧ s.progs.get none b.prog = some prog1 ∧
     s.strokeLen b = 1 ∧ findFrom (fun k => (s.slot 11 k).job.isNone) 8 0 = some 0 ∧ s.keyLost 11 b = false ∧
     s.noUnitFor b = false ∧ (∀ q, s.req 0 = some q → s.inputDenied b q (s.strokeLen b) = false)) ∧
    (let b : Job := { kind := .quad, req := 0, fn := 0, ch := 0, domain := 0, home := some 15, partLen := 1 }
     let s := withJob (desc 2 []) b
     s.readyJob 0 b = true ∧ s.mayStart b = true ∧ s.cellFor b = some 15 ∧ s.noUnitFor b = false ∧ s.keyFailedNow b = false) ∧
    (let b : Job := { kind := .pair, req := 0, fn := 0, ch := 0, domain := 0 }
     let s := withJob (desc 3 []) b
     s.readyJob 0 b = true ∧ s.mayStart b = true ∧ s.homeSlice b = some 0 ∧ (s.slice 0).running = none) := by decide

/-- A stroke of an EXTEND of register 63 runs on cell 15. -/
def extending : State :=
  withJob (desc 0x12 [0, 0x3F10]) { kind := .quad, req := 0, fn := 0, ch := 0, domain := 0, home := some 15, running := true }
set_option maxRecDepth 4000 in
theorem witness_StrokesAndSegmentsEnd :
    extending.jobsWhere (fun b => b.kind == .quad && b.running && b.home == some 15) = [0] ∧
    (∃ q, extending.req 0 = some q ∧ q.job = some 0 ∧ q.more = false ∧ q.subop = 1 ∧ q.typ = 2 ∧ q.mreg = 63) ∧
    (let s : State := { extending with slices := [(7, { running := some 0, busy := true })] }
     (s.slice 7).running = some 0 ∧ s.msh.entryWait.contains 0 = false ∧ s.NoneDue 3 ∧ (s.job 0).isSome = true ∧ (∀ q, s.req 0 = some q → q.abort = false)) :=
  ⟨by decide, ⟨_, rfl, by decide⟩, by decide, by decide, by unfold State.NoneDue; decide, by decide, fun q h => by cases h; rfl⟩
theorem witness_ExtendIsLive : ReqLive extending 0 { reqWith (desc 0x12 [0, 0x3F10]) true with job := some 0 } chan0 := by
  unfold ReqLive
  simp [State.req, State.chan, extending, withJob, reqWith, chKey, SMap.get, State.denies, State.fn, onPower, Chan.errored, chan0]
theorem witness_SpilledContext :
    let b : Job := { kind := .eight, req := 0, fn := 0, ch := 0, domain := 0, frame := some 0, resident := true, entries := 16 }
    let s : State := { withJob (desc 1 []) b with msh := { frames := [(0, some ⟨0, 0, 1, 1⟩)] } }
    s.job 0 = some b ∧ b.frame.isSome = true ∧ b.resident = true ∧ s.chan b.fn b.ch = some chan0 ∧ s.framesOf 0 ≠ [] ∧
      ({ b with resident := false } : Job).resident = false := by decide

/-- A stroke runs in slot 7 of eight 11, for job 0; `fs` are the cells that failed in its first run. -/
def faulting (fs : List Nat) : State :=
  let d := desc 1 []
  { withJob d { kind := .eight, req := 0, fn := 0, ch := 0, domain := 0, home := some 11, running := true, faults := fs } with
    eights := [(11, { slots := [(7, { job := some 0 })], lastFault := [(3, some 0)] })] }
theorem witness_CellFaultsAndBlockAlarms : (faulting []).aod.onCell = false ∧ (faulting []).usable (blockPage .eight 11) = true ∧
    (faulting []).unitJob .eight 11 7 = some 0 ∧ ((faulting []).job 0).map (·.faults) = some [] ∧
    faultyCells .eight 7 0x08 = [3] ∧ (faulting []).within ((faulting []).lastFaultOf .eight 11 3) second = true ∧
    faultyCells .eight 7 0x80 = [7] ∧ (faulting []).within ((faulting []).lastFaultOf .eight 11 7) second = false ∧
    ((faulting [3]).job 0).map (·.faults) = some [3] ∧ ((faulting [3]).req 0).map (·.job) = some (some 0) ∧
    onPower.usable (blockPage .pair 3) = true ∧ controlCode 0x88 = false ∧ onPower.NoneDue 3 := by unfold State.NoneDue; decide

/-- A heat follows a closed one whose bank is not ready. -/
def heatBusy : State := { onPower with
  aod := { onCell := false, heatNo := 2 }, heat := { bankB := { heat := 1 }, heldCause := 2, inEn := true } }
theorem witness_HeatCloseCommandsCloseTheHeat : onPower.aod.onCell = false ∧ onPower.closeHeld = false ∧ onPower.heat.periodS ≠ 0 ∧
    onPower.heat.inEn = false ∧ WriteOpen onPower .pf .heat ∧ WriteOpen heatBusy .umpire .heat ∧
    ({ onPower with heat := { inEn := true } } : State).heat.inEn = true ∧ ({ onPower with heat := { inEn := true } } : State).closeHeld = false ∧ heatBusy.aod.onCell = false ∧ heatBusy.closeHeld = true ∧
    heatBusy.heat.heldCause ≠ 0 := by unfold WriteOpen; decide

theorem witness_HeatSignalsAndReports : onPower.aod.onCell = false ∧ onPower.heat.inEn = false ∧
    ({ onPower with heat := { inEn := true } } : State).heat.inEn = true ∧ onPower.heat.inTimeoutS ≠ 0 ∧
    WriteOpen onPower .pf .heat ∧ (onPower.hdr .heat).status.getLsbD 11 = false ∧
    (let s : State := { onPower with ump := { running := true }, chip := { accReady := true }, heat := { due := [(2, 0)], bankA := { heat := 2, ready := true } } }
     s.heat.due.contains (2, 0) = true ∧ s.umpUp = true ∧ s.chip.safeHold = false ∧ s.chip.accReady = true ∧ (s.reportBank 2).isSome = true) := by unfold WriteOpen; decide

/-- The domain-0 root in its slot, valid, and a general parent key below it. -/
def rootKey : KSlot := { state := .valid, alg := 0x18, usage := 0x40, attr := 0x0B, life := 0x0F, keyLen := 64, run := 1 }
/-- The PF's channel 0 with one request, and the root of domain 0. -/
def withKeys (q : Req) : State := { withReq q with
  kslots := [((withReq q).rootSlot 0, rootKey)]
  lcs := { state := 3 } }
/-- A template of a 32-byte AES key for encryption under the root of domain 0. -/
def aesTemplate : List Byte := [3, 1, 1, 0x0F, 0, 0, 0, 0, 0, 0, 32, 0] ++ List.replicate 12 0
/-- A KEY request. -/
def keyReqIn (d0 op n : W32) (slot : Option Nat) : Req := { reqWith (desc d0 [0, op, 0, 0, 0, 0, 0, 0, 0, 0, 0, n]) true with
  keySlot := slot
  outR := [(0x5000, 32)] }
/-- A KEY request without input. -/
def keyReq (d0 op : W32) (slot : Option Nat) : Req := keyReqIn d0 op 0 slot
theorem witness_KeyRequestsAreLive (d0 op n : W32) (slot : Option Nat) :
    ReqLive (withKeys (keyReqIn d0 op n slot)) 0 (keyReqIn d0 op n slot) chan0 := by
  unfold ReqLive
  simp [State.req, State.chan, withKeys, withReq, keyReqIn, reqWith, chKey, SMap.get, State.denies, State.fn, onPower, Chan.errored, chan0]
set_option maxRecDepth 4000 in
theorem witness_KeysAreCreatedAndRead :
    (let q := keyReqIn 0x14 0 25 (some ((withReq (keyReq 0 0 none)).rootSlot 0))
     let s := withKeys q
     s.keyDenied q false = false ∧ q.typ = 4 ∧ q.subop = 1 ∧ (aesTemplate ++ [0x61#8]).length = q.inLen ∧
     algRsa (Tmpl.ofBytes (aesTemplate ++ [0x61#8])).alg = false ∧ s.tmplOk (Tmpl.ofBytes (aesTemplate ++ [0x61#8])) (s.rootSlot 0) = true ∧ q.keySlot = some (s.rootSlot 0)) ∧
    (let q := keyReqIn 0x24 0 56 none
     let s := withKeys q
     q.typ = 4 ∧ q.subop = 2 ∧ (aesTemplate ++ List.replicate 32 (7 : Byte)).length = q.inLen ∧ s.domIds.contains (bits q.op 11 0) = true ∧
     s.payloadOk (s.rootSlot (bits q.op 11 0)) (aesTemplate ++ List.replicate 32 7) = true) ∧
    (let q := { keyReq 0x04 0 none with
       dwords := desc 4 [1, 0, 0, 0, 0, 0, 0, 0, 0, 0, 0, 120]
       keySlot := some 256 }
     let b : List Byte := [0x5A, 0x4B, 0x42, 0x4B, 1, 0, 1, 0, 0, 0, 16] ++ List.replicate 109 0
     q.typ = 4 ∧ q.subop = 0 ∧ blobFormatBad q b = false ∧ leAt b 8 2 = q.domain ∧ cut b 0x10 32 = List.replicate 32 0) ∧
    (let q := keyReq 0x44 0 (some 256)
     (withKeys q).keyDenied q true = false ∧ q.outClash = false ∧ q.typ = 4 ∧ q.subop = 4 ∧ q.job = none ∧ q.prog = none ∧ q.outR = [(0x5000, 32)]) := by decide

/-- A P-521 key of two slots at 256 and a key derived from it at 300. -/
def withRun (st : SlotState) (dr : Option Drain) (drained : Bool) (q : Req) : State := { withReq q with
  domains := [(7, some { salt := [], ending := true })]
  kslots := [(256, { state := st, alg := 0x22, run := 2, drain := dr, drained := drained }), (257, { state := st, alg := 0x38, run := 1 }),
    (300, { state := .valid, alg := 3, parent := 256 }), (301, { state := .valid, alg := 3, domain := 7 }),
    ((withReq q).rootSlot 7, { state := st, alg := 0x18, domain := 7, drain := dr, drained := drained })]
  klg := { quotaNew := [(0, some 5)] } }
theorem witness_DestroyedKeyIsLive (st : SlotState) (d : Option Drain) (b : Bool) :
    ReqLive (withRun st d b (keyReq 0x34 0 (some 256))) 0 (keyReq 0x34 0 (some 256)) chan0 := by
  unfold ReqLive
  simp [State.req, State.chan, withRun, withReq, keyReq, keyReqIn, reqWith, chKey, SMap.get, State.denies, State.fn, onPower, Chan.errored, chan0]
set_option maxRecDepth 4000 in
theorem witness_KeysAreInvalidated :
    (let q := keyReq 0x34 0 (some 256)
     q.typ = 4 ∧ q.subop = 3 ∧ q.job = none ∧ (withRun .valid none false q).isRoot 256 = false ∧
     ((withRun .valid none false q).kslot 256).state = .valid ∧ ((withRun .orphaned none false q).kslot 256).state = .orphaned ∧
     (withRun .valid none false q).runOf 256 = [256, 257]) ∧
    (let s := withRun .retiring (some (.request 0)) false (keyReq 0x34 0 (some 256))
     (s.kslot 256).state = .retiring ∧ s.headOf 256 = 256 ∧ s.loadedUnder 256 = false ∧ (s.kslot 256).drain = some (.request 0)) ∧
    (let s : State := { withRun .retiring (some (.admin 0 0 0)) false (keyReq 0x34 0 none) with
       fns := [(0, { adm := { busy := some (.destroyDomain 7 0 0) } })] }
     (s.kslot 256).drain = some (.admin 0 0 0) ∧ (s.fn 0).adm.busy = some (.destroyDomain 7 0 0) ∧ s.denies 0 none 0 32 true = false ∧ s.loadedUnder 256 = false) ∧
    (let s := withRun .retiring none true (keyReq 0x34 0 none)
     s.headOf 256 = 256 ∧ s.usersOf 256 = [] ∧ s.isRoot 256 = false ∧ 300 ∈ s.descendants 256 ∧
     301 ∈ s.domSlots 7 ∧ s.isRoot (s.rootSlot 7) = true ∧ s.headOf (s.rootSlot 7) = s.rootSlot 7 ∧ s.usersOf (s.rootSlot 7) = [] ∧
     (s.kslot (s.rootSlot 7)).domain = 7 ∧ s.domains.get none 7 = some { salt := [], ending := true }) ∧
    (let s := withRun .valid none false (keyReq 0x34 0 none)
     s.aod.onCell = false ∧ s.chip.accReset = false ∧ s.quarantined .klg = false ∧ s.domIds.contains s.klg.quotaSel.toNat = true ∧
     s.klg.quotaNew ≠ [] ∧ (0, some 5) ∈ s.klg.quotaNew) := by decide

/-- A channel with an open digest message, job 0, and a saved one. -/
def chanOpen : Chan := { chan0 with openMsg := some { job := 0, digest := true } }
/-- A CTX request. -/
def ctxReq (d0 : W32) : Req := { reqWith (desc d0 []) true with outR := [(0x5000, 576)] }
/-- The channel's state with that request and an open message. -/
def withOpen (q : Req) (b : Job) : State := { withReq q with
  chans := [(0, some chanOpen)]
  jobs := [(0, some b)]
  nextJob := 1
  msh := { saved := [(0, some b)] } }
theorem witness_CtxRequestsAreLive (d : W32) (b : Job) : ReqLive (withOpen (ctxReq d) b) 0 (ctxReq d) chanOpen := by
  unfold ReqLive
  simp [State.req, State.chan, withOpen, ctxReq, withReq, reqWith, chKey, SMap.get, State.denies, State.fn, onPower, Chan.errored,
    chan0, chanOpen]
set_option maxRecDepth 4000 in
theorem witness_ContextsAreSavedAndRestored :
    (let b : Job := { kind := .quad, req := 0, fn := 0, ch := 0, domain := 0 }
     let s := withOpen (ctxReq 0x05) b
     s.rangesDenied (ctxReq 0x05) [(0x5000, 576)] 0 576 true = false ∧ (ctxReq 0x05).prog = none ∧ (ctxReq 0x05).typ = 5 ∧ (ctxReq 0x05).subop = 0 ∧ chanOpen.openMsg = some { job := 0, digest := true } ∧ s.job 0 = some b ∧
     (ctxReq 0x15).subop = 1 ∧ s.msh.saved.get none (chKey 0 0) = some b ∧ b.kind ≠ .eight ∧ (ctxReq 0x25).subop = 2 ∧
     chan0.openMsg = none) := by decide

/-- The job of a PKE request on slice 0, with operands 2, 4 and 7 in slots 0, 1 and 5, slot 0 tainted. -/
def pkeJob (slot : Option Nat) : Job :=
  { kind := .pair, req := 0, fn := 0, ch := 0, domain := 0, keySlot := slot, home := some 0, running := true
    ops := [(0, some ⟨[2], true⟩), (1, some ⟨[4], false⟩), (5, some ⟨[7], false⟩)] }
/-- A PKE request of a command and input length in execution. -/
def pkeReq (cmd set : W32) (n out : W32) (slot : Option Nat) : Req := { reqWith (desc 3 [0, cmd + 65536 * set, 0, 0, 0, 0, 0, 0, 0, 0, 0, n, out]) true with
  job := some 0
  keySlot := slot }
/-- Its state. -/
def withPke (q : Req) (slot : Option Nat) : State := { withReq q with
  jobs := [(0, some (pkeJob slot))]
  nextJob := 1
  kslots := [(256, { state := .valid, material := [9], alg := 0x20, keyLen := 1, run := 1 })] }
/-- The inputs of a command: `n` bytes of which the first are given. -/
def pkeIn (b : List Byte) (n : Nat) : PkeIn := { inp := b ++ List.replicate (n - b.length) 0 }
theorem witness_PkeReady (cmd set n out : W32) (slot : Option Nat) (b : List Byte)
    (h : (pkeReq cmd set n out slot).cmd = cmd.toNat) (hl : (pkeIn b n.toNat).inp.length = (pkeReq cmd set n out slot).inLen)
    (hf : (withPke (pkeReq cmd set n out slot) slot).keyFailedNow (pkeJob slot) = false)
    (ht : (pkeReq cmd set n out slot).typ = 3) (ha : (pkeReq cmd set n out slot).aadLen = 0) :
    PkeReady (withPke (pkeReq cmd set n out slot) slot) 0 (pkeIn b n.toNat) cmd.toNat (pkeReq cmd set n out slot) chan0 0
      (pkeJob slot) 0 := by
  refine ⟨?_, ⟨ht, h, rfl, rfl, rfl⟩, ⟨rfl, rfl, rfl, rfl, hf⟩, ⟨hl, ?_⟩, ⟨rfl, rfl, fun n => rfl⟩, rfl, ⟨rfl, rfl, rfl⟩⟩
  · unfold ReqLive
    simp [State.req, State.chan, withPke, withReq, pkeReq, reqWith, chKey, SMap.get, State.denies, State.fn, onPower, Chan.errored, chan0]
  · rw [ha]; rfl
/-- What PkeReady asks of a request of command `cmd`, its state apart. -/
def pkeFits (cmd : W32) : Bool :=
  let q := pkeReq cmd 2 9 1 (some 256)
  q.cmd == cmd.toNat && q.typ == 3 && q.inLen == 9 && q.aadLen == 0 && q.outLen == 1
theorem witness_PkeOperandRequests : (([1, 2, 3, 4, 0x10, 0x11, 0x12, 0x13, 0x14] : List W32).all pkeFits) = true := by decide
theorem witness_PkeKeyIsWhole : ∀ cmd : W32, (withPke (pkeReq cmd 2 9 1 (some 256)) (some 256)).keyFailedNow (pkeJob (some 256)) = false :=
  fun _ => rfl
set_option maxRecDepth 4000 in
theorem witness_PkeOperandCommandsRun :
    (pkeIn [5, 0, 0, 0] 9).inp.length = 9 ∧ hdrOk (pkeIn [5] 9) true false false false = true ∧
    hdrOk (pkeIn [5, 0] 9) true true false false = true ∧
    (withPke (pkeReq 2 0 9 1 (some 256)) (some 256)).component 256 0 = some [9] ∧
    hdrOk (pkeIn [0, 1] 9) false true false false = true ∧ (pkeJob none).opAt 1 = some ⟨[4], false⟩ ∧
    (pkeJob none).opAt 0 = some ⟨[2], true⟩ ∧ hdrOk (pkeIn [5, 0, 1, 5] 9) true true true true = true ∧
    hdrOk (pkeIn [5, 0, 0, 5] 9) true true false true = true ∧ (pkeJob none).opAt 5 = some ⟨[7], false⟩ ∧
    ofBe ([7] : List Byte) % 2 = 1 ∧ ofBe ([2] : List Byte) < ofBe ([7] : List Byte) ∧ invMod 2 7 = some 4 ∧ invMod 3 9 = none := by decide

theorem witness_PkeKeyRequests : (([0x100, 0x101, 0x102, 0x103, 0x110, 0x111, 0x120, 0x130, 0x131, 0x140, 0x141, 0x142, 0x150, 0x151] :
    List W32).all pkeFits) = true := by decide

/-- Slice 7 in MAC mode, of the PF or the Umpire; word 5 holds 7, word 6 holds 9 and is tainted; ledger slot 255 holds a key. -/
def macSlice (pf : Bool) : State := { onPower with
  slices := [(7, { mode := true, modeActive := true, macOwnerPf := pf, w := [(5, ⟨7, false⟩), (6, ⟨9, true⟩)], macKey := 0x1000FF })]
  kslots := [(255, { state := .valid, material := [1, 2, 3], alg := 3, keyLen := 3, run := 1 })] }
set_option maxRecDepth 4000 in
theorem witness_MacModeOperationsRun :
    MacReady (macSlice true) .pf 7 [5, 6] ∧ MacReady (macSlice false) .umpire 7 [5, 7167] ∧ MacReady (macSlice false) .umpire 7 [] ∧
    ((macSlice true).slice 7).word 5 = ⟨7, false⟩ ∧ ((macSlice true).slice 7).word 6 = ⟨9, true⟩ ∧
    (macSlice false).keyInvalid .umpire ((macSlice false).slice 7).macKey = false ∧ hIndex ((macSlice false).slice 7).macKey = 255 ∧
    (macWords ((macSlice false).wholeKey 255)).length = 1 := by
  unfold MacReady WriteOpen
  decide
set_option maxRecDepth 4000 in
theorem witness_ModeChanges : WriteOpen onPower .pf (.pke 3) ∧ bit (onPower.hdr (.pke 3)).lock 1 = false ∧
    (onPower.slice 7).macOwnerPf = false ∧
    (let s : State := { onPower with slices := [(7, { mode := true, frames := [0] })] }
     (s.slice 7).mode ≠ (s.slice 7).modeActive ∧ (s.slice 7).running = none ∧ s.usable (.pke 3) = true) := by
  unfold WriteOpen
  decide

set_option maxRecDepth 4000 in
theorem witness_PkeAbortDirectPortAndAccessLists :
    WriteOpen onPower .umpire (.pke 3) ∧ WriteOpen onPower .umpire (.qad 3) ∧ WriteOpen onPower .pf (.qad 0) ∧
    WriteOpen onPower .umpire (.meas 1) ∧ bit (onPower.hdr (.meas 1)).lock 0 = false ∧ (onPower.mreg 63).cnt = 0 ∧
    ({ onPower with meas := [(32, { cnt := 1 })] } : State).mreg 32 = { cnt := 1 } ∧
    (onPower.quad 3).dirBusy = false ∧ onPower.freeCell 3 = some 0 ∧ onPower.NoneDue 3 ∧ (pkeReq 1 0 9 1 none).typ = 3 ∧ (onPower.quad 3).dirDone = false ∧
    ({ onPower with quads := [(0, { dirDone := true })] } : State).quad 0 = { dirDone := true } := by
  unfold WriteOpen State.NoneDue
  decide
/-- Slice 0 with the job of a PKE request, running or resting. -/
def inFrame (run : Bool) : State := { withPke (pkeReq 1 0 9 1 none) none with
  slices := [(0, { frames := [0], running := if run then some 0 else none })] }
theorem witness_AbortedJobIsLive : ReqLive (inFrame false) 0 (pkeReq 1 0 9 1 none) chan0 := by
  unfold ReqLive
  simp [State.req, State.chan, inFrame, withPke, withReq, pkeReq, reqWith, chKey, SMap.get, State.denies, State.fn, onPower, Chan.errored,
    chan0]
set_option maxRecDepth 4000 in
theorem witness_AbortedSlice :
    WriteOpen (inFrame false) .umpire (.pke 0) ∧ ((inFrame true).slice 0).running = some 0 ∧ ((inFrame false).slice 0).running = none ∧
    ((inFrame false).slice 0).frames = [0] ∧ (inFrame true).job 0 = some (pkeJob none) ∧ (inFrame true).req 0 = some (pkeReq 1 0 9 1 none) := by
  unfold WriteOpen
  decide

theorem witness_OperandModesFormAddresses : ([(0x00, 0), (0x2F, 1), (0x40, 2), (0x6F, 3), (0x81, 4), (0xA2, 5), (0xC1, 6), (0xFC, 7)] :
    List (BitVec 8 × Nat)).all (fun p => spMode p.1 == p.2 && decide (spIdx p.1 ≤ 28)) = true := by decide

set_option maxRecDepth 4000 in
theorem witness_SourcesAndDestinationsOfACox :
    (let t : Slot := { cbg := 0xFFFFFFFF000000000000000000000000 }
     t.cbgFull = false ∧ cbgLow t.cbgCfg t.cbg + 1 = 2 ^ cbgWidth t.cbgCfg ∧ State.reset.gcmOver t 0 = false) ∧
    cbgLow 1 0x1000000000000000000000000000000 + 1 ≠ 2 ^ cbgWidth 1 ∧ cbgLow 2 0 + 1 ≠ 2 ^ cbgWidth 2 := by decide

/-- A state with an instruction slot of eight 0 running job 0, with some window words, keys, streams, and IN data. -/
def coxState : State :=
  { onPower with
    jobs := [(0, some { req := 0, prog := 3, kind := .eight, fn := 0, ch := 0, domain := 0 })]
    eights := [(0, { slots := [(0, {
      job := some 0, k0 := some (List.replicate 16 7), inData := List.replicate 20 9, inLeft := 20, cbg := 5
      win := [(1, 3), (2, 5), (3, 0x100)] })] })] }
/-- The Umpire running with a program in SRAM at word 0. -/
def umpState : State := { onPower with ump := { running := true, regs := { pbk := 0 } } }
/-- Direct operands A and B at the words `a` and `b`, C a pointer. -/
def encAB (a b : BitVec 18) : Enc := { opa := 0x00, opb := 0x00, opc := 0xE0, f := [a, b] }
/-- Where an instruction with three direct operands runs. -/
def encABC (a b c : BitVec 18) : Enc := { opa := 0x00, opb := 0x00, opc := 0x00, f := [a, b, c] }
set_option maxRecDepth 4000 in
theorem witness_InstructionsStayInTheirCore : coxState.coreLive (.cox 0 0) = true ∧ opInfo 0x10 = some opVVV ∧
    coxState.early 0x10 opVVV (coxState.atNow (.cox 0 0) opVVV (encABC 8 1 2)) = none ∧ (bodyOf 0x10).isSome = true ∧
    umpState.coreLive .umpire = true ∧ umpState.ump.regs.dbk = 0 ∧ umpState.ump.regs.fld = [] := by decide

/-- What an instruction of that slot is given. -/
def coxAt (op : Nat) (x : Enc) : At := coxState.atNow (.cox 0 0) ((opInfo op).getD {}) x
/-- The slot's state in which its instruction runs, and that state with word 8 written. -/
def coxRun : State := coxState.count1 (.cox 0 0)
@[inherit_doc coxRun]
def coxWrote (v : Word) : State := match coxRun.memWrite (.cox 0 0) 0 8 allLanes v with
  | .ok t => t
  | .error _ => coxRun
set_option maxRecDepth 8000 in
theorem witness_VectorLogicAndArithmetic : EachVV 0x10 (fun b c z => ∀ i, z.getLsbD i = (b.getLsbD i ^^ c.getLsbD i))
      (coxAt 0x10 (encABC 8 1 2)) coxRun (coxWrote 6) ∧ EachVS 0x28 (OnLanesBy 32 (· <<< ·)) (coxAt 0x28 (encABC 8 1 2)) coxRun
      (coxWrote 0x60) ∧ (∃ t, InSequence coxState (coxWrote 6) t (coxAt 0x10 (encABC 8 1 2))) := by
  refine ⟨⟨⟨.mem 0 8, .mem 0 1, .mem 0 2, coxRun⟩, fun n => if n = 0 then coxRun else coxWrote 6, rfl, rfl, rfl, ?_⟩,
    ⟨⟨.mem 0 8, .mem 0 1, .mem 0 2, coxRun⟩, 5, fun n => if n = 0 then coxRun else coxWrote 0x60, rfl, rfl, rfl, ?_⟩,
    ⟨_, by decide, _, rfl, rfl⟩⟩
  · intro k hk
    obtain rfl : k = 0 := by
      have : (coxAt 0x10 (encABC 8 1 2)).vl = 1 := rfl
      omega
    refine ⟨3, coxRun, 5, coxRun, 6, rfl, rfl, ?_, rfl⟩
    intro i
    simp [show (6 : Word) = 3 ^^^ 5 from rfl, -BitVec.reduceXOr]
  · intro k hk
    obtain rfl : k = 0 := by
      have : (coxAt 0x28 (encABC 8 1 2)).vl = 1 := rfl
      omega
    refine ⟨3, coxRun, 0x60, rfl, ?_, rfl⟩
    intro n hn
    have : n < 4 := by omega
    interval_cases n <;> decide
set_option maxRecDepth 8000 in
theorem witness_VectorOpcodesBegin : ([0x10, 0x11, 0x12, 0x13, 0x20, 0x21, 0x22, 0x24, 0x25, 0x26, 0x28, 0x29, 0x2A, 0x2C, 0x2D, 0x2E] :
    List Nat).all (fun op => coxState.early op ((opInfo op).getD {}) (coxState.atNow (.cox 0 0) ((opInfo op).getD {}) (encABC 8 1 2)) == none)
    = true ∧ ([0x03, 0x14] : List Nat).all (fun op =>
      coxState.early op ((opInfo op).getD {}) (coxState.atNow (.cox 0 0) opVV { opa := 0, opb := 0, f := [8, 1] }) == none) = true := by decide

set_option maxRecDepth 8000 in
theorem witness_BitFieldsAndBytesAreMoved : ([0x30, 0x31, 0x33] : List Nat).all (fun op =>
    coxState.early op opVVS (coxState.atNow (.cox 0 0) opVVS (encABC 8 1 3)) == none) = true ∧
    coxState.early 0x32 opVV (coxState.atNow (.cox 0 0) opVV { opa := 0, opb := 0, f := [8, 1] }) = none := by decide

set_option maxRecDepth 8000 in
theorem witness_BranchesJumpsCallsAndLoops : ([0x50, 0x51, 0x52, 0x53, 0x54, 0x55, 0x56, 0x57] : List Nat).all (fun op =>
      coxState.early op opBr (coxState.atNow (.cox 0 0) opBr { opa := 0, opb := 0, f := [1, 2, 5] }) == none) = true ∧
    ([0x58, 0x59] : List Nat).all (fun op => coxState.early op { target := true } (coxState.atNow (.cox 0 0) { target := true } { f := [5] })
      == none) = true ∧
    coxState.early 0x5B ((opInfo 0x5B).getD {}) (coxAt 0x5B { opa := 0, f := [2, 5] }) = none ∧ MayArrive (.cox 0 0) 7 ∧
    MayArrive .umpire 0x3FFFFFFF ∧ WordOk (.cox 0 0) 0x3FF ∧ WordOk .umpire 0x3FFFF := by
  refine ⟨by decide, by decide, by decide, .inr (by decide), .inl rfl, .inr (by decide), .inl (by decide)⟩
set_option maxRecDepth 8000 in
theorem witness_BranchOperands : (∃ u, coxRun.two 0x50 (coxAt 0x50 { opa := 0, opb := 0, f := [1, 2, 5] }) = .ok (3, 5, u)) ∧
    (∃ o u, coxRun.abc 0x5B (coxAt 0x5B { opa := 0, f := [2, 5] }) = .ok o ∧ o.s.readLoc (.cox 0 0) o.a 0 = .ok (5, u)) ∧
    ∃ o u, coxRun.abc 0x5B (coxAt 0x5B { opa := 0, f := [9, 5] }) = .ok o ∧ o.s.readLoc (.cox 0 0) o.a 0 = .ok (0, u) :=
  ⟨⟨_, rfl⟩, ⟨_, _, rfl, rfl⟩, ⟨_, _, rfl, rfl⟩⟩

set_option maxRecDepth 8000 in
theorem witness_SequenceLoopEndsReturnsAndUmpireControl : coxState.early 0x00 {} (coxAt 0x00 {}) = none ∧
    coxState.early 0x5A {} (coxAt 0x5A {}) = none ∧ ([0x60, 0x61] : List Nat).all (fun op => umpState.early op ((opInfo op).getD {})
      (umpState.atNow .umpire ((opInfo op).getD {}) { opa := 0, f := [4] }) == none) = true ∧
    ([0x62, 0x63] : List Nat).all (fun op => umpState.early op ((opInfo op).getD {}) (umpState.atNow .umpire ((opInfo op).getD {}) {}) == none)
      = true ∧ umpState.ump.regs.sl ≤ umpState.ump.regs.ptr 15 - 1 ∧ MayArrive .umpire 0 := by
  refine ⟨by decide, by decide, by decide, by decide, by decide, .inl rfl⟩
/-- A slot in two nested loops that both end at its PC, the inner one in its last pass. -/
def coxLooping : State := coxState.modRegs (.cox 0 0) fun r => { r with
  ldepth := 2, lc := Vector.ofFn fun n => if n = 1 then 1 else 4, le := Vector.replicate 3 (insAddr 3 0) }
set_option maxRecDepth 8000 in
theorem witness_LoopEnds : (let q := coxLooping.coreRegs (.cox 0 0)
      q.ldepth.toNat = 0 + 2 ∧ (q.le[1]?).getD 0 = (coxLooping.atNow (.cox 0 0) {} {}).here ∧ (q.lc[1]?).getD 0 = 1 ∧
      (q.le[0]?).getD 0 = (coxLooping.atNow (.cox 0 0) {} {}).here ∧ (q.lc[0]?).getD 0 ≠ 1 ∧
      ((q.ls[0]?).getD 0).toNat % 262144 < 2048) ∧
    (∃ u, umpState.memRead .umpire 0 0 = .ok (0, u)) ∧
    ∃ o u, umpState.abc 0x60 (umpState.atNow .umpire ((opInfo 0x60).getD {}) { opa := 0, f := [4] }) = .ok o ∧
      o.s.readLoc .umpire o.a 0 = .ok (0, u) := ⟨by decide, ⟨_, rfl⟩, ⟨_, _, rfl, rfl⟩⟩

set_option maxRecDepth 8000 in
theorem witness_FarAccessesAndSpecialRegisters :
    coxState.early 0x04 ((opInfo 0x04).getD {}) (coxAt 0x04 { opa := 0, opb := 0, opc := 0xC0, f := [8, 1, 0] }) = none ∧
    coxState.early 0x05 ((opInfo 0x05).getD {}) (coxAt 0x05 { opa := 0, opb := 0, opc := 0xC0, f := [8, 1, 0] }) = none ∧
    coxState.early 0x06 ((opInfo 0x06).getD {}) (coxAt 0x06 { opa := 0, opb := 0, opc := 0xC0, f := [8, 1, 5] }) = none ∧
    coxState.early 0x07 ((opInfo 0x07).getD {}) (coxAt 0x07 { opa := 0, opc := 0xC0, f := [8, 0x20] }) = none ∧
    coxState.early 0x08 ((opInfo 0x08).getD {}) (coxAt 0x08 { opb := 0, opc := 0xC0, f := [1, 0x10] }) = none ∧
    umpState.umpUp = true ∧ WordOk (.cox 0 0) 0 :=
  ⟨by decide, by decide, by decide, by decide, by decide, by decide, .inr (by decide)⟩
set_option maxRecDepth 8000 in
theorem witness_FarOperands : (∃ o u v z, coxRun.abc 0x04 (coxAt 0x04 { opa := 0, opb := 0, opc := 0xC0, f := [8, 1, 0] }) = .ok o ∧
      o.s.readLoc (.cox 0 0) o.b 0 = .ok (3, u) ∧ u.readLoc (.cox 0 0) o.c 0 = .ok (0, v) ∧ Loc.isDest o.a = true ∧
      v.farRead (.cox 0 0) 0 3 = .ok (0x100, none, z)) ∧
    (∃ o u r, coxRun.abc 0x07 (coxAt 0x07 { opa := 0, opc := 0xC0, f := [8, 0x20] }) = .ok o ∧
      o.s.readLoc (.cox 0 0) o.c 0 = .ok (0x20, u) ∧ srOf (.cox 0 0) 0x20 = .ok r ∧ u.srValue (.cox 0 0) 0x20 = 20) ∧
    ∃ r q, srOf (.cox 0 0) 0x10 = .ok r ∧ r.rw = true ∧ srOf .umpire 0x82 = .ok q ∧ q.rw = false :=
  ⟨⟨_, _, _, _, rfl, rfl, rfl, rfl, rfl⟩, ⟨_, _, _, rfl, rfl, rfl, rfl⟩, ⟨_, _, rfl, rfl, rfl, rfl⟩⟩

set_option maxRecDepth 8000 in
theorem witness_SeatsFieldUnitsComparisonFenceAndEnd :
    ([0x40, 0x41] : List Nat).all (fun op => coxState.early op ((opInfo op).getD {})
      (coxAt op { vlm1 := 1, opa := 0, opb := 0, opc := 0xF0, f := [8, 1] }) == none) = true ∧
    ([0x42, 0x43] : List Nat).all (fun op => coxState.early op ((opInfo op).getD {}) (coxAt op (encABC 8 1 2)) == none) = true ∧
    coxState.early 0x44 ((opInfo 0x44).getD {}) (coxAt 0x44 { opa := 0, opb := 0, opc := 0xC0, f := [1, 2, 16] }) = none ∧
    coxState.early 0x01 ((opInfo 0x01).getD {}) (coxAt 0x01 {}) = none ∧ coxState.early 0x02 {} (coxAt 0x02 {}) = none ∧
    (coxState.slot 0 0).outLeft = 0 ∧ coxState.Seated 0x40 ∧ (coxRun.slot 0 0).k0.isSome = true := by
  unfold State.Seated
  decide
set_option maxRecDepth 8000 in
theorem witness_SeatOperands : (∃ o u, coxRun.abc 0x40 (coxAt 0x40 { opa := 0, opb := 0, opc := 0xF0, f := [8, 1] }) = .ok o ∧
      o.a = .mem 0 8 ∧ ReadsAll (.cox 0 0) o.b 1 o.s (fun _ => 3) u) ∧ ∃ u, coxRun.landAll (.cox 0 0) = .ok u :=
  ⟨⟨_, coxRun, rfl, rfl, fun _ => coxRun, rfl, rfl, fun k hk => by
    have h : k = 0 := Nat.lt_one_iff.mp hk
    subst h
    rfl⟩, ⟨_, rfl⟩⟩

set_option maxRecDepth 8000 in
theorem witness_ProgramFaultsExceptionsAndReservedOpcodes : (bodyOf 0x63).isSome = true ∧
    coxState.early 0x63 ((opInfo 0x63).getD {}) (coxAt 0x63 {}) = some .privileged ∧ opInfo 0xFF = none ∧
    umpState.early 0x01 {} (umpState.atNow .umpire {} {}) = none ∧ (umpState.hdr .wdg).pend = 0 ∧
    (let s : State := coxState.modSlot 0 0 fun t => { t with instrs := 1048576 }
     s.coreLive (.cox 0 0) = true ∧ 1048576 ≤ (s.slot 0 0).instrs ∧ s.Seated 0x40) ∧
    (let x : PendFld := { special := none, bank := 0, addr := 5, val := 0, left := 0, pc := 9, refused := some 0x40000 }
     let s : State := { umpState with ump := { running := true, regs := { pbk := 0, fld := [x] } } }
     s.umpUp = true ∧ s.ump.regs.fld = [x] ∧ x.left = 0 ∧ x.addr < 262144) ∧
    (let s : State := { umpState with ump := { running := true, ie := true, ien := 8, regs := { pbk := 0 } }, hdrs := [(pageKey .fgt, { intEn := 2, status := 2 })] }
     s.umpUp = true ∧ s.ump.ie = true ∧ (s.ipend &&& s.ump.ien) ≠ 0 ∧ s.ump.regs.fld = []) := by
  unfold State.Seated
  decide
set_option maxRecDepth 8000 in
theorem witness_Traps : (∃ u, coxState.landDue (.cox 0 0) = .ok u ∧
      u.runBody 0x63 { cox := false } (u.atNow (.cox 0 0) { cox := false } {}) wfiBody = .error .privileged) ∧
    ∃ u, umpState.landDue .umpire = .ok u ∧
      u.runBody 0x01 { ump := false } (u.atNow .umpire { ump := false } {}) endBody = .error .operand := ⟨⟨_, rfl, rfl⟩, ⟨_, rfl, rfl⟩⟩

/-- The gate with port U1 enabled and an enable held; rule 3 lets class `n` through at 0x1000 to 0x1FFF with an action. -/
def gateRule (n act : Nat) : Rule :=
  { d0 := BitVec.ofNat 32 (2 ^ (16 + n) + 0x80 + 4 + act), base := 0x1000, limit := 0x1FFF, delta := 0x10000 }
/-- The state of that gate. -/
def withGate (n act : Nat) : State := { onPower with
  fgt := { u1 := { en := true, held := true, eraseSize := [(0x20, 4096)] }
           live := [(3, gateRule n act)] } }
theorem witness_RuleDecides (n act : Nat) (a : Option Nat) (h : (gateRule n act).covers true n a = true) (h' : (gateRule n act).action ≠ 3) :
    Decides (withGate n act) true n a 3 (gateRule n act) :=
  ⟨[], [], rfl, h, h', by simp, by simp⟩
set_option maxRecDepth 4000 in
theorem witness_FlashCommandsFollowTheirRule :
    (∀ n ∈ [0, 3, 4], ∀ act ∈ [0, 1, 2], (gateRule n act).covers true n (some 0x1FFF) = true ∧ (gateRule n act).action = act) ∧
    (∀ n ∈ [1, 6, 7, 8], ∀ act ∈ [0, 2], (gateRule n act).covers true n none = true ∧ (gateRule n act).action = act) ∧
    flashClass 0x03 = some 0 ∧ flashClass 0x05 = some 1 ∧ flashClass 0x02 = some 3 ∧ flashClass 0x20 = some 4 ∧
    flashClass 0x01 = some 6 ∧ flashClass 0x75 = some 7 ∧ flashClass 0x66 = some 8 ∧
    ((withGate 0 0).fgt.port true).en = true ∧ ((withGate 0 0).fgt.port true).addrOf 0x03 0x1FFF = 0x1FFF ∧
    ((withGate 4 0).fgt.port true).eraseSize.get 0 0x20 = 4096 ∧ 0x1FFF / 4096 * 4096 + 4096 ≤ (gateRule 4 0).limit.toNat + 1 := by decide

/-- A log entry. -/
def logged : FLog := ⟨0, 3, false, 0, 1, 0⟩
theorem witness_FlashCommandsTheGateAnswers : ((withGate 0 0).fgt.port true).en = true ∧ flashClass 0xC7 = some 5 ∧
    (withGate 0 0).fgt.log.length < 64 ∧ (({ u1 := { en := true }, log := List.replicate 64 logged } : Fgt).port true).en = true ∧
    64 ≤ ({ u1 := { en := true }, log := List.replicate 64 logged } : Fgt).log.length := by decide

theorem witness_GateBanksAndPorts : onPower.aod.onCell = false ∧ onPower.fgt.frozen = false ∧
    ({ onPower with fgt := { swapPending := true } } : State).fgt.swapPending = true ∧
    ({ onPower with fgt := { frozen := true } } : State).fgt.frozen = true ∧
    ({ onPower with fgt := { log := [logged] } } : State).fgt.log = [logged] := by decide

/-- An entry of the host group at address 0 of 4 KiB, with a second copy. -/
def hostEntry : Entry :=
  { port := 0, group := 0, mreg := 8, counter := 2, svn := 1, flags := 3, addr := 0, altAddr := 0x10000, len := 0x1000
    digest := List.replicate 64 1 }
/-- A manifest with that entry and a power step of each phase. -/
def hostManifest : Manifest :=
  { svn := 1, version := 1, flags := 0, minSvn := List.replicate 32 0, hostPrst := 1, bmcPrst := 2
    steps := [⟨0, 0, 0, 5, 10⟩, ⟨1, 255, 0, 0, 10⟩, ⟨2, 2, 1, 0, 10⟩], entries := [hostEntry], digest := List.replicate 64 2 }
/-- A state in which that manifest has been accepted and its entry is being verified. -/
def booting : State :=
  { onPower with ump := { running := true }, psq := { manifest := some hostManifest, verifying := some (0, false) }
                 quads := [(0, { dirBusy := true, direct := 1, dirAlg := 0x13 })] }
set_option maxRecDepth 4000 in
theorem witness_PowerResetCompletionAndDirectJobs : State.reset.aod.onCell = true ∧
    (let s : State := { onPower with chip := { accReset := true }, ump := { running := true } }
     s.aod.onCell = false ∧ s.chip.accReset = true ∧ s.ump.running = true ∧ s.scrapped = false ∧ s.nDoms < s.nSlots) ∧
    (booting.quad 0).dirBusy = true ∧ (booting.quad 0).direct ≠ 0 ∧ (booting.quad 0).dirFault = false ∧ booting.NoneDue 0 ∧ booting.verEntry 0 = some hostEntry ∧
    (booting.quad 0).dirExtend = false ∧ (booting.quad 0).dirError = false ∧
    (let s : State := { onPower with quads := [(2, { dirBusy := true, direct := 8 })] }
     (s.quad 2).dirBusy = true ∧ (s.quad 2).direct ≠ 0 ∧ s.NoneDue 2 ∧ s.psq.verifying = none) ∧ (onPower.aod.logSlot false).isSome = true := by
  unfold State.NoneDue
  decide

set_option maxRecDepth 4000 in
theorem witness_PowerSequencingAndCounters :
    (let s : State := { booting with psq := { manifest := some hostManifest, stepAt := [(0, some (0, false))] } }
     s.waitsFor 0 0 = some 0 ∧ s.phaseMan 0 = some hostManifest ∧ hostManifest.steps[0]?.isSome = true ∧
     s.psq.stepAt.get none 0 = some (0, false) ∧ s.ump.running = true ∧ s.aod.onCell = false) ∧
    (let s : State := { booting with psq := { manifest := some hostManifest, stepAt := [(0, some (0, true)), (1, some (2, true))] } }
     s.psq.stepAt.get none 0 = some (0, true) ∧ s.psq.stepAt.get none 1 = some (2, true) ∧ s.phaseMan 1 = some hostManifest ∧
     ((hostManifest.phaseSteps 0).filter fun x => decide (0 < x.1)).length = 1 ∧
     ((hostManifest.phaseSteps 1).filter fun x => decide (2 < x.1)).length = 0) := by decide
set_option maxRecDepth 4000 in
theorem witness_PowerGoodLoss :
    (let s : State := { booting with psq := { manifest := some hostManifest, watch := 5, host := .released, retryTimer := 4, retried := 1 } }
     s.psq.watch.getLsbD 2 = true ∧ s.phaseOf 2 = some 1 ∧ s.grp 0 = .released ∧ s.grp 1 ≠ .released ∧ s.phaseOf 0 = some 0 ∧
     s.psq.retryTimer.getLsbD 2 = true ∧ s.psq.watch.getLsbD 1 = false ∧ 0 ∈ phaseGroups 1) ∧
    (let s : State := { booting with aod := { booting.aod with rtc := 20000000 }
                                     ump := { running := true, fwCommit := true, fwSvn := 2 }
                                     psq := { manifest := some { hostManifest with flags := 1 }, fullRelease := some 9 } }
     s.psq.fullRelease = some 9 ∧ 9 + 600 * second ≤ s.now ∧ s.ump.running = true) := by decide

theorem witness_CardCommandsAreSent : ({ onPower with cci := { pwr := true } } : State).cci.pwr = true ∧
    ({ onPower with cci := { pwr := true } } : State).cci.busy = false ∧ ({} : Cci).card.tempWp = false ∧ ({} : Cci).card.permWp = false ∧
    ({} : Cci).card.record = false ∧
    (0xFFFF : BitVec 16) ≠ 0 := by decide

theorem witness_CardInsertionsAndEndsOfCommands : onPower.cci.pwr = false ∧ onPower.aod.onCell = false ∧
    (let c : Cci := { pwr := true, busy := true, index := 31 }
     c.index.toNat ∈ [2, 9, 10, 13, 16, 17, 18, 31] ∧ c.noResp = false ∧ c.card.retriedCmd = false ∧
     ({ c with index := 12, card := { resolving := true } } : Cci).card.resolving = true) ∧
    (let c : Cci := { pwr := true, busy := true, index := 19, det := true, again := true, txnOpen := true, card := { mode := 2 } }
     c.pwr = true ∧ c.again = true ∧ c.det = true ∧ c.card.mode = 2 ∧ c.vsel = false ∧ c.busy = true ∧ c.txnOpen = true ∧
     c.index.toNat ∈ [3, 13, 16, 17, 18, 19] ∧ c.index.toNat ∈ [3, 8, 12, 19] ∧ c.noResp = false ∧ c.card.retriedCmd = false) ∧
    ({ index := 10, busy := true } : Cci).index = 10 ∧ ({ index := 9, busy := true } : Cci).index = 9 ∧
    ({ pwr := true, card := { mode := 2 } } : Cci).busy = false ∧ ({ card := { retriedCmd := true } } : Cci).card.retriedCmd = true ∧
    ({ respTo := true } : CardDone).respTo = true ∧ ({} : CardDone).respTo = false ∧ ({} : CardDone).respCrc = false ∧
    ({ respTo := true } : CardDone).busyTo = false := by decide

/-- An SPDM responder with main power: the Umpire runs, slot 0 holds a chain, DOE has negotiated ML-DSA-87 in version 1.4. -/
def spdmUp : State := { onPower with
  ump := { running := true }
  store := { certs := [(0, [1, 2, 3])] }
  spdm := [(0, { version := 0x14, caps := true, mldsa := some true, waiting := some (5, 1, false, []), large := some (9, [1, 2, 3]) })] }
theorem witness_MeasurementsAreTheRegisters : (Serving spdmUp ∧ (spdmUp.spdmOf .doe).mldsa.isSome = true ∧ spdmUp.chip.accReset = false) ∧
    (64 : BitVec 8).toNat ≤ 64 ∧ (65 : BitVec 8) ≠ 0xFF := by unfold Serving; decide

theorem witness_SpdmNegotiationAndCertificates : (Serving spdmUp ∧ (spdmUp.spdmOf .doe).caps = true ∧
    (spdmUp.spdmOf .doe).mldsa = some (0 % 2 == 0) ∧ (spdmUp.spdmOf .doe).waiting = some (5, 1, false, [])) ∧
    (let s : State := { spdmUp with chip := { accReset := true } }
     Serving s ∧ s.chip.accReset = true ∧ (s.spdmOf .doe).mldsa = some (0 % 2 == 0)) ∧ spdmUp.chip.accReset = false := by unfold Serving; decide
/-- A good chain ends with the public key of the chip's own identity root, a free value of Config, so the witness takes one as given. -/
theorem witness_ChainIsServed (h : spdmUp.chainGood 0 [1, 2, 3] = true) : ∃ c, spdmUp.served 0 = some c ∧ 0 < c.length := by
  simp only [State.served]
  rw [if_pos ⟨by decide, by decide, h⟩]
  exact ⟨_, rfl, by simp [leBytes]⟩

theorem witness_SpdmSessionsAndChunks : Serving spdmUp ∧ spdmUp.chip.accReset = false ∧ spdmUp.sessions.length < 8 ∧
    spdmUp.sessionsOn .doe < 4 ∧ (spdmUp.spdmOf .doe).mldsa = some (0 % 2 == 0) ∧ (spdmUp.spdmOf .doe).large = some (9, [1, 2, 3]) ∧
    (spdmUp.dom 0).isSome = true := by unfold Serving; decide
theorem witness_SpdmSession : let s : State := { spdmUp with sessions := [⟨.doe, 5, false, 0⟩, ⟨.i3c, 6, true, 0⟩] }
    s.session .doe 5 = some ⟨.doe, 5, false, 0⟩ ∧ s.session .i3c 6 = some ⟨.i3c, 6, true, 0⟩ := by decide

/-- VF 2 in effect, in domain 7, on a device with an SPDM session on DOE. -/
def tdispUp (d : Option (BitVec 12)) (st : Tdisp) : State := { spdmUp with
  sessions := [⟨.doe, 5, true, 0⟩]
  pcie := { vfEnable := true, numVfs := 2, vfsInEffect := some 2 }
  fns := [(2, { domain := d, tdisp := st })] }
set_option maxRecDepth 4000 in
theorem witness_TdispRequests : TdispReady (tdispUp (some 7) .configUnlocked) 2 ∧ TdispReady (tdispUp none .configUnlocked) 2 ∧
    TdispReady (tdispUp (some 7) .configLocked) 2 ∧ ((tdispUp (some 7) .configLocked).fn 2).tdisp = .configLocked ∧
    ((tdispUp (some 7) .configUnlocked).fn 2).domain = some 7 ∧ ((tdispUp none .configUnlocked).fn 2).domain = none := by
  unfold TdispReady Serving; decide

set_option maxRecDepth 4000 in
theorem witness_DetectionsAreLoggedAndAnswered :
    (∀ src ∈ [0, 2, 3, 4, 5, 6, 7, 8, 9, 10, 11, 12, 13], onPower.srcOff src = false ∧ onPower.suppressed src 0 = false ∧
      onPower.srcClass src ∈ [1, 2, 3] ∧ (onPower.entrySlot src).isSome = true) ∧ onPower.tmp.persist = [] ∧
    onPower.within (onPower.tmp.lastC.get none 8) second = false ∧
    (let s : State := { onPower with tmp := { uvPending := [(3, 7)] } }
     (s.tmp.uvPending.find? fun x => x.1 == 3) = some (3, 7) ∧ s.srcOff 1 = false ∧ s.suppressed 1 3 = false) := by decide
theorem witness_DetectingCommands : Detects (.shield 63) 0 63 0 ∧ Detects (.supplyOv 2 1200) 2 2 1200 ∧ Detects (.thermalHigh 23 9) 3 23 9 ∧
    Detects (.thermalLow 0 9) 4 0 9 ∧ Detects (.light 15) 5 15 0 ∧ Detects (.emp 1) 6 1 0 ∧ Detects .cellRemoved 7 0 0 ∧
    Detects .cellLow 8 0 0 ∧ Detects (.tloop 3) 12 3 0 := by simp [Detects]
set_option maxRecDepth 4000 in
theorem witness_DetectionsOnTheBackupCellAreDeferred : State.reset.aod.onCell = true ∧
    (∀ src ∈ [0, 9, 12], State.reset.srcOff src = false ∧ State.reset.suppressed src 0 = false ∧
      State.reset.srcClass src ∈ [1, 2] ∧ (State.reset.entrySlot src).isSome = true) ∧ State.reset.tmp.persist = [] := by decide

theorem witness_TamperReleaseFallBackAndStimulation :
    (let s : State := { onPower with tmp := { tamperLow := true, testBusy := true }, chip := { maskFallback := true } }
     s.tmp.tamperLow = true ∧ s.tmp.respA = false ∧ s.tmp.respB = false ∧ s.chip.maskFallback = true ∧ s.chip.maskUntil ≤ s.now ∧ s.tmp.testBusy = true ∧
     s.tmp.testPass = false ∧ (s.entrySlot s.tmp.testSource.toNat).isSome = true ∧ s.aod.onCell = false ∧ bit (s.hdr .tmp).lock 0 = false) ∧
    bit ({ onPower with dbg := { rights := 0x100 } } : State).dbg.rights 8 = true := by decide

theorem witness_WatchdogServiceAndTasks : onPower.aod.onCell = false ∧ onPower.wdg.armed = false ∧ onPower.wdg.keyFaults = 0 ∧
    onPower.wdgCounts = true ∧ onPower.wdg.clkRc ≠ true ∧
    (let w : Wdg := { armed := true, windowOpen := true, seen := 6, curMask := 6 }
     w.armed = true ∧ w.windowOpen = true ∧ w.curMask &&& ~~~w.seen = 0 ∧ ({ w with curMask := 7 } : Wdg).curMask &&& ~~~w.seen ≠ 0) := by decide
theorem witness_HeartbeatAndTimerOfTheUmpire : onPower.aod.onCell = false := by decide

/-- The watchdog of a device that has started, in its period. -/
def ticking (w : Wdg) : State := { onPower with
  aod := { onCell := false, lost := false }
  ump := { running := true }
  wdg := w }
theorem witness_WatchdogExpiries : (ExpiryReady (ticking {}) ∧ (ticking {}).wdgCounts = true ∧ (ticking {}).wdgLive = true) ∧
    (ticking { armed := true }).wdg.armed = true ∧ (ticking { keyFaults := 1 }).wdg.keyFaults ≠ 0 ∧ (ticking {}).wdg.windowOpen = false ∧
    (ticking {}).aod.trial = false ∧ (ticking {}).wdg.consec = 0 ∧ 2 ≤ (ticking {}).wdgLimit ∧ (ticking {}).ump.running = true ∧
    (ticking {}).srcOff 15 = false ∧ (15, 2) ∉ (ticking {}).tmp.persist ∧ (ticking {}).suppressed 15 2 = false ∧
    ((ticking {}).entrySlot 15).isSome = true := by unfold ExpiryReady; decide

set_option maxRecDepth 4000 in
theorem witness_SelfTestScrubAndRandomness :
    (let s : State := { onPower with bst := { test := 3, kind := 1, inst := 2 }, hdrs := [(pageKey (.egt 2), { quar := true })] }
     s.bst.busy = false ∧ 0 < s.bst.test.toNat ∧ s.bst.test.toNat ≤ 3 ∧ s.bstAllowed 1 2 (.egt 2) = true ∧ s.present (.egt 2) = true ∧
     s.bstAllowed 1 3 (.egt 3) = false) ∧
    (let s : State := { onPower with bst := { kind := 5, inst := 1, busy := true, passed := [1281] }, rng := { started := true } }
     s.bst.passed.contains (bstKey s.bst) = true ∧ s.bst.kind = 5 ∧ s.bst.busy = true ∧ s.rng.started = true) ∧
    ([0, 1, 2, 3, 4, 5, 6, 7, 8, 9] : List Nat).all (fun m => onPower.usable (memPage { mem := m })) = true ∧
    onPower.rng.fails.filter (fun x => decide (onPower.now < x + 60 * second)) = [] := by decide

set_option maxRecDepth 4000 in
theorem witness_ProgramsLifeCycleAndAgeing :
    (let s : State := { onPower with ump := { running := true }, chip := { accReady := true, cadenceNorm := 100 }
                                     erg := { highSince := some 0, setMv := 700 } }
     s.umpUp = true ∧ s.avsReady = true ∧ s.qNum < s.qDen ∧ s.erg.setMv.toNat + 5 ≤ 850 ∧ s.usable (.egt 0) = true ∧
     s.chip.accReady = true ∧ s.freeProg = some 0) ∧
    (let s : State := { onPower with ump := { running := true }, chip := { cadenceNorm := 60000 }
                                     aod := { onCell := false, rtc := 2000000 }, erg := { highSince := some 0, setMv := 700 } }
     s.avsReady = true ∧ s.qHigh = true ∧ 655 ≤ s.erg.setMv.toNat ∧ 0 + 60 * second ≤ s.now) := by decide

set_option maxRecDepth 4000 in
theorem witness_ManagementRequestsAreCheckedAndServed :
    (let s : State := { onPower with ump := { running := true }, lcs := { state := 2 } }
     (s.umpUp = true ∧ Transport.vdm ≠ Transport.doe) ∧ s.lcs.state = 2 ∧ s.inStates [2, 3] = true) ∧
    (let s : State := { booting with psq := { manifest := some hostManifest } }
     s.umpUp = true ∧ (s.groupEntries 0).length = 1) ∧ (4 : Nat) ∉ ([1, 2] : List Nat) ∧ byteOf 1 = 1 := by decide

set_option maxRecDepth 4000 in
theorem witness_ManagementRequestsThatChangeSettings :
    (let s : State := { onPower with ump := { running := true }, cci := { card := { hdr := [1] } } }
     (s.umpUp = true ∧ Transport.vdm ≠ Transport.doe) ∧ s.cci.card.hdr ≠ [] ∧ s.mine (List.replicate 32 0) = true ∧ s.lcs.state = 1 ∧
     s.otp.mon.length < 4 ∧ s.otp.wdgWin = none ∧ s.otp.wdgRep = none ∧ s.chip.accReset = false ∧ (s.mreg 40).cnt = 0) ∧
    leAt [40, 0, 0, 0, 0, 0, 0, 0, 1] 0 1 = 40 ∧ leAt [0, 63] 0 2 < 16384 := by decide

set_option maxRecDepth 4000 in
theorem witness_PldmBaseAndSensors :
    (let s : State := { onPower with ump := { running := true }, mon := { receiver := [(1, some 9)], level := [(3, 2)] } }
     s.umpUp = true ∧ Transport.i3c ≠ Transport.doe ∧ s.mon.level.get 0 3 ≠ 3 ∧ s.mon.level.get 0 3 ≠ 0 ∧ s.mon.receiver ≠ [] ∧
     s.mon.disabled.contains 4 = false) ∧ sensors.length = 41 ∧ sensors[0]? = some 1 ∧ sensors[40]? = some 44 ∧
    sensors[41]? = none := by decide

set_option maxRecDepth 4000 in
theorem witness_PldmFirmwareUpdate :
    (let s : State := { onPower with ump := { running := true }, pldm := { phase := 2, passed := [5], applied := [5, 1] } }
     s.umpUp = true ∧ Transport.vdm ≠ Transport.doe ∧ s.pldm.phase = 2 ∧ s.pldm.passed.contains 5 = true ∧
     s.pldm.passed.all (fun c => s.pldm.applied.contains c) = true ∧ s.mayUpdate 5 = true ∧ s.mayUpdate 4 = false) ∧
    (let s : State := { onPower with ump := { running := true }, pldm := { phase := 3, size := 2, data := [1] } }
     s.pldm.data.length < s.pldm.size ∧ ([7] : List Byte).length = min 4096 (s.pldm.size - s.pldm.data.length)) := by decide

set_option maxRecDepth 4000 in
theorem witness_JtagInstructions :
    (let s : State := { onPower with dbg := { rights := 0x1FF, halted := true }, ump := { running := true } }
     s.aod.onCell = false ∧ (∀ n ∈ [0, 1, 2, 3, 4, 5, 6], s.dbg.rights.getLsbD n = true) ∧ s.dbg.halted = true ∧ s.ump.running = true ∧
     s.ump.halted = false ∧ s.ump.waiting = false ∧ 0 ∉ s.ump.poison ∧ s.lcs.state = 1 ∧ s.ump.regs.fld = [] ∧ s.ump.regs.ldepth = 0 ∧
     fetchBad .umpire 0 0 = false ∧ (s.fetchIns .umpire 0 0).op = 0 ∧ s.aod.serviceRoot = none ∧ s.scrapped = false ∧
     ({ s with aod := { s.aod with serviceRoot := some 0 } } : State).aod.serviceRoot.isSome = true) ∧ PageId.accel .chip = true ∧
    onPower.aod.onCell = false ∧ (∀ n ∈ [0, 1, 2, 3, 4, 5, 6], onPower.dbg.rights.getLsbD n = false) := by decide

end Sys2Proof.Tests
end

/-!
# Frames of the shared operations

What the shared operations of Machine/Ops.lean to Machine/Resets.lean change and leave alone, and how a frame is used.
-/

namespace Sys2Proof.Machine

-- One declaration after the other: elaborated side by side, the row as one text takes more threads than the check allows.
set_option Elab.async false

section

variable {l l' : List Field} {s t u : State}

/-- A part outside the list of a frame is as before. -/
theorem Only.same (h : Only l s t) (f : Field) (hf : f ∉ l := by decide) : s.agree t f := h.2.2 f hf

/-- A frame goes on with a second one that names no more parts. -/
theorem Only.then (h : Only l s t) (h' : Only l' t u) (hl : l' ⊆ l := by decide) : Only l s u := h.trans (h'.mono hl)

theorem Answers.next {P : State → Prop} (h : P t) : Answers (.next t) P := ⟨t, rfl, h⟩

/-- With main power a command means what it means on main power. -/
theorem powered_eq (h : s.aod.onCell = false) (f : State → Out) : s.powered f = f s := by
  simp [State.powered, h]

end

end Sys2Proof.Machine

/-!
# The wipes of the accelerator domain, and the link (O10)
-/

namespace Sys2Proof.Machine

-- One declaration after the other: elaborated side by side, the row as one text takes more threads than the check allows.
set_option Elab.async false

section
variable {l : List Field} {s t : State}

/-- Clearing the units of the accelerator domain. -/
theorem only_clearUnits (s : State) : Only [.eights, .quads, .slices, .jobs, .reqs, .chans, .gens, .chFreed, .msh, .kslots, .kfrees,
    .meas, .fns] s s.clearUnits :=
  let h1 := ((((Only.refl _ s).onEights (by decide) _).onQuads (by decide) _).onSlices (by decide) _).onJobs (by decide) _
  let h2 := (((h1.onReqs (by decide) _).onChans (by decide) _).onGens (by decide) _).onChFreed (by decide) _
  (((((h2.onMsh (by decide) _).onKslots (by decide) _).onKfrees (by decide) _).onMeas (by decide) _).onFns (by decide) _)

theorem only_bstEnd (s : State) (c : Nat) : Only [.bst] s (s.bstEnd c) :=
  Only.ite ((Only.refl _ s).onBst (by decide) _) (Only.refl _ s)

theorem only_closeForReset (s : State) : Only [.out, .fns, .chip, .hdrs, .heat, .ump, .aod] s s.closeForReset :=
  (Only.refl _ s).closeForReset (by decide) (by decide) (by decide) (by decide) (by decide) (by decide) (by decide)

theorem only_setBit (s : State) (p : PageId) (n : Nat) : Only [.out, .fns, .chip, .hdrs] s (s.setBit p n) :=
  (Only.refl _ s).setBit (by decide) (by decide) (by decide) (by decide) p n

theorem only_modChip (s : State) (f : Chip → Chip) : Only [.out, .fns, .chip, .hdrs] s (s.modChip f) :=
  (Only.refl _ s).modChip (by decide) (by decide) (by decide) (by decide) f

/-- The accelerator domain wiped, but for what a reset does to the link (R21, R28). -/
def State.wipedUnits (s : State) (umpire : Bool) : State :=
  let s1 := s.clearUnits.clearStaleProgs.bstEnd 4
  let epoch := s1.aod.epoch + 1
  let s2 := (s1.onAod fun a => { a with epoch := epoch }).onGenBase fun _ => genBaseOf epoch.toNat
  let s3 := (s2.onKlg fun k => { integrityKey := s2.draw 256, debugRoot := k.debugRoot, debugRootVal := k.debugRootVal }).spend 1
  let s4 := (s3.onHdrs fun m => m.filter fun kv => !accelKey kv.1).klgLock
  let s5 := s4.onDomains fun m => m.mapVals none fun _ d => match d with
    | some x => if x.ending then none else some x
    | none => none
  let s6 := s5.modChip (Chip.wiped umpire)
  s6.onHeat fun t => { t with live := s6.freshLive }

theorem accWipe_eq (s : State) (umpire : Bool) : s.accWipe umpire =
    if umpire then (s.wipedUnits umpire).onPcie fun p => { p with xlats := [], invals := [], roData := false, wakeEn := false }
    else (s.wipedUnits umpire).endDoe.onPcie fun p => { perstLow := p.perstLow, doeReady := true } := rfl

/-- The parts that the wipe of the units can change. -/
def unitFields : List Field :=
  [.out, .hdrs, .chip, .fns, .chans, .gens, .chFreed, .reqs, .jobs, .msh, .eights, .progs, .quads, .meas, .slices, .klg, .kslots,
    .kfrees, .genBase, .domains, .heat, .aod, .bst, .freeCtr]

theorem only_wipedUnits (s : State) (umpire : Bool) : Only unitFields s (s.wipedUnits umpire) := by
  unfold State.wipedUnits
  have h1 : Only unitFields s (s.clearUnits.clearStaleProgs.bstEnd 4) :=
    (((Only.refl _ s).then (only_clearUnits s)).onProgs (by decide) _).then (only_bstEnd _ 4)
  generalize s.clearUnits.clearStaleProgs.bstEnd 4 = u at h1 ⊢
  extract_lets s1 epoch s2 s3 s4 s5 s6
  have h4 : Only unitFields s s4 := Only.klgLock (by decide) (((((h1.onAod (by decide) _).onGenBase (by decide) _).onKlg
    (by decide) _).spend (by decide) _).onHdrs (by decide) _)
  exact ((h4.onDomains (by decide) _).then (only_modChip _ _)).onHeat (by decide) _

/-- The parts that a reset of the accelerator domain can change (R21, R23). -/
def wipeFields : List Field := [.pcie, .ump, .sessions, .spdm] ++ unitFields

theorem only_accReset (s : State) (umpire : Bool) : Only wipeFields s (s.accReset umpire) := by
  unfold State.accReset
  rw [accWipe_eq]
  have h : Only wipeFields s (s.closeForReset.wipedUnits umpire) :=
    ((Only.refl _ s).then (only_closeForReset s)).then (only_wipedUnits _ umpire)
  exact (h.onPcie (by decide) _).ite ((h.endDoe (by decide) (by decide) (by decide)).onPcie (by decide) _)

/-- A reset that the Umpire did not start ends what belongs to the link: the sessions of DOE and VDM, the configuration (R21, R75). -/
theorem accReset_link (s : State) : (s.accReset false).sessions = s.sessions.filter (·.transport == .i3c) ∧
    (s.accReset false).pcie = { perstLow := s.pcie.perstLow, doeReady := true } := by
  unfold State.accReset
  rw [accWipe_eq, if_neg Bool.false_ne_true]
  have h := only_wipedUnits s.closeForReset false
  have hc := only_closeForReset s
  have hs := (h.same .sessions).trans (hc.same .sessions)
  have hp := (h.same .pcie).trans (hc.same .pcie)
  generalize s.closeForReset.wipedUnits false = v at hs hp
  rw [← hs, ← hp]
  exact ⟨rfl, rfl⟩

/-- The link's own state is no part of what a wipe promises. -/
theorem AccWiped.onPcie (h : AccWiped s t) (f : Pcie → Pcie) : AccWiped s (t.onPcie f) := h

/-- Training with the endpoint out of SCRAPPED and of a transition sets the link's fields, and DEGRADED below the full figure (R83). -/
theorem train_eq (s : State) (speed : BitVec 4) (width : BitVec 5) (flit : Bool) (h1 : s.scrapped = false)
    (h2 : s.transiting = false) : s.train speed width flit =
      let s1 := s.onPcie fun p => { p with linkUp := true, speed := speed, width := width, flit := flit, inL2 := false }
      if speed.toNat < 7 ∨ width.toNat < s.variant.lanes then s1.setBit .pcx 9 else s1 := by
  simp [State.train, h1, h2]

theorem train_effect (s : State) (speed : BitVec 4) (width : BitVec 5) (flit : Bool) (h1 : s.scrapped = false)
    (h2 : s.transiting = false) :
    (s.train speed width flit).pcie =
        { s.pcie with linkUp := true, speed := speed, width := width, flit := flit, inL2 := false } ∧
      (s.train speed width flit).hdr .pcx =
        (if speed.toNat < 7 ∨ width.toNat < s.variant.lanes then (s.hdr .pcx).raise (1#32 <<< 9) else s.hdr .pcx) ∧
      Only [.pcie, .hdrs, .chip, .out, .fns] s (s.train speed width flit) := by
  rw [train_eq s speed width flit h1 h2]
  dsimp only
  split
  · exact ⟨(only_setBit _ _ _).same .pcie, by rw [hdr_setBit]; rfl,
      ((Only.refl _ s).onPcie (by decide) _).then (only_setBit _ _ _)⟩
  · exact ⟨rfl, rfl, (Only.refl _ s).onPcie (by decide) _⟩

/-- A link event that resets the accelerator domain. -/
theorem accReset_onPcie (s : State) (f : Pcie → Pcie) : let t := (s.accReset false).onPcie f
    AccWiped s t ∧ t.sessions = s.sessions.filter (·.transport == .i3c) ∧
      t.pcie = f { perstLow := s.pcie.perstLow, doeReady := true } ∧ Only wipeFields s t :=
  ⟨(accWiped_accReset s false).onPcie f, (accReset_link s).1, congrArg f (accReset_link s).2,
    (only_accReset s false).onPcie (by decide) f⟩

/-- Settles O10: each reset is the wipe of Laws/Wipe with its link fields, each training `train_effect`. -/
theorem lossOfTheLinkWipesTheAcceleratorDomain : Obligations.LossOfTheLinkWipesTheAcceleratorDomain := by
  unfold Obligations.LossOfTheLinkWipesTheAcceleratorDomain
  refine ⟨fun s h => ?_, fun s h => ?_, fun s speed width flit h hp hs ht => ?_, fun s speed width flit h hp hs ht => ?_⟩
  · obtain ⟨hw, hses, hp, ho⟩ := accReset_onPcie s fun p => { p with perstLow := true, linkUp := false }
    change Answers (execPerstAssert s) _
    rw [execPerstAssert, powered_eq h]
    exact .next ⟨hw, by rw [hp], by rw [hp], hses, ho.mono (by decide)⟩
  · obtain ⟨hw, hses, hp, ho⟩ := accReset_onPcie s fun p => { p with linkUp := false }
    change Answers (execLinkDown s) _
    rw [execLinkDown, powered_eq h]
    exact .next ⟨hw, by rw [hp], by rw [hp], hses, ho.mono (by decide)⟩
  · obtain ⟨hpc, hh, ho⟩ := train_effect (s.onPcie fun p => { p with perstLow := false, crs := !s.chip.accReady }) speed
      width flit hs ht
    change Answers (execPerstRelease speed width flit s) _
    rw [execPerstRelease, powered_eq h, if_pos hp]
    exact .next ⟨hpc, hh, ((Only.refl _ s).onPcie (by decide) _).then ho⟩
  · have hb := only_setBit s .pcx 8
    have hsc : (s.setBit .pcx 8).scrapped = false := by
      unfold State.scrapped; rw [hb.same .lcs]; exact hs
    have htr : (s.setBit .pcx 8).transiting = false := by
      unfold State.transiting; rw [hb.same .lcs]; exact ht
    obtain ⟨hpc, hh, ho⟩ := train_effect (s.setBit .pcx 8) speed width flit hsc htr
    change Answers (execLinkRetrain speed width flit s) _
    rw [execLinkRetrain, powered_eq h, if_neg (by rw [hp]; decide)]
    refine .next ⟨hpc.trans ?_, hh.trans ?_, ((Only.refl _ s).then hb).then ho⟩
    · rw [hb.same .pcie]
    · rw [hb.2.1, hdr_setBit, if_pos rfl]

end
end Sys2Proof.Machine

/-!
# Counterexamples: a retry's fault outside the block's slices (O19), and an isolation that a function reset brings (O11)
-/

namespace Sys2Proof.Machine

-- One declaration after the other: elaborated side by side, the row as one text takes more threads than the check allows.
set_option Elab.async false

/-- The outcome is a next state, and a test of it passes: what an evaluation of the model shows. -/
def leavesTest (o : Out) (p : State → Bool) : Bool :=
  match o with
  | .next t => p t
  | _ => false

/-- What an answer promises holds of the state that the evaluation shows. -/
theorem Answers.leavesTest {o : Out} {P : State → Prop} {p : State → Bool} (h : Answers o P) (hp : leavesTest o p = true) :
    ∃ t, P t ∧ p t = true := by
  obtain ⟨t, rfl, ht⟩ := h
  exact ⟨t, ht, hp⟩

/-- A retried job on slice 2, which is pair 1's. CELL_FAULT of slot 2 of pair 0 names that slice too. -/
def retryOnSliceTwo : State :=
  { aod := { onCell := false }
    reqs := [(0, some { fn := 0, ch := 0, slot := 0, dwords := [], job := some 0 })]
    jobs := [(0, some { kind := .pair, req := 0, fn := 0, ch := 0, domain := 0, running := true, home := some 2, faults := [2] })]
    slices := [(2, { running := some 0, busy := true })] }

set_option maxRecDepth 10000 in
/-- The fault of slot 2 of pair 0 leaves the request of slice 2's job on the chip. -/
theorem cellFault_retryOnSliceTwo :
    leavesTest (exec (.cellFault .pair 0 2 0 0x84) retryOnSliceTwo) (fun t => (t.req 0).isSome) = true := by decide

/-- Refutes O19: for a pair the slot operand is not held below 2, so a fault in the retry can name the job of another pair's slice,
whose request the fault's own pair does not end. -/
theorem not_cellFaultsAndBlockAlarms : ¬ Obligations.CellFaultsAndBlockAlarms := by
  unfold Obligations.CellFaultsAndBlockAlarms
  rintro ⟨-, -, h, -, -⟩
  obtain ⟨t, ⟨hreq, -⟩, hsome⟩ := (h retryOnSliceTwo .pair 0 2 0 0 0x84 _ _ rfl rfl rfl rfl (by decide) (by decide) rfl rfl).leavesTest
    cellFault_retryOnSliceTwo
  have hgone : t.req 0 = none := hreq
  exact absurd hsome (by simp [hgone])

/-- VF 1 runs a job on slice 0, due for isolation, beside the isolated slice 1; a request of VF 2 runs in the same region's quad. -/
def flrBesideDueIsolation : State :=
  { aod := { onCell := false, rtc := 100 }
    pcie := { crs := false, numVfs := 2, vfEnable := true, vfsInEffect := some 2 }
    chip := { quarAt := [(0, pageKey (.egt 0), 50)] }
    fns := [(2, { })]
    chans := [(chKey 1 0, some { handle := 0x100000 }), (chKey 2 0, some { handle := 0x100000, irqEn := true })]
    reqs := [(1, some { fn := 2, ch := 0, slot := 0, dwords := [2], job := some 1, admitted := true })]
    jobs := [(0, some { kind := .pair, req := 7, fn := 1, ch := 0, domain := 0, home := some 0, running := true }),
             (1, some { kind := .quad, req := 1, fn := 2, ch := 0, domain := 0, running := true, home := some 0 })]
    quads := [(0, { busy := 1 })]
    slices := [(0, { running := some 0, busy := true, pendIso := true }), (1, { isolated := true })] }

set_option maxRecDepth 10000 in
/-- VF 1's reset leaves a pending bit in VF 2's PBA. -/
theorem vfFlr_flrBesideDueIsolation :
    leavesTest (exec (.vfFlr 1) flrBesideDueIsolation) (fun t => decide ((t.fn 2).pba = [0])) = true := by decide

/-- Refutes O11: the FLR ends VF 1's segment, the isolation due takes slice 0, the pair and with it the region leave service (R13,
R18), and VF 2's request of that region ends with BLOCK_FAULT, whose masked vector sets a bit of VF 2's PBA. -/
theorem not_functionResetsClearTheirFunctions : ¬ Obligations.FunctionResetsClearTheirFunctions := by
  unfold Obligations.FunctionResetsClearTheirFunctions
  rintro ⟨-, h, -⟩
  obtain ⟨t, ⟨-, -, -, hfn, -⟩, hpba⟩ := (h flrBesideDueIsolation 1 rfl rfl rfl (by decide)).leavesTest vfFlr_flrBesideDueIsolation
  have hkept : t.fn 2 = flrBesideDueIsolation.fn 2 := hfn 2 (by decide) (by decide) rfl
  rw [hkept] at hpba
  exact absurd hpba (by decide)

end Sys2Proof.Machine

/-!
# Reading the state after an operation

What the accessors of Machine/Ops.lean read after each update of theirs, how the headers of pages grow, and that events stay.
-/

namespace Sys2Proof

-- One declaration after the other: elaborated side by side, the row as one text takes more threads than the check allows.
set_option Elab.async false

/-- A read after a write. -/
theorem SMap.get_set {α : Type} [DecidableEq α] (d : α) (m : SMap α) (k j : Nat) (v : α) :
    SMap.get d (SMap.set d m k v) j = if j = k then v else SMap.get d m j := by
  split
  · subst_vars; exact SMap.get_set_same d m _ v
  · exact SMap.get_set_other m ‹_› v

namespace Machine

/-! ### Indexed pieces of state -/

theorem chan_modChan_self (s : State) (f i : Nat) (g : Chan → Chan) : (s.modChan f i g).chan f i = (s.chan f i).map g :=
  SMap.get_set_same _ _ _ _

theorem req_modReq (s : State) (r m : Nat) (g : Req → Req) :
    (s.modReq r g).req m = if m = r then (s.req r).map g else s.req m := SMap.get_set _ _ _ _ _

theorem req_remove (s : State) (r m : Nat) : (s.onReqs (·.set none r none)).req m = if m = r then none else s.req m :=
  SMap.get_set none s.reqs r m none

theorem job_modJob (s : State) (j m : Nat) (g : Job → Job) :
    (s.modJob j g).job m = if m = j then (s.job j).map g else s.job m := SMap.get_set _ _ _ _ _

theorem job_remove (s : State) (j m : Nat) : (s.onJobs (·.set none j none)).job m = if m = j then none else s.job m :=
  SMap.get_set none s.jobs j m none

theorem eight_modEight (s : State) (e k : Nat) (g : Eight → Eight) :
    (s.modEight e g).eight k = if k = e then g (s.eight e) else s.eight k := SMap.get_set _ _ _ _ _

theorem quad_modQuad (s : State) (r k : Nat) (g : Quad → Quad) :
    (s.modQuad r g).quad k = if k = r then g (s.quad r) else s.quad k := SMap.get_set _ _ _ _ _

theorem slice_modSlice (s : State) (i k : Nat) (g : Slice → Slice) :
    (s.modSlice i g).slice k = if k = i then g (s.slice i) else s.slice k := SMap.get_set _ _ _ _ _

theorem mreg_modMeas (s : State) (n k : Nat) (g : Meas → Meas) :
    (s.modMeas n g).mreg k = if k = n then g (s.mreg n) else s.mreg k := SMap.get_set _ _ _ _ _

theorem kslot_modKslot (s : State) (i k : Nat) (g : KSlot → KSlot) :
    (s.modKslot i g).kslot k = if k = i then g (s.kslot i) else s.kslot k := SMap.get_set _ _ _ _ _

theorem slot_modSlot (s : State) (e k e' k' : Nat) (g : Slot → Slot) :
    (s.modSlot e k g).slot e' k' = if (e', k') = (e, k) then g (s.slot e k) else s.slot e' k' := by
  unfold State.modSlot State.slot
  rw [eight_modEight]
  by_cases he : e' = e
  · subst he
    rw [if_pos rfl, SMap.get_set]
    simp
  · simp [he]

/-! ### Headers -/

/-- A page's header with nothing but status bits set. -/
def Hdr.Raised (h h' : Hdr) : Prop :=
  h'.errs = h.errs ∧ h'.quar = h.quar ∧ ∀ n, h.status.getLsbD n = true → h'.status.getLsbD n = true

/-- A page's header with status bits set, records added, or the quarantine set. -/
def Hdr.Grown (h h' : Hdr) : Prop :=
  (∀ e ∈ h.errs, e ∈ h'.errs) ∧ (h.quar = true → h'.quar = true) ∧
    ∀ n, h.status.getLsbD n = true → h'.status.getLsbD n = true

theorem Hdr.Raised.refl (h : Hdr) : h.Raised h := ⟨rfl, rfl, fun _ => id⟩

theorem Hdr.Raised.trans {a b c : Hdr} (h : a.Raised b) (k : b.Raised c) : a.Raised c :=
  ⟨k.1.trans h.1, k.2.1.trans h.2.1, fun n x => k.2.2 n (h.2.2 n x)⟩

theorem Hdr.Raised.grown {a b : Hdr} (h : a.Raised b) : a.Grown b :=
  ⟨fun _ he => h.1 ▸ he, fun hq => h.2.1 ▸ hq, h.2.2⟩

theorem Hdr.Grown.refl (h : Hdr) : h.Grown h := (Hdr.Raised.refl h).grown

theorem Hdr.Grown.trans {a b c : Hdr} (h : a.Grown b) (k : b.Grown c) : a.Grown c :=
  ⟨fun e he => k.1 e (h.1 e he), fun hq => k.2.1 (h.2.1 hq), fun n x => k.2.2 n (h.2.2 n x)⟩

/-- A status bit set by hardware stays among those that were set. -/
theorem Hdr.raised_raise (h : Hdr) (m : W32) : h.Raised (h.raise m) :=
  ⟨rfl, rfl, fun n hn => by simp [Hdr.raise, hn]⟩

theorem Hdr.status_raise (h : Hdr) {n : Nat} (hn : n < 32) : (h.raise (1#32 <<< n)).status.getLsbD n = true := by
  simp [Hdr.raise, hn]

theorem raised_setStatus (s : State) (p q : PageId) (m : W32) : (s.hdr q).Raised ((s.setStatus p m).hdr q) := by
  rw [hdr_setStatus]
  split
  · subst_vars; exact Hdr.raised_raise _ _
  · exact Hdr.Raised.refl _

theorem raised_setBit (s : State) (p q : PageId) (n : Nat) : (s.hdr q).Raised ((s.setBit p n).hdr q) := raised_setStatus s p q _

theorem status_setBit (s : State) (p : PageId) {n : Nat} (hn : n < 32) : ((s.setBit p n).hdr p).status.getLsbD n = true := by
  rw [hdr_setBit, if_pos rfl]; exact Hdr.status_raise _ hn

theorem raised_modChip (s : State) (f : Chip → Chip) (q : PageId) : (s.hdr q).Raised ((s.modChip f).hdr q) := by
  rcases hdr_modChip s f q with h | ⟨-, m, h⟩
  · rw [h]; exact Hdr.Raised.refl _
  · rw [h]; exact Hdr.raised_raise _ _

/-- The headers of a state whose pages are those of another. -/
theorem hdr_of_hdrs {s t : State} (h : t.hdrs = s.hdrs) (p : PageId) : t.hdr p = s.hdr p := by unfold State.hdr; rw [h]

/-! ### Events stay -/

theorem out_emit (s : State) (e : OutEvent) : s.out ⊆ (s.emit e).out := List.subset_append_left _ _

theorem out_msix (s : State) (f v : Nat) : s.out ⊆ (s.msix f v).out := by
  unfold State.msix
  dsimp only
  split
  · exact out_emit s _
  · exact List.Subset.refl _

theorem out_syncInt (s : State) : s.out ⊆ s.syncInt.out := by
  unfold State.syncInt
  dsimp only
  split
  · exact List.Subset.refl _
  · exact out_msix (s.onChip _) _ _

theorem out_modHdrInt (s : State) (p : PageId) (f : Hdr → Hdr) : s.out ⊆ (s.modHdrInt p f).out := by
  unfold State.modHdrInt
  dsimp only
  refine List.Subset.trans ?_ (out_syncInt _)
  split
  · exact out_msix (s.modHdr _ f) _ _
  · exact out_msix (s.modHdr _ f) _ _
  · exact List.Subset.refl _

theorem out_setBit (s : State) (p : PageId) (n : Nat) : s.out ⊆ (s.setBit p n).out := out_modHdrInt s p _

theorem out_modChip (s : State) (f : Chip → Chip) : s.out ⊆ (s.modChip f).out := by
  unfold State.modChip
  dsimp only
  split
  · exact List.Subset.refl _
  · exact out_modHdrInt (s.onChip f) _ _

theorem out_foldl {α : Type} {g : State → α → State} (h : ∀ t x, t.out ⊆ (g t x).out) (l : List α) (s : State) :
    s.out ⊆ (l.foldl g s).out := by
  induction l generalizing s with
  | nil => exact List.Subset.refl _
  | cons x r ih => exact List.Subset.trans (h s x) (ih (g s x))

theorem out_askXlat (s : State) (f : Nat) (p : Option (BitVec 20)) (a n : Nat) : s.out ⊆ (s.askXlat f p a n).out := by
  unfold State.askXlat
  split
  · exact List.Subset.refl _
  · refine out_foldl (fun t k => ?_) _ _
    split
    · exact List.Subset.refl _
    · exact out_emit _ _

theorem out_dmaWrite (s : State) (f : Nat) (x : Tlp) (a : Nat) (d : List Byte) : s.out ⊆ (s.dmaWrite f x a d).out :=
  List.Subset.trans (out_askXlat s f x.pasid a d.length) (out_emit _ _)

theorem out_writeRanges (s : State) (f : Nat) (x : Tlp) (rs : List (Nat × Nat)) (d : List Byte) :
    s.out ⊆ (s.writeRanges f x rs d).out := by
  induction rs generalizing s d with
  | nil => exact List.Subset.refl _
  | cons r rs ih =>
    refine List.Subset.trans ?_ (ih _ _)
    split
    · exact List.Subset.refl _
    · exact out_dmaWrite _ _ _ _ _

end Machine

end Sys2Proof

/-!
# What the end of requests and jobs changes

One relation for every operation of Machine/Work.lean by which requests and jobs end: the parts they can change, and what stays in
each of those parts.
-/

namespace Sys2Proof.Machine

-- One declaration after the other: elaborated side by side, the row as one text takes more threads than the check allows.
set_option Elab.async false

/-! ### What the end of requests and jobs does -/

/-- The parts that the end of requests and jobs can change. -/
def workFields : List Field :=
  [.chans, .chip, .eights, .fns, .hdrs, .heat, .jobs, .msh, .out, .progs, .quads, .reqs, .slices]

/-- From `s` to `t` requests and jobs have ended and no more: pages have got status bits and the chip page its source list, cells and
slices have been given back, no request or job has changed otherwise, and no counter of the Marshal. -/
structure WorkDone (s t : State) : Prop where
  only : Only workFields s t
  pages : ∀ p, (s.hdr p).Raised (t.hdr p)
  chip : ∃ x, t.chip = { s.chip with intSrc := x }
  eights : ∀ e, ∃ x y, t.eight e = { s.eight e with slots := x, holdPages := y }
  quads : ∀ r, ∃ x y, t.quad r = { s.quad r with busy := x, direct := y }
  slices : ∀ i, ∃ x y z w, t.slice i = { s.slice i with running := x, busy := y, keyArea := z, frames := w }
  reqs : ∀ r, t.req r = none ∨ t.req r = s.req r
  jobs : ∀ j, t.job j = none ∨ ∃ b x y, s.job j = some b ∧ t.job j = some { b with running := x, resident := y }
  msh : ∃ a b c d e f, t.msh =
    { s.msh with lru := a, frames := b, entryWait := c, creditEight := d, creditQuad := e, creditPair := f }
  out : s.out ⊆ t.out

namespace WorkDone

variable {s t u : State}

/-- Where none of the parts with contents of their own has changed but `l`'s. -/
theorem job_same (h : t.jobs = s.jobs) (j : Nat) :
    t.job j = none ∨ ∃ b x y, s.job j = some b ∧ t.job j = some { b with running := x, resident := y } := by
  unfold State.job
  rw [h]
  cases hj : s.jobs.get none j with
  | none => exact .inl rfl
  | some b => exact .inr ⟨b, b.running, b.resident, rfl, rfl⟩

theorem refl (s : State) : WorkDone s s :=
  ⟨Only.refl _ s, fun _ => Hdr.Raised.refl _, ⟨_, rfl⟩, fun _ => ⟨_, _, rfl⟩, fun _ => ⟨_, _, rfl⟩, fun _ => ⟨_, _, _, _, rfl⟩,
    fun _ => .inr rfl, job_same rfl, ⟨_, _, _, _, _, _, rfl⟩, List.Subset.refl _⟩

theorem trans (h : WorkDone s t) (k : WorkDone t u) : WorkDone s u where
  only := h.only.trans k.only
  pages p := (h.pages p).trans (k.pages p)
  chip := by
    obtain ⟨x, hx⟩ := h.chip; obtain ⟨y, hy⟩ := k.chip
    exact ⟨y, by rw [hy, hx]⟩
  eights e := by
    obtain ⟨x, y, hx⟩ := h.eights e; obtain ⟨x', y', hy⟩ := k.eights e
    exact ⟨x', y', by rw [hy, hx]⟩
  quads r := by
    obtain ⟨x, y, hx⟩ := h.quads r; obtain ⟨x', y', hy⟩ := k.quads r
    exact ⟨x', y', by rw [hy, hx]⟩
  slices i := by
    obtain ⟨x, y, z, w, hx⟩ := h.slices i; obtain ⟨x', y', z', w', hy⟩ := k.slices i
    exact ⟨x', y', z', w', by rw [hy, hx]⟩
  reqs r := by
    rcases k.reqs r with e | e
    · exact .inl e
    · rw [e]; exact h.reqs r
  jobs j := by
    rcases k.jobs j with e | ⟨b, x, y, hb, e⟩
    · exact .inl e
    · rcases h.jobs j with e' | ⟨b', x', y', hb', e'⟩
      · rw [e'] at hb; cases hb
      · rw [e'] at hb; cases hb
        exact .inr ⟨b', x, y, hb', e⟩
  msh := by
    obtain ⟨a, b, c, d, e, f, hx⟩ := h.msh; obtain ⟨a', b', c', d', e', f', hy⟩ := k.msh
    exact ⟨a', b', c', d', e', f', by rw [hy, hx]⟩
  out := List.Subset.trans h.out k.out

theorem foldl {α : Type} {g : State → α → State} (h : ∀ t x, WorkDone t (g t x)) (l : List α) (s : State) :
    WorkDone s (l.foldl g s) := by
  induction l generalizing s with
  | nil => exact refl s
  | cons x r ih => exact (h s x).trans (ih (g s x))

/-- A change of parts of which nothing more is said. -/
theorem of_only (h : Only [.chans, .fns, .heat, .out, .progs] s t) (ho : s.out ⊆ t.out) : WorkDone s t where
  only := h.mono (by decide)
  pages p := by rw [hdr_of_hdrs (h.same .hdrs)]; exact Hdr.Raised.refl _
  chip := ⟨_, h.same .chip⟩
  eights e := ⟨_, _, by unfold State.eight; rw [h.same .eights]⟩
  quads r := ⟨_, _, by unfold State.quad; rw [h.same .quads]⟩
  slices i := ⟨_, _, _, _, by unfold State.slice; rw [h.same .slices]⟩
  reqs r := .inr (by unfold State.req; rw [h.same .reqs])
  jobs := job_same (h.same .jobs)
  msh := ⟨_, _, _, _, _, _, h.same .msh⟩
  out := ho

theorem emit (s : State) (e : OutEvent) : WorkDone s (s.emit e) :=
  of_only ((Only.refl _ s).emit (by decide) e) (out_emit s e)

theorem modChan (s : State) (f i : Nat) (g : Chan → Chan) : WorkDone s (s.modChan f i g) :=
  of_only ((Only.refl _ s).modChan (by decide) f i g) (List.Subset.refl _)

theorem modFn (s : State) (f : Nat) (g : Fn → Fn) : WorkDone s (s.modFn f g) :=
  of_only ((Only.refl _ s).modFn (by decide) f g) (List.Subset.refl _)

theorem onHeat (s : State) (g : Heat → Heat) : WorkDone s (s.onHeat g) :=
  of_only ((Only.refl _ s).onHeat (by decide) g) (List.Subset.refl _)

theorem onProgs (s : State) (g : SMap (Option Prog) → SMap (Option Prog)) : WorkDone s (s.onProgs g) :=
  of_only ((Only.refl _ s).onProgs (by decide) g) (List.Subset.refl _)

theorem msix (s : State) (f v : Nat) : WorkDone s (s.msix f v) :=
  of_only ((Only.refl _ s).msix (by decide) (by decide) f v) (out_msix s f v)

theorem askXlat (s : State) (f : Nat) (p : Option (BitVec 20)) (a n : Nat) : WorkDone s (s.askXlat f p a n) :=
  of_only ((Only.refl _ s).askXlat (by decide) f p a n) (out_askXlat s f p a n)

theorem writeRanges (s : State) (f : Nat) (x : Tlp) (rs : List (Nat × Nat)) (d : List Byte) : WorkDone s (s.writeRanges f x rs d) :=
  of_only ((Only.refl _ s).writeRanges (by decide) f x rs d) (out_writeRanges s f x rs d)

theorem setBit (s : State) (p : PageId) (n : Nat) : WorkDone s (s.setBit p n) :=
  have h := only_setBit s p n
  { refl s with
    only := h.mono (by decide)
    pages := fun q => raised_setBit s p q n
    chip := chip_setStatus s p _
    eights := fun e => ⟨_, _, by unfold State.eight; rw [h.same .eights]⟩
    quads := fun r => ⟨_, _, by unfold State.quad; rw [h.same .quads]⟩
    slices := fun i => ⟨_, _, _, _, by unfold State.slice; rw [h.same .slices]⟩
    reqs := fun r => .inr (by unfold State.req; rw [h.same .reqs])
    jobs := job_same (h.same .jobs)
    msh := ⟨_, _, _, _, _, _, h.same .msh⟩
    out := out_setBit s p n }

theorem endRequest (s : State) (r : Nat) : WorkDone s (s.onReqs (·.set none r none)) :=
  { refl s with
    only := (Only.refl _ s).onReqs (by decide) _
    reqs := fun m => by
      rw [req_remove]
      split
      · exact .inl rfl
      · exact .inr rfl }

theorem endOneJob (s : State) (j : Nat) : WorkDone s (s.onJobs (·.set none j none)) :=
  { refl s with
    only := (Only.refl _ s).onJobs (by decide) _
    jobs := fun m => by
      rw [job_remove]
      split
      · exact .inl rfl
      · exact job_same rfl m }

theorem modJob (s : State) (j : Nat) (g : Job → Job) (hg : ∀ b, ∃ x y, g b = { b with running := x, resident := y }) :
    WorkDone s (s.modJob j g) :=
  { refl s with
    only := (Only.refl _ s).modJob (by decide) _ _
    jobs := fun m => by
      rw [job_modJob]
      split
      · subst_vars
        cases hb : s.job m with
        | none => exact .inl rfl
        | some b =>
          obtain ⟨x, y, hx⟩ := hg b
          exact .inr ⟨b, x, y, rfl, congrArg some hx⟩
      · exact job_same rfl m }

theorem onMsh (s : State) (g : Msh → Msh) (hg : ∀ m, ∃ a b c d e f, g m =
    { m with lru := a, frames := b, entryWait := c, creditEight := d, creditQuad := e, creditPair := f }) : WorkDone s (s.onMsh g) :=
  { refl s with
    only := (Only.refl _ s).onMsh (by decide) _
    msh := hg s.msh }

theorem mapEights (s : State) (g : Nat → Eight → Eight) (h0 : ∀ k, g k {} = {})
    (hg : ∀ k x, ∃ a b, g k x = { x with slots := a, holdPages := b }) : WorkDone s (s.onEights (·.mapVals {} g)) :=
  { refl s with
    only := (Only.refl _ s).onEights (by decide) _
    eights := fun e => by
      have h : (s.onEights (·.mapVals {} g)).eight e = g e (s.eight e) := SMap.get_mapVals g _ e (h0 e)
      rw [h]; exact hg e _ }

theorem modEight (s : State) (e : Nat) (g : Eight → Eight) (hg : ∀ x, ∃ a b, g x = { x with slots := a, holdPages := b }) :
    WorkDone s (s.modEight e g) :=
  { refl s with
    only := (Only.refl _ s).modEight (by decide) _ _
    eights := fun k => by
      rw [eight_modEight]
      split
      · subst_vars; exact hg _
      · exact ⟨_, _, rfl⟩ }

theorem modQuad (s : State) (r : Nat) (g : Quad → Quad) (hg : ∀ x, ∃ a b, g x = { x with busy := a, direct := b }) :
    WorkDone s (s.modQuad r g) :=
  { refl s with
    only := (Only.refl _ s).modQuad (by decide) _ _
    quads := fun k => by
      rw [quad_modQuad]
      split
      · subst_vars; exact hg _
      · exact ⟨_, _, rfl⟩ }

theorem mapSlices (s : State) (g : Nat → Slice → Slice) (h0 : ∀ k, g k {} = {})
    (hg : ∀ k x, ∃ a b c d, g k x = { x with running := a, busy := b, keyArea := c, frames := d }) :
    WorkDone s (s.onSlices (·.mapVals {} g)) :=
  { refl s with
    only := (Only.refl _ s).onSlices (by decide) _
    slices := fun i => by
      have h : (s.onSlices (·.mapVals {} g)).slice i = g i (s.slice i) := SMap.get_mapVals g _ i (h0 i)
      rw [h]; exact hg i _ }

/-! ### The operations of Machine/Work.lean -/

theorem meter (s : State) (f i : Nat) (ups : List (Nat × Nat)) : WorkDone s (s.meter f i ups) := by
  unfold State.meter
  exact onHeat s _

theorem chMessage (s : State) (f i : Nat) : WorkDone s (s.chMessage f i) := by
  unfold State.chMessage
  split
  · exact refl s
  · split
    · exact (msix s f _).trans (modChan _ f i _)
    · exact refl s

theorem chError (s : State) (f i c : Nat) : WorkDone s (s.chError f i c) := by
  unfold State.chError
  split
  · exact refl s
  · split
    · exact refl s
    · exact ((modChan s f i _).trans (modFn _ f _)).trans (setBit _ _ _)

theorem writeCqe (s : State) (f i : Nat) (dw : List Nat) (slot : Nat) : WorkDone s (s.writeCqe f i dw slot) := by
  unfold State.writeCqe
  split
  · exact refl s
  · split
    · exact refl s
    · split
      · exact chError s f i 1
      · have h (c : Chan) (e : OutEvent) (g : Chan → Chan) :
            WorkDone s (((s.askXlat f c.tag (c.cqBase.toNat + 32 * c.cqTail) 32).emit e).modChan f i g) :=
          ((askXlat s _ _ _ _).trans (emit _ e)).trans (modChan _ f i g)
        dsimp only
        split
        · exact (h _ _ _).trans (chMessage _ f i)
        · exact h _ _ _

theorem giveDirect (s : State) : WorkDone s s.giveDirect := by
  unfold State.giveDirect
  split
  · exact refl s
  · split
    · exact refl s
    · split
      · exact refl s
      · exact modQuad s _ _ fun x => ⟨_, _, rfl⟩

theorem unplace (s : State) (j : Nat) : WorkDone s (s.unplace j) := by
  have h1 : WorkDone s (s.onEights (·.mapVals {} fun _ x => { x with slots := x.slots.mapVals {} (Slot.dropJob j) })) :=
    mapEights s _ (fun _ => rfl) fun _ x => ⟨_, _, rfl⟩
  unfold State.unplace
  extract_lets s1
  split
  · exact h1
  · rename_i b _
    extract_lets s2 s3
    have h2 : WorkDone s s2 := by
      dsimp only [s2]
      split
      · split
        · exact (h1.trans (modQuad _ _ _ fun x => ⟨_, _, rfl⟩)).trans (giveDirect _)
        · exact h1
      · exact h1
    have h3 : WorkDone s s3 := by
      dsimp only [s3]
      split
      · refine h2.trans (mapSlices _ _ (fun k => rfl) fun k x => ?_)
        split
        · exact ⟨_, _, _, x.frames, rfl⟩
        · exact ⟨_, _, _, _, rfl⟩
      · exact h2
    exact h3.trans (modJob _ _ _ fun b => ⟨_, b.resident, rfl⟩)

theorem giveEntries (s : State) : WorkDone s s.giveEntries := by
  unfold State.giveEntries
  refine foldl (fun t j => ?_) _ s
  split
  · exact refl t
  · split
    · exact (modJob t j _ fun b => ⟨b.running, _, rfl⟩).trans
        (onMsh _ _ fun m => ⟨_, m.frames, _, m.creditEight, m.creditQuad, m.creditPair, rfl⟩)
    · exact refl t

theorem reapProg (s : State) (n : Nat) : WorkDone s (s.reapProg n) := by
  unfold State.reapProg
  split
  · exact refl s
  · split
    · exact refl s
    · exact onProgs s _

theorem endJob (s : State) (j : Nat) : WorkDone s (s.endJob j) := by
  unfold State.endJob
  split
  · exact refl s
  · rename_i b _
    extract_lets s1 s2 s3 s4
    have h2 : WorkDone s s2 := by
      dsimp only [s2]
      split
      · exact (unplace s j).trans (modEight _ _ _ fun x => ⟨x.slots, _, rfl⟩)
      · exact (unplace s j).trans (mapSlices _ _ (fun _ => rfl) fun _ x => ⟨x.running, x.busy, x.keyArea, _, rfl⟩)
      · exact unplace s j
    have h4 : WorkDone s s4 :=
      ((h2.trans (onMsh _ _ fun m => ⟨_, _, _, m.creditEight, m.creditQuad, m.creditPair, rfl⟩)).trans (endOneJob _ j)).trans
        (giveEntries _)
    split
    · exact h4.trans (reapProg _ _)
    · exact h4

theorem settleCredits (s : State) : WorkDone s s.settleCredits :=
  onMsh s _ fun m => ⟨m.lru, m.frames, m.entryWait, _, _, _, rfl⟩

theorem zeroWritten (s : State) (q : Req) (st : Nat) : WorkDone s (s.zeroWritten q st) := by
  unfold State.zeroWritten
  split
  · exact refl s
  · split
    · exact writeRanges s _ _ _ _
    · exact refl s

theorem finish1 (s : State) (r : Nat) (x : Fin) : WorkDone s (s.finish1 r x) := by
  unfold State.finish1
  split
  · exact refl s
  · rename_i q _
    extract_lets y errored s0 s1 s2 s3 s4 s5
    have h0 : WorkDone s s0 := zeroWritten s q _
    have h1 : WorkDone s s1 := by
      dsimp only [s1]
      split
      · exact h0
      · exact h0.trans (meter _ _ _ _)
    have h3 : WorkDone s s3 := (h1.trans (writeCqe _ _ _ _ _)).trans (modChan _ _ _ _)
    have h4 : WorkDone s s4 := by
      dsimp only [s4]
      split
      · split
        · exact h3
        · exact h3.trans (endJob _ _)
      · exact h3
    have h5 : WorkDone s s5 := h4.trans (endRequest _ r)
    refine WorkDone.trans ?_ (settleCredits _)
    split
    · exact h5.trans (reapProg _ _)
    · exact h5

theorem finish (s : State) (r : Nat) (x : Fin) : WorkDone s (s.finish r x) := by
  unfold State.finish
  split
  · exact refl s
  · extract_lets s1 s2
    split
    · exact finish1 s r x
    · exact ((finish1 s r x).trans (foldl (fun t m => finish1 t m _) _ _)).trans (foldl endJob _ _)

theorem failJob (s : State) (j : Nat) (x : Fin) : WorkDone s (s.failJob j x) := by
  unfold State.failJob
  split
  · exact refl s
  · split
    · exact finish s _ x
    · split
      · exact (endJob s j).trans (finish _ _ x)
      · exact (modChan s _ _ _).trans (endJob _ j)

end WorkDone

end Sys2Proof.Machine

/-!
# What a fault and a quarantine change

One relation for the operations of Machine/Faults.lean: pages only grow, no key enters an eight's cache, the chip's reset state stays,
and where no job is on the chip, no request and no channel changes.
-/

namespace Sys2Proof.Machine

-- One declaration after the other: elaborated side by side, the row as one text takes more threads than the check allows.
set_option Elab.async false

/-- An alarm's record: in an eight its ALARM bit, the error, and the report to the ledger. -/
def State.alarmNote (s : State) (k : BlockKind) (u : Nat) (named : Option Nat) (code detail : Nat) (counts : Bool) : State :=
  ((match k with
    | .eight => s.setBit (.egt u) 10
    | _ => s).recErr (blockPage k u) code detail).reportSlot k u named counts

/-- An alarm in an eight or a quad: the keys go, the jobs named fail, the record is made, the strokes begin again. -/
theorem alarm_eq (s : State) (k : BlockKind) (hk : k ≠ .pair) (u : Nat) (who : List Nat) (code detail : Nat) (counts : Bool) :
    s.alarm k u who code detail counts =
      let s1 := match k with
        | .eight => s.modEight u fun x => { x with keyCache := [] }
        | _ => s
      let s2 := (who.foldl (fun s j => s.failJob j { st := 0x72 }) s1).alarmNote k u
        (who.findSome? fun j => (s.job j).bind (·.keySlot)) code detail counts
      (s2.restartsIn k u).foldl State.restartJob s2 := by
  cases k with
  | pair => exact absurd rfl hk
  | eight => rfl
  | quad => rfl

/-- From `s` to `t`, within the parts `l`, faults have been contained. -/
structure Contained (l : List Field) (s t : State) : Prop where
  only : Only l s t
  pages : ∀ p, (s.hdr p).Grown (t.hdr p)
  accReset : t.chip.accReset = s.chip.accReset
  accReady : t.chip.accReady = s.chip.accReady
  keys : ∀ e, (t.eight e).keyCache ⊆ (s.eight e).keyCache
  idle : s.jobs = [] → t.jobs = [] ∧ t.reqs = s.reqs ∧ t.chans = s.chans

namespace Contained

variable {l l' : List Field} {s t u : State}

theorem refl (l : List Field) (s : State) : Contained l s s :=
  ⟨Only.refl l s, fun _ => Hdr.Grown.refl _, rfl, rfl, fun _ => List.Subset.refl _, fun h => ⟨h, rfl, rfl⟩⟩

theorem trans (h : Contained l s t) (k : Contained l t u) : Contained l s u where
  only := h.only.trans k.only
  pages p := (h.pages p).trans (k.pages p)
  accReset := k.accReset.trans h.accReset
  accReady := k.accReady.trans h.accReady
  keys e := List.Subset.trans (k.keys e) (h.keys e)
  idle hj := by
    obtain ⟨h1, h2, h3⟩ := h.idle hj
    obtain ⟨k1, k2, k3⟩ := k.idle h1
    exact ⟨k1, k2.trans h2, k3.trans h3⟩

theorem mono (h : Contained l s t) (hl : l ⊆ l' := by decide) : Contained l' s t := { h with only := h.only.mono hl }

theorem step (h : Contained l s t) (k : Contained l' t u) (hl : l' ⊆ l := by decide) : Contained l s u := h.trans (k.mono hl)

theorem foldl {α : Type} {g : State → α → State} (h : ∀ t x, Contained l t (g t x)) (xs : List α) (s : State) :
    Contained l s (xs.foldl g s) := by
  induction xs generalizing s with
  | nil => exact refl l s
  | cons x r ih => exact (h s x).trans (ih (g s x))

/-- The end of requests and jobs, where without a job nothing happens. -/
theorem of_work (h : WorkDone s t) (hi : s.jobs = [] → t = s) : Contained workFields s t where
  only := h.only
  pages p := (h.pages p).grown
  accReset := by obtain ⟨x, e⟩ := h.chip; rw [e]
  accReady := by obtain ⟨x, e⟩ := h.chip; rw [e]
  keys e := by obtain ⟨x, y, e⟩ := h.eights e; rw [e]; exact List.Subset.refl _
  idle hj := by rw [hi hj]; exact ⟨hj, rfl, rfl⟩

/-- A change of parts of which nothing more is said. -/
theorem of_only (h : Only l s t)
    (hl : ∀ f ∈ [Field.hdrs, .chip, .eights, .jobs, .reqs, .chans], f ∉ l := by decide) : Contained l s t where
  only := h
  pages p := by rw [hdr_of_hdrs (h.same .hdrs (hl _ (by decide)))]; exact Hdr.Grown.refl _
  accReset := congrArg Chip.accReset (h.same .chip (hl _ (by decide)))
  accReady := congrArg Chip.accReady (h.same .chip (hl _ (by decide)))
  keys e := by unfold State.eight; rw [h.same .eights (hl _ (by decide))]; exact List.Subset.refl _
  idle hj := ⟨(h.same .jobs (hl _ (by decide))).trans hj, h.same .reqs (hl _ (by decide)), h.same .chans (hl _ (by decide))⟩

/-! ### Single updates -/

/-- The parts that a status bit can change. -/
def bitFields : List Field := [.out, .fns, .chip, .hdrs]

theorem of_bits (h : Only bitFields s t) (hp : ∀ p, (s.hdr p).Grown (t.hdr p)) (hr : t.chip.accReset = s.chip.accReset)
    (ha : t.chip.accReady = s.chip.accReady) : Contained bitFields s t where
  only := h
  pages := hp
  accReset := hr
  accReady := ha
  keys e := by unfold State.eight; rw [h.same .eights]; exact List.Subset.refl _
  idle hj := ⟨(h.same .jobs).trans hj, h.same .reqs, h.same .chans⟩

theorem setBit (s : State) (p : PageId) (n : Nat) : Contained bitFields s (s.setBit p n) := by
  obtain ⟨x, e⟩ := chip_setStatus s p (1#32 <<< n)
  have e : (s.setBit p n).chip = { s.chip with intSrc := x } := e
  exact of_bits (only_setBit s p n) (fun q => (raised_setBit s p q n).grown) (by rw [e]) (by rw [e])

theorem modHdr (s : State) (p : PageId) (f : Hdr → Hdr) (hf : (s.hdr p).Grown (f (s.hdr p))) :
    Contained bitFields s (s.modHdr p f) :=
  of_bits ((Only.refl _ s).modHdr (by decide) p f) (fun q => by
    rw [hdr_modHdr]
    split
    · subst_vars; exact hf
    · exact Hdr.Grown.refl _) rfl rfl

theorem recErr (s : State) (p : PageId) (c d : Nat) : Contained bitFields s (s.recErr p c d) := by
  unfold State.recErr
  split
  · exact modHdr s p _ ⟨fun e he => List.mem_append_left _ he, id, fun _ => id⟩
  · exact setBit s p 2

theorem modChip (s : State) (f : Chip → Chip) (h1 : (f s.chip).accReset = s.chip.accReset) (h2 : (f s.chip).accReady = s.chip.accReady) :
    Contained bitFields s (s.modChip f) := by
  obtain ⟨x, e⟩ := chip_modChip s f
  exact of_bits (only_modChip s f) (fun q => (raised_modChip s f q).grown) (by rw [e]; exact h1) (by rw [e]; exact h2)

theorem onChip (s : State) (f : Chip → Chip) (h1 : (f s.chip).accReset = s.chip.accReset) (h2 : (f s.chip).accReady = s.chip.accReady) :
    Contained bitFields s (s.onChip f) :=
  of_bits ((Only.refl _ s).onChip (by decide) f) (fun _ => Hdr.Grown.refl _) h1 h2

theorem modEight (s : State) (e : Nat) (g : Eight → Eight) (hg : ∀ x, (g x).keyCache ⊆ x.keyCache) :
    Contained [.eights] s (s.modEight e g) :=
  { refl [.eights] s with
    only := (Only.refl _ s).modEight (by decide) e g
    keys := fun k => by
      rw [eight_modEight]
      split
      · subst_vars; exact hg _
      · exact List.Subset.refl _ }

theorem mapEights (s : State) (g : Nat → Eight → Eight) (h0 : ∀ k, g k {} = {}) (hg : ∀ k x, (g k x).keyCache ⊆ x.keyCache) :
    Contained [.eights] s (s.onEights (·.mapVals {} g)) :=
  { refl [.eights] s with
    only := (Only.refl _ s).onEights (by decide) _
    keys := fun e => by
      have h : (s.onEights (·.mapVals {} g)).eight e = g e (s.eight e) := SMap.get_mapVals g _ e (h0 e)
      rw [h]; exact hg e _ }

theorem modJob (s : State) (j : Nat) (g : Job → Job) : Contained [.jobs] s (s.modJob j g) :=
  { refl [.jobs] s with
    only := (Only.refl _ s).modJob (by decide) j g
    idle := fun h => ⟨by unfold State.modJob; rw [State.onJobs_jobs, h]; rfl, rfl, rfl⟩ }

theorem modQuad (s : State) (r : Nat) (g : Quad → Quad) : Contained [.quads] s (s.modQuad r g) :=
  of_only ((Only.refl _ s).modQuad (by decide) r g)

theorem modSlice (s : State) (i : Nat) (g : Slice → Slice) : Contained [.slices] s (s.modSlice i g) :=
  of_only ((Only.refl _ s).modSlice (by decide) i g)

/-! ### Jobs in a block -/

theorem job_of_jobs_nil (h : s.jobs = []) (j : Nat) : s.job j = none := by unfold State.job; rw [h]; rfl

theorem failJob (s : State) (j : Nat) (x : Fin) : Contained workFields s (s.failJob j x) :=
  of_work (WorkDone.failJob s j x) fun h => by unfold State.failJob; rw [job_of_jobs_nil h]

theorem restartStroke (s : State) (j : Nat) : Contained [.eights] s (s.restartStroke j) := by
  unfold State.restartStroke
  split
  · exact refl _ s
  · exact mapEights s _ (fun _ => rfl) fun _ _ => List.Subset.refl _

theorem restartJob (s : State) (j : Nat) : Contained workFields s (s.restartJob j) := by
  unfold State.restartJob
  split
  · exact refl _ s
  · rename_i b hb
    split
    · refine (of_work (WorkDone.unplace s j) fun h => ?_).step (modJob _ j _)
      rw [job_of_jobs_nil h] at hb; cases hb
    · exact (restartStroke s j).mono

theorem unhome (s : State) (j : Nat) : Contained workFields s (s.unhome j) := by
  unfold State.unhome
  split
  · exact refl _ s
  · refine Contained.step (l := workFields) ?_ (modJob _ j _)
    split
    · exact (refl workFields s).step (modEight s _ _ fun x => List.Subset.refl x.keyCache)
    · exact (of_only (l := [.slices]) ((Only.refl _ s).onSlices (by decide) _)).mono
    · exact refl _ s

theorem wipeSlice (s : State) (i : Nat) : Contained [.jobs, .slices] s (s.wipeSlice i) := by
  unfold State.wipeSlice
  exact (foldl (fun t j => (modJob t j _).mono) _ s).step (modSlice _ i _)

theorem giveDirect (s : State) : Contained [.quads] s s.giveDirect := by
  unfold State.giveDirect
  split
  · exact refl _ s
  · split
    · exact refl _ s
    · split
      · exact refl _ s
      · exact modQuad s _ _

theorem directFail (s : State) (r c : Nat) : Contained [.out, .fns, .chip, .hdrs, .quads] s (s.directFail r c) :=
  (((refl _ s).step (modQuad s r _)).step (setBit _ _ 9)).step (giveDirect _)

/-! ### Quarantine -/

theorem clearBlock (s : State) (k : BlockKind) (u : Nat) : Contained workFields s (s.clearBlock k u) := by
  unfold State.clearBlock
  extract_lets s1 s2
  have h2 : Contained workFields s s2 :=
    (foldl (fun t j => failJob t j _) _ s).trans (foldl (fun t j => (restartJob t j).trans (unhome _ j)) _ _)
  split
  · exact h2.step (modEight _ _ _ fun x => List.nil_subset _)
  · split
    · exact h2.step (directFail _ _ _)
    · exact h2
  · exact h2

theorem setQuar (s : State) (p : PageId) : Contained bitFields s (s.setQuar p) :=
  (modHdr s p (fun h => { h with quar := true }) ⟨fun _ => id, fun _ => rfl, fun _ => id⟩).trans (setBit _ p 3)

theorem sumCadence (s : State) : Contained bitFields s s.sumCadence := by
  unfold State.sumCadence
  exact onChip s _ rfl rfl

theorem syncQuar (s : State) : Contained bitFields s s.syncQuar := by
  unfold State.syncQuar
  exact modChip s _ rfl rfl

theorem quarantineRegion (s : State) (r : Nat) : Contained workFields s (s.quarantineRegion r) := by
  unfold State.quarantineRegion
  split
  · exact refl _ s
  · extract_lets s1 s2
    have h1 : Contained workFields s s1 := ((setQuar s _).trans (recErr _ _ _ _)).mono
    have h2 : Contained workFields s1 s2 := foldl (fun t p => by
      split
      · split
        · exact (setQuar t p).mono.trans (clearBlock _ _ _)
        · exact refl _ t
      · exact refl _ t) _ s1
    exact (h1.trans h2).step ((sumCadence s2).trans (syncQuar _))

theorem quarantine (s : State) (k : BlockKind) (u : Nat) : Contained workFields s (s.quarantine k u) := by
  unfold State.quarantine
  extract_lets p r s1 recent s2
  split
  · exact refl _ s
  · have h1 : Contained workFields s s1 := ((setQuar s p).trans (recErr _ _ _ _)).mono.trans (clearBlock _ _ _)
    have h2 : Contained workFields s s2 := 
      ((h1.step (onChip s1 _ rfl rfl)).step (sumCadence _)).step (syncQuar _)
    split
    · exact h2.trans (quarantineRegion _ _)
    · exact h2

/-! ### Alarms -/

theorem modKslot (s : State) (i : Nat) (g : KSlot → KSlot) : Contained [.kslots] s (s.modKslot i g) :=
  of_only ((Only.refl _ s).modKslot (by decide) i g)

theorem onKlg (s : State) (g : Klg → Klg) : Contained [.klg] s (s.onKlg g) := of_only ((Only.refl _ s).onKlg (by decide) g)

theorem sweepKeys (s : State) : Contained [.eights] s s.sweepKeys :=
  mapEights s _ (fun _ => rfl) fun _ _ => List.filter_subset_self _

theorem retire (s : State) (i : Nat) (w : Option Drain) : Contained [.eights, .klg, .kslots] s (s.retire i w) :=
  ((((refl _ s).step (foldl (fun t j => modKslot t j _) _ s)).step (modKslot _ i _)).step (onKlg _ _)).step (sweepKeys _)

/-- The parts that an alarm's report to the ledger can change. -/
def reportFields : List Field := [.out, .fns, .chip, .hdrs, .eights, .klg, .kslots]

theorem alarmReport (s : State) (i : Nat) : Contained reportFields s (s.alarmReport i).1 := by
  unfold State.alarmReport
  extract_lets recent n s1
  have h1 : Contained reportFields s s1 := (onKlg s _).mono
  have h2 := (h1.step (retire s1 (s.headOf i) none)).step (setBit _ .klg 9)
  clear_value s1
  split
  · exact h2
  · exact h1

theorem reportSlot (s : State) (k : BlockKind) (u : Nat) (slot : Option Nat) (counts : Bool) :
    Contained reportFields s (s.reportSlot k u slot counts) := by
  unfold State.reportSlot
  split
  · exact refl _ s
  · rename_i i
    extract_lets r s1
    have h1 : Contained reportFields s r.1 := by
      dsimp only [r]
      split
      · exact alarmReport s i
      · exact refl _ s
    split
    · have h2 : Contained reportFields s s1 := h1.step (modEight _ _ _ fun x => List.Subset.refl x.keyCache)
      split
      · exact h2.step (setBit _ _ _)
      · exact h2
    · exact h1

theorem alarmNote (s : State) (k : BlockKind) (u : Nat) (named : Option Nat) (code detail : Nat) (counts : Bool) :
    Contained reportFields s (s.alarmNote k u named code detail counts) := by
  unfold State.alarmNote
  refine Contained.trans ?_ (reportSlot _ _ _ _ _)
  split
  · exact ((setBit s _ _).trans (recErr _ _ _ _)).mono
  · exact (recErr s _ _ _).mono

theorem alarm (s : State) (k : BlockKind) (u : Nat) (who : List Nat) (code detail : Nat) (counts : Bool) :
    Contained faultFields s (s.alarm k u who code detail counts) := by
  by_cases hk : k = .pair
  · subst hk
    unfold State.alarm
    extract_lets named recd res s1 s2
    have h1 : Contained faultFields s s1 := ((wipeSlice s _).trans (wipeSlice _ _)).mono
    have h2 : Contained faultFields s s2 :=
      (h1.trans (foldl (fun t j => (failJob t j _).mono) _ _)).step (alarmNote _ .pair u named code detail counts)
    exact h2.trans (foldl (fun t j => (modJob t j _).mono) _ _)
  · rw [alarm_eq s k hk]
    extract_lets s1 s2
    have h1 : Contained faultFields s s1 := by
      dsimp only [s1]
      split
      · exact (modEight s _ _ fun x => List.nil_subset _).mono
      · exact refl _ s
    have h2 : Contained faultFields s s2 :=
      (h1.trans (foldl (fun t j => (failJob t j _).mono) _ _)).step (alarmNote _ _ _ _ _ _ _)
    exact h2.trans (foldl (fun t j => (restartJob t j).mono) _ _)

end Contained

end Sys2Proof.Machine

/-!
# Self-test, the patrol scrubber and randomness (O54)
-/

namespace Sys2Proof.Machine

-- One declaration after the other: elaborated side by side, the row as one text takes more threads than the check allows.
set_option Elab.async false

/-! ### Built-in self-test -/

theorem bstStart_effect (s : State) (h : s.bst.busy = false) (h1 : 0 < s.bst.test.toNat) (h2 : s.bst.test.toNat ≤ 3) :
    Only [.bst] s s.bstStart ∧ match bstPage s.bst.kind.toNat s.bst.inst.toNat with
      | none => s.bstStart.bst = { s.bst with done := true, cause := 2, result := 0, resultN := 0 }
      | some p => s.bstStart.bst =
          if s.present p = false then { s.bst with done := true, cause := 2, result := 0, resultN := 0 }
          else if s.bstAllowed s.bst.kind.toNat s.bst.inst.toNat p = false then
            { s.bst with done := true, cause := 1, result := 0, resultN := 0 }
          else { s.bst with busy := true, done := false, cause := 0, result := 0, resultN := 0, runs := s.bst.runs + 1
                            passed := s.bst.passed.filter (· != bstKey s.bst) } := by
  have ho (g : Bst → Bst) : Only [.bst] s (s.onBst g) := (Only.refl _ s).onBst (by decide) g
  have h0 : ¬ (s.bst.busy = true ∨ s.bst.test = 0 ∨ 3 < s.bst.test.toNat) := by
    rw [h]
    rintro (e | e | e)
    · cases e
    · rw [e] at h1; exact absurd h1 (by decide)
    · omega
  unfold State.bstStart
  rw [if_neg h0]
  cases bstPage s.bst.kind.toNat s.bst.inst.toNat with
  | none => exact ⟨ho _, rfl⟩
  | some p =>
    dsimp only
    split
    · exact ⟨ho _, rfl⟩
    · split
      · exact ⟨ho _, rfl⟩
      · exact ⟨ho _, rfl⟩

theorem bst_bstEnd (s : State) (c : Nat) : (s.bstEnd c).bst =
    if s.bst.busy = true then { s.bst with busy := false, done := true, cause := BitVec.ofNat 4 c, result := 0, resultN := 0 }
    else s.bst := by
  unfold State.bstEnd
  split <;> rfl

/-! ### The end of a test -/

theorem only_zeroBlock (s : State) (p : PageId) : Only [.eights, .jobs, .slices] s (s.zeroBlock p) := by
  unfold State.zeroBlock
  split
  · exact (Only.refl _ s).modEight (by decide) _ _
  · exact ((Contained.wipeSlice s _).only.trans (Contained.wipeSlice _ _).only).mono (by decide)
  · exact Only.refl _ s

theorem only_zeroBlocks (s : State) (ps : List PageId) : Only [.eights, .jobs, .slices] s (ps.foldl State.zeroBlock s) :=
  Only.foldl (fun t p h => h.trans (only_zeroBlock t p)) ps (Only.refl _ s)

/-- A test passes: the memories and the comparison passed, and a logic test gave the fused signature (R460). -/
def Bst.passes (b : Bst) (pass : Bool) (sig : W64) : Bool :=
  pass && (!b.test.getLsbD 0 || sig == Config.bstExpected b.kind.toNat)

theorem Bst.passes_iff (b : Bst) (pass : Bool) (sig : W64) :
    b.passes pass sig = true ↔ pass = true ∧ (b.test.getLsbD 0 = true → sig = Config.bstExpected b.kind.toNat) := by
  unfold Bst.passes
  cases b.test.getLsbD 0 <;> simp

/-- A finished test's registers. -/
def Bst.finished (b : Bst) (pass : Bool) (sig : W64) (a : BitVec 30) : Bst :=
  let ok := b.passes pass sig
  { b with busy := false, done := true, cause := 0, result := if ok then 0x96 else 0x5A
           resultN := if ok then 0x69 else 0xA5, sig := if b.test.getLsbD 0 then sig else b.sig
           sigExp := Config.bstExpected b.kind.toNat, failAddr := if b.test.getLsbD 1 then a else b.failAddr
           passed := if ok then addNew b.passed (bstKey b) else b.passed }

theorem bstFinish_effect (s : State) (pass : Bool) (sig : W64) (a : BitVec 30) (h : s.bst.busy = true) :
    (s.bstFinish pass sig a).bst = s.bst.finished pass sig a ∧
      ((s.bstFinish pass sig a).hdr .bst).status.getLsbD (if s.bst.passes pass sig then 8 else 9) = true ∧
      Only [.bst, .chip, .eights, .fns, .hdrs, .jobs, .out, .slices] s (s.bstFinish pass sig a) := by
  unfold State.bstFinish
  rw [if_neg (by simp [h])]
  extract_lets logic ok s1 s2
  have h1 : Only [.eights, .jobs, .slices] s s1 := only_zeroBlocks s _
  have hb : s1.bst = s.bst := h1.same .bst
  have h2 : s2.bst = s.bst.finished pass sig a := by
    show Bst.mk .. = _
    rw [hb]; rfl
  refine ⟨((only_setBit s2 .bst _).same .bst).trans h2, ?_, ?_⟩
  · exact status_setBit s2 .bst (by split <;> decide)
  · exact (((Only.refl _ s).then h1).onBst (by decide) _).then (only_setBit _ _ _)

theorem mem_addNew_self (l : List Nat) (x : Nat) : x ∈ addNew l x := by
  unfold addNew
  split
  · rename_i h; exact List.contains_iff_mem.1 h
  · simp

/-! ### Release -/

/-- A page's unit is back in service, with the cells of its eight or quad. -/
def State.Freed (s : State) (p : PageId) : Prop :=
  (s.hdr p).quar = false ∧ (∀ e, p = .egt e → (s.eight e).isolated = 0) ∧ ∀ r, p = .qad r → (s.quad r).isolated = 0

theorem hdr_freeBlock (s : State) (p q : PageId) :
    (s.freeBlock p).hdr q = if q = p then { s.hdr p with quar := false } else s.hdr q := by
  rw [← hdr_modHdr s p q fun h => { h with quar := false }]
  unfold State.freeBlock
  split <;> rfl

theorem eight_freeBlock (s : State) (p : PageId) (e : Nat) :
    (s.freeBlock p).eight e = if p = .egt e then { s.eight e with isolated := 0, lastFault := [] } else s.eight e := by
  unfold State.freeBlock
  cases p with
  | egt k =>
    dsimp only
    rw [eight_modEight]
    by_cases h : e = k
    · subst h; rw [if_pos rfl, if_pos rfl]; rfl
    · rw [if_neg h, if_neg (fun c => h (PageId.egt.inj c).symm)]; rfl
  | _ => rw [if_neg (by simp)]; rfl

theorem quad_freeBlock (s : State) (p : PageId) (r : Nat) :
    (s.freeBlock p).quad r = if p = .qad r then { s.quad r with isolated := 0, pendIso := 0, lastFault := [] } else s.quad r := by
  unfold State.freeBlock
  cases p with
  | qad k =>
    dsimp only
    rw [quad_modQuad]
    by_cases h : r = k
    · subst h; rw [if_pos rfl, if_pos rfl]; rfl
    · rw [if_neg h, if_neg (fun c => h (PageId.qad.inj c).symm)]; rfl
  | _ => rw [if_neg (by simp)]; rfl

theorem freed_freeBlock_self (s : State) (p : PageId) : (s.freeBlock p).Freed p := by
  refine ⟨by rw [hdr_freeBlock, if_pos rfl], fun e he => ?_, fun r hr => ?_⟩
  · rw [eight_freeBlock, if_pos he]
  · rw [quad_freeBlock, if_pos hr]

theorem State.Freed.freeBlock {s : State} {p : PageId} (h : s.Freed p) (q : PageId) : (s.freeBlock q).Freed p := by
  obtain ⟨hq, he, hr⟩ := h
  refine ⟨?_, fun e hp => ?_, fun r hp => ?_⟩
  · rw [hdr_freeBlock]; split
    · rfl
    · exact hq
  · rw [eight_freeBlock]; split
    · rfl
    · exact he e hp
  · rw [quad_freeBlock]; split
    · rfl
    · exact hr r hp

theorem freed_freeBlocks (s : State) (ps : List PageId) : ∀ p ∈ ps, (ps.foldl State.freeBlock s).Freed p := by
  have keep : ∀ (qs : List PageId) (t : State) (p : PageId), t.Freed p → (qs.foldl State.freeBlock t).Freed p := by
    intro qs
    induction qs with
    | nil => exact fun _ _ h => h
    | cons q qs ih => exact fun t p h => ih _ p (h.freeBlock q)
  induction ps generalizing s with
  | nil => exact fun p hp => absurd hp List.not_mem_nil
  | cons q qs ih =>
    intro p hp
    rcases List.mem_cons.1 hp with rfl | hp
    · exact keep qs _ p (freed_freeBlock_self s p)
    · exact ih _ p hp

/-- What a release returns stays returned while the chip page follows. -/
theorem State.Freed.of_bits {s t : State} {p : PageId} (h : s.Freed p) (ho : Only Contained.bitFields s t)
    (hq : (t.hdr p).quar = (s.hdr p).quar) : t.Freed p :=
  ⟨hq.trans h.1, fun e hp => by unfold State.eight; rw [ho.same .eights]; exact h.2.1 e hp,
    fun r hp => by unfold State.quad; rw [ho.same .quads]; exact h.2.2 r hp⟩

theorem quar_syncQuar (s : State) (p : PageId) : (s.syncQuar.hdr p).quar = (s.hdr p).quar := (raised_modChip s _ p).2.1

theorem only_freeBlock (s : State) (p : PageId) : Only [.eights, .hdrs, .quads, .slices] s (s.freeBlock p) := by
  unfold State.freeBlock
  have h := (Only.refl [.eights, .hdrs, .quads, .slices] s).modHdr (by decide) p fun h => { h with quar := false }
  split
  · exact h.modEight (by decide) _ _
  · exact h.modQuad (by decide) _ _
  · exact (h.modSlice (by decide) _ _).modSlice (by decide) _ _
  · exact h

theorem freeRegion_effect (s : State) (r : Nat) : (∀ p ∈ regionPages r, (s.freeRegion r).Freed p) ∧
    (s.freeRegion r).aod.quar = s.aod.quar &&& ~~~(1#4 <<< r) ∧
    Only [.aod, .chip, .eights, .fns, .hdrs, .out, .quads, .slices] s (s.freeRegion r) := by
  unfold State.freeRegion
  have h1 : Only [.eights, .hdrs, .quads, .slices] s ((regionPages r).foldl State.freeBlock s) :=
    Only.foldl (fun t p h => h.trans (only_freeBlock t p)) _ (Only.refl _ s)
  have hf := freed_freeBlocks s (regionPages r)
  generalize (regionPages r).foldl State.freeBlock s = s1 at h1 hf ⊢
  have h2 := (Contained.syncQuar (s1.onAod fun a => { a with quar := a.quar &&& ~~~(1#4 <<< r) })).only
  refine ⟨fun p hp => State.Freed.of_bits (s := s1.onAod _) (hf p hp) h2 (quar_syncQuar _ p), ?_, ?_⟩
  · rw [h2.same .aod, State.onAod_aod, h1.same .aod]
  · exact (((Only.refl _ s).then h1).onAod (by decide) _).then h2

/-- A released block: its cells are back, and its page is in service unless its region is in tamper quarantine (R404, R461). -/
def State.freeInRegion (s : State) (p : PageId) (r : Nat) : State :=
  (if s.aod.quar.getLsbD r then (s.freeBlock p).modHdr p fun h => { h with quar := true } else s.freeBlock p).syncQuar

theorem freeInRegion_effect (s : State) (p : PageId) (r : Nat) :
    ((s.freeInRegion p r).hdr p).quar = s.aod.quar.getLsbD r ∧ (∀ e, p = .egt e → ((s.freeInRegion p r).eight e).isolated = 0) ∧
      (∀ k, p = .qad k → ((s.freeInRegion p r).quad k).isolated = 0) ∧
      Only [.chip, .eights, .fns, .hdrs, .out, .quads, .slices] s (s.freeInRegion p r) := by
  unfold State.freeInRegion
  obtain ⟨hq, he, hk⟩ := freed_freeBlock_self s p
  have ho := only_freeBlock s p
  generalize s.freeBlock p = s1 at hq he hk ho ⊢
  have h1 : let u := if s.aod.quar.getLsbD r then s1.modHdr p fun h => { h with quar := true } else s1
      (u.hdr p).quar = s.aod.quar.getLsbD r ∧ u.eights = s1.eights ∧ u.quads = s1.quads ∧
        Only [.eights, .hdrs, .quads, .slices] s u := by
    dsimp only
    split
    · rename_i hr
      exact ⟨by rw [hdr_modHdr, if_pos rfl, hr], rfl, rfl, ho.modHdr (by decide) _ _⟩
    · rename_i hr
      exact ⟨by rw [hq]; simpa using hr, rfl, rfl, ho⟩
  dsimp only at h1
  generalize (if s.aod.quar.getLsbD r then s1.modHdr p fun h => { h with quar := true } else s1) = u at h1 ⊢
  obtain ⟨uq, ue, uk, uo⟩ := h1
  have h2 := (Contained.syncQuar u).only
  refine ⟨(quar_syncQuar u p).trans uq, fun e hp => ?_, fun k hp => ?_, ((Only.refl _ s).then uo).then h2⟩
  · unfold State.eight at he ⊢
    rw [h2.same .eights, ue]
    exact he e hp
  · unfold State.quad at hk ⊢
    rw [h2.same .quads, uk]
    exact hk k hp

theorem execBstRelease_eq (s : State) (h : s.aod.onCell = false) : exec .bstRelease s =
    if s.bst.passed.contains (bstKey s.bst) = false then .next (s.onBst fun b => { b with cause := 5 })
    else if s.bst.kind = 5 then .next (s.freeRegion s.bst.region)
    else match bstPage s.bst.kind.toNat s.bst.inst.toNat with
      | none => .next s
      | some p => .next (s.freeInRegion p s.bst.region) := by
  change execBstRelease s = _
  unfold execBstRelease
  rw [powered_eq h]
  rfl

/-! ### Memory errors -/

theorem memPage_block {m : MemLoc} (h : m.mem ≤ 5) : memPage m = blockPage (memKind m.mem) m.unit := by
  obtain ⟨n, u, w, c, us, wi⟩ := m
  dsimp only at h
  interval_cases n <;> rfl

/-- A block that is quarantined, or cannot be since it is out of service already, is out of service. -/
theorem quar_quarantine (s : State) (k : BlockKind) (u : Nat) (hp : s.present (blockPage k u) = true) :
    ((s.quarantine k u).hdr (blockPage k u)).quar = true := by
  by_cases hq : s.quarantined (blockPage k u) = true
  · exact ((Contained.quarantine s k u).pages _).2.1 hq
  · have hu : s.usable (blockPage k u) = true := by simp [State.usable, hp, hq]
    unfold State.quarantine
    extract_lets p r s1 recent s2
    rw [if_neg (by rw [hu]; decide)]
    have h0 : ((s.setQuar p).hdr p).quar = true := by
      rw [show s.setQuar p = (s.modHdr p fun h => { h with quar := true }).setBit p 3 from rfl, (raised_setBit _ _ _ _).2.1,
        hdr_modHdr, if_pos rfl]
    have h1 : Contained workFields (s.setQuar p) s1 := (Contained.recErr _ p 0x85 0).mono.trans (Contained.clearBlock _ k u)
    have h2 : Contained workFields s1 s2 :=
      ((Contained.refl _ _).step ((Contained.onChip s1 _ rfl rfl).trans (Contained.sumCadence _))).step (Contained.syncQuar _)
    have h3 : (s2.hdr p).quar = true := ((h1.trans h2).pages p).2.1 h0
    split
    · exact ((Contained.quarantineRegion s2 r).pages p).2.1 h3
    · exact h3

theorem present_of_only {l : List Field} {s t : State} (h : Only l s t) (p : PageId) : t.present p = s.present p := by
  unfold State.present
  rw [h.2.1]

theorem contained_poisonUsed (s : State) (m : MemLoc) (n : Nat) : Contained faultFields s (s.poisonUsed m n) := by
  unfold State.poisonUsed
  extract_lets k
  split
  · split
    · exact (Contained.directFail s _ _).mono
    · exact Contained.refl _ s
  · split
    · exact Contained.alarm s _ _ _ _ _ _
    · exact (Contained.failJob s _ _).mono

/-- What is recorded of an uncorrectable word: the error and UNCORRECTABLE. -/
theorem errs_recErr (s : State) (p : PageId) (c d : Nat) (h : (s.hdr p).errs.length < 4) :
    ((s.recErr p c d).hdr p).errs = (s.hdr p).errs ++ [⟨BitVec.ofNat 8 c, errLevel p c, BitVec.ofNat 5 d, s.aod.heatNo⟩] := by
  unfold State.recErr
  rw [if_pos h, hdr_modHdr, if_pos rfl]

theorem scrubNote_effect (s : State) (p : PageId) (c d n : Nat) (hn : n < 32) :
    (((s.recErr p c d).setBit p n).hdr p).status.getLsbD n = true ∧
      ((s.hdr p).errs.length < 4 → (((s.recErr p c d).setBit p n).hdr p).errs =
        (s.hdr p).errs ++ [⟨BitVec.ofNat 8 c, errLevel p c, BitVec.ofNat 5 d, s.aod.heatNo⟩]) ∧
      Only [.chip, .fns, .hdrs, .out] s ((s.recErr p c d).setBit p n) :=
  ⟨status_setBit _ p hn, fun h => (raised_setBit _ p p n).1.trans (errs_recErr s p c d h),
    ((Contained.recErr s p c d).trans (Contained.setBit _ p n)).only.mono (by decide)⟩

theorem present_usable {s : State} {p : PageId} (h : s.usable p = true) : s.present p = true := by
  unfold State.usable at h
  exact (Bool.and_eq_true_iff.1 h).1

theorem execPatrolScrub_eq (s : State) (m : MemLoc) (n : Nat) (ow : Bool) (h : s.aod.onCell = false) (hm : m.mem ≤ 9)
    (hu : s.usable (memPage m) = true) : exec (.patrolScrub m n ow) s = .next (s.scrub m n ow) := by
  change execPatrolScrub m n ow s = _
  unfold execPatrolScrub
  rw [if_neg]
  rintro (e | e | e)
  · rw [h] at e; cases e
  · omega
  · rw [hu] at e; cases e

theorem scrub_two (s : State) (m : MemLoc) (ow : Bool) (h : m.wipe = false) : s.scrub m 2 ow =
    let s1 := (s.recErr (memPage m) 0x81 m.mem).setBit (memPage m) 1
    if ow then s1 else s1.uncorrectable m := by
  unfold State.scrub
  simp [h]

/-- Three or more symbols give what some smaller number gives, after a free choice (R454). -/
theorem scrub_many (s : State) (m : MemLoc) (k : Nat) (ow : Bool) :
    ∃ n, n < 3 ∧ s.scrub m (k + 3) ow = (s.spend 1).scrub m n ow := by
  refine ⟨(Config.free 2 s.freeCtr : BitVec 2).toNat % 3, Nat.mod_lt _ (by decide), ?_⟩
  have h : (Config.free 2 s.freeCtr : BitVec 2).toNat % 3 < 3 := Nat.mod_lt _ (by decide)
  unfold State.scrub
  simp only [if_pos h, if_neg (show ¬ k + 3 < 3 by omega)]

/-- An uncorrectable word of a block memory quarantines its block. -/
theorem uncorrectable_block (s : State) (m : MemLoc) (h : m.mem ≤ 5) (hp : s.present (memPage m) = true) :
    ((s.uncorrectable m).hdr (memPage m)).quar = true ∧ ∀ n, (s.hdr (memPage m)).status.getLsbD n = true →
      ((s.uncorrectable m).hdr (memPage m)).status.getLsbD n = true := by
  have hk := memPage_block h
  have he : s.uncorrectable m = (match m.used with
      | some n => s.poisonUsed m n
      | none => s).quarantine (memKind m.mem) m.unit := by
    unfold State.uncorrectable
    rw [if_neg (by omega)]
    obtain ⟨n, u, w, c, us, wi⟩ := m
    dsimp only at h
    interval_cases n <;> rfl
  have h1 : Contained faultFields s (match m.used with
      | some n => s.poisonUsed m n
      | none => s) := by
    split
    · exact contained_poisonUsed s m _
    · exact Contained.refl _ s
  rw [he]
  generalize (match m.used with
      | some n => s.poisonUsed m n
      | none => s) = s1 at h1 ⊢
  refine ⟨?_, fun n hn => ?_⟩
  · rw [hk] at hp ⊢
    exact quar_quarantine s1 _ _ ((present_of_only h1.only _).trans hp)
  · exact ((Contained.quarantine s1 _ _).pages _).2.2 n ((h1.pages _).2.2 n hn)

/-- A control-state word resets the accelerator domain (R18). -/
theorem uncorrectable_ctrl (s : State) (m : MemLoc) (h1 : 6 ≤ m.mem) (h2 : m.mem ≤ 8) (hc : m.ctrl = true) :
    (s.uncorrectable m).chip.accReset = true ∧ (s.uncorrectable m).chip.accReady = false ∧ (s.uncorrectable m).chans = [] := by
  unfold State.uncorrectable
  rw [if_pos ⟨hc, h1, h2⟩]
  obtain ⟨⟨hch, -⟩, -, -, -, -, -, -, -, hr, hy⟩ := accWiped_accReset
    (((s.atOnce fun s => (s.reqsWhere fun _ => true).foldl (fun s r => s.finish1 r { st := 0x72 }) s).reportAer 0
      .uncorrectableInternal true).emit .errFatal) true
  exact ⟨hr, hy, hch⟩

/-- A word of Umpire SRAM is marked. -/
theorem uncorrectable_sram (s : State) (m : MemLoc) (h : m.mem = 9) :
    s.uncorrectable m = s.onUmp fun u => { u with poison := addNew u.poison m.word } := by
  unfold State.uncorrectable
  rw [if_neg (by omega)]
  simp only [h]

/-! ### Fatal errors -/

theorem only_reportAer (s : State) (f : Nat) (e : Aer) (fatal : Bool) : Only [.fns, .out] s (s.reportAer f e fatal) := by
  unfold State.reportAer
  have h := (Only.refl [.fns, .out] s).modFn (by decide) f fun x => { x with cfg := { x.cfg with
    aerStatus := if x.cfg.aerStatus.contains e then x.cfg.aerStatus else x.cfg.aerStatus ++ [e] } }
  exact h.ite (h.emit (by decide) _)

/-- An error that the PF reports stands in its AER status, and goes out unless AER masks it. -/
theorem reportAer_effect (s : State) (f : Nat) (e : Aer) (fatal : Bool) : e ∈ ((s.reportAer f e fatal).fn f).cfg.aerStatus ∧
    ((s.fn f).cfg.aerMask.contains e = false → OutEvent.aer f e fatal ∈ (s.reportAer f e fatal).out) := by
  have hm (g : Fn → Fn) : (s.modFn f g).fn f = g (s.fn f) := by rw [fn_modFn, if_pos rfl]
  have hs : e ∈ (if (s.fn f).cfg.aerStatus.contains e then (s.fn f).cfg.aerStatus else (s.fn f).cfg.aerStatus ++ [e]) := by
    split
    · rename_i h; exact List.contains_iff_mem.1 h
    · simp
  unfold State.reportAer
  extract_lets s1
  split
  · rename_i hc
    exact ⟨by rw [hm]; exact hs, fun h => by rw [h] at hc; cases hc⟩
  · refine ⟨?_, fun _ => List.mem_append_right _ List.mem_cons_self⟩
    show e ∈ (s1.fn f).cfg.aerStatus
    rw [hm]; exact hs

/-- A wipe whose read-back fails in a block memory. -/
theorem wipeFailed_block (s : State) (m : MemLoc) (h : m.mem ≤ 5) (hp : s.present (memPage m) = true) :
    ((s.wipeFailed m).hdr (memPage m)).quar = true ∧ ((s.wipeFailed m).hdr (memPage m)).status.getLsbD 1 = true := by
  have hk := memPage_block h
  have he : ∃ c d, s.wipeFailed m = ((s.recErr (memPage m) c d).setBit (memPage m) 1).quarantine (memKind m.mem) m.unit := by
    unfold State.wipeFailed
    obtain ⟨n, u, w, c, us, wi⟩ := m
    dsimp only at h
    interval_cases n
    · exact ⟨0x81, _, rfl⟩
    · exact ⟨0x81, _, rfl⟩
    · exact ⟨0x81, _, rfl⟩
    · exact ⟨0x81, _, rfl⟩
    · exact ⟨0x81, _, rfl⟩
    · exact ⟨0x93, _, rfl⟩
  obtain ⟨c, d, he⟩ := he
  obtain ⟨h1, -, ho⟩ := scrubNote_effect s (memPage m) c d 1 (by decide)
  rw [he]
  refine ⟨?_, ((Contained.quarantine _ _ _).pages _).2.2 1 h1⟩
  rw [hk] at hp ho ⊢
  exact quar_quarantine _ _ _ ((present_of_only ho _).trans hp)

/-- A wipe whose read-back fails in the ledger, the context cache or the Marshal's staging is fatal. -/
theorem wipeFailed_fatal (s : State) (m : MemLoc) (h1 : 6 ≤ m.mem) (h2 : m.mem ≤ 8) :
    ((s.wipeFailed m).hdr (memPage m)).status.getLsbD 1 = true ∧ .uncorrectableInternal ∈ ((s.wipeFailed m).fn 0).cfg.aerStatus ∧
      OutEvent.errFatal ∈ (s.wipeFailed m).out ∧ Only [.chip, .fns, .hdrs, .out] s (s.wipeFailed m) := by
  have he : s.wipeFailed m =
      (((s.recErr (memPage m) 0x81 m.mem).setBit (memPage m) 1).reportAer 0 .uncorrectableInternal true).emit .errFatal := by
    unfold State.wipeFailed
    obtain ⟨n, u, w, c, us, wi⟩ := m
    dsimp only at h1 h2
    interval_cases n <;> rfl
  obtain ⟨hb, -, ho⟩ := scrubNote_effect s (memPage m) 0x81 m.mem 1 (by decide)
  rw [he]
  generalize (s.recErr (memPage m) 0x81 m.mem).setBit (memPage m) 1 = s1 at hb ho ⊢
  have hr := only_reportAer s1 0 .uncorrectableInternal true
  refine ⟨?_, (reportAer_effect s1 0 _ true).1, List.mem_append_right _ List.mem_cons_self,
    (ho.then hr).emit (by decide) _⟩
  show ((s1.reportAer 0 .uncorrectableInternal true).hdr (memPage m)).status.getLsbD 1 = true
  rw [hdr_of_hdrs (hr.same .hdrs)]
  exact hb

/-! ### Randomness -/

theorem trngHealthFail_effect (s : State) (h : s.aod.onCell = false) :
    let recent := s.rng.fails.filter fun x => decide (s.now < x + 60 * second)
    Answers (exec .trngHealthFail s) fun t => (t.hdr .rng).status.getLsbD 8 = true ∧ t.rng.fails = recent ++ [s.now] ∧
      ((∃ x ∈ recent, s.now < x + second) ∨ 2 ≤ recent.length → t.rng.stopped = true ∧ t.rng.started = false ∧
        (t.hdr .rng).status.getLsbD 9 = true) ∧
      ((∀ x ∈ recent, x + second ≤ s.now) → recent.length < 2 → t.rng = { s.rng with fails := recent ++ [s.now] }) ∧
      t.rng.locked = (s.rng.locked || decide (2 ≤ recent.length)) ∧ Only [.chip, .fns, .hdrs, .out, .rng] s t := by
  intro recent
  change Answers (execTrngHealthFail s) _
  unfold execTrngHealthFail
  rw [if_neg (by simp [h])]
  extract_lets recent' soon third s1 s2
  have hs : soon = true ↔ ∃ x ∈ recent, s.now < x + second := by
    simp [soon, recent, recent', and_assoc]
  have ht : third = true ↔ 2 ≤ recent.length := by simp [third, recent, recent']
  have ho1 := only_setBit s .rng 8
  have hr2 : s2.rng = { s.rng with fails := recent ++ [s.now] } := by
    rw [← show s1.rng = s.rng from ho1.same .rng]
    rfl
  have h8 : (s2.hdr .rng).status.getLsbD 8 = true := status_setBit s .rng (by decide)
  have ho2 : Only [.chip, .fns, .hdrs, .out, .rng] s s2 := ((Only.refl _ s).then ho1).onRng (by decide) _
  by_cases hc : soon = true ∨ third = true
  · rw [if_pos hc]
    have hb := only_setBit (s2.onRng fun g => { g with stopped := true, started := false, locked := g.locked || third }) .rng 9
    have hr := hb.same .rng
    have hg := raised_setBit (s2.onRng fun g => { g with stopped := true, started := false, locked := g.locked || third }) .rng .rng 9
    refine .next ⟨hg.2.2 8 h8, ?_, fun _ => ⟨?_, ?_, status_setBit _ .rng (by decide)⟩, fun ha hl => ?_, ?_,
      (ho2.onRng (by decide) _).then hb⟩
    · rw [hr]; show s2.rng.fails = _; rw [hr2]
    · rw [hr]; rfl
    · rw [hr]; rfl
    · rcases hc with hc | hc
      · obtain ⟨x, hx, hlt⟩ := hs.1 hc
        exact absurd (ha x hx) (by omega)
      · exact absurd (ht.1 hc) (by omega)
    · rw [hr]; show (s2.rng.locked || third) = _; rw [hr2]
  · rw [if_neg hc]
    rw [not_or] at hc
    refine .next ⟨h8, by rw [hr2], fun hh => ?_, fun _ _ => hr2, ?_, ho2⟩
    · exact absurd hh (not_or.2 ⟨fun e => hc.1 (hs.2 e), fun e => hc.2 (ht.2 e)⟩)
    · rw [hr2, show decide (2 ≤ recent.length) = false from decide_eq_false fun e => hc.2 (ht.2 e), Bool.or_false]

theorem trngStartupTestDone_effect (s : State) (h : s.aod.onCell = false) : Answers (exec .trngStartupTestDone s) fun t =>
    Only [.rng] s t ∧ t.rng = if s.rng.locked = true then s.rng else { s.rng with started := true, stopped := false } := by
  change Answers (execTrngStartupTestDone s) _
  unfold execTrngStartupTestDone
  by_cases hl : s.rng.locked = true
  · rw [if_pos (.inr hl), if_pos hl]
    exact .next ⟨Only.refl _ s, rfl⟩
  · rw [if_neg (by simp [h, hl]), if_neg hl]
    exact .next ⟨(Only.refl _ s).onRng (by decide) _, rfl⟩

theorem drbgReseed_effect (s : State) (i : Nat) (h1 : s.rng.started = true) (h2 : s.rng.stopped = false)
    (hi : i = 4 ∨ i < s.variant.regions) : Answers (exec (.drbgReseed i) s) fun t =>
      t.rng = { s.rng with reseeds := s.rng.reseeds + 1 } ∧ Only [.rng] s t := by
  change Answers (execDrbgReseed i s) _
  unfold execDrbgReseed
  rw [if_pos ⟨h1, h2, hi⟩]
  exact .next ⟨rfl, (Only.refl _ s).onRng (by decide) _⟩

/-! ### The obligation -/

theorem bstRelease_effect (s : State) (h : s.aod.onCell = false) : Answers (exec .bstRelease s) fun t =>
    (s.bst.passed.contains (bstKey s.bst) = false → t.bst = { s.bst with cause := 5 } ∧ Only [.bst] s t) ∧
    (s.bst.passed.contains (bstKey s.bst) = true → s.bst.kind = 5 → (∀ p ∈ regionPages s.bst.inst.toNat, (t.hdr p).quar = false) ∧
      t.aod.quar = s.aod.quar &&& ~~~(1#4 <<< s.bst.inst.toNat) ∧ (t.eight (3 * s.bst.inst.toNat)).isolated = 0 ∧
      (t.quad s.bst.inst.toNat).isolated = 0) ∧
    (s.bst.passed.contains (bstKey s.bst) = true → s.bst.kind = 1 → (t.eight s.bst.inst.toNat).isolated = 0 ∧
      (t.hdr (.egt s.bst.inst.toNat)).quar = s.aod.quar.getLsbD (s.bst.inst.toNat / 3)) ∧
    (s.bst.passed.contains (bstKey s.bst) = true → s.bst.kind = 2 → (t.quad s.bst.inst.toNat).isolated = 0 ∧
      (t.hdr (.qad s.bst.inst.toNat)).quar = s.aod.quar.getLsbD s.bst.inst.toNat) ∧
    Only [.aod, .bst, .chip, .eights, .fns, .hdrs, .out, .quads, .slices] s t := by
  rw [execBstRelease_eq s h]
  by_cases hp : s.bst.passed.contains (bstKey s.bst) = false
  · rw [if_pos hp]
    refine .next ⟨fun _ => ⟨rfl, (Only.refl _ s).onBst (by decide) _⟩, ?_, ?_, ?_, (Only.refl _ s).onBst (by decide) _⟩ <;>
      exact fun c => absurd c (by rw [hp]; decide)
  · rw [if_neg hp]
    by_cases h5 : s.bst.kind = 5
    · rw [if_pos h5]
      have hr : s.bst.region = s.bst.inst.toNat := by unfold Bst.region; rw [if_neg (by rw [h5]; decide)]
      obtain ⟨hf, ha, ho⟩ := freeRegion_effect s s.bst.region
      rw [hr] at hf ha ho ⊢
      refine .next ⟨fun c => absurd c hp, fun _ _ => ⟨fun p hm => (hf p hm).1, ha, (hf _ (by simp [regionPages])).2.1 _ rfl,
        (hf (.qad s.bst.inst.toNat) (by simp [regionPages])).2.2 _ rfl⟩, fun _ c => absurd (h5.symm.trans c) (by decide),
        fun _ c => absurd (h5.symm.trans c) (by decide), ho.mono (by decide)⟩
    · rw [if_neg h5]
      cases hb : bstPage s.bst.kind.toNat s.bst.inst.toNat with
      | none =>
        exact .next ⟨fun c => absurd c hp, fun _ c => absurd c h5, fun _ c => (by rw [c] at hb; cases hb),
          fun _ c => (by rw [c] at hb; cases hb), Only.refl _ s⟩
      | some p =>
        obtain ⟨hq, he, hk, ho⟩ := freeInRegion_effect s p s.bst.region
        refine .next ⟨fun c => absurd c hp, fun _ c => absurd c h5, fun _ c => ?_, fun _ c => ?_, ho.mono (by decide)⟩
        · have hp : p = .egt s.bst.inst.toNat := by rw [c] at hb; exact (Option.some.inj hb).symm
          have hr : s.bst.region = s.bst.inst.toNat / 3 := by unfold Bst.region; rw [if_pos c]
          subst hp
          exact ⟨he _ rfl, by rw [hq, hr]⟩
        · have hp : p = .qad s.bst.inst.toNat := by rw [c] at hb; exact (Option.some.inj hb).symm
          have hr : s.bst.region = s.bst.inst.toNat := by unfold Bst.region; rw [if_neg (by rw [c]; decide)]
          subst hp
          exact ⟨hk _ rfl, by rw [hq, hr]⟩

theorem bstDone_effect (s : State) (pass : Bool) (sig : W64) (a : BitVec 30) (h : s.bst.busy = true) :
    let ok := pass = true ∧ (s.bst.test.getLsbD 0 = true → sig = Config.bstExpected s.bst.kind.toNat)
    Answers (exec (.bstDone pass sig a) s) fun t => t.bst.busy = false ∧ t.bst.done = true ∧
      (ok → t.bst.result = 0x96 ∧ t.bst.resultN = 0x69 ∧ bstKey s.bst ∈ t.bst.passed ∧ (t.hdr .bst).status.getLsbD 8 = true) ∧
      (¬ ok → t.bst.result = 0x5A ∧ t.bst.resultN = 0xA5 ∧ t.bst.passed = s.bst.passed ∧
        (t.hdr .bst).status.getLsbD 9 = true) ∧
      t.bst.runs = s.bst.runs ∧ Only [.bst, .chip, .eights, .fns, .hdrs, .jobs, .out, .slices] s t := by
  intro ok
  obtain ⟨hb, hst, ho⟩ := bstFinish_effect s pass sig a h
  have hok := s.bst.passes_iff pass sig
  change Answers (.next (s.bstFinish pass sig a)) _
  refine .next ⟨by rw [hb]; rfl, by rw [hb]; rfl, fun c => ?_, fun c => ?_, by rw [hb]; rfl, ho⟩
  · have hp : s.bst.passes pass sig = true := hok.2 c
    rw [hp] at hst
    rw [hb]
    simp only [Bst.finished, hp]
    exact ⟨rfl, rfl, mem_addNew_self _ _, hst⟩
  · have hp : s.bst.passes pass sig = false := Bool.eq_false_iff.2 fun e => c (hok.1 e)
    rw [hp] at hst
    rw [hb]
    simp only [Bst.finished, hp]
    exact ⟨rfl, rfl, rfl, hst⟩

theorem scrubOfWipe_effect (s : State) (m : MemLoc) (h : s.aod.onCell = false) (hm : m.mem ≤ 8) (hw : m.wipe = true)
    (hu : s.usable (memPage m) = true) : Answers (exec (.patrolScrub m 2 false) s) fun t =>
      (t.hdr (memPage m)).status.getLsbD 1 = true ∧ (m.mem ≤ 5 → (t.hdr (memPage m)).quar = true) ∧
      (6 ≤ m.mem → .uncorrectableInternal ∈ (t.fn 0).cfg.aerStatus ∧ OutEvent.errFatal ∈ t.out ∧
        Only [.chip, .fns, .hdrs, .out] s t) := by
  rw [execPatrolScrub_eq s m 2 false h (by omega) hu]
  have he : s.scrub m 2 false = s.wipeFailed m := by unfold State.scrub; simp [hw]
  rw [he]
  by_cases h5 : m.mem ≤ 5
  · obtain ⟨hq, hb⟩ := wipeFailed_block s m h5 (present_usable hu)
    exact .next ⟨hb, fun _ => hq, fun c => absurd c (by omega)⟩
  · obtain ⟨hb, hf⟩ := wipeFailed_fatal s m (by omega) hm
    exact .next ⟨hb, fun c => absurd c h5, fun _ => hf⟩

theorem scrub_uncorrectable (s : State) (m : MemLoc) (hw : m.wipe = false) (hu : s.usable (memPage m) = true) :
    (m.mem ≤ 5 → ((s.scrub m 2 false).hdr (memPage m)).quar = true ∧
        ((s.scrub m 2 false).hdr (memPage m)).status.getLsbD 1 = true) ∧
      (m.mem = 9 → m.word ∈ (s.scrub m 2 false).ump.poison ∧ ((s.scrub m 2 false).hdr .ump).status.getLsbD 1 = true) ∧
      (6 ≤ m.mem → m.mem ≤ 8 → m.ctrl = true → (s.scrub m 2 false).chip.accReset = true ∧
        (s.scrub m 2 false).chip.accReady = false ∧ (s.scrub m 2 false).chans = []) := by
  rw [scrub_two s m false hw]
  dsimp only
  rw [if_neg Bool.false_ne_true]
  obtain ⟨hb, -, ho⟩ := scrubNote_effect s (memPage m) 0x81 m.mem 1 (by decide)
  generalize (s.recErr (memPage m) 0x81 m.mem).setBit (memPage m) 1 = s1 at hb ho ⊢
  refine ⟨fun h5 => ?_, fun h9 => ?_, fun h6 h8 hc => uncorrectable_ctrl s1 m h6 h8 hc⟩
  · obtain ⟨hq, hs⟩ := uncorrectable_block s1 m h5 ((present_of_only ho _).trans (present_usable hu))
    exact ⟨hq, hs 1 hb⟩
  · rw [uncorrectable_sram s1 m h9]
    have hp : memPage m = .ump := by unfold memPage; simp only [h9]
    rw [hp] at hb
    exact ⟨mem_addNew_self _ _, hb⟩

/-- Settles O54: one lemma for each command, the scrubber's by the memory that it reads. -/
theorem selfTestScrubAndRandomness : Obligations.SelfTestScrubAndRandomness := by
  unfold Obligations.SelfTestScrubAndRandomness
  refine ⟨fun s h h1 h2 => ?_, fun s => ?_, bstDone_effect, bstRelease_effect, scrubOfWipe_effect, fun s m ow h hm hw hu => ?_,
    trngHealthFail_effect, trngStartupTestDone_effect, drbgReseed_effect⟩
  · exact Answers.next (t := s.bstStart) (bstStart_effect s h h1 h2)
  · exact Answers.next (t := s.bstEnd 3) ⟨only_bstEnd s 3, bst_bstEnd s 3⟩
  · refine ⟨execPatrolScrub_eq s m 0 ow h hm hu, ?_, ?_, ?_, fun k => ?_⟩
    · rw [execPatrolScrub_eq s m 1 ow h hm hu]
      exact .next (scrubNote_effect s _ _ _ 0 (by decide))
    · rw [execPatrolScrub_eq s m 2 true h hm hu, scrub_two s m true hw]
      exact .next (scrubNote_effect s _ _ _ 1 (by decide))
    · rw [execPatrolScrub_eq s m 2 false h hm hu]
      exact .next (scrub_uncorrectable s m hw hu)
    · obtain ⟨n, hn, e⟩ := scrub_many s m k ow
      refine ⟨n, hn, ?_⟩
      rw [execPatrolScrub_eq s m (k + 3) ow h hm hu, execPatrolScrub_eq (s.spend 1) m n ow h hm hu, e]

end Sys2Proof.Machine

/-!
# Fetching, admission, and the requests that need no unit (O16)
-/

namespace Sys2Proof.Machine

-- One declaration after the other: elaborated side by side, the row as one text takes more threads than the check allows.
set_option Elab.async false

/-! ### The end of a request that holds no job -/

/-- The parts that the end of a request without job and program can change. -/
def bareFields : List Field := [.chans, .fns, .heat, .msh, .out, .reqs]

/-- What is metered at the end of a live request. -/
def State.metered (s : State) (q : Req) (st : Nat) : State := s.meter q.fn q.ch (q.counts st)

theorem chMessage_bare (s : State) (f i : Nat) : Only bareFields s (s.chMessage f i) := by
  unfold State.chMessage
  split
  · exact Only.refl _ s
  · split
    · exact ((Only.refl _ s).msix (by decide) (by decide) f _).modChan (by decide) f i _
    · exact Only.refl _ s

/-- The completion entry of a channel that can write it: its event, and the parts it can change. -/
theorem writeCqe_live (s : State) (f i : Nat) (dw : List Nat) (slot : Nat) (c : Chan) (hc : s.chan f i = some c)
    (he : c.errored = false) (hd : s.denies f c.tag (c.cqBase.toNat + 32 * c.cqTail) 32 true = false) :
    (∃ y : Tlp, y.pasid = c.tag ∧ OutEvent.cqe f i y (c.cqBase.toNat + 32 * c.cqTail)
      ((dw ++ [slot, c.sqHead + 2147483648 * b2n c.phase]).map (BitVec.ofNat 32)) ∈ (s.writeCqe f i dw slot).out) ∧
      Only bareFields s (s.writeCqe f i dw slot) := by
  unfold State.writeCqe
  rw [hc]
  dsimp only
  rw [if_neg (by simp [he]), if_neg (by simp [hd])]
  have h1 (e : OutEvent) (g : Chan → Chan) :
      Only bareFields s (((s.askXlat f c.tag (c.cqBase.toNat + 32 * c.cqTail) 32).emit e).modChan f i g) :=
    (((Only.refl _ s).askXlat (by decide) _ _ _ _).emit (by decide) e).modChan (by decide) f i g
  have h2 (e : OutEvent) (g : Chan → Chan) :
      e ∈ (((s.askXlat f c.tag (c.cqBase.toNat + 32 * c.cqTail) 32).emit e).modChan f i g).out :=
    List.mem_append_right _ List.mem_cons_self
  split
  · exact ⟨⟨s.tlp f c.tag false, rfl, (WorkDone.chMessage _ f i).out (h2 _ _)⟩, (h1 _ _).then (chMessage_bare _ f i)⟩
  · exact ⟨⟨s.tlp f c.tag false, rfl, h2 _ _⟩, h1 _ _⟩

/-- Without a job nothing has been written that the end would erase. -/
theorem zeroWritten_bare (s : State) (q : Req) (st : Nat) (h : q.job = none) : s.zeroWritten q st = s := by
  unfold State.zeroWritten
  rw [h]
  rfl

/-- Request `q` that ends with `x0` is reported with `x`, and nothing that it has written is erased. -/
def State.EndsAs (s : State) (q : Req) (x0 x : Fin) : Prop := s.resultOf q x0 = x ∧ s.zeroWritten q x.st = s

theorem endsAs_of_fail (s : State) {q : Req} {st : Nat} (h : q.job = none) (hs : st ≠ 0) : s.EndsAs q { st := st } { st := st } := by
  refine ⟨?_, zeroWritten_bare s q _ h⟩
  unfold State.resultOf
  rw [h]
  split
  · rfl
  · simp [hs]
  · rfl

theorem endsAs_of_typ (s : State) {q : Req} (x : Fin) (h : q.job = none) (h1 : q.typ ≠ 1) (h2 : q.typ ≠ 2) : s.EndsAs q x x := by
  refine ⟨?_, zeroWritten_bare s q _ h⟩
  unfold State.resultOf
  split
  · exact absurd ‹_› h1
  · exact absurd ‹_› h2
  · rfl

/-- The program of request `q` is freed, if it was the last. -/
def State.reapOwn (s : State) (q : Req) : State :=
  (match q.prog with
  | some n => s.reapProg n
  | none => s).settleCredits

/-- The end of a live request up to its completion entry. -/
def State.answered (s : State) (q : Req) (x : Fin) : State :=
  ((s.metered q x.st).writeCqe q.fn q.ch (s.cqeDwords q x) q.slot).modChan q.fn q.ch fun c => { c with openMsg := q.closes x c }

/-- The end of a live request, split at its completion entry. -/
theorem finish1_eq (s : State) (r : Nat) (q : Req) (c : Chan) (x0 x : Fin) (hl : ReqLive s r q c) (hx : s.EndsAs q x0 x) :
    s.finish1 r x0 = ((match s.messageOf q x with
        | some j => if s.jobGoesOn q x then s.answered q x else (s.answered q x).endJob j
        | none => s.answered q x).onReqs (·.set none r none)).reapOwn q := by
  obtain ⟨hq, hc, he, -⟩ := hl
  obtain ⟨h1, h2⟩ := hx
  unfold State.finish1
  rw [hq]
  dsimp only
  rw [h1, h2, hc]
  dsimp only
  rw [if_neg (by simp [he])]
  rfl

theorem reapOwn_work (s : State) (q : Req) : WorkDone s (s.reapOwn q) := by
  unfold State.reapOwn
  refine WorkDone.trans ?_ (WorkDone.settleCredits _)
  split
  · exact WorkDone.reapProg _ _
  · exact WorkDone.refl _

theorem answered_live (s : State) (r : Nat) (q : Req) (c : Chan) (x : Fin) (hl : ReqLive s r q c) :
    (∃ y : Tlp, y.pasid = c.tag ∧ OutEvent.cqe q.fn q.ch y (c.cqBase.toNat + 32 * c.cqTail)
      ((s.cqeDwords q x ++ [q.slot, c.sqHead + 2147483648 * b2n c.phase]).map (BitVec.ofNat 32)) ∈ (s.answered q x).out) ∧
      Only bareFields s (s.answered q x) := by
  obtain ⟨-, hc, he, hd⟩ := hl
  obtain ⟨h1, h2⟩ := writeCqe_live (s.metered q x.st) q.fn q.ch (s.cqeDwords q x) q.slot c hc he hd
  have h0 : Only bareFields s (s.metered q x.st) := (Only.refl _ s).onHeat (by decide) _
  exact ⟨h1, (h0.then h2).modChan (by decide) _ _ _⟩

theorem endOwn_work (s t : State) (q : Req) (x : Fin) : WorkDone t (match s.messageOf q x with
    | some j => if s.jobGoesOn q x then t else t.endJob j
    | none => t) := by
  split
  · split
    · exact WorkDone.refl _
    · exact WorkDone.endJob _ _
  · exact WorkDone.refl _

theorem finish1_ends (s : State) (r : Nat) (q : Req) (c : Chan) (x0 x : Fin) (hl : ReqLive s r q c) (hx : s.EndsAs q x0 x) :
    ReqEnds s (s.finish1 r x0) r q c x := by
  rw [finish1_eq s r q c x0 x hl hx]
  obtain ⟨⟨y, hy, hin⟩, -⟩ := answered_live s r q c x hl
  have h4 := endOwn_work s (s.answered q x) q x
  generalize (match s.messageOf q x with
    | some j => if s.jobGoesOn q x then s.answered q x else (s.answered q x).endJob j
    | none => s.answered q x) = s4 at h4
  have h5 := reapOwn_work (s4.onReqs (·.set none r none)) q
  refine ⟨⟨y, hy, h5.out (h4.out hin)⟩, ?_⟩
  rcases h5.reqs r with h | h
  · exact h
  · exact h.trans ((req_remove s4 r r).trans (if_pos rfl))

/-- The end of a live request that holds no job and no program and belongs to no message. -/
theorem finish1_bare (s : State) (r : Nat) (q : Req) (c : Chan) (x : Fin) (hl : ReqLive s r q c) (hj : q.job = none)
    (hp : q.prog = none) (h1 : q.typ ≠ 1) (h2 : q.typ ≠ 2) :
    ReqEnds s (s.finish1 r x) r q c x ∧ Only bareFields s (s.finish1 r x) := by
  have hx := endsAs_of_typ s x hj h1 h2
  refine ⟨finish1_ends s r q c x x hl hx, ?_⟩
  have hm : s.messageOf q x = none := by
    unfold State.messageOf
    rw [hj]
    exact if_neg (by simp [h1, h2])
  rw [finish1_eq s r q c x x hl hx, hm]
  unfold State.reapOwn
  rw [hp]
  exact ((answered_live s r q c x hl).2.onReqs (by decide) _).onMsh (by decide) _

/-! ### The commands that end a request -/

/-- A request that ends with success ends alone. -/
theorem finish_of_ok (s : State) (r : Nat) (x : Fin) (h : x.st ≤ 1) : s.finish r x = s.finish1 r x := by
  unfold State.finish
  split
  · unfold State.finish1; rw [‹s.req r = none›]
  · exact if_pos h

theorem fenceRequest_effect (s : State) (r : Nat) (q : Req) (c : Chan) (hl : ReqLive s r q c) (ht : q.typ = 6)
    (ha : q.admitted = true) (hj : q.job = none) (hp : q.prog = none) : Answers (exec (.fenceRequest r) s) fun t =>
      ReqEnds s t r q c { st := 0 } ∧ Only bareFields s t := by
  change Answers (execFenceRequest r s) _
  unfold execFenceRequest
  rw [hl.1]
  dsimp only
  rw [if_pos ⟨ht, ha⟩]
  rw [finish_of_ok s r _ (by decide : (0 : Nat) ≤ 1)]
  exact .next (finish1_bare s r q c _ hl hj hp (by omega) (by omega))

theorem nopRequest_effect (s : State) (r : Nat) (q : Req) (c : Chan) (hl : ReqLive s r q c) (ht : q.typ = 7)
    (ha : q.admitted = true) (hj : q.job = none) (hp : q.prog = none) : Answers (exec (.nopRequest r) s) fun t =>
      ReqEnds s t r q c { st := 0, r0 := q.param.toNat } ∧ Only bareFields s t := by
  change Answers (execNopRequest r s) _
  unfold execNopRequest
  rw [hl.1]
  dsimp only
  rw [if_pos ⟨ht, ha⟩]
  rw [finish_of_ok s r _ (by decide : (0 : Nat) ≤ 1)]
  exact .next (finish1_bare s r q c _ hl hj hp (by omega) (by omega))

theorem ordered_reserved {q : Req} (h : q.reservedType = true) : q.ordered = false := by
  unfold Req.reservedType at h
  unfold Req.ordered
  simp only [Bool.or_eq_true, decide_eq_true_eq] at h
  have h1 : q.typ ≠ 1 := by omega
  have h2 : q.typ ≠ 2 := by omega
  have h5 : q.typ ≠ 5 := by omega
  simp [h1, h2, h5]

theorem reservedType_effect (s : State) (r : Nat) (q : Req) (c : Chan) (hl : ReqLive s r q c) (ht : q.reservedType = true)
    (hch : q.chain = [r]) (hpos : q.chainPos = 0) (hj : q.job = none) (hp : q.prog = none) :
    Answers (exec (.reservedType r) s) fun t => ReqEnds s t r q c { st := 0x10 } ∧ Only bareFields s t := by
  have hw : s.waitsTurn q.fn q.ch (s.members q) (fun m => decide (m < q.chain.headD r)) = false := by
    have hm : s.members q = [q] := by
      unfold State.members
      rw [hch]
      simp [hl.1]
    unfold State.waitsTurn
    simp [hm, ordered_reserved ht]
  change Answers (execReservedType r s) _
  unfold execReservedType
  rw [hl.1]
  dsimp only
  rw [if_pos ⟨ht, hw⟩, hch, hpos]
  have ht' : q.typ = 0 ∨ 8 ≤ q.typ := by simpa [Req.reservedType] using ht
  exact .next (finish1_bare s r q c { st := 0x10 } hl hj hp (by omega) (by omega))

/-! ### Admission -/

theorem safeHold_effect (s : State) (r : Nat) (g : Sgls) (q : Req) (c : Chan) (hl : ReqLive s r q c) (ha : q.admitted = false)
    (hj : q.job = none) (ho : s.orderOk r q = true) (hr : s.reservedIn q = false) (hs : s.chip.safeHold = true) :
    Answers (exec (.requestAdmit r g) s) fun t => ReqEnds s t r q c { st := 0x74 } ∧ Only workFields s t := by
  change Answers (execRequestAdmit r g s) _
  unfold execRequestAdmit
  rw [hl.1]
  dsimp only
  rw [if_neg (by simp [ha, ho, hr]), if_pos hs]
  have hf : ∃ t, s.finish r { st := 0x74 } = t ∧ WorkDone (s.finish1 r { st := 0x74 }) t := by
    refine ⟨_, rfl, ?_⟩
    unfold State.finish
    rw [hl.1]
    dsimp only
    rw [if_neg (by decide)]
    exact (WorkDone.foldl (fun t m => WorkDone.finish1 t m _) _ _).trans (WorkDone.foldl WorkDone.endJob _ _)
  obtain ⟨t, ht, hw⟩ := hf
  rw [ht]
  obtain ⟨⟨y, hy, hin⟩, hn⟩ := finish1_ends s r q c _ _ hl (endsAs_of_fail s hj (by decide : (0x74 : Nat) ≠ 0))
  refine .next ⟨⟨⟨y, hy, hw.out hin⟩, ?_⟩, ((WorkDone.finish1 s r _).trans hw).only⟩
  rcases hw.reqs r with h | h
  · exact h
  · exact h.trans hn

/-- `t` differs from `s` in the record of request `r`, and there in nothing of what admission has decided. -/
def AdmittedSame (s t : State) (r : Nat) : Prop :=
  (∀ x, s.req r = some x → ∃ y, t.req r = some y ∧ y.admitted = x.admitted ∧ y.keySlot = x.keySlot ∧ y.domain = x.domain ∧
    y.dwords = x.dwords ∧ y.inR = x.inR ∧ y.outR = x.outR) ∧ (∀ m, m ≠ r → t.req m = s.req m) ∧
  Only [.reqs, .kslots, .jobs, .nextJob] s t

namespace AdmittedSame

variable {s t u : State} {r : Nat}

theorem trans (h : AdmittedSame s t r) (k : AdmittedSame t u r) : AdmittedSame s u r := by
  obtain ⟨h1, h2, h3⟩ := h
  obtain ⟨k1, k2, k3⟩ := k
  refine ⟨fun x hx => ?_, fun m hm => (k2 m hm).trans (h2 m hm), h3.trans k3⟩
  obtain ⟨y, hy, a, b, c, d, e, f⟩ := h1 x hx
  obtain ⟨z, hz, a', b', c', d', e', f'⟩ := k1 y hy
  exact ⟨z, hz, a'.trans a, b'.trans b, c'.trans c, d'.trans d, e'.trans e, f'.trans f⟩

theorem of_reqs (h : Only [.kslots, .jobs, .nextJob] s t) : AdmittedSame s t r := by
  have hr (m : Nat) : t.req m = s.req m := by unfold State.req; rw [h.same .reqs]
  exact ⟨fun x hx => ⟨x, (hr r).trans hx, rfl, rfl, rfl, rfl, rfl, rfl⟩, fun m _ => hr m, h.mono (by decide)⟩

theorem refl (s : State) (r : Nat) : AdmittedSame s s r := of_reqs (Only.refl _ s)

theorem modReq (s : State) (r : Nat) (g : Req → Req) (hg : ∀ x, (g x).admitted = x.admitted ∧ (g x).keySlot = x.keySlot ∧
    (g x).domain = x.domain ∧ (g x).dwords = x.dwords ∧ (g x).inR = x.inR ∧ (g x).outR = x.outR) :
    AdmittedSame s (s.modReq r g) r := by
  refine ⟨fun x hx => ⟨g x, ?_, hg x⟩, fun m hm => ?_, (Only.refl _ s).modReq (by decide) _ _⟩
  · rw [req_modReq, if_pos rfl, hx]; rfl
  · rw [req_modReq, if_neg hm]

theorem countUse (s : State) (r i : Nat) : AdmittedSame s (s.countUse i) r := of_reqs ((Only.refl _ s).modKslot (by decide) _ _)

theorem drawNonce (s : State) (r : Nat) (q : Req) (p : Option Prog) (i : Nat) : AdmittedSame s (s.drawNonce r q p i) r := by
  unfold State.drawNonce
  dsimp only
  split
  · split
    · refine (modReq s r (fun q => { q with nonce := beBytes 4 (s.kslot i).fixed.toNat ++ beBytes 8 (s.kslot i).counter.toNat })
        fun _ => ⟨rfl, rfl, rfl, rfl, rfl, rfl⟩).trans (of_reqs ?_)
      exact (Only.refl _ _).modKslot (by decide) _ _
    · exact refl s r
  · exact refl s r

theorem pkeJob (s : State) (r : Nat) (q : Req) : AdmittedSame s (s.pkeJob r q) r := by
  unfold State.pkeJob
  split
  · exact (of_reqs ((Only.refl _ s).modJob (by decide) _ _)).trans (modReq _ r _ fun _ => ⟨rfl, rfl, rfl, rfl, rfl, rfl⟩)
  · exact (of_reqs (((Only.refl _ s).onJobs (by decide) _).onNextJob (by decide) _)).trans
      (modReq _ r _ fun _ => ⟨rfl, rfl, rfl, rfl, rfl, rfl⟩)

end AdmittedSame

theorem accept_effect (s : State) (r : Nat) (q : Req) (g : Sgls) (p : Option Prog) (slot : Option Nat) (hq : s.req r = some q) :
    (∃ x, (s.accept r q g p slot).req r = some x ∧ x.admitted = true ∧ x.keySlot = slot ∧ x.domain = (s.fnDomain q.fn).getD 0 ∧
        x.dwords = q.dwords ∧ x.inR = ranges q.inSgl q.inAddr q.inLen g.inL ∧ x.outR = ranges q.outSgl q.outAddr q.outLen g.outL) ∧
      (∀ m, m ≠ r → (s.accept r q g p slot).req m = s.req m) ∧ Only [.reqs, .kslots, .jobs, .nextJob] s (s.accept r q g p slot) := by
  unfold State.accept
  extract_lets s1 s2
  have h2 : AdmittedSame s1 s2 r := by
    dsimp only [s2]
    split
    · split
      · exact (AdmittedSame.countUse s1 r _).trans (AdmittedSame.drawNonce _ r q p _)
      · exact AdmittedSame.drawNonce s1 r q p _
    · exact AdmittedSame.refl s1 r
  have h3 : AdmittedSame s1 (if q.typ = 3 then
      match s2.req r with
      | some q => s2.pkeJob r q
      | none => s2
    else s2) r := by
    split
    · split
      · exact h2.trans (AdmittedSame.pkeJob s2 r _)
      · exact h2
    · exact h2
  have hr1 : s1.req r = (s.req r).map _ := (req_modReq s r r _).trans (if_pos rfl)
  have hm1 (m : Nat) (hm : m ≠ r) : s1.req m = s.req m := (req_modReq s r m _).trans (if_neg hm)
  have ho1 : Only [.reqs, .kslots, .jobs, .nextJob] s s1 := (Only.refl _ s).modReq (by decide) _ _
  rw [hq] at hr1
  clear_value s1 s2
  obtain ⟨k1, k2, k3⟩ := h3
  obtain ⟨y, hy, a, b, c, d, e, f⟩ := k1 _ hr1
  exact ⟨⟨y, hy, a, b, c, d, e, f⟩, fun m hm => (k2 m hm).trans (hm1 m hm), ho1.trans k3⟩

theorem requestAdmit_effect (s : State) (r : Nat) (g : Sgls) (q : Req) (slot : Option Nat) (hq : s.req r = some q)
    (ha : q.admitted = false) (ho : s.orderOk r q = true) (hr : s.reservedIn q = false) (hs : s.chip.safeHold = false)
    (hf : q.chainPos = 0 → s.chainFailure q = none)
    (hm : (s.openOf q).bind (fun m => if q.cont then m.lost else none) = none) (h1 : s.firstFailure q g = none)
    (hk : s.keyStep q (s.symProg q) = .ok slot) (hc : s.ctxFull q = false) :
    exec (.requestAdmit r g) s = .next (s.accept r q g (s.symProg q) slot) := by
  have hf' : (if q.chainPos = 0 then s.chainFailure q else none) = none := by
    split
    · exact hf ‹_›
    · rfl
  change execRequestAdmit r g s = _
  unfold execRequestAdmit
  rw [hq]
  dsimp only
  rw [if_neg (by simp [ha, ho, hr]), if_neg (by simp [hs]), hf']
  dsimp only
  rw [hm]
  dsimp only
  rw [h1]
  dsimp only
  rw [hk]
  dsimp only
  rw [if_neg (by simp [hc])]

/-! ### Fetching -/

/-- A table that takes `n` entries from `base` on. -/
theorem get_setRange {α : Type} [DecidableEq α] (d : α) (f : Nat → α) (base n : Nat) (m : SMap α) (j : Nat) :
    SMap.get d ((List.range n).foldl (fun m k => SMap.set d m (base + k) (f k)) m) j =
      if base ≤ j ∧ j < base + n then f (j - base) else SMap.get d m j := by
  induction n with
  | zero => rw [if_neg (by omega)]; rfl
  | succ n ih =>
    rw [List.range_succ, List.foldl_append]
    simp only [List.foldl_cons, List.foldl_nil]
    rw [SMap.get_set, ih]
    by_cases hj : j = base + n
    · subst hj; simp
    · rw [if_neg hj]
      have : (base ≤ j ∧ j < base + n) ↔ (base ≤ j ∧ j < base + (n + 1)) := by omega
      simp only [this]

theorem req_addReqs (s : State) (f : Nat → Req) (n j : Nat) (hf : ∀ k, (f k).chainPos = k) :
    (s.addReqs ((List.range n).map f)).req j =
      if s.nextReq ≤ j ∧ j < s.nextReq + n then some (f (j - s.nextReq)) else s.req j := by
  have h := get_setRange none (fun k => some (f k)) s.nextReq n s.reqs j
  unfold State.addReqs
  show SMap.get none (((List.range n).map f).foldl (fun m q => SMap.set none m (s.nextReq + q.chainPos) (some q)) s.reqs) j = _
  rw [List.foldl_map]
  simp only [hf]
  exact h

theorem chainBad_none (s : State) (rs : List Req) (h : ∀ q ∈ rs, s.formatBad q rs = none) : s.chainBad rs = none := by
  have h1 : rs.find? (fun q => s.formatBad q rs == some 0x10) = none :=
    List.find?_eq_none.2 fun q hq => by rw [h q hq]; decide
  have h2 : rs.findSome? (fun q => (s.formatBad q rs).map (q, ·)) = none :=
    List.findSome?_eq_none_iff.2 fun q hq => by rw [h q hq]; rfl
  unfold State.chainBad
  rw [h1]
  exact h2

theorem descriptorFetch_effect (s : State) (f i : Nat) (ds : List (List W32)) (c : Chan) (hc : s.chan f i = some c)
    (hr : s.chip.accReset = false) (hok : chainOk ds = true) (hcf : c.canFetch ds.length = true)
    (hd : ∀ k, k < ds.length → s.denies f c.tag (c.sqBase.toNat + 64 * ((c.sqHead + k) % 2 ^ c.sqLog)) 64 false = false)
    (hb : ∀ q, q ∈ ((List.range ds.length).map fun k => reqOf f i c ((List.range ds.length).map (s.nextReq + ·)) k (ds.getD k [])) →
      s.formatBad q ((List.range ds.length).map fun k => reqOf f i c ((List.range ds.length).map (s.nextReq + ·)) k (ds.getD k [])) = none) :
    Answers (exec (.descriptorFetch f i ds) s) fun t =>
      (∀ k, k < ds.length → t.req (s.nextReq + k) =
        some (reqOf f i c ((List.range ds.length).map (s.nextReq + ·)) k (ds.getD k []))) ∧
      (∀ r, r < s.nextReq → t.req r = s.req r) ∧ t.nextReq = s.nextReq + ds.length ∧
      t.chan f i = some { c with sqHead := (c.sqHead + ds.length) % 2 ^ c.sqLog, fetched := c.fetched + ds.length } ∧
      Only [.reqs, .nextReq, .chans, .out] s t := by
  change Answers (execDescriptorFetch f i ds s) _
  unfold execDescriptorFetch
  rw [hc]
  dsimp only
  have hnd : (List.range ds.length).any
      (fun k => s.denies f c.tag (c.sqBase.toNat + 64 * ((c.sqHead + k) % 2 ^ c.sqLog)) 64 false) = false :=
    List.any_eq_false.2 fun k hk => by simp [hd k (List.mem_range.1 hk)]
  rw [if_neg (by simp [hr, hok, hcf]), if_neg (by simp [hnd]), chainBad_none s _ hb]
  dsimp only
  generalize hs0 : (List.range ds.length).foldl
    (fun s k => s.askXlat f c.tag (c.sqBase.toNat + 64 * ((c.sqHead + k) % 2 ^ c.sqLog)) 64) s = s0
  have h0 : Only [.reqs, .nextReq, .chans, .out] s s0 := by
    rw [← hs0]
    exact Only.foldl (fun u k hu => hu.askXlat (by decide) _ _ _ _) _ (Only.refl _ s)
  have h0' : Only [.out] s s0 := by
    rw [← hs0]
    exact Only.foldl (fun u k hu => hu.askXlat (by decide) _ _ _ _) _ (Only.refl _ s)
  have hn : s0.nextReq = s.nextReq := h0'.same .nextReq
  have hreq (j : Nat) := req_addReqs s0 (fun k => reqOf f i c ((List.range ds.length).map (s.nextReq + ·)) k (ds.getD k [])) ds.length j
    fun _ => rfl
  rw [hn] at hreq
  refine .next ⟨fun k hk => ?_, fun r hrr => ?_, ?_, ?_, ?_⟩
  · exact (hreq (s.nextReq + k)).trans (by rw [if_pos (by omega), Nat.add_sub_cancel_left])
  · refine (hreq r).trans ?_
    rw [if_neg (by omega)]
    unfold State.req
    rw [h0'.same .reqs]
  · show s0.nextReq + _ = _
    rw [hn]
    simp
  · rw [chan_modChan_self]
    have hch : (s0.addReqs ((List.range ds.length).map fun k =>
        reqOf f i c ((List.range ds.length).map (s.nextReq + ·)) k (ds.getD k []))).chan f i = some c := by
      show SMap.get none s0.chans (chKey f i) = some c
      rw [h0'.same .chans]
      exact hc
    rw [hch]
    rfl
  · exact ((h0.onReqs (by decide) _).onNextReq (by decide) _).modChan (by decide) _ _ _

/-- Settles O16: one lemma for each command. -/
theorem requestsAreFetchedAndAdmitted : Obligations.RequestsAreFetchedAndAdmitted := by
  unfold Obligations.RequestsAreFetchedAndAdmitted
  refine ⟨descriptorFetch_effect, fun s r g q slot hq ha ho hr hs hf hm h1 hk hc => ?_, safeHold_effect, fenceRequest_effect,
    nopRequest_effect, reservedType_effect⟩
  rw [requestAdmit_effect s r g q slot hq ha ho hr hs hf hm h1 hk hc]
  exact .next (accept_effect s r q g _ slot hq)

end Sys2Proof.Machine

/-!
# The end of strokes and segments, spills and returns (O18)
-/

namespace Sys2Proof.Machine

-- One declaration after the other: elaborated side by side, the row as one text takes more threads than the check allows.
set_option Elab.async false

/-! ### What stays around the end of a unit of work -/

/-- Every function keeps everything but its pending bits. -/
def SameFns (s t : State) : Prop := ∀ g, ∃ x, t.fn g = { s.fn g with pba := x }

namespace SameFns

variable {s t u : State}

theorem of_fns (h : t.fns = s.fns) : SameFns s t := fun g => ⟨(s.fn g).pba, by unfold State.fn; rw [h]⟩

theorem trans (h : SameFns s t) (k : SameFns t u) : SameFns s u := fun g => by
  obtain ⟨x, hx⟩ := h g
  obtain ⟨y, hy⟩ := k g
  exact ⟨y, by rw [hy, hx]⟩

theorem setBit (s : State) (p : PageId) (n : Nat) (h1 : ∀ n, p ≠ .fn n) (h2 : ∀ n, p ≠ .adm n) : SameFns s (s.setBit p n) := fun g => by
  obtain ⟨x, hx⟩ := fn_setStatus s p (1#32 <<< n) h1 h2 g
  have hx : (s.setBit p n).fn g = _ := hx
  rw [hx]
  split
  · exact ⟨x, rfl⟩
  · exact ⟨_, rfl⟩

theorem foldl {α : Type} {g : State → α → State} (h : ∀ t x, SameFns t (g t x)) (xs : List α) (s : State) :
    SameFns s (xs.foldl g s) := by
  induction xs generalizing s with
  | nil => exact of_fns rfl
  | cons x r ih => exact (h s x).trans (ih (g s x))

end SameFns

theorem ReqLive.of_same {s t : State} {r : Nat} {q : Req} {c : Chan} (h : ReqLive s r q c) (hr : t.reqs = s.reqs)
    (hc : t.chans = s.chans) (hp : t.pcie = s.pcie) (hf : SameFns s t) : ReqLive t r q c := by
  obtain ⟨h1, h2, h3, h4⟩ := h
  refine ⟨?_, ?_, h3, ?_⟩
  · unfold State.req at h1 ⊢; rw [hr]; exact h1
  · unfold State.chan at h2 ⊢; rw [hc]; exact h2
  · obtain ⟨x, hx⟩ := hf q.fn
    unfold State.denies at h4 ⊢
    rw [hx, hp]
    exact h4

theorem only_recErr (s : State) (p : PageId) (c d : Nat) : Only Contained.bitFields s (s.recErr p c d) := (Contained.recErr s p c d).only

theorem sameFns_recErr (s : State) (p : PageId) (c d : Nat) (h1 : ∀ n, p ≠ .fn n) (h2 : ∀ n, p ≠ .adm n) :
    SameFns s (s.recErr p c d) := by
  unfold State.recErr
  split
  · exact SameFns.of_fns rfl
  · exact SameFns.setBit s p 2 h1 h2

theorem blockPage_not_fn (k : BlockKind) (u n : Nat) : blockPage k u ≠ .fn n ∧ blockPage k u ≠ .adm n := by
  cases k <;> exact ⟨nofun, nofun⟩

/-! ### Faults that the retry cured -/

/-- The faults of a unit's first run, recorded. -/
def State.noteCured (s : State) (k : BlockKind) (u : Nat) (cs : List Nat) : State :=
  cs.foldl (fun s c => (s.recErr (blockPage k u) 0x82 c).setBit (blockPage k u) 0) s

theorem noteCured_effect (s : State) (k : BlockKind) (u : Nat) (cs : List Nat) :
    Only Contained.bitFields s (s.noteCured k u cs) ∧ SameFns s (s.noteCured k u cs) ∧
      (cs ≠ [] → ((s.noteCured k u cs).hdr (blockPage k u)).status.getLsbD 0 = true) := by
  have ho (t : State) (c : Nat) : Only Contained.bitFields t ((t.recErr (blockPage k u) 0x82 c).setBit (blockPage k u) 0) :=
    (only_recErr t _ _ _).then (only_setBit _ _ _)
  unfold State.noteCured
  refine ⟨Only.foldl (fun t c ht => ht.then (ho t c)) cs (Only.refl _ s), SameFns.foldl (fun t c => ?_) cs s, fun hne => ?_⟩
  · exact (sameFns_recErr t _ _ _ (fun n => (blockPage_not_fn k u n).1) fun n => (blockPage_not_fn k u n).2).trans
      (SameFns.setBit _ _ _ (fun n => (blockPage_not_fn k u n).1) fun n => (blockPage_not_fn k u n).2)
  · rw [← List.dropLast_append_getLast hne, List.foldl_append]
    exact status_setBit _ _ (by decide)

/-- A unit of work that ends without a further fault: the job with its faults cleared, the first run's faults recorded. -/
theorem cured_effect (s : State) (k : BlockKind) (u j : Nat) (b : Job) (h : s.job j = some b) :
    Only [.out, .fns, .chip, .hdrs, .jobs] s (s.cured k u j) ∧ SameFns s (s.cured k u j) ∧
      (s.cured k u j).job j = some { b with faults := [] } ∧
      (b.faults ≠ [] → ((s.cured k u j).hdr (blockPage k u)).status.getLsbD 0 = true) := by
  obtain ⟨ho, hf, hb⟩ := noteCured_effect s k u b.faults
  have he : s.cured k u j = (s.noteCured k u b.faults).modJob j fun b => { b with faults := [] } := by
    unfold State.cured
    rw [h]
    rfl
  have hj : (s.noteCured k u b.faults).job j = some b := by unfold State.job at h ⊢; rw [ho.same .jobs]; exact h
  rw [he]
  refine ⟨(ho.mono (by decide)).modJob (by decide) _ _, hf, ?_, hb⟩
  rw [job_modJob, if_pos rfl, hj]
  rfl

/-! ### Isolations that are not due -/

theorem foldl_id {α β : Type} (g : α → β → α) (xs : List β) (s : α) (h : ∀ x ∈ xs, g s x = s) : xs.foldl g s = s := by
  induction xs with
  | nil => rfl
  | cons x r ih =>
    rw [List.foldl_cons, h x List.mem_cons_self]
    exact ih fun y hy => h y (List.mem_cons_of_mem x hy)

/-- Where no isolation is due nothing is settled (R13). -/
theorem settle_of_noneDue {s : State} {r : Nat} (h : s.NoneDue r) : s.settle r = s := by
  obtain ⟨h1, h2, h3⟩ := h
  unfold State.settle
  have hq : (List.range 4).foldl (fun s c =>
      if (s.quad r).pendIso.getLsbD c && !s.cellHolds .quad r c then
        (s.modQuad r fun x => { x with pendIso := x.pendIso &&& ~~~(1#4 <<< c) }).isolate .quad r c
      else s) s = s := foldl_id _ _ s fun c _ => by rw [h1]; simp
  rw [hq]
  refine foldl_id _ _ s fun c hc => ?_
  have hc : c < 2 := List.mem_range.1 hc
  have : (s.slice (2 * r + c)).pendIso = false := by
    interval_cases c
    · exact h2
    · exact h3
  simp [this]

theorem State.NoneDue.of_same {s t : State} {r : Nat} (h : s.NoneDue r) (hq : (t.quad r).pendIso = (s.quad r).pendIso)
    (hs : ∀ i, (t.slice i).pendIso = (s.slice i).pendIso) : t.NoneDue r := by
  obtain ⟨h1, h2, h3⟩ := h
  exact ⟨hq.trans h1, (hs _).trans h2, (hs _).trans h3⟩

theorem State.NoneDue.of_only {l : List Field} {s t : State} {r : Nat} (h : s.NoneDue r) (k : Only l s t) (hq : .quads ∉ l := by decide)
    (hs : .slices ∉ l := by decide) : t.NoneDue r :=
  h.of_same (by unfold State.quad; rw [k.same .quads hq]) fun i => by unfold State.slice; rw [k.same .slices hs]

theorem State.NoneDue.of_work {s t : State} {r : Nat} (h : s.NoneDue r) (k : WorkDone s t) : t.NoneDue r :=
  h.of_same (by obtain ⟨x, y, e⟩ := k.quads r; rw [e]) fun i => by obtain ⟨x, y, z, w, e⟩ := k.slices i; rw [e]

/-! ### Context cache entries -/

/-- From `s` to `t` contexts other than job `j`'s have given way. -/
structure RoomMade (s t : State) (j : Nat) : Prop where
  only : Only [.chans, .jobs, .msh, .out, .slices] s t
  job : t.job j = s.job j
  msh : ∃ a b c, t.msh = { s.msh with lru := a, frames := b, blobCtr := c }
  slices : ∀ i, ∃ x, t.slice i = { s.slice i with frames := x }
  out : s.out ⊆ t.out

namespace RoomMade

variable {s t u : State} {j : Nat}

theorem refl (s : State) (j : Nat) : RoomMade s s j := ⟨Only.refl _ s, rfl, ⟨_, _, _, rfl⟩, fun _ => ⟨_, rfl⟩, List.Subset.refl _⟩

theorem trans (h : RoomMade s t j) (k : RoomMade t u j) : RoomMade s u j where
  only := h.only.trans k.only
  job := k.job.trans h.job
  msh := by
    obtain ⟨a, b, c, e⟩ := h.msh; obtain ⟨a', b', c', e'⟩ := k.msh
    exact ⟨a', b', c', by rw [e', e]⟩
  slices i := by
    obtain ⟨x, e⟩ := h.slices i; obtain ⟨y, e'⟩ := k.slices i
    exact ⟨y, by rw [e', e]⟩
  out := List.Subset.trans h.out k.out

theorem of_only (h : Only [.chans, .out] s t) (ho : s.out ⊆ t.out) : RoomMade s t j where
  only := h.mono (by decide)
  job := by unfold State.job; rw [h.same .jobs]
  msh := ⟨_, _, _, h.same .msh⟩
  slices i := ⟨_, by unfold State.slice; rw [h.same .slices]⟩
  out := ho

theorem onMsh (s : State) (j : Nat) (g : Msh → Msh) (hg : ∃ a b c, g s.msh = { s.msh with lru := a, frames := b, blobCtr := c }) :
    RoomMade s (s.onMsh g) j :=
  { refl s j with
    only := (Only.refl _ s).onMsh (by decide) g
    msh := hg }

theorem modJob (s : State) {j v : Nat} (hv : v ≠ j) (g : Job → Job) : RoomMade s (s.modJob v g) j :=
  { refl s j with
    only := (Only.refl _ s).modJob (by decide) v g
    job := (job_modJob s v j g).trans (if_neg (Ne.symm hv)) }

theorem foldl {α : Type} {g : State → α → State} (h : ∀ t x, RoomMade t (g t x) j) (xs : List α) (s : State) :
    RoomMade s (xs.foldl g s) j := by
  induction xs generalizing s with
  | nil => exact refl s j
  | cons x r ih => exact (h s x).trans (ih (g s x))

theorem spillPart (s : State) {j v : Nat} (hv : v ≠ j) (b : Job) (c : Chan) (n seq part : Nat) :
    RoomMade s (s.spillPart v b c n seq part) j := by
  unfold State.spillPart
  split
  · exact refl s j
  · extract_lets ctr blob s1
    have h1 : RoomMade s s1 j := onMsh s j _ ⟨_, _, _, rfl⟩
    exact (h1.trans (of_only ((Only.refl _ s1).dmaWrite (by decide) _ _ _ _) (out_dmaWrite _ _ _ _ _))).trans (modJob _ hv _)

theorem spill (s : State) {j v : Nat} (hv : v ≠ j) : RoomMade s (s.spill v) j := by
  unfold State.spill
  split
  · exact refl s j
  · split
    · exact refl s j
    · rename_i b _ c _
      extract_lets s1 s2
      have h1 : RoomMade s s1 j := foldl (fun t p => spillPart t hv _ c _ _ p) _ s
      have h2 : RoomMade s s2 j :=
        (h1.trans (of_only ((Only.refl _ s1).modChan (by decide) _ _ _) (List.Subset.refl _))).trans (onMsh _ j _ ⟨_, _, _, rfl⟩)
      split
      · refine h2.trans { refl s2 j with only := (Only.refl _ s2).onSlices (by decide) _, slices := fun i => ?_ }
        have h : (s2.onSlices (·.mapVals {} fun _ x => { x with frames := x.frames.filter (· != v) })).slice i =
          { s2.slice i with frames := (s2.slice i).frames.filter (· != v) } := SMap.get_mapVals _ _ i rfl
        exact ⟨_, h⟩
      · exact h2

theorem makeRoom (s : State) (j n : Nat) : RoomMade s (s.makeRoom j n) j := by
  induction n generalizing s with
  | zero => exact refl s j
  | succ n ih =>
    unfold State.makeRoom
    split
    · exact refl s j
    · split
      · rename_i v hv
        have hne : v ≠ j := by
          have h := List.find?_some hv
          simp only [Bool.and_eq_true, bne_iff_ne, ne_eq] at h
          exact h.1
        exact (spill s hne).trans (ih _)
      · exact refl s j

end RoomMade

/-- What entries are given to job `j`: it has its own, or waits. -/
def State.Served (s : State) (j : Nat) (b : Job) : Prop :=
  ∃ r, s.job j = some { b with resident := r } ∧ (r = true ∨ j ∈ s.msh.entryWait)

theorem served_giveEntries (s : State) (j : Nat) (b : Job) (h : s.Served j b) : s.giveEntries.Served j b := by
  have step (t : State) (k : Nat) (h : t.Served j b) : State.Served (match t.job k with
      | none => t
      | some b =>
        if t.resident + b.entries ≤ cacheEntries then
          (t.modJob k fun b => { b with resident := true }).onMsh fun m =>
            { m with lru := m.lru.filter (· != k) ++ [k], entryWait := m.entryWait.filter (· != k) }
        else t) j b := by
    obtain ⟨r, hr, hw⟩ := h
    split
    · exact ⟨r, hr, hw⟩
    · split
      · have hj := job_modJob t k j fun b => { b with resident := true }
        by_cases hk : j = k
        · subst hk
          rw [if_pos rfl, hr] at hj
          exact ⟨true, hj, .inl rfl⟩
        · rw [if_neg hk, hr] at hj
          exact ⟨r, hj, hw.imp id fun hm => List.mem_filter.2 ⟨hm, by simpa using hk⟩⟩
      · exact ⟨r, hr, hw⟩
  unfold State.giveEntries
  generalize s.msh.entryWait = l
  induction l generalizing s with
  | nil => exact h
  | cons k l ih => exact ih _ (step s k h)

theorem only_giveEntries (s : State) : Only [.jobs, .msh] s s.giveEntries := by
  unfold State.giveEntries
  refine Only.foldl (fun t j ht => ?_) _ (Only.refl _ s)
  split
  · exact ht
  · exact ((ht.modJob (by decide) _ _).onMsh (by decide) _).ite ht

/-- A job that does not wait keeps what it has when entries are given. -/
theorem job_giveEntries (s : State) (j : Nat) (h : j ∉ s.msh.entryWait) : s.giveEntries.job j = s.job j := by
  unfold State.giveEntries
  generalize s.msh.entryWait = l at h
  induction l generalizing s with
  | nil => rfl
  | cons k l ih =>
    rw [List.foldl_cons, ih _ fun hm => h (List.mem_cons_of_mem _ hm)]
    split
    · rfl
    · split
      · exact (job_modJob s k j _).trans (if_neg fun e => h (by rw [e]; exact List.mem_cons_self))
      · rfl

/-- A job's context takes entries or waits for them; of the units only frames in slices give way (R144, R145, R148). -/
theorem takeEntries_effect (s : State) (j n : Nat) (b : Job) (h : s.job j = some b) :
    (s.takeEntries j n).Served j { b with frame := none, entries := n } ∧
      Only [.chans, .jobs, .msh, .out, .slices] s (s.takeEntries j n) ∧
      (∀ i, ∃ x, (s.takeEntries j n).slice i = { s.slice i with frames := x }) ∧
      (s.takeEntries j n).msh.creditPair = s.msh.creditPair ∧ (s.takeEntries j n).msh.fillCnt = s.msh.fillCnt := by
  unfold State.takeEntries
  extract_lets s1 s2
  have hj : s1.job j = some { b with resident := false, frame := none, entries := n } :=
    (job_modJob s j j _).trans (by rw [if_pos rfl, h]; rfl)
  have h2 : s2.Served j { b with frame := none, entries := n } :=
    ⟨false, hj, .inr (List.mem_append_right _ List.mem_cons_self)⟩
  have hm2 : s2.msh.creditPair = s.msh.creditPair ∧ s2.msh.fillCnt = s.msh.fillCnt := ⟨rfl, rfl⟩
  have hs2 (i : Nat) : s2.slice i = s.slice i := rfl
  have ho2 : Only [.chans, .jobs, .msh, .out, .slices] s s2 := ((Only.refl _ s).modJob (by decide) _ _).onMsh (by decide) _
  clear_value s2
  have h3 := served_giveEntries s2 j _ h2
  have ho3 := only_giveEntries s2
  have hw3 : s2.giveEntries.msh.fillCnt = s2.msh.fillCnt ∧ s2.giveEntries.msh.creditPair = s2.msh.creditPair := by
    unfold State.giveEntries
    generalize s2.msh.entryWait = l
    clear h3 ho3 h2 hm2 hs2 ho2
    induction l generalizing s2 with
    | nil => exact ⟨rfl, rfl⟩
    | cons k l ih =>
      rw [List.foldl_cons, (ih _).1, (ih _).2]
      split
      · exact ⟨rfl, rfl⟩
      · split <;> exact ⟨rfl, rfl⟩
  have h4 := RoomMade.makeRoom s2.giveEntries j 16
  generalize s2.giveEntries.makeRoom j 16 = s4 at h4
  obtain ⟨a, e, f, hm4⟩ := h4.msh
  refine ⟨?_, (ho2.then ho3).trans h4.only, fun i => ?_, ?_, ?_⟩
  · obtain ⟨r, hr, hw⟩ := h3
    exact ⟨r, h4.job.trans hr, by rw [hm4]; exact hw⟩
  · obtain ⟨x, hx⟩ := h4.slices i
    refine ⟨x, ?_⟩
    rw [hx, ← hs2 i]
    unfold State.slice
    rw [ho3.same .slices]
  · rw [hm4]; exact hw3.2.trans hm2.1
  · rw [hm4]; exact hw3.1.trans hm2.2

/-! ### Spills and returns -/

theorem spillWriteSent_effect (s : State) (j : Nat) (b : Job) (h : s.job j = some b) (hf : b.frame.isSome = true)
    (hr : b.resident = true) (hw : s.msh.entryWait.contains j = false) : Answers (exec (.spillWriteSent j true) s) fun t =>
      t.job j = some { b with resident := false } ∧ t.msh.spillCnt = s.msh.spillCnt + BitVec.ofNat 64 b.entries ∧
        Only [.jobs, .msh, .heat] s t := by
  change Answers (execSpillWriteSent j true s) _
  unfold execSpillWriteSent
  rw [h]
  dsimp only
  rw [if_neg (by simp [hr, Option.isSome_iff_ne_none.1 hf]), if_pos rfl]
  generalize hs3 : State.meter ((s.modJob j fun b => { b with resident := false }).onMsh fun m =>
    { m with spillCnt := m.spillCnt + BitVec.ofNat 64 b.entries }) b.fn b.ch [(12, b.entries)] = s3
  have hj : s3.job j = some { b with resident := false } := by
    rw [← hs3]
    exact (job_modJob s j j _).trans (by rw [if_pos rfl, h]; rfl)
  have hm : s3.msh = { s.msh with spillCnt := s.msh.spillCnt + BitVec.ofNat 64 b.entries } := by rw [← hs3]; rfl
  have ho : Only [.jobs, .msh, .heat] s s3 := by
    rw [← hs3]
    exact (((Only.refl _ s).modJob (by decide) _ _).onMsh (by decide) _).onHeat (by decide) _
  clear hs3
  refine .next ⟨?_, ?_, ho.then (only_giveEntries s3)⟩
  · rw [job_giveEntries s3 j (by rw [hm]; simpa using hw)]
    exact hj
  · obtain ⟨a, b, c, d, e, f, hx⟩ := (WorkDone.giveEntries s3).msh
    rw [hx, hm]

theorem firstStatus_eq_zero {α : Type} (f : α → Nat) (l : List α) :
    l.foldl (fun acc x => if acc ≠ 0 then acc else f x) 0 = 0 ↔ l.filter (fun x => f x != 0) = [] := by
  have hne (n : Nat) (hn : n ≠ 0) (l : List α) : l.foldl (fun acc x => if acc ≠ 0 then acc else f x) n ≠ 0 := by
    rw [foldl_id _ l n fun x _ => if_pos hn]; exact hn
  induction l with
  | nil => simp
  | cons x l ih =>
    rw [List.foldl_cons, if_neg (by simp), List.filter_cons]
    by_cases hx : f x = 0
    · rw [hx, if_neg (by simp)]; exact ih
    · rw [if_pos (by simp [hx])]
      exact ⟨fun h => absurd h (hne _ hx l), fun h => by cases h⟩

theorem frameReadback_effect (s : State) (j : Nat) (b : Job) (c : Chan) (data : List Byte) (h : s.job j = some b)
    (hc : s.chan b.fn b.ch = some c) (hf : s.framesOf j ≠ []) (hr : b.resident = false) :
    Answers (exec (.frameReadback j data) s) fun t =>
      let bad := (s.framesOf j).filter fun kv => s.checkBlob (cut data (576 * kv.2.part) 576) false b.fn b.domain c.handle
        (some kv.2.seq) (some kv.2.blobCtr) != 0
      t.msh.fillCnt = s.msh.fillCnt + BitVec.ofNat 64 (s.framesOf j).length ∧
      (bad = [] → ∃ x, t.job j = some x ∧ (x.resident = true ∨ j ∈ t.msh.entryWait) ∧ x.frame = none ∧ x.entries = b.entries ∧ x.ctx = b.ctx) ∧
      (bad ≠ [] → (t.hdr .msh).status.getLsbD 9 = true) ∧ Only workFields s t := by
  change Answers (execFrameReadback j data s) _
  unfold execFrameReadback
  rw [h]
  dsimp only
  rw [if_neg (by simp [hr, hf]), hc]
  dsimp only
  have hz := firstStatus_eq_zero (fun kv : Nat × Frame => s.checkBlob (cut data (576 * kv.2.part) 576) false b.fn b.domain c.handle
    (some kv.2.seq) (some kv.2.blobCtr)) (s.framesOf j)
  generalize hs1 : s.onMsh (fun m =>
    { m with frames := m.frames.mapVals none (dropFrame j), fillCnt := m.fillCnt + BitVec.ofNat 64 (s.framesOf j).length }) = s1
  have hj : s1.job j = some b := by rw [← hs1]; exact h
  have hm : s1.msh.fillCnt = s.msh.fillCnt + BitVec.ofNat 64 (s.framesOf j).length := by rw [← hs1]; rfl
  have ho : Only workFields s s1 := by rw [← hs1]; exact (Only.refl _ s).onMsh (by decide) _
  clear hs1
  generalize (s.framesOf j).foldl (fun acc kv => if acc ≠ 0 then acc else s.checkBlob (cut data (576 * kv.2.part) 576)
    false b.fn b.domain c.handle (some kv.2.seq) (some kv.2.blobCtr)) 0 = st at hz ⊢
  by_cases hst : st = 0
  · rw [if_pos hst]
    obtain ⟨⟨r, hr, hw⟩, hto, -, -, hfc⟩ := takeEntries_effect s1 j b.entries b hj
    exact .next ⟨hfc.trans hm, fun _ => ⟨_, hr, hw, rfl, rfl, rfl⟩, fun hb => absurd (hz.1 hst) hb, ho.then hto⟩
  · rw [if_neg hst]
    have hf := WorkDone.failJob (s1.setBit .msh 9) j { st := st }
    have hw := (WorkDone.setBit s1 .msh 9).trans hf
    refine .next ⟨?_, fun hb => absurd (hz.2 hb) hst, fun _ => (hf.pages .msh).2.2 9 (status_setBit s1 .msh (by decide)),
      ho.then hw.only⟩
    obtain ⟨x1, x2, x3, x4, x5, x6, hx⟩ := hw.msh
    rw [hx]
    exact hm

/-! ### Segments -/

/-- A segment's time is charged to its domain, and the slice is free (R139, R252). -/
theorem chargeSegment_effect (s : State) (i j ns : Nat) (b : Job) (h : s.job j = some b) :
    (s.chargeSegment i j ns).job j = some { b with running := false, busyNs := b.busyNs + ns, segments := b.segments + 1 } ∧
      (∀ k, (s.chargeSegment i j ns).slice k = if k = i then { s.slice i with
        running := none, busy := false, keyArea := [], busyNs := (s.slice i).busyNs + BitVec.ofNat 64 ns } else s.slice k) ∧
      (s.chargeSegment i j ns).msh.creditPair = s.msh.creditPair.set 0 b.domain (s.msh.creditPair.get 0 b.domain - (ns : Int)) ∧
      Only [.heat, .jobs, .msh, .slices] s (s.chargeSegment i j ns) := by
  have he : s.chargeSegment i j ns = (((s.setCredits .pair
      (s.msh.creditPair.set 0 b.domain (s.msh.creditPair.get 0 b.domain - (ns : Int)))).modSlice i fun x =>
        { x with running := none, busy := false, keyArea := [], busyNs := x.busyNs + BitVec.ofNat 64 ns }).modJob j
      fun b => { b with running := false, busyNs := b.busyNs + ns, segments := b.segments + 1 }).meter b.fn b.ch [(3, ns)] := by
    unfold State.chargeSegment
    rw [h]
  rw [he]
  generalize hs : s.setCredits .pair (s.msh.creditPair.set 0 b.domain (s.msh.creditPair.get 0 b.domain - (ns : Int))) = s1
  have hj1 : s1.job j = some b := by rw [← hs]; exact h
  have hm1 : s1.msh.creditPair = s.msh.creditPair.set 0 b.domain (s.msh.creditPair.get 0 b.domain - (ns : Int)) := by rw [← hs]; rfl
  have hs1 (k : Nat) : s1.slice k = s.slice k := by rw [← hs]; rfl
  have ho1 : Only [.heat, .jobs, .msh, .slices] s s1 := by rw [← hs]; exact (Only.refl _ s).onMsh (by decide) _
  refine ⟨(job_modJob _ j j _).trans ?_, fun k => ?_, hm1,
    ((ho1.modSlice (by decide) _ _).modJob (by decide) _ _).onHeat (by decide) _⟩
  · rw [if_pos rfl]; exact congrArg _ hj1
  · have h := slice_modSlice s1 i k fun x =>
      { x with running := none, busy := false, keyArea := [], busyNs := x.busyNs + BitVec.ofNat 64 ns }
    rw [hs1, hs1] at h
    exact h

/-- The slice yields: up to its settling, PKE_SEGMENT_END. -/
def State.yieldSlice (s : State) (i j ns n : Nat) : State :=
  ((s.cured .pair (i / 2) j).chargeSegment i j ns).modJob j fun b => { b with yield := min n 2048 }

theorem yieldSlice_effect (s : State) (i j ns n : Nat) (b : Job) (hj : s.job j = some b) :
    (s.yieldSlice i j ns n).job j = some { b with
      faults := [], running := false, busyNs := b.busyNs + ns, segments := b.segments + 1, yield := min n 2048 } ∧
      (∀ k, (s.yieldSlice i j ns n).slice k = if k = i then { s.slice i with
        running := none, busy := false, keyArea := [], busyNs := (s.slice i).busyNs + BitVec.ofNat 64 ns } else s.slice k) ∧
      (s.yieldSlice i j ns n).msh.creditPair = s.msh.creditPair.set 0 b.domain (s.msh.creditPair.get 0 b.domain - (ns : Int)) ∧
      (b.faults ≠ [] → ((s.yieldSlice i j ns n).hdr (.pke (i / 2))).status.getLsbD 0 = true) ∧
      Only [.chip, .fns, .hdrs, .heat, .jobs, .msh, .out, .slices] s (s.yieldSlice i j ns n) := by
  obtain ⟨ho0, -, hj0, hb0⟩ := cured_effect s .pair (i / 2) j b hj
  have hs0 (k : Nat) : (s.cured .pair (i / 2) j).slice k = s.slice k := by unfold State.slice; rw [ho0.same .slices]
  have hm0 := ho0.same .msh
  unfold State.yieldSlice
  generalize s.cured .pair (i / 2) j = s0 at ho0 hj0 hb0 hs0 hm0
  obtain ⟨hj1, hs1, hc1, ho1⟩ := chargeSegment_effect s0 i j ns _ hj0
  generalize s0.chargeSegment i j ns = s1 at hj1 hs1 hc1 ho1
  refine ⟨?_, fun k => ?_, hc1.trans (by rw [hm0]), fun hne => ?_, (((ho0.mono (by decide)).then ho1).modJob (by decide) _ _)⟩
  · rw [job_modJob, if_pos rfl, hj1]; rfl
  · exact (hs1 k).trans (by rw [hs0, hs0])
  · show (s1.hdr _).status.getLsbD 0 = true
    rw [hdr_of_hdrs (ho1.same .hdrs)]
    exact hb0 hne

theorem pkeSegmentEnd_effect (s : State) (i ns n j : Nat) (b : Job) (hi : (s.slice i).running = some j) (hj : s.job j = some b)
    (ha : ∀ q, s.req b.req = some q → q.abort = false) (hn : s.NoneDue (i / 2)) : Answers (exec (.pkeSegmentEnd i ns n) s) fun t =>
      (t.slice i).running = none ∧ (t.slice i).busy = false ∧ (t.slice i).keyArea = [] ∧
      (t.slice i).busyNs = (s.slice i).busyNs + BitVec.ofNat 64 ns ∧
      (∃ x, t.job j = some x ∧ x.running = false ∧ x.busyNs = b.busyNs + ns ∧ x.segments = b.segments + 1 ∧
        x.yield = min n 2048 ∧ x.entries = ({ b with yield := min n 2048 } : Job).pkeEntries) ∧
      (b.faults ≠ [] → (t.hdr (.pke (i / 2))).status.getLsbD 0 = true) ∧
      t.msh.creditPair.get 0 b.domain = s.msh.creditPair.get 0 b.domain - (ns : Int) ∧
      Only [.chans, .chip, .fns, .hdrs, .heat, .jobs, .msh, .out, .slices] s t := by
  change Answers (execPkeSegmentEnd i ns n s) _
  unfold execPkeSegmentEnd
  rw [hi]
  dsimp -zeta only
  extract_lets s1 s2 abort
  have h1 : s1 = s.yieldSlice i j ns n := rfl
  obtain ⟨hj1, hs1, hc1, hb1, ho1⟩ := yieldSlice_effect s i j ns n b hj
  rw [← h1] at hj1 hs1 hc1 hb1 ho1
  clear_value s1
  have h2 : s2 = s1.takeEntries j ({ b with yield := min n 2048 } : Job).pkeEntries := by dsimp only [s2]; rw [hj1]; rfl
  obtain ⟨⟨r, hr, -⟩, ho2, hs2, hc2, -⟩ := takeEntries_effect s1 j ({ b with yield := min n 2048 } : Job).pkeEntries _ hj1
  rw [← h2] at hr ho2 hs2 hc2
  have hab : abort = false := by
    dsimp only [abort]
    clear_value s2
    rw [hr]
    simp only [Option.bind_some]
    rw [show s2.req b.req = s.req b.req by unfold State.req; rw [ho2.same .reqs, ho1.same .reqs]]
    split
    · exact ha _ ‹_›
    · rfl
  clear_value abort s2
  have hnd : s2.NoneDue (i / 2) := hn.of_same (by unfold State.quad; rw [ho2.same .quads, ho1.same .quads]) fun k => by
    obtain ⟨x, hx⟩ := hs2 k
    rw [hx]
    show (s1.slice k).pendIso = _
    rw [hs1 k]
    split
    · subst_vars; rfl
    · rfl
  rw [hab, if_neg Bool.false_ne_true, settle_of_noneDue hnd]
  obtain ⟨x, hx⟩ := hs2 i
  rw [hs1 i, if_pos rfl] at hx
  refine .next ⟨by rw [hx], by rw [hx], by rw [hx], by rw [hx], ⟨_, hr, rfl, rfl, rfl, rfl, rfl⟩, fun hb => ?_, ?_,
    (ho1.mono (by decide)).trans (ho2.mono (by decide))⟩
  · rw [hdr_of_hdrs (ho2.same .hdrs)]
    exact hb1 hb
  · rw [hc2, hc1, SMap.get_set, if_pos rfl]

/-! ### The last stroke of an EXTEND message -/

theorem only_unplace (s : State) (j : Nat) : Only [.eights, .jobs, .quads, .slices] s (s.unplace j) := by
  have h1 : Only [.eights, .jobs, .quads, .slices] s
      (s.onEights (·.mapVals {} fun _ x => { x with slots := x.slots.mapVals {} (Slot.dropJob j) })) :=
    (Only.refl _ s).onEights (by decide) _
  unfold State.unplace
  extract_lets s1
  split
  · exact h1
  · extract_lets s2 s3
    have h2 : Only [.eights, .jobs, .quads, .slices] s s2 := by
      dsimp only [s2]
      split
      · split
        · exact (h1.modQuad (by decide) _ _).then (Contained.giveDirect _).only
        · exact h1
      · exact h1
    exact ((h2.onSlices (by decide) _).ite h2).modJob (by decide) _ _

/-- A register that is extended: the hash of its value and the padded digest, and one more in its count (R238). -/
theorem extendReg_effect (s : State) (n : Nat) (d : List Byte) :
    (s.extendReg n d).mreg n = { s.mreg n with val := sha3_512 ((s.mreg n).val ++ padTo 64 d), cnt := (s.mreg n).cnt + 1 } ∧
      (∀ m, m ≠ n → (s.extendReg n d).mreg m = s.mreg m) ∧ Only [.chip, .fns, .hdrs, .meas, .out] s (s.extendReg n d) ∧
      SameFns s (s.extendReg n d) := by
  have hm1 (m : Nat) := mreg_modMeas s n m fun m => { m with val := sha3_512 (m.val ++ padTo 64 d), cnt := m.cnt + 1 }
  have ho1 : Only [.chip, .fns, .hdrs, .meas, .out] s (s.modMeas n fun m =>
    { m with val := sha3_512 (m.val ++ padTo 64 d), cnt := m.cnt + 1 }) := (Only.refl _ s).modMeas (by decide) _ _
  have hf1 : (s.modMeas n fun m => { m with val := sha3_512 (m.val ++ padTo 64 d), cnt := m.cnt + 1 }).fns = s.fns := rfl
  unfold State.extendReg
  generalize s.modMeas n _ = s1 at hm1 ho1 hf1
  have ho := only_setBit s1 (.meas (if n < 32 then 0 else 1)) 8
  have hm (m : Nat) : (s1.setBit (.meas (if n < 32 then 0 else 1)) 8).mreg m = s1.mreg m := by
    unfold State.mreg; rw [ho.same .meas]
  refine ⟨?_, fun m hne => ?_, ho1.then ho, (SameFns.of_fns hf1).trans (SameFns.setBit _ _ _ nofun nofun)⟩
  · rw [hm, hm1, if_pos rfl]
  · rw [hm, hm1, if_neg hne]

/-- An ended job has left the chip. -/
theorem job_endJob (s : State) (j : Nat) : (s.endJob j).job j = none := by
  unfold State.endJob
  split
  · assumption
  · extract_lets s1 s2 s3 s4
    have h4 : s4.job j = none := by
      rcases (WorkDone.giveEntries (s3.onJobs (·.set none j none))).jobs j with h | ⟨b, x, y, h, -⟩
      · exact h
      · rw [job_remove, if_pos rfl] at h; cases h
    clear_value s4
    split
    · rcases (WorkDone.reapProg s4 _).jobs j with h | ⟨b, x, y, h, -⟩
      · exact h
      · rw [h4] at h; cases h
    · exact h4

/-- The job of a message that does not go on ends with its last part. -/
theorem finish1_endsJob (s : State) (r : Nat) (q : Req) (c : Chan) (x0 x : Fin) (j : Nat) (hl : ReqLive s r q c)
    (hx : s.EndsAs q x0 x) (hj : q.job = some j) (hg : s.jobGoesOn q x = false) : (s.finish1 r x0).job j = none := by
  have hm : s.messageOf q x = some j := by unfold State.messageOf; rw [hj]
  rw [finish1_eq s r q c x0 x hl hx, hm]
  dsimp only
  rw [hg, if_neg Bool.false_ne_true]
  rcases (reapOwn_work (((s.answered q x).endJob j).onReqs (·.set none r none)) q).jobs j with h | ⟨b, y, z, h, -⟩
  · exact h
  · rw [show (((s.answered q x).endJob j).onReqs (·.set none r none)).job j = ((s.answered q x).endJob j).job j from rfl,
      job_endJob] at h
    cases h

/-- What a stroke of a digest cell leaves before its result is delivered. -/
def State.tookStroke (s : State) (c j : Nat) (b : Job) (q : Req) : State :=
  ((((s.cured .quad (c / 4) j).meter q.fn q.ch [(0, b.held.length + (if b.first then q.aadLen else 0))]).unplace j).modQuad (c / 4)
    fun x => { x with bytes := x.bytes + BitVec.ofNat 64 b.held.length }).modJob j fun b' =>
      { b' with begun := true, absorbed := b'.absorbed ++ b'.held, held := [], done := b'.done + b.held.length
                partDone := b'.partDone + b.held.length }

theorem tookStroke_effect (s : State) (c j : Nat) (b : Job) (q : Req) (h : s.job j = some b) (hn : s.NoneDue (c / 4)) :
    Only [.chip, .eights, .fns, .hdrs, .heat, .jobs, .out, .quads, .slices] s (s.tookStroke c j b q) ∧
      SameFns s (s.tookStroke c j b q) ∧ (s.tookStroke c j b q).NoneDue (c / 4) := by
  obtain ⟨h0, hf0, -, -⟩ := cured_effect s .quad (c / 4) j b h
  unfold State.tookStroke
  generalize s.cured .quad (c / 4) j = s0 at h0 hf0
  have h1 : Only [.heat] s0 (s0.meter q.fn q.ch [(0, b.held.length + (if b.first then q.aadLen else 0))]) :=
    (Only.refl _ s0).onHeat (by decide) _
  have hf1 := hf0.trans (SameFns.of_fns (h1.same .fns))
  have hn1 := (hn.of_only h0).of_only h1
  have h1 := (h0.mono (by decide)).then (l := [.chip, .eights, .fns, .hdrs, .heat, .jobs, .out, .quads, .slices]) h1
  generalize s0.meter q.fn q.ch _ = s1 at h1 hf1 hn1
  have h2 := only_unplace s1 j
  have hn2 := hn1.of_work (WorkDone.unplace s1 j)
  generalize s1.unplace j = s2 at h2 hn2
  refine ⟨((h1.then h2).modQuad (by decide) _ _).modJob (by decide) _ _, hf1.trans (SameFns.of_fns (h2.same .fns)), ?_⟩
  refine hn2.of_same ?_ fun i => rfl
  have h := quad_modQuad s2 (c / 4) (c / 4) fun x => { x with bytes := x.bytes + BitVec.ofNat 64 b.held.length }
  rw [if_pos rfl] at h
  exact (congrArg Quad.pendIso h :)

theorem cqeDwords_digest (s t : State) (q : Req) (x : Fin) (h : q.typ = 2) : s.cqeDwords q x = t.cqeDwords q x := by
  unfold State.cqeDwords State.authPair State.comparison
  rw [h]
  rfl

theorem endsAs_extend (s : State) {q : Req} (ht : q.typ = 2) (hs : q.subop = 1) : s.EndsAs q { st := 0 } { st := 0, r0 := q.mreg } := by
  constructor
  · unfold State.resultOf
    rw [ht]
    simp [hs]
  · unfold State.zeroWritten
    split
    · rfl
    · exact if_neg (by simp)

theorem endQuad_extend (s : State) (cell j : Nat) (js : List Nat) (b : Job) (q : Req)
    (hjs : s.jobsWhere (fun b => b.kind == .quad && b.running && b.home == some cell) = j :: js) (hb : s.job j = some b)
    (hq : s.req b.req = some q) (ha : q.abort = false) (hm : q.more = false) (hs : q.subop = 1)
    (hl : b.partDone + b.held.length = b.partLen) :
    s.endQuad cell [] .none = (((s.tookStroke cell j b q).extendReg q.mreg
      (digestOf q.alg b.dkey b.iv (b.absorbed ++ b.held) (if algXof q.alg then q.xof else 0))).finish1 b.req { st := 0 }).settle
        (cell / 4) := by
  have hd (t : State) : t.deliver { b with absorbed := b.absorbed ++ b.held } q [] = (t.extendReg q.mreg
      (digestOf q.alg b.dkey b.iv (b.absorbed ++ b.held) (if algXof q.alg then q.xof else 0))).finish1 b.req { st := 0 } := by
    unfold State.deliver
    rw [hs]
    exact finish_of_ok _ b.req _ (by decide : (0 : Nat) ≤ 1)
  unfold State.endQuad
  rw [hjs]
  dsimp only
  rw [hb]
  dsimp only
  rw [hq]
  dsimp only
  rw [if_neg (by simp [ha]), if_pos (by simp [hl, hm])]
  congr 1
  exact hd (s.tookStroke cell j b q)

theorem strokeEnd_effect (s : State) (cell j : Nat) (js : List Nat) (b : Job) (q : Req) (c : Chan)
    (hjs : s.jobsWhere (fun b => b.kind == .quad && b.running && b.home == some cell) = j :: js) (hb : s.job j = some b)
    (hlv : ReqLive s b.req q c) (hj : q.job = some j) (ha : q.abort = false) (hm : q.more = false) (hs : q.subop = 1)
    (ht : q.typ = 2) (hl : b.partDone + b.held.length = b.partLen) (hn : s.NoneDue (cell / 4)) :
    Answers (exec (.strokeEnd (.cell cell) [] .none) s) fun t =>
      (t.mreg q.mreg).val = sha3_512 ((s.mreg q.mreg).val ++
        padTo 64 (digestOf q.alg b.dkey b.iv (b.absorbed ++ b.held) (if algXof q.alg then q.xof else 0))) ∧
      (t.mreg q.mreg).cnt = (s.mreg q.mreg).cnt + 1 ∧ (t.mreg q.mreg).acl = (s.mreg q.mreg).acl ∧
      (∀ n, n ≠ q.mreg → t.mreg n = s.mreg n) ∧ ReqEnds s t b.req q c { st := 0, r0 := q.mreg } ∧ t.job j = none ∧
      Only [.chans, .chip, .eights, .fns, .hdrs, .heat, .jobs, .meas, .msh, .out, .progs, .quads, .reqs, .slices] s t := by
  change Answers (.next (s.endQuad cell [] .none)) _
  rw [endQuad_extend s cell j js b q hjs hb hlv.1 ha hm hs hl]
  obtain ⟨h1, hf1, hn1⟩ := tookStroke_effect s cell j b q hb hn
  have hr1 (n : Nat) : (s.tookStroke cell j b q).mreg n = s.mreg n := by unfold State.mreg; rw [h1.same .meas]
  generalize s.tookStroke cell j b q = s1 at h1 hf1 hn1 hr1
  generalize digestOf q.alg b.dkey b.iv (b.absorbed ++ b.held) (if algXof q.alg then q.xof else 0) = d
  obtain ⟨hv2, hr2, h2, hf2⟩ := extendReg_effect s1 q.mreg d
  have hn2 := hn1.of_only h2
  generalize s1.extendReg q.mreg d = s2 at hv2 hr2 h2 hf2 hn2
  have hlv2 : ReqLive s2 b.req q c := hlv.of_same ((h2.same .reqs).trans (h1.same .reqs)) ((h2.same .chans).trans (h1.same .chans))
    ((h2.same .pcie).trans (h1.same .pcie)) (hf1.trans hf2)
  have hx := endsAs_extend s2 ht hs
  have hends := finish1_ends s2 b.req q c _ _ hlv2 hx
  have hjob := finish1_endsJob s2 b.req q c _ _ j hlv2 hx hj (by unfold State.jobGoesOn; simp [hm, ht])
  have hw := WorkDone.finish1 s2 b.req { st := 0 }
  generalize s2.finish1 b.req { st := 0 } = s3 at hends hjob hw
  have hr3 (n : Nat) : s3.mreg n = s2.mreg n := by unfold State.mreg; rw [hw.only.same .meas]
  rw [settle_of_noneDue (hn2.of_work hw)]
  refine .next ⟨by rw [hr3, hv2, hr1], by rw [hr3, hv2, hr1], by rw [hr3, hv2, hr1], fun n hne => by rw [hr3, hr2 n hne, hr1], ?_, hjob,
    (((h1.mono (by decide)).then h2).then hw.only)⟩
  unfold ReqEnds at hends ⊢
  rw [cqeDwords_digest s s2 q _ ht]
  exact hends

/-- Settles O18: one lemma for each command. -/
theorem strokesAndSegmentsEnd : Obligations.StrokesAndSegmentsEnd := by
  unfold Obligations.StrokesAndSegmentsEnd
  refine ⟨fun s cell j js b q c _ hjs hb hlv hj ha hm hs ht hl hn => ?_, pkeSegmentEnd_effect, spillWriteSent_effect, frameReadback_effect⟩
  exact strokeEnd_effect s cell j js b q c hjs hb hlv hj ha hm hs ht hl hn

end Sys2Proof.Machine

/-!
# What a start of the root-of-trust domain leaves alone

One relation for everything that a start does after both domains have been reset, and what a start as a whole gives (R20, R22, R306).
-/

namespace Sys2Proof.Machine

-- One declaration after the other: elaborated side by side, the row as one text takes more threads than the check allows.
set_option Elab.async false

/-- The parts of which the steps of a start may change anything. -/
def quietFields : List Field :=
  [.out, .freeCtr, .hdrs, .mirrors, .fns, .gens, .chFreed, .nextReq, .nextJob, .msh, .eights, .progs, .quads, .slices, .klg, .kslots,
    .kfrees, .genBase, .domains, .heat, .wdg, .tmp, .erg, .fgt, .psq, .cci, .dbg, .bst, .rng, .sessions, .spdm, .mon, .pldm, .store]

/-- No work is on the chip. -/
def State.Idle (s : State) : Prop := s.jobs = [] ∧ s.reqs = [] ∧ s.chans = []

/-- From `s` to `t` a step of a start: power, the link, the accelerator's reset, the transition and its fuses stay, and no work comes. -/
structure Boots (s t : State) : Prop where
  pcie : t.pcie = s.pcie
  power : t.aod.onCell = s.aod.onCell ∧ t.aod.bootLow = s.aod.bootLow
  acc : t.chip.accReset = s.chip.accReset ∧ t.chip.accReady = s.chip.accReady
  idle : s.Idle → t.Idle
  trans : t.lcs.trans = s.lcs.trans
  pairs : t.otp.pairs = s.otp.pairs
  root : s.otp.identityRoot = some (BitVec.allOnes 512) → t.otp.identityRoot = some (BitVec.allOnes 512)

/-- Such a step that leaves register 2 and the state of the Umpire's core too. -/
structure Rests (s t : State) : Prop extends Boots s t where
  reg : t.mreg 2 = s.mreg 2
  ump : t.ump.running = s.ump.running ∧ t.ump.romRecovery = s.ump.romRecovery ∧ t.ump.fwDigest = s.ump.fwDigest

section
variable {l : List Field} {s t u : State}

theorem Boots.trans' (h : Boots s t) (k : Boots t u) : Boots s u where
  pcie := k.pcie.trans h.pcie
  power := ⟨k.power.1.trans h.power.1, k.power.2.trans h.power.2⟩
  acc := ⟨k.acc.1.trans h.acc.1, k.acc.2.trans h.acc.2⟩
  idle := k.idle ∘ h.idle
  trans := k.trans.trans h.trans
  pairs := k.pairs.trans h.pairs
  root := k.root ∘ h.root

namespace Rests

theorem refl (s : State) : Rests s s where
  pcie := rfl
  power := ⟨rfl, rfl⟩
  acc := ⟨rfl, rfl⟩
  idle := id
  trans := rfl
  pairs := rfl
  root := id
  reg := rfl
  ump := ⟨rfl, rfl, rfl⟩

theorem trans' (h : Rests s t) (k : Rests t u) : Rests s u where
  toBoots := h.toBoots.trans' k.toBoots
  reg := k.reg.trans h.reg
  ump := ⟨k.ump.1.trans h.ump.1, k.ump.2.1.trans h.ump.2.1, k.ump.2.2.trans h.ump.2.2⟩

theorem foldl {α : Type} {g : State → α → State} (h : ∀ t x, Rests t (g t x)) (xs : List α) (s : State) : Rests s (xs.foldl g s) := by
  induction xs generalizing s with
  | nil => exact refl s
  | cons x r ih => exact (h s x).trans' (ih (g s x))

/-- A change within the quiet parts, the chip page and the work. -/
theorem of_parts (h : Only l s t) (hc : t.chip.accReset = s.chip.accReset ∧ t.chip.accReady = s.chip.accReady)
    (hi : s.Idle → t.Idle) (hl : l ⊆ [Field.chip, .jobs, .reqs, .chans] ++ quietFields) : Rests s t := by
  have k := h.mono hl
  have ha := k.same .aod
  have ho := k.same .otp
  have hu := k.same .ump
  exact {
    pcie := k.same .pcie
    power := ⟨congrArg Aod.onCell ha, congrArg Aod.bootLow ha⟩
    acc := hc
    idle := hi
    trans := congrArg Lcs.trans (k.same .lcs)
    pairs := congrArg Otp.pairs ho
    root := fun e => (congrArg Otp.identityRoot ho).trans e
    reg := by unfold State.mreg; rw [k.same .meas]
    ump := ⟨congrArg Ump.running hu, congrArg Ump.romRecovery hu, congrArg Ump.fwDigest hu⟩ }

theorem of_only (h : Only l s t) (hl : l ⊆ quietFields := by decide) : Rests s t := by
  have k := h.mono hl
  have hc := k.same .chip
  refine of_parts k ⟨congrArg Chip.accReset hc, congrArg Chip.accReady hc⟩ (fun ⟨h1, h2, h3⟩ => ?_) (by decide)
  exact ⟨(k.same .jobs).trans h1, (k.same .reqs).trans h2, (k.same .chans).trans h3⟩

theorem of_contained (h : Contained l s t) (hl : l ⊆ [Field.chip, .jobs, .reqs, .chans] ++ quietFields := by decide) : Rests s t := by
  refine of_parts h.only ⟨h.accReset, h.accReady⟩ (fun ⟨h1, h2, h3⟩ => ?_) hl
  obtain ⟨k1, k2, k3⟩ := h.idle h1
  exact ⟨k1, k2.trans h2, k3.trans h3⟩

theorem onAod (s : State) (f : Aod → Aod) (h : (f s.aod).onCell = s.aod.onCell ∧ (f s.aod).bootLow = s.aod.bootLow) :
    Rests s (s.onAod f) := { refl s with power := h }

theorem onLcs (s : State) (f : Lcs → Lcs) (h : (f s.lcs).trans = s.lcs.trans) : Rests s (s.onLcs f) := { refl s with trans := h }

theorem onUmp (s : State) (f : Ump → Ump) (h : (f s.ump).running = s.ump.running ∧ (f s.ump).romRecovery = s.ump.romRecovery ∧
    (f s.ump).fwDigest = s.ump.fwDigest) : Rests s (s.onUmp f) := { refl s with ump := h }

theorem setBit (s : State) (p : PageId) (n : Nat) : Rests s (s.setBit p n) := of_contained (Contained.setBit s p n)

theorem extendReg (s : State) {n : Nat} (hn : n ≠ 2) (d : List Byte) : Rests s (s.extendReg n d) := by
  obtain ⟨-, h1, h2, -⟩ := extendReg_effect s n d
  have h3 : Rests (s.modMeas n fun m => { m with val := sha3_512 (m.val ++ padTo 64 d), cnt := m.cnt + 1 }) (s.extendReg n d) :=
    setBit _ _ 8
  exact { h3 with reg := h1 2 (Ne.symm hn) }

theorem logEvent (s : State) (p c f d : Nat) : Rests s (s.logEvent p c f d) := by
  unfold State.logEvent
  exact onUmp s _ ⟨rfl, rfl, rfl⟩

theorem spend (s : State) (n : Nat) : Rests s (s.spend n) := of_only ((Only.refl [.freeCtr] s).spend (by decide) n)

theorem onTmp (s : State) (f : Tmp → Tmp) : Rests s (s.onTmp f) := of_only ((Only.refl [.tmp] s).onTmp (by decide) f)

theorem onPsq (s : State) (f : Psq → Psq) : Rests s (s.onPsq f) := of_only ((Only.refl [.psq] s).onPsq (by decide) f)

theorem onFgt (s : State) (f : Fgt → Fgt) : Rests s (s.onFgt f) := of_only ((Only.refl [.fgt] s).onFgt (by decide) f)

theorem onKlg (s : State) (f : Klg → Klg) : Rests s (s.onKlg f) := of_only ((Only.refl [.klg] s).onKlg (by decide) f)

theorem onStore (s : State) (f : Store → Store) : Rests s (s.onStore f) := of_only ((Only.refl [.store] s).onStore (by decide) f)

theorem onProgs (s : State) (f : SMap (Option Prog) → SMap (Option Prog)) : Rests s (s.onProgs f) :=
  of_only ((Only.refl [.progs] s).onProgs (by decide) f)

theorem modKslot (s : State) (i : Nat) (f : KSlot → KSlot) : Rests s (s.modKslot i f) :=
  of_only ((Only.refl [.kslots] s).modKslot (by decide) i f)

/-- Messages merged in one instant change nothing else. -/
theorem atOnce (s : State) (k : State → State) (h : Rests s (k s)) : Rests s (s.atOnce k) :=
  h.trans' (of_only ((Only.refl [.out] (k s)).onOut (by decide) _))

/-! ### Tamper records and their responses -/

theorem logTamper (s : State) (r : TRec) : Rests s (s.logTamper r) := by
  have lose (s : State) : Rests s (let s1 := s.onAod fun a => { a with logLost := BitVec.ofNat 32 (satAdd a.logLost.toNat 1 0xFFFFFFFF) }
      if s1.aod.onCell then s1 else s1.setBit .tmp 12) := by
    have h := onAod s (fun a => { a with logLost := BitVec.ofNat 32 (satAdd a.logLost.toNat 1 0xFFFFFFFF) }) ⟨rfl, rfl⟩
    dsimp only
    split
    · exact h
    · exact h.trans' (setBit _ _ _)
  unfold State.logTamper
  extract_lets lo
  split
  · exact lose s
  · extract_lets unread s1
    have h1 : Rests s s1 := by
      dsimp only [s1]
      split
      · exact lose s
      · exact refl s
    exact h1.trans' (onAod _ _ ⟨rfl, rfl⟩)

theorem logPlain (s : State) (src : Nat) : Rests s (s.logPlain src) := (logTamper s _).trans' (spend _ 1)

theorem classAlarm (s : State) (p : PageId) : Rests s (s.classAlarm p) := by
  unfold State.classAlarm
  split
  · split
    · exact of_contained (Contained.alarm s _ _ _ _ _ _)
    · exact refl s
  · exact refl s

theorem failJob (s : State) (j : Nat) (x : Fin) : Rests s (s.failJob j x) := of_contained (Contained.failJob s j x)

theorem finish (s : State) (r : Nat) (x : Fin) : Rests s (s.finish r x) := by
  have hw := WorkDone.finish s r x
  obtain ⟨c, hc⟩ := hw.chip
  refine of_parts hw.only ⟨by rw [hc], by rw [hc]⟩ (fun hi => ?_) (by decide)
  have : s.finish r x = s := by
    unfold State.finish
    rw [show s.req r = none by unfold State.req; rw [hi.2.1]; rfl]
  rw [this]
  exact hi

theorem admFinish (s : State) (f sl : Nat) (c : BitVec 16) (x : AdmRes) : Rests s (s.admFinish f sl c x) := by
  unfold State.admFinish
  extract_lets a addr dw tail s1
  split
  · exact (of_only ((Only.refl [.fns] s).modAdm (by decide) f _)).trans' (setBit _ _ _)
  · have h (g : Adm → Adm) (e : OutEvent) : Only [.fns, .out] s (((s.askXlat f none addr 32).emit e).modAdm f g) :=
      (((Only.refl _ s).askXlat (by decide) _ _ _ _).emit (by decide) e).modAdm (by decide) f g
    exact of_only (((h _ _).msix (by decide) (by decide) f _).ite (h _ _))

theorem freeRun (s : State) (i : Nat) : Rests s (s.freeRun i) := by
  unfold State.freeRun
  exact foldl (fun t j => of_only ((((Only.refl [.kslots, .kfrees, .klg] t).modKslot (by decide) _ _).onKfrees (by decide) _).onKlg
    (by decide) _)) _ s

theorem uncache (s : State) (p : Nat → Bool) : Rests s (s.uncache p) := of_only ((Only.refl [.eights] s).onEights (by decide) _)

theorem release (s : State) (i : Nat) : Rests s (s.release i) := by
  unfold State.release
  extract_lets d ending
  split
  · exact (((uncache s _).trans' (foldl freeRun _ _)).trans' (freeRun _ i)).trans'
      (of_only ((Only.refl [.domains] _).onDomains (by decide) _))
  · exact ((uncache s _).trans' (foldl (fun t j => modKslot t j _) _ _)).trans' (freeRun _ i)

theorem zeroLedger (s : State) : Rests s s.zeroLedger := by
  have h1 : Rests s s.closeOpen := by
    unfold State.closeOpen
    refine foldl (fun t kv => ?_) _ s
    split
    · exact refl t
    · split
      · exact refl t
      · split
        · split
          · exact failJob t _ _
          · exact refl t
        · exact refl t
  have h2 : Rests s s.closeOpen.failKeyed := h1.trans' (foldl (fun t r => finish t r _) _ _)
  have h3 : Rests s s.closeOpen.failKeyed.failDigests := h2.trans' (foldl (fun t r => failJob t r _) _ _)
  have h4 : Rests s s.closeOpen.failKeyed.failDigests.endDrains := by
    refine h3.trans' ?_
    generalize s.closeOpen.failKeyed.failDigests = v
    unfold State.endDrains
    refine foldl (fun t kv => ?_) _ v
    split
    · extract_lets t1
      have ht : Rests t t1 := by
        dsimp only [t1]
        split
        · exact admFinish t _ _ _ _
        · exact refl t
      exact ht.trans' (release t1 _)
    · exact refl t
  unfold State.zeroLedger
  extract_lets s1 used s2 s3
  have h4 : Rests s s1 := h4
  clear_value s1
  have h2 : Rests s s2 :=
    h4.trans' (of_only (l := [.kslots, .genBase]) (((Only.refl _ s1).onKslots (by decide) _).onGenBase (by decide) _))
  clear_value s2
  have h5 : Rests s s3 := h2.trans' (onKlg s2 _)
  clear_value s3
  refine h5.trans' (of_parts (l := [.jobs, .msh]) (((Only.refl _ s3).onJobs (by decide) _).onMsh (by decide) _) ⟨rfl, rfl⟩
    (fun ⟨i1, i2, i3⟩ => ⟨?_, i2, i3⟩) (by decide))
  rw [State.onMsh_jobs, State.onJobs_jobs, i1]
  rfl

theorem renewRoot (s : State) : Rests s s.renewRoot := by
  unfold State.renewRoot
  exact ((onAod s _ ⟨rfl, rfl⟩).trans' (spend _ 1)).trans' (setBit _ _ _)

theorem deriveRoot (s : State) (d : Nat) : Rests s (s.deriveRoot d) := by
  unfold State.deriveRoot
  split
  · exact refl s
  · exact modKslot s _ _

theorem deriveIdentity (s : State) : Rests s s.deriveIdentity := by
  unfold State.deriveIdentity
  extract_lets cdi put s1 s2 s3 s4
  have hp (t : State) (i : Nat) (k : KSlot) : Rests t (put t i k) := modKslot t i _
  clear_value put
  exact ((((hp s _ _).trans' (hp s1 _ _)).trans' (hp s2 _ _)).trans' (hp s3 _ _)).trans' (hp s4 _ _)

theorem deriveRoots (s : State) : Rests s s.deriveRoots := by
  unfold State.deriveRoots
  extract_lets s1 s2
  have h1 : Rests s s1 := modKslot s 0 _
  clear_value s1
  exact ((h1.trans' (foldl deriveRoot _ s1)).trans' (deriveIdentity s2)).trans' (onKlg _ _)

theorem classA (s : State) : Rests s s.classA := by
  unfold State.classA
  extract_lets s1 s2
  have h1 : Rests s s1 := ((onAod s _ ⟨rfl, rfl⟩).trans' (onLcs _ _ rfl)).trans' (of_only (only_bstEnd _ 3))
  have h2 : Rests s s2 := (h1.trans' (foldl classAlarm _ _)).trans' (zeroLedger _)
  split
  · refine h2.trans' ?_
    unfold State.renewKeys
    split
    · exact renewRoot s2
    · exact (renewRoot s2).trans' (deriveRoots _)
  · exact h2

theorem classB (s : State) (m : BitVec 4) : Rests s (s.classB m) := by
  unfold State.classB
  extract_lets s0 s1 s2
  have h0 : Rests s s0 := by
    dsimp only [s0]
    split
    · exact of_only (only_bstEnd _ 3)
    · exact refl s
  have h1 : Rests s s1 := h0.trans' (foldl (fun t r => foldl classAlarm _ t) _ _)
  have h2 : Rests s s2 := h1.trans' (foldl (fun t r => by
    split
    · exact refl t
    · exact of_contained (Contained.quarantineRegion t r)) _ _)
  exact h2.trans' (onAod _ _ ⟨rfl, rfl⟩)

theorem maskBegin (s : State) : Rests s s.maskBegin := by
  unfold State.maskBegin
  extract_lets s1
  have h1 : Rests s s1 := of_contained (Contained.onChip s _ rfl rfl)
  split
  · exact h1
  · exact ((h1.trans' (of_contained (Contained.modChip s1 _ rfl rfl))).trans'
      (of_only ((Only.refl [.heat] _).onHeat (by decide) _))).trans' (foldl (fun t e => setBit t _ _) _ _)

theorem driveTamper (s : State) : Rests s s.driveTamper := (onTmp s _).trans' (onAod _ _ ⟨rfl, rfl⟩)

theorem respond (s : State) (src cls : Nat) (m : BitVec 4) : Rests s (s.respond src cls m) := by
  unfold State.respond
  extract_lets s1
  have h1 : Rests s s1 := by
    dsimp only [s1]
    split
    · exact maskBegin s
    · exact refl s
  clear_value s1
  split
  · exact h1.trans' (atOnce s1 _ ((driveTamper s1).trans' (classA _)))
  · exact h1.trans' (atOnce s1 _ ((driveTamper s1).trans' (classB _ m)))
  · exact h1

theorem countRec (s : State) (cls : Nat) (shown : Bool) : Rests s (s.countRec cls shown) := by
  unfold State.countRec
  split
  · exact refl s
  · dsimp only
    split
    · exact (onTmp s _).trans' (setBit _ _ _)
    · exact (onTmp s _).trans' (setBit _ _ _)
    · split
      · exact (onTmp s _).trans' (setBit _ _ _)
      · exact onTmp s _
    · exact refl s

theorem defer (s : State) (cls : Nat) (m : BitVec 4) : Rests s (s.defer cls m) := by
  unfold State.defer
  split
  · exact onAod s _ ⟨rfl, rfl⟩
  · exact refl s

theorem record (s : State) (src idx value ticks extra : Nat) : Rests s (s.record src idx value ticks extra) := by
  unfold State.record
  extract_lets cls m noteC d r s1
  have hn (t : State) : Rests t (noteC t) := by
    dsimp only [noteC]
    split
    · exact onTmp t _
    · exact refl t
  clear_value noteC
  split
  · exact countRec s 3 false
  · split
    · exact ((defer s cls m).trans' (logTamper _ r)).trans' (hn _)
    · exact (((logTamper s _).trans' (countRec _ cls true)).trans' (hn _)).trans' (respond _ src cls m)

theorem logSuppressed (s : State) (src idx value : Nat) : Rests s (s.logSuppressed src idx value) := logTamper s _

theorem detect (s : State) (src idx value ticks : Nat) : Rests s (s.detect src idx value ticks) := by
  unfold State.detect
  split
  · exact refl s
  · split
    · exact (logSuppressed s _ _ _).trans' (onTmp _ _)
    · exact (onTmp s _).trans' (record _ _ _ _ _ _)

theorem startStimulation (s : State) (fails : List Nat) : Rests s (s.startStimulation fails) := by
  unfold State.startStimulation
  refine foldl (fun t n => ?_) _ s
  split
  · exact ((setBit t _ _).trans' (record _ _ _ _ _ _)).trans' (spend _ 1)
  · exact (logSuppressed t _ _ _).trans' (spend _ 1)

/-! ### The boot ROM -/

theorem decodeStart (s : State) : Rests s s.decodeStart := by
  unfold State.decodeStart
  extract_lets d s1 s2 s3
  have h1 : Rests s s1 := onLcs s _ rfl
  have h2 : Rests s s2 := by
    dsimp only [s2]
    split
    · exact h1.trans' (setBit _ _ _)
    · exact h1
  have h3 : Rests s s3 := by
    dsimp only [s3]
    split
    · exact (h2.trans' (of_contained (Contained.recErr s2 _ _ _))).trans' (detect _ _ _ _ _)
    · exact h2
  clear_value s3 d
  split
  · exact h3.trans' { refl s3 with root := fun _ => rfl }
  · split
    · rename_i hn
      exact h3.trans' { refl s3 with root := fun e => by rw [e] at hn; exact absurd hn.1 (by decide) }
    · exact h3

theorem grantStart (s : State) : Rests s s.grantStart := by
  have hd (t : State) (f : Dbg → Dbg) : Rests t (t.onDbg f) := of_only ((Only.refl [.dbg] t).onDbg (by decide) f)
  unfold State.grantStart
  split
  · exact refl s
  · split
    · exact hd s _
    · split
      · exact refl s
      · extract_lets c g
        split
        · exact hd s _
        · exact (hd s _).trans' (setBit _ _ _)

theorem lifeLocks (s : State) : Rests s s.lifeLocks := by
  unfold State.lifeLocks
  split
  · exact refl s
  · exact of_only ((Only.refl [.hdrs] s).modHdr (by decide) _ _)

theorem klgLock (s : State) : Rests s s.klgLock := of_only (Only.klgLock (l := [.hdrs]) (by decide) (Only.refl _ s))

/-! ### The Umpire's start -/

theorem loadDomains (s : State) : Rests s s.loadDomains := by
  have hd (f : SMap (Option Domain) → SMap (Option Domain)) : Rests s (s.onDomains f) :=
    of_only ((Only.refl [.domains] s).onDomains (by decide) f)
  unfold State.loadDomains
  extract_lets pick
  clear_value pick
  cases pick
  · exact (hd _).trans' (logEvent _ _ _ _ _)
  · exact hd _

theorem deferredDone (s : State) : Rests s s.deferredDone := by
  unfold State.deferredDone
  split
  · exact refl s
  · exact (onAod s _ ⟨rfl, rfl⟩).trans' (logTamper _ _)

theorem deselect (s : State) (id : BitVec 16) : Only [.progs] s (s.deselect id) := by
  unfold State.deselect
  split
  · exact Only.refl _ s
  · rename_i n _
    have h := (Only.refl [.progs] s).onProgs (by decide) fun m => m.set none n ((m.get none n).map fun p => { p with selected := false })
    generalize s.onProgs _ = t at h ⊢
    unfold State.reapProg
    split
    · exact h
    · exact h.ite (h.onProgs (by decide) _)

theorem installProgram (s : State) (i : List Byte) : Only [.progs] s (s.installProgram i) := by
  unfold State.installProgram
  extract_lets id
  split
  · exact deselect s id
  · split
    · exact Only.refl _ s
    · exact (deselect s id).onProgs (by decide) _

theorem keepProgram (s : State) (i : List Byte) : Only [.store] s (s.keepProgram i) :=
  (Only.refl _ s).ite ((Only.refl _ s).onStore (by decide) _)

theorem loadProgram (s : State) (i : List Byte) : Rests s (s.loadProgram i).1 := by
  unfold State.loadProgram
  extract_lets r
  split
  · exact (((of_only (installProgram s i)).trans' (of_only (keepProgram _ i))).trans' (extendReg _ (by decide) _)).trans'
      (logEvent _ _ _ _ _)
  · exact logEvent s _ _ _ _

theorem loadPrograms (s : State) : Rests s s.loadPrograms := by
  unfold State.loadPrograms
  extract_lets s1
  have h1 : Rests s s1 := foldl (fun t r => by
    unfold State.loadLibrary1
    extract_lets p c rep
    split
    · exact logEvent t _ _ _ _
    · split
      · exact ((onProgs t _).trans' (extendReg _ (by decide) _)).trans' (logEvent _ _ _ _ _)
      · exact logEvent t _ _ _ _) _ s
  have h2 := h1.trans' (foldl loadProgram s1.store.programs s1)
  generalize s1.store.programs.foldl _ s1 = s2 at h2
  exact h2.trans' (of_contained (Contained.onChip s2 _ rfl rfl))

theorem umpireKeys (s : State) : Rests s s.umpireKeys := by
  unfold State.umpireKeys
  extract_lets s1 s2 s3 s4 s5
  have h2 : Rests s s2 := by
    dsimp only [s2]
    split
    · exact (loadDomains s).trans' (renewRoot _)
    · exact loadDomains s
  have h3 : Rests s s3 := by
    dsimp only [s3]
    split
    · exact (h2.trans' (onKlg _ _)).trans' (spend _ 1)
    · exact h2
  have h5 : Rests s s5 := (h3.trans' (deferredDone _)).trans' (loadPrograms _)
  split
  · exact h5.trans' (onStore _ _)
  · exact h5

end Rests

/-! ### Secure boot -/

/-- A step of a start in which no page loses a status bit. -/
structure Raises (s t : State) : Prop extends Rests s t where
  raised : ∀ p, (s.hdr p).Raised (t.hdr p)

/-- Such a step that leaves the measurement registers and the entries verified so far (R316). -/
structure Proceeds (s t : State) : Prop extends Raises s t where
  meas : t.meas = s.meas
  entries : t.psq.entries = s.psq.entries

namespace Raises

theorem refl (s : State) : Raises s s := { Rests.refl s with raised := fun _ => Hdr.Raised.refl _ }

theorem trans' (h : Raises s t) (k : Raises t u) : Raises s u :=
  { h.toRests.trans' k.toRests with raised := fun p => (h.raised p).trans (k.raised p) }

theorem of_rests (h : Rests s t) (hh : t.hdrs = s.hdrs) : Raises s t :=
  { h with raised := fun p => by rw [hdr_of_hdrs hh]; exact Hdr.Raised.refl _ }

theorem bit {p : PageId} {n : Nat} (h : Raises s t) (hb : (s.hdr p).status.getLsbD n = true) : (t.hdr p).status.getLsbD n = true := by
  obtain ⟨-, -, hs⟩ := h.raised p
  exact hs n hb

theorem setBit (s : State) (p : PageId) (n : Nat) : Raises s (s.setBit p n) :=
  { Rests.setBit s p n with raised := fun q => raised_setBit s p q n }

theorem extendReg (s : State) {n : Nat} (hn : n ≠ 2) (d : List Byte) : Raises s (s.extendReg n d) :=
  { Rests.extendReg s hn d with
    raised := fun q => raised_setBit (s.modMeas n fun m => { m with val := sha3_512 (m.val ++ padTo 64 d), cnt := m.cnt + 1 }) _ q 8 }

end Raises

namespace Proceeds

theorem refl (s : State) : Proceeds s s := { Raises.refl s with meas := rfl, entries := rfl }

theorem trans' (h : Proceeds s t) (k : Proceeds t u) : Proceeds s u :=
  { h.toRaises.trans' k.toRaises with meas := k.meas.trans h.meas, entries := k.entries.trans h.entries }

theorem of_rests (h : Rests s t) (hh : t.hdrs = s.hdrs) (hm : t.meas = s.meas) (he : t.psq.entries = s.psq.entries) : Proceeds s t :=
  { Raises.of_rests h hh with meas := hm, entries := he }

theorem setBit (s : State) (p : PageId) (n : Nat) : Proceeds s (s.setBit p n) :=
  have h := only_setBit s p n
  { Raises.setBit s p n with
    meas := h.same .meas
    entries := congrArg Psq.entries (h.same .psq) }

theorem onPsq (s : State) (f : Psq → Psq) (h : (f s.psq).entries = s.psq.entries) : Proceeds s (s.onPsq f) :=
  of_rests (Rests.onPsq s f) rfl rfl h

theorem onFgt (s : State) (f : Fgt → Fgt) : Proceeds s (s.onFgt f) := of_rests (Rests.onFgt s f) rfl rfl rfl

theorem verdict (s : State) (c e : Nat) : Proceeds s (s.verdict c e) := by
  unfold State.verdict
  exact (onPsq s _ rfl).trans' (of_rests (Rests.logEvent _ _ _ _ _) rfl rfl rfl)

theorem modPort (s : State) (b : Bool) (g : UPort → UPort) : Proceeds s (s.modPort b g) := onFgt s _

theorem setGrp (s : State) (g : Nat) (x : GroupState) : Proceeds s (s.setGrp g x) := onPsq s _ (by split <;> rfl)

theorem runSteps (s : State) (ph : Nat) (l : List (Nat × PStep)) : Proceeds s (s.runSteps ph l) := by
  induction l generalizing s with
  | nil => exact onPsq s _ rfl
  | cons x r ih =>
    unfold State.runSteps
    extract_lets s1 pg s2
    have h1 : Proceeds s s1 := onPsq s _ rfl
    split
    · exact h1.trans' (onPsq _ _ rfl)
    · have h2 : Proceeds s s2 := by
        dsimp only [s2]
        split
        · exact h1
        · exact h1.trans' (onPsq _ _ rfl)
      split
      · exact h2.trans' (ih _)
      · exact h2.trans' (onPsq _ _ rfl)

theorem startPhase (s : State) (ph : Nat) : Proceeds s (s.startPhase ph) := by
  unfold State.startPhase
  split
  · exact refl s
  · exact runSteps s _ _

theorem giveDirect (s : State) : Proceeds s s.giveDirect := by
  have h := (Contained.giveDirect s).only
  exact of_rests (Rests.of_only h) (h.same .hdrs) (h.same .meas) (congrArg Psq.entries (h.same .psq))

theorem readCopy (s : State) (k : Nat) (e : Entry) (b : Bool) : Proceeds s (s.readCopy k e b) :=
  ((onPsq s _ rfl).trans' (of_rests (Rests.of_only ((Only.refl [.quads] _).modQuad (by decide) _ _)) rfl rfl rfl)).trans' (giveDirect _)

theorem loadRules (s : State) (g : Nat) : Proceeds s (s.loadRules g) := by
  unfold State.loadRules
  extract_lets bank s1 s2
  have h2 : Proceeds s s2 := (onFgt s _).trans' (modPort _ _ _)
  split
  · exact h2
  · exact (h2.trans' (onFgt _ _)).trans' (setBit _ _ _)

theorem endRecovery (s : State) (g : Nat) : Proceeds s (s.endRecovery g) := by
  unfold State.endRecovery
  split
  · exact refl s
  · extract_lets s1
    have h1 : Proceeds s s1 := onPsq s _ rfl
    split
    · exact h1.trans' (verdict _ _ _)
    · exact ((h1.trans' (of_rests (Rests.onStore _ _) rfl rfl rfl)).trans'
        (of_rests (Rests.onAod _ _ ⟨rfl, rfl⟩) rfl rfl rfl)).trans' (verdict _ _ _)

theorem noteFull (s : State) : Proceeds s s.noteFull := by
  unfold State.noteFull
  split
  · exact onPsq s _ rfl
  · exact refl s

theorem tryRelease (s : State) (g : Nat) : Proceeds s (s.tryRelease g) := by
  unfold State.tryRelease
  split
  · exact refl s
  · split
    · exact ((((((endRecovery s g).trans' (loadRules _ g)).trans' (modPort _ _ _)).trans' (setGrp _ g _)).trans'
        (onPsq _ _ rfl)).trans' (setBit _ _ _)).trans' (noteFull _)
    · exact (setGrp s g _).trans' (verdict _ _ _)

theorem tryPhase (s : State) (g : Nat) : Proceeds s (s.tryPhase g) := by
  unfold State.tryPhase
  split
  · exact startPhase s _
  · exact refl s

theorem afterStep2Done (s : State) : Proceeds s s.afterStep2Done := by
  unfold State.afterStep2Done
  extract_lets gs ok s1
  split
  · exact refl s
  · have h1 : Proceeds s s1 := onPsq s _ rfl
    clear_value s1 ok gs
    split
    · cases gs
      · exact h1
      · exact h1.trans' (loadRules _ _)
    · exact h1.trans' (setBit _ _ _)

/-- The Umpire goes on with the next entry, the power phases and the releases. -/
theorem progress (s : State) : Proceeds s s.progress := by
  unfold State.progress
  split
  · exact refl s
  · extract_lets s1 s2
    have h1 : Proceeds s s1 := by
      dsimp only [s1]
      split
      · exact readCopy s _ _ _
      · exact refl s
    exact ((((h1.trans' (tryPhase _ 0)).trans' (tryPhase _ 1)).trans' (tryRelease _ 1)).trans' (tryRelease _ 0)).trans'
      (afterStep2Done _)

theorem dropGroup (s : State) (g : Nat) : Proceeds s (s.dropGroup g) := by
  unfold State.dropGroup
  extract_lets m s1
  have h1 : Proceeds s s1 := onPsq s _ rfl
  split
  · exact h1.trans' (modPort _ _ _)
  · exact h1

theorem waitSource (s : State) (g code : Nat) : Proceeds s (s.waitSource g code) :=
  ((onPsq s _ rfl).trans' (setBit _ _ _)).trans' (verdict _ _ _)

end Proceeds

namespace Raises

theorem onPsq (s : State) (f : Psq → Psq) : Raises s (s.onPsq f) := of_rests (Rests.onPsq s f) rfl

theorem startRecovery (s : State) (g src : Nat) : Raises s (s.startRecovery g src) := by
  have golden (t : State) : Raises t (t.tryGolden g) := by
    unfold State.tryGolden
    extract_lets m
    split
    · exact ((onPsq t _).trans' (onPsq _ _)).trans' (extendReg _ (by decide) _)
    · exact (Proceeds.waitSource t g _).toRaises
  unfold State.startRecovery
  extract_lets s1
  have h1 : Raises s s1 := ((Proceeds.dropGroup s g).trans' (Proceeds.setGrp _ g _)).toRaises.trans' (onPsq _ _)
  split
  · exact h1.trans' (golden _)
  · exact h1

end Raises

namespace Rests

theorem findManifest (s : State) (l : List Bool) : Rests s (s.findManifest l).1 := by
  induction l generalizing s with
  | nil => exact refl s
  | cons b r ih =>
    unfold State.findManifest
    extract_lets c
    split
    · exact (Proceeds.verdict s _ _).toRests
    · exact ((setBit s _ _).trans' (Proceeds.verdict _ _ _).toRests).trans' (ih _)

theorem takePolicy (s : State) (m : Manifest) (gs : List Nat) : Rests s (s.takePolicy m gs) := by
  unfold State.takePolicy
  extract_lets pick a b set good code
  have hs (t : State) (x : Option Policy) : Rests t (set t x) := onPsq t _
  have hg (raw : List Byte) (slot : Bool) : Rests s (good raw slot) :=
    ((hs s _).trans' (onFgt _ _)).trans' (extendReg _ (by decide) _)
  clear_value good set a b
  split
  · exact hg _ _
  · split
    · exact hg _ _
    · exact (((hs s none).trans' (onFgt _ _)).trans' (setBit _ _ _)).trans' (extendReg _ (by decide) _)

theorem takeManifest (s : State) (cold : Bool) : Rests s (s.takeManifest cold) := by
  unfold State.takeManifest
  extract_lets order
  have hf := findManifest s order
  split
  · rename_i s1 b m he
    rw [he] at hf
    exact (((((hf.trans' (onPsq s1 _)).trans' (extendReg _ (by decide) _)).trans' (takePolicy _ _ _)).trans' (Proceeds.startPhase _ 0).toRests).trans'
      (Proceeds.progress _).toRests)
  · rename_i s1 he
    rw [he] at hf
    extract_lets s2
    have h2 : Rests s s2 := by
      dsimp only [s2]
      split
      · exact (hf.trans' (onPsq s1 _)).trans' (setBit _ _ _)
      · exact hf
    exact (h2.trans' (foldl (fun t g => by
      split
      · exact refl t
      · exact (Raises.startRecovery t g 4).toRests) _ _)).trans' (Proceeds.progress _).toRests

end Rests

end

end Sys2Proof.Machine

/-!
# A start of the root-of-trust domain (R20, R22, R306)
-/

namespace Sys2Proof.Machine

-- One declaration after the other: elaborated side by side, the row as one text takes more threads than the check allows.
set_option Elab.async false

/-! ### The wipes that come first -/

theorem wipedUnits_effect (s : State) (umpire : Bool) : (s.wipedUnits umpire).Idle ∧ (s.wipedUnits umpire).mreg 2 = s.mreg 2 ∧
    (s.wipedUnits umpire).aod = { s.aod with epoch := s.aod.epoch + 1 } ∧
    (s.wipedUnits umpire).chip.accReset = true ∧ (s.wipedUnits umpire).chip.accReady = false := by
  have h0 : (s.clearUnits.clearStaleProgs.bstEnd 4).Idle ∧ (s.clearUnits.clearStaleProgs.bstEnd 4).mreg 2 = s.mreg 2 ∧
      (s.clearUnits.clearStaleProgs.bstEnd 4).aod = s.aod := by
    have hb := only_bstEnd s.clearUnits.clearStaleProgs 4
    have hc : s.clearUnits.clearStaleProgs.Idle ∧ s.clearUnits.clearStaleProgs.meas = s.meas.filter (fun kv => kv.1 < 32) ∧
        s.clearUnits.clearStaleProgs.aod = s.aod := by
      unfold State.Idle State.clearStaleProgs State.clearUnits
      simp
    obtain ⟨⟨h1, h2, h3⟩, hm, ha⟩ := hc
    refine ⟨⟨(hb.same .jobs).trans h1, (hb.same .reqs).trans h2, (hb.same .chans).trans h3⟩, ?_, (hb.same .aod).trans ha⟩
    unfold State.mreg
    rw [hb.same .meas, hm, SMap.get_filter _ _ _ _ (fun _ => rfl)]
  unfold State.wipedUnits
  generalize s.clearUnits.clearStaleProgs.bstEnd 4 = u at h0
  obtain ⟨hi, hm, ha⟩ := h0
  extract_lets s1 epoch s2 s3 s4 s5 s6
  have h3 : Only [.aod, .genBase, .klg, .freeCtr, .hdrs, .domains] u s3 :=
    ((((Only.refl _ u).onAod (by decide) _).onGenBase (by decide) _).onKlg (by decide) _).spend (by decide) _
  have ha3 : s3.aod = { s.aod with epoch := s.aod.epoch + 1 } := by rw [← ha]; rfl
  clear_value s3
  have h4 : Only [.hdrs] s3 s4 := Only.klgLock (by decide) ((Only.refl _ s3).onHdrs (by decide) _)
  clear_value s4
  have h5 : Only [.domains] s4 s5 := (Only.refl _ s4).onDomains (by decide) _
  clear_value s5
  have h6 := only_modChip s5 (Chip.wiped umpire)
  obtain ⟨x, hx⟩ := chip_modChip s5 (Chip.wiped umpire)
  have h7 : Only [.aod, .genBase, .klg, .freeCtr, .hdrs, .domains, .out, .fns, .chip] u s6 :=
    (((h3.mono (by decide)).then h4).then h5).then h6
  have ha6 : s6.aod = s3.aod := ((h6.same .aod).trans (h5.same .aod)).trans (h4.same .aod)
  have hc : s6.chip = { Chip.wiped umpire s5.chip with intSrc := x } := hx
  clear_value s6
  refine ⟨⟨(h7.same .jobs).trans hi.1, (h7.same .reqs).trans hi.2.1, (h7.same .chans).trans hi.2.2⟩, ?_, ha6.trans ha3, ?_, ?_⟩
  · unfold State.mreg at hm ⊢
    rw [← hm]
    exact congrArg (SMap.get ({} : Meas) · 2) (h7.same .meas)
  · exact congrArg Chip.accReset hc
  · exact congrArg Chip.accReady hc

/-- The accelerator domain wiped with the link's own state (R21, R23, R28). -/
theorem accWipe_effect (s : State) : (s.accWipe false).Idle ∧ (s.accWipe false).mreg 2 = s.mreg 2 ∧
    (s.accWipe false).aod = { s.aod with epoch := s.aod.epoch + 1 } ∧ (s.accWipe false).chip.accReset = true ∧
    (s.accWipe false).chip.accReady = false ∧ (s.accWipe false).pcie = { perstLow := s.pcie.perstLow, doeReady := true } ∧
    Only ([.pcie, .sessions, .spdm] ++ unitFields) s (s.accWipe false) := by
  obtain ⟨hi, hm, ha, hr, hy⟩ := wipedUnits_effect s false
  have ho := only_wipedUnits s false
  rw [accWipe_eq, if_neg Bool.false_ne_true, ← show (s.wipedUnits false).pcie = s.pcie from ho.same .pcie]
  generalize s.wipedUnits false = u at hi hm ha hr hy ho
  exact ⟨hi, hm, ha, hr, hy, rfl,
    (Only.endDoe (by decide) (by decide) (by decide) ((Only.refl _ s).then ho)).onPcie (by decide) _⟩

/-- The root-of-trust domain at its reset values, in a start that keeps no platform (R20, R22). -/
theorem rootReset_effect (s : State) (power : Bool) : (s.rootReset power false).aod = s.aod ∧
    (s.rootReset power false).pcie = s.pcie ∧ (s.rootReset power false).otp = s.otp ∧
    (s.rootReset power false).lcs = { state := s.lcs.state, trans := s.lcs.trans } ∧
    (s.rootReset power false).mreg 2 = {} ∧ (s.rootReset power false).ump = { events := s.ump.eventCopy, eventCopy := s.ump.eventCopy } ∧
    (s.rootReset power false).domains = s.domains ∧ (s.rootReset power false).store = s.store ∧
    (s.rootReset power false).cci = { det := s.cci.det } := by
  have hm : (s.rootReset power false).meas = s.meas.filter fun kv => !decide (kv.1 < 32) := rfl
  have hr : (s.rootReset power false).mreg 2 = {} := by
    unfold State.mreg
    rw [hm, SMap.get_filter_none _ _ _ _ (fun _ => rfl)]
  refine ⟨?_, ?_, ?_, ?_, hr, ?_, ?_, ?_, ?_⟩ <;>
    simp [State.rootReset]

/-! ### The start as a whole -/

/-- A state in which both domains have been reset, from `s`: nothing runs, and the transition and its fuses stand as in `s`. -/
structure Fresh (s t : State) : Prop where
  perst : t.pcie.perstLow = s.pcie.perstLow
  onCell : t.aod.onCell = false
  boot : s.aod.lost = false → t.aod.bootLow = BitVec.ofNat 24 (satAdd s.aod.bootLow.toNat 1 0xFFFFFF)
  acc : t.chip.accReset = true ∧ t.chip.accReady = false
  idle : t.Idle
  trans : t.lcs.trans = s.lcs.trans
  pairs : t.otp.pairs = s.otp.pairs
  root : s.otp.identityRoot = some (BitVec.allOnes 512) → t.otp.identityRoot = some (BitVec.allOnes 512)

theorem Fresh.step {s t u : State} (h : Fresh s t) (k : Boots t u) : Fresh s u where
  perst := (congrArg Pcie.perstLow k.pcie).trans h.perst
  onCell := k.power.1.trans h.onCell
  boot e := k.power.2.trans (h.boot e)
  acc := ⟨k.acc.1.trans h.acc.1, k.acc.2.trans h.acc.2⟩
  idle := k.idle h.idle
  trans := k.trans.trans h.trans
  pairs := k.pairs.trans h.pairs
  root := k.root ∘ h.root

/-- The AOD at a start: main power, one boot more (R383, R413). -/
theorem aodStart_effect (s : State) : s.aodStart.1.pcie = s.pcie ∧ s.aodStart.1.aod.onCell = false ∧
    (s.aod.lost = false → s.aodStart.1.aod.bootLow = BitVec.ofNat 24 (satAdd s.aod.bootLow.toNat 1 0xFFFFFF)) ∧
    s.aodStart.1.lcs.trans = s.lcs.trans ∧ s.aodStart.1.otp.pairs = s.otp.pairs ∧
    (s.otp.identityRoot = some (BitVec.allOnes 512) → s.aodStart.1.otp.identityRoot = some (BitVec.allOnes 512)) := by
  unfold State.aodStart
  by_cases hl : s.aod.lost = true
  · rw [if_pos hl]
    extract_lets s0 s1 s2
    have h2 : s2.pcie = s.pcie ∧ s2.aod.onCell = false ∧ s2.lcs.trans = s.lcs.trans ∧ s2.otp.pairs = s.otp.pairs ∧
        s2.otp.identityRoot = s.otp.identityRoot := ⟨rfl, rfl, rfl, rfl, rfl⟩
    have hb := (Rests.logTamper s2 { (s2.newRec 0x12 16 0 0 0 0) with flags := 16, index := Config.free 16 s2.freeCtr }).trans'
      (Rests.spend _ 1)
    clear_value s2
    exact ⟨hb.pcie.trans h2.1, hb.power.1.trans h2.2.1, fun e => absurd hl (by rw [e]; decide), hb.trans.trans h2.2.2.1,
      hb.pairs.trans h2.2.2.2.1, fun e => hb.root (h2.2.2.2.2.trans e)⟩
  · rw [if_neg hl]
    exact ⟨rfl, rfl, fun _ => rfl, rfl, rfl, id⟩

/-- Both domains reset: nothing runs, register 2 is zero, the Umpire's core stands still. -/
theorem fresh_reset (s u : State) (power : Bool) (h : Boots s.aodStart.1 u) : Fresh s ((u.rootReset power false).accWipe false) ∧
    ((u.rootReset power false).accWipe false).mreg 2 = {} ∧
    ((u.rootReset power false).accWipe false).ump = { events := u.ump.eventCopy, eventCopy := u.ump.eventCopy } := by
  obtain ⟨a1, a2, a3, a4, a5, a6⟩ := aodStart_effect s
  obtain ⟨r1, r2, r3, r4, r5, r6, -, -, -⟩ := rootReset_effect u power
  generalize u.rootReset power false = v at r1 r2 r3 r4 r5 r6
  obtain ⟨w1, w2, w3, w4, w5, w6, w7⟩ := accWipe_effect v
  refine ⟨?_, w2.trans r5, (w7.same .ump).trans r6⟩
  constructor
  · rw [w6, r2, h.pcie, a1]
  · rw [w3, r1]; exact h.power.1.trans a2
  · intro e; rw [w3, r1]; exact h.power.2.trans (a3 e)
  · exact ⟨w4, w5⟩
  · exact w1
  · rw [w7.same .lcs, r4]; exact h.trans.trans a4
  · rw [w7.same .otp, r3]; exact h.pairs.trans a5
  · rw [w7.same .otp, r3]; exact h.root ∘ a6

/-- The Umpire's firmware runs, or the ROM has found none and recovers; what runs is measured in register 2 (R306, R315). -/
def State.Booted (s : State) : Prop := s.ump.running = !s.ump.romRecovery ∧
  (s.ump.running = true → (s.mreg 2).cnt = 1 ∧ (s.mreg 2).val = sha3_512 (List.replicate 64 0 ++ padTo 64 s.ump.fwDigest))

theorem State.Booted.rests {s t : State} (h : s.Booted) (k : Rests s t) : t.Booted := by
  unfold State.Booted
  rw [k.reg, k.ump.1, k.ump.2.1, k.ump.2.2]
  exact h

theorem Boots.onUmp (s : State) (f : Ump → Ump) : Boots s (s.onUmp f) := { (Rests.refl s).toBoots with pcie := rfl }

theorem Boots.onMeas (s : State) (f : SMap Meas → SMap Meas) : Boots s (s.onMeas f) := { (Rests.refl s).toBoots with pcie := rfl }

theorem startFirmware_effect (s : State) (b : Bool) (img : List Byte) (key : Nat) (hr : s.mreg 2 = {})
    (hu : s.ump.romRecovery = false) : Boots s (s.startFirmware b img key) ∧ (s.startFirmware b img key).Booted := by
  unfold State.startFirmware
  extract_lets s1 s2 s3 s4
  have h1 : Rests s s1 := (Rests.extendReg s (by decide) _).trans' (Rests.extendReg _ (by decide) _)
  have hr1 : s1.mreg 2 = {} := h1.reg.trans hr
  have hu1 : s1.ump.romRecovery = false := h1.ump.2.1.trans hu
  clear_value s1
  obtain ⟨hr2, h2, hu2⟩ : s2.mreg 2 = { val := sha3_512 (List.replicate 64 0 ++ padTo 64 (sha3_512 img)), cnt := 0 + 1 } ∧
      Boots s1 s2 ∧ s2.ump = s1.ump := by
    obtain ⟨hv, -, ho, -⟩ := extendReg_effect s1 2 (sha3_512 img)
    rw [hr1] at hv
    refine ⟨hv, ?_, ho.same .ump⟩
    exact (show Boots s1 (s1.modMeas 2 fun m => { m with val := sha3_512 (m.val ++ padTo 64 (sha3_512 img)), cnt := m.cnt + 1 }) from
      (Boots.onMeas s1 _)).trans' (Rests.setBit _ _ 8).toBoots
  generalize hd : sha3_512 img = d at hr2
  clear_value s2
  have h3 : Rests s2 s3 := by
    dsimp only [s3]
    split
    · exact Rests.refl s2
    · exact Rests.onUmp s2 _ ⟨rfl, rfl, rfl⟩
  clear_value s3
  have h4 : Rests s3 s4 := Rests.extendReg s3 (by decide) _
  clear_value s4
  have hr4 : s4.mreg 2 = { val := sha3_512 (List.replicate 64 0 ++ padTo 64 d), cnt := 0 + 1 } := (h4.reg.trans h3.reg).trans hr2
  have hu4 : s4.ump.romRecovery = false := by rw [h4.ump.2.1, h3.ump.2.1, hu2, hu1]
  unfold State.startCore
  refine ⟨(((h1.toBoots.trans' h2).trans' h3.toBoots).trans' h4.toBoots).trans' ?_, ?_, fun _ => ?_⟩
  · exact ((Boots.onUmp s4 _).trans' (Boots.onUmp _ _)).trans' (Rests.onPsq _ _).toBoots
  · show true = !s4.ump.romRecovery
    rw [hu4]
    rfl
  · show (s4.mreg 2).cnt = 1 ∧ (s4.mreg 2).val = sha3_512 (List.replicate 64 0 ++ padTo 64 d)
    rw [hr4]
    exact ⟨rfl, rfl⟩

/-- A start with main power, or the one that ends a transition: both domains reset, the firmware running or the ROM recovering. -/
theorem startRoot_effect (s : State) (power life : Bool) (stim : List Nat) (h : power = true ∨ life = true) :
    Fresh s (s.startRoot power life false stim) ∧ (s.startRoot power life false stim).Booted := by
  unfold State.startRoot
  extract_lets a s1 s2 s3 s4 s5 s6
  have h1 : Rests a.1 s1 := by
    dsimp only [s1]
    split
    · exact Rests.logPlain _ _
    · exact Rests.refl _
  have h2 : Rests a.1 s2 := by
    dsimp only [s2]
    rcases Bool.eq_false_or_eq_true power with hp | hp
    · rw [if_pos hp]
      exact (h1.trans' (Rests.of_only ((Only.refl [.heat] s1).onHeat (by decide) _))).trans' (Rests.onAod _ _ ⟨rfl, rfl⟩)
    · rw [if_neg (by simp [hp]), if_pos (h.resolve_left (by simp [hp]))]
      exact h1
  clear_value s1
  obtain ⟨hf3, hr3, hu3⟩ := fresh_reset s s2 power h2.toBoots
  have h4 : Rests s3 s4 := by
    dsimp only [s4]
    refine Rests.trans' ?_ (Rests.decodeStart _)
    split
    · exact (Rests.onAod s3 _ ⟨rfl, rfl⟩).trans' (Rests.of_only ((Only.refl [.genBase] _).onGenBase (by decide) _))
    · exact Rests.refl s3
  have h5 : Rests s3 s5 := by
    dsimp only [s5]
    split
    · exact (h4.trans' (Rests.of_contained (Contained.onChip s4 _ rfl rfl))).trans' (Rests.setBit _ _ _)
    · exact h4
  have h6 : Rests s3 s6 :=
    (((h5.trans' (Rests.grantStart _)).trans' (Rests.lifeLocks _)).trans' (Rests.klgLock _)).trans' (Rests.startStimulation _ stim)
  have hf6 : Fresh s s6 := hf3.step h6.toBoots
  have hr6 : s6.mreg 2 = {} := h6.reg.trans hr3
  have hu6 : s6.ump.romRecovery = false ∧ s6.ump.running = false := by
    rw [h6.ump.1, h6.ump.2.1, show s3.ump = _ from hu3]
    exact ⟨rfl, rfl⟩
  clear_value s6 a
  split
  · refine ⟨hf6.step ((Boots.onUmp s6 _).trans' (Rests.onAod _ _ ⟨rfl, rfl⟩).toBoots), ?_, fun e => ?_⟩
    · show s6.ump.running = !true
      rw [hu6.2]
      rfl
    · have e : s6.ump.running = true := e
      rw [hu6.2] at e
      cases e
  · rename_i x _
    obtain ⟨h7, hb7⟩ := startFirmware_effect s6 x.1 x.2.1 x.2.2 hr6 hu6.1
    generalize s6.startFirmware x.1 x.2.1 x.2.2 = s7 at h7 hb7
    dsimp only
    split
    · exact ⟨hf6.step h7, hb7⟩
    · have h8 := (Rests.umpireKeys s7).trans' (Rests.takeManifest _ a.2)
      exact ⟨(hf6.step h7).step h8.toBoots, hb7.rests h8⟩

end Sys2Proof.Machine

/-!
# Returns and losses of power, the end of a reset of the accelerator domain, and direct jobs (R20, R21, R246, R285, R316)
-/

namespace Sys2Proof.Machine

-- One declaration after the other: elaborated side by side, the row as one text takes more threads than the check allows.
set_option Elab.async false

theorem powerGood_effect (s : State) (perstLow crystal : Bool) (d0 d1 : Part) (stim : List Nat) (h : s.aod.onCell = true) :
    Answers (exec (.powerGood perstLow crystal d0 d1 stim) s) fun t => t.aod.onCell = false ∧ t.chip.accReset = true ∧
      t.chip.accReady = false ∧ t.pcie.perstLow = perstLow ∧ t.chans = [] ∧ t.reqs = [] ∧
      t.ump.running = !t.ump.romRecovery ∧ (s.aod.lost = false → t.aod.bootLow.toNat = min (s.aod.bootLow.toNat + 1) 0xFFFFFF) ∧
      (t.ump.running = true → (t.mreg 2).cnt = 1 ∧
        (t.mreg 2).val = sha3_512 (List.replicate 64 0 ++ padTo 64 t.ump.fwDigest)) := by
  change Answers (execPowerGood perstLow crystal d0 d1 stim s) _
  unfold execPowerGood
  rw [if_neg (by simp [h])]
  extract_lets s1 s2
  obtain ⟨hf, hb⟩ := startRoot_effect (s2.onPcie fun _ => { perstLow := perstLow }) true false stim (.inl rfl)
  refine .next ⟨hf.onCell, hf.acc.1, hf.acc.2, hf.perst, hf.idle.2.2, hf.idle.2.1, hb.1, fun hl => ?_, hb.2⟩
  rw [hf.boot hl]
  show (BitVec.ofNat 24 (satAdd s.aod.bootLow.toNat 1 0xFFFFFF)).toNat = _
  unfold satAdd
  rw [BitVec.toNat_ofNat]
  exact Nat.mod_eq_of_lt (Nat.lt_of_le_of_lt (Nat.min_le_right _ _) (by decide))

/-! ### The tamper log's next entry -/

/-- A record that finds a slot is written there with the next sequence number (R408, R410). -/
theorem logTamper_effect (s : State) (r : TRec) : Only [.aod, .out, .fns, .chip, .hdrs] s (s.logTamper r) ∧
    (s.logTamper r).aod.rtc = s.aod.rtc ∧ (s.logTamper r).aod.serviceRoot = s.aod.serviceRoot ∧
    (s.logTamper r).hdr .evidence = s.hdr .evidence ∧
    ∀ i, s.aod.logSlot r.strong = some i → (s.logTamper r).aod.log.get none i = some { r with seq := s.aod.seqNext } := by
  unfold State.logTamper
  extract_lets lose
  have hl : Only [.aod, .out, .fns, .chip, .hdrs] s (lose s) ∧ (lose s).aod.rtc = s.aod.rtc ∧
      (lose s).aod.serviceRoot = s.aod.serviceRoot ∧ (lose s).hdr .evidence = s.hdr .evidence ∧ (lose s).aod.seqNext = s.aod.seqNext := by
    dsimp only [lose]
    have h0 : Only [.aod, .out, .fns, .chip, .hdrs] s
        (s.onAod fun a => { a with logLost := BitVec.ofNat 32 (satAdd a.logLost.toNat 1 0xFFFFFFFF) }) :=
      (Only.refl _ s).onAod (by decide) _
    split
    · exact ⟨h0, rfl, rfl, rfl, rfl⟩
    · have hb := only_setBit (s.onAod fun a => { a with logLost := BitVec.ofNat 32 (satAdd a.logLost.toNat 1 0xFFFFFFFF) }) .tmp 12
      have ha := hb.same .aod
      exact ⟨h0.trans (hb.mono (by decide)), (congrArg Aod.rtc ha :), (congrArg Aod.serviceRoot ha :),
        (hdr_setBit _ _ .evidence _).trans (if_neg (by decide)), (congrArg Aod.seqNext ha :)⟩
  clear_value lose
  obtain ⟨h1, h2, h3, h4, h5⟩ := hl
  split
  · next e => exact ⟨h1, h2, h3, h4, fun i hi => by rw [e] at hi; cases hi⟩
  · next i e =>
    extract_lets unread s1
    have hs : Only [.aod, .out, .fns, .chip, .hdrs] s s1 ∧ s1.aod.rtc = s.aod.rtc ∧ s1.aod.serviceRoot = s.aod.serviceRoot ∧
        s1.hdr .evidence = s.hdr .evidence ∧ s1.aod.seqNext = s.aod.seqNext := by
      dsimp only [s1]
      split
      · exact ⟨h1, h2, h3, h4, h5⟩
      · exact ⟨Only.refl _ s, rfl, rfl, rfl, rfl⟩
    clear_value s1
    obtain ⟨k1, k2, k3, k4, k5⟩ := hs
    refine ⟨k1.onAod (by decide) _, k2, k3, k4, fun j hj => ?_⟩
    rw [e] at hj
    cases hj
    rw [← k5]
    exact SMap.get_set_same none s1.aod.log i (some { r with seq := s1.aod.seqNext })

/-- An informational entry with no strong class (R409). -/
theorem newRec_weak (s : State) (src idx ticks : Nat) : (s.newRec src 0 idx 0 ticks 0).strong = false := by
  have h : (s.newRec src 0 idx 0 ticks 0).flags = byteOf s.approx := congrArg byteOf (Nat.zero_add _)
  unfold TRec.strong TRec.cls
  rw [h]
  unfold State.approx
  split <;> rfl

theorem logPlain_effect (s : State) (src : Nat) : Only [.aod, .out, .fns, .chip, .hdrs, .freeCtr] s (s.logPlain src) ∧
    (s.logPlain src).aod.rtc = s.aod.rtc ∧ (s.logPlain src).aod.serviceRoot = s.aod.serviceRoot ∧
    (s.logPlain src).hdr .evidence = s.hdr .evidence ∧
    ∀ i, s.aod.logSlot false = some i → ∃ r, (s.logPlain src).aod.log.get none i = some r ∧ r.source = byteOf src ∧
      r.seq = s.aod.seqNext := by
  unfold State.logPlain State.logInfo
  generalize (Config.free 16 s.freeCtr : BitVec 16).toNat = idx
  obtain ⟨h1, h2, h3, h4, h5⟩ := logTamper_effect s (s.newRec src 0 idx 0 s.now 0)
  rw [newRec_weak] at h5
  exact ⟨(h1.mono (by decide)).spend (by decide) 1, h2, h3, h4, fun i hi => ⟨_, h5 i hi, rfl, rfl⟩⟩

/-- MAIN_POWER_LOSS leaves the always-on domain, OTP and flash (R21, R400). -/
theorem mainPowerLoss_effect (s : State) (h : s.aod.onCell = false) : Answers (exec .mainPowerLoss s) fun t =>
    t.aod.onCell = true ∧ t.aod.rtc = s.aod.rtc ∧
    t.aod.serviceRoot = s.aod.serviceRoot ∧ (s.lcs.trans = none → t.otp = s.otp) ∧ t.store = s.store ∧
    t.lcs = { state := s.lcs.state } ∧
    (∀ i, s.aod.logSlot false = some i → ∃ r, t.aod.log.get none i = some r ∧ r.source = 0x11 ∧ r.seq = s.aod.seqNext) ∧
    (∀ p, aodKey (pageKey p) = false → t.hdr p = {}) ∧ t.hdr .evidence = s.hdr .evidence ∧ t.chip = {} ∧ t.pcie = {} ∧ t.chans = [] ∧ t.reqs = [] ∧ t.jobs = [] ∧ t.eights = [] ∧ t.quads = [] ∧
    t.slices = [] ∧ t.kslots = [] ∧ t.domains = [] ∧ t.meas = [] ∧ t.psq = {} ∧ t.fgt = {} ∧ t.dbg = {} ∧
    t.ump = { eventCopy := s.ump.eventCopy } := by
  change Answers (execMainPowerLoss s) _
  unfold execMainPowerLoss
  rw [if_neg (by simp [h])]
  obtain ⟨h1, h2, h3, h4, h5⟩ := logPlain_effect s 0x11
  extract_lets s1
  have hp : s.lcs.trans = none → s1.cutPairs = s.otp.pairs := fun e => by
    unfold State.cutPairs
    rw [show s1.lcs.trans = none from (congrArg Lcs.trans (h1.same .lcs)).trans e]
    exact congrArg Otp.pairs (h1.same .otp)
  have hh : s1.hdrs = (s.logPlain 0x11).hdrs := rfl
  have ha : s1.aod = { (s.logPlain 0x11).aod with onCell := true } := rfl
  generalize s.logPlain 0x11 = u at h2 h3 h4 h5 hh ha
  refine .next ⟨by rw [ha], by rw [ha]; exact h2, by rw [ha]; exact h3, fun e => ?_, rfl, rfl, fun i hi => by rw [ha]; exact h5 i hi, fun p hk => ?_, ?_,
    rfl, rfl, rfl, rfl, rfl, rfl, rfl, rfl, rfl, rfl, rfl, rfl, rfl, rfl, rfl⟩
  · show { s.otp with pairs := s1.cutPairs } = s.otp
    rw [hp e]
  · exact SMap.get_filter_none _ _ _ _ fun _ => hk
  · refine (SMap.get_filter _ _ _ _ fun _ => rfl).trans ?_
    rw [hh]
    exact h4

/-! ### The end of a reset of the accelerator domain -/

theorem only_reloadPrograms (s : State) : Only [.chip, .fns, .hdrs, .meas, .out] s s.reloadPrograms := by
  unfold State.reloadPrograms
  split
  · exact Only.refl _ s
  · exact (Only.foldl (fun _ d ht => ht.then (extendReg_effect _ 4 d).2.2.1) _ (Only.refl _ s)).onChip (by decide) _

theorem only_deriveRoot (s : State) (d : Nat) : Only [.kslots] s (s.deriveRoot d) := by
  unfold State.deriveRoot
  split
  · exact Only.refl _ s
  · exact (Only.refl _ s).modKslot (by decide) _ _

/-- A domain's root stands above slot 0, which holds the service root's key. -/
theorem kslot_deriveRoot (s : State) (d : Nat) (h : s.nDoms < s.nSlots) : (s.deriveRoot d).kslot 0 = s.kslot 0 := by
  unfold State.deriveRoot
  split
  · rfl
  · rw [kslot_modKslot, if_neg]
    unfold State.rootSlot
    omega

theorem kslot_foldl_deriveRoot (s : State) (l : List Nat) (h : s.nDoms < s.nSlots) :
    (l.foldl State.deriveRoot s).kslot 0 = s.kslot 0 := by
  induction l generalizing s with
  | nil => rfl
  | cons d r ih =>
    have hv : (s.deriveRoot d).nDoms < (s.deriveRoot d).nSlots := by
      unfold State.nDoms State.nSlots
      rw [(only_deriveRoot s d).2.1]
      exact h
    exact (ih (s.deriveRoot d) hv).trans (kslot_deriveRoot s d h)

theorem deriveIdentity_effect (s : State) : Only [.kslots] s s.deriveIdentity ∧ s.deriveIdentity.kslot 0 = s.kslot 0 := by
  unfold State.deriveIdentity
  extract_lets cdi put s1 s2 s3 s4
  have hp (t : State) (i : Nat) (k : KSlot) (hi : 0 ≠ i) : Only [.kslots] t (put t i k) ∧ (put t i k).kslot 0 = t.kslot 0 :=
    ⟨(Only.refl _ t).modKslot (by decide) i _, (kslot_modKslot t i 0 _).trans (if_neg hi)⟩
  clear_value put
  obtain ⟨a1, b1⟩ := hp s 1 _ (by decide)
  obtain ⟨a2, b2⟩ := hp s1 2 _ (by decide)
  obtain ⟨a3, b3⟩ := hp s2 3 _ (by decide)
  obtain ⟨a4, b4⟩ := hp s3 4 _ (by decide)
  obtain ⟨a5, b5⟩ := hp s4 5 _ (by decide)
  exact ⟨(((a1.trans a2).trans a3).trans a4).trans a5, b5.trans (b4.trans (b3.trans (b2.trans b1)))⟩

/-- The roots are ready; slot 0 holds the key derived from the service root (R285). -/
theorem deriveRoots_effect (s : State) : Only [.kslots, .klg] s s.deriveRoots ∧ s.deriveRoots.klg.rootsReady = true ∧
    (s.nDoms < s.nSlots → s.deriveRoots.kslot 0 = internalSlot 0x18 0x40 0 s.kdrBytes) := by
  unfold State.deriveRoots
  generalize internalSlot 0x18 0x40 0 s.kdrBytes = v
  extract_lets s1 s2
  have h1 : Only [.kslots] s s1 := (Only.refl _ s).modKslot (by decide) 0 _
  have hk : s1.kslot 0 = v := (kslot_modKslot s 0 0 _).trans (if_pos rfl)
  have hd : s.nDoms < s.nSlots → s1.nDoms < s1.nSlots := id
  clear_value s1
  have h2 : Only [.kslots] s s2 := Only.foldl (fun _ d ht => ht.trans (only_deriveRoot _ d)) _ h1
  have hf : s1.nDoms < s1.nSlots → s2.kslot 0 = s1.kslot 0 := kslot_foldl_deriveRoot s1 _
  clear_value s2
  obtain ⟨h3, h4⟩ := deriveIdentity_effect s2
  generalize s2.deriveIdentity = s3 at h3 h4
  exact ⟨((h2.trans h3).mono (by decide)).onKlg (by decide) _, rfl, fun e => h4.trans ((hf (hd e)).trans hk)⟩

theorem tamperQuarantine_contained (s : State) : Contained workFields s s.tamperQuarantine := by
  unfold State.tamperQuarantine
  refine Contained.foldl (fun t r => ?_) _ s
  split
  · exact Contained.quarantineRegion t r
  · exact Contained.refl _ t

theorem only_spdmSend (s : State) (t : Transport) (m : List Byte) : Only [.out, .spdm] s (s.spdmSend t m) := by
  unfold State.spdmSend State.spdmError State.modSpdm
  split
  · exact (Only.refl _ s).emit (by decide) _
  · exact ((Only.refl _ s).onSpdm (by decide) _).emit (by decide) _

theorem only_sendHeld (s : State) : Only [.out, .spdm, .ump] s s.sendHeld := by
  unfold State.sendHeld State.modSpdm
  refine Only.foldl (fun u t hu => ?_) _ ?_
  · refine Only.foldl (fun v m hv => hv.then (only_spdmSend v t m)) _ (hu.onSpdm (by decide) _)
  · exact (Only.foldl (fun v m hv => hv.emit (by decide) m) _ (Only.refl _ s)).onUmp (by decide) _

theorem only_readCopy (s : State) (k : Nat) (e : Entry) (b : Bool) : Only [.psq, .quads] s (s.readCopy k e b) :=
  (((Only.refl _ s).onPsq (by decide) _).modQuad (by decide) 0 _).then (Contained.giveDirect _).only

theorem accResetComplete_effect (s : State) (h : s.aod.onCell = false) (ha : s.chip.accReset = true) (hu : s.ump.running = true)
    (hs : s.scrapped = false) : Answers (exec (.accResetComplete true) s) fun t => t.chip.accReady = true ∧ t.chip.accReset = false ∧
      t.klg.rootsReady = true ∧ (s.jobs = [] → s.nDoms < s.nSlots → t.kslot 0 = internalSlot 0x18 0x40 0 s.kdrBytes) ∧
      t.aod = s.aod ∧ t.otp = s.otp := by
  change Answers (execAccResetComplete true s) _
  unfold execAccResetComplete
  rw [powered_eq h, if_neg (by simp [ha, hu, hs]), if_pos rfl]
  extract_lets s1 s2 s3
  have h0 := only_reloadPrograms s
  obtain ⟨d1, d2, d3⟩ := deriveRoots_effect s.reloadPrograms
  have hk : s.reloadPrograms.kdrBytes = s.kdrBytes := by
    unfold State.kdrBytes State.rootBytes State.serviceBytes State.deviceId State.deviceSeed State.identity
    rw [h0.same .klg, h0.same .aod, h0.same .otp]
  have hd : s.nDoms < s.nSlots → s.reloadPrograms.nDoms < s.reloadPrograms.nSlots := by
    unfold State.nDoms State.nSlots
    rw [h0.2.1]
    exact id
  rw [hk] at d3
  generalize internalSlot 0x18 0x40 0 s.kdrBytes = v at d3
  have h2 : Only ([.pcie, .kslots, .klg] ++ workFields ++ [.meas]) s s2 := by
    have hq := (tamperQuarantine_contained s.reloadPrograms.deriveRoots).only
    exact ((((h0.mono (by decide)).then d1).then hq).onPcie (by decide) _)
  have hr2 : s2.klg.rootsReady = true ∧ (s.nDoms < s.nSlots → s2.kslot 0 = v) := by
    have hq := (tamperQuarantine_contained s.reloadPrograms.deriveRoots).only
    refine ⟨(congrArg Klg.rootsReady (hq.same .klg)).trans d2, fun e => ?_⟩
    show s1.kslot 0 = v
    unfold State.kslot at d3 ⊢
    rw [hq.same .kslots]
    exact d3 (hd e)
  clear_value s2
  obtain ⟨x, hc⟩ := chip_modChip s2 fun c => { c with accReady := true, accReset := false, resetByUmpire := false }
  have h3 : Only [.out, .fns, .chip, .hdrs, .spdm, .ump] s2 s3 :=
    ((only_modChip s2 _).mono (by decide)).then (only_sendHeld _)
  have hc3 : s3.chip.accReady = true ∧ s3.chip.accReset = false := by
    rw [(only_sendHeld _).same .chip, hc]
    exact ⟨rfl, rfl⟩
  clear_value s3
  have done (t : State) (k : Only [.psq, .quads] s3 t) : t.chip.accReady = true ∧ t.chip.accReset = false ∧ t.klg.rootsReady = true ∧
      (s.jobs = [] → s.nDoms < s.nSlots → t.kslot 0 = v) ∧ t.aod = s.aod ∧ t.otp = s.otp := by
    have h23 : Only [.out, .fns, .chip, .hdrs, .spdm, .ump, .psq, .quads] s2 t := (h3.mono (by decide)).then k
    rw [k.same .chip, h23.same .klg, h23.same .aod, h2.same .aod, h23.same .otp, h2.same .otp]
    refine ⟨hc3.1, hc3.2, hr2.1, fun _ e => ?_, rfl, rfl⟩
    unfold State.kslot at hr2 ⊢
    rw [h23.same .kslots]
    exact hr2.2 e
  split
  · split
    · exact .next (done _ (only_readCopy _ _ _ _))
    · exact .next (done _ (Only.refl _ _))
  · exact .next (done _ (Only.refl _ _))

theorem accResetComplete_failed (s : State) (h : s.aod.onCell = false) (ha : s.chip.accReset = true) (hu : s.ump.running = true)
    (hs : s.scrapped = false) : Answers (exec (.accResetComplete false) s) fun t =>
      .uncorrectableInternal ∈ (t.fn 0).cfg.aerStatus ∧ OutEvent.errFatal ∈ t.out ∧
      ((s.fn 0).cfg.aerMask.contains .uncorrectableInternal = false → OutEvent.aer 0 .uncorrectableInternal true ∈ t.out) ∧
      Only [.fns, .out] s t := by
  change Answers (execAccResetComplete false s) _
  unfold execAccResetComplete
  rw [powered_eq h, if_neg (by simp [ha, hu, hs]), if_neg (by decide)]
  obtain ⟨h1, h2⟩ := reportAer_effect s 0 .uncorrectableInternal true
  exact .next ⟨h1, List.mem_append_right _ List.mem_cons_self, fun e => out_emit _ _ (h2 e),
    (only_reportAer s 0 _ true).emit (by decide) _⟩

/-! ### The direct port -/

/-- A direct job has ended with its digest or its error, and the quad's port is free again (R246). -/
def State.DirectEnded (s t : State) (r : Nat) (res : Except Nat (List Byte)) : Prop :=
  (t.quad r).dirBusy = false ∧ Only [.chip, .fns, .hdrs, .meas, .out, .quads] s t ∧
    match res with
    | .ok d => (t.quad r).dirDone = true ∧ (t.quad r).dirCode = 0 ∧ (t.quad r).dirOut = padTo 64 d ∧
        (t.quad r).dirError = (s.quad r).dirError ∧
        if (s.quad r).dirExtend = true then ∀ n, n = (s.quad r).dirMreg.toNat →
          (t.mreg n).val = sha3_512 ((s.mreg n).val ++ padTo 64 d) ∧ (t.mreg n).cnt = (s.mreg n).cnt + 1
        else t.meas = s.meas
    | .error e => (t.quad r).dirError = true ∧ (t.quad r).dirCode = BitVec.ofNat 8 e ∧ t.meas = s.meas ∧
        (t.hdr (.qad r)).status.getLsbD 9 = true

/-- With no isolation due, a freed cell is given on and nothing else follows. -/
theorem giveDirect_settle (s u : State) (r : Nat) (h : Only [.chip, .fns, .hdrs, .meas, .out, .quads] s u) (hn : s.NoneDue r)
    (hp : (u.quad r).pendIso = (s.quad r).pendIso) : Only [.quads] u (u.giveDirect.settle r) ∧
      ∃ y z, (u.giveDirect.settle r).quad r = { u.quad r with busy := y, direct := z } := by
  have h3 := (Contained.giveDirect u).only
  obtain ⟨y, z, hq⟩ := (WorkDone.giveDirect u).quads r
  have hs := (h.then h3).same .slices
  rw [settle_of_noneDue (hn.of_same (by rw [hq, hp]) fun i => by unfold State.slice; rw [hs])]
  exact ⟨h3, y, z, hq⟩

theorem directEnd_effect (s : State) (r : Nat) (flash : Option (List Byte)) (hb : (s.quad r).dirBusy = true)
    (hd : (s.quad r).direct ≠ 0) (hf : (s.quad r).dirFault = false) (hn : s.NoneDue r) :
    s.DirectEnded (s.directEnd r flash) r (s.dirResult (s.quad r) flash) := by
  unfold State.directEnd
  extract_lets x cell s0
  rw [if_neg (not_or.2 ⟨by rw [hb]; decide, hd⟩), show s0 = s from if_neg (by rw [hf]; decide)]
  show s.DirectEnded (match s.dirResult (s.quad r) flash with
    | .error e => (s.directFail r e).settle r
    | .ok d => _) r (s.dirResult (s.quad r) flash)
  rcases s.dirResult (s.quad r) flash with e | d
  · dsimp only
    unfold State.directFail
    generalize hf : (fun x : Quad => ({ x with dirBusy := false, direct := 0, dirFault := false, dirError := true, dirOut := []
                                               dirCode := BitVec.ofNat 8 e } : Quad)) = f
    have hm : ((s.modQuad r f).quad r) = f (s.quad r) := (quad_modQuad s r r f).trans (if_pos rfl)
    have h1 : Only [.quads] s (s.modQuad r f) := (Only.refl _ s).modQuad (by decide) r f
    have h2 := only_setBit (s.modQuad r f) (.qad r) 9
    have hb9 := status_setBit (s.modQuad r f) (.qad r) (n := 9) (by decide)
    generalize (s.modQuad r f).setBit (.qad r) 9 = u at h2 hb9
    have hu : u.quad r = f (s.quad r) := by unfold State.quad at hm ⊢; rw [h2.same .quads]; exact hm
    have h3 : Only [.chip, .fns, .hdrs, .meas, .out, .quads] s u := (h1.mono (by decide)).then h2
    obtain ⟨h4, y, z, hq⟩ := giveDirect_settle s u r h3 hn (by rw [hu, ← hf])
    rw [hu, ← hf] at hq
    unfold State.DirectEnded
    rw [hq]
    refine ⟨rfl, h3.then h4, rfl, rfl, ?_, ?_⟩
    · rw [h4.same .meas, h2.same .meas]; rfl
    · rw [hdr_of_hdrs (h4.same .hdrs)]; exact hb9
  · dsimp only
    generalize hf : (fun x : Quad => ({ x with
      dirOut := padTo 64 d, bytes := x.bytes + x.dirLen, dirBusy := false, direct := 0, dirFault := false } : Quad)) = f
    generalize hs2 : (if x.dirExtend = true then (s.modQuad r f).extendReg x.dirMreg.toNat d else s.modQuad r f) = u
    have hm : ((s.modQuad r f).quad r) = f (s.quad r) := (quad_modQuad s r r f).trans (if_pos rfl)
    have h1 : Only [.quads] s (s.modQuad r f) := (Only.refl _ s).modQuad (by decide) r f
    have h2 : Only [.chip, .fns, .hdrs, .meas, .out] (s.modQuad r f) u ∧
        if (s.quad r).dirExtend = true then ∀ n, n = (s.quad r).dirMreg.toNat →
          (u.mreg n).val = sha3_512 ((s.mreg n).val ++ padTo 64 d) ∧ (u.mreg n).cnt = (s.mreg n).cnt + 1
        else u.meas = s.meas := by
      by_cases he : (s.quad r).dirExtend = true
      · rw [if_pos he] at hs2 ⊢
        obtain ⟨k1, -, k2, -⟩ := extendReg_effect (s.modQuad r f) x.dirMreg.toNat d
        rw [hs2] at k1 k2
        refine ⟨k2, fun n hn => ?_⟩
        rw [hn, k1]
        exact ⟨rfl, rfl⟩
      · rw [if_neg he] at hs2 ⊢
        rw [← hs2]
        exact ⟨Only.refl _ _, rfl⟩
    generalize s.modQuad r f = v at *
    obtain ⟨h2, hx⟩ := h2
    have hu : u.quad r = f (s.quad r) := by unfold State.quad at hm ⊢; rw [h2.same .quads]; exact hm
    have h3 : Only [.quads] u (u.modQuad r fun x => { x with dirDone := true, dirCode := 0 }) := (Only.refl _ u).modQuad (by decide) r _
    have hw : (u.modQuad r fun x => { x with dirDone := true, dirCode := 0 }).quad r = { f (s.quad r) with dirDone := true, dirCode := 0 } := by
      rw [quad_modQuad, if_pos rfl, hu]
    generalize u.modQuad r (fun x => { x with dirDone := true, dirCode := 0 }) = w at h3 hw
    have h5 : Only [.chip, .fns, .hdrs, .meas, .out, .quads] s w := ((h1.mono (by decide)).then h2).then h3
    obtain ⟨h4, y, z, hq⟩ := giveDirect_settle s w r h5 hn (by rw [hw, ← hf])
    rw [hw, ← hf] at hq
    unfold State.DirectEnded
    unfold State.mreg at hx ⊢
    rw [hq, h4.same .meas, h3.same .meas]
    exact ⟨rfl, h5.then h4, rfl, rfl, rfl, rfl, hx⟩

theorem directDone_effect (s : State) (r : Nat) (flash : Option (List Byte)) (hb : (s.quad r).dirBusy = true)
    (hd : (s.quad r).direct ≠ 0) (hf : (s.quad r).dirFault = false) (hn : s.NoneDue r)
    (hv : s.psq.verifying = none ∨ r ≠ 0 ∨ s.ump.running = false) :
    Answers (exec (.directDone r flash) s) fun t => s.DirectEnded t r (s.dirResult (s.quad r) flash) := by
  change Answers (execDirectDone r flash s) _
  unfold execDirectDone
  have h := directEnd_effect s r flash hb hd hf hn
  split
  · next hc =>
    have hv : s.psq.verifying = none := hv.resolve_right (by simp [hc])
    have hi : (s.directEnd r flash).entryDone = s.directEnd r flash := by
      unfold State.entryDone
      rw [h.2.1.same .psq, hv]
    exact .next (by rw [hi]; exact h)
  · exact .next h

theorem padTo_padTo (n : Nat) (l : List Byte) : padTo n (padTo n l) = padTo n l := by
  have h : (padTo n l).length = n := by unfold padTo; simp; omega
  unfold padTo at h ⊢
  rw [h, List.take_of_length_le h.le]
  simp

/-- The verified copy's outcome stands, and its register is extended once (R316). -/
theorem entryOk_effect (s : State) (k : Nat) (e : Entry) (b : Bool) :
    (s.entryOk k e b).entState k = (if b = true then EntryState.copyB else .copyA) ∧
      ∀ n, n = e.mreg.toNat → ((s.entryOk k e b).mreg n).val = sha3_512 ((s.mreg n).val ++ padTo 64 e.digest) ∧
        ((s.entryOk k e b).mreg n).cnt = (s.mreg n).cnt + 1 := by
  unfold State.entryOk
  extract_lets s1
  have he : s1.psq.entries = s.psq.entries.set .untried k (if b then .copyB else .copyA) := rfl
  have hm : s1.meas = s.meas := rfl
  clear_value s1
  obtain ⟨h1, -, h2, -⟩ := extendReg_effect s1 e.mreg.toNat e.digest
  generalize s1.extendReg e.mreg.toNat e.digest = s2 at h1 h2
  have h3 := Proceeds.progress s2
  constructor
  · unfold State.entState
    rw [h3.entries, h2.same .psq, he]
    exact SMap.get_set_same _ _ _ _
  · rintro n rfl
    unfold State.mreg at h1 ⊢
    rw [h3.meas, h1, hm]
    exact ⟨rfl, rfl⟩

theorem raises_phaseOff (s : State) (ph : Nat) : Raises s (s.phaseOff ph) := by
  unfold State.phaseOff
  split
  · exact Raises.refl s
  · exact Raises.onPsq s _

theorem raises_holdOther (s : State) (g : Nat) : Raises s (s.holdOther g) := by
  unfold State.holdOther
  split
  · split
    · exact ((Proceeds.dropGroup s _).trans' (Proceeds.setGrp _ _ _)).toRaises.trans' (Raises.onPsq _ _)
    · exact Raises.refl s
  · exact Raises.refl s

theorem raises_groupFail (s : State) (g : Nat) : Raises s (s.groupFail g) := by
  unfold State.groupFail
  split
  · exact Raises.refl s
  · extract_lets s1
    have h1 : Raises s s1 := (raises_phaseOff s _).trans' (raises_holdOther _ g)
    clear_value s1
    split
    · exact h1.trans' (Proceeds.waitSource s1 g _).toRaises
    · exact h1.trans' (Raises.startRecovery s1 g 0)

theorem entryFail_effect (s : State) (k : Nat) (e : Entry) (c : Nat) : ((s.entryFail k e c).hdr .psq).status.getLsbD 10 = true := by
  unfold State.entryFail
  extract_lets s1 s2
  have h2 : (s2.hdr .psq).status.getLsbD 10 = true :=
    (Proceeds.verdict (s1.setBit .psq 10) c (k % 32)).bit (status_setBit s1 .psq (by decide))
  clear_value s2
  refine (Proceeds.progress _).bit ?_
  split
  · exact (raises_groupFail s2 (k / 32)).bit h2
  · exact h2

/-- The copy does not match, and the entry names a second one: it is read next (R316, R319). -/
theorem readNext_effect (s : State) (k : Nat) (e : Entry) :
    let t := ((s.setBit .psq 10).verdict 0x10 (k % 32)).readCopy k e true
    (t.hdr .psq).status.getLsbD 10 = true ∧ t.psq.verifying = some (k, true) ∧ t.psq.code = 0x10 ∧ t.meas = s.meas := by
  have h1 := Proceeds.setBit s .psq 10
  have hb := status_setBit s .psq (n := 10) (by decide)
  generalize s.setBit .psq 10 = u at h1 hb
  have h2 := Proceeds.verdict u 0x10 (k % 32)
  have hc : (u.verdict 0x10 (k % 32)).psq.code = 0x10 := rfl
  generalize u.verdict 0x10 (k % 32) = v at h2 hc
  have h3 := Proceeds.readCopy v k e true
  have hp : (v.readCopy k e true).psq = { v.psq with verifying := some (k, true) } := (Contained.giveDirect _).only.same .psq
  refine ⟨h3.bit (h2.bit hb), congrArg Psq.verifying hp, (congrArg Psq.code hp).trans hc, ?_⟩
  exact h3.meas.trans (h2.meas.trans h1.meas)

theorem verification_effect (s : State) (flash : Option (List Byte)) (k : Nat) (b : Bool) (e : Entry) (hb : (s.quad 0).dirBusy = true)
    (hu : s.ump.running = true) (hd : (s.quad 0).direct ≠ 0) (hf : (s.quad 0).dirFault = false) (hn : s.NoneDue 0)
    (hv : s.psq.verifying = some (k, b)) (he : s.verEntry k = some e) (hx : (s.quad 0).dirExtend = false)
    (hr : (s.quad 0).dirError = false) : Answers (exec (.directDone 0 flash) s) fun t =>
      match s.dirResult (s.quad 0) flash with
      | .ok d =>
          if padTo 64 d = e.digest then t.entState k = (if b = true then EntryState.copyB else .copyA) ∧
            ∀ n, n = e.mreg.toNat → (t.mreg n).val = sha3_512 ((s.mreg n).val ++ padTo 64 e.digest) ∧
              (t.mreg n).cnt = (s.mreg n).cnt + 1
          else (t.hdr .psq).status.getLsbD 10 = true ∧ (b = false → e.alt = true → t.psq.verifying = some (k, true) ∧
            t.psq.code = 0x10 ∧ t.meas = s.meas)
      | .error _ => (t.hdr .psq).status.getLsbD 10 = true := by
  change Answers (execDirectDone 0 flash s) _
  unfold execDirectDone
  rw [if_pos ⟨hb, rfl, hu⟩]
  obtain ⟨-, ho, h⟩ := directEnd_effect s 0 flash hb hd hf hn
  generalize s.directEnd 0 flash = t at ho h
  have hp := ho.same .psq
  have ht : t.verEntry k = some e := by
    unfold State.verEntry State.groupEntries State.manOf at he ⊢
    rw [hp]
    exact he
  refine .next ?_
  unfold State.entryDone
  rw [hp, hv]
  dsimp only
  rw [ht]
  dsimp only
  generalize s.dirResult (s.quad 0) flash = res at h ⊢
  rcases res with c | d
  · obtain ⟨h1, -, -, -⟩ := h
    rw [if_pos h1]
    exact entryFail_effect t k e 0x12
  · obtain ⟨-, -, h1, h2, h3⟩ := h
    rw [if_neg (by rw [hx]; decide)] at h3
    rw [if_neg (by rw [h2, hr]; decide), h1, padTo_padTo]
    by_cases hm : padTo 64 d = e.digest
    · simp only [if_pos hm]
      have hk := entryOk_effect t k e b
      unfold State.mreg at hk ⊢
      rw [h3] at hk
      exact hk
    · simp only [if_neg hm]
      split
      · obtain ⟨k1, k2, k3, k4⟩ := readNext_effect t k e
        exact ⟨k1, fun _ _ => ⟨k2, k3, k4.trans h3⟩⟩
      · next hc => exact ⟨entryFail_effect t k e 0x11, fun h1 h2 => absurd ⟨h1, h2⟩ hc⟩

/-- Settles O42, one theorem for each instruction and each of its outcomes. -/
theorem powerResetCompletionAndDirectJobs : Obligations.PowerResetCompletionAndDirectJobs := by
  unfold Obligations.PowerResetCompletionAndDirectJobs
  refine ⟨powerGood_effect, mainPowerLoss_effect, accResetComplete_effect, accResetComplete_failed, fun s r flash hb hd hf hn hv => ?_,
    fun s flash k b e hb hu hd hf hn hv he hx hr => verification_effect s flash k b e hb hu hd hf hn hv he hx hr⟩
  obtain ⟨t, e, h1, h2, h3⟩ := directDone_effect s r flash hb hd hf hn hv
  refine ⟨t, e, h1, h2, ?_⟩
  generalize s.dirResult (s.quad r) flash = res at h3 ⊢
  rcases res with c | d
  · exact h3
  · obtain ⟨k1, k2, k3, -, k4⟩ := h3
    exact ⟨k1, k2, k3, k4⟩

end Sys2Proof.Machine

/-!
# Programs loaded, life-cycle requests and transitions, ageing and cadence (R28, R220, R388 to R392, R438 to R442)
-/

namespace Sys2Proof.Machine

-- One declaration after the other: elaborated side by side, the row as one text takes more threads than the check allows.
set_option Elab.async false

/-! ### Loading a program (R220, R221) -/

/-- An entry of the event log is its last one. -/
theorem getLast_logEvent (s : State) (page code flags detail : Nat) : (s.logEvent page code flags detail).ump.events.getLast? = some
    { ticks := s.aod.rtc, page := BitVec.ofNat 16 page, code := BitVec.ofNat 8 code, flags := BitVec.ofNat 8 flags
      detail := BitVec.ofNat 48 detail } := by
  unfold State.logEvent
  rw [State.onUmp_ump]
  dsimp only
  rw [List.drop_append_of_le_length (by omega)]
  exact List.getLast?_concat

/-- A program accepted is the newest version of its ID, in the lowest free slot. -/
theorem progs_installProgram (s : State) (img : List Byte) (n : Nat) (hn : s.freeProg = some n) (hi : imgSyl img ≠ 0) :
    (s.installProgram img).progs.get none n = some (imgProg img) := by
  unfold State.installProgram
  extract_lets id
  rw [if_neg hi, hn]
  exact SMap.get_set_same none (s.deselect id).progs n (some (imgProg img))

theorem programLoad_effect (s : State) (img : List Byte) (h : s.aod.onCell = false) : Answers (exec (.programLoad img) s) fun t =>
    (∃ e, t.ump.events.getLast? = some e ∧ e.page = 0x0F ∧ e.code = BitVec.ofNat 8 (s.checkProgram img).1 ∧
      e.flags = BitVec.ofNat 8 (s.checkProgram img).2.1) ∧
    ((s.checkProgram img).1 = 0 → (t.mreg 4).val = sha3_512 ((s.mreg 4).val ++ padTo 64 (sha3_512 img)) ∧
      (t.mreg 4).cnt = (s.mreg 4).cnt + 1 ∧
      ∀ n, s.freeProg = some n → imgSyl img ≠ 0 → t.progs.get none n = some (imgProg img)) ∧
    ((s.checkProgram img).1 ≠ 0 → Only [.ump] s t) ∧ Only [.chip, .fns, .hdrs, .meas, .out, .progs, .store, .ump] s t := by
  change Answers (execProgramLoad img s) _
  unfold execProgramLoad
  rw [powered_eq h]
  refine .next ?_
  unfold State.loadProgram
  generalize s.checkProgram img = r
  extract_lets
  have report (t : State) : Only [.ump] t (t.reportLoad img r) := (Only.refl _ t).onUmp (by decide) _
  by_cases hr : r.1 = 0
  · rw [if_pos hr]
    dsimp only
    have h1 := Rests.installProgram s img
    have hp := progs_installProgram s img
    generalize s.installProgram img = u at h1 hp
    have h2 := Rests.keepProgram u img
    generalize u.keepProgram img = v at h2
    obtain ⟨k1, -, k2, -⟩ := extendReg_effect v 4 (sha3_512 img)
    generalize hd : sha3_512 img = d at k1 k2
    generalize v.extendReg 4 d = w at k1 k2
    have hm : v.mreg 4 = s.mreg 4 := by unfold State.mreg; rw [h2.same .meas, h1.same .meas]
    have hw : (w.reportLoad img r).mreg 4 = w.mreg 4 := by unfold State.mreg; rw [(report w).same .meas]
    refine ⟨⟨_, getLast_logEvent _ _ _ _ _, rfl, rfl, rfl⟩, fun _ => ⟨?_, ?_, fun n e1 e2 => ?_⟩, fun e => absurd hr e, ?_⟩
    · rw [hw, k1, hm]
    · rw [hw, k1, hm]
    · rw [← hp n e1 e2]
      exact congrArg (SMap.get none · n) ((report w).same .progs |>.trans (k2.same .progs) |>.trans (h2.same .progs))
    · exact ((((h1.mono (by decide)).then h2).then k2).then (report w))
  · rw [if_neg hr]
    exact ⟨⟨_, getLast_logEvent _ _ _ _ _, rfl, rfl, rfl⟩, fun e => absurd e hr, fun _ => report s, (report s).mono (by decide)⟩

/-! ### Requests of the life cycle (R388, R391, R392) -/

theorem lcResult_effect (s : State) (kind code : Nat) (ok : Bool) :
    (s.lcResult kind code ok).lcs = { s.lcs with resultCode := BitVec.ofNat 8 code, resultKind := BitVec.ofNat 3 kind, resultValid := true } ∧
      (ok = false → ((s.lcResult kind code ok).hdr .lcs).status.getLsbD 9 = true ∧
        Only [.chip, .fns, .hdrs, .lcs, .out] s (s.lcResult kind code ok)) ∧
      (ok = true → Only [.lcs] s (s.lcResult kind code ok)) := by
  unfold State.lcResult
  extract_lets s1
  have h1 : Only [.lcs] s s1 := (Only.refl _ s).onLcs (by decide) _
  have hl : s1.lcs = { s.lcs with resultCode := BitVec.ofNat 8 code, resultKind := BitVec.ofNat 3 kind, resultValid := true } := rfl
  clear_value s1
  cases ok
  · have h2 := only_setBit s1 .lcs 9
    exact ⟨(h2.same .lcs).trans hl, fun _ => ⟨status_setBit s1 .lcs (by decide), (h1.mono (by decide)).then h2⟩, nofun⟩
  · exact ⟨hl, nofun, fun _ => h1⟩

theorem transitionRequest_effect (s : State) (obj : List Byte) (h : s.ump.running = true) :
    Answers (exec (.lifecycleTransitionRequest obj) s) fun t =>
    (s.checkTransition obj ≠ 0 → t.lcs = { s.lcs with
      resultCode := BitVec.ofNat 8 (s.checkTransition obj), resultKind := 1, resultValid := true } ∧
      (t.hdr .lcs).status.getLsbD 9 = true ∧ Only [.chip, .fns, .hdrs, .lcs, .out] s t) ∧
    (s.checkTransition obj = 0 → t.lcs = { s.lcs with
        resultCode := 0, resultKind := 1, resultValid := true, trans := some (leAt obj 0x49 1, 0), heldChal := s.aod.challenge } ∧
      t.aod = { s.aod with challenge := none } ∧ Only [.aod, .lcs] s t) := by
  change Answers (execLifecycleTransitionRequest obj s) _
  unfold execLifecycleTransitionRequest State.transitionRequest
  refine .next ?_
  rw [if_neg (by rw [h]; decide)]
  generalize s.checkTransition obj = c
  dsimp only
  by_cases hc : c = 0
  · rw [if_pos hc]
    obtain ⟨h1, -, h2⟩ := lcResult_effect s 1 0 true
    have h2 := h2 rfl
    generalize s.lcResult 1 0 true = u at h1 h2
    refine ⟨fun e => absurd hc e, fun _ => ⟨?_, ?_, ((h2.mono (by decide)).onAod (by decide) _).onLcs (by decide) _⟩⟩
    · show { u.lcs with trans := some (leAt obj 0x49 1, 0), heldChal := s.aod.challenge } = _
      rw [h1]
      rfl
    · show { u.aod with challenge := none } = _
      rw [h2.same .aod]
  · rw [if_neg hc]
    obtain ⟨h1, h2, -⟩ := lcResult_effect s 1 c false
    obtain ⟨h2, h3⟩ := h2 rfl
    exact ⟨fun _ => ⟨h1, h2, h3⟩, fun e => absurd e hc⟩

theorem debugGrant_effect (s : State) (obj : List Byte) (h : s.ump.running = true) : Answers (exec (.debugGrant obj) s) fun t =>
    t.lcs = { s.lcs with resultCode := BitVec.ofNat 8 (s.checkGrant obj true), resultKind := 2, resultValid := true } ∧
    (if s.checkGrant obj true = 0x10 then t.store = { s.store with grant := some (grantOf obj), grantRaw := obj }
     else t.store = s.store ∧ (t.hdr .lcs).status.getLsbD 9 = true) ∧ t.dbg = s.dbg ∧
    Only [.chip, .fns, .hdrs, .lcs, .out, .store] s t := by
  change Answers (execDebugGrant obj s) _
  unfold execDebugGrant State.grantRequest
  refine .next ?_
  rw [if_neg (by rw [h]; decide)]
  generalize s.checkGrant obj true = c
  extract_lets _ s1
  obtain ⟨h1, h2, h3⟩ := lcResult_effect s 2 c (c == 0x10)
  have h1 : s1.lcs = _ := h1
  by_cases hc : c = 0x10
  · have h3 : Only [.lcs] s s1 := h3 (beq_iff_eq.2 hc)
    clear_value s1
    rw [if_pos hc, if_pos hc]
    refine ⟨h1, ?_, h3.same .dbg, (h3.mono (by decide)).onStore (by decide) _⟩
    show { s1.store with grant := some (grantOf obj), grantRaw := obj } = _
    rw [h3.same .store]
  · obtain ⟨h2, h3⟩ := h2 (beq_eq_false_iff_ne.2 hc)
    have h2 : (s1.hdr .lcs).status.getLsbD 9 = true := h2
    have h3 : Only [.chip, .fns, .hdrs, .lcs, .out] s s1 := h3
    rw [if_neg hc, if_neg hc]
    exact ⟨h1, ⟨h3.same .store, h2⟩, h3.same .dbg, h3.mono (by decide)⟩

theorem ownerKeyUpdate_effect (s : State) (obj : List Byte) (h : s.ump.running = true) : Answers (exec (.ownerKeyUpdate obj) s) fun t =>
    t.lcs = { s.lcs with resultCode := BitVec.ofNat 8 (s.checkOwnerKey obj), resultKind := 3, resultValid := true } ∧
    (if s.checkOwnerKey obj = 0 then t.otp = s.otp.addHash (leAt obj 0x48 1) (cut obj 0x50 64) ∧
        t.aod = { s.aod with challenge := none } ∧ (t.hdr .lcs).status.getLsbD 10 = true
     else t.otp = s.otp ∧ t.aod = s.aod ∧ (t.hdr .lcs).status.getLsbD 9 = true) ∧
    Only [.aod, .chip, .fns, .hdrs, .lcs, .otp, .out] s t := by
  change Answers (execOwnerKeyUpdate obj s) _
  unfold execOwnerKeyUpdate State.ownerKeyRequest
  refine .next ?_
  rw [if_neg (by rw [h]; decide)]
  generalize s.checkOwnerKey obj = c
  extract_lets _ s1
  obtain ⟨h1, h2, h3⟩ := lcResult_effect s 3 c (c == 0)
  have h1 : s1.lcs = _ := h1
  by_cases hc : c = 0
  · have h3 : Only [.lcs] s s1 := h3 (beq_iff_eq.2 hc)
    clear_value s1
    rw [if_pos hc, if_pos hc]
    generalize hu : (s1.onOtp fun o => o.addHash (leAt obj 0x48 1) (cut obj 0x50 64)).onAod (fun a => { a with challenge := none }) = u
    have hl : u.lcs = s1.lcs := by rw [← hu]; rfl
    have ho : u.otp = s.otp.addHash (leAt obj 0x48 1) (cut obj 0x50 64) := by rw [← hu, ← h3.same .otp]; rfl
    have ha : u.aod = { s.aod with challenge := none } := by rw [← hu, ← h3.same .aod]; rfl
    have h4 : Only [.aod, .lcs, .otp] s u := by rw [← hu]; exact ((h3.mono (by decide)).onOtp (by decide) _).onAod (by decide) _
    have h5 := only_setBit u .lcs 10
    exact ⟨(h5.same .lcs).trans (hl.trans h1), ⟨(h5.same .otp).trans ho, (h5.same .aod).trans ha, status_setBit u .lcs (by decide)⟩,
      (h4.mono (by decide)).then h5⟩
  · obtain ⟨h2, h3⟩ := h2 (beq_eq_false_iff_ne.2 hc)
    have h2 : (s1.hdr .lcs).status.getLsbD 9 = true := h2
    have h3 : Only [.chip, .fns, .hdrs, .lcs, .out] s s1 := h3
    rw [if_neg hc, if_neg hc]
    exact ⟨h1, ⟨h3.same .otp, h3.same .aod, h2⟩, h3.mono (by decide)⟩

/-! ### The engine of a transition (R389, R390) -/

/-- A wipe of the accelerator domain makes no domain. -/
theorem domains_accWipe (s : State) (h : s.domains = []) : (s.accWipe false).domains = [] := by
  have hw : (s.wipedUnits false).domains = [] := by
    unfold State.wipedUnits
    have h1 : Only [.eights, .quads, .slices, .jobs, .reqs, .chans, .gens, .chFreed, .msh, .kslots, .kfrees, .meas, .fns, .progs, .bst] s
        (s.clearUnits.clearStaleProgs.bstEnd 4) :=
      (((only_clearUnits s).mono (by decide)).onProgs (by decide) _).then (only_bstEnd _ 4)
    generalize s.clearUnits.clearStaleProgs.bstEnd 4 = u at h1
    extract_lets s1 epoch s2 s3 s4 s5 s6
    have k3 : Only [.aod, .genBase, .klg, .freeCtr] u s3 :=
      ((((Only.refl _ u).onAod (by decide) _).onGenBase (by decide) _).onKlg (by decide) _).spend (by decide) _
    clear_value s3
    have h3 : s3.domains = [] := (k3.same .domains).trans ((h1.same .domains).trans h)
    have h4 : Only [.hdrs] s3 s4 := Only.klgLock (by decide) ((Only.refl _ s3).onHdrs (by decide) _)
    clear_value s4
    have h5 : s5.domains = [] := by
      dsimp only [s5]
      rw [State.onDomains_domains, h4.same .domains, h3]
      rfl
    clear_value s5
    have h6 : s6.domains = [] := ((only_modChip s5 (Chip.wiped false)).same .domains).trans h5
    clear_value s6
    exact h6
  rw [accWipe_eq, if_neg Bool.false_ne_true]
  generalize s.wipedUnits false = w at hw
  have he : Only [.pcie, .sessions, .spdm] w w.endDoe := Only.endDoe (by decide) (by decide) (by decide) (Only.refl _ w)
  exact (he.same .domains).trans hw

theorem only_cardOff (s : State) (removed : Bool) : Only [.cci, .chip, .fns, .freeCtr, .hdrs, .out] s (s.cardOff removed) := by
  unfold State.cardOff
  extract_lets m s1
  have h1 : Only [.cci, .chip, .fns, .freeCtr, .hdrs, .out] s s1 := ((Only.refl _ s).onCci (by decide) _).spend (by decide) 1
  exact Only.ite (h1.then (only_setBit s1 .cci 10)) h1

/-- What an accepted transition has wiped at its second step (R389). -/
theorem lifeWipe_effect (s : State) (new : Nat) : let t := s.lifeWipe new
    t.lcs = { state := s.lcs.state, trans := some (new, 1) } ∧ t.domains = [] ∧ t.store.domA = none ∧
      t.store.domB = none ∧ t.aod.serviceRoot = none ∧ t.aod.challenge = none ∧ t.aod.ev = {} ∧ t.aod.epoch = s.aod.epoch ∧
      t.chip.accReset = true ∧ t.chip.accReady = false ∧ t.chans = [] ∧ t.ump.running = false ∧ t.cci.pwr = false ∧ t.otp = s.otp := by
  dsimp only
  unfold State.lifeWipe
  extract_lets s0 s1 s2 s3
  have h1 : Only [.aod, .out, .fns, .chip, .hdrs, .freeCtr, .ump] s s1 :=
    (((Only.refl [.ump] s).onUmp (by decide) _).mono (by decide)).then (logPlain_effect s0 0x14).1 |>.onAod (by decide) _
  have a1 : s1.aod.serviceRoot = none ∧ s1.aod.challenge = none ∧ s1.aod.ev = {} := ⟨rfl, rfl, rfl⟩
  clear_value s1
  obtain ⟨h2, d2⟩ : Only [.cci, .chip, .fns, .freeCtr, .hdrs, .out, .domains, .store] s1 s2 ∧
      s2.domains = [] ∧ s2.store.domA = none ∧ s2.store.domB = none := by
    have k := only_cardOff ((s1.onDomains fun _ => []).onStore fun x => { x with domA := none, domB := none }) false
    have ks := k.same .store
    exact ⟨(((Only.refl [.domains, .store] s1).onDomains (by decide) _).onStore (by decide) _ |>.mono (by decide)).then k,
      k.same .domains, congrArg Store.domA ks, congrArg Store.domB ks⟩
  clear_value s2
  have h3 := only_closeForReset s2
  have a3 := aod_closeForReset s2
  have e3 : s3 = (s2.closeForReset.rootReset false false).accWipe false := rfl
  generalize s2.closeForReset = u at h3 a3 e3
  obtain ⟨r1, -, r2, r3, -, r4, r5, r6, r7⟩ := rootReset_effect u false
  generalize u.rootReset false false = v at *
  obtain ⟨w1, -, w2, w3, w4, -, w5⟩ := accWipe_effect v
  have w6 := domains_accWipe v
  rw [← e3] at w1 w2 w3 w4 w5 w6
  clear_value s3
  have ha : s3.aod = { s2.aod with heatNo := s2.aod.heatNo + 1, epoch := v.aod.epoch + 1 } := by rw [w2, r1, a3]
  rw [h2.same .aod] at ha
  have hs : s3.store = s2.store := by rw [w5.same .store, r6, h3.same .store]
  refine ⟨?_, ?_, ?_, ?_, ?_, ?_, ?_, rfl, w3, w4, w1.2.2, ?_, ?_, ?_⟩
  · show { s3.lcs with trans := some (new, 1) } = _
    rw [w5.same .lcs, r3, h3.same .lcs, h2.same .lcs, h1.same .lcs]
  · exact w6 (r5.trans ((h3.same .domains).trans d2.1))
  · show s3.store.domA = none
    rw [hs]
    exact d2.2.1
  · show s3.store.domB = none
    rw [hs]
    exact d2.2.2
  · show s3.aod.serviceRoot = none
    rw [ha]
    exact a1.1
  · show s3.aod.challenge = none
    rw [ha]
    exact a1.2.1
  · show s3.aod.ev = {}
    rw [ha]
    exact a1.2.2
  · show s3.ump.running = false
    rw [w5.same .ump, r4]
  · show s3.cci.pwr = false
    rw [w5.same .cci, r7]
  · show s3.otp = s.otp
    rw [w5.same .otp, r2, h3.same .otp, h2.same .otp, h1.same .otp]

/-- The last step of a transition restarts both domains; into SCRAPPED, with the identity root blown (R390). -/
def State.lifeRestart (s : State) (new : Nat) : State :=
  ((if new = 5 then s.onOtp fun o => { o with identityRoot := some (BitVec.allOnes 512) } else s).onLcs fun l =>
    { l with trans := none }).startRoot false true false []

theorem lifeTick_of_three (s : State) (new : Nat) (h : s.lcs.trans = some (new, 3)) : s.lifeTick = s.lifeRestart new := by
  unfold State.lifeTick
  rw [h]
  rfl

theorem lifeRestart_effect (s : State) (new : Nat) : let t := s.lifeRestart new
    t.lcs.trans = none ∧ t.otp.pairs = s.otp.pairs ∧ t.chip.accReset = true ∧
      t.chip.accReady = false ∧ t.chans = [] ∧ (new = 5 → t.otp.identityRoot = some (BitVec.allOnes 512)) := by
  dsimp only
  unfold State.lifeRestart
  generalize hs1 : (if new = 5 then s.onOtp fun o => { o with identityRoot := some (BitVec.allOnes 512) } else s) = s1
  have hp : s1.otp.pairs = s.otp.pairs := by rw [← hs1]; split <;> rfl
  have hr : new = 5 → s1.otp.identityRoot = some (BitVec.allOnes 512) := fun e => by rw [← hs1, if_pos e]; rfl
  obtain ⟨hf, -⟩ := startRoot_effect (s1.onLcs fun l => { l with trans := none }) false true [] (.inr rfl)
  exact ⟨hf.trans, hf.pairs.trans hp, hf.acc.1, hf.acc.2, hf.idle.2.2, fun e => hf.root (hr e)⟩

/-- One tick of the engine takes the transition's next step (log entry 55). -/
theorem lifeTick_effect (s : State) (new : Nat) : let t := s.lifeTick
    (s.lcs.trans = none → t = s) ∧
    (s.lcs.trans = some (new, 0) → t.lcs = { state := s.lcs.state, trans := some (new, 1) } ∧ t.domains = [] ∧ t.store.domA = none ∧
      t.store.domB = none ∧ t.aod.serviceRoot = none ∧ t.aod.challenge = none ∧ t.aod.ev = {} ∧ t.aod.epoch = s.aod.epoch ∧
      t.chip.accReset = true ∧ t.chip.accReady = false ∧ t.chans = [] ∧ t.ump.running = false ∧ t.cci.pwr = false ∧ t.otp = s.otp) ∧
    (s.lcs.trans = some (new, 1) → t.otp = { s.otp with pairs := s.otp.pairs ++ [(Config.codeWord new, 0)] } ∧
      t.lcs = { s.lcs with trans := some (new, 2) } ∧ Only [.lcs, .otp] s t) ∧
    (s.lcs.trans = some (new, 2) → t.lcs = { s.lcs with trans := some (new, 3) } ∧
      t.otp = { s.otp with pairs := s.otp.pairs.dropLast ++ [(Config.codeWord new, Config.codeWord new)] } ∧ Only [.lcs, .otp] s t) ∧
    (s.lcs.trans = some (new, 3) → t.lcs.trans = none ∧ t.otp.pairs = s.otp.pairs ∧ t.chip.accReset = true ∧
      t.chip.accReady = false ∧ t.chans = [] ∧ (new = 5 → t.otp.identityRoot = some (BitVec.allOnes 512))) := by
  refine ⟨fun h => ?_, fun h => ?_, fun h => ?_, fun h => ?_, fun h => ?_⟩
  · unfold State.lifeTick
    rw [h]
  · have e : s.lifeTick = s.lifeWipe new := by unfold State.lifeTick; rw [h]; rfl
    rw [e]
    exact lifeWipe_effect s new
  · unfold State.lifeTick
    rw [h]
    exact ⟨rfl, rfl, ((Only.refl _ s).onOtp (by decide) _).onLcs (by decide) _⟩
  · unfold State.lifeTick
    rw [h]
    exact ⟨rfl, rfl, ((Only.refl _ s).onOtp (by decide) _).onLcs (by decide) _⟩
  · rw [lifeTick_of_three s new h]
    exact lifeRestart_effect s new

end Sys2Proof.Machine

/-!
# Ageing, the voltage and the published rating (R28, R438 to R442)
-/

namespace Sys2Proof.Machine

-- One declaration after the other: elaborated side by side, the row as one text takes more threads than the check allows.
set_option Elab.async false

/-! ### The published rating (R441) -/

/-- From `s` to `t` no more than the published rating has changed, with status bits that tell of it. -/
structure Rated (s t : State) : Prop where
  only : Only [.chip, .fns, .hdrs, .out] s t
  raised : ∀ p, (s.hdr p).Raised (t.hdr p)
  out : s.out ⊆ t.out
  chip : ∃ r b x, t.chip = { s.chip with rating := r, ratingReduced := b, intSrc := x }

namespace Rated
variable {s t u : State}

theorem refl (s : State) : Rated s s := ⟨Only.refl _ s, fun _ => Hdr.Raised.refl _, List.Subset.refl _, _, _, _, rfl⟩

theorem trans (h : Rated s t) (k : Rated t u) : Rated s u where
  only := h.only.trans k.only
  raised p := (h.raised p).trans (k.raised p)
  out := List.Subset.trans h.out k.out
  chip := by
    obtain ⟨r, b, x, hc⟩ := h.chip
    obtain ⟨r', b', x', kc⟩ := k.chip
    exact ⟨r', b', x', by rw [kc, hc]⟩

theorem setBit (s : State) (p : PageId) (n : Nat) : Rated s (s.setBit p n) where
  only := (only_setBit s p n).mono (by decide)
  raised q := raised_setBit s p q n
  out := out_setBit s p n
  chip := by
    obtain ⟨x, hx⟩ := chip_setStatus s p (1#32 <<< n)
    exact ⟨_, _, x, hx⟩

theorem reRate (s : State) : Rated s s.reRate := by
  unfold State.reRate
  extract_lets rated r s1
  split
  · exact refl s
  · split
    · have h1 : Rated s s1 := by
        obtain ⟨x, hx⟩ := chip_modChip s fun c => { c with rating := BitVec.ofNat 16 r, ratingReduced := decide (r < rated) }
        exact ⟨(only_modChip s _).mono (by decide), raised_modChip s _, out_modChip s _, _, _, x, hx⟩
      split
      · exact h1.trans (setBit s1 .erg 11)
      · exact h1
    · exact refl s

theorem rateCut (s : State) : Rated s s.rateCut := by
  unfold State.rateCut
  split
  · exact reRate s
  · exact refl s

theorem bit {p : PageId} {n : Nat} (h : Rated s t) (hb : (s.hdr p).status.getLsbD n = true) : (t.hdr p).status.getLsbD n = true := by
  obtain ⟨-, -, hs⟩ := h.raised p
  exact hs n hb

end Rated

/-! ### Measurements (R438, R440, R442) -/

theorem measure_effect (s : State) (h : s.umpUp = true) : Answers (exec .measure s) fun t =>
    t.erg = { s.erg with measuring := true } ∧ Only [.erg] s t := by
  change Answers (execMeasure s) _
  unfold execMeasure State.measureStart
  rw [if_pos h]
  exact .next ⟨rfl, (Only.refl _ s).onErg (by decide) _⟩

theorem worstOf_concat (l : List (BitVec 16)) (x : BitVec 16) :
    worstOf (l ++ [x]) = if (worstOf l).1 < x then (x, l.length) else worstOf l := by
  unfold worstOf
  rw [List.length_append, List.length_singleton, List.range_succ, List.zip_append (by simp), List.foldl_append]
  rfl

/-- The worst slowdown bounds every chain's, and its chain is the first that has it. -/
theorem worstOf_spec (l : List (BitVec 16)) : (∀ k, l.getD k 0 ≤ (worstOf l).1) ∧
    ((worstOf l).1 ≠ 0 → (worstOf l).2 < l.length ∧ l.getD (worstOf l).2 0 = (worstOf l).1 ∧
      ∀ k, k < (worstOf l).2 → l.getD k 0 < (worstOf l).1) := by
  induction l using List.reverseRecOn with
  | nil => exact ⟨fun k => BitVec.le_refl _, fun h => absurd rfl h⟩
  | append_singleton l x ih =>
    obtain ⟨h1, h2⟩ := ih
    have hl (k : Nat) (hk : k < l.length) : (l ++ [x]).getD k 0 = l.getD k 0 := List.getD_append _ _ _ _ hk
    have hx : (l ++ [x]).getD l.length 0 = x := by simp
    have ho (k : Nat) (hk : l.length < k) : (l ++ [x]).getD k 0 = 0 := List.getD_eq_default _ _ (by simp; omega)
    rw [worstOf_concat]
    generalize worstOf l = w at h1 h2
    have bound (v : BitVec 16) (hw : ∀ k, l.getD k 0 ≤ v) (hv : x ≤ v) (k : Nat) : (l ++ [x]).getD k 0 ≤ v := by
      rcases Nat.lt_trichotomy k l.length with hk | hk | hk
      · rw [hl k hk]; exact hw k
      · rw [hk, hx]; exact hv
      · rw [ho k hk]; exact BitVec.le_def.2 (Nat.zero_le _)
    split
    · next hw =>
      have hlt (k : Nat) : l.getD k 0 < x := BitVec.lt_def.2 (Nat.lt_of_le_of_lt (BitVec.le_def.1 (h1 k)) (BitVec.lt_def.1 hw))
      refine ⟨bound x (fun k => BitVec.le_of_lt (hlt k)) (BitVec.le_refl x), fun _ => ⟨by simp, hx, fun k hk => ?_⟩⟩
      rw [hl k hk]
      exact hlt k
    · next hw =>
      refine ⟨bound w.1 h1 (BitVec.not_lt.1 hw), fun h0 => ?_⟩
      obtain ⟨k1, k2, k3⟩ := h2 h0
      refine ⟨by simp; omega, by rw [hl _ k1]; exact k2, fun k hk => ?_⟩
      rw [hl k (by omega)]
      exact k3 k hk

/-- The table of the 48 normalised counts (R438). -/
theorem get_counts (counts : List (BitVec 16)) {k : Nat} (hk : k < 48) :
    SMap.get 0 ((List.range 48).foldl (fun m k => SMap.set 0 m k (counts.getD k 0)) []) k = counts.getD k 0 := by
  have h := get_setRange 0 (fun k => counts.getD k 0) 0 48 [] k
  simp only [Nat.zero_add, Nat.sub_zero] at h
  rw [h, if_pos ⟨Nat.zero_le k, hk⟩]

/-- RE_PLAN stands on the chip page and the ERG page (R440). -/
theorem raiseRePlan_effect (s : State) (months : BitVec 16) : (s.raiseRePlan months).chip.rePlan = true ∧
    ((s.raiseRePlan months).hdr .erg).status.getLsbD 10 = true ∧
    (∀ p, (s.hdr p).Raised ((s.raiseRePlan months).hdr p)) ∧ Only [.chip, .fns, .hdrs, .out] s (s.raiseRePlan months) := by
  unfold State.raiseRePlan
  have h1 := only_modChip s fun c => { c with rePlan := true }
  have r1 := raised_modChip s fun c => { c with rePlan := true }
  obtain ⟨x, hx⟩ := chip_modChip s fun c => { c with rePlan := true }
  generalize s.modChip (fun c => { c with rePlan := true }) = u at h1 r1 hx
  have h2 := Rated.setBit u .erg 10
  have hb := status_setBit u .erg (n := 10) (by decide)
  generalize u.setBit .erg 10 = v at h2 hb
  have h3 : Only [.out] v (v.pldmEvent 36 (months.toNat : Int)) := (Only.refl _ v).ite ((Only.refl _ v).emit (by decide) _)
  generalize v.pldmEvent 36 (months.toNat : Int) = w at h3
  obtain ⟨_, _, _, hc⟩ := h2.chip
  refine ⟨?_, ?_, fun p => ?_, ((h1.mono (by decide)).then h2.only).then h3⟩
  · rw [h3.same .chip, hc, hx]
  · rw [hdr_of_hdrs (h3.same .hdrs)]
    exact hb
  · rw [hdr_of_hdrs (h3.same .hdrs)]
    exact (r1 p).trans (h2.raised p)

theorem ergMeasurement_effect (s : State) (counts slow : List (BitVec 16)) (months : BitVec 16) (h : s.umpUp = true) :
    Answers (exec (.ergMeasurement counts slow months) s) fun t =>
      (∀ k, k < 48 → t.erg.now.get 0 k = counts.getD k 0) ∧ (∀ k, k < 48 → slow.getD k 0 ≤ t.erg.worst) ∧
      (t.erg.worst ≠ 0 → slow.getD t.erg.worstChain.toNat 0 = t.erg.worst ∧
        ∀ k, k < t.erg.worstChain.toNat → slow.getD k 0 < t.erg.worst) ∧
      t.erg.proj = months ∧ t.erg.last = s.aod.rtc ∧ t.erg.measuring = false ∧ (t.hdr .erg).status.getLsbD 8 = true ∧
      (months.toNat ≤ 36 → t.chip.rePlan = true ∧ (t.hdr .erg).status.getLsbD 10 = true) ∧
      (36 < months.toNat → t.chip.rePlan = s.chip.rePlan) ∧ t.erg.setMv = s.erg.setMv ∧ t.erg.t0 = s.erg.t0 ∧
      Only [.chip, .erg, .fns, .hdrs, .out] s t := by
  change Answers (execErgMeasurement counts slow months s) _
  unfold execErgMeasurement
  rw [if_neg (by rw [h]; decide)]
  extract_lets w s1 s2 s3
  refine .next ?_
  obtain ⟨w1, w2⟩ := worstOf_spec (slow.take 48)
  have h1 : Only [.erg] s s1 := (Only.refl _ s).onErg (by decide) _
  have e1 : s1.erg = { s.erg with
      now := (List.range 48).foldl (fun m k => m.set 0 k (counts.getD k 0)) [], worst := w.1
      worstChain := BitVec.ofNat 6 w.2, proj := months, last := s.aod.rtc, measuring := false } := rfl
  clear_value s1
  have h2 : Rated s1 s2 := Rated.setBit s1 .erg 8
  have b2 : (s2.hdr .erg).status.getLsbD 8 = true := status_setBit s1 .erg (by decide)
  clear_value s2
  have h3 : Only [.chip, .fns, .hdrs, .out] s2 s3 ∧ (s3.hdr .erg).status.getLsbD 8 = true ∧
      (months.toNat ≤ 36 → s3.chip.rePlan = true ∧ (s3.hdr .erg).status.getLsbD 10 = true) ∧
      (36 < months.toNat → s3.chip.rePlan = s2.chip.rePlan) := by
    dsimp only [s3]
    by_cases hm : months.toNat ≤ 36
    · rw [if_pos hm]
      obtain ⟨k1, k2, k3, k4⟩ := raiseRePlan_effect s2 months
      obtain ⟨-, -, hs⟩ := k3 .erg
      exact ⟨k4, hs 8 b2, fun _ => ⟨k1, k2⟩, fun e => absurd hm (by omega)⟩
    · rw [if_neg hm]
      exact ⟨Only.refl _ _, b2, fun e => absurd e hm, fun _ => rfl⟩
  clear_value s3
  obtain ⟨h3, b3, c3, d3⟩ := h3
  have h4 := Rated.reRate s3
  generalize s3.reRate = t at h4
  have e4 : t.erg = s1.erg := by rw [h4.only.same .erg, h3.same .erg, h2.only.same .erg]
  have hr : t.chip.rePlan = s3.chip.rePlan := by
    obtain ⟨_, _, _, hc⟩ := h4.chip
    rw [hc]
  have hg (k : Nat) (hk : k < 48) : (slow.take 48).getD k 0 = slow.getD k 0 := by
    rw [List.getD_eq_getElem?_getD, List.getD_eq_getElem?_getD, List.getElem?_take_of_lt hk]
  rw [e4, e1]
  refine ⟨fun k hk => get_counts counts hk, fun k hk => ?_, fun h0 => ?_, rfl, rfl, rfl, h4.bit b3, fun e => ⟨?_, h4.bit (c3 e).2⟩, fun e => ?_,
    rfl, rfl, ?_⟩
  · rw [← hg k hk]
    exact w1 k
  · obtain ⟨k1, k2, k3⟩ := w2 h0
    have hn : w.2 < 48 := Nat.lt_of_lt_of_le k1 (List.length_take_le _ _)
    have hc : (BitVec.ofNat 6 w.2).toNat = w.2 := by
      rw [BitVec.toNat_ofNat]
      exact Nat.mod_eq_of_lt (by omega)
    dsimp only
    rw [hc]
    exact ⟨by rw [← hg _ hn]; exact k2, fun k hk => by rw [← hg k (by omega)]; exact k3 k hk⟩
  · rw [hr]
    exact (c3 e).1
  · obtain ⟨_, _, _, hc⟩ := h2.chip
    rw [hr, d3 e, hc, h1.same .chip]
  · exact (((h1.mono (by decide)).then h2.only).then h3).then h4.only

/-! ### The voltage (R439) -/

theorem avsStep_effect (s : State) (up ack : Bool) (mv : BitVec 10) (h : s.avsReady = true)
    (hd : if up = true then s.qNum < s.qDen ∧ s.erg.setMv.toNat + 5 ≤ 850 ∧ mv = s.erg.setMv + 5
      else s.qHigh = true ∧ 655 ≤ s.erg.setMv.toNat ∧ mv = s.erg.setMv - 5 ∧
        ∃ x, s.erg.highSince = some x ∧ x + 60 * second ≤ s.now) : Answers (exec (.avsStep up ack) s) fun t =>
      OutEvent.avs mv.toNat ∈ t.out ∧
      (if ack = true then t.erg = { s.erg with setMv := mv, lastStep := some s.now } ∧ (t.hdr .erg).status.getLsbD 9 = true
       else t.erg = { s.erg with lastStep := some s.now } ∧ (t.hdr .erg).status.getLsbD 12 = true) ∧
      Only [.chip, .erg, .fns, .hdrs, .out] s t := by
  change Answers (execAvsStep up ack s) _
  unfold execAvsStep
  extract_lets due mv' s1
  have hdue : due = true ∧ mv' = mv := by
    dsimp only [due, mv']
    cases up
    · obtain ⟨h1, h2, h3, x, h4, h5⟩ := hd
      rw [h1, h4, h3]
      simp [h2, h5]
    · obtain ⟨h1, h2, h3⟩ := hd
      rw [h3]
      simp [h1, h2]
  rw [if_neg (by simp [h, hdue.1])]
  have hm : mv' = mv := hdue.2
  have h1 : Only [.erg, .out] s s1 := ((Only.refl _ s).emit (by decide) _).onErg (by decide) _
  have o1 : OutEvent.avs mv'.toNat ∈ s1.out := List.mem_append_right _ List.mem_cons_self
  have e1 : s1.erg = { s.erg with lastStep := some s.now } := rfl
  rw [hm] at o1
  clear_value s1 mv' due
  subst hm
  cases ack
  · have h2 := Rated.setBit s1 .erg 12
    exact .next ⟨h2.out o1, ⟨(h2.only.same .erg).trans e1, status_setBit s1 .erg (by decide)⟩, (h1.mono (by decide)).then h2.only⟩
  · rw [if_pos rfl]
    have h2 : Only [.erg] s1 (s1.onErg fun e => { e with setMv := mv' }) := (Only.refl _ s1).onErg (by decide) _
    have e2 : (s1.onErg fun e => { e with setMv := mv' }).erg = { s.erg with setMv := mv', lastStep := some s.now } := by
      rw [State.onErg_erg, e1]
    have o2 : OutEvent.avs mv'.toNat ∈ (s1.onErg fun e => { e with setMv := mv' }).out := o1
    generalize s1.onErg (fun e => { e with setMv := mv' }) = u at h2 e2 o2
    have b3 := status_setBit u .erg (n := 9) (by decide)
    have h3 := (Rated.setBit u .erg 9)
    have h4 := Rated.rateCut (u.setBit .erg 9)
    generalize u.setBit .erg 9 = v at b3 h3 h4
    have h5 := h3.trans h4
    exact .next ⟨h5.out o2, ⟨(h5.only.same .erg).trans e2, h4.bit b3⟩, ((h1.mono (by decide)).then h2).then h5.only⟩

/-! ### Cadence (R28) -/

/-- The chip's two sums depend on the eights in service alone. -/
theorem sumCadence_chip (s t : State) (hv : t.variant = s.variant) (he : t.eights = s.eights)
    (hq : ∀ p, t.quarantined p = s.quarantined p) : t.sumCadence.chip =
      { t.chip with cadence := s.sumCadence.chip.cadence, cadenceNorm := s.sumCadence.chip.cadenceNorm } := by
  unfold State.sumCadence State.eight
  simp only [State.onChip_chip, hv, he, hq]

theorem eightCadence_effect (s : State) (e : Nat) (blocks norm : W32) (hu : s.usable (.egt e) = true) (ha : s.chip.accReady = true) :
    Answers (exec (.eightCadenceUpdate e blocks norm) s) fun t =>
      t.eight e = { s.eight e with cadence := blocks, cadenceNorm := norm } ∧ (∀ i, i ≠ e → t.eight i = s.eight i) ∧
      t.chip = t.sumCadence.chip ∧ (103 * t.qDen < 100 * t.qNum → t.erg.highSince = some (s.erg.highSince.getD s.now)) ∧
      (100 * t.qNum ≤ 103 * t.qDen → t.erg.highSince = none) ∧ (s.erg.setMv ≠ 850 → Only [.chip, .eights, .erg] s t) ∧
      Only [.chip, .eights, .erg, .fns, .hdrs, .out] s t := by
  change Answers (execEightCadenceUpdate e blocks norm s) _
  unfold execEightCadenceUpdate
  rw [if_neg (by simp [hu, ha])]
  generalize hs0 : s.modEight e (fun x => { x with cadence := blocks, cadenceNorm := norm }) = s0
  extract_lets s1
  refine .next ?_
  have h0 : Only [.eights] s s0 := by rw [← hs0]; exact (Only.refl _ s).modEight (by decide) e _
  have e0 (i : Nat) : s0.eight i = if i = e then { s.eight e with cadence := blocks, cadenceNorm := norm } else s.eight i := by
    rw [← hs0]; exact eight_modEight s e i _
  have h1 : Only [.chip] s0 s1 := by
    dsimp only [s1]
    unfold State.sumCadence
    exact (Only.refl _ s0).onChip (by decide) _
  have c1 : s1.chip = { s0.chip with cadence := s0.sumCadence.chip.cadence, cadenceNorm := s0.sumCadence.chip.cadenceNorm } := rfl
  clear_value s1
  generalize hs2 : s1.onErg (fun g => { g with highSince := if s1.qHigh then (match g.highSince with
      | some t => some t
      | none => some s.now) else none }) = s2
  have h2 : Only [.erg] s1 s2 := by rw [← hs2]; exact (Only.refl _ s1).onErg (by decide) _
  have g2 : s2.erg.highSince = if s1.qHigh then some (s.erg.highSince.getD s.now) else none := by
    rw [← hs2, State.onErg_erg, ← show s1.erg = s.erg from (h1.same .erg).trans (h0.same .erg)]
    cases s1.erg.highSince <;> rfl
  have h3 := Rated.rateCut s2
  have h3' : s.erg.setMv ≠ 850 → s2.rateCut = s2 := fun hm => by
    have : s2.erg.setMv = s.erg.setMv := by
      rw [← hs2, State.onErg_erg]
      exact (congrArg Erg.setMv ((h1.same .erg).trans (h0.same .erg)) :)
    unfold State.rateCut
    rw [if_neg fun hc => hm (this.symm.trans hc.2.2.1)]
  generalize s2.rateCut = t at h3 h3'
  have h12 : Only [.chip, .erg] s0 s2 := (h1.mono (by decide)).then h2
  have h02 : Only [.chip, .eights, .erg] s s2 := (h0.mono (by decide)).then h12
  have hv : t.variant = s0.variant := h3.only.2.1.trans h12.2.1
  have he : t.eights = s0.eights := (h3.only.same .eights).trans (h12.same .eights)
  have hq (p : PageId) : t.quarantined p = s0.quarantined p := by
    obtain ⟨-, hr, -⟩ := h3.raised p
    exact hr.trans (congrArg Hdr.quar (hdr_of_hdrs (h12.same .hdrs) p))
  obtain ⟨r, b, x, hc⟩ := h3.chip
  rw [h2.same .chip] at hc
  have hk : t.qNum = s1.qNum ∧ t.qDen = s1.qDen := by
    constructor
    · exact (congrArg (fun c : Chip => c.cadenceNorm.toNat) hc :)
    · have h1q (p : PageId) : s1.quarantined p = s0.quarantined p := congrArg Hdr.quar (hdr_of_hdrs (h1.same .hdrs) p)
      have h1e : s1.eights = s0.eights := h1.same .eights
      unfold State.qDen State.seats State.eight
      simp only [hv, he, hq, h1q, h1.2.1, h1e]
  have ht : t.erg.highSince = if s1.qHigh then some (s.erg.highSince.getD s.now) else none :=
    (congrArg Erg.highSince (h3.only.same .erg)).trans g2
  have hi (i : Nat) : t.eight i = s0.eight i := by unfold State.eight; rw [he]
  rw [hk.1, hk.2]
  refine ⟨(hi e).trans ((e0 e).trans (if_pos rfl)), fun i hne => (hi i).trans ((e0 i).trans (if_neg hne)), ?_, fun hh => ?_, fun hh => ?_,
    fun hm => by rw [h3' hm]; exact h02, (h02.mono (by decide)).then h3.only⟩
  · rw [sumCadence_chip s0 t hv he hq, hc, c1]
  · exact ht.trans (if_pos (decide_eq_true hh))
  · rw [ht, if_neg]
    unfold State.qHigh
    simp only [decide_eq_true_eq]
    omega

/-- Settles O55, one theorem for each instruction. -/
theorem programsLifeCycleAndAgeing : Obligations.ProgramsLifeCycleAndAgeing := by
  unfold Obligations.ProgramsLifeCycleAndAgeing
  exact ⟨programLoad_effect, transitionRequest_effect, lifeTick_effect, debugGrant_effect, ownerKeyUpdate_effect, measure_effect,
    ergMeasurement_effect, avsStep_effect, eightCadence_effect⟩

end Sys2Proof.Machine

/-!
# Faults of a cox's program (R216) and exception entry of the Umpire (R212)
-/

namespace Sys2Proof.Machine

-- One declaration after the other: elaborated side by side, the row as one text takes more threads than the check allows.
set_option Elab.async false

/-! ### An alarm in an eight -/

/-- An alarm in an eight: its keys go, ALARM sets, the record is made if one is free (R14). -/
def AlarmedEight (s t : State) (e code detail : Nat) : Prop :=
  (t.eight e).keyCache = [] ∧ (t.hdr (.egt e)).status.getLsbD 10 = true ∧
    ((s.hdr (.egt e)).errs.length < 4 →
      ⟨BitVec.ofNat 8 code, errLevel (.egt e) code, BitVec.ofNat 5 detail, s.aod.heatNo⟩ ∈ (t.hdr (.egt e)).errs) ∧
    Only faultFields s t

theorem alarmNote_eight (s : State) (e : Nat) (named : Option Nat) (code detail : Nat) (counts : Bool) :
    let t := s.alarmNote .eight e named code detail counts
    (t.hdr (.egt e)).status.getLsbD 10 = true ∧
      ((s.hdr (.egt e)).errs.length < 4 →
        ⟨BitVec.ofNat 8 code, errLevel (.egt e) code, BitVec.ofNat 5 detail, s.aod.heatNo⟩ ∈ (t.hdr (.egt e)).errs) := by
  dsimp only
  unfold State.alarmNote blockPage
  dsimp only
  have hb := status_setBit s (.egt e) (n := 10) (by decide)
  have he : ((s.setBit (.egt e) 10).hdr (.egt e)).errs = (s.hdr (.egt e)).errs := by rw [hdr_setBit, if_pos rfl]; rfl
  have ha : (s.setBit (.egt e) 10).aod = s.aod := (only_setBit s _ _).same .aod
  generalize s.setBit (.egt e) 10 = u at hb he ha
  have hr := errs_recErr u (.egt e) code detail
  obtain ⟨-, -, g1⟩ := (Contained.recErr u (.egt e) code detail).pages (.egt e)
  have hb := g1 10 hb
  rw [he, ha] at hr
  generalize u.recErr (.egt e) code detail = v at hr hb
  obtain ⟨g2, -, g3⟩ := (Contained.reportSlot v .eight e named counts).pages (.egt e)
  exact ⟨g3 10 hb, fun h => g2 _ (by rw [hr h]; exact List.mem_concat_self)⟩

theorem alarm_eight (s : State) (e : Nat) (who : List Nat) (code detail : Nat) (counts : Bool) :
    AlarmedEight s (s.alarm .eight e who code detail counts) e code detail := by
  have ho := (Contained.alarm s .eight e who code detail counts).only
  have ht := alarm_eq s .eight (by decide) e who code detail counts
  generalize s.alarm .eight e who code detail counts = t at ho ht
  extract_lets s1 s2 at ht
  have h1 : s1 = s.modEight e fun x => { x with keyCache := [] } := rfl
  have k1 : (s1.eight e).keyCache = [] := by rw [h1, eight_modEight, if_pos rfl]
  have p1 : s1.hdr (.egt e) = s.hdr (.egt e) := by rw [h1]; rfl
  have a1 : s1.aod = s.aod := by rw [h1]; rfl
  have h2 : WorkDone s1 (who.foldl (fun s j => s.failJob j { st := 0x72 }) s1) := WorkDone.foldl (fun t j => WorkDone.failJob t j _) who s1
  have e2 : s2 = (who.foldl (fun s j => s.failJob j { st := 0x72 }) s1).alarmNote .eight e
    (who.findSome? fun j => (s.job j).bind (·.keySlot)) code detail counts := rfl
  clear_value s1 s2
  generalize who.foldl (fun s j => s.failJob j { st := 0x72 }) s1 = u at h2 e2
  obtain ⟨p2, -, -⟩ := h2.pages (.egt e)
  obtain ⟨x, y, k2⟩ := h2.eights e
  obtain ⟨b3, r3⟩ := alarmNote_eight u e (who.findSome? fun j => (s.job j).bind (·.keySlot)) code detail counts
  have k3 := (Contained.alarmNote u .eight e (who.findSome? fun j => (s.job j).bind (·.keySlot)) code detail counts).keys e
  rw [← e2] at b3 r3 k3
  rw [p2, p1, h2.only.same .aod, a1] at r3
  rw [k2, k1] at k3
  have h4 : Contained workFields s2 t := by
    rw [ht]
    exact Contained.foldl (fun t j => Contained.restartJob t j) _ s2
  obtain ⟨g1, -, g2⟩ := h4.pages (.egt e)
  exact ⟨List.subset_nil.1 (List.Subset.trans (h4.keys e) k3), g2 10 b3, fun h => g1 _ (r3 h), ho⟩

/-- Steps that may stop, each within the parts `l`. -/
theorem only_foldlM {α : Type} {l : List Field} {g : State → α → Except Trap State} (hg : ∀ s x t, g s x = .ok t → Only l s t)
    (xs : List α) (s t : State) (h : xs.foldlM g s = .ok t) : Only l s t := by
  induction xs generalizing s with
  | nil =>
    cases h
    exact Only.refl l _
  | cons x r ih =>
    rw [List.foldlM_cons] at h
    cases hx : g s x with
    | error e =>
      rw [hx] at h
      cases h
    | ok u =>
      rw [hx] at h
      exact (hg s x u hx).trans (ih u h)

/-- The delayed results of a cox's slot touch the slots alone (R203, R204). -/
theorem only_memWrite_cox (s : State) (e k bank a : Nat) (sel : Nat → Bool) (v : Word) (t : State)
    (h : s.memWrite (.cox e k) bank a sel v = .ok t) : Only [.eights] s t := by
  unfold State.memWrite at h
  dsimp only at h
  split at h
  · cases h
    exact (Only.refl _ s).modSlot (by decide) e k _
  · cases h

theorem only_writeSpecial (s : State) (e k n : Nat) (v : Word) (t : State) (h : s.writeSpecial e k n v = .ok t) : Only [.eights] s t := by
  unfold State.writeSpecial at h
  split at h
  · cases h
    exact (Only.refl _ s).modSlot (by decide) e k _
  · cases h
    exact (Only.refl _ s).modSlot (by decide) e k _
  · split at h
    · cases h
    · cases h
      exact (Only.refl _ s).modSlot (by decide) e k _
  · cases h

theorem only_land_cox (s : State) (e k : Nat) (x : PendFld) (t : State) (h : s.land (.cox e k) x = .ok t) : Only [.eights] s t := by
  have hv (u : State) (hu : s.landValue (.cox e k) x = .ok u) : Only [.eights] s u := by
    unfold State.landValue State.writeLoc at hu
    split at hu
    · dsimp only at hu
      split at hu
      · cases hu
        exact Only.ite ((Only.refl [.eights] s).modSlot (by decide) e k _) (Only.refl _ s)
      · exact only_writeSpecial s e k _ _ u hu
    · exact only_memWrite_cox s e k _ _ _ _ u hu
  unfold State.land at h
  split at h
  · cases h
  · cases h
  · rename_i u _ hu
    split at h
    · cases h
    · cases h
      exact hv _ hu

theorem only_landDue_cox (s : State) (e k : Nat) (t : State) (h : s.landDue (.cox e k) = .ok t) : Only [.eights] s t := by
  unfold State.landDue at h
  have h1 : Only [.eights] s (s.modRegs (.cox e k) fun r => { r with fld := r.fld.filter fun x => x.left != 0 }) :=
    (Only.refl _ s).modSlot (by decide) e k _
  exact h1.trans (only_foldlM (fun u x v hv => only_land_cox u e k x v hv) _ _ t h)

/-! ### An instruction and its meaning -/

theorem seatIssue_eq (s : State) (c : Core) (op : Nat) (x : Enc) (f : Body) (h : c = .umpire ∨ s.rngDry = false) :
    s.seatIssue c op x f = s.traern c op x f := by
  unfold State.seatIssue
  cases c with
  | umpire => rfl
  | cox e k =>
    dsimp only
    rw [h.resolve_left (fun e => Core.noConfusion e)]
    rfl

/-- The instruction of a row runs the meaning of its opcode: in a cox, where a seat has its randomness. -/
def RowRuns (row : Nat × (Core → Enc → Instr)) : Prop := ∃ f, bodyOf row.1 = some f ∧
  ∀ (c : Core) (x : Enc) (s : State), c = .umpire ∨ s.Seated row.1 → exec (row.2 c x) s = .next (s.traern c row.1 x f)

theorem rowRuns : ∀ row ∈ traernOps, RowRuns row := by
  refine List.forall_mem_append.2 ⟨?_, List.forall_mem_cons.2 ⟨?_, List.forall_mem_cons.2 ⟨?_, ?_⟩⟩⟩
  case refine_2 => exact ⟨_, rfl, fun c x s h => by rw [← seatIssue_eq s c 0x40 x encBody (h.imp_right fun k => k (.inl rfl))]; rfl⟩
  case refine_3 => exact ⟨_, rfl, fun c x s h => by rw [← seatIssue_eq s c 0x41 x decBody (h.imp_right fun k => k (.inr rfl))]; rfl⟩
  all_goals
    simp only [List.forall_mem_cons, List.not_mem_nil, false_implies, implies_true, and_true]
    and_intros
    all_goals exact ⟨_, rfl, fun _ _ _ _ => rfl⟩

theorem exec_traern {op : Nat} {mk : Core → Enc → Instr} {f : Body} (hm : (op, mk) ∈ traernOps) (hf : bodyOf op = some f) (c : Core)
    (x : Enc) (s : State) (hs : c = .umpire ∨ s.Seated op) : exec (mk c x) s = .next (s.traern c op x f) := by
  obtain ⟨g, hg, h⟩ := rowRuns _ hm
  have e : some g = some f := hg.symm.trans hf
  cases e
  exact h c x s hs

/-- An instruction that stops after the FLDs due have landed brings its fault or exception. -/
theorem traern_stopped {s s1 : State} {c : Core} {op : Nat} {x : Enc} {f : Body} {r : OpInfo} {tr : Trap} (hl : s.coreLive c = true)
    (hr : opInfo op = some r) (hd : s.landDue c = .ok s1) (hb : s1.runBody op r (s1.atNow c r x) f = .error tr) :
    s.traern c op x f = (s1.trap c (s1.atNow c r x).here tr).breakCheck c := by
  unfold State.traern
  rw [if_neg (by rw [hl]; decide), hr]
  dsimp only
  rw [hd]
  dsimp only
  rw [hb]

theorem trap_cox (s : State) (e k : Nat) (pc : BitVec 30) {tr : Trap} (h : tr ≠ .counter) :
    AlarmedEight s (s.trap (.cox e k) pc tr) e 0x8E tr.detail := by
  unfold State.trap
  dsimp only
  rw [if_neg h]
  exact alarm_eight s e _ 0x8E tr.detail true

/-- What stands of a slot's change before an alarm does not matter to it. -/
theorem AlarmedEight.after {s s1 t : State} {e code detail : Nat} (h : AlarmedEight s1 t e code detail) (k : Only [.eights, .freeCtr] s s1) :
    AlarmedEight s t e code detail := by
  obtain ⟨h1, h2, h3, h4⟩ := h
  rw [hdr_of_hdrs (k.same .hdrs), k.same .aod] at h3
  exact ⟨h1, h2, h3, (k.mono (by decide)).trans h4⟩

theorem programFault_effect (s s1 : State) (e k op : Nat) (x : Enc) (r : OpInfo) (f : Body) (mk : Core → Enc → Instr) (tr : Trap)
    (hm : (op, mk) ∈ traernOps) (hf : bodyOf op = some f) (hl : s.coreLive (.cox e k) = true) (hr : opInfo op = some r)
    (hd : s.landDue (.cox e k) = .ok s1) (hs : s.Seated op) (hb : s1.runBody op r (s1.atNow (.cox e k) r x) f = .error tr)
    (hc : tr ≠ .counter) : Answers (exec (mk (.cox e k) x) s) fun t => AlarmedEight s t e 0x8E tr.detail := by
  rw [exec_traern hm hf _ _ _ (.inr hs), traern_stopped hl hr hd hb]
  unfold State.breakCheck
  rw [if_neg (fun h => Core.noConfusion h.1)]
  exact .next ((trap_cox s1 e k _ hc).after ((only_landDue_cox s e k s1 hd).mono (by decide)))

theorem budget_effect (s : State) (e k : Nat) (hl : s.coreLive (.cox e k) = true) (hb : 1048576 ≤ (s.slot e k).instrs) :
    Answers (exec (.instructionBudgetExceeded e k) s) fun t => AlarmedEight s t e 0x8E 8 := by
  change Answers (execInstructionBudgetExceeded e k s) _
  unfold execInstructionBudgetExceeded
  extract_lets c
  rw [if_pos ⟨hl, hb⟩]
  exact .next (trap_cox s e k _ (tr := .budget) (by decide))

/-- A change of one slot that keeps its keys and its job. -/
theorem modSlot_effect (s : State) (e k n : Nat) (g : Slot → Slot) (hg : ∀ t, (g t).k0 = t.k0 ∧ (g t).k1 = t.k1 ∧ (g t).job = t.job) :
    let t := (s.spend n).modSlot e k g
    Only [.eights, .freeCtr] s t ∧ (∀ e' k', (e', k') ≠ (e, k) → t.slot e' k' = s.slot e' k') ∧
      (t.slot e k).k0 = (s.slot e k).k0 ∧ (t.slot e k).k1 = (s.slot e k).k1 ∧ (t.slot e k).job = (s.slot e k).job := by
  have h : ((s.spend n).modSlot e k g).slot e k = g (s.slot e k) := (slot_modSlot (s.spend n) e k e k g).trans (if_pos rfl)
  refine ⟨((Only.refl _ s).spend (by decide) n).modSlot (by decide) e k g, fun e' k' hn => ?_, ?_⟩
  · exact (slot_modSlot (s.spend n) e k e' k' g).trans (if_neg hn)
  · rw [h]
    exact hg _

/-- A reserved opcode in a cox is a program fault, or changes its slot but for its keys and its job (R214). -/
theorem reservedOpcode_cox (s : State) (e k : Nat) (op : BitVec 8) (x : Enc) (hl : s.coreLive (.cox e k) = true)
    (hr : opInfo op.toNat = none) : Answers (exec (.reservedOpcode (.cox e k) op x) s) fun t =>
      (∃ d, AlarmedEight s t e 0x8E d) ∨
      (Only [.eights, .freeCtr] s t ∧ (∀ e' k', (e', k') ≠ (e, k) → t.slot e' k' = s.slot e' k') ∧
        (t.slot e k).k0 = (s.slot e k).k0 ∧ (t.slot e k).k1 = (s.slot e k).k1 ∧ (t.slot e k).job = (s.slot e k).job) := by
  change Answers (execReservedOpcode (.cox e k) op x s) _
  unfold execReservedOpcode
  rw [if_neg (by simp [hl, hr])]
  extract_lets n fault s0
  have h0 : Only [.freeCtr] s s0 := (Only.refl _ s).spend (by decide) 32
  cases fault
  · exact .next (.inr (modSlot_effect s e k _ _ fun _ => ⟨rfl, rfl, rfl⟩))
  · exact .next (.inl ⟨_, (alarm_eight s0 e _ _ _ true).after (h0.mono (by decide))⟩)

end Sys2Proof.Machine

/-!
# What an exception of the Umpire names (R212)

An instruction that stops names itself, unless an FLD that lands stops it: no meaning of an opcode brings the trap of a landing while
none is pending.
-/

namespace Sys2Proof.Machine

-- One declaration after the other: elaborated side by side, the row as one text takes more threads than the check allows.
set_option Elab.async false

/-- The trap of an instruction that stops by itself: EPC is its own address. -/
def Trap.Own (t : Trap) : Prop := ∀ a, t.pc a = a

/-- Whatever stops, stops by itself. -/
def StopsOwn {α : Type} (x : Except Trap α) : Prop := ∀ t, x = .error t → t.Own

namespace StopsOwn

variable {α β : Type}

theorem ok (a : α) : StopsOwn (.ok a) := nofun

theorem error {t : Trap} (h : t.Own) : StopsOwn (.error t : Except Trap α) := fun _ e => by cases e; exact h

theorem ite {p : Prop} [Decidable p] {x y : Except Trap α} (hx : StopsOwn x) (hy : StopsOwn y) : StopsOwn (if p then x else y) := by
  split
  · exact hx
  · exact hy

theorem map {x : Except Trap α} (f : α → β) (hx : StopsOwn x) : StopsOwn (x.map f) := by
  cases x with
  | error t => exact error (hx t rfl)
  | ok a => exact ok _

theorem foldlM {γ : Type} {g : α → γ → Except Trap α} (hg : ∀ a x, StopsOwn (g a x)) (xs : List γ) (a : α) :
    StopsOwn (xs.foldlM g a) := by
  induction xs generalizing a with
  | nil => exact ok _
  | cons x r ih =>
    rw [List.foldlM_cons]
    have h := hg a x
    cases hx : g a x with
    | error t => exact error (h t hx)
    | ok b => exact ih b

end StopsOwn

open StopsOwn (ok error ite map foldlM)

/-! ### Memory and operands -/

theorem bankRead_stopsOwn (s : State) (bank a : Nat) : StopsOwn (s.bankRead bank a) := by
  unfold State.bankRead
  split
  · exact error fun _ => rfl
  · exact ite (error fun _ => rfl) (ok _)
  · exact ok _
  · exact ite (ok _) (ok _)
  · exact ok _
  · exact ok _
  · exact ok _
  · exact ok _

theorem memRead_stopsOwn (s : State) (c : Core) (bank a : Nat) : StopsOwn (s.memRead c bank a) := by
  unfold State.memRead
  split
  · exact bankRead_stopsOwn s bank a
  · exact ite (ok _) (ite (ok _) (error fun _ => rfl))

theorem memWrite_stopsOwn (s : State) (c : Core) (bank a : Nat) (sel : Nat → Bool) (v : Word) : StopsOwn (s.memWrite c bank a sel v) := by
  unfold State.memWrite
  split
  · split
    · exact error fun _ => rfl
    · exact ite (error fun _ => rfl) (ok _)
  · exact ite (ok _) (error fun _ => rfl)

theorem resolve1_stopsOwn (s : State) (c : Core) (sp : BitVec 8) (f : BitVec 18) (n : Nat) : StopsOwn (s.resolve1 c sp f n) := by
  unfold State.resolve1
  extract_lets
  refine ite (error fun _ => rfl) ?_
  split
  · exact ok _
  · exact ok _
  · exact ok _
  · exact ite (error fun _ => rfl) (ok _)
  · exact ok _
  · exact ok _
  · exact ok _
  · exact ite (error fun _ => rfl) (ok _)

theorem operand_stopsOwn (s : State) (c : Core) (p : Pos) (sp : BitVec 8) (f : BitVec 18) (n : Nat) : StopsOwn (s.operand c p sp f n) := by
  unfold State.operand
  split
  · exact ok _
  · exact resolve1_stopsOwn s c sp f _

theorem abc_stopsOwn (s : State) (op : Nat) (i : At) : StopsOwn (s.abc op i) := by
  unfold State.abc
  extract_lets r
  split
  · exact error (operand_stopsOwn _ _ _ _ _ _ _ ‹_›)
  split
  · exact error (operand_stopsOwn _ _ _ _ _ _ _ ‹_›)
  split
  · exact error (operand_stopsOwn _ _ _ _ _ _ _ ‹_›)
  exact ok _

theorem readSpecial_stopsOwn (s : State) (e k n : Nat) : StopsOwn (s.readSpecial e k n) := by
  unfold State.readSpecial
  extract_lets t
  split
  · exact ok _
  · exact ok _
  · exact ok _
  · exact ite (error fun _ => rfl) (ok _)
  · exact error fun _ => rfl

theorem writeSpecial_stopsOwn (s : State) (e k n : Nat) (v : Word) : StopsOwn (s.writeSpecial e k n v) := by
  unfold State.writeSpecial
  split
  · exact ok _
  · exact ok _
  · exact ite (error fun _ => rfl) (ok _)
  · exact error fun _ => rfl

theorem readLoc_stopsOwn (s : State) (c : Core) (l : Loc) (n : Nat) : StopsOwn (s.readLoc c l n) := by
  unfold State.readLoc
  split
  · exact memRead_stopsOwn s c _ _
  · exact ok _
  · refine ite (ok _) ?_
    split
    · exact readSpecial_stopsOwn s _ _ _
    · exact error fun _ => rfl

theorem writeLoc_stopsOwn (s : State) (c : Core) (l : Loc) (n : Nat) (sel : Nat → Bool) (v : Word) : StopsOwn (s.writeLoc c l n sel v) := by
  unfold State.writeLoc
  split
  · exact memWrite_stopsOwn s c _ _ _ _
  · exact error fun _ => rfl
  · refine ite (ok _) ?_
    split
    · exact writeSpecial_stopsOwn s _ _ _ _
    · exact error fun _ => rfl

theorem oldLoc_stopsOwn (s : State) (c : Core) (l : Loc) (n : Nat) : StopsOwn (s.oldLoc c l n) := by
  unfold State.oldLoc
  split
  · exact ok _
  · exact ok _
  · exact ok _
  · exact readLoc_stopsOwn s c l n

theorem readAll_stopsOwn (s : State) (c : Core) (l : Loc) (n : Nat) : StopsOwn (s.readAll c l n) := by
  unfold State.readAll
  refine foldlM (fun p k => ?_) _ _
  unfold State.readNext
  split
  · exact error (readLoc_stopsOwn _ _ _ _ _ ‹_›)
  exact ok _

theorem two_stopsOwn (s : State) (op : Nat) (i : At) : StopsOwn (s.two op i) := by
  unfold State.two
  split
  · exact error (abc_stopsOwn _ _ _ _ ‹_›)
  split
  · exact error (readLoc_stopsOwn _ _ _ _ _ ‹_›)
  split
  · exact error (readLoc_stopsOwn _ _ _ _ _ ‹_›)
  exact ok _

theorem farRead_stopsOwn (s : State) (c : Core) (bank a : Nat) : StopsOwn (s.farRead c bank a) := by
  unfold State.farRead
  split
  · exact ite (error fun _ => rfl) (map _ (memRead_stopsOwn s _ bank a))
  · exact ite (ok _) (map _ (bankRead_stopsOwn s bank a))

theorem callTo_stopsOwn (s : State) (i : At) (a : BitVec 30) : StopsOwn (s.callTo i a) :=
  ite (error fun _ => rfl) (map _ (memWrite_stopsOwn _ _ _ _ _ _))

theorem indirect_stopsOwn (s : State) (op : Nat) (i : At) : StopsOwn (s.indirect op i) := by
  unfold State.indirect
  split
  · exact error (abc_stopsOwn _ _ _ _ ‹_›)
  exact map _ (readLoc_stopsOwn _ _ _ _)

theorem srOf_stopsOwn (c : Core) (n : Nat) : StopsOwn (srOf c n) := by
  unfold srOf
  split
  · exact error fun _ => rfl
  · exact ite (ok _) (error fun _ => rfl)
  · exact ite (ok _) (error fun _ => rfl)

/-- With no FLD pending, only the pending results are written. -/
theorem landAll_stopsOwn (s : State) (c : Core) (h : (s.coreRegs c).fld = []) : StopsOwn (s.landAll c) := by
  unfold State.landAll
  extract_lets r s1
  split
  · exact error (foldlM (fun t x => memWrite_stopsOwn t c _ _ _ _) _ _ _ ‹_›)
  rw [show r.fld = [] from h]
  exact ok _

/-! ### The meanings of the opcodes -/

/-- A meaning that, with no FLD pending, stops by itself. -/
def OwnStops (f : Body) : Prop := ∀ (i : At) (s : State), (s.coreRegs i.c).fld = [] → StopsOwn (f i s)

theorem ownStops_vec (op : Nat) (g : Word → Word → Word) : OwnStops (vecBody op g) := fun i s _ => by
  unfold vecBody
  split
  · exact error (abc_stopsOwn _ _ _ _ ‹_›)
  refine map _ (foldlM (fun t n => ?_) _ _)
  split
  · exact error (readLoc_stopsOwn _ _ _ _ _ ‹_›)
  split
  · exact error (readLoc_stopsOwn _ _ _ _ _ ‹_›)
  exact writeLoc_stopsOwn _ _ _ _ _ _

theorem ownStops_scalar (op : Nat) (old : Bool) (g : Word → Word → Word → Word) : OwnStops (scalarBody op old g) := fun i s _ => by
  unfold scalarBody
  split
  · exact error (abc_stopsOwn _ _ _ _ ‹_›)
  split
  · exact error (readLoc_stopsOwn _ _ _ _ _ ‹_›)
  refine map _ (foldlM (fun t n => ?_) _ _)
  split
  · exact error (readLoc_stopsOwn _ _ _ _ _ ‹_›)
  split
  · exact error (ite (oldLoc_stopsOwn _ _ _ _) (ok _) _ ‹_›)
  exact writeLoc_stopsOwn _ _ _ _ _ _

theorem ownStops_unary (op : Nat) (g : Word → Word) : OwnStops (unaryBody op g) := fun i s _ => by
  unfold unaryBody
  split
  · exact error (abc_stopsOwn _ _ _ _ ‹_›)
  refine map _ (foldlM (fun t n => ?_) _ _)
  split
  · exact error (readLoc_stopsOwn _ _ _ _ _ ‹_›)
  exact writeLoc_stopsOwn _ _ _ _ _ _

theorem ownStops_xred : OwnStops xredBody := fun i s _ => by
  unfold xredBody
  split
  · exact error (abc_stopsOwn _ _ _ _ ‹_›)
  split
  · exact error (readAll_stopsOwn _ _ _ _ _ ‹_›)
  exact map _ (writeLoc_stopsOwn _ _ _ _ _ _)

theorem ownStops_fence : OwnStops fenceBody := fun i s h => map _ (landAll_stopsOwn s i.c h)

theorem ownStops_end : OwnStops endBody := fun i s h => by
  unfold endBody
  split
  · exact error (landAll_stopsOwn s i.c h _ ‹_›)
  split
  · exact error fun _ => rfl
  · exact ite (error fun _ => rfl) (ok _)

theorem ownStops_fld : OwnStops fldBody := fun i s _ => by
  unfold fldBody
  split
  · exact error (abc_stopsOwn _ _ _ _ ‹_›)
  split
  · exact error (readLoc_stopsOwn _ _ _ _ _ ‹_›)
  split
  · exact error (readLoc_stopsOwn _ _ _ _ _ ‹_›)
  refine ite (error fun _ => rfl) ?_
  split
  · exact error (farRead_stopsOwn _ _ _ _ _ ‹_›)
  exact ok _

theorem ownStops_fst : OwnStops fstBody := fun i s _ => by
  unfold fstBody
  split
  · exact error (abc_stopsOwn _ _ _ _ ‹_›)
  split
  · exact error (readLoc_stopsOwn _ _ _ _ _ ‹_›)
  split
  · exact error (readLoc_stopsOwn _ _ _ _ _ ‹_›)
  split
  · exact error (readLoc_stopsOwn _ _ _ _ _ ‹_›)
  exact map _ (memWrite_stopsOwn _ _ _ _ _ _)

theorem ownStops_stm : OwnStops stmBody := fun i s _ => by
  unfold stmBody
  split
  · exact error (abc_stopsOwn _ _ _ _ ‹_›)
  split
  · exact error (readLoc_stopsOwn _ _ _ _ _ ‹_›)
  split
  · exact error (readLoc_stopsOwn _ _ _ _ _ ‹_›)
  extract_lets sel
  split
  · refine ite (map _ (writeLoc_stopsOwn _ _ _ _ _ _)) ?_
    split
    · exact error (oldLoc_stopsOwn _ _ _ _ _ ‹_›)
    exact map _ (writeLoc_stopsOwn _ _ _ _ _ _)
  · exact map _ (writeLoc_stopsOwn _ _ _ _ _ _)

theorem ownStops_mfsr : OwnStops mfsrBody := fun i s _ => by
  unfold mfsrBody
  split
  · exact error (abc_stopsOwn _ _ _ _ ‹_›)
  split
  · exact error (readLoc_stopsOwn _ _ _ _ _ ‹_›)
  refine ite (error fun _ => rfl) ?_
  split
  · exact error (srOf_stopsOwn _ _ _ ‹_›)
  exact map _ (writeLoc_stopsOwn _ _ _ _ _ _)

/-- What MTSR's value stops on is an address or a depth. -/
theorem srStop_own (s : State) (c : Core) (n : Nat) (v : Word) (t : Trap) (h : s.srStop c n v = some t) : t.Own := by
  unfold State.srStop at h
  extract_lets cox at h
  split at h
  · cases h; exact fun _ => rfl
  · split at h
    · cases h; exact fun _ => rfl
    · cases h

theorem ownStops_mtsr : OwnStops mtsrBody := fun i s _ => by
  unfold mtsrBody
  split
  · exact error (abc_stopsOwn _ _ _ _ ‹_›)
  split
  · exact error (readLoc_stopsOwn _ _ _ _ _ ‹_›)
  split
  · exact error (readLoc_stopsOwn _ _ _ _ _ ‹_›)
  extract_lets n
  refine ite (error fun _ => rfl) ?_
  split
  · exact error (srOf_stopsOwn _ _ _ ‹_›)
  refine ite ?_ ?_
  · split
    · exact error fun _ => rfl
    · exact ok _
  · split
    · exact error (srStop_own _ _ _ _ _ ‹_›)
    · exact ok _

theorem ownStops_seat (op : Nat) (g : List Byte → Word → Word) : OwnStops (seatBody op g) := fun i s _ => by
  unfold seatBody
  split
  · exact error (abc_stopsOwn _ _ _ _ ‹_›)
  split
  · split
    · exact error fun _ => rfl
    split
    · exact error (readAll_stopsOwn _ _ _ _ _ ‹_›)
    exact ok _
  · exact error fun _ => rfl

theorem ownStops_field (op : Nat) (g : Word → Word → Word) : OwnStops (fieldBody op g) := fun i s _ => by
  unfold fieldBody
  split
  · exact error (abc_stopsOwn _ _ _ _ ‹_›)
  split
  · split
    · exact error (readAll_stopsOwn _ _ _ _ _ ‹_›)
    split
    · exact error (readAll_stopsOwn _ _ _ _ _ ‹_›)
    exact ok _
  · exact error fun _ => rfl

theorem ownStops_tcmp : OwnStops tcmpBody := fun i s _ => by
  unfold tcmpBody
  split
  · exact error (abc_stopsOwn _ _ _ _ ‹_›)
  split
  · exact error (readLoc_stopsOwn _ _ _ _ _ ‹_›)
  split
  · exact error (readLoc_stopsOwn _ _ _ _ _ ‹_›)
  split
  · exact error (readLoc_stopsOwn _ _ _ _ _ ‹_›)
  extract_lets n
  refine ite (error fun _ => rfl) ?_
  split
  · exact error fun _ => rfl
  · exact ok _

theorem ownStops_branch (op : Nat) (taken : Word → Word → Bool) : OwnStops (branchBody op taken) := fun i s _ => by
  unfold branchBody
  split
  · exact error (two_stopsOwn _ _ _ _ ‹_›)
  exact ok _

theorem ownStops_ret : OwnStops retBody := fun i s _ => by
  unfold retBody
  extract_lets sp
  split
  · exact error (memRead_stopsOwn _ _ _ _ _ ‹_›)
  exact ite (error fun _ => rfl) (ok _)

theorem ownStops_loop : OwnStops loopBody := fun i s _ => by
  unfold loopBody
  split
  · exact error (abc_stopsOwn _ _ _ _ ‹_›)
  split
  · exact error (readLoc_stopsOwn _ _ _ _ _ ‹_›)
  extract_lets r d n
  refine ite (error fun _ => rfl) (ite ?_ (ok _))
  split
  · exact ok _
  · exact ok _

theorem ownStops_calli : OwnStops calliBody := fun i s _ => by
  unfold calliBody
  split
  · exact error (indirect_stopsOwn _ _ _ _ ‹_›)
  exact callTo_stopsOwn _ _ _

theorem ownStops_low : ∀ row ∈ bodiesLow, OwnStops row.2 := by
  unfold bodiesLow
  simp only [List.forall_mem_cons, List.not_mem_nil, false_implies, implies_true, and_true]
  exact ⟨fun _ _ _ => ok _, ownStops_end, ownStops_fence, ownStops_unary _ _, ownStops_fld, ownStops_fst, ownStops_stm, ownStops_mfsr,
    ownStops_mtsr, ownStops_vec _ _, ownStops_vec _ _, ownStops_vec _ _, ownStops_vec _ _, ownStops_xred, ownStops_vec _ _,
    ownStops_vec _ _, ownStops_vec _ _, ownStops_vec _ _, ownStops_vec _ _, ownStops_vec _ _, ownStops_scalar _ _ _,
    ownStops_scalar _ _ _, ownStops_scalar _ _ _, ownStops_scalar _ _ _, ownStops_scalar _ _ _, ownStops_scalar _ _ _,
    ownStops_scalar _ _ _, ownStops_scalar _ _ _, ownStops_unary _ _, ownStops_scalar _ _ _⟩

theorem ownStops_high : ∀ row ∈ bodiesHigh, OwnStops row.2 := by
  unfold bodiesHigh
  simp only [List.forall_mem_cons, List.not_mem_nil, false_implies, implies_true, and_true]
  exact ⟨ownStops_seat _ _, ownStops_seat _ _, ownStops_field _ _, ownStops_field _ _, ownStops_tcmp, ownStops_branch _ _,
    ownStops_branch _ _, ownStops_branch _ _, ownStops_branch _ _, ownStops_branch _ _, ownStops_branch _ _, ownStops_branch _ _,
    ownStops_branch _ _, fun _ _ _ => ok _, fun i s _ => callTo_stopsOwn s i _, ownStops_ret, ownStops_loop,
    fun i s _ => map _ (indirect_stopsOwn s _ i), ownStops_calli, fun _ _ _ => ok _, fun _ _ _ => ok _⟩

theorem ownStops_of_bodyOf {op : Nat} {f : Body} (h : bodyOf op = some f) : OwnStops f := by
  unfold bodyOf at h
  obtain ⟨row, hrow, rfl⟩ := Option.map_eq_some_iff.1 h
  have hm := List.mem_of_find?_eq_some hrow
  rcases List.mem_append.1 hm with hm | hm
  · exact ownStops_low row hm
  · exact ownStops_high row hm

theorem early_umpire_own (s : State) (op : Nat) (r : OpInfo) (i : At) (hc : i.c = .umpire) (t : Trap) (h : s.early op r i = some t) :
    t.Own := by
  unfold State.early at h
  rw [hc] at h
  dsimp only at h
  split at h
  · cases h; exact fun _ => rfl
  · split at h
    · cases h
    · cases h; exact fun _ => rfl

/-- An instruction of the Umpire that stops while no FLD is pending stops by itself. -/
theorem runBody_umpire_stopsOwn (s : State) (op : Nat) (r : OpInfo) (i : At) (f : Body) (hc : i.c = .umpire) (hf : OwnStops f)
    (h : s.ump.regs.fld = []) : StopsOwn (s.runBody op r i f) := by
  have hb : StopsOwn (f i (s.count1 i.c)) := hf i _ (by
    rw [hc]
    show s.ump.regs.fld.map _ = []
    rw [h]
    rfl)
  unfold State.runBody
  split
  · exact error (early_umpire_own s op r i hc _ ‹_›)
  split
  · exact error (hb _ ‹_›)
  refine ite (ok _) ?_
  unfold State.goNext State.goTo
  rw [hc]
  split
  · exact ok _
  · exact ok _
  · exact ok _

end Sys2Proof.Machine

/-!
# Exceptions, interrupts and reserved opcodes of the Umpire (R203, R212, R214)
-/

namespace Sys2Proof.Machine

-- One declaration after the other: elaborated side by side, the row as one text takes more threads than the check allows.
set_option Elab.async false

/-! ### Entry -/

/-- Entry proper, once the pending FLDs have landed: EPC, CAUSE, the stacked IE, and control at EVB. -/
def State.enter (s : State) (epc : BitVec 30) (cause : BitVec 8) (eaddr : Option Nat) : State :=
  (s.onUmp fun u =>
    { u with epc := epc, cause := cause, pie := u.ie, ie := false, waiting := false
             eaddr := match eaddr with
               | some a => BitVec.ofNat 30 a
               | none => u.eaddr }).goUmpire s.ump.evb

theorem umpEntry_eq (s : State) (epc : BitVec 30) (cause : BitVec 8) (eaddr : Option Nat) : s.umpEntry epc cause eaddr =
    match s.ump.regs.fld.find? fun x => x.refused.isSome with
    | some x => s.landForEntry.enter x.pc 6 x.refused
    | none => s.landForEntry.enter epc cause eaddr := by
  unfold State.umpEntry
  cases s.ump.regs.fld.find? fun x => x.refused.isSome <;> rfl

/-- A bank and a short address are the two parts of an instruction address (R184). -/
theorem insAddr_parts (a : BitVec 30) : ((a >>> 18).setWidth 12 ++ a.setWidth 18 : BitVec 30) = a := by
  apply BitVec.eq_of_getLsbD_eq
  intro i hi
  rw [BitVec.getLsbD_append]
  by_cases h : i < 18
  · simp [h]
  · have h12 : i - 18 < 12 := by omega
    have h18 : 18 + (i - 18) = i := by omega
    simp [h, h12, h18]

/-- What entry leaves: the exception's own registers, and control at EVB (R212). -/
structure Entered (s t : State) (epc : BitVec 30) (cause : BitVec 8) (eaddr : Option Nat) : Prop where
  epc : t.ump.epc = epc
  cause : t.ump.cause = cause
  eaddr : ∀ a, eaddr = some a → t.ump.eaddr = BitVec.ofNat 30 a
  pie : t.ump.pie = s.ump.ie
  ie : t.ump.ie = false
  waiting : t.ump.waiting = false
  control : t.ump.regs.pbk ++ t.ump.regs.pc = s.ump.evb
  ptrs : t.ump.regs.p = s.ump.regs.p
  lc : t.ump.regs.lc = s.ump.regs.lc
  ldepth : t.ump.regs.ldepth = s.ump.regs.ldepth
  fld : t.ump.regs.fld = s.ump.regs.fld
  sram : t.ump.sram = s.ump.sram

theorem entered_enter (s : State) (epc : BitVec 30) (cause : BitVec 8) (eaddr : Option Nat) :
    Entered s (s.enter epc cause eaddr) epc cause eaddr ∧ Only [.ump] s (s.enter epc cause eaddr) :=
  ⟨{ epc := rfl
     cause := rfl
     eaddr := fun a h => by rw [h]; rfl
     pie := rfl
     ie := rfl
     waiting := rfl
     control := insAddr_parts _
     ptrs := rfl
     lc := rfl
     ldepth := rfl
     fld := rfl
     sram := rfl }, ((Only.refl _ s).onUmp (by decide) _).onUmp (by decide) _⟩

theorem regs_fld_nil (r : Regs) (h : r.fld = []) : { r with fld := [] } = r := by
  cases r
  cases h
  rfl

theorem modRegs_umpire_same (s : State) (f : Regs → Regs) (h : f s.ump.regs = s.ump.regs) : s.modRegs .umpire f = s := by
  have hu : { s.ump with regs := f s.ump.regs } = s.ump := by rw [h]
  exact congrArg (fun u : Ump => { s with ump := u }) hu

theorem sram_modRegs_umpire (s : State) (f : Regs → Regs) : (s.modRegs .umpire f).ump.sram = s.ump.sram := rfl

/-- With no FLD pending nothing lands. -/
theorem landDue_umpire_nil (s : State) (h : s.ump.regs.fld = []) : s.landDue .umpire = .ok s := by
  have hs : (s.modRegs .umpire fun r => { r with fld := r.fld.filter fun x => x.left != 0 }) = s :=
    modRegs_umpire_same s _ (by rw [h]; exact regs_fld_nil _ h)
  unfold State.landDue State.coreRegs
  dsimp only
  rw [hs, h]
  rfl

theorem landForEntry_nil (s : State) (h : s.ump.regs.fld = []) : s.landForEntry = s := by
  unfold State.landForEntry
  rw [h]
  exact modRegs_umpire_same s _ (regs_fld_nil _ h)

theorem umpEntry_nil (s : State) (epc : BitVec 30) (cause : BitVec 8) (eaddr : Option Nat) (h : s.ump.regs.fld = []) :
    s.umpEntry epc cause eaddr = s.enter epc cause eaddr := by
  rw [umpEntry_eq, h, landForEntry_nil s h]
  rfl

/-- A breakpoint's halt leaves the Umpire's registers (R393). -/
theorem breakCheck_effect (s : State) (c : Core) : (s.breakCheck c).ump = s.ump ∧ Only [.dbg, .wdg] s (s.breakCheck c) := by
  unfold State.breakCheck
  split
  · exact ⟨rfl, ((Only.refl _ s).onDbg (by decide) _).onWdg (by decide) _⟩
  · exact ⟨rfl, Only.refl _ s⟩

theorem Entered.breakCheck {s t : State} {epc : BitVec 30} {cause : BitVec 8} {eaddr : Option Nat} (h : Entered s t epc cause eaddr)
    (k : Only [.ump] s t) (c : Core) : Entered s (t.breakCheck c) epc cause eaddr ∧ Only [.dbg, .ump, .wdg] s (t.breakCheck c) := by
  obtain ⟨hu, ho⟩ := breakCheck_effect t c
  refine ⟨?_, (k.mono (by decide)).then ho⟩
  generalize t.breakCheck c = v at hu
  obtain ⟨h1, h2, h3, h4, h5, h6, h7, h8, h9, h10, h11, h12⟩ := h
  constructor <;> rw [hu] <;> assumption

theorem umpireException_effect (s s1 : State) (op : Nat) (x : Enc) (r : OpInfo) (f : Body) (mk : Core → Enc → Instr) (tr : Trap)
    (hm : (op, mk) ∈ traernOps) (hf : bodyOf op = some f) (hl : s.coreLive .umpire = true) (hr : opInfo op = some r)
    (hn : s.ump.regs.fld = []) (hd : s.landDue .umpire = .ok s1) (hb : s1.runBody op r (s1.atNow .umpire r x) f = .error tr) :
    Answers (exec (mk .umpire x) s) fun t => Entered s t (s.ump.regs.pbk ++ s.ump.regs.pc) tr.cause tr.eaddr ∧
      Only [.dbg, .ump, .wdg] s t := by
  rw [landDue_umpire_nil s hn] at hd
  cases hd
  have ho := runBody_umpire_stopsOwn s op r (s.atNow .umpire r x) f rfl (ownStops_of_bodyOf hf) hn tr hb
  have ht : s.trap .umpire (s.atNow .umpire r x).here tr = s.enter (s.ump.regs.pbk ++ s.ump.regs.pc) tr.cause tr.eaddr := by
    unfold State.trap
    dsimp only
    rw [ho, umpEntry_nil s _ _ _ hn]
    rfl
  rw [exec_traern hm hf _ _ _ (.inl rfl), traern_stopped hl hr (landDue_umpire_nil s hn) hb, ht]
  obtain ⟨he, hk⟩ := entered_enter s (s.ump.regs.pbk ++ s.ump.regs.pc) tr.cause tr.eaddr
  exact .next (he.breakCheck hk .umpire)

theorem umpireInterrupt_effect (s : State) (hu : s.umpUp = true) (hi : s.ump.ie = true) (hp : (s.ipend &&& s.ump.ien) ≠ 0)
    (hn : s.ump.regs.fld = []) : Answers (exec .umpireInterrupt s) fun t =>
      Entered s t (s.ump.regs.pbk ++ s.ump.regs.pc) 0x10 none ∧ Only [.dbg, .ump, .wdg] s t := by
  change Answers (execUmpireInterrupt s) _
  unfold execUmpireInterrupt
  rw [if_pos ⟨hu, hi, bne_iff_ne.2 hp⟩, umpEntry_nil s _ _ _ hn]
  obtain ⟨he, hk⟩ := entered_enter s (s.ump.regs.pbk ++ s.ump.regs.pc) 0x10 none
  exact .next (he.breakCheck hk .umpire)

/-! ### A refused FLD that lands (R203, R212) -/

theorem bankAt_sram {a : Nat} (h : a < 262144) : bankAt 0 a = some .sram := by
  unfold bankAt
  rw [if_neg (by omega), if_pos rfl]

/-- A whole word stored to Umpire SRAM. -/
def State.sramPut (s : State) (a : Nat) (v : Word) : State := s.sramStore a (laneMask allLanes) v

theorem memWrite_sram (s : State) {a : Nat} (h : a < 262144) (v : Word) : s.memWrite .umpire 0 a allLanes v = .ok (s.sramPut a v) := by
  unfold State.memWrite State.barred
  dsimp only
  rw [bankAt_sram h]
  rfl

theorem laneMask_all : laneMask allLanes = BitVec.allOnes 128 := by decide

/-- The word stored is read there, and no other has changed. -/
theorem sram_sramPut (s : State) (a w : Nat) (v : Word) : (s.sramPut a v).ump.sram.get 0 w = if w = a then v else s.ump.sram.get 0 w := by
  have hm : (s.ump.sram.get 0 a &&& ~~~laneMask allLanes) ||| (v &&& laneMask allLanes) = v := by
    rw [laneMask_all, BitVec.not_allOnes, BitVec.and_zero, BitVec.zero_or, BitVec.and_allOnes]
  have hs : (s.sramPut a v).ump.sram = s.ump.sram.set 0 a ((s.ump.sram.get 0 a &&& ~~~laneMask allLanes) ||| (v &&& laneMask allLanes)) := rfl
  rw [hs, hm, SMap.get_set]

theorem fldLand_effect (s : State) (x : PendFld) (a : Nat) (hu : s.umpUp = true) (hf : s.ump.regs.fld = [x]) (hl : x.left = 0)
    (hr : x.refused = some a) (hs : x.special = none) (hb : x.bank = 0) (ha : x.addr < 262144) :
    Answers (exec (.fldLand .umpire) s) fun t =>
      t.ump.epc = x.pc ∧ t.ump.cause = 6 ∧ t.ump.eaddr = BitVec.ofNat 30 a ∧ t.ump.pie = s.ump.ie ∧ t.ump.ie = false ∧
      t.ump.regs.pbk ++ t.ump.regs.pc = s.ump.evb ∧ t.ump.regs.fld = [] ∧
      (∀ w, t.ump.sram.get 0 w = if w = x.addr then x.val else s.ump.sram.get 0 w) ∧ Only [.ump] s t := by
  have hv (u : State) : u.landValue .umpire x = .ok (u.sramPut x.addr x.val) := by
    unfold State.landValue
    rw [hs, hb]
    exact memWrite_sram u ha x.val
  have hd : s.landDue .umpire = .error (.landing x.pc 6 (some a)) := by
    have hfil : ([x] : List PendFld).filter (fun x => x.left == 0) = [x] := by simp [hl]
    unfold State.landDue State.coreRegs
    dsimp only
    rw [hf, hfil, List.foldlM_cons]
    unfold State.land
    rw [hv, hr]
    rfl
  have hfind : ([x] : List PendFld).find? (fun x => x.refused.isSome) = some x := by simp [hr]
  have ht : s.trap .umpire (insAddr (s.pbkOf .umpire) (s.coreRegs .umpire).pc) (.landing x.pc 6 (some a)) =
      ((s.modRegs .umpire fun r => { r with fld := [] }).sramPut x.addr x.val).enter x.pc 6 (some a) := by
    unfold State.trap
    dsimp only
    rw [umpEntry_eq, hf, hfind]
    dsimp only
    unfold State.landForEntry
    rw [hf, List.foldl_cons, List.foldl_nil, hv, hr]
  change Answers (execFldLand .umpire s) _
  unfold execFldLand
  extract_lets live
  rw [if_neg (by rw [show live = s.umpUp from rfl, hu]; decide), hd]
  dsimp only
  rw [ht]
  refine .next ?_
  have hg (w : Nat) := sram_sramPut (s.modRegs .umpire fun r => { r with fld := [] }) x.addr w x.val
  have ho : Only [.ump] s ((s.modRegs .umpire fun r => { r with fld := [] }).sramPut x.addr x.val) :=
    ((Only.refl _ s).onUmp (by decide) _).onUmp (by decide) _
  have hk : ((s.modRegs .umpire fun r => { r with fld := [] }).sramPut x.addr x.val).ump.ie = s.ump.ie ∧
      ((s.modRegs .umpire fun r => { r with fld := [] }).sramPut x.addr x.val).ump.evb = s.ump.evb ∧
      ((s.modRegs .umpire fun r => { r with fld := [] }).sramPut x.addr x.val).ump.regs.fld = [] := ⟨rfl, rfl, rfl⟩
  generalize (s.modRegs .umpire fun r => { r with fld := [] }).sramPut x.addr x.val = u at hg ho hk
  obtain ⟨k1, k2, k3⟩ := hk
  obtain ⟨he, hu⟩ := entered_enter u x.pc 6 (some a)
  exact ⟨he.epc, he.cause, he.eaddr a rfl, he.pie.trans k1, he.ie, he.control.trans k2, he.fld.trans k3,
    fun w => by rw [he.sram]; exact hg w, ho.trans hu⟩

/-! ### Reserved opcodes (R214) -/

/-- An operand in memory lies in the bank that DBK names (R187). -/
theorem resolve1_bank {s t : State} {c : Core} {sp : BitVec 8} {f : BitVec 18} {n b a : Nat}
    (h : s.resolve1 c sp f n = .ok (.mem b a, t)) : b = (s.coreRegs c).dbk.toNat := by
  unfold State.resolve1 at h
  extract_lets r m at_ d at h
  have hat (w : BitVec 18) (u : State) (e : (Except.ok (at_ w, u) : Except Trap (Loc × State)) = .ok (.mem b a, t)) :
      b = (s.coreRegs c).dbk.toNat := by
    cases e
    rfl
  clear_value at_
  split at h
  · cases h
  split at h
  · exact hat _ _ h
  · exact hat _ _ h
  · exact hat _ _ h
  · split at h
    · cases h
    · exact hat _ _ h
  · exact hat _ _ h
  · exact hat _ _ h
  · cases h
  · split at h <;> cases h

/-- With DBK 0 the operands of an instruction address bank 0 alone. -/
theorem addressed_bank_zero (s : State) (x : Enc) (h : s.ump.regs.dbk = 0) (w : Nat × Nat) (hw : w ∈ s.addressed x) : w.1 = 0 := by
  unfold State.addressed at hw
  extract_lets one at hw
  have h1 (sp : BitVec 8) (f : BitVec 18) (hm : w ∈ one sp f) : w.1 = 0 := by
    dsimp only [one] at hm
    split at hm
    · split at hm
      · rename_i b a _ e
        have hb : b = 0 := (resolve1_bank e).trans (congrArg BitVec.toNat h)
        obtain ⟨k, -, rfl⟩ := List.mem_map.1 hm
        exact hb
      · cases hm
    · cases hm
  rcases List.mem_append.1 hw with hw | hw
  · rcases List.mem_append.1 hw with hw | hw
    · exact h1 _ _ hw
    · exact h1 _ _ hw
  · exact h1 _ _ hw

/-- One word of memory takes a free value, if the core can write it. -/
def State.havocWord (s : State) (w : Nat × Nat) : State :=
  match s.memWrite .umpire w.1 w.2 allLanes (Config.free 128 s.freeCtr) with
  | .ok t => t.spend 1
  | .error _ => s

theorem havocWords_eq (s : State) (l : List (Nat × Nat)) : s.havocWords l = l.foldl State.havocWord s := rfl

theorem havocWord_effect (s : State) (w : Nat × Nat) (h : w.1 = 0) : Only [.freeCtr, .ump] s (s.havocWord w) ∧
    ∀ a, a ≠ w.2 → (s.havocWord w).ump.sram.get 0 a = s.ump.sram.get 0 a := by
  unfold State.havocWord
  rw [h]
  by_cases hw : w.2 < 262144
  · rw [memWrite_sram s hw]
    exact ⟨((Only.refl _ s).onUmp (by decide) _).spend (by decide) 1, fun a ha => (sram_sramPut s w.2 a _).trans (if_neg ha)⟩
  · have hn (v : Word) : s.memWrite .umpire 0 w.2 allLanes v = .error (.address (farAddr 0 w.2)) := by
      unfold State.memWrite bankAt
      rw [if_pos (by omega)]
    rw [hn]
    exact ⟨Only.refl _ s, fun _ _ => rfl⟩

/-- In bank 0 no word of the SRAM but those listed changes. -/
theorem havocWords_effect (s : State) (l : List (Nat × Nat)) (h : ∀ w ∈ l, w.1 = 0) :
    Only [.freeCtr, .ump] s (s.havocWords l) ∧ ∀ a, (0, a) ∉ l → (s.havocWords l).ump.sram.get 0 a = s.ump.sram.get 0 a := by
  rw [havocWords_eq]
  induction l generalizing s with
  | nil => exact ⟨Only.refl _ s, fun _ _ => rfl⟩
  | cons w r ih =>
    rw [List.foldl_cons]
    obtain ⟨h1, h2⟩ := List.forall_mem_cons.1 h
    obtain ⟨k1, k2⟩ := havocWord_effect s w h1
    obtain ⟨i1, i2⟩ := ih (s.havocWord w) h2
    refine ⟨k1.trans i1, fun a ha => ?_⟩
    obtain ⟨n1, n2⟩ := not_or.1 (fun e => ha (List.mem_cons.2 e))
    exact (i2 a n2).trans (k2 a fun e => n1 (Prod.ext h1.symm e))

theorem reservedOpcode_umpire (s : State) (op : BitVec 8) (x : Enc) (hl : s.coreLive .umpire = true) (hr : opInfo op.toNat = none)
    (hd : s.ump.regs.dbk = 0) (hn : s.ump.regs.fld = []) : Answers (exec (.reservedOpcode .umpire op x) s) fun t =>
      (∀ a, (0, a) ∉ s.addressed x → t.ump.sram.get 0 a = s.ump.sram.get 0 a) ∧ Only [.dbg, .freeCtr, .ump, .wdg] s t := by
  change Answers (execReservedOpcode .umpire op x s) _
  unfold execReservedOpcode
  rw [if_neg (by simp [hl, hr])]
  extract_lets n fault s0
  have h0 : Only [.freeCtr] s s0 := (Only.refl _ s).spend (by decide) 32
  have hu : s0.ump = s.ump := h0.same .ump
  cases fault
  · obtain ⟨h1, h2⟩ := havocWords_effect s0 (s.addressed x) fun w => addressed_bank_zero s x hd w
    generalize s0.havocWords (s.addressed x) = u at h1 h2
    have h3 : Only [.freeCtr, .ump] u u.havocPriv := ((Only.refl _ u).onUmp (by decide) _).spend (by decide) 8
    have h4 : u.havocPriv.ump.sram = u.ump.sram := rfl
    generalize u.havocPriv = v at h3 h4
    refine .next ⟨fun a ha => ?_, (((h0.mono (by decide)).then h1).then h3).onUmp (by decide) _⟩
    rw [sram_modRegs_umpire, h4, h2 a ha, hu]
  · dsimp only
    rw [if_pos rfl, umpEntry_nil s0 _ _ _ (by rw [hu]; exact hn)]
    obtain ⟨he, hk⟩ := entered_enter s0 (insAddr s.ump.regs.pbk s.ump.regs.pc) (Config.free 8 (n - 1)) none
    exact .next ⟨fun a _ => by rw [he.sram, hu], (h0.mono (by decide)).then hk⟩

/-- Settles O38, one theorem for each cause of a fault or an exception. -/
theorem programFaultsExceptionsAndReservedOpcodes : Obligations.ProgramFaultsExceptionsAndReservedOpcodes := by
  unfold Obligations.ProgramFaultsExceptionsAndReservedOpcodes
  refine ⟨?_, budget_effect, ?_, fldLand_effect, ?_, ?_, reservedOpcode_umpire⟩
  · intro s s1 e k op x r f mk tr hm hf hl hr hd hs hb hc
    exact programFault_effect s s1 e k op x r f mk tr hm hf hl hr hd hs hb hc
  · intro s s1 op x r f mk tr hm hf hl hr hn hd hb
    obtain ⟨t, e, he, ho⟩ := umpireException_effect s s1 op x r f mk tr hm hf hl hr hn hd hb
    exact ⟨t, e, he.epc, he.cause, he.pie, he.ie, he.control, he.ptrs, he.lc, he.sram, he.eaddr, ho⟩
  · intro s hu hi hp hn
    obtain ⟨t, e, he, ho⟩ := umpireInterrupt_effect s hu hi hp hn
    exact ⟨t, e, he.epc, he.cause, he.pie.trans hi, he.ie, he.control, he.waiting, he.ptrs, he.lc, he.ldepth, he.sram, ho⟩
  · intro s e k op x hl hr
    obtain ⟨t, he, h⟩ := reservedOpcode_cox s e k op x hl hr
    refine ⟨t, he, h.imp_left ?_⟩
    rintro ⟨d, h1, -, h2, h3⟩
    exact ⟨⟨_, h2⟩, h1, h3⟩

end Sys2Proof.Machine

/-!
# Writes to the common header (O7), and the count of status sets (O8)
-/

namespace Sys2Proof.Machine

-- One declaration after the other: elaborated side by side, the row as one text takes more threads than the check allows.
set_option Elab.async false

/-! ### Accesses to a header that get through -/

/-- A page that is reached, present and out of reset takes the write (R53, R55). -/
theorem reach_open {s : State} {who : Requester} {p : PageId} (hr : reaches who p = true) (hp : s.readablePage p = true)
    (k : State → State) : s.reach who p k = k s := by
  have hpr : s.present p = true := (Bool.and_eq_true_iff.1 hp).1
  simp [State.reach, hr, hpr, hp]

/-- The header of a mirror is a copy, and that of a MEAS page the Umpire's; every other page takes the write (R50, R60, R243). -/
theorem hdrOp_open {s : State} {who : Requester} {p : PageId} (hr : reaches who p = true) (hp : s.readablePage p = true)
    (hm : ∀ k, p ≠ .mirror k) (hu : ∀ i, p = .meas i → who = .umpire) (k : State → State) : s.hdrOp who p k = k s := by
  rw [State.hdrOp, reach_open hr hp]
  split
  · rw [hu _ rfl]; rfl
  · exact absurd rfl (hm _)
  · rfl

/-- The same by a command of its own, over an open link and with no reset that stands against the Umpire (R24). -/
theorem hdrCommand_open {s : State} {who : Requester} {p : PageId} (hl : LinkOpen s who) (hr : reaches who p = true)
    (hp : s.readablePage p = true) (ha : who = .umpire → PageId.accel p = true → s.chip.accReset = false)
    (hm : ∀ k, p ≠ .mirror k) (hu : ∀ i, p = .meas i → who = .umpire) (k : State → State) : s.hdrCommand who p k = k s := by
  have hn : ¬ (who = .umpire ∧ PageId.accel p = true ∧ s.chip.accReset = true ∧ s.present p = true) :=
    fun ⟨h1, h2, h3, _⟩ => Bool.noConfusion ((ha h1 h2).symm.trans h3)
  rw [State.hdrCommand, access_open hl, if_neg hn, hdrOp_open hr hp hm hu]

/-! ### The write rules -/

theorem only_modHdrInt (s : State) (p : PageId) (f : Hdr → Hdr) : Only [.hdrs, .chip, .out, .fns] s (s.modHdrInt p f) :=
  (Only.refl _ s).modHdrInt (by decide) (by decide) (by decide) (by decide) p f

theorem only_statusClear (s : State) (p : PageId) (mask hw : W32) :
    Only [.hdrs, .chip, .out, .fns] s (s.statusClear p mask hw) := by
  unfold State.statusClear
  exact (only_modHdrInt s p _).ite ((only_modHdrInt s p _).setStatus (by decide) (by decide) (by decide) (by decide) p hw)

theorem satAdd_eq_min (a n m : Nat) : satAdd a n m = min (a + n) m := by
  unfold satAdd
  split <;> omega

/-- The count of one header advances by the number of bits set, and stops at its end (R42). -/
theorem Hdr.statusCnt_raise (h : Hdr) (mask : W32) :
    (h.raise mask).statusCnt.toNat = min (h.statusCnt.toNat + popBelow mask 32) 0xFFFFFFFF := by
  have hlt : min (h.statusCnt.toNat + popBelow mask 32) 0xFFFFFFFF < 2 ^ 32 := by omega
  simp only [Hdr.raise, satAdd_eq_min, BitVec.toNat_ofNat, Nat.mod_eq_of_lt hlt]

/-- No bit set is no change. -/
theorem Hdr.raise_zero (h : Hdr) : h.raise 0 = h := by
  have hc : (h.raise 0).statusCnt = h.statusCnt := by
    apply BitVec.eq_of_toNat_eq
    rw [Hdr.statusCnt_raise, show popBelow 0 32 = 0 by decide]
    have := h.statusCnt.isLt
    omega
  have hs : (h.raise 0).status = h.status := BitVec.or_zero
  calc h.raise 0 = { h with status := (h.raise 0).status, statusCnt := (h.raise 0).statusCnt } := rfl
    _ = h := by rw [hc, hs]

/-- What the hardware sets at the moment of a clear stays set: it is set after the clear (R51). -/
theorem hdr_statusClear (s : State) (p q : PageId) (mask hw : W32) : (s.statusClear p mask hw).hdr q =
    if q = p then { s.hdr p with status := (s.hdr p).status &&& ~~~mask }.raise hw else s.hdr q := by
  unfold State.statusClear
  dsimp only
  split
  · subst hw
    rw [hdr_modHdrInt, Hdr.raise_zero]
  · rw [hdr_setStatus, hdr_modHdrInt, hdr_modHdrInt, if_pos rfl]
    split <;> rfl

/-- Settles O7: each command is its rule where the access gets through, and each rule changes one header. -/
theorem headerWritesTakeTheirRule : Obligations.HeaderWritesTakeTheirRule := by
  unfold Obligations.HeaderWritesTakeTheirRule
  intro s who p hpow hl hr _ hp ha hm hu
  have hopen (k : State → State) : s.hdrCommand who p k = k s := hdrCommand_open hl hr hp ha hm hu k
  refine ⟨?_, fun v => ?_, fun v => ?_, fun mask hw => ?_⟩
  · change Answers (execErrRecClr who p s) _
    rw [execErrRecClr, powered_eq hpow, hopen]
    exact .next ⟨fun q => hdr_modHdr s p q _, (Only.refl _ s).modHdr (by decide) p _⟩
  · change Answers (execPgLockWrite who p v s) _
    rw [execPgLockWrite, powered_eq hpow, hopen]
    exact .next ⟨fun q => hdr_modHdr s p q _, (Only.refl _ s).modHdr (by decide) p _⟩
  · change Answers (execPgIntEnWrite who p v s) _
    rw [execPgIntEnWrite, powered_eq hpow, hopen]
    exact .next ⟨fun q => hdr_modHdrInt s p q _, only_modHdrInt s p _⟩
  · change Answers (execPgStatusClear who p mask hw s) _
    rw [execPgStatusClear, powered_eq hpow, hopen]
    have hself := (hdr_statusClear s p p mask (hw &&& 0xFFFFFF3F)).trans (if_pos rfl)
    refine .next ⟨?_, fun q hq => (hdr_statusClear s p q mask _).trans (if_neg hq), ?_, only_statusClear s p mask _⟩
    · rw [hself]; rfl
    · rw [hself]; exact ⟨rfl, rfl, rfl, rfl⟩

/-! ### The count of status sets -/

/-- The number of set bits below `n` is the number of the positions below `n` whose bit is set. -/
theorem popBelow_eq_length (w : W32) (n : Nat) : popBelow w n = ((List.range n).filter fun k => w.getLsbD k).length := by
  induction n with
  | zero => rfl
  | succ n ih =>
    rw [popBelow, ih, List.range_succ, List.filter_append, List.length_append]
    cases h : w.getLsbD n <;> simp [h, b2n, Nat.add_comm]

/-- Settles O8: `Hdr.statusCnt_raise` for the sets, the header's rule for the write. -/
theorem statusCountCountsEverySet : Obligations.StatusCountCountsEverySet := by
  unfold Obligations.StatusCountCountsEverySet
  refine ⟨fun s p mask => ?_, fun s p v => ?_, fun p => rfl⟩
  · rw [hdr_setStatus, if_pos rfl, Hdr.statusCnt_raise, popBelow_eq_length]
  · have hw : s.writeHeader p 0x014 v = s.modHdr p fun h => { h with statusCnt := v } := rfl
    rw [hw, hdr_modHdr, if_pos rfl]

end Sys2Proof.Machine

/-!
# Where register writes reach, and the mirrors (O9)
-/

namespace Sys2Proof.Machine

-- One declaration after the other: elaborated side by side, the row as one text takes more threads than the check allows.
set_option Elab.async false

/-! ### PG_INT_EN through BAR0 -/

/-- An access at the offset of PG_INT_EN meets that register first. -/
theorem touched_headRegs_intEn (s : State) (p : PageId) {w : Nat} (hw : 1 ≤ w) : touched (s.headRegs p) 0x018 w =
    r32 0x018 (s.hdr p).intEn.toNat :: touched ((s.headRegs p).drop 7) 0x018 w := by
  have hbelow : touched ((s.headRegs p).take 6) 0x018 w = [] := by simp [touched, State.headRegs, r32]
  have hat : 0x018 < 0x018 + w := by omega
  calc touched (s.headRegs p) 0x018 w
      = touched ((s.headRegs p).take 6 ++ r32 0x018 (s.hdr p).intEn.toNat :: (s.headRegs p).drop 7) 0x018 w := rfl
    _ = touched ((s.headRegs p).take 6) 0x018 w ++ touched (r32 0x018 (s.hdr p).intEn.toNat :: (s.headRegs p).drop 7) 0x018 w :=
        List.filter_append _ _
    _ = touched (r32 0x018 (s.hdr p).intEn.toNat :: (s.headRegs p).drop 7) 0x018 w := by rw [hbelow, List.nil_append]
    _ = r32 0x018 (s.hdr p).intEn.toNat :: touched ((s.headRegs p).drop 7) 0x018 w :=
        List.filter_cons_of_pos (by simp [r32, hat])

theorem touched_pageRegs_intEn (s : State) {p : PageId} (hm : ∀ k, p ≠ .mirror k) {w : Nat} (hw : 1 ≤ w) :
    ∃ l, touched (s.pageRegs p) 0x018 w = r32 0x018 (s.hdr p).intEn.toNat :: l := by
  have hp : s.pageRegs p = s.headRegs p ++ s.bodyRegs p := by
    unfold State.pageRegs
    split
    · exact absurd rfl (hm _)
    · rfl
  have hc := touched_headRegs_intEn s p hw
  exact ⟨touched ((s.headRegs p).drop 7) 0x018 w ++ touched (s.bodyRegs p) 0x018 w, by
    rw [hp, touched, List.filter_append, ← touched, ← touched, hc]; rfl⟩

/-- Of the accesses to a page only those that meet ADM_DB have a rule of their own (R102). -/
theorem writeAt_page (s : State) (who : Requester) (p : PageId) {off w : Nat} (v : W64) (h : meetsAdmDb off w = false) :
    s.writeAt who (.page p off) w v = s.pageWrite who p off w v := by
  simp only [State.writeAt, h, Bool.false_eq_true, false_and, if_false]
  split <;> rfl

/-- A header register of a page that is no mirror takes its header rule. -/
theorem writeReg_header (s : State) (who : Requester) {p : PageId} (hm : ∀ k, p ≠ .mirror k) {off : Nat} (ho : off < 0x080) (v : W64) :
    s.writeReg who p off v = s.hdrOp who p fun s => s.writeHeader p off (v.setWidth 32) := by
  unfold State.writeReg
  split
  · exact absurd rfl (hm _)
  · rw [if_pos ho]

/-- The whole of PG_INT_EN is written, any other access there sets ACCESS_ERR (R48). -/
theorem writeAt_intEn {s : State} {who : Requester} {p : PageId} (hr : reaches who p = true) (hp : s.readablePage p = true)
    (hm : ∀ k, p ≠ .mirror k) (hu : ∀ i, p = .meas i → who = .umpire) {w : Nat} (h1 : 1 ≤ w) (h8 : w ≤ 8) (v : W64) :
    s.writeAt who (.page p 0x018) w v = if w = 4 then s.writeIntEn p (v.setWidth 32) else s.accessErr p := by
  have hd : meetsAdmDb 0x018 w = false := by simp [meetsAdmDb]; omega
  obtain ⟨l, hl⟩ := touched_pageRegs_intEn s hm h1
  rw [writeAt_page s who p v hd, State.pageWrite, reach_open hr hp, hl, writeReg_header s who hm (by decide),
    hdrOp_open hr hp hm hu]
  by_cases h : w = 4 <;> simp [h, r32, State.writeHeader]

/-- The PF writes in no mirror (R60). -/
theorem ne_mirror_of_reaches_pf {p : PageId} (h : reaches .pf p = true) (k : Nat) : p ≠ .mirror k := by
  rintro rfl
  exact Bool.noConfusion h

/-- A PF write through BAR0 comes where the PF map leads. -/
theorem registerWrite_bar_pf {s : State} (hpow : s.aod.onCell = false) (hl : LinkOpen s .pf) (off w : Nat) (v : W64) :
    exec (.registerWrite .pf (.bar off) w v) s = .next (s.writeAt .pf (pfAt off) w v) := by
  have ho := hl 0 rfl
  change execRegisterWrite .pf (.bar off) w v s = _
  rw [execRegisterWrite, powered_eq hpow]
  exact congrArg _ (mmio_open ho.1 ho.2 _)

/-! ### Writes that no page takes -/

/-- An ignored write is counted, and the count stops at its end (R53). -/
theorem ignWrCnt_ignoredWrite (s : State) : s.ignoredWrite.chip.ignWrCnt.toNat = min (s.chip.ignWrCnt.toNat + 1) 0xFFFF := by
  have hlt : min (s.chip.ignWrCnt.toNat + 1) 0xFFFF < 2 ^ 16 := by omega
  change (BitVec.ofNat 16 (satAdd s.chip.ignWrCnt.toNat 1 0xFFFF)).toNat = _
  rw [satAdd_eq_min, BitVec.toNat_ofNat, Nat.mod_eq_of_lt hlt]

/-- An error report sends a message unless the error is masked (R82). -/
theorem out_reportAer (s : State) (f : Nat) (e : Aer) (fatal : Bool) :
    (s.reportAer f e fatal).out = s.out ++ if e ∈ (s.fn f).cfg.aerMask then [] else [.aer f e fatal] := by
  by_cases h : e ∈ (s.fn f).cfg.aerMask
  · rw [State.reportAer, if_pos (List.contains_iff_mem.2 h), if_pos h, List.append_nil]; rfl
  · rw [State.reportAer, if_neg (fun c => h (List.contains_iff_mem.1 c)), if_neg h]; rfl

/-- An Unsupported Request is completed and stands in the AER status of the function that reports it (R69, R82). -/
theorem unsupported_effect (s : State) (f : Nat) :
    (s.unsupported f).out = s.out ++ (if Aer.unsupportedRequest ∈ (s.fn f).cfg.aerMask then [.unsupported]
      else [.unsupported, .aer f .unsupportedRequest false]) ∧
    Aer.unsupportedRequest ∈ ((s.unsupported f).fn f).cfg.aerStatus ∧ Only [.out, .fns] s (s.unsupported f) := by
  refine ⟨?_, (reportAer_effect _ f _ false).1, ((Only.refl _ s).emit (by decide) _).then (only_reportAer _ f _ false)⟩
  have ho : (s.emit .unsupported).out = s.out ++ [.unsupported] := rfl
  have hf : (s.emit .unsupported).fn f = s.fn f := rfl
  rw [State.unsupported, out_reportAer, ho, hf, List.append_assoc]
  split <;> rfl

/-! ### A store to one lane of a word of Umpire SRAM -/

/-- The mask of one lane covers the bits of that lane. -/
theorem getLsbD_laneMask_single {lane : Nat} (h : lane < 4) (i : Nat) :
    (laneMask fun n => n == lane).getLsbD i = (decide (32 * lane ≤ i) && decide (i < 32 * lane + 32)) := by
  have hm : ∀ k, k < 4 → (laneMask fun n => n == k) = (BitVec.allOnes 32).setWidth 128 <<< (32 * k) := by decide
  rw [hm lane h, Bool.eq_iff_iff]
  simp only [BitVec.getLsbD_shiftLeft, BitVec.getLsbD_setWidth, BitVec.getLsbD_allOnes, Bool.and_eq_true,
    Bool.not_eq_true', decide_eq_true_eq, decide_eq_false_iff_not]
  omega

/-- A word with `v` stored in one lane: that lane holds `v`, and every other keeps what it held. -/
theorem lane_store (old : Word) (v : W64) {lane k : Nat} (hl : lane < 4) (hk : k < 4) :
    ((old &&& ~~~(laneMask fun n => n == lane)) ||| ((v.setWidth 128 <<< (32 * lane)) &&& laneMask fun n => n == lane)).extractLsb'
      (32 * k) 32 = if k = lane then v.setWidth 32 else old.extractLsb' (32 * k) 32 := by
  apply BitVec.eq_of_getLsbD_eq
  intro i hi
  have h128 : 32 * k + i < 128 := by omega
  simp only [BitVec.getLsbD_extractLsb', BitVec.getLsbD_or, BitVec.getLsbD_and, BitVec.getLsbD_not,
    getLsbD_laneMask_single hl, BitVec.getLsbD_shiftLeft, BitVec.getLsbD_setWidth]
  by_cases h : k = lane
  · subst h
    have : i < 128 := by omega
    simp [hi, h128, this]
  · have hout : ¬ (32 * lane ≤ 32 * k + i ∧ 32 * k + i < 32 * lane + 32) := by omega
    simp [h, hi, h128, ← Bool.decide_and, hout]

/-- A 4-byte write of the Umpire to a word of its SRAM is a store of that one lane. -/
theorem registerWrite_sram {s : State} (hpow : s.aod.onCell = false) {w lane : Nat} (hw : w < 262144) (hl : lane < 4) (v : W64) :
    exec (.registerWrite .umpire (.bank 0 w lane) 4 v) s =
      .next (s.sramStore w (laneMask fun n => n == lane) (v.setWidth 128 <<< (32 * lane))) := by
  change execRegisterWrite .umpire (.bank 0 w lane) 4 v s = _
  have hsel : (fun n => n == lane || ((4 : Nat) == 8 && n == lane + 1)) = fun n => n == lane := by simp
  rw [execRegisterWrite, powered_eq hpow]
  simp only [State.umpireWrite, bankAt_sram hw, if_neg (Nat.not_le.2 hl), State.bankWrite, hsel]

theorem sram_sramStore (s : State) (w j : Nat) (m v : Word) : (s.sramStore w m v).ump.sram.get 0 j =
    if j = w then (s.ump.sram.get 0 w &&& ~~~m) ||| (v &&& m) else s.ump.sram.get 0 j := SMap.get_set _ _ _ _ _

/-- A store ends the poison mark of its word (R456). -/
theorem notMem_poison_sramStore (s : State) (w : Nat) (m v : Word) : w ∉ (s.sramStore w m v).ump.poison := by
  change w ∉ s.ump.poison.filter (· != w)
  simp

/-! ### The refresh of a mirror -/

/-- A refresh while the Umpire runs, outside SAFE_HOLD (R61). -/
theorem mirrorRefresh_open {s : State} {k : Nat} (hk : k < 6) (hu : s.umpUp = true) (hs : s.chip.safeHold = false) :
    exec (.mirrorRefresh (.mirror k)) s =
      .next (s.onMirrors fun m => m.set {} k { words := s.mirrorNow k, seq := (m.get {} k).seq + 2 }).syncInt := by
  change execMirrorRefresh (.mirror k) s = _
  rw [execMirrorRefresh, if_neg (by simp [hu, hs]; omega)]

theorem mirrors_syncInt (s : State) : s.syncInt.mirrors = s.mirrors :=
  (Only.syncInt (l := [.out, .fns, .chip]) (by decide) (by decide) (by decide) (Only.refl _ s)).same .mirrors

/-- A rewritten mirror is two steps of MIRROR_SEQ on, and no other is rewritten (R61; log entries 63 and 68). -/
theorem mirror_rewritten (s : State) (k j : Nat) (words : SMap W32) :
    (s.onMirrors fun m => m.set {} k { words := words, seq := (m.get {} k).seq + 2 }).syncInt.mirrors.get {} j =
      if j = k then { words := words, seq := (s.mirrors.get {} k).seq + 2 } else s.mirrors.get {} j := by
  rw [mirrors_syncInt]
  exact SMap.get_set _ _ _ _ _

/-- Settles O9: each write by where its map leads and what is done there, the refresh by `mirror_rewritten`. That function 0 reports
the Unsupported Request is log entry 68. -/
theorem registerWritesAndMirrors : Obligations.RegisterWritesAndMirrors := by
  unfold Obligations.RegisterWritesAndMirrors
  refine ⟨⟨fun s p off v hpow hl ha hat hr hp hmeas => ?_, fun s off w v hpow hl hat => ?_, fun s off w v hpow hl ho => ?_,
    fun s w lane v hpow hw hlane => ?_⟩, fun s k hk hu hs => ?_⟩
  · have hread : s.readablePage p = true := by simp [State.readablePage, hp, ha]
    have hwrite {w : Nat} (h1 : 1 ≤ w) (h8 : w ≤ 8) := writeAt_intEn hr hread (ne_mirror_of_reaches_pf hr)
      (fun i h => absurd h (hmeas i)) h1 h8 v
    refine ⟨?_, fun w h4 h1 h8 => ?_⟩
    · rw [registerWrite_bar_pf hpow hl, hat, hwrite (by decide) (by decide), if_pos rfl]
      exact .next ⟨fun q => hdr_modHdrInt s p q _, only_modHdrInt s p _⟩
    · rw [registerWrite_bar_pf hpow hl, hat, hwrite h1 h8, if_neg h4]
      exact .next ⟨fun q => hdr_setBit s p q 5, only_modHdrInt s p _⟩
  · rw [registerWrite_bar_pf hpow hl, hat]
    exact .next ⟨ignWrCnt_ignoredWrite s, (Only.refl _ s).ignoredWrite (by decide)⟩
  · have hat : pfAt off = .outside := if_pos ho
    rw [registerWrite_bar_pf hpow hl, hat]
    exact .next (unsupported_effect s 0)
  · rw [registerWrite_sram hpow hw hlane]
    have hself := fun m x => (sram_sramStore s w w m x).trans (if_pos rfl)
    refine .next ⟨?_, fun k hk hne => ?_, fun j hj => (sram_sramStore s w j _ _).trans (if_neg hj),
      notMem_poison_sramStore s w _ _, (Only.refl _ s).onUmp (by decide) _⟩
    · rw [hself, lane_store _ v hlane hlane, if_pos rfl]
    · rw [hself, lane_store _ v hlane hk, if_neg hne]
  · rw [mirrorRefresh_open hk hu hs]
    exact .next ⟨(mirror_rewritten s k k _).trans (if_pos rfl), fun j hj => (mirror_rewritten s k j _).trans (if_neg hj),
      ((Only.refl _ s).onMirrors (by decide) _).syncInt (by decide) (by decide) (by decide)⟩

end Sys2Proof.Machine

/-!
# The protocols of the host link, and reads that fail (O12)
-/

namespace Sys2Proof.Machine

-- One declaration after the other: elaborated side by side, the row as one text takes more threads than the check allows.
set_option Elab.async false

/-! ### A vector's mask bit -/

theorem mem_addNew (l : List Nat) (v k : Nat) : k ∈ addNew l v ↔ k = v ∨ k ∈ l := by
  unfold addNew
  split
  · rename_i h
    have h := List.contains_iff_mem.1 h
    exact ⟨.inr, fun e => e.elim (fun e => e ▸ h) id⟩
  · simp [or_comm]

/-- From `s` to `t` vector `v` of function `f`, unmasked, has been served: if it was pending and may send, one message with the address
and data of its table entry has gone and its pending bit is clear (R73). -/
def VectorServed (s t : State) (f v : Nat) : Prop :=
  v ∈ (t.fn f).unmasked ∧
  (if (s.fn f).pba.contains v = true ∧ (s.fn f).msixEn = true ∧ (s.fn f).msixFnMask = false
   then t.out = s.out ++ [.msix f v (s.tlp f none false) ((s.fn f).msixAddr.get 0 v) ((s.fn f).msixData.get 0 v)] ∧ v ∉ (t.fn f).pba
   else t.out = s.out ∧ (t.fn f).pba = (s.fn f).pba) ∧
  (∀ g, g ≠ f → t.fn g = s.fn g) ∧ Only [.fns, .out] s t

theorem vectorServed_flushVector (s : State) (f v : Nat) (hv : v ∈ (s.fn f).unmasked) : VectorServed s (s.flushVector f v) f v := by
  have hc := List.contains_iff_mem.2 hv
  by_cases h : (s.fn f).pba.contains v = true ∧ (s.fn f).msixEn = true ∧ (s.fn f).msixFnMask = false
  · have ⟨h1, h2, h3⟩ := h
    have e : s.flushVector f v = (s.sendMsix f v).modFn f fun x => { x with pba := x.pba.filter (· != v) } :=
      if_pos (by rw [h1, h2, h3, hc]; rfl)
    rw [e]
    refine ⟨?_, ?_, fun g hg => ?_, ((Only.refl _ s).emit (by decide) _).modFn (by decide) _ _⟩
    · rw [fn_modFn, if_pos rfl]; exact hv
    · rw [if_pos h, fn_modFn, if_pos rfl]; exact ⟨rfl, by simp⟩
    · rw [fn_modFn, if_neg hg]; rfl
  · have e : s.flushVector f v = s := if_neg (by simpa only [Bool.and_eq_true, Bool.not_eq_true', hc, and_true, and_assoc] using h)
    rw [e]
    exact ⟨hv, by rw [if_neg h]; exact ⟨rfl, rfl⟩, fun _ _ => rfl, Only.refl _ s⟩

/-- Clearing a vector's mask bit in the table of an unlocked function (R73, R77). -/
theorem vectorServed_unmask (s : State) (f v : Nat) (hf : f ≤ s.variant.vfs) (hv : v < 2048) (hl : s.tdispLocked f = false) :
    VectorServed s (s.unmask f v) f v := by
  have e : s.unmask f v = (s.modFn f fun x => { x with unmasked := addNew x.unmasked v }).flushVector f v :=
    if_neg (by rw [hl]; simp; omega)
  have hfn (g : Nat) := fn_modFn s f g fun x => { x with unmasked := addNew x.unmasked v }
  have ho : Only [.fns, .out] s (s.modFn f fun x => { x with unmasked := addNew x.unmasked v }) :=
    (Only.refl _ s).modFn (by decide) _ _
  have hout : (s.modFn f fun x => { x with unmasked := addNew x.unmasked v }).out = s.out := rfl
  rw [e]
  generalize s.modFn f (fun x => { x with unmasked := addNew x.unmasked v }) = u at hfn ho hout
  have hself := (hfn f).trans (if_pos rfl)
  obtain ⟨h1, h2, h3, h4⟩ := vectorServed_flushVector u f v (by rw [hself]; exact (mem_addNew _ _ _).2 (.inl rfl))
  have ht : u.tlp f none false = s.tlp f none false := by unfold State.tlp; rw [hself]
  rw [hself, hout, ht] at h2
  exact ⟨h1, h2, fun g hg => (h3 g hg).trans ((hfn g).trans (if_neg hg)), ho.then h4⟩

/-- An unlocked interface is not in RUN. -/
theorem not_run_of_unlocked {s : State} {f : Nat} (h : s.tdispLocked f = false) : (s.fn f).tdisp ≠ .run := by
  intro e
  simp [State.tdispLocked, e] at h

/-! ### DOE and IDE -/

/-- The running Umpire answers an object that comes to a ready mailbox (R74). -/
theorem doeRequest_ready {s : State} (h1 : s.pcie.doeReady = true) (h2 : s.umpUp = true) (obj : List Byte) (k : State → State) :
    s.doeRequest obj k = k s := by
  simp [State.doeRequest, h1, h2]

/-- The discovery's answer: the type asked for, and the next of the three (R74). -/
theorem exec_doeDiscovery {s : State} (hp : s.aod.onCell = false) (hr : s.pcie.doeReady = true) (hu : s.umpUp = true) (k : Nat) :
    exec (.doeDiscovery k) s = .next (s.emit (.doe (leBytes 2 1 ++ [0, 0] ++ leBytes 4 3 ++
      if k < 3 then leBytes 2 1 ++ [byteOf k, byteOf ((k + 1) % 3)] else leBytes 2 0xFFFF ++ [0, 0]))) := by
  have hn : k < 3 → (if k = 2 then 0 else k + 1) = (k + 1) % 3 := fun _ => by split <;> omega
  change execDoeDiscovery k s = _
  rw [execDoeDiscovery, powered_eq hp]
  dsimp only
  rw [doeRequest_ready hr hu]
  by_cases h : k < 3
  · rw [if_pos h, if_pos h, hn h]; rfl
  · rw [if_neg h, if_neg h]; rfl

theorem ideOf_modIde (s : State) (st : Option Nat) (g : IdeStream → IdeStream) : (s.modIde st g).ideOf st = g (s.ideOf st) := by
  cases st with
  | none => rfl
  | some n => exact SMap.get_set_same _ _ n _

theorem ideOf_emit (s : State) (st : Option Nat) (e : OutEvent) : (s.emit e).ideOf st = s.ideOf st := rfl

theorem only_modIde (s : State) (st : Option Nat) (g : IdeStream → IdeStream) : Only [.pcie, .out] s (s.modIde st g) :=
  (Only.refl _ s).onPcie (by decide) _

/-- An IDE_KM message over a session, where IDE is present (R76). -/
theorem exec_ideKm {s : State} (hp : s.aod.onCell = false) (hi : s.variant.ide = true) (hd : s.doeSession = true)
    (hr : s.pcie.doeReady = true) (hu : s.umpUp = true) (m : IdeKm) : exec (.ideKm m) s = .next (s.ideKm m) := by
  change execIdeKm m s = _
  rw [execIdeKm, powered_eq hp, doeRequest_ready hr hu, if_pos ⟨hi, hd⟩]

theorem ideKm_keyProg (s : State) {st : Option Nat} (h : streamOk st = true) (k : BitVec 256) :
    s.ideKm (.keyProg st true k) = (s.modIde st fun x => { x with key1 := some k }).emit (.doe [0x03, 0]) := if_pos h

theorem ideKm_setGo (s : State) {st : Option Nat} (h : streamOk st = true) (hk : (s.ideOf st).key0.isSome = true) :
    s.ideKm (.setGo st false) = (s.modIde st fun x => { x with state := .secure, kbit := false }).emit (.doe [0x06]) := by
  simp [State.ideKm, h, hk]

/-- A stream that leaves the Secure state (R83). -/
theorem insecure_effect (s : State) (st : Option Nat) : ((s.insecure st id).ideOf st).state = .insecure ∧
    SameFns s (s.insecure st id) ∧ Only [.pcie, .hdrs, .chip, .out, .fns] s (s.insecure st id) := by
  have hst := congrArg IdeStream.state (ideOf_modIde s st fun x => { id x with state := .insecure })
  have ho := (only_modIde s st fun x => { id x with state := .insecure }).mono (l' := [.pcie, .hdrs, .chip, .out, .fns]) (by decide)
  have hf : SameFns s (s.modIde st fun x => { id x with state := .insecure }) := SameFns.of_fns rfl
  unfold State.insecure
  generalize s.modIde st (fun x => { id x with state := .insecure }) = u at hst ho hf
  have hb := only_setBit u .pcx 12
  dsimp only
  split
  · refine ⟨?_, hf.trans (SameFns.setBit u _ _ nofun nofun), ho.then hb⟩
    unfold State.ideOf at hst ⊢
    rw [hb.same .pcie]
    exact hst
  · exact ⟨hst, hf, ho⟩

/-! ### Error reports -/

/-- An unmasked error report is among the events. -/
theorem aer_mem_out (s : State) (f : Nat) (e : Aer) (fatal : Bool) (h : e ∉ (s.fn f).cfg.aerMask) :
    OutEvent.aer f e fatal ∈ (s.reportAer f e fatal).out := by
  rw [out_reportAer, if_neg h]
  exact List.mem_append_right _ List.mem_cons_self

/-- An error report leaves the admin queues alone. -/
theorem adm_reportAer (s : State) (f g : Nat) (e : Aer) (fatal : Bool) : ((s.reportAer f e fatal).fn g).adm = (s.fn g).adm := by
  have h (k : Cfg → Cfg) : ((s.modFn f fun x => { x with cfg := k x.cfg }).fn g).adm = (s.fn g).adm := by
    rw [fn_modFn]
    split
    · subst_vars; rfl
    · rfl
  unfold State.reportAer
  extract_lets s1
  split <;> exact h fun c => { c with aerStatus := if c.aerStatus.contains e then c.aerStatus else c.aerStatus ++ [e] }

theorem SameFns.cfg {s t : State} (h : SameFns s t) (f : Nat) : (t.fn f).cfg = (s.fn f).cfg := by
  obtain ⟨x, hx⟩ := h f
  rw [hx]

/-! ### Invalidations -/

theorem covers_iff (v : Inval) (x : Xlat) : v.covers x.fn x.pasid x.page = true ↔
    x.fn = v.fn ∧ x.pasid = v.pasid ∧ v.lo ≤ x.page ∧ x.page ≤ v.hi := by
  simp [Inval.covers, and_assoc, @eq_comm _ v.fn, @eq_comm _ v.pasid]

/-- The translations that an invalidation leaves (R79). -/
theorem mem_uncovered (l : List Xlat) (v : Inval) (x : Xlat) : x ∈ (l.filter fun x => !(v.covers x.fn x.pasid x.page)) ↔
    x ∈ l ∧ ¬ (x.fn = v.fn ∧ x.pasid = v.pasid ∧ v.lo ≤ x.page ∧ x.page ≤ v.hi) := by
  rw [List.mem_filter, ← covers_iff, Bool.not_eq_true', Bool.not_eq_true]

/-- An invalidation below the 32 that may be outstanding (R78, R79). -/
theorem exec_atsInvalidation {s : State} (hp : s.aod.onCell = false) (hl : s.pcie.invals.length < 32) (tag f lo hi : Nat)
    (pasid : Option (BitVec 20)) : exec (.atsInvalidation tag ⟨f, pasid⟩ lo hi) s = .next (s.onPcie fun p =>
      { p with xlats := p.xlats.filter fun x => !((⟨tag, f, pasid, lo, hi⟩ : Inval).covers x.fn x.pasid x.page)
               invals := p.invals ++ [⟨tag, f, pasid, lo, hi⟩] }) := by
  change execAtsInvalidation tag ⟨f, pasid⟩ lo hi s = _
  rw [execAtsInvalidation, powered_eq hp]
  exact congrArg Host.Outcome.next (if_pos hl)

/-- The completion of an invalidation under whose translations nothing is outstanding (R79). -/
theorem exec_atsInvalidationComplete {s : State} (hp : s.aod.onCell = false) {tag : Nat} (hx : ∃ x ∈ s.pcie.invals, x.tag = tag)
    (hb : ∀ x ∈ s.pcie.invals, s.invalBusy x = false) : exec (.atsInvalidationComplete tag) s =
      .next ((s.onPcie fun p => { p with invals := p.invals.filter (·.tag != tag) }).emit (.atsComplete tag)) := by
  change execAtsInvalidationComplete tag s = _
  rw [execAtsInvalidationComplete, powered_eq hp]
  obtain ⟨v, hv⟩ : ∃ v, s.pcie.invals.find? (·.tag == tag) = some v := by
    obtain ⟨x, hm, ht⟩ := hx
    exact Option.isSome_iff_exists.1 (List.find?_isSome.2 ⟨x, hm, beq_iff_eq.2 ht⟩)
  rw [hv]
  exact if_neg (by rw [hb v (List.mem_of_find?_eq_some hv)]; decide)

/-! ### Reads -/

/-- A translation that comes in stands in the cache, which holds 4,096 (R78). -/
theorem xlat_cached (l : List Xlat) (x : Xlat) : x ∈ (l ++ [x]).drop (l.length - 4095) ∧
    (l.length ≤ 4096 → ((l ++ [x]).drop (l.length - 4095)).length ≤ 4096) := by
  constructor
  · rw [List.drop_append_of_le_length (Nat.sub_le _ _)]
    exact List.mem_append_right _ List.mem_cons_self
  · rw [List.length_drop, List.length_append, List.length_singleton]
    omega

/-- A translation that arrives for an access that is still wanted (R78, R81). -/
theorem exec_readCompletion_xlat {s : State} (hp : s.aod.onCell = false) {need : ReadFor} (hl : s.readLive need = true) (n page : Nat)
    (pasid : Option (BitVec 20)) (wr rd : Bool) : exec (.readCompletion (.xlat n pasid page wr rd need) .data) s =
      .next (s.onPcie fun p =>
        { p with xlats := (p.xlats ++ [(⟨n, pasid, page, wr, rd⟩ : Xlat)]).drop (p.xlats.length - 4095) }) := by
  have hl : s.readLive (.xlat n pasid page wr rd need) = true := hl
  change execReadCompletion (.xlat n pasid page wr rd need) .data s = _
  rw [execReadCompletion, powered_eq hp, if_neg (by rw [hl]; decide)]

/-- A failed completion for what is still wanted (R81, R82). -/
theorem exec_readCompletion_failed {s : State} (hp : s.aod.onCell = false) {r : ReadFor} (hl : s.readLive r = true) {c : CplStatus}
    (hc : c ≠ .data) :
    exec (.readCompletion r c) s = .next ((s.reportCpl (s.readFn r) c).readFailed r (cplCode c)) := by
  change execReadCompletion r c s = _
  rw [execReadCompletion, powered_eq hp, if_neg (by rw [hl]; decide)]
  cases c with
  | data => exact absurd rfl hc
  | _ => rfl

/-- A completion timeout for what is still wanted, where the function has not disabled it (R82). -/
theorem exec_completionTimeout {s : State} (hp : s.aod.onCell = false) {r : ReadFor} (hl : s.readLive r = true)
    (hc : (s.fn (s.readFn r)).cfg.ctoOff = false) : exec (.completionTimeout r) s =
      .next (((s.setBit .pcx 10).reportAer (s.readFn r) .completionTimeout false).readFailed r 0x71) := by
  change execCompletionTimeout r s = _
  rw [execCompletionTimeout, powered_eq hp, if_neg (by rw [hl, hc]; decide)]

/-- A function that is as before but for its pending bits, on whatever condition. -/
theorem exists_pba {c : Prop} [Decidable c] {x : List Nat} {y z : Fn} (h : z = if c then { y with pba := x } else y) :
    ∃ x, z = { y with pba := x } := by
  rw [h]
  split
  · exact ⟨x, rfl⟩
  · exact ⟨_, rfl⟩

/-- A message changes pending bits alone of the functions. -/
theorem sameFns_msix (s : State) (f v : Nat) : SameFns s (s.msix f v) := fun g => exists_pba (fn_msix s f v g).choose_spec

theorem sameFns_syncInt (s : State) : SameFns s s.syncInt := fun g => exists_pba (fn_syncInt s g).choose_spec

/-- A page's header, a function's own among them, changes pending bits alone of the functions (R43, R67, R87). -/
theorem sameFns_modHdrInt (s : State) (p : PageId) (f : Hdr → Hdr) : SameFns s (s.modHdrInt p f) := by
  have h1 : SameFns s (s.modHdr p f) := SameFns.of_fns rfl
  unfold State.modHdrInt
  refine SameFns.trans ?_ (sameFns_syncInt _)
  split
  · exact h1.trans (sameFns_msix _ _ _)
  · exact h1.trans (sameFns_msix _ _ _)
  · exact h1

theorem sameFns_setBit (s : State) (p : PageId) (n : Nat) : SameFns s (s.setBit p n) := sameFns_modHdrInt s p _

/-- An admin queue that stops: the queue's state, its page's ADM_ERR, and no other page (R90). -/
theorem admError_effect (s : State) (f : Nat) :
    ((s.admError f).fn f).adm = { (s.fn f).adm with error := true, ready := false, busy := none } ∧
      ((s.admError f).fn f).cfg = (s.fn f).cfg ∧
      (∀ p, (s.admError f).hdr p = if p = .adm f then (s.hdr (.adm f)).raise (1#32 <<< 8) else s.hdr p) ∧
      s.out ⊆ (s.admError f).out ∧ Only [.hdrs, .chip, .out, .fns] s (s.admError f) := by
  obtain ⟨x, hx⟩ := sameFns_setBit (s.modAdm f fun a => { a with error := true, ready := false, busy := none }) (.adm f) 8 f
  have hx : (s.admError f).fn f = _ := hx
  rw [State.modAdm, fn_modFn, if_pos rfl] at hx
  refine ⟨by rw [hx], by rw [hx], fun p => hdr_setBit _ _ p 8, ?_, ?_⟩
  · exact out_setBit (s.modAdm f _) _ _
  · exact ((Only.refl _ s).modAdm (by decide) f _).setBit (by decide) (by decide) (by decide) (by decide) _ _

/-- From `s` to `t` the read of function `f`'s admin ring has failed with an error that AER reports as non-fatal and PCX shows as
status bit `n`: the queue has stopped (R82, R83, R90). -/
def RingReadFails (s t : State) (f : Nat) (e : Aer) (n : Nat) : Prop :=
  (t.fn f).adm = { (s.fn f).adm with error := true, ready := false, busy := none } ∧
    e ∈ (t.fn f).cfg.aerStatus ∧ (e ∉ (s.fn f).cfg.aerMask → OutEvent.aer f e false ∈ t.out) ∧
    t.hdr .pcx = (s.hdr .pcx).raise (1#32 <<< n) ∧ t.hdr (.adm f) = (s.hdr (.adm f)).raise (1#32 <<< 8) ∧
    Only [.hdrs, .chip, .out, .fns] s t

theorem ringReadFails (s : State) (f : Nat) (e : Aer) (n : Nat) :
    RingReadFails s (((s.setBit .pcx n).reportAer f e false).admError f) f e n := by
  have hb := only_setBit s .pcx n
  have hh (q : PageId) := hdr_setBit s .pcx q n
  obtain ⟨x, hx⟩ := sameFns_setBit s .pcx n f
  generalize s.setBit .pcx n = u at hb hh hx
  have hr := only_reportAer u f e false
  have hst := (reportAer_effect u f e false).1
  have hadm : ((u.reportAer f e false).fn f).adm = (s.fn f).adm := by rw [adm_reportAer, hx]
  have hm : e ∉ (s.fn f).cfg.aerMask → _ := fun h => aer_mem_out u f e false (by rw [hx]; exact h)
  generalize u.reportAer f e false = v at hr hst hadm hm
  have hv (q : PageId) : v.hdr q = u.hdr q := hdr_of_hdrs (hr.same .hdrs) q
  obtain ⟨h1, h2, h3, h4, h5⟩ := admError_effect v f
  refine ⟨by rw [h1, hadm], by rw [h2]; exact hst, fun h => h4 (hm h), ?_, ?_, ((hb.mono (by decide)).then hr).then h5⟩
  · rw [h3, if_neg nofun, hv, hh, if_pos rfl]
  · rw [h3, if_pos rfl, hv, hh, if_neg nofun]

/-- Settles O12: each command by the lemma that says what it means once its guards pass, a failed read of the admin ring by
`ringReadFails`. The bytes of DOE and IDE_KM answers are log entry 8's. -/
theorem linkProtocolAndFailedReads : Obligations.LinkProtocolAndFailedReads := by
  unfold Obligations.LinkProtocolAndFailedReads
  refine ⟨⟨fun s f v hp hf hv hl hon => ?_, fun s k hp hr hu => ?_, fun s hp => ?_, fun s st k hp hi hd hr hu hst => ?_,
    fun s st hp hi hst => ?_, fun s tag f lo hi pasid hp hlen => ?_, fun s tag hp hex hb => ?_, fun s f hp => ?_, fun s hp => ?_⟩,
    fun s n page pasid wr rd need hp hl => ?_, fun s f hp hr hc => ?_, fun s f hp hr => ?_, fun s q hp => ?_⟩
  · change Answers (execVectorUnmask ⟨f, none⟩ v s) _
    rw [execVectorUnmask, powered_eq hp, mmio_open hon fun e => absurd e (not_run_of_unlocked hl)]
    exact .next (vectorServed_unmask s f v hf hv hl)
  · rw [exec_doeDiscovery hp hr hu]
    exact .next ⟨rfl, (Only.refl _ s).emit (by decide) _⟩
  · change Answers (execDoeAbort s) _
    rw [execDoeAbort, powered_eq hp]
    exact .next ⟨rfl, (Only.refl _ s).onPcie (by decide) _⟩
  · rw [exec_ideKm hp hi hd hr hu, exec_ideKm hp hi hd hr hu]
    refine ⟨.next ?_, fun hk => .next ?_⟩
    · rw [ideKm_keyProg s hst]
      simp only [ideOf_emit, ideOf_modIde]
      exact ⟨trivial, trivial, trivial, (only_modIde s st _).emit (by decide) _⟩
    · rw [ideKm_setGo s hst hk]
      simp only [ideOf_emit, ideOf_modIde]
      exact ⟨trivial, trivial, (only_modIde s st _).emit (by decide) _⟩
  · change Answers (execIdeCheckFailed st s) _
    rw [execIdeCheckFailed, powered_eq hp, if_pos ⟨hi, hst⟩]
    obtain ⟨h1, h2, h3⟩ := insecure_effect s st
    have hr := only_reportAer (s.insecure st id) 0 .ideCheckFailed false
    refine .next ⟨?_, (reportAer_effect _ 0 _ false).1, fun hm => aer_mem_out _ 0 _ _ (by rw [h2.cfg]; exact hm), h3.then hr⟩
    unfold State.ideOf at h1 ⊢
    rw [hr.same .pcie]
    exact h1
  · rw [exec_atsInvalidation hp hlen]
    exact .next ⟨fun x => mem_uncovered s.pcie.xlats ⟨tag, f, pasid, lo, hi⟩ x, rfl, (Only.refl _ s).onPcie (by decide) _⟩
  · rw [exec_atsInvalidationComplete hp hex hb]
    exact .next ⟨fun x hx => by simpa using (List.mem_filter.1 hx).2, rfl, ((Only.refl _ s).onPcie (by decide) _).emit (by decide) _⟩
  · change Answers (execUnsupportedRequest f s) _
    rw [execUnsupportedRequest, powered_eq hp]
    exact .next (unsupported_effect s f)
  · change Answers (execMalformedTlp 0 s) _
    rw [execMalformedTlp, powered_eq hp]
    exact .next ⟨out_reportAer s 0 .malformedTlp true, (reportAer_effect s 0 _ true).1, (only_reportAer s 0 _ true).mono (by decide)⟩
  · rw [exec_readCompletion_xlat hp hl]
    obtain ⟨h1, h2⟩ := xlat_cached s.pcie.xlats ⟨n, pasid, page, wr, rd⟩
    exact .next ⟨by simpa only [State.onPcie_pcie] using h1, by simpa only [State.onPcie_pcie] using h2,
      (Only.refl _ s).onPcie (by decide) _⟩
  · rw [exec_completionTimeout (r := .admRing f) hp hr hc]
    exact .next (ringReadFails s f .completionTimeout 10)
  · rw [exec_readCompletion_failed (r := .admRing f) (c := .poisoned) hp hr nofun]
    obtain ⟨h1, h2, h3, h4, -, h5⟩ := ringReadFails s f .poisonedTlp 11
    exact .next ⟨h1, h2, h3, h4, h5⟩
  · change execReadCompletion (.data q) .data s = _
    rw [execReadCompletion, powered_eq hp]
    exact ite_self _

end Sys2Proof.Machine

/-!
# The teardown of a function's channels

One relation for the operations of Machine/Resets.lean by which a reset of a function ends its work: the parts they can change, and that
no channel comes and no function leaves its domain.
-/

namespace Sys2Proof.Machine

-- One declaration after the other: elaborated side by side, the row as one text takes more threads than the check allows.
set_option Elab.async false

/-- The parts that the teardown of channels can change. -/
def teardownFields : List Field :=
  [.chFreed, .chans, .chip, .eights, .fns, .gens, .hdrs, .heat, .jobs, .msh, .out, .progs, .quads, .reqs, .slices]

/-- From `s` to `t` work and channels have gone and none has come, and every function is in its domain with its channel limit. -/
structure TornDown (s t : State) : Prop where
  only : Only teardownFields s t
  chans : ∀ f i, s.chan f i = none → t.chan f i = none
  owner : ∀ f, (t.fn f).domain = (s.fn f).domain ∧ (t.fn f).limit = (s.fn f).limit

namespace TornDown

variable {l : List Field} {s t u : State}

theorem refl (s : State) : TornDown s s := ⟨Only.refl _ s, fun _ _ => id, fun _ => ⟨rfl, rfl⟩⟩

theorem trans (h : TornDown s t) (k : TornDown t u) : TornDown s u where
  only := h.only.trans k.only
  chans f i e := k.chans f i (h.chans f i e)
  owner f := ⟨(k.owner f).1.trans (h.owner f).1, (k.owner f).2.trans (h.owner f).2⟩

theorem foldl {α : Type} {g : State → α → State} (h : ∀ t x, TornDown t (g t x)) (xs : List α) (s : State) :
    TornDown s (xs.foldl g s) := by
  induction xs generalizing s with
  | nil => exact refl s
  | cons x r ih => exact (h s x).trans (ih (g s x))

/-! ### Single updates -/

/-- A change that leaves the channels, and of the functions all but pending bits. -/
theorem of_sameFns (h : Only l s t) (hf : SameFns s t) (hl : l ⊆ teardownFields := by decide) (hc : .chans ∉ l := by decide) :
    TornDown s t where
  only := h.mono hl
  chans f i e := by unfold State.chan at e ⊢; rw [h.same .chans hc]; exact e
  owner f := by obtain ⟨x, e⟩ := hf f; rw [e]; exact ⟨rfl, rfl⟩

/-- A change that leaves the channels and the functions. -/
theorem of_only (h : Only l s t) (hl : l ⊆ teardownFields := by decide) (hf : ∀ f ∈ [Field.chans, .fns], f ∉ l := by decide) :
    TornDown s t :=
  of_sameFns h (SameFns.of_fns (h.same .fns (hf _ (by decide)))) hl (hf _ (by decide))

theorem emit (s : State) (e : OutEvent) : TornDown s (s.emit e) := of_only ((Only.refl [.out] s).emit (by decide) e)

theorem onMsh (s : State) (g : Msh → Msh) : TornDown s (s.onMsh g) := of_only ((Only.refl [.msh] s).onMsh (by decide) g)

theorem onHeat (s : State) (g : Heat → Heat) : TornDown s (s.onHeat g) := of_only ((Only.refl [.heat] s).onHeat (by decide) g)

theorem onChip (s : State) (g : Chip → Chip) : TornDown s (s.onChip g) := of_only ((Only.refl [.chip] s).onChip (by decide) g)

theorem onReqs (s : State) (g : SMap (Option Req) → SMap (Option Req)) : TornDown s (s.onReqs g) :=
  of_only ((Only.refl [.reqs] s).onReqs (by decide) g)

theorem onSlices (s : State) (g : SMap Slice → SMap Slice) : TornDown s (s.onSlices g) :=
  of_only ((Only.refl [.slices] s).onSlices (by decide) g)

theorem onEights (s : State) (g : SMap Eight → SMap Eight) : TornDown s (s.onEights g) :=
  of_only ((Only.refl [.eights] s).onEights (by decide) g)

theorem modJob (s : State) (j : Nat) (g : Job → Job) : TornDown s (s.modJob j g) := of_only ((Only.refl [.jobs] s).modJob (by decide) j g)

theorem modQuad (s : State) (r : Nat) (g : Quad → Quad) : TornDown s (s.modQuad r g) :=
  of_only ((Only.refl [.quads] s).modQuad (by decide) r g)

theorem modHdr (s : State) (p : PageId) (g : Hdr → Hdr) : TornDown s (s.modHdr p g) :=
  of_only ((Only.refl [.hdrs] s).modHdr (by decide) p g)

theorem setBit (s : State) (p : PageId) (n : Nat) : TornDown s (s.setBit p n) := of_sameFns (only_setBit s p n) (sameFns_setBit s p n)

theorem msix (s : State) (f v : Nat) : TornDown s (s.msix f v) :=
  of_sameFns ((Only.refl [.out, .fns] s).msix (by decide) (by decide) f v) (sameFns_msix s f v)

theorem syncInt (s : State) : TornDown s s.syncInt :=
  of_sameFns ((Only.refl [.out, .fns, .chip] s).syncInt (by decide) (by decide) (by decide)) (sameFns_syncInt s)

theorem recErr (s : State) (p : PageId) (c d : Nat) : TornDown s (s.recErr p c d) := by
  unfold State.recErr
  split
  · exact modHdr s p _
  · exact setBit s p 2

theorem modChan (s : State) (f i : Nat) (g : Chan → Chan) : TornDown s (s.modChan f i g) where
  only := (Only.refl _ s).modChan (by decide) f i g
  chans a b e := by
    unfold State.chan at e ⊢
    refine (SMap.get_set none s.chans (chKey f i) (chKey a b) _).trans ?_
    split
    · rename_i h; rw [← h, e]; rfl
    · exact e
  owner _ := ⟨rfl, rfl⟩

theorem modFn (s : State) (f : Nat) (g : Fn → Fn) (hg : (g (s.fn f)).domain = (s.fn f).domain ∧ (g (s.fn f)).limit = (s.fn f).limit) :
    TornDown s (s.modFn f g) where
  only := (Only.refl _ s).modFn (by decide) f g
  chans _ _ e := e
  owner a := by
    rw [fn_modFn]
    split
    · subst_vars; exact hg
    · exact ⟨rfl, rfl⟩

/-! ### Requests and jobs -/

theorem reapProg (s : State) (n : Nat) : TornDown s (s.reapProg n) := by
  unfold State.reapProg
  split
  · exact refl s
  · split
    · exact refl s
    · exact of_only ((Only.refl [.progs] s).onProgs (by decide) _)

theorem endJob (s : State) (j : Nat) : TornDown s (s.endJob j) := by
  unfold State.endJob
  split
  · exact refl s
  · extract_lets s1 s2 s3 s4
    have h1 : TornDown s s1 := of_only (only_unplace s j)
    have h2 : TornDown s s2 := by
      dsimp only [s2]
      split
      · exact h1.trans (onEights _ _)
      · exact h1.trans (onSlices _ _)
      · exact h1
    have h4 : TornDown s s4 := ((h2.trans (onMsh _ _)).trans (of_only ((Only.refl [.jobs] s3).onJobs (by decide) _))).trans
      (of_only (only_giveEntries _))
    split
    · exact h4.trans (reapProg _ _)
    · exact h4

theorem dropReq (s : State) (r : Nat) : TornDown s (s.dropReq r) := by
  unfold State.dropReq
  split
  · exact refl s
  · extract_lets s1
    have h1 : TornDown s s1 := by
      dsimp only [s1]
      split
      · exact endJob s _
      · exact refl s
    exact (h1.trans (onReqs _ _)).trans (onMsh _ _)

theorem chMessage (s : State) (f i : Nat) : TornDown s (s.chMessage f i) := by
  unfold State.chMessage
  split
  · exact refl s
  · split
    · exact (msix s f _).trans (modChan _ f i _)
    · exact refl s

theorem chError (s : State) (f i c : Nat) : TornDown s (s.chError f i c) := by
  unfold State.chError
  split
  · exact refl s
  · split
    · exact refl s
    · exact ((modChan s f i _).trans (modFn _ f _ ⟨rfl, rfl⟩)).trans (setBit _ _ _)

theorem askXlat (s : State) (f : Nat) (p : Option (BitVec 20)) (a n : Nat) : TornDown s (s.askXlat f p a n) :=
  of_only ((Only.refl [.out] s).askXlat (by decide) f p a n)

theorem writeCqe (s : State) (f i : Nat) (dw : List Nat) (slot : Nat) : TornDown s (s.writeCqe f i dw slot) := by
  unfold State.writeCqe
  split
  · exact refl s
  · split
    · exact refl s
    · split
      · exact chError s f i 1
      · extract_lets ent tail addr s0 s1
        have h1 : TornDown s s1 := ((askXlat s _ _ _ _).trans (emit _ _)).trans (modChan _ f i _)
        split
        · exact h1.trans (chMessage _ f i)
        · exact h1

theorem meter (s : State) (f i : Nat) (ups : List (Nat × Nat)) : TornDown s (s.meter f i ups) := by
  unfold State.meter
  exact onHeat s _

theorem zeroWritten (s : State) (q : Req) (st : Nat) : TornDown s (s.zeroWritten q st) := by
  unfold State.zeroWritten
  split
  · exact refl s
  · split
    · exact of_only ((Only.refl [.out] s).writeRanges (by decide) _ _ _ _)
    · exact refl s

theorem finish1 (s : State) (r : Nat) (x : Fin) : TornDown s (s.finish1 r x) := by
  unfold State.finish1
  split
  · exact refl s
  · rename_i q _
    extract_lets y errored s0 s1 s2 s3 s4 s5
    have h0 : TornDown s s0 := zeroWritten s q _
    have h1 : TornDown s s1 := by
      dsimp only [s1]
      split
      · exact h0
      · exact h0.trans (meter _ _ _ _)
    have h3 : TornDown s s3 := (h1.trans (writeCqe _ _ _ _ _)).trans (modChan _ _ _ _)
    have h4 : TornDown s s4 := by
      dsimp only [s4]
      split
      · split
        · exact h3
        · exact h3.trans (endJob _ _)
      · exact h3
    have h5 : TornDown s s5 := h4.trans (onReqs _ _)
    refine TornDown.trans ?_ (onMsh _ _)
    split
    · exact h5.trans (reapProg _ _)
    · exact h5

theorem finish (s : State) (r : Nat) (x : Fin) : TornDown s (s.finish r x) := by
  unfold State.finish
  split
  · exact refl s
  · extract_lets s1 s2
    have h1 : TornDown s s1 := finish1 s r x
    split
    · exact h1
    · exact (h1.trans (foldl (fun t m => finish1 t m _) _ _)).trans (foldl endJob _ _)

theorem failJob (s : State) (j : Nat) (x : Fin) : TornDown s (s.failJob j x) := by
  unfold State.failJob
  split
  · exact refl s
  · split
    · exact finish s _ x
    · split
      · exact (endJob s j).trans (finish _ _ x)
      · exact (modChan s _ _ _).trans (endJob _ j)

/-! ### Contexts -/

theorem spillPart (s : State) (j : Nat) (b : Job) (c : Chan) (n seq part : Nat) : TornDown s (s.spillPart j b c n seq part) := by
  unfold State.spillPart
  split
  · exact refl s
  · exact ((onMsh s _).trans (of_only ((Only.refl [.out] _).dmaWrite (by decide) _ _ _ _))).trans (modJob _ j _)

theorem spill (s : State) (j : Nat) : TornDown s (s.spill j) := by
  unfold State.spill
  split
  · exact refl s
  · split
    · exact refl s
    · extract_lets s1 s2
      have h2 : TornDown s s2 := ((foldl (fun t p => spillPart t _ _ _ _ _ p) _ s).trans (modChan _ _ _ _)).trans (onMsh _ _)
      split
      · exact h2.trans (onSlices _ _)
      · exact h2

theorem makeRoom (s : State) (j n : Nat) : TornDown s (s.makeRoom j n) := by
  induction n generalizing s with
  | zero => exact refl s
  | succ n ih =>
    unfold State.makeRoom
    split
    · exact refl s
    · split
      · exact (spill s _).trans (ih _)
      · exact refl s

theorem takeEntries (s : State) (j n : Nat) : TornDown s (s.takeEntries j n) :=
  (((modJob s j _).trans (onMsh _ _)).trans (of_only (only_giveEntries _))).trans (makeRoom _ _ _)

/-! ### Isolation and quarantine -/

theorem restartJob (s : State) (j : Nat) : TornDown s (s.restartJob j) := by
  unfold State.restartJob
  split
  · exact refl s
  · split
    · exact (of_only (only_unplace s j)).trans (modJob _ j _)
    · exact of_only (Contained.restartStroke s j).only

theorem unhome (s : State) (j : Nat) : TornDown s (s.unhome j) := by
  unfold State.unhome
  split
  · exact refl s
  · refine TornDown.trans ?_ (modJob _ j _)
    split
    · exact onEights s _
    · exact onSlices s _
    · exact refl s

theorem directFail (s : State) (r c : Nat) : TornDown s (s.directFail r c) :=
  ((modQuad s r _).trans (setBit _ _ 9)).trans (of_only (Contained.giveDirect _).only)

theorem clearBlock (s : State) (k : BlockKind) (u : Nat) : TornDown s (s.clearBlock k u) := by
  unfold State.clearBlock
  extract_lets s1 s2
  have h2 : TornDown s s2 :=
    (foldl (fun t j => failJob t j _) _ s).trans (foldl (fun t j => (restartJob t j).trans (unhome _ j)) _ _)
  split
  · exact h2.trans (onEights _ _)
  · split
    · exact h2.trans (directFail _ _ _)
    · exact h2
  · exact h2

theorem setQuar (s : State) (p : PageId) : TornDown s (s.setQuar p) := (modHdr s p _).trans (setBit _ p 3)

theorem modChip (s : State) (f : Chip → Chip) : TornDown s (s.modChip f) :=
  of_sameFns (only_modChip s f) fun g => by
    obtain ⟨x, e⟩ := fn_modChip s f g
    exact exists_pba e

theorem syncQuar (s : State) : TornDown s s.sumCadence.syncQuar := (onChip s _).trans (modChip _ _)

theorem quarantineRegion (s : State) (r : Nat) : TornDown s (s.quarantineRegion r) := by
  unfold State.quarantineRegion
  split
  · exact refl s
  · extract_lets s1 s2
    have h1 : TornDown s s1 := (setQuar s _).trans (recErr _ _ _ _)
    have h2 : TornDown s1 s2 := foldl (fun t p => by
      split
      · split
        · exact (setQuar t p).trans (clearBlock _ _ _)
        · exact refl t
      · exact refl t) _ s1
    exact (h1.trans h2).trans (syncQuar s2)

theorem quarantine (s : State) (k : BlockKind) (u : Nat) : TornDown s (s.quarantine k u) := by
  unfold State.quarantine
  extract_lets p r s1 recent s2
  split
  · exact refl s
  · have h1 : TornDown s s1 := ((setQuar s p).trans (recErr _ _ _ _)).trans (clearBlock _ _ _)
    have h2 : TornDown s s2 := (h1.trans (onChip s1 _)).trans (syncQuar _)
    split
    · exact h2.trans (quarantineRegion _ _)
    · exact h2

theorem isolate (s : State) (k : BlockKind) (u c : Nat) : TornDown s (s.isolate k u c) := by
  unfold State.isolate
  extract_lets s1 s2 full
  have h1 : TornDown s s1 := by
    dsimp only [s1]
    split
    · exact (onEights s _).trans (setBit _ _ 9)
    · exact modQuad s u _
    · exact onSlices s _
  have h2 : TornDown s s2 := h1.trans (recErr _ _ _ _)
  split
  · exact h2.trans (quarantine _ _ _)
  · exact h2

theorem settle (s : State) (r : Nat) : TornDown s (s.settle r) := by
  unfold State.settle
  refine (foldl (fun t c => ?_) _ s).trans (foldl (fun t c => ?_) _ _)
  · split
    · exact (modQuad t r _).trans (isolate _ _ _ _)
    · exact refl t
  · split
    · exact (onSlices t _).trans (isolate _ _ _ _)
    · exact refl t

/-! ### Channels -/

theorem vacate (s : State) (i : Nat) (keep : Option Nat) : TornDown s (s.vacate i keep) := by
  unfold State.vacate
  extract_lets gone s1
  have h1 : TornDown s s1 := foldl (fun t j => by
    split
    · exact takeEntries t j _
    · exact refl t) _ s
  exact h1.trans (onSlices _ _)

theorem abortPke (s : State) (j : Nat) (silent : Bool) : TornDown s (s.abortPke j silent) := by
  unfold State.abortPke
  extract_lets s1
  have h1 : TornDown s s1 := by
    dsimp only [s1]
    split
    · exact (((vacate s _ _).trans (of_only (Contained.wipeSlice _ _).only)).trans (setBit _ _ _)).trans (settle _ _)
    · exact refl s
  split
  · exact h1
  · exact h1.trans (failJob _ _ _)

theorem removeChannel (s : State) (f i : Nat) : TornDown s (s.removeChannel f i) := by
  unfold State.removeChannel
  split
  · exact refl s
  · extract_lets s1 g s2 s3 s4
    have h2 : TornDown s s2 := (foldl endJob _ s).trans (of_only ((Only.refl [.gens] s1).onGens (by decide) _))
    have h3 : TornDown s2 s3 :=
      { only := ((Only.refl _ s2).onChFreed (by decide) _).onChans (by decide) _
        chans := fun a b e => by
          refine (SMap.get_set none s2.chans (chKey f i) (chKey a b) none).trans ?_
          split
          · rfl
          · exact e
        owner := fun _ => ⟨rfl, rfl⟩ }
    exact ((h2.trans h3).trans (onMsh _ _)).trans (onHeat _ _)

theorem admFinish (s : State) (f slot : Nat) (c : BitVec 16) (x : AdmRes) : TornDown s (s.admFinish f slot c x) := by
  unfold State.admFinish
  extract_lets a addr dw tail s1
  split
  · exact (modFn s f _ ⟨rfl, rfl⟩).trans (setBit _ _ _)
  · have h1 : TornDown s s1 := ((askXlat s _ _ _ _).trans (emit _ _)).trans (modFn _ f _ ⟨rfl, rfl⟩)
    split
    · exact h1.trans (msix _ _ _)
    · exact h1

end TornDown

/-- A channel that is removed is there no more. -/
theorem chan_removeChannel (s : State) (f i : Nat) : (s.removeChannel f i).chan f i = none := by
  unfold State.removeChannel
  split
  · assumption
  · extract_lets s1 g s2 s3 s4
    exact SMap.get_set_same none s2.chans (chKey f i) none

/-- A channel that a reset destroys is there no more, and what goes with it is a teardown (R81). -/
theorem killChannel_effect (s : State) (f i : Nat) : TornDown s (s.killChannel f i) ∧ (s.killChannel f i).chan f i = none := by
  unfold State.killChannel
  extract_lets s1 s2 s3
  have h1 : TornDown s s1 := TornDown.foldl (fun t j => by
    split
    · split
      · exact TornDown.abortPke t j true
      · exact TornDown.refl t
    · exact TornDown.refl t) _ s
  have h3 : TornDown s s3 := (h1.trans (TornDown.foldl TornDown.dropReq _ _)).trans (TornDown.removeChannel _ f i)
  have hc : s3.chan f i = none := chan_removeChannel s2 f i
  split
  · exact ⟨h3, hc⟩
  · rename_i c _
    have h4 : TornDown s3 (((s.destroyers f i).filter fun x => x.1 != f).foldl (fun s x =>
        s.admFinish x.1 x.2.1 x.2.2 { r0 := c.fetched % 4294967296, r1 := c.sqHead }) s3) :=
      TornDown.foldl (fun t x => TornDown.admFinish t _ _ _ _) _ s3
    exact ⟨h3.trans h4, h4.chans f i hc⟩

/-- The channels of a function are among those that its reset destroys. -/
theorem mem_channelsOf {s : State} {f i : Nat} (hi : i < 65536) (h : s.chan f i ≠ none) : i ∈ s.channelsOf f := by
  have hm := (SMap.get_mem s.chans (chKey f i)).resolve_left h
  have h1 : chKey f i / 65536 = f := by unfold chKey; omega
  have h2 : chKey f i % 65536 = i := by unfold chKey; omega
  refine List.mem_filterMap.2 ⟨_, hm, ?_⟩
  dsimp only
  rw [if_pos ⟨h1, Option.isSome_iff_ne_none.2 h⟩, h2]

theorem killChannels_effect (s : State) (f : Nat) (l : List Nat) : TornDown s (l.foldl (fun s i => s.killChannel f i) s) ∧
    ∀ i ∈ l, (l.foldl (fun s i => s.killChannel f i) s).chan f i = none := by
  have hk (t : State) (i : Nat) : TornDown t (t.killChannel f i) := (killChannel_effect t f i).1
  induction l generalizing s with
  | nil => exact ⟨TornDown.refl s, nofun⟩
  | cons a l ih =>
    obtain ⟨h1, h2⟩ := ih (s.killChannel f a)
    refine ⟨(hk s a).trans h1, fun i hi => ?_⟩
    rcases List.mem_cons.1 hi with rfl | hi
    · exact h1.chans f i (killChannel_effect s f i).2
    · exact h2 i hi

/-- What a function-level reset does to a VF: no channel, the function's state cleared but for its domain and channel limit (R80, R94). -/
theorem fnReset_effect (s : State) (f : Nat) (hf : f ≠ 0) : (∀ i, i < 65536 → (s.fnReset f).chan f i = none) ∧
    (s.fnReset f).fn f = { domain := (s.fn f).domain, limit := (s.fn f).limit } ∧
    Only (.pcie :: teardownFields) s (s.fnReset f) := by
  obtain ⟨h1, h2⟩ := killChannels_effect s f (s.channelsOf f)
  unfold State.fnReset
  extract_lets s1 s2 s3
  change TornDown s s1 at h1
  have hn : ∀ i, i < 65536 → s1.chan f i = none := fun i hi => by
    by_cases h : s.chan f i = none
    · exact h1.chans f i h
    · exact h2 i (mem_channelsOf hi h)
  obtain ⟨hd, hl⟩ := h1.owner f
  have h3 : Only (.pcie :: teardownFields) s s3 := ((h1.only.mono (by decide)).onFns (by decide) _).onPcie (by decide) _
  have hf3 : s3.fn f = { domain := (s.fn f).domain, limit := (s.fn f).limit } := by
    rw [← hd, ← hl]
    exact SMap.get_set_same _ _ f _
  have hc3 : ∀ i, i < 65536 → s3.chan f i = none := hn
  clear_value s3
  obtain ⟨x, hx⟩ := fn_syncInt ((s3.modHdr (.fn f) Hdr.flr).modHdr (.adm f) Hdr.flr) f
  have h4 : TornDown s3 ((s3.modHdr (.fn f) Hdr.flr).modHdr (.adm f) Hdr.flr).syncInt :=
    ((TornDown.modHdr s3 _ _).trans (TornDown.modHdr _ _ _)).trans (TornDown.syncInt _)
  refine ⟨fun i hi => h4.chans f i (hc3 i hi), ?_, h3.then h4.only⟩
  rw [hx, if_neg hf]
  exact hf3

end Sys2Proof.Machine

/-!
# TDISP requests (O49)
-/

namespace Sys2Proof.Machine

-- One declaration after the other: elaborated side by side, the row as one text takes more threads than the check allows.
set_option Elab.async false

/-- A TDISP request for an enabled VF is served (R352). -/
theorem answers_tdispReq {s : State} {v : Nat} (h : TdispReady s v) {k : State → State} {P : State → Prop} (hk : P (k s)) :
    Answers (s.tdispReq v k) P := by
  obtain ⟨⟨hu, hs⟩, hi, hd, hv⟩ := h
  rw [State.tdispReq, State.serve, if_pos ⟨hu, hs⟩, if_neg (by rw [hi, hd]; decide), if_pos hv]
  exact .next hk

/-- A TDISP answer and nothing else. -/
theorem tdispAnswer_effect (s : State) (v code : Nat) (d : List Byte) :
    (s.tdispAnswer v code d).out = s.out ++ [tdispMsg v code d] ∧ Only [.out] s (s.tdispAnswer v code d) :=
  ⟨rfl, (Only.refl _ s).emit (by decide) _⟩

theorem length_leBytes (k n : Nat) : (leBytes k n).length = k := by
  induction k generalizing n with
  | zero => rfl
  | succ k ih => rw [leBytes, List.length_cons, ih]

/-- Function 0 is no VF. -/
theorem ne_zero_of_vfsOn {s : State} {v : Nat} (h : s.vfsOn.contains v = true) : v ≠ 0 := by
  rintro rfl
  have h := List.contains_iff_mem.1 h
  simp [State.vfsOn] at h

/-- Settles O49: each request by what it answers once it is served, STOP by what a function-level reset does to a VF
(`fnReset_effect`). The messages' bytes are log entry 8's. -/
theorem tdispRequests : Obligations.TdispRequests := by
  unfold Obligations.TdispRequests
  refine ⟨fun s v h => ?_, fun s v h => ?_, fun s v k h hd ht => ?_, fun s v k h hd => ?_, fun s v h ht => ?_, fun s v h => ?_,
    fun s v ok h ht => ?_, fun s v h => ?_⟩
  · change Answers (execGetTdispVersion v s) _
    exact answers_tdispReq h (tdispAnswer_effect s v _ _)
  · change Answers (execGetTdispCapabilities v s) _
    exact answers_tdispReq h ⟨⟨_, rfl⟩, (tdispAnswer_effect s v _ _).2⟩
  · change Answers (execLockInterfaceRequest v k s) _
    refine answers_tdispReq h ?_
    rw [if_neg (by rw [Option.isNone_eq_false_iff.2 hd]; decide), if_neg (not_not_intro ht)]
    have hfn (g : Nat) := fn_modFn s v g fun x => { x with tdisp := .configLocked, tdispStream := k }
    exact ⟨(hfn v).trans (if_pos rfl), fun f hf => (hfn f).trans (if_neg hf), ⟨_, length_leBytes _ _, rfl⟩,
      (((Only.refl _ s).modFn (by decide) v _).emit (by decide) _).spend (by decide) 1⟩
  · change Answers (execLockInterfaceRequest v k s) _
    refine answers_tdispReq h ?_
    rw [if_pos (by rw [hd]; rfl)]
    exact tdispAnswer_effect s v _ _
  · change Answers (execGetDeviceInterfaceReport v s) _
    refine answers_tdispReq h ?_
    rw [if_pos ht]
    exact tdispAnswer_effect s v _ _
  · change Answers (execGetDeviceInterfaceState v s) _
    refine answers_tdispReq h ⟨?_, (tdispAnswer_effect s v _ _).2⟩
    cases (s.fn v).tdisp <;> rfl
  · change Answers (execStartInterfaceRequest v ok s) _
    refine answers_tdispReq h ?_
    rw [if_neg (not_not_intro ht)]
    cases ok with
    | true =>
      have hfn (g : Nat) := fn_modFn s v g fun x => { x with tdisp := .run }
      exact ⟨⟨(hfn v).trans (if_pos rfl), rfl⟩, fun f hf => (hfn f).trans (if_neg hf),
        ((Only.refl _ s).modFn (by decide) v _).emit (by decide) _⟩
    | false => exact ⟨rfl, fun _ _ => rfl, (tdispAnswer_effect s v _ _).2.mono (by decide)⟩
  · change Answers (execStopInterfaceRequest v s) _
    have ⟨_, _, _, hv⟩ := h
    obtain ⟨h1, h2, h3⟩ := fnReset_effect s v (ne_zero_of_vfsOn hv)
    exact answers_tdispReq h ⟨h1, h2, List.getLast?_concat, (h3.mono (by decide)).emit (by decide) _⟩

end Sys2Proof.Machine

/-!
# PLDM: base commands and sensors (O58)
-/

namespace Sys2Proof.Machine

-- One declaration after the other: elaborated side by side, the row as one text takes more threads than the check allows.
set_option Elab.async false

/-! ### Serving and answering -/

/-- A command that is served means what its body says (R425). -/
theorem answers_pldmServe {s : State} {t : Transport} (h : ServedOn s t) {k : State → State} {P : State → Prop} (hk : P (k s)) :
    Answers (s.pldmServe t k) P := by
  obtain ⟨hu, ht⟩ := h
  rw [State.pldmServe, if_neg (by simp [hu, ht])]
  exact .next hk

theorem pldmReply_pldmAnswer (s : State) (t cmd code : Nat) (d : List Byte) : PldmReply (s.pldmAnswer t cmd code d) t cmd code d :=
  List.mem_append_right _ List.mem_cons_self

theorem only_pldmAnswer (s : State) (t cmd code : Nat) (d : List Byte) : Only [.out] s (s.pldmAnswer t cmd code d) :=
  (Only.refl _ s).emit (by decide) _

/-- A command that only answers: what it leaves alone, and what it says. -/
theorem pldmAnswer_effect (s : State) (t cmd code : Nat) (d : List Byte) :
    Only [.out] s (s.pldmAnswer t cmd code d) ∧ PldmReply (s.pldmAnswer t cmd code d) t cmd code d :=
  ⟨only_pldmAnswer s t cmd code d, pldmReply_pldmAnswer s t cmd code d⟩

theorem contains_pldmTypes (n : Nat) : pldmTypes.contains n = true ↔ n ∈ [0, 2, 5] := List.contains_iff_mem

theorem isNumeric_iff (n : Nat) : isNumeric n = true ↔ 1 ≤ n ∧ n ≤ 36 := by simp [isNumeric]

theorem isStateSensor_iff (n : Nat) : isStateSensor n = true ↔ 40 ≤ n ∧ n ≤ 44 := by simp [isStateSensor]

/-! ### Type 0 -/

theorem getPldmVersion_effect {s : State} {t : Transport} (h : ServedOn s t) (ty : BitVec 8) :
    Answers (exec (.getPldmVersion t ty) s) fun u => Only [.freeCtr, .out] s u ∧
      if ty.toNat ∈ [0, 2, 5] then ∃ d, PldmReply u (tIndex t) 0x03 0 d else PldmReply u (tIndex t) 0x03 0x83 [] := by
  change Answers (execGetPldmVersion t ty s) _
  refine answers_pldmServe h ?_
  simp only [contains_pldmTypes]
  split
  · exact ⟨((Only.refl _ s).spend (by decide) 1).emit (by decide) _, _, pldmReply_pldmAnswer _ _ _ _ _⟩
  · exact ⟨(only_pldmAnswer _ _ _ _ _).mono (by decide), pldmReply_pldmAnswer _ _ _ _ _⟩

theorem getPldmCommands_effect {s : State} {t : Transport} (h : ServedOn s t) (ty : BitVec 8) :
    Answers (exec (.getPldmCommands t ty) s) fun u => Only [.out] s u ∧
      if ty.toNat ∈ [0, 2, 5] then PldmReply u (tIndex t) 0x05 0 (leBytes 32 ((pldmCommands ty.toNat).foldl (fun a b => a + 2 ^ b) 0))
      else PldmReply u (tIndex t) 0x05 0x83 [] := by
  change Answers (execGetPldmCommands t ty s) _
  refine answers_pldmServe h ?_
  simp only [contains_pldmTypes]
  split <;> exact pldmAnswer_effect _ _ _ _ _

/-! ### Type 2 -/

theorem setEventReceiver_effect {s : State} {t : Transport} (h : ServedOn s t) (en eid : BitVec 8) :
    Answers (exec (.setEventReceiver t en eid) s) fun u => Only [.mon, .out] s u ∧
      (1 < en.toNat → PldmReply u (tIndex t) 0x04 0x81 [] ∧ u.mon = s.mon) ∧
      (en.toNat ≤ 1 → PldmReply u (tIndex t) 0x04 0 [] ∧
        u.mon.receiver.get none (tIndex t) = (if en = 1 then some eid else none) ∧
        ∀ k, k ≠ tIndex t → u.mon.receiver.get none k = s.mon.receiver.get none k) := by
  change Answers (execSetEventReceiver t en eid s) _
  refine answers_pldmServe h ?_
  split
  · exact ⟨(only_pldmAnswer _ _ _ _ _).mono (by decide), fun _ => ⟨pldmReply_pldmAnswer _ _ _ _ _, rfl⟩, fun _ => by omega⟩
  · exact ⟨((Only.refl _ s).onMon (by decide) _).emit (by decide) _, fun _ => by omega,
      fun _ => ⟨pldmReply_pldmAnswer _ _ _ _ _, SMap.get_set_same _ _ _ _, fun k hk => SMap.get_set_other _ hk _⟩⟩

theorem getPdr_effect {s : State} {t : Transport} (h : ServedOn s t) (i : W32) :
    Answers (exec (.getPdr t i) s) fun u => Only [.out] s u ∧
      match sensors[(if i = 0 then 1 else i.toNat) - 1]? with
      | none => PldmReply u (tIndex t) 0x51 0x82 []
      | some n => ∃ d, PldmReply u (tIndex t) 0x51 0 (d ++ [if 1 ≤ n ∧ n ≤ 36 then 2 else 4] ++ leBytes 2 n ++
          (thresholds n).flatMap (leBytes 2)) := by
  change Answers (execGetPdr t i s) _
  refine answers_pldmServe h ?_
  dsimp only
  cases sensors[(if i = 0 then 1 else i.toNat) - 1]? with
  | none => exact pldmAnswer_effect _ _ _ _ _
  | some n =>
    simp only [isNumeric_iff]
    exact ⟨only_pldmAnswer _ _ _ _ _, _, pldmReply_pldmAnswer _ _ _ _ _⟩

theorem getSensorReading_effect {s : State} {t : Transport} (h : ServedOn s t) (n : Nat) :
    Answers (exec (.getSensorReading t n) s) fun u => Only [.freeCtr, .out] s u ∧
      if 1 ≤ n ∧ n ≤ 36 then PldmReply u (tIndex t) 0x11 0
        ([byteOf (b2n (s.mon.disabled.contains n))] ++ leBytes 4 (s.numericReading n))
      else PldmReply u (tIndex t) 0x11 0x80 [] := by
  change Answers (execGetSensorReading t n s) _
  refine answers_pldmServe h ?_
  simp only [isNumeric_iff]
  split
  · exact ⟨(((Only.refl _ s).spend (by decide) 1).ite (Only.refl _ s)).emit (by decide) _, pldmReply_pldmAnswer _ _ _ _ _⟩
  · exact ⟨(only_pldmAnswer _ _ _ _ _).mono (by decide), pldmReply_pldmAnswer _ _ _ _ _⟩

theorem getStateSensorReadings_effect {s : State} {t : Transport} (h : ServedOn s t) (n : Nat) :
    Answers (exec (.getStateSensorReadings t n) s) fun u => Only [.out] s u ∧
      if 40 ≤ n ∧ n ≤ 44 then PldmReply u (tIndex t) 0x21 0 [1, 0, byteOf (s.stateReading n), byteOf (s.mon.reported.get 0 n)]
      else PldmReply u (tIndex t) 0x21 0x80 [] := by
  change Answers (execGetStateSensorReadings t n s) _
  refine answers_pldmServe h ?_
  simp only [isStateSensor_iff]
  split <;> exact pldmAnswer_effect _ _ _ _ _

/-- The sensors that are not enabled, after one of them has been enabled (0) or not (1, 2). -/
theorem mem_disabled (l : List Nat) (n k : Nat) (op : BitVec 8) :
    (k ∈ if op = 0 then l.filter (· != n) else addNew l n) ↔ if k = n then op ≠ 0 else k ∈ l := by
  by_cases ho : op = 0
  · by_cases hk : k = n <;> simp [ho, hk]
  · rw [if_neg ho, mem_addNew]
    by_cases hk : k = n
    · rw [if_pos hk]; exact iff_of_true (.inl hk) ho
    · rw [if_neg hk]; exact or_iff_right hk

theorem setNumericSensorEnable_effect {s : State} {t : Transport} (h : ServedOn s t) (n : Nat) (op : BitVec 8) :
    Answers (exec (.setNumericSensorEnable t n op) s) fun u => Only [.mon, .out] s u ∧
      if 1 ≤ n ∧ n ≤ 36 ∧ op.toNat ≤ 2 then PldmReply u (tIndex t) 0x10 0 [] ∧ (n ∈ u.mon.disabled ↔ op ≠ 0) ∧
        ∀ k, k ≠ n → (k ∈ u.mon.disabled ↔ k ∈ s.mon.disabled)
      else u.mon = s.mon := by
  change Answers (execSetNumericSensorEnable t n op s) _
  refine answers_pldmServe h ?_
  split
  · rename_i hn
    rw [if_neg fun c => by rw [(isNumeric_iff n).2 ⟨c.1, c.2.1⟩] at hn; cases hn]
    exact ⟨(only_pldmAnswer _ _ _ _ _).mono (by decide), rfl⟩
  · rename_i hn
    obtain ⟨h1, h36⟩ := (isNumeric_iff n).1 (Bool.eq_true_of_not_eq_false hn)
    split
    · rw [if_neg (by omega)]
      exact ⟨(only_pldmAnswer _ _ _ _ _).mono (by decide), rfl⟩
    · rw [if_pos (by omega)]
      refine ⟨((Only.refl _ s).onMon (by decide) _).emit (by decide) _, pldmReply_pldmAnswer _ _ _ _ _, ?_, fun k hk => ?_⟩
      · exact (mem_disabled s.mon.disabled n n op).trans (by rw [if_pos rfl])
      · exact (mem_disabled s.mon.disabled n k op).trans (by rw [if_neg hk])

/-! ### Temperature -/

theorem only_pldmEvent (s : State) (n : Nat) (v : Int) : Only [.out] s (s.pldmEvent n v) := (Only.refl _ s).pldmEvent (by decide) n v

theorem mem_pldmEvent {s : State} (h : s.mon.receiver ≠ []) (n : Nat) (v : Int) : .pldmEvent n v ∈ (s.pldmEvent n v).out := by
  rw [State.pldmEvent, if_neg (by simpa using h)]
  exact List.mem_append_right _ List.mem_cons_self

/-- The state with diode `d` at the level of `temp`. -/
def State.atLevel (s : State) (d : Nat) (temp : Int) : State :=
  s.onMon fun m => { m with level := m.level.set 0 d (tempLevel temp) }

/-- That state with the event of the crossing sent, if the Umpire serves and the sensor is enabled (R425). -/
def State.tempNoted (s : State) (d : Nat) (temp : Int) : State :=
  if s.umpUp = false ∨ s.mon.disabled.contains (d + 1) = true then s.atLevel d temp else (s.atLevel d temp).pldmEvent (d + 1) temp

/-- Every diode stands below 105 °C (R425). -/
def State.cool (s : State) : Bool := (List.range 24).all fun d => decide (s.mon.level.get 0 d < 2)

theorem exec_tempThresholdCrossing {s : State} {d : Nat} {temp : Int} (hp : s.aod.onCell = false) (hd : d < 24)
    (hl : s.mon.level.get 0 d ≠ tempLevel temp) : exec (.tempThresholdCrossing d temp) s =
      .next ((s.tempNoted d temp).onChip fun c =>
        { c with thermalHold := if tempLevel temp = 3 then true else if (s.atLevel d temp).cool then false else c.thermalHold }) := by
  change execTempThresholdCrossing d temp s = _
  rw [execTempThresholdCrossing, if_neg (by simp [hp, hl]; omega)]
  rfl

theorem level_atLevel (s : State) (d : Nat) (temp : Int) (k : Nat) :
    (s.atLevel d temp).mon.level.get 0 k = if k = d then tempLevel temp else s.mon.level.get 0 k := SMap.get_set 0 s.mon.level d k _

theorem tempNoted_effect (s : State) (d : Nat) (temp : Int) :
    (s.tempNoted d temp).mon = (s.atLevel d temp).mon ∧ Only [.chip, .mon, .out] s (s.tempNoted d temp) ∧
      (s.umpUp = true → s.mon.receiver ≠ [] → s.mon.disabled.contains (d + 1) = false →
        .pldmEvent (d + 1) temp ∈ (s.tempNoted d temp).out) := by
  have h1 : Only [.chip, .mon, .out] s (s.atLevel d temp) := (Only.refl _ s).onMon (by decide) _
  have h2 := only_pldmEvent (s.atLevel d temp) (d + 1) temp
  unfold State.tempNoted
  split
  · rename_i h
    exact ⟨rfl, h1, fun hu _ hd => by rw [hu, hd] at h; simp at h⟩
  · exact ⟨h2.same .mon, h1.then h2, fun _ hr _ => mem_pldmEvent (s := s.atLevel d temp) hr _ _⟩

/-- From 110 °C the level is the fatal one, below 105 °C at most the warning (R425). -/
theorem tempLevel_bounds (temp : Int) : (110 ≤ temp → tempLevel temp = 3) ∧ (temp < 105 → tempLevel temp < 2) := by
  unfold tempLevel
  constructor <;> intro h <;> split_ifs <;> omega

theorem cool_atLevel (s : State) (d : Nat) (temp : Int) (ht : temp < 105) (h : ∀ k, k < 24 → k ≠ d → s.mon.level.get 0 k < 2) :
    (s.atLevel d temp).cool = true := by
  refine List.all_eq_true.2 fun k hk => decide_eq_true ?_
  rw [level_atLevel]
  split
  · exact (tempLevel_bounds temp).2 ht
  · exact h k (List.mem_range.1 hk) ‹_›

/-- A temperature that crosses a threshold (R400, R425). -/
theorem tempThresholdCrossing_effect {s : State} {d : Nat} {temp : Int} (hp : s.aod.onCell = false) (hd : d < 24)
    (hl : s.mon.level.get 0 d ≠ tempLevel temp) : Answers (exec (.tempThresholdCrossing d temp) s) fun u =>
      (∀ k, u.mon.level.get 0 k = if k = d then tempLevel temp else s.mon.level.get 0 k) ∧
      (s.umpUp = true → s.mon.receiver ≠ [] → s.mon.disabled.contains (d + 1) = false → OutEvent.pldmEvent (d + 1) temp ∈ u.out) ∧
      (110 ≤ temp → u.chip.thermalHold = true) ∧
      (temp < 105 → (∀ k, k < 24 → k ≠ d → s.mon.level.get 0 k < 2) → u.chip.thermalHold = false) ∧ Only [.chip, .mon, .out] s u := by
  obtain ⟨hm, ho, he⟩ := tempNoted_effect s d temp
  rw [exec_tempThresholdCrossing hp hd hl]
  refine .next ⟨fun k => ?_, he, fun h => if_pos ((tempLevel_bounds temp).1 h), fun ht hk => ?_, ho.onChip (by decide) _⟩
  · rw [State.onChip_mon, hm, level_atLevel]
  · have h3 : tempLevel temp ≠ 3 := by have := (tempLevel_bounds temp).2 ht; omega
    exact (if_neg h3).trans (if_pos (cool_atLevel s d temp ht hk))

/-- Settles O58: each command by what it answers once it is served, a crossing by `tempThresholdCrossing_effect`. The messages' bytes
are log entry 8's. -/
theorem pldmBaseAndSensors : Obligations.PldmBaseAndSensors := by
  unfold Obligations.PldmBaseAndSensors
  refine ⟨fun s t h => ⟨?_, getPldmVersion_effect h, ?_, getPldmCommands_effect h, setEventReceiver_effect h, ?_, getPdr_effect h,
    getSensorReading_effect h, getStateSensorReadings_effect h, setNumericSensorEnable_effect h, ?_, ?_⟩,
    fun s d temp hp hd => tempThresholdCrossing_effect hp hd, fun s a hp => ?_⟩
  · change Answers (execGetTid t s) _
    exact answers_pldmServe h (pldmAnswer_effect _ _ _ _ _).symm
  · change Answers (execGetPldmTypes t s) _
    exact answers_pldmServe h (pldmAnswer_effect _ _ _ _ _).symm
  · change Answers (execGetPdrRepositoryInfo t s) _
    exact answers_pldmServe h ⟨((Only.refl _ s).spend (by decide) 1).emit (by decide) _, _, pldmReply_pldmAnswer _ _ _ _ _⟩
  · change Answers (execQueryDeviceIdentifiers t s) _
    exact answers_pldmServe h (pldmAnswer_effect _ _ _ _ _)
  · change Answers (execGetFirmwareParameters t s) _
    exact answers_pldmServe h (pldmAnswer_effect _ _ _ _ _)
  · change Answers (execI3cDynamicAddressAssignment a s) _
    rw [execI3cDynamicAddressAssignment, if_neg (by rw [hp]; decide)]
    exact .next ⟨rfl, (Only.refl _ s).onUmp (by decide) _⟩

end Sys2Proof.Machine

/-!
# The admin queue's ENABLE, doorbells and moderated messages (O13)
-/

namespace Sys2Proof.Machine

-- One declaration after the other: elaborated side by side, the row as one text takes more threads than the check allows.
set_option Elab.async false

/-- A command over the link that reaches its function means what it means there (R69, R77). -/
theorem answers_host {s : State} {f : Nat} {tee : Option Nat} (h : HostReaches s ⟨f, tee⟩) {k : State → State} {P : State → Prop}
    (hk : P (k s)) : Answers (s.powered fun s => .next (s.mmio f tee k)) P := by
  obtain ⟨hp, hon, ht⟩ := h
  rw [powered_eq hp, mmio_open hon ht]
  exact .next hk

theorem fn_modAdm (s : State) (f g : Nat) (k : Adm → Adm) :
    (s.modAdm f k).fn g = if g = f then { s.fn f with adm := k (s.fn f).adm } else s.fn g := fn_modFn s f g _

theorem fn_modAdm_self (s : State) (f : Nat) (k : Adm → Adm) :
    (s.modAdm f k).fn f = { s.fn f with adm := k (s.fn f).adm } := (fn_modAdm s f f k).trans (if_pos rfl)

theorem fn_modAdm_other (s : State) {f g : Nat} (h : g ≠ f) (k : Adm → Adm) : (s.modAdm f k).fn g = s.fn g :=
  (fn_modAdm s f g k).trans (if_neg h)

/-! ### The queue's ENABLE (R89) -/

/-- From `s` to `t` function `f`'s queue has been enabled: it runs with an empty ring, or its registers were not valid and it stands
in ERROR (R88, R89). -/
def QueueEnabled (s t : State) (f : Nat) : Prop :=
  if (s.fn f).adm.valid then (∀ g, g ≠ f → t.fn g = s.fn g) ∧
    (t.fn f).adm = { (s.fn f).adm with
        enable := true, ready := true, error := false, sqHead := 0, sqTail := 0, cqHead := 0, cqTail := 0, phase := true } ∧
      Only [.fns] s t
  else (t.fn f).adm = { (s.fn f).adm with enable := true, ready := false, error := true } ∧
    (∀ g, g ≠ f → t.fn g = { s.fn g with pba := (t.fn g).pba }) ∧
    t.hdr (.adm f) = (s.hdr (.adm f)).raise (1#32 <<< 8) ∧ Only [.fns, .hdrs, .chip, .out] s t

/-- A change of a queue's registers that its page reports with a status bit (R87, R88). -/
theorem modAdm_setBit_effect (s : State) (f n : Nat) (k : Adm → Adm) : let t := (s.modAdm f k).setBit (.adm f) n
    (t.fn f).adm = k (s.fn f).adm ∧ (∀ g, g ≠ f → t.fn g = { s.fn g with pba := (t.fn g).pba }) ∧
      t.hdr (.adm f) = (s.hdr (.adm f)).raise (1#32 <<< n) ∧ Only [.fns, .hdrs, .chip, .out] s t := by
  intro t
  have hs : SameFns (s.modAdm f k) t := sameFns_setBit _ _ _
  refine ⟨?_, fun g hg => ?_, (hdr_setBit _ _ _ n).trans (if_pos rfl), ((Only.refl _ s).modAdm (by decide) f k).then (only_setBit _ _ _)⟩
  · obtain ⟨x, hx⟩ := hs f
    rw [hx, fn_modAdm_self]
  · obtain ⟨x, hx⟩ := hs g
    rw [hx, fn_modAdm_other s hg]

theorem queueEnabled_admEnable {s : State} {f : Nat} (he : (s.fn f).adm.enable = false) (hr : s.chip.accReset = false)
    (hp : s.present (.adm f) = true) : QueueEnabled s (s.admEnable f) f := by
  have hopen : ¬ ((s.fn f).adm.enable = true ∨ s.chip.accReset = true ∨ s.present (.adm f) = false) := by simp [he, hr, hp]
  unfold QueueEnabled
  by_cases hv : (s.fn f).adm.valid = true
  · have ht : s.admEnable f = s.modAdm f _ := (if_neg hopen).trans (if_pos hv)
    rw [if_pos hv, ht, fn_modAdm_self]
    exact ⟨fun g hg => fn_modAdm_other s hg _, rfl, (Only.refl _ s).modAdm (by decide) f _⟩
  · have ht : s.admEnable f = (s.modAdm f _).setBit (.adm f) 8 := (if_neg hopen).trans (if_neg hv)
    rw [if_neg hv, ht]
    exact modAdm_setBit_effect s f 8 _

/-! ### Doorbells (R101, R102) -/

/-- From `s` to `t` a doorbell write on function `f`'s pages has been refused: the record of its index, cause and kind, and DB_ERR; the
function's admin queue is as before (R102). -/
theorem dbRefused_effect (s : State) (f i c : Nat) (admin : Bool) : let t := s.dbRefused f i c admin
    (t.fn f).adm = (s.fn f).adm ∧ (t.fn f).dbErrIndex = BitVec.ofNat 16 i ∧ (t.fn f).dbErrCause = BitVec.ofNat 3 c ∧
      (t.fn f).dbErrAdmin = admin ∧ t.hdr (.fn f) = (s.hdr (.fn f)).raise (1#32 <<< 8) ∧ Only [.fns, .hdrs, .chip, .out] s t := by
  unfold State.dbRefused
  extract_lets t
  have hself : (s.modFn f fun x => { x with dbErrIndex := BitVec.ofNat 16 i, dbErrCause := BitVec.ofNat 3 c, dbErrAdmin := admin }).fn f
    = _ := (fn_modFn s f f _).trans (if_pos rfl)
  obtain ⟨x, hx⟩ : ∃ x, t.fn f = _ := sameFns_setBit _ (.fn f) 8 f
  rw [hx, hself]
  exact ⟨rfl, rfl, rfl, rfl, (hdr_setBit _ _ _ 8).trans (if_pos rfl), ((Only.refl _ s).modFn (by decide) f _).then (only_setBit _ _ _)⟩

theorem admDoorbell_effect {s : State} {f : Nat} (hr : (s.fn f).adm.ready = true) (ha : s.chip.accReset = false) (v : W64) (w : Nat) :
    let t := s.admDoorbell f v w
    let a := (s.fn f).adm
    let c := dbCause v w a.sqLog.toNat a.sqHead a.sqTail a.cqLog.toNat a.cqHead a.cqTail
    if c = 0 then (t.fn f).adm = { a with
          sqTail := if v.getLsbD 32 then bits64 v 15 0 else a.sqTail
          cqHead := if v.getLsbD 33 then bits64 v 31 16 else a.cqHead } ∧ Only [.fns] s t
    else (t.fn f).adm = a ∧ (t.fn f).dbErrIndex = 0 ∧ (t.fn f).dbErrCause = BitVec.ofNat 3 c ∧ (t.fn f).dbErrAdmin = true ∧
      t.hdr (.fn f) = (s.hdr (.fn f)).raise (1#32 <<< 8) ∧ Only [.fns, .hdrs, .chip, .out] s t := by
  intro t a c
  have hopen : ¬ (a.ready = false ∨ s.chip.accReset = true) := by simp [a, hr, ha]
  by_cases hc : c = 0
  · have ht : t = s.modAdm f _ := (if_neg hopen).trans (if_neg (not_not_intro hc))
    rw [if_pos hc, ht, fn_modAdm_self]
    exact ⟨rfl, (Only.refl _ s).modAdm (by decide) f _⟩
  · have ht : t = s.dbRefused f 0 c true := (if_neg hopen).trans (if_pos hc)
    rw [if_neg hc, ht]
    exact dbRefused_effect s f 0 c true

/-- A doorbell of a channel that runs, without RE_ARM. -/
theorem chDoorbell_effect {s : State} {f i : Nat} {x : Chan} (ha : s.chip.accReset = false) (hx : s.chan f i = some x)
    (hs : x.state = .active) {v : W64} (hv : v.getLsbD 34 = false) (w : Nat) :
    let t := s.chDoorbell f i v w
    let c := dbCause v w x.sqLog x.sqHead x.sqTail x.cqLog x.cqHead x.cqTail
    if c = 0 then t.chan f i = some { x with
          sqTail := if v.getLsbD 32 then bits64 v 15 0 else x.sqTail
          cqHead := if v.getLsbD 33 then bits64 v 31 16 else x.cqHead } ∧ Only [.chans] s t
    else (t.fn f).dbErrIndex = BitVec.ofNat 16 i ∧ (t.fn f).dbErrCause = BitVec.ofNat 3 c ∧ (t.fn f).dbErrAdmin = false ∧
      t.hdr (.fn f) = (s.hdr (.fn f)).raise (1#32 <<< 8) ∧ Only [.fns, .hdrs, .chip, .out] s t := by
  intro t c
  have ht : t = if c ≠ 0 then s.dbRefused f i c false else s.modChan f i fun x => { x with
      sqTail := if v.getLsbD 32 then bits64 v 15 0 else x.sqTail
      cqHead := if v.getLsbD 33 then bits64 v 31 16 else x.cqHead } := by
    dsimp only [t]
    rw [State.chDoorbell, if_neg (by simp [ha]), hx]
    dsimp only
    rw [hs, hv]
    rfl
  by_cases hc : c = 0
  · rw [if_pos hc, ht, if_neg (not_not_intro hc), chan_modChan_self, hx]
    exact ⟨rfl, (Only.refl _ s).modChan (by decide) f i _⟩
  · rw [if_neg hc, ht, if_pos hc]
    exact (dbRefused_effect s f i c false).2

/-! ### Messages (R73, R105) -/

/-- An event on a vector: one message with the address and data of its table entry, or its pending bit. -/
theorem msix_sent (s : State) (f v : Nat) :
    (s.msix f v).out = s.out ++ [.msix f v (s.tlp f none false) ((s.fn f).msixAddr.get 0 v) ((s.fn f).msixData.get 0 v)] ∨
      (s.msix f v).out = s.out ∧ v ∈ ((s.msix f v).fn f).pba := by
  unfold State.msix
  extract_lets x
  split
  · exact .inl rfl
  · refine .inr ⟨rfl, ?_⟩
    rw [fn_modFn, if_pos rfl]
    exact mem_addNew_self _ v

/-- The message of a channel that may send one (R105). -/
theorem chMessage_effect {s : State} {f i : Nat} {x : Chan} (hx : s.chan f i = some x) (hi : x.irqEn = true)
    (ha : x.oneShot = true → x.armed = true) : let t := s.chMessage f i
    t.chan f i = some { x with unsignalled := 0, armed := x.armed && !x.oneShot } ∧
      (t.out = s.out ++ [.msix f x.vector.toNat (s.tlp f none false) ((s.fn f).msixAddr.get 0 x.vector.toNat)
        ((s.fn f).msixData.get 0 x.vector.toNat)] ∨ t.out = s.out ∧ x.vector.toNat ∈ (t.fn f).pba) ∧ Only [.chans, .fns, .out] s t := by
  have hm : Only [.chans, .fns, .out] s (s.msix f x.vector.toNat) := (Only.refl _ s).msix (by decide) (by decide) f _
  have hc : (s.msix f x.vector.toNat).chan f i = some x := by
    rw [← hx]
    unfold State.chan
    rw [(Only.msix (l := [.fns, .out]) (by decide) (by decide) (Only.refl _ s) f x.vector.toNat).same .chans]
  have harm : (if x.oneShot then false else x.armed) = (x.armed && !x.oneShot) := by cases x.oneShot <;> simp
  unfold State.chMessage
  rw [hx]
  dsimp only
  rw [if_pos (by cases ho : x.oneShot <;> simp [hi, ha, ho]), chan_modChan_self, hc, ← harm]
  exact ⟨rfl, msix_sent s f _, hm.modChan (by decide) f i _⟩

/-- Settles O13: each command by what it does once the access reaches its function. That clearing ENABLE clears ERROR is log
entry 69's. -/
theorem doorbellsAndTheAdminQueue : Obligations.DoorbellsAndTheAdminQueue := by
  unfold Obligations.DoorbellsAndTheAdminQueue
  refine ⟨fun s f tee h he hr hp => ?_, fun s f tee h he => ?_, fun s f v w tee h hr ha => ?_, fun s f i v w tee x h ha hx hs hv => ?_,
    fun s f i v w tee h ha hx => ?_, fun s f i x hx hu hm hi ha => ?_⟩
  · change Answers (execAdmEnable ⟨f, tee⟩ s) _
    exact answers_host h (queueEnabled_admEnable he hr hp)
  · change Answers (execAdmDisable ⟨f, tee⟩ s) _
    refine answers_host h ?_
    rw [State.admDisable, if_pos he, fn_modAdm_self]
    exact ⟨rfl, fun g hg => fn_modAdm_other s hg _, (Only.refl _ s).modAdm (by decide) f _⟩
  · change Answers (execAdminDoorbell ⟨f, tee⟩ v w s) _
    exact answers_host h (admDoorbell_effect hr ha v w)
  · change Answers (execDoorbellWrite ⟨f, tee⟩ i v w s) _
    exact answers_host h (chDoorbell_effect ha hx hs hv w)
  · change Answers (execDoorbellWrite ⟨f, tee⟩ i v w s) _
    refine answers_host h ?_
    rw [State.chDoorbell, if_neg (by simp [ha]), hx]
    exact ⟨(hdr_setBit _ _ _ 9).trans (if_pos rfl), (only_setBit _ _ _).mono (by decide)⟩
  · change Answers (execModTimeExpiry f i s) _
    rw [execModTimeExpiry, hx]
    dsimp only
    rw [if_neg (by simp [hu, hm])]
    exact .next (chMessage_effect hx hi ha)

end Sys2Proof.Machine

/-!
# A command of the admin queue: how it is taken and how it completes
-/

namespace Sys2Proof.Machine

-- One declaration after the other: elaborated side by side, the row as one text takes more threads than the check allows.
set_option Elab.async false

/-! ### Translation requests -/

/-- A request for a translation, as an event (R78). -/
def OutEvent.IsAtsRequest (e : OutEvent) : Prop := ∃ f p page, e = .atsRequest f p page

/-- Before an access the device requests translations and does nothing else (R78). -/
theorem askXlat_eq (s : State) (f : Nat) (p : Option (BitVec 20)) (a n : Nat) :
    ∃ es, s.askXlat f p a n = s.onOut (· ++ es) ∧ ∀ e ∈ es, e.IsAtsRequest := by
  have hnone (s : State) : s = s.onOut (· ++ []) := by simp [State.onOut]
  have hstep (s : State) (page : Nat) : ∃ es, (if s.xlatHeld f p page then s else s.emit (.atsRequest f p page)) = s.onOut (· ++ es) ∧
      ∀ e ∈ es, e.IsAtsRequest := by
    split
    · exact ⟨[], hnone s, nofun⟩
    · exact ⟨[.atsRequest f p page], rfl, fun e he => ⟨f, p, page, List.mem_singleton.1 he⟩⟩
  unfold State.askXlat
  split
  · exact ⟨[], hnone s, nofun⟩
  · rename_i hask
    clear hask
    generalize List.range _ = l
    induction l generalizing s with
    | nil => exact ⟨[], hnone s, nofun⟩
    | cons k l ih =>
      obtain ⟨es, he, h1⟩ := hstep s (a / 4096 + k)
      obtain ⟨fs, hf, h2⟩ := ih (s.onOut (· ++ es))
      refine ⟨es ++ fs, ?_, fun e h => (List.mem_append.1 h).elim (h1 e) (h2 e)⟩
      rw [List.foldl_cons, he, hf]
      simp [State.onOut]

/-! ### What a command leaves of the functions -/

/-- From `s` to `t` only functions and events have changed, and every function keeps everything but its admin queue's state and its
pending bits. -/
structure QueueStep (s t : State) : Prop where
  only : Only [.fns, .out] s t
  fns : ∀ g, ∃ a p, t.fn g = { s.fn g with adm := a, pba := p }

namespace QueueStep

variable {s t u : State}

theorem trans (h : QueueStep s t) (k : QueueStep t u) : QueueStep s u where
  only := h.only.trans k.only
  fns g := by
    obtain ⟨a, p, hx⟩ := h.fns g
    obtain ⟨b, q, hy⟩ := k.fns g
    exact ⟨b, q, by rw [hy, hx]⟩

theorem of_out (h : Only [.out] s t) : QueueStep s t where
  only := h.mono (by decide)
  fns g := ⟨(s.fn g).adm, (s.fn g).pba, fn_setFields s t (h.same .fns) g⟩

theorem modAdm (s : State) (f : Nat) (k : Adm → Adm) : QueueStep s (s.modAdm f k) where
  only := (Only.refl _ s).modAdm (by decide) f k
  fns g := by
    rw [fn_modAdm]
    split
    · subst_vars; exact ⟨_, _, rfl⟩
    · exact ⟨_, _, rfl⟩

theorem msix (s : State) (f v : Nat) : QueueStep s (s.msix f v) where
  only := (Only.refl _ s).msix (by decide) (by decide) f v
  fns g := by
    obtain ⟨x, hx⟩ := sameFns_msix s f v g
    exact ⟨_, x, hx⟩

end QueueStep

/-! ### The command leaves the ring (R78, R90) -/

/-- The state in which the command at the head of function `f`'s admin ring runs: read, and off the ring. -/
def State.taken (s : State) (f : Nat) : State :=
  (s.askXlat f none ((s.fn f).adm.sqBase.toNat + 64 * (s.fn f).adm.sqHead) 64).modAdm f fun a =>
    { a with sqHead := (a.sqHead + 1) % 2 ^ a.sqLog.toNat }

/-- CMD_ID of a command (R91). -/
def cmdIdOf (dw : List W32) : BitVec 16 := BitVec.ofNat 16 (bits (dwAt dw 0) 31 16)

theorem toNat_cmdIdOf (dw : List W32) : (cmdIdOf dw).toNat = bits (dwAt dw 0) 31 16 := by
  unfold cmdIdOf bits
  rw [BitVec.toNat_ofNat]
  omega

theorem taken_step (s : State) (f : Nat) : QueueStep s (s.taken f) :=
  (QueueStep.of_out ((Only.refl _ s).askXlat (by decide) _ _ _ _)).trans (QueueStep.modAdm _ f _)

theorem fn_taken (s : State) (f g : Nat) : (s.taken f).fn g =
    if g = f then { s.fn f with adm := { (s.fn f).adm with sqHead := ((s.fn f).adm.sqHead + 1) % 2 ^ (s.fn f).adm.sqLog.toNat } }
    else s.fn g := by
  have h (g : Nat) : (s.askXlat f none ((s.fn f).adm.sqBase.toNat + 64 * (s.fn f).adm.sqHead) 64).fn g = s.fn g :=
    fn_setFields _ _ (((Only.refl [.out] s).askXlat (by decide) _ _ _ _).same .fns) g
  unfold State.taken
  rw [fn_modAdm, h, h]

theorem adm_taken (s : State) (f : Nat) : ((s.taken f).fn f).adm =
    { (s.fn f).adm with sqHead := ((s.fn f).adm.sqHead + 1) % 2 ^ (s.fn f).adm.sqLog.toNat } := by
  rw [fn_taken, if_pos rfl]

theorem admTaken_taken (s : State) (f : Nat) : AdmTaken s (s.taken f) f := by
  unfold AdmTaken
  rw [adm_taken]

/-- Taking a command completes none. -/
theorem admCqe_taken {s : State} {f g : Nat} {x : Tlp} {a : Nat} {d : List W32} (h : OutEvent.admCqe g x a d ∈ (s.taken f).out) :
    OutEvent.admCqe g x a d ∈ s.out := by
  obtain ⟨es, he, hes⟩ := askXlat_eq s f none ((s.fn f).adm.sqBase.toNat + 64 * (s.fn f).adm.sqHead) 64
  unfold State.taken at h
  rw [he] at h
  rcases List.mem_append.1 h with h | h
  · exact h
  · obtain ⟨_, _, _, h⟩ := hes _ h
    cases h

/-- A command of a queue that is ready runs on the state that `taken` gives, and completes with its answer. -/
theorem admRun_answers {s : State} {f : Nat} (h : AdmReady s f) {dw : List W32} {op : Bool} (ho : op = true)
    {body : State → Nat → BitVec 16 → State × Option AdmRes} {u : State} {x : AdmRes}
    (hb : body (s.taken f) (s.fn f).adm.sqHead (cmdIdOf dw) = (u, some x)) :
    s.admRun f dw op body = u.admFinish f (s.fn f).adm.sqHead (cmdIdOf dw) x := by
  obtain ⟨hr, hd, -⟩ := h
  unfold State.admRun
  rw [if_neg (by simp [hr, ho]), if_neg (by simp [hd])]
  extract_lets s0 s1 cmdId
  rw [show body s1 (s.fn f).adm.sqHead cmdId = (u, some x) from hb]
  rfl

/-- Such a command that has to wait leaves the state that its body gives. -/
theorem admRun_waits {s : State} {f : Nat} (h : AdmReady s f) {dw : List W32} {op : Bool} (ho : op = true)
    {body : State → Nat → BitVec 16 → State × Option AdmRes} {u : State}
    (hb : body (s.taken f) (s.fn f).adm.sqHead (cmdIdOf dw) = (u, none)) : s.admRun f dw op body = u := by
  obtain ⟨hr, hd, -⟩ := h
  unfold State.admRun
  rw [if_neg (by simp [hr, ho]), if_neg (by simp [hd])]
  extract_lets s0 s1 cmdId
  rw [show body s1 (s.fn f).adm.sqHead cmdId = (u, none) from hb]

/-! ### The completion entry (R92, R97) -/

/-- From `s` to `t` nothing has changed that the completion of a command of function `f` reads. -/
def QueueKept (s t : State) (f : Nat) : Prop :=
  (t.fn f).adm = (s.fn f).adm ∧ (t.fn f).atsEn = (s.fn f).atsEn ∧ t.pcie = s.pcie

theorem QueueKept.of_only {l : List Field} {s t : State} (h : Only l s t) (f : Nat) (hf : .fns ∉ l := by decide)
    (hp : .pcie ∉ l := by decide) : QueueKept s t f := by
  have e := fn_setFields s t (h.same .fns hf) f
  exact ⟨by rw [e], by rw [e], h.same .pcie hp⟩

theorem QueueKept.denies {s t : State} {f : Nat} (h : QueueKept s t f) (p : Option (BitVec 20)) (a n : Nat) (w : Bool) :
    t.denies f p a n w = s.denies f p a n w := by
  obtain ⟨-, h2, h3⟩ := h
  unfold State.denies
  rw [h2, h3]

/-- The completion entry of a command is in the ring of function `f`, and the queue is free for the next (R92, R97). -/
def State.posted (s : State) (f slot : Nat) (c : BitVec 16) (x : AdmRes) : State :=
  let a := (s.fn f).adm
  let tail := (a.cqTail + 1) % 2 ^ a.cqLog.toNat
  ((s.askXlat f none (a.cqBase.toNat + 32 * a.cqTail) 32).emit (.admCqe f (s.tlp f none false) (a.cqBase.toNat + 32 * a.cqTail)
    (admEntry slot c.toNat x.st x.detail x.r0 x.r1 x.r2 a.sqHead a.phase))).modAdm f fun a =>
      { a with cqTail := tail, phase := if tail = 0 then !a.phase else a.phase, busy := none }

theorem admFinish_eq (s : State) (f slot : Nat) (c : BitVec 16) (x : AdmRes)
    (hd : s.denies f none ((s.fn f).adm.cqBase.toNat + 32 * (s.fn f).adm.cqTail) 32 true = false) : s.admFinish f slot c x =
      if (s.fn f).adm.irqEn then (s.posted f slot c x).msix f (s.fn f).adm.vector.toNat else s.posted f slot c x :=
  if_neg (by simp [hd])

/-- From `s` to `t` the command of ring slot `slot` of function `f` has completed with `x`: its entry stands at the completion ring's
tail, and no command is in execution (R90, R92, R97). -/
structure CommandEnds (s t : State) (f slot : Nat) (c : BitVec 16) (x : AdmRes) : Prop extends QueueStep s t where
  entry : ∃ y : Tlp, OutEvent.admCqe f y ((s.fn f).adm.cqBase.toNat + 32 * (s.fn f).adm.cqTail)
    (admEntry slot c.toNat x.st x.detail x.r0 x.r1 x.r2 (s.fn f).adm.sqHead (s.fn f).adm.phase) ∈ t.out
  sqHead : (t.fn f).adm.sqHead = (s.fn f).adm.sqHead
  cqTail : (t.fn f).adm.cqTail = ((s.fn f).adm.cqTail + 1) % 2 ^ (s.fn f).adm.cqLog.toNat
  busy : (t.fn f).adm.busy = none

theorem commandEnds_posted (s : State) (f slot : Nat) (c : BitVec 16) (x : AdmRes) :
    CommandEnds s (s.posted f slot c x) f slot c x := by
  have ho (e : OutEvent) : Only [.out] s ((s.askXlat f none ((s.fn f).adm.cqBase.toNat + 32 * (s.fn f).adm.cqTail) 32).emit e) :=
    ((Only.refl _ s).askXlat (by decide) _ _ _ _).emit (by decide) e
  have hadm (k : Adm → Adm) (e : OutEvent) :
      ((((s.askXlat f none ((s.fn f).adm.cqBase.toNat + 32 * (s.fn f).adm.cqTail) 32).emit e).modAdm f k).fn f).adm =
        k (s.fn f).adm := by
    rw [fn_modAdm_self, fn_setFields s _ ((ho e).same .fns)]
  unfold State.posted
  extract_lets a tail
  exact
    { toQueueStep := (QueueStep.of_out (ho _)).trans (QueueStep.modAdm _ f _)
      entry := ⟨_, List.mem_append_right _ List.mem_cons_self⟩
      sqHead := by rw [hadm]
      cqTail := by rw [hadm]
      busy := by rw [hadm] }

theorem commandEnds_admFinish (s : State) (f slot : Nat) (c : BitVec 16) (x : AdmRes)
    (hd : s.denies f none ((s.fn f).adm.cqBase.toNat + 32 * (s.fn f).adm.cqTail) 32 true = false) :
    CommandEnds s (s.admFinish f slot c x) f slot c x := by
  rw [admFinish_eq s f slot c x hd]
  have h := commandEnds_posted s f slot c x
  split
  · generalize s.posted f slot c x = u at h
    obtain ⟨p, hp⟩ := sameFns_msix u f (s.fn f).adm.vector.toNat f
    obtain ⟨y, hy⟩ := h.entry
    exact
      { toQueueStep := h.toQueueStep.trans (QueueStep.msix u f _)
        entry := ⟨y, out_msix u f _ hy⟩
        sqHead := by rw [hp]; exact h.sqHead
        cqTail := by rw [hp]; exact h.cqTail
        busy := by rw [hp]; exact h.busy }
  · exact h

/-- A command that has left the ring and whose work leaves what its completion reads completes with its answer. -/
theorem commandEnds_of_kept {s u : State} {f : Nat} (h : AdmReady s f) (hk : QueueKept (s.taken f) u f) (slot : Nat) (c : BitVec 16)
    (x : AdmRes) : CommandEnds u (u.admFinish f slot c x) f slot c x := by
  refine commandEnds_admFinish u f slot c x ?_
  have ht : (s.taken f).denies f none ((s.fn f).adm.cqBase.toNat + 32 * (s.fn f).adm.cqTail) 32 true = false := by
    obtain ⟨-, -, hd⟩ := h
    unfold State.denies at hd ⊢
    rw [fn_taken, if_pos rfl, (taken_step s f).only.same .pcie]
    exact hd
  rw [hk.denies, hk.1, adm_taken]
  exact ht

/-- A command of a queue that is ready: the entry that it posts, and what its completion leaves of the state that it made. -/
theorem answers_command {s : State} {f : Nat} (h : AdmReady s f) {dw : List W32} {op : Bool} (ho : op = true)
    {body : State → Nat → BitVec 16 → State × Option AdmRes} {u : State} {x : AdmRes} {P : State → Prop}
    (hb : body (s.taken f) (s.fn f).adm.sqHead (cmdIdOf dw) = (u, some x)) (hk : QueueKept (s.taken f) u f)
    (hP : ∀ t, AdmPosted s t f dw x.st x.detail x.r0 x.r1 x.r2 → QueueStep u t → P t) : Answers (.next (s.admRun f dw op body)) P := by
  have he := commandEnds_of_kept h hk (s.fn f).adm.sqHead (cmdIdOf dw) x
  rw [admRun_answers h ho hb]
  refine .next (hP _ ⟨?_, ?_, ?_, he.busy⟩ he.toQueueStep)
  · have hentry := he.entry
    rw [hk.1, adm_taken, toNat_cmdIdOf] at hentry
    exact hentry
  · exact he.sqHead.trans (by rw [hk.1, adm_taken])
  · exact he.cqTail.trans (by rw [hk.1, adm_taken])

end Sys2Proof.Machine

/-!
# The admin commands on channels (O14)
-/

namespace Sys2Proof.Machine

-- One declaration after the other: elaborated side by side, the row as one text takes more threads than the check allows.
set_option Elab.async false

/-! ### What a command's checks read (R93, R95, R96) -/

namespace QueueStep

variable {s t : State}

theorem variant (h : QueueStep s t) : t.variant = s.variant := h.only.2.1

theorem chans (h : QueueStep s t) : t.chans = s.chans := h.only.same .chans

theorem chFreed (h : QueueStep s t) : t.chFreed = s.chFreed := h.only.same .chFreed

theorem pasidEn (h : QueueStep s t) (g : Nat) : (t.fn g).pasidEn = (s.fn g).pasidEn := by
  obtain ⟨_, _, e⟩ := h.fns g
  rw [e]

theorem spillBase (h : QueueStep s t) (g : Nat) : (t.fn g).spillBase = (s.fn g).spillBase := by
  obtain ⟨_, _, e⟩ := h.fns g
  rw [e]

theorem spillKib (h : QueueStep s t) (g : Nat) : (t.fn g).spillKib = (s.fn g).spillKib := by
  obtain ⟨_, _, e⟩ := h.fns g
  rw [e]

theorem domain (h : QueueStep s t) (g : Nat) : (t.fn g).domain = (s.fn g).domain := by
  obtain ⟨_, _, e⟩ := h.fns g
  rw [e]

theorem limit (h : QueueStep s t) (g : Nat) : (t.fn g).limit = (s.fn g).limit := by
  obtain ⟨_, _, e⟩ := h.fns g
  rw [e]

theorem fnDomain (h : QueueStep s t) (g : Nat) : t.fnDomain g = s.fnDomain g := by
  unfold State.fnDomain
  rw [h.domain]

theorem fnLimit (h : QueueStep s t) (g : Nat) : t.fnLimit g = s.fnLimit g := by
  unfold State.fnLimit State.nChans
  rw [h.limit, h.variant]

theorem tdispLocked (h : QueueStep s t) (g : Nat) : t.tdispLocked g = s.tdispLocked g := by
  obtain ⟨_, _, e⟩ := h.fns g
  unfold State.tdispLocked
  rw [e]

theorem vfsOn (h : QueueStep s t) : t.vfsOn = s.vfsOn := by
  unfold State.vfsOn
  rw [h.only.same .pcie]

theorem gate (h : QueueStep s t) (f : Nat) (dw : List W32) (p : Bool) : t.gate f dw p = s.gate f dw p := by
  unfold State.gate
  rw [h.vfsOn]

theorem chan (h : QueueStep s t) (f i : Nat) : t.chan f i = s.chan f i := by
  unfold State.chan
  rw [h.chans]

theorem channelsOf (h : QueueStep s t) (f : Nat) : t.channelsOf f = s.channelsOf f := by
  unfold State.channelsOf
  rw [h.chans]

theorem chGen (h : QueueStep s t) (f i : Nat) : t.chGen f i = s.chGen f i := by
  unfold State.chGen
  rw [h.only.same .gens]

theorem chHandle (h : QueueStep s t) (f i : Nat) : t.chHandle f i = s.chHandle f i := by
  unfold State.chHandle
  rw [h.chGen]

theorem handleCh (h : QueueStep s t) (f : Nat) (w : W32) : t.handleCh f w = s.handleCh f w := by
  unfold State.handleCh
  simp only [h.chan, h.chGen]

theorem pickChannel (h : QueueStep s t) (f : Nat) : t.pickChannel f = s.pickChannel f := by
  unfold State.pickChannel
  rw [h.chans, h.chFreed]
  simp only [h.chan]

theorem badProg (h : QueueStep s t) (p : Nat) : t.badProg p = s.badProg p := by
  unfold State.badProg State.progOf
  rw [h.only.same .progs]

theorem createRefused (h : QueueStep s t) (f : Nat) (dw : List W32) : t.createRefused f dw = s.createRefused f dw := by
  unfold State.createRefused State.nChans State.chTotal
  simp only [h.gate, h.pasidEn, h.fnDomain, h.fnLimit, h.channelsOf, h.variant, h.chans, h.spillBase, h.badProg]

theorem modifyRefused (h : QueueStep s t) (f : Nat) (dw : List W32) : t.modifyRefused f dw = s.modifyRefused f dw := by
  unfold State.modifyRefused
  simp only [h.gate, h.handleCh, h.tdispLocked, h.badProg]

theorem destroyRefused (h : QueueStep s t) (f : Nat) (dw : List W32) : t.destroyRefused f dw = s.destroyRefused f dw := by
  unfold State.destroyRefused
  simp only [h.gate, h.handleCh, h.tdispLocked]

theorem queryRes (h : QueueStep s t) (f i : Nat) (c : Chan) : t.queryRes f i c = s.queryRes f i c := by
  unfold State.queryRes State.reqsOf State.reqsWhere
  rw [h.only.same .reqs]

end QueueStep

/-- A command of the PF on itself passes the gate (R93). -/
theorem gate_self (s : State) {dw : List W32} (h : bits (dwAt dw 0) 15 8 = 0) (p : Bool) : s.gate 0 dw p = (false, false) := by
  simp [State.gate, h]

theorem admTarget_self {dw : List W32} (h : bits (dwAt dw 0) 15 8 = 0) (f : Nat) : admTarget f dw = f := if_pos h

/-- A handle names a channel that is there (R96). -/
theorem chan_of_handleCh {s : State} {f i : Nat} {w : W32} {c : Chan} (h : s.handleCh f w = some (i, c)) : s.chan f i = some c := by
  unfold State.handleCh at h
  dsimp only at h
  split at h
  · cases h
  · rename_i x hx
    obtain ⟨-, h⟩ := Option.ite_none_right_eq_some.1 h
    cases h
    exact hx

/-! ### What the commands change -/

theorem chans_modChan (s : State) (f i : Nat) (g : Chan → Chan) (k : Nat) :
    (s.modChan f i g).chans.get none k = if k = chKey f i then (s.chan f i).map g else s.chans.get none k :=
  SMap.get_set none s.chans (chKey f i) k _

theorem chans_addChannel (s : State) (f i : Nat) (dw : List W32) (k : Nat) :
    (s.addChannel f i dw).chans.get none k = if k = chKey f i then some (chanOf (s.chHandle f i) dw) else s.chans.get none k :=
  SMap.get_set none s.chans (chKey f i) k (some (chanOf (s.chHandle f i) dw))

theorem only_addChannel (s : State) (f i : Nat) (dw : List W32) : Only [.chFreed, .chans, .heat] s (s.addChannel f i dw) :=
  (((Only.refl _ s).onChans (by decide) _).onChFreed (by decide) _).onHeat (by decide) _

/-- The end of a job changes no function and sends nothing. -/
theorem only_endJob (s : State) (j : Nat) : Only [.eights, .jobs, .msh, .progs, .quads, .slices] s (s.endJob j) := by
  unfold State.endJob
  split
  · exact Only.refl _ s
  · extract_lets s1 s2 s3 s4
    have h1 : Only [.eights, .jobs, .msh, .progs, .quads, .slices] s s1 := (only_unplace s j).mono (by decide)
    have h2 : Only [.eights, .jobs, .msh, .progs, .quads, .slices] s s2 := by
      dsimp only [s2]
      split
      · exact h1.modEight (by decide) _ _
      · exact h1.onSlices (by decide) _
      · exact h1
    have h4 : Only [.eights, .jobs, .msh, .progs, .quads, .slices] s s4 :=
      ((h2.onMsh (by decide) _).onJobs (by decide) _).then (only_giveEntries _)
    split
    · unfold State.reapProg
      split
      · exact h4
      · exact h4.ite (h4.onProgs (by decide) _)
    · exact h4

/-- A channel that is removed: its index is free, with the next generation (R96, R107). -/
theorem removeChannel_effect {s : State} {f i : Nat} {c : Chan} (hc : s.chan f i = some c) :
    (s.removeChannel f i).chan f i = none ∧
      (s.removeChannel f i).chGen f i = (if s.chGen f i = 4095 then 1 else s.chGen f i + 1) ∧
      Only [.chFreed, .chans, .eights, .gens, .heat, .jobs, .msh, .progs, .quads, .slices] s (s.removeChannel f i) := by
  refine ⟨chan_removeChannel s f i, ?_⟩
  unfold State.removeChannel
  rw [hc]
  dsimp only
  have h1 : Only [.chFreed, .chans, .eights, .gens, .heat, .jobs, .msh, .progs, .quads, .slices] s
      ((s.jobsOf f i).foldl State.endJob s) := Only.foldl (fun u j h => h.then (only_endJob u j)) _ (Only.refl _ s)
  exact ⟨SMap.get_set_same _ _ _ _,
    ((((h1.onGens (by decide) _).onChFreed (by decide) _).onChans (by decide) _).onMsh (by decide) _).onHeat (by decide) _⟩

/-! ### The commands -/

theorem createChannel_effect {s : State} {f : Nat} {dw : List W32} {i : Nat} (h : AdmReady s f) (ho : admOp dw = 0x01)
    (hr : s.createRefused f dw = none) (hi : s.pickChannel (admTarget f dw) = some i) :
    Answers (exec (.createChannel f dw) s) fun t =>
      t.chan (admTarget f dw) i = some (chanOf (s.chHandle (admTarget f dw) i) dw) ∧
      (∀ k, k ≠ chKey (admTarget f dw) i → t.chans.get none k = s.chans.get none k) ∧
      AdmPosted s t f dw 0 0 (s.chHandle (admTarget f dw) i) 0 0 ∧ Only [.chFreed, .chans, .fns, .heat, .out] s t := by
  have h0 := taken_step s f
  have ha := only_addChannel (s.taken f) (admTarget f dw) i dw
  have hget := chans_addChannel (s.taken f) (admTarget f dw) i dw
  change Answers (execCreateChannel f dw s) _
  refine answers_command h (beq_iff_eq.2 ho) (u := (s.taken f).addChannel (admTarget f dw) i dw)
    (x := { r0 := s.chHandle (admTarget f dw) i }) ?_ (QueueKept.of_only ha f) fun t hp ht => ?_
  · dsimp only
    rw [h0.createRefused, hr, h0.pickChannel, hi]
    dsimp only
    rw [h0.chHandle]
  · have hk (k : Nat) := (congrArg (SMap.get none · k) ht.chans).trans (hget k)
    rw [h0.chHandle] at hk
    exact ⟨(hk _).trans (if_pos rfl), fun k hne => ((hk k).trans (if_neg hne)).trans (congrArg (SMap.get none · k) h0.chans),
      hp, ((h0.only.mono (by decide)).then ha).then ht.only⟩

theorem modifyChannel_effect {s : State} {f : Nat} {dw : List W32} {i : Nat} {c : Chan} (h : AdmReady s f) (ho : admOp dw = 0x03)
    (hr : s.modifyRefused f dw = none) (hc : s.handleCh (admTarget f dw) (dwAt dw 1) = some (i, c)) :
    Answers (exec (.modifyChannel f dw) s) fun t =>
      t.chan (admTarget f dw) i = some (c.modified dw) ∧
      (∀ k, k ≠ chKey (admTarget f dw) i → t.chans.get none k = s.chans.get none k) ∧
      AdmPosted s t f dw 0 0 0 0 0 ∧ Only [.chans, .fns, .out] s t := by
  have h0 := taken_step s f
  have hget := chans_modChan (s.taken f) (admTarget f dw) i fun c => c.modified dw
  have hm : Only [.chans] (s.taken f) ((s.taken f).modChan (admTarget f dw) i fun c => c.modified dw) :=
    (Only.refl _ _).modChan (by decide) _ i _
  change Answers (execModifyChannel f dw s) _
  refine answers_command h (beq_iff_eq.2 ho) (u := (s.taken f).modChan (admTarget f dw) i fun c => c.modified dw)
    (x := {}) ?_ (QueueKept.of_only hm f) fun t hp ht => ?_
  · rw [h0.modifyRefused, hr, h0.handleCh, hc]
  · have hk (k : Nat) := (congrArg (SMap.get none · k) ht.chans).trans (hget k)
    rw [h0.chan, chan_of_handleCh hc] at hk
    exact ⟨(hk _).trans (if_pos rfl), fun k hne => ((hk k).trans (if_neg hne)).trans (congrArg (SMap.get none · k) h0.chans),
      hp, ((h0.only.mono (by decide)).then hm).then ht.only⟩

theorem queryChannel_effect {s : State} {dw : List W32} {i : Nat} {c : Chan} (h : AdmReady s 0) (ho : admOp dw = 0x04)
    (ht : bits (dwAt dw 0) 15 8 = 0) (hr : reserved dw [(1, fullDw)] = false) (hc : s.handleCh 0 (dwAt dw 1) = some (i, c)) :
    Answers (exec (.queryChannel 0 dw) s) fun t =>
      AdmPosted s t 0 dw 0 0 (c.sqHead + 65536 * c.cqTail) (s.queryRes 0 i c).r1 c.completed ∧ Only [.fns, .out] s t := by
  have h0 := taken_step s 0
  change Answers (execQueryChannel 0 dw s) _
  refine answers_command h (beq_iff_eq.2 ho) (u := s.taken 0) (x := s.queryRes 0 i c) ?_ ⟨rfl, rfl, rfl⟩
    fun t hp ht => ⟨hp, h0.only.trans ht.only⟩
  dsimp only
  rw [admTarget_self ht, gate_self _ ht, h0.handleCh, hc, hr, ← h0.queryRes]
  rfl

/-- A function with the spill area that SET_SPILL_AREA describes (R94). -/
def Fn.spillTo (x : Fn) (dw : List W32) : Fn := { x with spillBase := BitVec.ofNat 64 (qwAt dw 2), spillKib := dwAt dw 4 }

theorem setSpillArea_effect {s : State} {dw : List W32} (h : AdmReady s 0) (ho : admOp dw = 0x08)
    (ht : bits (dwAt dw 0) 15 8 = 0) (hr : reserved dw [(2, fullDw), (3, fullDw), (4, fullDw)] = false)
    (hb : baseOk (qwAt dw 2) = true) (hn : (s.nChans * 576 + 1023) / 1024 ≤ (dwAt dw 4).toNat) (hc : s.channelsOf 0 = []) :
    Answers (exec (.setSpillArea 0 dw) s) fun t =>
      (t.fn 0).spillBase = BitVec.ofNat 64 (qwAt dw 2) ∧ (t.fn 0).spillKib = dwAt dw 4 ∧ AdmPosted s t 0 dw 0 0 0 0 0 ∧
      Only [.fns, .out] s t := by
  have h0 := taken_step s 0
  have hfn := (fn_modFn (s.taken 0) 0 0 (Fn.spillTo · dw)).trans (if_pos rfl)
  have hm : Only [.fns] (s.taken 0) ((s.taken 0).modFn 0 (Fn.spillTo · dw)) := (Only.refl _ _).modFn (by decide) 0 _
  change Answers (execSetSpillArea 0 dw s) _
  refine answers_command h (beq_iff_eq.2 ho) (u := (s.taken 0).modFn 0 (Fn.spillTo · dw)) (x := {}) ?_
    ⟨by rw [hfn]; rfl, by rw [hfn]; rfl, hm.same .pcie⟩ fun t hp ht => ⟨?_, ?_, hp, (h0.only.then hm).trans ht.only⟩
  · have hl : decide ((dwAt dw 4).toNat < (s.fnLimit 0 * 576 + 1023) / 1024) = false := decide_eq_false (Nat.not_lt.2 hn)
    dsimp only
    rw [admTarget_self ht, gate_self _ ht, h0.fnLimit, h0.channelsOf, hr, hb, hl, hc]
    rfl
  · rw [ht.spillBase, hfn]
    rfl
  · rw [ht.spillKib, hfn]
    rfl

/-- DESTROY_CHANNEL without ABORT, of a channel that is there (R107). -/
theorem destroyChannel_effect {s : State} {f : Nat} {dw : List W32} {i : Nat} {c : Chan} (h : AdmReady s f) (ho : admOp dw = 0x02)
    (hr : s.destroyRefused f dw = none) (hc : s.handleCh (admTarget f dw) (dwAt dw 1) = some (i, c)) (hb : bit (dwAt dw 2) 0 = false) :
    Answers (exec (.destroyChannel f dw) s) fun t =>
      t.chan (admTarget f dw) i = some { c with state := .destroying false c.errored } ∧ AdmTaken s t f ∧
      (t.fn f).adm.busy = some (.destroyChannel (chKey (admTarget f dw) i) (s.fn f).adm.sqHead (BitVec.ofNat 16 (bits (dwAt dw 0) 31 16))) ∧
      (∀ x a d, OutEvent.admCqe f x a d ∈ t.out → OutEvent.admCqe f x a d ∈ s.out) ∧ Only [.chans, .fns, .out] s t := by
  have h0 := taken_step s f
  have hget := chan_modChan_self (s.taken f) (admTarget f dw) i fun c => { c with state := .destroying false c.errored }
  rw [h0.chan, chan_of_handleCh hc] at hget
  change Answers (execDestroyChannel f dw s) _
  rw [execDestroyChannel, admRun_waits h (beq_iff_eq.2 ho)
    (u := ((s.taken f).modChan (admTarget f dw) i fun c => { c with state := .destroying false c.errored }).modAdm f fun a =>
      { a with busy := some (.destroyChannel (chKey (admTarget f dw) i) (s.fn f).adm.sqHead (cmdIdOf dw)) })
    (by dsimp only; rw [h0.destroyRefused, hr, h0.handleCh, hc]; dsimp only; rw [hb]; rfl)]
  refine .next ⟨hget, ?_, ?_, fun x a d he => admCqe_taken he,
    ((h0.only.mono (by decide)).modChan (by decide) _ i _).modAdm (by decide) f _⟩
  · unfold AdmTaken
    rw [fn_modAdm_self]
    exact admTaken_taken s f
  · rw [fn_modAdm_self]
    rfl

/-- DESTROY_CHANNEL_COMPLETE with no request of the channel left (R107). -/
theorem destroyChannelComplete_effect {s : State} {f i k slot : Nat} {id : BitVec 16} {c : Chan}
    (hb : (s.fn f).adm.busy = some (.destroyChannel k slot id)) (hi : k % 65536 = i) (hc : s.chans.get none k = some c)
    (hr : s.reqsOf (k / 65536) i = []) (hd : s.denies f none ((s.fn f).adm.cqBase.toNat + 32 * (s.fn f).adm.cqTail) 32 true = false) :
    Answers (exec (.destroyChannelComplete f i) s) fun t => t.chans.get none k = none ∧
      t.chGen (k / 65536) i = (if s.chGen (k / 65536) i = 4095 then 1 else s.chGen (k / 65536) i + 1) ∧
      (t.fn f).adm.busy = none ∧ (∃ x : Tlp, OutEvent.admCqe f x ((s.fn f).adm.cqBase.toNat + 32 * (s.fn f).adm.cqTail)
        (admEntry slot id.toNat 0 0 (c.fetched % 4294967296) c.sqHead 0 (s.fn f).adm.sqHead (s.fn f).adm.phase) ∈ t.out) ∧
      Only [.chFreed, .chans, .eights, .fns, .gens, .heat, .jobs, .msh, .out, .progs, .quads, .slices] s t := by
  have hkey : chKey (k / 65536) i = k := by unfold chKey; omega
  have hch : s.chan (k / 65536) i = some c := by unfold State.chan; rw [hkey]; exact hc
  obtain ⟨h1, h2, h3⟩ := removeChannel_effect hch
  change Answers (execDestroyChannelComplete f i s) _
  rw [execDestroyChannelComplete, hb]
  dsimp only
  rw [hc]
  dsimp only
  rw [if_pos ⟨hi, hr⟩]
  generalize s.removeChannel (k / 65536) i = u at h1 h2 h3
  have hk := QueueKept.of_only h3 f
  have he := commandEnds_admFinish u f slot id { r0 := c.fetched % 4294967296, r1 := c.sqHead } (by rw [hk.denies, hk.1]; exact hd)
  have hentry := he.entry
  rw [hk.1] at hentry
  refine .next ⟨?_, (he.toQueueStep.chGen _ _).trans h2, he.busy, hentry, (h3.mono (by decide)).then he.only⟩
  rw [← hkey]
  exact (he.toQueueStep.chan _ _).trans h1

theorem adminReservedOpcode_effect {s : State} {f : Nat} {dw : List W32} (h : AdmReady s f) (ho : admDefined (admOp dw) = false) :
    Answers (exec (.adminReservedOpcode f dw) s) fun t => AdmPosted s t f dw 0x10 0x01 0 0 0 ∧ Only [.fns, .out] s t := by
  change Answers (execAdminReservedOpcode f dw s) _
  exact answers_command h (by rw [ho]; rfl) (u := s.taken f) (x := { st := 0x10, detail := 0x01 }) rfl ⟨rfl, rfl, rfl⟩
    fun t hp ht => ⟨hp, (taken_step s f).only.trans ht.only⟩

/-- Settles O14: one lemma for each command, each by what its body makes of the state in which it runs. Which free index
`pickChannel` gives is log entry 22's. -/
theorem adminChannelCommandsRun : Obligations.AdminChannelCommandsRun := by
  unfold Obligations.AdminChannelCommandsRun
  refine ⟨fun s f dw i h ho hr hi => createChannel_effect h ho hr hi, fun s f dw i c h ho hr hc => modifyChannel_effect h ho hr hc,
    fun s dw i c h ho ht hr hc => queryChannel_effect h ho ht hr hc, fun s dw h ho ht hr hb hn hc => setSpillArea_effect h ho ht hr hb hn hc,
    fun s f dw i c h ho hr hc hb => destroyChannel_effect h ho hr hc hb, fun s f i k slot id c hb hi hc hr hd => ?_,
    fun s f dw h ho => adminReservedOpcode_effect h ho⟩
  obtain ⟨t, ht, h1, h2, h3, h4, h5⟩ := destroyChannelComplete_effect hb hi hc hr hd
  exact ⟨t, ht, h1, h2, h3, h4, h5.mono (by decide)⟩

end Sys2Proof.Machine

/-!
# The admin commands on domains and functions (O15)
-/

namespace Sys2Proof.Machine

-- One declaration after the other: elaborated side by side, the row as one text takes more threads than the check allows.
set_option Elab.async false

/-! ### The domain table -/

theorem dom_onDomains_set (s : State) (d : Nat) (x : Domain) (e : Nat) :
    (s.onDomains (·.set none d (some x))).dom e = if e = d then some x else s.dom e := by
  unfold State.dom
  rw [show (s.onDomains (·.set none d (some x))).domains.get none e = _ from SMap.get_set none s.domains d e (some x)]
  by_cases h : e = d
  · rw [if_pos h, if_pos h]
  · rw [if_neg h, if_neg h]

/-- A change of a domain that exists. -/
theorem dom_modDom {s : State} {d : Nat} {x : Domain} (h : s.dom d = some x) (g : Domain → Domain) (e : Nat) :
    (s.modDom d g).dom e = if e = d then some (g x) else s.dom e := by
  unfold State.modDom
  rw [h]
  exact dom_onDomains_set s d (g x) e

theorem dom_same {s t : State} (h : t.domains = s.domains) (e : Nat) : t.dom e = s.dom e := by
  unfold State.dom
  rw [h]

theorem kslot_same {s t : State} (h : t.kslots = s.kslots) (i : Nat) : t.kslot i = s.kslot i := by
  unfold State.kslot
  rw [h]

theorem only_writeDomTable (s : State) : Only [.store] s s.writeDomTable := by
  unfold State.writeDomTable
  exact ((Only.refl _ s).onStore (by decide) _).ite ((Only.refl _ s).onStore (by decide) _)

theorem only_markDomain (s : State) (d : Nat) (created : Bool) : Only [.heat] s (s.markDomain d created) :=
  (Only.refl _ s).onHeat (by decide) _

/-! ### What the commands' checks read -/

/-- A write at a key that a test does not see leaves what the test finds. -/
theorem any_set_of_false {α : Type} [DecidableEq α] (d : α) {p : Nat × α → Bool} {k : Nat} (hp : ∀ v, p (k, v) = false) (m : SMap α)
    (v : α) : (SMap.set d m k v).any p = m.any p := by
  have herase (m : SMap α) : (SMap.erase m k).any p = m.any p := by
    induction m with
    | nil => rfl
    | cons kv m ih =>
      unfold SMap.erase
      split
      · subst_vars
        rw [ih, List.any_cons, hp, Bool.false_or]
      · rw [List.any_cons, List.any_cons, ih]
  have hinsert (m : SMap α) : (SMap.insert m k v).any p = m.any p := by
    induction m with
    | nil => simp [SMap.insert, hp]
    | cons kv m ih =>
      unfold SMap.insert
      split
      · subst_vars
        rw [List.any_cons, List.any_cons, hp, hp]
      · split
        · rw [List.any_cons, hp, Bool.false_or]
        · rw [List.any_cons, List.any_cons, ih]
  unfold SMap.set
  split
  · exact herase m
  · exact hinsert m

/-- Taking a command of the PF leaves every VF in its domain. -/
theorem assigned_taken (s : State) (d : Nat) : (s.taken 0).assigned d = s.assigned d := by
  have h : (s.askXlat 0 none ((s.fn 0).adm.sqBase.toNat + 64 * (s.fn 0).adm.sqHead) 64).fns = s.fns :=
    ((Only.refl [.out] s).askXlat (by decide) _ _ _ _).same .fns
  rw [← show (s.askXlat 0 none ((s.fn 0).adm.sqBase.toNat + 64 * (s.fn 0).adm.sqHead) 64).assigned d = s.assigned d by
    unfold State.assigned; rw [h]]
  exact any_set_of_false _ (fun _ => rfl) _ _

namespace QueueStep

variable {s t : State}

theorem domains (h : QueueStep s t) : t.domains = s.domains := h.only.same .domains

theorem dom (h : QueueStep s t) (d : Nat) : t.dom d = s.dom d := dom_same h.domains d

theorem kslot (h : QueueStep s t) (i : Nat) : t.kslot i = s.kslot i := kslot_same (h.only.same .kslots) i

theorem nDoms (h : QueueStep s t) : t.nDoms = s.nDoms := by
  unfold State.nDoms
  rw [h.variant]

theorem badDom (h : QueueStep s t) (d : Nat) : t.badDom d = s.badDom d := by
  unfold State.badDom
  rw [h.nDoms]

theorem domIds (h : QueueStep s t) : t.domIds = s.domIds := by
  unfold State.domIds
  rw [h.domains]

end QueueStep

/-! ### Ledger slots of roots (R273, R275, R285, R296) -/

theorem rootSlot_same {s t : State} (h : t.variant = s.variant) (d : Nat) : t.rootSlot d = s.rootSlot d := by
  unfold State.rootSlot State.nSlots State.nDoms
  rw [h]

theorem khandle_same {s t : State} (h1 : t.genBase = s.genBase) (h2 : t.kfrees = s.kfrees) (i : Nat) : t.khandle i = s.khandle i := by
  unfold State.khandle State.kgen
  rw [h1, h2]

/-- The root of a domain other than 0 (R285). -/
theorem kslot_deriveRoot_self {s : State} {d : Nat} {x : Domain} (h : s.dom d = some x) (hd : d ≠ 0) :
    (s.deriveRoot d).kslot (s.rootSlot d) =
      { state := .valid, material := kdf (s.kslot 0).material (ascii "DOMAIN" ++ beBytes 2 d ++ x.salt) 64, alg := 0x18, usage := 0x40,
        attr := 0x0A, life := 0x0F, domain := BitVec.ofNat 12 d, keyLen := 64, run := 1 } := by
  unfold State.deriveRoot
  rw [h]
  dsimp only
  rw [kslot_modKslot, if_pos rfl, if_neg hd]
  rfl

theorem kslot_deriveRoot_other (s : State) {d i : Nat} (h : i ≠ s.rootSlot d) : (s.deriveRoot d).kslot i = s.kslot i := by
  unfold State.deriveRoot
  split
  · rfl
  · rw [kslot_modKslot, if_neg h]

/-- Slots that become retiring, one after the other. -/
theorem kslot_foldl_retiring (l : List Nat) (s : State) (i : Nat) :
    (l.foldl (fun s j => s.modKslot j fun k => { k with state := .retiring }) s).kslot i =
      if i ∈ l then { s.kslot i with state := .retiring } else s.kslot i := by
  induction l generalizing s with
  | nil => rfl
  | cons j l ih =>
    rw [List.foldl_cons, ih, kslot_modKslot]
    by_cases hj : i = j <;> by_cases hl : i ∈ l <;> simp [hj, hl]

theorem mem_runOf_self (s : State) (i : Nat) : i ∈ s.runOf i := by
  unfold State.runOf KSlot.runLen
  refine List.mem_map.2 ⟨0, List.mem_range.2 ?_, rfl⟩
  split <;> omega

theorem only_sweepKeys (s : State) : Only [.eights] s s.sweepKeys := (Contained.sweepKeys s).only

/-- An invalidation: the slot is retiring, and the ledger counts it (R296). -/
theorem retire_effect (s : State) (i : Nat) (w : Option Drain) : ((s.retire i w).kslot i).state = .retiring ∧
    (s.retire i w).klg = { s.klg with invalidations := s.klg.invalidations + 1 } ∧ Only [.eights, .klg, .kslots] s (s.retire i w) := by
  have hk := kslot_foldl_retiring (s.runOf i) s i
  have ho : Only [.kslots] s ((s.runOf i).foldl (fun s j => s.modKslot j fun k => { k with state := .retiring }) s) :=
    Only.foldl (fun _ j h => h.modKslot (by decide) j _) _ (Only.refl _ s)
  unfold State.retire
  generalize (s.runOf i).foldl (fun s j => s.modKslot j fun k => { k with state := .retiring }) s = u at hk ho
  rw [if_pos (mem_runOf_self s i)] at hk
  have hm := kslot_modKslot u i i fun k => { k with drain := w, drained := false }
  have hmo : Only [.kslots] s (u.modKslot i fun k => { k with drain := w, drained := false }) := ho.modKslot (by decide) i _
  dsimp only
  generalize u.modKslot i (fun k => { k with drain := w, drained := false }) = v at hm hmo
  have hs := only_sweepKeys (v.onKlg fun k => { k with invalidations := k.invalidations + 1 })
  refine ⟨?_, ?_, ((hmo.mono (by decide)).onKlg (by decide) _).then hs⟩
  · rw [kslot_same (hs.same .kslots), show (v.onKlg fun k => { k with invalidations := k.invalidations + 1 }).kslot i = v.kslot i from rfl,
      hm, if_pos rfl, hk]
  · rw [show (v.onKlg fun k => { k with invalidations := k.invalidations + 1 }).sweepKeys.klg = _ from hs.same .klg, State.onKlg_klg,
      show v.klg = s.klg from hmo.same .klg]

/-! ### The commands -/

/-- Where no condition holds there is no refusal (R95). -/
theorem firstOf_none {l : List (Bool × Nat × Nat)} (h : ∀ x ∈ l, x.1 = false) : firstOf l = none := by
  unfold firstOf
  rw [List.find?_eq_none.2 fun x hx => by simp [h x hx]]
  rfl

theorem badDom_eq_false {s : State} {d : Nat} (h : s.badDom d = false) : d ≠ 0 ∧ d < s.nDoms := by
  simpa [State.badDom] using h

/-- The state with the record of a new domain `d`, and no quota written for it (R94, R286, R287). -/
def State.domainAdded (s : State) (d : Nat) (salt : List Byte) : State :=
  (s.onDomains (·.set none d (some { salt := salt }))).onKlg fun k => { k with quotaNew := k.quotaNew.set none d none }

theorem dom_domainAdded (s : State) (d : Nat) (salt : List Byte) (e : Nat) :
    (s.domainAdded d salt).dom e = if e = d then some { salt := salt } else s.dom e := dom_onDomains_set s d { salt := salt } e

theorem kslot_domainAdded (s : State) (d : Nat) (salt : List Byte) (i : Nat) : (s.domainAdded d salt).kslot i = s.kslot i := rfl

theorem only_domainAdded (s : State) (d : Nat) (salt : List Byte) : Only [.domains, .klg] s (s.domainAdded d salt) :=
  ((Only.refl _ s).onDomains (by decide) _).onKlg (by decide) _

/-- The state with a new domain `d`: its record, its root and its metering record (R94, R285, R286, R450). -/
def State.domainBorn (s : State) (d : Nat) (salt : List Byte) : State := ((s.domainAdded d salt).deriveRoot d).markDomain d true

theorem domainBorn_effect (s : State) {d : Nat} (hd : d ≠ 0) (salt : List Byte) :
    (∀ e, (s.domainBorn d salt).dom e = if e = d then some { salt := salt } else s.dom e) ∧
      (s.domainBorn d salt).kslot (s.rootSlot d) =
        { state := .valid, material := kdf (s.kslot 0).material (ascii "DOMAIN" ++ beBytes 2 d ++ salt) 64, alg := 0x18, usage := 0x40,
          attr := 0x0A, life := 0x0F, domain := BitVec.ofNat 12 d, keyLen := 64, run := 1 } ∧
      (∀ i, i ≠ s.rootSlot d → (s.domainBorn d salt).kslot i = s.kslot i) ∧
      Only [.domains, .heat, .klg, .kslots] s (s.domainBorn d salt) := by
  have h0 := only_domainAdded s d salt
  have hroot : (s.domainAdded d salt).rootSlot d = s.rootSlot d := rootSlot_same h0.2.1 d
  have h1 := only_deriveRoot (s.domainAdded d salt) d
  have h2 := only_markDomain ((s.domainAdded d salt).deriveRoot d) d true
  have hk (i : Nat) : (s.domainBorn d salt).kslot i = _ := kslot_same (h2.same .kslots) i
  refine ⟨fun e => ?_, ?_, fun i hi => ?_, ((h0.mono (by decide)).then h1).then h2⟩
  · exact (dom_same (h2.same .domains) e).trans ((dom_same (h1.same .domains) e).trans (dom_domainAdded s d salt e))
  · rw [hk, ← hroot, kslot_deriveRoot_self ((dom_domainAdded s d salt d).trans (if_pos rfl)) hd, kslot_domainAdded]
  · rw [hk, kslot_deriveRoot_other _ (by rwa [hroot]), kslot_domainAdded]

theorem createDomain_effect {s : State} {dw : List W32} {d : Nat} {salt : List Byte} (hd : bits (dwAt dw 2) 11 0 = d)
    (hsalt : ((List.range 8).flatMap fun k => leBytes 4 (dwAt dw (k + 4)).toNat) = salt) (h : AdmReady s 0) (ho : admOp dw = 0x10)
    (ht : bits (dwAt dw 0) 15 8 = 0) (hr : reserved dw ((2, 0xFFF) :: (List.range 8).map fun k => (k + 4, fullDw)) = false)
    (hb : s.badDom d = false) (hn : s.domains.get none d = none) : Answers (exec (.createDomain 0 dw) s) fun t =>
      t.dom d = some { salt := salt, weight := 16, quota := 0 } ∧
      t.kslot (s.rootSlot d) = { state := .valid, material := kdf (s.kslot 0).material (ascii "DOMAIN" ++ beBytes 2 d ++ salt) 64,
                                 alg := 0x18, usage := 0x40, attr := 0x0A, life := 0x0F, domain := BitVec.ofNat 12 d, keyLen := 64, run := 1 } ∧
      (∀ e, e ≠ d → t.dom e = s.dom e) ∧ (∀ i, i ≠ s.rootSlot d → t.kslot i = s.kslot i) ∧
      AdmPosted s t 0 dw 0 0 (s.khandle (s.rootSlot d)) 0 0 ∧
      Only [.domains, .fns, .heat, .klg, .kslots, .out, .store] s t := by
  have h0 := taken_step s 0
  have hroot := rootSlot_same h0.variant d
  obtain ⟨h1, h2, h3, h4⟩ := domainBorn_effect (s.taken 0) (badDom_eq_false hb).1 salt
  rw [hroot, h0.kslot] at h2
  rw [hroot] at h3
  have hh : ((s.taken 0).domainBorn d salt).khandle (((s.taken 0).domainBorn d salt).rootSlot d) = s.khandle (s.rootSlot d) := by
    rw [rootSlot_same h4.2.1, hroot, khandle_same (h4.same .genBase) (h4.same .kfrees),
      khandle_same (h0.only.same .genBase) (h0.only.same .kfrees)]
  have h5 := only_writeDomTable ((s.taken 0).domainBorn d salt)
  have h6 := (h4.mono (by decide)).then (l := [.domains, .heat, .klg, .kslots, .store]) h5
  change Answers (execCreateDomain 0 dw s) _
  refine answers_command h (beq_iff_eq.2 ho) (u := ((s.taken 0).domainBorn d salt).writeDomTable)
    (x := { r0 := s.khandle (s.rootSlot d) }) ?_ (QueueKept.of_only h6 0) fun t hp hq => ?_
  · dsimp only
    rw [hd, hsalt, firstOf_none (by simp [hr, h0.badDom, hb, h0.domains, hn, gate_self _ ht]), ← hh]
    rfl
  · have hdom (e : Nat) := (hq.dom e).trans ((dom_same (h5.same .domains) e).trans (h1 e))
    have hks (i : Nat) := (hq.kslot i).trans (kslot_same (h5.same .kslots) i)
    exact ⟨(hdom _).trans (if_pos rfl), (hks _).trans h2, fun e he => ((hdom e).trans (if_neg he)).trans (h0.dom e),
      fun i hi => (hks i).trans ((h3 i hi).trans (h0.kslot i)), hp, ((h0.only.mono (by decide)).then h6).then hq.only⟩

/-- A domain with weight `w`, 0 standing for the default of 16 (R140). -/
def Domain.weighed (x : Domain) (w : Nat) : Domain := { x with weight := if w = 0 then 16 else BitVec.ofNat 8 w }

theorem setDomainWeight_effect {s : State} {dw : List W32} {d w : Nat} {x : Domain} (hd : bits (dwAt dw 2) 11 0 = d)
    (hw : bits (dwAt dw 3) 7 0 = w) (h : AdmReady s 0) (ho : admOp dw = 0x13) (ht : bits (dwAt dw 0) 15 8 = 0)
    (hr : reserved dw [(2, 0xFFF), (3, 0xFF)] = false) (hb : d < s.nDoms) (hi : s.domIds.contains d = true) (hx : s.dom d = some x) :
    Answers (exec (.setDomainWeight 0 dw) s) fun t =>
      t.dom d = some { x with weight := if w = 0 then 16 else BitVec.ofNat 8 w } ∧ (∀ e, e ≠ d → t.dom e = s.dom e) ∧
      AdmPosted s t 0 dw 0 0 0 0 0 ∧ Only [.domains, .fns, .out, .store] s t := by
  have h0 := taken_step s 0
  have h1 : Only [.domains] (s.taken 0) ((s.taken 0).modDom d (Domain.weighed · w)) := (Only.refl _ _).modDom (by decide) d _
  have hmod (e : Nat) := dom_modDom ((h0.dom d).trans hx) (Domain.weighed · w) e
  have h2 := only_writeDomTable ((s.taken 0).modDom d (Domain.weighed · w))
  have h3 := (h1.mono (by decide)).then (l := [.domains, .store]) h2
  change Answers (execSetDomainWeight 0 dw s) _
  refine answers_command h (beq_iff_eq.2 ho) (x := {}) (u := ((s.taken 0).modDom d (Domain.weighed · w)).writeDomTable) ?_
    (QueueKept.of_only h3 0) fun t hp hq => ?_
  · dsimp only
    rw [hd, hw, firstOf_none (by simp [hr, h0.nDoms, hb, h0.domIds, List.contains_iff_mem.1 hi, gate_self _ ht])]
    rfl
  · have hdom (e : Nat) := (hq.dom e).trans ((dom_same (h2.same .domains) e).trans (hmod e))
    exact ⟨(hdom _).trans (if_pos rfl), fun e he => ((hdom e).trans (if_neg he)).trans (h0.dom e), hp,
      ((h0.only.mono (by decide)).then h3).then hq.only⟩

/-- The state with function `v` in domain `d` with channel limit `n`, and DOMAIN_CHG set (R87, R94). -/
def State.assignedTo (s : State) (v d n : Nat) : State :=
  (s.modFn v fun x => { x with domain := some (BitVec.ofNat 12 d), limit := BitVec.ofNat 17 n }).setBit (.fn v) 11

theorem assignedTo_effect (s : State) (v d n : Nat) :
    (∀ g, ∃ p, (s.assignedTo v d n).fn g =
      if g = v then { s.fn v with domain := some (BitVec.ofNat 12 d), limit := BitVec.ofNat 17 n, pba := p }
      else { s.fn g with pba := p }) ∧
      (s.assignedTo v d n).hdr (.fn v) = (s.hdr (.fn v)).raise (1#32 <<< 11) ∧
      Only [.chip, .fns, .hdrs, .out] s (s.assignedTo v d n) := by
  have hfn (g : Nat) := fn_modFn s v g fun x => { x with domain := some (BitVec.ofNat 12 d), limit := BitVec.ofNat 17 n }
  refine ⟨fun g => ?_, (hdr_setBit _ _ _ 11).trans (if_pos rfl), ((Only.refl _ s).modFn (by decide) v _).then (only_setBit _ _ _)⟩
  obtain ⟨p, hp⟩ : ∃ p, (s.assignedTo v d n).fn g = _ := sameFns_setBit _ (.fn v) 11 g
  refine ⟨p, hp.trans ?_⟩
  rw [hfn]
  split <;> rfl

theorem assignFunction_effect {s : State} {dw : List W32} {v d n : Nat} (hv : bits (dwAt dw 0) 15 8 = v) (hd : bits (dwAt dw 2) 11 0 = d)
    (hn : bits (dwAt dw 3) 12 0 = n) (h : AdmReady s 0) (ho : admOp dw = 0x12) (hr : reserved dw [(2, 0x80000FFF), (3, 0x1FFF)] = false)
    (hon : s.vfsOn.contains v = true) (hc : s.channelsOf v = []) (hl : s.tdispLocked v = false) (hu : bit (dwAt dw 2) 31 = false)
    (hb : d < s.nDoms) (hi : s.domIds.contains d = true) (hn1 : 1 ≤ n) (hn2 : n ≤ 4096) :
    Answers (exec (.assignFunction 0 dw) s) fun t =>
      (t.fn v).domain = some (BitVec.ofNat 12 d) ∧ (t.fn v).limit = BitVec.ofNat 17 n ∧
      t.hdr (.fn v) = (s.hdr (.fn v)).raise (1#32 <<< 11) ∧ (∀ g, g ≠ v → (t.fn g).domain = (s.fn g).domain ∧ (t.fn g).limit = (s.fn g).limit) ∧
      AdmPosted s t 0 dw 0 0 0 0 0 ∧ Only [.chip, .fns, .hdrs, .out] s t := by
  have h0 := taken_step s 0
  obtain ⟨h1, h2, h3⟩ := assignedTo_effect (s.taken 0) v d n
  have hpf : QueueKept (s.taken 0) ((s.taken 0).assignedTo v d n) 0 := by
    obtain ⟨p, hp⟩ := h1 0
    rw [if_neg (ne_zero_of_vfsOn hon).symm] at hp
    exact ⟨by rw [hp], by rw [hp], h3.same .pcie⟩
  change Answers (execAssignFunction 0 dw s) _
  refine answers_command h (beq_iff_eq.2 ho) (x := {}) (u := (s.taken 0).assignedTo v d n) ?_ hpf fun t hp hq => ?_
  · dsimp only
    rw [hv, hd, hn, hu, firstOf_none (by
      simp [hr, h0.nDoms, hb, hn2, h0.channelsOf, hc, h0.domIds, List.contains_iff_mem.1 hi, h0.tdispLocked, hl, h0.vfsOn,
        List.contains_iff_mem.1 hon, Nat.one_le_iff_ne_zero.1 hn1])]
    rfl
  · obtain ⟨p, hself⟩ := h1 v
    rw [if_pos rfl] at hself
    refine ⟨?_, ?_, ?_, fun g hg => ?_, hp, ((h0.only.mono (by decide)).then h3).then hq.only⟩
    · rw [hq.domain, hself]
    · rw [hq.limit, hself]
    · rw [hdr_of_hdrs (hq.only.same .hdrs), h2, hdr_of_hdrs (h0.only.same .hdrs)]
    · obtain ⟨p, hother⟩ := h1 g
      rw [if_neg hg] at hother
      rw [hq.domain, hq.limit, hother]
      exact ⟨h0.domain g, h0.limit g⟩

/-- The state with domain `d` ending: its record marked, its root's invalidation begun with who waits for it, no measurement access of
its own, its metering record flagged, and the table written (R94, R241, R287, R296, R450). -/
def State.domainEnding (s : State) (d : Nat) (w : Drain) : State :=
  ((((s.modDom d fun x => { x with ending := true }).retire (s.rootSlot d) (some w)).onMeas fun m =>
    m.mapVals {} fun _ x => { x with acl := aclDrop d x.acl }).markDomain d false).writeDomTable

theorem domainEnding_effect {s : State} {d : Nat} {x : Domain} (hx : s.dom d = some x) (w : Drain) :
    (s.domainEnding d w).dom d = some { x with ending := true } ∧ ((s.domainEnding d w).kslot (s.rootSlot d)).state = .retiring ∧
      (s.domainEnding d w).klg = { s.klg with invalidations := s.klg.invalidations + 1 } ∧
      Only [.domains, .eights, .heat, .klg, .kslots, .meas, .store] s (s.domainEnding d w) := by
  have hdom := (dom_modDom hx (fun x => { x with ending := true }) d).trans (if_pos rfl)
  have h1 : Only [.domains] s (s.modDom d fun x => { x with ending := true }) := (Only.refl _ s).modDom (by decide) d _
  unfold State.domainEnding
  generalize s.modDom d (fun x => { x with ending := true }) = u at hdom h1
  obtain ⟨hret, hklg, h2⟩ := retire_effect u (s.rootSlot d) (some w)
  generalize u.retire (s.rootSlot d) (some w) = v at hret hklg h2
  have h3 : Only [.heat, .meas, .store] v (((v.onMeas fun m => m.mapVals {} fun _ x => { x with acl := aclDrop d x.acl }).markDomain
    d false).writeDomTable) := (((Only.refl _ v).onMeas (by decide) _).then (only_markDomain _ d false)).then (only_writeDomTable _)
  refine ⟨?_, ?_, ?_, ((h1.mono (by decide)).then h2).then h3⟩
  · rw [dom_same (h3.same .domains), dom_same (h2.same .domains), hdom]
  · rw [kslot_same (h3.same .kslots), hret]
  · exact (h3.same .klg).trans (hklg.trans (by rw [show u.klg = s.klg from h1.same .klg]))

theorem destroyDomain_effect {s : State} {dw : List W32} {d : Nat} {x : Domain} (hd : bits (dwAt dw 2) 11 0 = d) (h : AdmReady s 0)
    (ho : admOp dw = 0x11) (ht : bits (dwAt dw 0) 15 8 = 0) (hr : reserved dw [(2, 0xFFF)] = false) (hb : s.badDom d = false)
    (ha : s.assigned d = false) (hi : s.domIds.contains d = true) (hx : s.dom d = some x) :
    Answers (exec (.destroyDomain 0 dw) s) fun t =>
      t.dom d = some { x with ending := true } ∧ (t.kslot (s.rootSlot d)).state = .retiring ∧ AdmTaken s t 0 ∧
      (t.fn 0).adm.busy = some (.destroyDomain d (s.fn 0).adm.sqHead (BitVec.ofNat 16 (bits (dwAt dw 0) 31 16))) ∧
      t.klg.invalidations = s.klg.invalidations + 1 ∧
      (∀ y a e, OutEvent.admCqe 0 y a e ∈ t.out → OutEvent.admCqe 0 y a e ∈ s.out) ∧
      Only [.domains, .eights, .fns, .heat, .klg, .kslots, .meas, .out, .store] s t := by
  have h0 := taken_step s 0
  obtain ⟨h1, h2, h3, h4⟩ := domainEnding_effect ((h0.dom d).trans hx) (.admin 0 (s.fn 0).adm.sqHead (cmdIdOf dw))
  rw [rootSlot_same h0.variant] at h2
  change Answers (execDestroyDomain 0 dw s) _
  rw [execDestroyDomain, admRun_waits h (beq_iff_eq.2 ho)
    (u := ((s.taken 0).domainEnding d (.admin 0 (s.fn 0).adm.sqHead (cmdIdOf dw))).modAdm 0 fun a =>
      { a with busy := some (.destroyDomain d (s.fn 0).adm.sqHead (cmdIdOf dw)) }) (by
    dsimp only
    rw [hd, firstOf_none (by
      simp [hr, h0.badDom, hb, assigned_taken, ha, h0.domIds, List.contains_iff_mem.1 hi, gate_self _ ht])]
    rfl)]
  have hfn := fn_setFields _ _ (h4.same .fns) 0
  generalize (s.taken 0).domainEnding d (.admin 0 (s.fn 0).adm.sqHead (cmdIdOf dw)) = u at h1 h2 h3 h4 hfn
  have hout : u.out = (s.taken 0).out := h4.same .out
  refine .next ⟨h1, h2, ?_, ?_, ?_, fun y a e he => admCqe_taken (hout ▸ he), ((h0.only.mono (by decide)).then h4).modAdm (by decide) 0 _⟩
  · unfold AdmTaken
    rw [fn_modAdm_self, hfn]
    exact admTaken_taken s 0
  · rw [fn_modAdm_self]
    rfl
  · rw [show (u.modAdm 0 _).klg = u.klg from rfl, h3, show (s.taken 0).klg = s.klg from h0.only.same .klg]

/-- Settles O15: one lemma for each command, each by what its body makes of the state in which it runs. -/
theorem adminDomainCommandsRun : Obligations.AdminDomainCommandsRun := by
  unfold Obligations.AdminDomainCommandsRun
  exact ⟨fun s dw h ho ht hr hb hn => createDomain_effect rfl rfl h ho ht hr hb hn,
    fun s dw x h ho ht hr hb hi hx => setDomainWeight_effect rfl rfl h ho ht hr hb hi hx,
    fun s dw h ho hr hon hc hl hu hb hi hn1 hn2 => assignFunction_effect rfl rfl rfl h ho hr hon hc hl hu hb hi hn1 hn2,
    fun s dw x h ho ht hr hb ha hi hx => destroyDomain_effect rfl h ho ht hr hb ha hi hx⟩

end Sys2Proof.Machine

/-!
# How KEY and CTX requests end

A request of a type that runs on no unit (R110): its completion entry whatever job it holds, and what its end leaves of its channel.
-/

namespace Sys2Proof.Machine

-- One declaration after the other: elaborated side by side, the row as one text takes more threads than the check allows.
set_option Elab.async false

/-- The request is of a type that runs on no unit (R110). -/
def Req.Unitless (q : Req) : Prop := q.typ ≠ 1 ∧ q.typ ≠ 2 ∧ q.typ ≠ 3

theorem Req.Unitless.of_key {q : Req} (h : q.typ = 4) : q.Unitless := by unfold Req.Unitless; omega

theorem Req.Unitless.of_ctx {q : Req} (h : q.typ = 5) : q.Unitless := by unfold Req.Unitless; omega

/-! ### What such an end reads of the state -/

theorem resultOf_unitless {q : Req} (h : q.Unitless) (s : State) (x : Fin) : s.resultOf q x = x := by
  obtain ⟨h1, h2, -⟩ := h
  unfold State.resultOf
  split
  · exact absurd ‹_› h1
  · exact absurd ‹_› h2
  · rfl

theorem comparison_unitless {q : Req} (h : q.Unitless) (s : State) : s.comparison q = false := by
  obtain ⟨h1, h2, h3⟩ := h
  unfold State.comparison
  split
  · exact absurd ‹_› h1
  · exact absurd ‹_› h2
  · exact absurd ‹_› h3
  · rfl

theorem cqeDwords_unitless {q : Req} (h : q.Unitless) (s t : State) (x : Fin) : s.cqeDwords q x = t.cqeDwords q x := by
  unfold State.cqeDwords State.authPair
  rw [comparison_unitless h, comparison_unitless h]

theorem closes_unitless {q : Req} (h : q.Unitless) (x : Fin) (c : Chan) : q.closes x c = c.openMsg := by
  obtain ⟨h1, h2, -⟩ := h
  exact if_pos (.inl fun e => e.elim h1 h2)

theorem messageOf_unitless {q : Req} (h : q.Unitless) (s : State) (x : Fin) : s.messageOf q x = q.job := by
  obtain ⟨h1, h2, -⟩ := h
  unfold State.messageOf
  split
  · exact Eq.symm ‹_›
  · exact (if_neg fun e => e.1.elim h1 h2).trans (Eq.symm ‹_›)

/-- The completion of such a request is the same seen from a later state. -/
theorem ReqEnds.of_start {s t u : State} {r : Nat} {q : Req} {c : Chan} {x : Fin} (h : ReqEnds s t r q c x) (hq : q.Unitless) :
    ReqEnds u t r q c x := by
  unfold ReqEnds at h ⊢
  rw [cqeDwords_unitless hq u s]
  exact h

/-- What ends later leaves a completion entry where it is. -/
theorem ReqEnds.work {s t u : State} {r : Nat} {q : Req} {c : Chan} {x : Fin} (h : ReqEnds s t r q c x) (k : WorkDone t u) :
    ReqEnds s u r q c x := by
  obtain ⟨⟨y, hy, hin⟩, hn⟩ := h
  exact ⟨⟨y, hy, k.out hin⟩, (k.reqs r).elim id (·.trans hn)⟩

/-- A request stays live where neither requests nor channels nor translations change. -/
theorem ReqLive.of_only {l : List Field} {s t : State} {r : Nat} {q : Req} {c : Chan} (h : ReqLive s r q c) (k : Only l s t)
    (hl : ∀ f ∈ [Field.reqs, .chans, .pcie, .fns], f ∉ l := by decide) : ReqLive t r q c :=
  h.of_same (k.same .reqs (hl _ (by decide))) (k.same .chans (hl _ (by decide))) (k.same .pcie (hl _ (by decide)))
    (SameFns.of_fns (k.same .fns (hl _ (by decide))))

/-! ### The end itself -/

theorem only_zeroWritten (s : State) (q : Req) (st : Nat) : Only [.out] s (s.zeroWritten q st) := by
  unfold State.zeroWritten
  split
  · exact Only.refl _ s
  · exact ((Only.refl _ s).writeRanges (by decide) _ _ _ _).ite (Only.refl _ s)

/-- The end of a live request up to its completion entry, whatever it has written before. -/
def State.reported (s : State) (q : Req) (x : Fin) : State := (s.zeroWritten q x.st).answered q x

/-- The job of request `q` ends, if it has one. -/
def State.endOwnJob (s : State) (q : Req) : State :=
  match q.job with
  | some j => s.endJob j
  | none => s

theorem endOwnJob_work (s : State) (q : Req) : WorkDone s (s.endOwnJob q) := by
  unfold State.endOwnJob
  split
  · exact WorkDone.endJob _ _
  · exact WorkDone.refl _

theorem only_endOwnJob (s : State) (q : Req) : Only [.eights, .jobs, .msh, .progs, .quads, .slices] s (s.endOwnJob q) := by
  unfold State.endOwnJob
  split
  · exact only_endJob _ _
  · exact Only.refl _ _

/-- The end of a live request that runs on no unit, split at its completion entry. -/
theorem finish1_unitless {s : State} {r : Nat} {q : Req} {c : Chan} (hl : ReqLive s r q c) (hq : q.Unitless) (x : Fin) :
    s.finish1 r x = (((s.reported q x).endOwnJob q).onReqs (·.set none r none)).reapOwn q := by
  obtain ⟨hr, hc, he, -⟩ := hl
  have hg : s.jobGoesOn q x = false := by
    obtain ⟨h1, h2, h3⟩ := hq
    simp [State.jobGoesOn, h1, h2, h3]
  unfold State.finish1 State.endOwnJob
  rw [hr]
  dsimp only
  rw [resultOf_unitless hq, hc]
  dsimp only
  rw [if_neg (by simp [he]), messageOf_unitless hq]
  cases q.job with
  | none => rfl
  | some j => dsimp only; rw [if_neg (by simp [hg])]; rfl

theorem reported_live {s : State} {r : Nat} {q : Req} {c : Chan} (hl : ReqLive s r q c) (hq : q.Unitless) (x : Fin) :
    (∃ y : Tlp, y.pasid = c.tag ∧ OutEvent.cqe q.fn q.ch y (c.cqBase.toNat + 32 * c.cqTail)
      ((s.cqeDwords q x ++ [q.slot, c.sqHead + 2147483648 * b2n c.phase]).map (BitVec.ofNat 32)) ∈ (s.reported q x).out) ∧
      Only bareFields s (s.reported q x) := by
  obtain ⟨h1, h2⟩ := answered_live (s.zeroWritten q x.st) r q c x (hl.of_only (only_zeroWritten s q x.st))
  rw [cqeDwords_unitless hq _ s] at h1
  exact ⟨h1, ((only_zeroWritten s q x.st).mono (by decide)).then h2⟩

/-- A live request that runs on no unit ends as it is told to, with or without a job. -/
theorem finish1_ends_unitless {s : State} {r : Nat} {q : Req} {c : Chan} (hl : ReqLive s r q c) (hq : q.Unitless) (x : Fin) :
    ReqEnds s (s.finish1 r x) r q c x := by
  obtain ⟨⟨y, hy, hin⟩, -⟩ := reported_live hl hq x
  rw [finish1_unitless hl hq]
  have h1 := endOwnJob_work (s.reported q x) q
  have h2 := reapOwn_work (((s.reported q x).endOwnJob q).onReqs (·.set none r none)) q
  refine ⟨⟨y, hy, h2.out (h1.out hin)⟩, ?_⟩
  rcases h2.reqs r with h | h
  · exact h
  · exact h.trans ((req_remove _ r r).trans (if_pos rfl))

/-- The failed members of a chain come after the request itself (R125). -/
theorem finish_after_finish1 (s : State) (r : Nat) (x : Fin) : WorkDone (s.finish1 r x) (s.finish r x) := by
  unfold State.finish
  split
  · have h : s.finish1 r x = s := by unfold State.finish1; rw [‹s.req r = none›]
    rw [h]
    exact WorkDone.refl s
  · extract_lets s1 s2
    split
    · exact WorkDone.refl _
    · exact (WorkDone.foldl (fun t m => WorkDone.finish1 t m _) _ _).trans (WorkDone.foldl WorkDone.endJob _ _)

theorem finish_ends_unitless {s : State} {r : Nat} {q : Req} {c : Chan} (hl : ReqLive s r q c) (hq : q.Unitless) (x : Fin) :
    ReqEnds s (s.finish r x) r q c x := (finish1_ends_unitless hl hq x).work (finish_after_finish1 s r x)

/-! ### What it leaves of the channel -/

/-- The channel `x` has the message, the sequence number and the last saved number of `c` (R123, R151, R152). -/
def Chan.SameMessage (c x : Chan) : Prop := x.openMsg = c.openMsg ∧ x.seq = c.seq ∧ x.lastSaved = c.lastSaved

theorem Chan.SameMessage.refl (c : Chan) : c.SameMessage c := ⟨rfl, rfl, rfl⟩

/-- In `t` a channel stands with what `c` has of its message. -/
def State.KeepsMessage (t : State) (f i : Nat) (c : Chan) : Prop := ∃ x, t.chan f i = some x ∧ c.SameMessage x

theorem chan_same {s t : State} (h : t.chans = s.chans) (f i : Nat) : t.chan f i = s.chan f i := by
  unfold State.chan
  rw [h]

namespace State.KeepsMessage

variable {s t : State} {f i : Nat} {c : Chan}

theorem of_chans (h : s.KeepsMessage f i c) (ht : t.chans = s.chans) : t.KeepsMessage f i c := by
  obtain ⟨x, hx, k⟩ := h
  exact ⟨x, (chan_same ht f i).trans hx, k⟩

theorem modChan (h : s.KeepsMessage f i c) (g : Chan → Chan) (hg : ∀ x : Chan, x.SameMessage (g x)) :
    (s.modChan f i g).KeepsMessage f i c := by
  obtain ⟨x, hx, h1, h2, h3⟩ := h
  obtain ⟨k1, k2, k3⟩ := hg x
  exact ⟨g x, by rw [chan_modChan_self, hx]; rfl, k1.trans h1, k2.trans h2, k3.trans h3⟩

theorem chMessage (h : s.KeepsMessage f i c) : (s.chMessage f i).KeepsMessage f i c := by
  unfold State.chMessage
  split
  · exact h
  · split
    · exact State.KeepsMessage.modChan (h.of_chans (((Only.refl [.out, .fns] s).msix (by decide) (by decide) f _).same .chans)) _
        fun x => ⟨rfl, rfl, rfl⟩
    · exact h

theorem writeCqe (hc : s.chan f i = some c) (he : c.errored = false)
    (hd : s.denies f c.tag (c.cqBase.toNat + 32 * c.cqTail) 32 true = false) (dw : List Nat) (slot : Nat) :
    (s.writeCqe f i dw slot).KeepsMessage f i c := by
  unfold State.writeCqe
  rw [hc]
  dsimp only
  rw [if_neg (by simp [he]), if_neg (by simp [hd])]
  have h0 (e : OutEvent) : ((s.askXlat f c.tag (c.cqBase.toNat + 32 * c.cqTail) 32).emit e).KeepsMessage f i c :=
    State.KeepsMessage.of_chans ⟨c, hc, .refl c⟩
      ((((Only.refl [.out] s).askXlat (by decide) _ _ _ _).emit (by decide) e).same .chans)
  split
  · refine State.KeepsMessage.chMessage ((h0 _).modChan _ fun x => ?_)
    exact ⟨rfl, rfl, rfl⟩
  · refine (h0 _).modChan _ fun x => ?_
    exact ⟨rfl, rfl, rfl⟩

end State.KeepsMessage

theorem only_reapOwn (s : State) (q : Req) : Only [.msh, .progs] s (s.reapOwn q) := by
  unfold State.reapOwn
  refine Only.onMsh (by decide) ?_ _
  split
  · unfold State.reapProg
    split
    · exact Only.refl _ s
    · exact (Only.refl _ s).ite ((Only.refl _ s).onProgs (by decide) _)
  · exact Only.refl _ s

/-- The end of a request that runs on no unit leaves its channel's message as it is (R116, R123). -/
theorem finish1_keepsMessage {s : State} {r : Nat} {q : Req} {c : Chan} (hl : ReqLive s r q c) (hq : q.Unitless) (x : Fin) :
    (s.finish1 r x).KeepsMessage q.fn q.ch c := by
  have h1 : (s.reported q x).KeepsMessage q.fn q.ch c := by
    obtain ⟨-, hc, he, hd⟩ := hl.of_only (only_zeroWritten s q x.st)
    refine State.KeepsMessage.modChan (State.KeepsMessage.writeCqe (s := (s.zeroWritten q x.st).metered q x.st) hc he hd _ _) _ fun y => ?_
    exact ⟨closes_unitless hq x y, rfl, rfl⟩
  rw [finish1_unitless hl hq]
  exact (h1.of_chans ((only_endOwnJob _ q).same .chans)).of_chans ((only_reapOwn (State.onReqs _ _) q).same .chans)

/-- Without a job it changes none. -/
theorem finish1_jobless {s : State} {r : Nat} {q : Req} {c : Chan} (hl : ReqLive s r q c) (hq : q.Unitless) (hj : q.job = none) (x : Fin) :
    Only (.progs :: bareFields) s (s.finish1 r x) := by
  have he : (s.reported q x).endOwnJob q = s.reported q x := by
    unfold State.endOwnJob
    rw [hj]
  rw [finish1_unitless hl hq, he]
  exact (((reported_live hl hq x).2.mono (by decide)).onReqs (by decide) _).then (only_reapOwn _ q)

end Sys2Proof.Machine

/-!
# Messages go to their units (O17)
-/

namespace Sys2Proof.Machine

-- One declaration after the other: elaborated side by side, the row as one text takes more threads than the check allows.
set_option Elab.async false

/-! ### New jobs (R112, R113) -/

/-- A new job stands under the next name, and its request knows it. -/
theorem addJob_effect {s : State} {r : Nat} {q : Req} (hq : s.req r = some q) (b : Job) :
    (s.addJob r b).job s.nextJob = some b ∧ (s.addJob r b).req r = some { q with job := some s.nextJob } ∧
      (s.addJob r b).nextJob = s.nextJob + 1 ∧ Only [.jobs, .nextJob, .reqs] s (s.addJob r b) := by
  refine ⟨SMap.get_set_same none s.jobs s.nextJob (some b), ?_, rfl,
    (((Only.refl _ s).onJobs (by decide) _).onNextJob (by decide) _).modReq (by decide) _ _⟩
  exact ((req_modReq ((s.onJobs _).onNextJob _) r r _).trans (if_pos rfl)).trans (congrArg _ hq)

/-- What of an IV comes from IVT_ADDR, and what from the nonce counter (R112, R172). -/
theorem nonce_choice (l m : List Byte) : (if (!l.isEmpty) = true then l else m) = if l = [] then m else l := by
  cases l <;> rfl

theorem sym_effect {s : State} {r n : Nat} {ivt : List Byte} {q : Req} {p : Prog} (hr : s.req r = some q) (ht : q.typ = 1)
    (ha : q.admitted = true) (hj : q.job = none) (hc : q.cont = false) (hn : q.prog = some n) (hp : s.progs.get none n = some p)
    (hd : q.ivtReads.any (fun x => x.2 != 0 && s.denies q.fn (s.chTag q.fn q.ch) x.1 x.2 false) = false)
    (hl : ctrTooLong p (if q.nonce = [] then ivt.take q.ivLen else q.nonce) q.param.toNat q.inLen = false) :
    Answers (exec (.sym r ivt) s) fun t =>
      (∃ b, t.job s.nextJob = some b ∧ b.kind = .eight ∧ b.req = r ∧ b.prog = n ∧ b.keySlot = q.keySlot ∧ b.partLen = q.inLen ∧
        b.iv = (if q.nonce = [] then ivt.take q.ivLen else q.nonce) ∧ b.done = 0 ∧ b.home = none ∧
        b.pass = (if p.hold = true ∧ 262144 < q.inLen then .tag else .single)) ∧
      t.req r = some { q with job := some s.nextJob } ∧ t.nextJob = s.nextJob + 1 ∧ Only [.jobs, .nextJob, .reqs] s t := by
  have hb : (q.prog.bind fun n => (s.progs.get none n).map fun p => (n, p)) = some (n, p) := by
    rw [hn, Option.bind_some, hp, Option.map_some]
  change Answers (execSym r ivt s) _
  unfold execSym
  rw [hr]
  dsimp only
  rw [if_neg (by simp [ht, ha, hj]), if_neg (by simp [hd]), if_neg (by simp [hc]), hb]
  dsimp only
  rw [nonce_choice, if_neg (by simp [hl])]
  obtain ⟨h1, h2⟩ := addJob_effect hr _
  exact .next ⟨⟨_, h1, rfl, rfl, rfl, rfl, rfl, rfl, rfl, rfl, rfl⟩, h2⟩

theorem startDigest_effect {s : State} {r k : Nat} {q : Req} (hr : s.req r = some q) (ht : q.typ = 2) (hk : q.subop = k)
    (ha : q.admitted = true) (hj : q.job = none) (hc : q.cont = false) :
    (∃ b, (s.startDigest r k).job s.nextJob = some b ∧ b.kind = .quad ∧ b.req = r ∧ b.op = q.op ∧ b.subop = k ∧
        b.keySlot = q.keySlot ∧ b.partLen = q.inLen ∧ b.absorbed = [] ∧ b.home = none) ∧
      (s.startDigest r k).req r = some { q with job := some s.nextJob } ∧ (s.startDigest r k).nextJob = s.nextJob + 1 ∧
      Only [.jobs, .nextJob, .reqs] s (s.startDigest r k) := by
  unfold State.startDigest
  rw [hr]
  dsimp only
  rw [if_neg (by simp [ht, hk, ha, hj]), if_neg (by simp [hc])]
  obtain ⟨h1, h2⟩ := addJob_effect hr _
  exact ⟨⟨_, h1, rfl, rfl, rfl, rfl, rfl, rfl, rfl, rfl⟩, h2⟩

theorem digestRequest_effect {s : State} {r k : Nat} {q : Req} (h2 : k ≤ 2) (hr : s.req r = some q) (ht : q.typ = 2) (hk : q.subop = k)
    (ha : q.admitted = true) (hj : q.job = none) (hc : q.cont = false) :
    Answers (exec (if k = 0 then .digest r else if k = 1 then .extend r else .compare r) s) fun t =>
      (∃ b, t.job s.nextJob = some b ∧ b.kind = .quad ∧ b.req = r ∧ b.op = q.op ∧ b.subop = k ∧ b.keySlot = q.keySlot ∧
        b.partLen = q.inLen ∧ b.absorbed = [] ∧ b.home = none) ∧
      t.req r = some { q with job := some s.nextJob } ∧ t.nextJob = s.nextJob + 1 ∧ Only [.jobs, .nextJob, .reqs] s t := by
  have he : exec (if k = 0 then .digest r else if k = 1 then .extend r else .compare r) s = .next (s.startDigest r k) := by
    interval_cases k <;> rfl
  rw [he]
  exact .next (startDigest_effect hr ht hk ha hj hc)

/-! ### The start of a stroke or segment (R133, R137, R138) -/

/-- A job that is ready, may start and finds room on its unit starts there. -/
theorem strokeStart_eq {s : State} {j : Nat} {b : Job} {q : Req} (hj : s.job j = some b) (hq : s.req b.req = some q)
    (hr : s.readyJob j b = true) (hm : s.mayStart b = true) (hh : s.chip.thermalHold = false) (hp : b.poison = false)
    (hu : s.noUnitFor b = false) (hroom : s.hasRoom b = true) (data aad : List Byte) :
    exec (.strokeStart j data aad) s = .next (s.startOn j b q data aad) := by
  change execStrokeStart j data aad s = _
  unfold execStrokeStart
  rw [hj]
  dsimp only
  rw [hq]
  dsimp only
  rw [if_neg (by simp [hr, hh]), if_neg (by simp [hp]), if_neg (by simp [hu]), if_neg (by simp [hroom]), if_neg (by simp [hm])]

theorem only_askRanges (s : State) (q : Req) (rs : List (Nat × Nat)) (off n : Nat) : Only [.out] s (s.askRanges q rs off n) :=
  Only.foldl (fun _ _ h => h.askXlat (by decide) _ _ _ _) _ (Only.refl _ s)

theorem only_askInput (s : State) (b : Job) (q : Req) (n : Nat) : Only [.out] s (s.askInput b q n) := by
  unfold State.askInput
  exact ((only_askRanges s q _ _ _).then (only_askRanges _ q _ _ _)).ite (only_askRanges s q _ _ _)

theorem only_chargeStart (s : State) (b : Job) : Only [.msh] s (s.chargeStart b) :=
  ((Only.refl _ s).onMsh (by decide) _).onMsh (by decide) _

theorem job_same {s t : State} (h : t.jobs = s.jobs) (j : Nat) : t.job j = s.job j := by
  unfold State.job
  rw [h]

/-! ### On an eight -/

theorem slot_same {s t : State} (h : t.eights = s.eights) (e k : Nat) : t.slot e k = s.slot e k := by
  unfold State.slot State.eight
  rw [h]

/-- The stroke slots and the dummy level of an eight are no matter of its key cache (R157). -/
theorem cacheKey_effect (s : State) (e i : Nat) :
    (∀ a k, (s.cacheKey e i).slot a k = s.slot a k) ∧ Only [.eights] s (s.cacheKey e i) := by
  refine ⟨fun a k => ?_, (Only.refl _ s).modEight (by decide) _ _⟩
  unfold State.slot
  rw [show (s.cacheKey e i).eight a = _ from eight_modEight s e a _]
  split
  · subst_vars; rfl
  · rfl

/-- What the key's schedules in the eight leave of the state in which a stroke is loaded. -/
def State.withSchedules (s : State) (e : Nat) (b : Job) : State :=
  match b.keySlot with
  | some i => s.cacheKey e i
  | none => s

theorem withSchedules_effect (s : State) (e : Nat) (b : Job) :
    (∀ a k, (s.withSchedules e b).slot a k = s.slot a k) ∧ Only [.eights] s (s.withSchedules e b) := by
  unfold State.withSchedules
  split
  · exact cacheKey_effect s e _
  · exact ⟨fun _ _ => rfl, Only.refl _ s⟩

theorem eightFor_home {s : State} {b : Job} {e : Nat} (h : b.home = some e) : s.eightFor b = some e := by
  unfold State.eightFor
  rw [h]

/-- A stroke of an eight whose data fits it starts in the lowest free slot (R134, R137, R185). -/
theorem startEight_eq {s : State} {j e k : Nat} {b : Job} {q : Req} {p : Prog} {data aad : List Byte} (hh : b.home = some e)
    (hi : s.inputDenied b q (s.strokeLen b) = false) (hp : s.progs.get none b.prog = some p)
    (hd : b.dataOk q (s.strokeLen b) data aad = true) (hf : findFrom (fun k => (s.slot e k).job.isNone) 8 0 = some k)
    (hl : s.keyLost e b = false) : s.startEight j b q data aad =
      let s1 := (s.askInput b q (s.strokeLen b)).withSchedules e b
      ((s1.chargeStart b).modSlot e k fun _ => s1.loadSlot j b q p (s.strokeLen b) data aad (s.eight e).dummyLevel).modJob j fun b =>
        { b with running := true, faults := [] } := by
  have hpl : s.placeJob j b = s := if_pos (by simp [hh])
  have hf' : findFrom (fun k => ((s.askInput b q (s.strokeLen b)).slot e k).job.isNone) 8 0 = some k := by
    simp only [slot_same ((only_askInput s b q (s.strokeLen b)).same .eights)]
    exact hf
  unfold State.startEight
  rw [hp, eightFor_home hh]
  dsimp only
  rw [if_neg (by simp [hl]), if_neg (by simp [hi]), if_neg (by simp [hd]), hpl, hf']
  rfl

theorem startEight_effect {s : State} {j e k : Nat} {b : Job} {q : Req} {p : Prog} {data aad : List Byte} (hj : s.job j = some b)
    (hh : b.home = some e) (hi : s.inputDenied b q (s.strokeLen b) = false) (hp : s.progs.get none b.prog = some p)
    (hd : b.dataOk q (s.strokeLen b) data aad = true) (hf : findFrom (fun k => (s.slot e k).job.isNone) 8 0 = some k)
    (hl : s.keyLost e b = false) : let t := s.startEight j b q data aad
      (t.slot e k).job = some j ∧ (t.slot e k).inData = data ∧ (t.slot e k).aadData = aad ∧
      (t.slot e k).inLeft = s.strokeLen b ∧ (t.slot e k).regs = coxRegs ∧
      (t.slot e k).dummyLevel = levelFor (s.eight e).dummyLevel (match b.keySlot with
        | some i => (s.kslot i).sca
        | none => 0) ∧
      (∀ n, n ≠ k → t.slot e n = s.slot e n) ∧ t.job j = some { b with running := true, faults := [] } ∧
      Only [.msh, .eights, .jobs, .out] s t := by
  have h0 := only_askInput s b q (s.strokeLen b)
  rw [startEight_eq hh hi hp hd hf hl]
  dsimp only
  generalize s.askInput b q (s.strokeLen b) = s0 at h0
  obtain ⟨hs1, h1⟩ := withSchedules_effect s0 e b
  generalize s0.withSchedules e b = s1 at hs1 h1
  have h2 := only_chargeStart s1 b
  generalize s1.chargeStart b = s2 at h2
  have h02 : Only [.msh, .eights, .jobs, .out] s s2 := ((h0.mono (by decide)).then h1).then h2
  have hslot (n : Nat) := slot_modSlot s2 e k e n fun _ => s1.loadSlot j b q p (s.strokeLen b) data aad (s.eight e).dummyLevel
  have hk : ∀ i, s1.kslot i = s.kslot i := kslot_same ((h1.same .kslots).trans (h0.same .kslots))
  have hself := (hslot k).trans (if_pos rfl)
  have hlevel : (s1.loadSlot j b q p (s.strokeLen b) data aad (s.eight e).dummyLevel).dummyLevel =
      levelFor (s.eight e).dummyLevel (match b.keySlot with
        | some i => (s.kslot i).sca
        | none => 0) := by
    unfold State.loadSlot
    cases b.keySlot with
    | none => rfl
    | some i => exact congrArg (fun x => levelFor _ (KSlot.sca x)) (hk i)
  have hjob : s2.job j = some b := (job_same ((h2.same .jobs).trans ((h1.same .jobs).trans (h0.same .jobs))) j).trans hj
  have hrest (n : Nat) (hn : n ≠ k) : _ = s.slot e n :=
    (hslot n).trans (by rw [if_neg (by simp [hn]), slot_same (h2.same .eights), hs1, slot_same (h0.same .eights)])
  exact ⟨congrArg Slot.job hself, congrArg Slot.inData hself, congrArg Slot.aadData hself, congrArg Slot.inLeft hself,
    congrArg Slot.regs hself, (congrArg Slot.dummyLevel hself).trans hlevel, hrest,
    ((job_modJob _ j j _).trans (if_pos rfl)).trans (congrArg _ hjob), (h02.modSlot (by decide) _ _ _).modJob (by decide) _ _⟩

/-- An eight with a free slot has room for a stroke of a job that is at home there. -/
theorem hasRoom_eight {s : State} {b : Job} {e k : Nat} (hk : b.kind = .eight) (hh : b.home = some e)
    (hf : findFrom (fun k => (s.slot e k).job.isNone) 8 0 = some k) : s.hasRoom b = true := by
  unfold State.hasRoom
  rw [hk, eightFor_home hh]
  dsimp only
  rw [hf]
  simp

/-! ### On a digest cell -/

/-- A digest job for which a cell is free has room. -/
theorem hasRoom_quad {s : State} {b : Job} {c : Nat} (hk : b.kind = .quad) (hc : s.cellFor b = some c) : s.hasRoom b = true := by
  unfold State.hasRoom
  rw [hk, hc]
  simp

/-- A stroke of a digest job starts on the cell that R137 gives it, which is busy from then on. -/
theorem startQuad_effect {s : State} {j c : Nat} {b : Job} {q : Req} {data aad : List Byte} (hj : s.job j = some b)
    (hc : s.cellFor b = some c) (hk : b.first = true → s.keyFailedNow b = false) (hi : s.inputDenied b q (s.strokeLen b) = false)
    (hd : b.dataOk q (s.strokeLen b) data aad = true) : let t := s.startQuad j b q data aad
      (t.quad (c / 4)).busy.getLsbD (c % 4) = true ∧
      (∃ x, t.job j = some x ∧ x.running = true ∧ x.home = some c ∧ x.held = data) ∧ Only [.msh, .quads, .jobs, .out] s t := by
  have h0 := ((only_askInput s b q (s.strokeLen b)).mono (by decide)).then (l := [.msh, .quads, .jobs, .out])
    (only_chargeStart (s.askInput b q (s.strokeLen b)) b)
  have hjob : ((s.askInput b q (s.strokeLen b)).chargeStart b).job j = some b :=
    (job_same (((only_chargeStart _ b).same .jobs).trans ((only_askInput s b q (s.strokeLen b)).same .jobs)) j).trans hj
  have hkf : (b.first && s.keyFailedNow b) = false := by
    cases hb : b.first with
    | false => rfl
    | true => rw [hk hb]; rfl
  dsimp only
  unfold State.startQuad
  rw [hc]
  dsimp only
  rw [if_neg (by simp [hkf]), if_neg (by simp [hi]), if_pos hd]
  generalize (s.askInput b q (s.strokeLen b)).chargeStart b = u at h0 hjob
  have hq := (quad_modQuad u (c / 4) (c / 4) fun x => { x with busy := x.busy ||| (1#4 <<< (c % 4)) }).trans (if_pos rfl)
  refine ⟨(congrArg (fun x : Quad => x.busy.getLsbD (c % 4)) hq).trans ?_,
    ⟨_, ((job_modJob _ j j _).trans (if_pos rfl)).trans (congrArg _ hjob), rfl, rfl, rfl⟩,
    (h0.modQuad (by decide) _ _).modJob (by decide) _ _⟩
  have h4 : c % 4 < 4 := Nat.mod_lt c (by decide)
  simp [h4]

/-! ### On a slice (R252) -/

theorem only_takeEntries (s : State) (j n : Nat) : Only [.chans, .jobs, .msh, .out, .slices] s (s.takeEntries j n) := by
  unfold State.takeEntries
  extract_lets s1 s2
  have h2 : Only [.chans, .jobs, .msh, .out, .slices] s s2 := ((Only.refl _ s).modJob (by decide) _ _).onMsh (by decide) _
  exact (h2.then (only_giveEntries s2)).trans (RoomMade.makeRoom _ j 16).only

/-- Contexts that take entries bind a slice to no other owner (R142, R144). -/
theorem bound_takeEntries (s : State) (j n i : Nat) : ((s.takeEntries j n).slice i).bound = (s.slice i).bound := by
  unfold State.takeEntries
  extract_lets s1 s2
  obtain ⟨x, e⟩ := (RoomMade.makeRoom s2.giveEntries j 16).slices i
  have h : s2.giveEntries.slices = s2.slices := (only_giveEntries s2).same .slices
  rw [e]
  unfold State.slice
  rw [h]
  rfl

theorem only_vacate (s : State) (i : Nat) (keep : Option Nat) : Only [.chans, .jobs, .msh, .out, .slices] s (s.vacate i keep) := by
  unfold State.vacate
  refine Only.modSlice (by decide) (Only.foldl (fun u j hu => ?_) _ (Only.refl _ s)) _ _
  split
  · exact hu.trans (only_takeEntries u j _)
  · exact hu

/-- A slice made ready for a job: bound to the job's domain, it runs the job, in whose frame the state lies. -/
theorem takeSlice_effect (s : State) (i j : Nat) (b : Job) : let t := s.takeSlice i j b
    (t.slice i).running = some j ∧ (t.slice i).busy = true ∧ (t.slice i).bound = some (.domain b.domain) ∧ j ∈ (t.slice i).frames ∧
      Only [.chans, .jobs, .msh, .out, .slices] s t := by
  dsimp only
  unfold State.takeSlice
  extract_lets own s1 s2 key s3
  have hself (u : State) (g : Slice → Slice) : (u.modSlice i g).slice i = g (u.slice i) := (slice_modSlice u i i g).trans (if_pos rfl)
  have h1 : (s1.slice i).bound = some own ∧ Only [.chans, .jobs, .msh, .out, .slices] s s1 := by
    dsimp only [s1]
    split
    · exact ⟨‹_›, Only.refl _ s⟩
    · refine ⟨by rw [hself], ?_⟩
      exact ((only_vacate s i none).then (Contained.wipeSlice _ i).only).modSlice (by decide) _ _
  clear_value s1
  obtain ⟨hb1, ho1⟩ := h1
  have h2 : (s2.slice i).bound = some own ∧ Only [.chans, .jobs, .msh, .out, .slices] s1 s2 := by
    dsimp only [s2]
    split
    · split
      · rw [hself]
        split
        · exact ⟨(bound_takeEntries s1 _ _ i).trans hb1, (only_takeEntries s1 _ _).modSlice (by decide) _ _⟩
        · exact ⟨hb1, (Only.refl _ s1).modSlice (by decide) _ _⟩
      · exact ⟨hb1, Only.refl _ s1⟩
    · exact ⟨hb1, Only.refl _ s1⟩
  clear_value s2
  obtain ⟨hb2, ho2⟩ := h2
  have h3 := hself s2 fun x => { x with frames := x.frames.filter (· != j) ++ [j], running := some j, busy := true, keyArea := key }
  refine ⟨congrArg Slice.running h3, congrArg Slice.busy h3, (congrArg Slice.bound h3).trans hb2, ?_,
    ((ho1.trans ho2).modSlice (by decide) _ _).modJob (by decide) _ _⟩
  rw [show (s3.modJob j _).slice i = _ from h3]
  exact List.mem_append_right _ List.mem_cons_self

theorem startPair_effect {s : State} {i : Nat} {b : Job} (hf : b.fault = false) (hi : s.homeSlice b = some i)
    (hn : (s.slice i).running = none) (j : Nat) : let t := s.startPair j b
    (t.slice i).running = some j ∧ (t.slice i).busy = true ∧ (t.slice i).bound = some (.domain b.domain) ∧ j ∈ (t.slice i).frames ∧
      Only [.chans, .jobs, .msh, .out, .slices] s t := by
  have he : s.startPair j b = (s.chargeStart b).takeSlice i j b := by
    unfold State.startPair
    rw [if_neg (by simp [hf]), hi]
    dsimp only
    rw [hn]
    rfl
  obtain ⟨h1, h2, h3, h4, h5⟩ := takeSlice_effect (s.chargeStart b) i j b
  rw [he]
  exact ⟨h1, h2, h3, h4, ((only_chargeStart s b).mono (by decide)).trans h5⟩

/-- A pair with an idle home slice for a job serves it, and has room. -/
theorem pairRoom {s : State} {i : Nat} {b : Job} (hk : b.kind = .pair) (hi : s.homeSlice b = some i)
    (hn : (s.slice i).running = none) : s.noUnitFor b = false ∧ s.hasRoom b = true := by
  unfold State.hasRoom State.noUnitFor
  rw [hk, hi]
  simp [hn]

theorem startOn_eight {b : Job} (hk : b.kind = .eight) (s : State) (j : Nat) (q : Req) (data aad : List Byte) :
    s.startOn j b q data aad = s.startEight j b q data aad := by
  unfold State.startOn
  rw [hk]

theorem startOn_quad {b : Job} (hk : b.kind = .quad) (s : State) (j : Nat) (q : Req) (data aad : List Byte) :
    s.startOn j b q data aad = s.startQuad j b q data aad := by
  unfold State.startOn
  rw [hk]

theorem startOn_pair {b : Job} (hk : b.kind = .pair) (s : State) (j : Nat) (q : Req) (data aad : List Byte) :
    s.startOn j b q data aad = s.startPair j b := by
  unfold State.startOn
  rw [hk]

/-- Settles O17: SYM and DIGEST by the job that they add, STROKE_START by the unit on which the job starts. -/
theorem messagesGoToTheirUnits : Obligations.MessagesGoToTheirUnits := by
  unfold Obligations.MessagesGoToTheirUnits
  refine ⟨fun s r n ivt q p hr ht ha hj hc hn hp hd hl => sym_effect hr ht ha hj hc hn hp hd hl,
    fun s r k q h2 hr ht hk ha hj hc => digestRequest_effect h2 hr ht hk ha hj hc,
    fun s j e k b q p data aad hj hq hr hm hh hp hk he hu hi hpr hd hf hl => ?_,
    fun s j c b q data aad hj hq hr hm hh hp hk hu hc hkf hi hd => ?_, fun s j i b q hj hq hr hm hh hp hk hf hi hn => ?_⟩
  · rw [strokeStart_eq hj hq hr hm hh hp hu (hasRoom_eight hk he hf), startOn_eight hk]
    exact .next (startEight_effect hj he hi hpr hd hf hl)
  · rw [strokeStart_eq hj hq hr hm hh hp hu (hasRoom_quad hk hc), startOn_quad hk]
    exact .next (startQuad_effect hj hc hkf hi hd)
  · obtain ⟨hu, hroom⟩ := pairRoom hk hi hn
    rw [strokeStart_eq hj hq hr hm hh hp hu hroom, startOn_pair hk]
    exact .next (startPair_effect hf hi hn j)

end Sys2Proof.Machine

/-!
# The requests that create and read keys (O22)
-/

namespace Sys2Proof.Machine

-- One declaration after the other: elaborated side by side, the row as one text takes more threads than the check allows.
set_option Elab.async false

/-- The parts that a KEY request which creates a key can change. -/
def keyFields : List Field := [.klg, .kslots] ++ workFields

/-! ### Creation (R118, R276, R280) -/

/-- Consecutive slots filled one after the other. -/
theorem kslot_fillRun (s : State) (i n : Nat) (f : Nat → KSlot) (k : Nat) :
    ((List.range n).foldl (fun s j => s.modKslot (i + j) fun _ => f j) s).kslot k =
      if i ≤ k ∧ k < i + n then f (k - i) else s.kslot k := by
  induction n with
  | zero => exact (if_neg (by omega)).symm
  | succ n ih =>
    rw [List.range_succ, List.foldl_append, List.foldl_cons, List.foldl_nil, kslot_modKslot, ih]
    by_cases hk : k = i + n
    · subst hk
      simp
    · have : (i ≤ k ∧ k < i + n) ↔ (i ≤ k ∧ k < i + (n + 1)) := by omega
      simp only [hk, if_false, this]

/-- A key that R276 places: its run holds the template's records and the material's parts, and no other slot changes. -/
theorem createKey_placed {s : State} {x : Tmpl} {lo hi n us d p i : Nat} {mat : List Byte} (ha : algInfo x.alg = some (lo, hi, n, us))
    (hp : s.place d n = .ok i) : ∃ u, s.createKey x d p mat = (u, .ok i) ∧
      (∀ j, j < n → u.kslot (i + j) = x.member (BitVec.ofNat 12 d) p n j (x.part mat j)) ∧
      (∀ j, j < i ∨ i + n ≤ j → u.kslot j = s.kslot j) ∧ Only [.klg, .kslots] s u := by
  have hk := kslot_fillRun s i n fun j => x.member (BitVec.ofNat 12 d) p n j (x.part mat j)
  unfold State.createKey
  rw [ha]
  dsimp only
  rw [hp]
  refine ⟨_, rfl, fun j hj => ?_, fun j hj => ?_, Only.onKlg (by decide) ?_ _⟩
  · exact (hk (i + j)).trans (by rw [if_pos (by omega), Nat.add_sub_cancel_left])
  · exact (hk j).trans (if_neg (by omega))
  · exact Only.foldl (fun u j hu => hu.modKslot (by decide) _ _) _ (Only.refl _ s)

/-- A key that R276 refuses: the page says why. -/
theorem createKey_refused {s : State} {x : Tmpl} {lo hi n us d p e : Nat} {mat : List Byte} (ha : algInfo x.alg = some (lo, hi, n, us))
    (hp : s.place d n = .error e) : s.createKey x d p mat = (s.setBit .klg (if e = 0x30 then 12 else 11), .error e) := by
  unfold State.createKey
  rw [ha]
  dsimp only
  rw [hp]

/-- The handle that later members of the chain get changes nothing of a request but the handle that it was given (R118). -/
theorem giveRef_effect (s : State) (q : Req) (h r : Nat) {z : Req} (hr : s.req r = some z) :
    (∃ w, (s.giveRef q h).req r = some { z with result := w }) ∧ Only [.reqs] s (s.giveRef q h) := by
  unfold State.giveRef
  generalize q.chain.drop (q.chainPos + 1) = l
  refine ⟨?_, Only.foldl (fun u m hu => hu.modReq (by decide) _ _) l (Only.refl _ s)⟩
  induction l generalizing s z with
  | nil => exact ⟨z.result, hr⟩
  | cons m l ih =>
    have hm := req_modReq s m r fun x => if chainRef x.key = some q.chainPos then { x with result := BitVec.ofNat 32 h } else x
    have hz : ∃ w, (s.modReq m fun x => if chainRef x.key = some q.chainPos then { x with result := BitVec.ofNat 32 h } else x).req r =
        some { z with result := w } := by
      by_cases e : r = m
      · subst e
        rw [hm, if_pos rfl, hr, Option.map_some]
        split
        · exact ⟨_, rfl⟩
        · exact ⟨z.result, rfl⟩
      · exact ⟨z.result, (hm.trans (if_neg e)).trans hr⟩
    obtain ⟨w, hw⟩ := hz
    obtain ⟨w', hw'⟩ := ih _ hw
    exact ⟨w', hw'⟩

theorem ReqLive.giveRef {s : State} {r : Nat} {q : Req} {c : Chan} (hl : ReqLive s r q c) (h : Nat) :
    ∃ w, ReqLive (s.giveRef q h) r { q with result := w } c := by
  obtain ⟨hr, hc, he, hd⟩ := hl
  obtain ⟨⟨w, hw⟩, ho⟩ := giveRef_effect s q h r hr
  refine ⟨w, hw, (chan_same (ho.same .chans) q.fn q.ch).trans hc, he, ?_⟩
  unfold State.denies at hd ⊢
  rw [fn_setFields s _ (ho.same .fns), ho.same .pcie]
  exact hd

/-- A live KEY request whose template names an algorithm makes its key, or ends with the refusal of R276. -/
theorem makeKey_effect {s : State} {r : Nat} {q : Req} {c : Chan} (hl : ReqLive s r q c) (ht : q.typ = 4) {x : Tmpl}
    (ha : (algInfo x.alg).isSome = true) (d p : Nat) (mat : List Byte) :
    KeyMade s (s.makeKey r q x d p mat) r q c x d p mat ∧ Only keyFields s (s.makeKey r q x d p mat) := by
  have hq := Req.Unitless.of_key ht
  obtain ⟨⟨lo, hi, n, us⟩, ha⟩ := Option.isSome_iff_exists.1 ha
  unfold KeyMade
  rw [ha]
  dsimp only
  cases hp : s.place d n with
  | ok i =>
    obtain ⟨u, hu, hin, hout, ho⟩ := createKey_placed (p := p) (mat := mat) ha hp
    have hm : s.makeKey r q x d p mat = (u.giveRef q (s.khandle i)).finish r { st := 0, r0 := s.khandle i } := by
      unfold State.makeKey
      rw [hu]
      dsimp only
      rw [khandle_same (ho.same .genBase) (ho.same .kfrees)]
    have hlu : ReqLive u r q c := hl.of_only ho
    obtain ⟨w, hlw⟩ := hlu.giveRef (s.khandle i)
    have ho1 := (giveRef_effect u q (s.khandle i) r hlu.1).2
    rw [hm]
    generalize u.giveRef q (s.khandle i) = v at hlw ho1
    have hw := WorkDone.finish v r { st := 0, r0 := s.khandle i }
    have hk (j : Nat) : (v.finish r { st := 0, r0 := s.khandle i }).kslot j = u.kslot j :=
      (kslot_same (hw.only.same .kslots) j).trans (kslot_same (ho1.same .kslots) j)
    refine ⟨⟨fun j hj => (hk _).trans (hin j hj), fun j hj => (hk _).trans (hout j hj), ?_⟩,
      ((ho.mono (by decide)).then ho1).then hw.only⟩
    exact (show ReqEnds v _ r q c _ from finish_ends_unitless hlw hq { st := 0, r0 := s.khandle i }).of_start hq
  | error e =>
    have hm : s.makeKey r q x d p mat = (s.setBit .klg (if e = 0x30 then 12 else 11)).finish r { st := 0x12, detail := e } := by
      unfold State.makeKey
      rw [createKey_refused ha hp]
    have ho := only_setBit s .klg (if e = 0x30 then 12 else 11)
    have hlu := hl.of_same (ho.same .reqs) (ho.same .chans) (ho.same .pcie) (sameFns_setBit s .klg (if e = 0x30 then 12 else 11))
    rw [hm]
    generalize s.setBit .klg (if e = 0x30 then 12 else 11) = v at hlu ho
    have hw := WorkDone.finish v r { st := 0x12, detail := e }
    exact ⟨⟨(hw.only.same .kslots).trans (ho.same .kslots), (finish_ends_unitless hlu hq { st := 0x12, detail := e }).of_start hq⟩,
      (ho.mono (by decide)).then hw.only⟩

theorem algInfo_of_tmplOk {s : State} {x : Tmpl} {p : Nat} (h : s.tmplOk x p = true) : (algInfo x.alg).isSome = true := by
  unfold State.tmplOk at h
  cases ha : algInfo x.alg with
  | none => simp [ha] at h
  | some y => rfl

theorem algInfo_of_payloadOk {s : State} {p : Nat} {b : List Byte} (h : s.payloadOk p b = true) :
    (algInfo (Tmpl.ofBytes b).alg).isSome = true := by
  unfold State.payloadOk at h
  simp only [Bool.and_eq_true] at h
  obtain ⟨⟨ht, -⟩, -⟩ := h
  exact algInfo_of_tmplOk ht

/-! ### The requests -/

theorem keyReq_live {s : State} {r sub : Nat} {q : Req} (hr : s.req r = some q) (ht : q.typ = 4) (hs : q.subop = sub)
    (ha : q.admitted = true) : s.keyReq r sub = some q := by
  unfold State.keyReq
  rw [hr]
  exact if_pos ⟨ht, hs, ha⟩

theorem keyDerive_effect {s : State} {r p : Nat} {data : List Byte} {q : Req} {c : Chan} (hl : ReqLive s r q c) (ht : q.typ = 4)
    (hs : q.subop = 1) (ha : q.admitted = true) (hp : q.keySlot = some p) (hd : s.keyDenied q false = false)
    (hn : data.length = q.inLen) (hr : algRsa (Tmpl.ofBytes data).alg = false) (ho : s.tmplOk (Tmpl.ofBytes data) p = true) :
    Answers (exec (.keyDerive r data) s) fun t =>
      KeyMade s t r q c (Tmpl.ofBytes data) (s.kslot p).domain.toNat p (deriveMat (s.keyBytes p) (Tmpl.ofBytes data) data) ∧
      Only keyFields s t := by
  change Answers (execKeyDerive r data s) _
  unfold execKeyDerive
  rw [keyReq_live hl.1 ht hs ha]
  dsimp only
  rw [hp]
  dsimp only
  rw [if_neg (by simp [hd]), if_neg (not_not_intro hn), if_neg (by simp [hr, ho])]
  exact .next (makeKey_effect hl ht (algInfo_of_tmplOk ho) _ _ _)

theorem keyWrite_effect {s : State} {r : Nat} {data : List Byte} {q : Req} {c : Chan} (hl : ReqLive s r q c) (ht : q.typ = 4)
    (hs : q.subop = 2) (ha : q.admitted = true) (hd : s.keyDenied q false = false) (hn : data.length = q.inLen)
    (hi : s.domIds.contains (bits q.op 11 0) = true) (ho : s.payloadOk (s.rootSlot (bits q.op 11 0)) data = true) :
    Answers (exec (.keyWrite r data) s) fun t =>
      KeyMade s t r q c (Tmpl.ofBytes data) (bits q.op 11 0) (s.rootSlot (bits q.op 11 0)) (data.drop 24) ∧ Only keyFields s t := by
  change Answers (execKeyWrite r data s) _
  unfold execKeyWrite
  rw [keyReq_live hl.1 ht hs ha]
  dsimp only
  rw [if_neg (by simp [hd]), if_neg (not_not_intro hn), if_neg (not_not_intro hi), if_neg (by simp [ho])]
  exact .next (makeKey_effect hl ht (algInfo_of_payloadOk ho) _ _ _)

/-- The slice time of a decapsulation is charged to a domain and changes nothing else (R139, R293). -/
theorem chargeImport_eq (s : State) (q : Req) (ns : Nat) : ∃ g, s.chargeImport q ns = s.onMsh g := by
  unfold State.chargeImport
  split
  · exact ⟨id, rfl⟩
  · exact ⟨_, rfl⟩

theorem depth_onMsh (s : State) (g : Msh → Msh) (i : Nat) : (s.onMsh g).depth i = s.depth i := by
  have h (n i : Nat) : (s.onMsh g).ancestorsF n i = s.ancestorsF n i := by
    induction n generalizing i with
    | zero => rfl
    | succ n ih =>
      unfold State.ancestorsF
      rw [ih]
      rfl
  unfold State.depth State.ancestors
  rw [h]
  rfl

theorem payloadOk_onMsh (s : State) (g : Msh → Msh) (p : Nat) (b : List Byte) : (s.onMsh g).payloadOk p b = s.payloadOk p b := by
  unfold State.payloadOk State.tmplOk
  rw [depth_onMsh]
  rfl

theorem place_onMsh (s : State) (g : Msh → Msh) (d n : Nat) : (s.onMsh g).place d n = s.place d n := by
  have hk : (s.onMsh g).kslot = s.kslot := rfl
  have hg : (s.onMsh g).general = s.general := rfl
  have hq : (s.onMsh g).quotaOf d = s.quotaOf d := rfl
  have hu : (s.onMsh g).domUsed d = s.domUsed d := rfl
  have hn : (s.onMsh g).nSlots = s.nSlots := rfl
  have hd : (s.onMsh g).nDoms = s.nDoms := rfl
  have h1 : (s.onMsh g).pickSlot = s.pickSlot := by unfold State.pickSlot; rw [hk, hg, hn, hd, State.onMsh_klg]
  have h2 : (s.onMsh g).pickRun n = s.pickRun n := by unfold State.pickRun; rw [hk, hn, hd]
  unfold State.place
  rw [hq, hu, h1, h2]

/-- Where a key is placed, and with which handle, is no matter of the Marshal. -/
theorem KeyMade.of_onMsh {s t : State} {g : Msh → Msh} {r : Nat} {q : Req} {c : Chan} {x : Tmpl} {d p : Nat} {mat : List Byte}
    (h : KeyMade (s.onMsh g) t r q c x d p mat) (hq : q.Unitless) : KeyMade s t r q c x d p mat := by
  unfold KeyMade at h ⊢
  simp only [place_onMsh] at h
  split at h
  · exact h
  · split at h
    · obtain ⟨h1, h2, h3⟩ := h
      exact ⟨h1, h2, h3.of_start hq⟩
    · obtain ⟨h1, h2⟩ := h
      exact ⟨h1, h2.of_start hq⟩

theorem keyImport_effect {s : State} {r ns p : Nat} {data : List Byte} {q : Req} {c : Chan} (hl : ReqLive s r q c) (ht : q.typ = 4)
    (hs : q.subop = 0) (ha : q.admitted = true) (hd : s.keyDenied q false = false) (hf : blobFormatBad q data = false)
    (hdom : leAt data 8 2 = q.domain) (hdev : cut data 0x10 32 = List.replicate 32 0 ∨ cut data 0x10 32 = s.deviceId)
    (hsl : q.keySlot = none → s.noSlice = false) (hp : p = q.keySlot.getD (s.rootSlot q.domain)) :
    Answers (exec (.keyImport r data ns) s) fun t =>
      (match s.openBlob q data with
        | none => ReqEnds s t r q c { st := 0x40, detail := 0x13 }
        | some x =>
          if s.payloadOk p x then KeyMade s t r q c (Tmpl.ofBytes x) (s.kslot p).domain.toNat p (x.drop 24)
          else ReqEnds s t r q c { st := 0x32 }) ∧ Only keyFields s t := by
  have hq := Req.Unitless.of_key ht
  obtain ⟨g, hg⟩ := chargeImport_eq s q ns
  have hu : Only keyFields s (s.onMsh g) := (Only.refl _ s).onMsh (by decide) g
  have hlu : ReqLive (s.onMsh g) r q c := hl
  change Answers (execKeyImport r data ns s) _
  unfold execKeyImport
  rw [keyReq_live hl.1 ht hs ha]
  dsimp only
  rw [if_neg (by simp [hd]), if_neg (by simp [hf]), if_neg (not_not_intro hdom), if_neg (fun e => hdev.elim e.1 e.2),
    if_neg (fun e => by simp [hsl e.1] at e), ← hp, hg]
  have hfail (x : Fin) : ReqEnds s ((s.onMsh g).finish r x) r q c x ∧ Only keyFields s ((s.onMsh g).finish r x) :=
    ⟨(finish_ends_unitless hlu hq x).of_start hq, hu.then (WorkDone.finish _ r x).only⟩
  cases s.openBlob q data with
  | none => exact .next (hfail _)
  | some b =>
    dsimp only
    rw [payloadOk_onMsh]
    cases hb : s.payloadOk p b with
    | false => exact .next (hfail _)
    | true =>
      obtain ⟨h1, h2⟩ := makeKey_effect hlu ht (algInfo_of_payloadOk hb) (s.kslot p).domain.toNat p (b.drop 24)
      exact .next ⟨h1.of_onMsh hq, hu.then h2⟩

/-! ### The record of a key (R277, R292) -/

theorem length_queryRecord (s : State) (i : Nat) : (s.queryRecord i).length = 32 := by
  unfold State.queryRecord State.kmeta
  simp [length_leBytes]

/-- Output that fits one range and overlaps no input is written there, with the attributes of the channel (R33, R104). -/
theorem writeOut_single {s : State} {q : Req} {c : Chan} {a n : Nat} {data : List Byte} (hc : s.chan q.fn q.ch = some c)
    (ho : q.outR = [(a, n)]) (hclash : q.outClash = false) (hn : data.length = n) (hpos : n ≠ 0) :
    (∃ y : Tlp, y.pasid = c.tag ∧ OutEvent.dma q.fn y a data ∈ (s.writeOut q 0 data).out) ∧ Only [.out] s (s.writeOut q 0 data) := by
  have hcut : cutRanges [(a, n)] 0 n = [(a, n)] := by
    unfold cutRanges
    rw [if_neg (by omega), if_neg hpos]
    simp [cutRanges]
  have hw : s.writeOut q 0 data = s.dmaWrite q.fn (s.outTlp q) a data := by
    unfold State.writeOut State.putOut State.orFree
    rw [hclash, if_neg Bool.false_ne_true, ho, hn, hcut]
    unfold State.writeRanges
    rw [if_neg hpos, List.take_of_length_le (by omega)]
    rfl
  rw [hw]
  exact ⟨⟨s.outTlp q, by simp [State.outTlp, State.tlp, State.chTag, hc], List.mem_append_right _ List.mem_cons_self⟩,
    (Only.refl _ s).dmaWrite (by decide) _ _ _ _⟩

theorem keyQuery_effect {s : State} {r i a : Nat} {q : Req} {c : Chan} (hl : ReqLive s r q c) (ht : q.typ = 4) (hs : q.subop = 4)
    (ha : q.admitted = true) (hi : q.keySlot = some i) (hb : q.Bare) (ho : q.outR = [(a, 32)]) (hclash : q.outClash = false)
    (hd : s.keyDenied q true = false) : Answers (exec (.keyQuery r) s) fun t =>
      (∃ y : Tlp, y.pasid = c.tag ∧ OutEvent.dma q.fn y a (s.queryRecord i) ∈ t.out) ∧
      ReqEnds s t r q c { st := 0, r0 := if q.key = 0 then s.khandle i else q.handleOf.toNat } ∧ Only bareFields s t := by
  have hq := Req.Unitless.of_key ht
  obtain ⟨hj, hp⟩ := hb
  obtain ⟨⟨y, hy, hin⟩, hu⟩ := writeOut_single (s := s) (data := s.queryRecord i) hl.2.1 ho hclash (length_queryRecord s i) (by decide)
  change Answers (execKeyQuery r s) _
  unfold execKeyQuery
  rw [keyReq_live hl.1 ht hs ha]
  dsimp only
  rw [hi]
  dsimp only
  rw [if_neg (by simp [hd])]
  have hlu := hl.of_only hu
  generalize s.writeOut q 0 (s.queryRecord i) = u at hin hu hlu
  rw [finish_of_ok u r _ (Nat.zero_le 1)]
  obtain ⟨h1, h2⟩ := finish1_bare u r q c { st := 0, r0 := if q.key = 0 then s.khandle i else q.handleOf.toNat } hlu hj hp hq.1 hq.2.1
  exact .next ⟨⟨y, hy, (WorkDone.finish1 u r _).out hin⟩, h1.of_start hq, (hu.mono (by decide)).then h2⟩

/-- Settles O22: the creating requests by what `makeKey` leaves (`makeKey_effect`), QUERY by its record. Which place `State.place` gives
is log entry 22's. -/
theorem keysAreCreatedAndRead : Obligations.KeysAreCreatedAndRead := by
  unfold Obligations.KeysAreCreatedAndRead
  refine ⟨fun s r p data q c hl ht hs ha hp hd hn hr ho => ?_, fun s r data q c hl ht hs ha hd hn hi ho => ?_,
    fun s r ns p data q c hl ht hs ha hd hf hdom hdev hsl hp => ?_, fun s r i a q c => keyQuery_effect⟩
  · obtain ⟨t, he, h1, h2⟩ := keyDerive_effect hl ht hs ha hp hd hn hr ho
    exact ⟨t, he, h1, h2.mono (by decide)⟩
  · obtain ⟨t, he, h1, h2⟩ := keyWrite_effect hl ht hs ha hd hn hi ho
    exact ⟨t, he, h1, h2.mono (by decide)⟩
  · obtain ⟨t, he, h1, h2⟩ := keyImport_effect hl ht hs ha hd hf hdom hdev hsl hp
    exact ⟨t, he, h1, h2.mono (by decide)⟩

end Sys2Proof.Machine

/-!
# Counterexample: a drain that a request of another type waits for (O23)
-/

namespace Sys2Proof.Machine

-- One declaration after the other: elaborated side by side, the row as one text takes more threads than the check allows.
set_option Elab.async false

/-- A DIGEST request whose KEY_HANDLE holds 0x100. -/
def digestOfDrain : Req := { fn := 0, ch := 0, slot := 0, dwords := [2, 0x100], chain := [0], admitted := true }

/-- The channel on which it stands. -/
def chanOfDrain : Chan := { handle := 0x100000 }

/-- Slot 256 is retiring, and its drain record names that request. -/
def digestWaitsForDrain : State :=
  { aod := { onCell := false }
    chans := [(0, some chanOfDrain)]
    reqs := [(0, some digestOfDrain)]
    kslots := [(256, { state := .retiring, drain := some (.request 0) })] }

/-- The completion entry that O23 promises: OK, and the handle in RESULT0. -/
def entryWithHandle : List W32 :=
  (digestWaitsForDrain.cqeDwords digestOfDrain { st := 0, r0 := digestOfDrain.handleOf.toNat } ++
    [digestOfDrain.slot, chanOfDrain.sqHead + 2147483648 * b2n chanOfDrain.phase]).map (BitVec.ofNat 32)

/-- The event is a completion entry with these dwords. -/
def OutEvent.isEntry (e : OutEvent) (dw : List W32) : Bool :=
  match e with
  | .cqe _ _ _ _ d => d == dw
  | _ => false

theorem isEntry_cqe (f i a : Nat) (y : Tlp) (dw : List W32) : (OutEvent.cqe f i y a dw).isEntry dw = true := beq_self_eq_true dw

set_option maxRecDepth 10000 in
/-- The entry that is written is another: RESULT0 of DIGEST is 0 but for an EXTEND (R129). -/
theorem drainDone_digestWaitsForDrain :
    leavesTest (exec (.invalidationDrainDone 256) digestWaitsForDrain) (fun t => !t.out.any (·.isEntry entryWithHandle)) = true := by
  decide

/-- Refutes O23: the clause on INVALIDATION_DRAIN_DONE does not say that the request which waits is a KEY request; a DIGEST request
in its place completes with RESULT0 = 0 and not with its handle. -/
theorem not_keysAreInvalidated : ¬ Obligations.KeysAreInvalidated := by
  unfold Obligations.KeysAreInvalidated
  rintro ⟨-, -, h, -⟩
  have hl : ReqLive digestWaitsForDrain 0 digestOfDrain chanOfDrain := ⟨rfl, by decide, rfl, by decide⟩
  obtain ⟨t, ⟨-, -, ⟨⟨y, -, hin⟩, -⟩, -⟩, hno⟩ :=
    (h digestWaitsForDrain 0 256 digestOfDrain chanOfDrain hl ⟨rfl, rfl⟩ rfl rfl rfl rfl rfl).leavesTest drainDone_digestWaitsForDrain
  have hentry : OutEvent.cqe 0 0 y _ entryWithHandle ∈ t.out := hin
  have hany : t.out.any (·.isEntry entryWithHandle) = true := List.any_eq_true.2 ⟨_, hentry, isEntry_cqe _ _ _ _ _⟩
  rw [hany] at hno
  cases hno

end Sys2Proof.Machine

/-!
# Contexts are saved, restored and discarded (O24)
-/

namespace Sys2Proof.Machine

-- One declaration after the other: elaborated side by side, the row as one text takes more threads than the check allows.
set_option Elab.async false

/-! ### The channel while its message comes and goes -/

/-- The channel with another message, sequence number and last saved number (R123, R151, R152). -/
def Chan.withMessage (c : Chan) (o : Option OpenMsg) (n : Nat) (l : Option Nat) : Chan := { c with openMsg := o, seq := n, lastSaved := l }

/-- A request stays live while its channel's message changes. -/
theorem ReqLive.withMessage {s t : State} {r : Nat} {q : Req} {c : Chan} {o : Option OpenMsg} {n : Nat} {l : Option Nat}
    (h : ReqLive s r q c) (hr : t.reqs = s.reqs) (hf : t.fns = s.fns) (hp : t.pcie = s.pcie)
    (hc : t.chan q.fn q.ch = some (c.withMessage o n l)) : ReqLive t r q (c.withMessage o n l) := by
  obtain ⟨h1, -, h3, h4⟩ := h
  refine ⟨?_, hc, h3, ?_⟩
  · unfold State.req at h1 ⊢; rw [hr]; exact h1
  · unfold State.denies at h4 ⊢; rw [fn_setFields s t hf, hp]; exact h4

/-- Its completion entry goes where it would have gone before. -/
theorem ReqEnds.of_withMessage {s t u : State} {r : Nat} {q : Req} {c : Chan} {o : Option OpenMsg} {n : Nat} {l : Option Nat} {x : Fin}
    (h : ReqEnds u t r q (c.withMessage o n l) x) (hq : q.Unitless) : ReqEnds s t r q c x :=
  (show ReqEnds u t r q c x from h).of_start hq

/-- The sealing counter and the saved contexts are no matter of what ends (R150, R152). -/
theorem WorkDone.msh_saved {s t : State} (h : WorkDone s t) : t.msh.saved = s.msh.saved ∧ t.msh.blobCtr = s.msh.blobCtr := by
  obtain ⟨_, _, _, _, _, _, e⟩ := h.msh
  rw [e]
  exact ⟨rfl, rfl⟩

/-- A job that has left the chip does not come back. -/
theorem WorkDone.job_none {s t : State} (h : WorkDone s t) {j : Nat} (hj : s.job j = none) : t.job j = none := by
  rcases h.jobs j with e | ⟨b, x, y, hb, -⟩
  · exact e
  · rw [hj] at hb; cases hb

/-- The channel's message closes: its job leaves the chip, and of the channel nothing else changes. -/
theorem closeMsg_effect {s : State} {q : Req} {c : Chan} (hc : s.chan q.fn q.ch = some c) (j : Nat) :
    (s.closeMsg q j).chan q.fn q.ch = some (c.withMessage none c.seq c.lastSaved) ∧ (s.closeMsg q j).job j = none ∧
      WorkDone s (s.closeMsg q j) ∧ Only [.chans, .eights, .jobs, .msh, .progs, .quads, .slices] s (s.closeMsg q j) := by
  have h1 : (s.modChan q.fn q.ch fun c => { c with openMsg := none }).chan q.fn q.ch = some (c.withMessage none c.seq c.lastSaved) := by
    rw [chan_modChan_self, hc]
    rfl
  have ho := only_endJob (s.modChan q.fn q.ch fun c => { c with openMsg := none }) j
  unfold State.closeMsg
  exact ⟨(chan_same (ho.same .chans) _ _).trans h1, job_endJob _ j, (WorkDone.modChan s _ _ _).trans (WorkDone.endJob _ j),
    ((Only.refl _ s).modChan (by decide) _ _ _).then ho⟩

/-! ### The requests -/

theorem ctxReq_live {s : State} {r sub : Nat} {q : Req} (hr : s.req r = some q) (ht : q.typ = 5) (hs : q.subop = sub)
    (ha : q.admitted = true) : s.ctxReq r sub = some q := by
  unfold State.ctxReq
  rw [hr]
  exact if_pos ⟨ht, hs, ha⟩

theorem openOf_chan {s : State} {q : Req} {c : Chan} (hc : s.chan q.fn q.ch = some c) : s.openOf q = c.openMsg := by
  unfold State.openOf
  rw [hc]
  rfl

theorem only_writeOut (s : State) (q : Req) (off : Nat) (data : List Byte) : Only [.freeCtr, .out] s (s.writeOut q off data) := by
  unfold State.writeOut State.putOut
  exact ((Only.refl _ s).writeRanges (by decide) _ _ _ _).spend (by decide) _

/-- The parts that a CTX request which closes a message can change. -/
def closeFields : List Field := [.chans, .eights, .fns, .heat, .jobs, .msh, .out, .progs, .quads, .reqs, .slices]

/-- The end of a CTX request that has closed its channel's message: the channel with its numbers, no message, no job. -/
theorem finish_closed {s : State} {r j : Nat} {q : Req} {c : Chan} (hl : ReqLive s r q c) (ht : q.typ = 5) (hj : q.job = none) (x : Fin)
    (hx : x.st = 0) : let t := (s.closeMsg q j).finish r x
    (∃ y, t.chan q.fn q.ch = some y ∧ y.openMsg = none ∧ y.seq = c.seq ∧ y.lastSaved = c.lastSaved) ∧ t.job j = none ∧
      t.msh.saved = s.msh.saved ∧ t.msh.blobCtr = s.msh.blobCtr ∧ s.out ⊆ t.out ∧ ReqEnds s t r q c x ∧ Only closeFields s t := by
  have hq := Req.Unitless.of_ctx ht
  obtain ⟨hc, hjob, hw, ho⟩ := closeMsg_effect hl.2.1 j
  have hlu := hl.withMessage (ho.same .reqs) (ho.same .fns) (ho.same .pcie) hc
  dsimp only
  generalize s.closeMsg q j = u at hjob hw ho hlu
  rw [finish_of_ok u r x (by omega)]
  have hw1 := WorkDone.finish1 u r x
  obtain ⟨y, hy, h1, h2, h3⟩ := finish1_keepsMessage hlu hq x
  exact ⟨⟨y, hy, h1, h2, h3⟩, hw1.job_none hjob, (hw.trans hw1).msh_saved.1, (hw.trans hw1).msh_saved.2, (hw.trans hw1).out,
    (finish1_ends_unitless hlu hq x).of_withMessage hq, (ho.mono (by decide)).then (finish1_jobless hlu hq hj x)⟩

theorem ctxDiscard_effect {s : State} {r : Nat} {q : Req} {c : Chan} {m : OpenMsg} (hl : ReqLive s r q c) (ht : q.typ = 5)
    (hs : q.subop = 2) (ha : q.admitted = true) (hj : q.job = none) (hm : c.openMsg = some m) (hlost : m.lost = none) :
    Answers (exec (.ctxDiscard r) s) fun t =>
      (∃ x, t.chan q.fn q.ch = some x ∧ x.openMsg = none ∧ x.seq = c.seq ∧ x.lastSaved = c.lastSaved) ∧ t.job m.job = none ∧
      t.msh.saved = s.msh.saved ∧ t.msh.blobCtr = s.msh.blobCtr ∧ ReqEnds s t r q c { st := 0 } ∧ Only closeFields s t := by
  change Answers (execCtxDiscard r s) _
  unfold execCtxDiscard
  rw [ctxReq_live hl.1 ht hs ha]
  dsimp only
  rw [openOf_chan hl.2.1, hm]
  dsimp only
  rw [if_neg (by simp [hlost])]
  obtain ⟨h1, h2, h3, h4, -, h5, h6⟩ := finish_closed (j := m.job) hl ht hj { st := 0 } rfl
  exact .next ⟨h1, h2, h3, h4, h5, h6⟩

theorem ctxDiscard_nothing {s : State} {r : Nat} {q : Req} {c : Chan} (hl : ReqLive s r q c) (ht : q.typ = 5) (hs : q.subop = 2)
    (ha : q.admitted = true) (hb : q.Bare) (hm : c.openMsg = none) :
    Answers (exec (.ctxDiscard r) s) fun t => ReqEnds s t r q c { st := 0 } ∧ Only bareFields s t := by
  have hq := Req.Unitless.of_ctx ht
  change Answers (execCtxDiscard r s) _
  unfold execCtxDiscard
  rw [ctxReq_live hl.1 ht hs ha]
  dsimp only
  rw [openOf_chan hl.2.1, hm]
  dsimp only
  rw [finish_of_ok s r _ (Nat.zero_le 1)]
  exact .next (finish1_bare s r q c _ hl hb.1 hb.2 hq.1 hq.2.1)

/-- What a SAVE does before it closes the message: the blob is written, the context kept, and both numbers advance (R150, R152). -/
def State.savedAs (s : State) (q : Req) (b : Job) (blob : List Byte) : State :=
  ((s.writeOut q 0 blob).onMsh fun x =>
    { x with blobCtr := s.msh.blobCtr + 1, saved := x.saved.set none (chKey q.fn q.ch) (some b) }).modChan q.fn q.ch fun c =>
      { c with seq := c.seq + 1, lastSaved := some c.seq }

theorem savedAs_effect {s : State} {r : Nat} {q : Req} {c : Chan} (hl : ReqLive s r q c) (b : Job) (blob : List Byte) :
    ReqLive (s.savedAs q b blob) r q (c.withMessage c.openMsg (c.seq + 1) (some c.seq)) ∧
      (s.savedAs q b blob).msh.saved.get none (chKey q.fn q.ch) = some b ∧ (s.savedAs q b blob).msh.blobCtr = s.msh.blobCtr + 1 ∧
      (s.savedAs q b blob).out = (s.writeOut q 0 blob).out ∧ Only [.chans, .freeCtr, .msh, .out] s (s.savedAs q b blob) := by
  have ho := only_writeOut s q 0 blob
  have ho2 : Only [.chans, .freeCtr, .msh, .out] s (s.savedAs q b blob) :=
    ((ho.mono (by decide)).onMsh (by decide) _).modChan (by decide) _ _ _
  have hc : (s.savedAs q b blob).chan q.fn q.ch = some (c.withMessage c.openMsg (c.seq + 1) (some c.seq)) := by
    unfold State.savedAs
    rw [chan_modChan_self]
    exact congrArg _ ((chan_same (ho.same .chans) q.fn q.ch).trans hl.2.1)
  exact ⟨hl.withMessage (ho2.same .reqs) (ho2.same .fns) (ho2.same .pcie) hc,
    SMap.get_set_same none (s.writeOut q 0 blob).msh.saved (chKey q.fn q.ch) (some b), rfl, rfl, ho2⟩

theorem ctxSave_effect {s : State} {r : Nat} {q : Req} {c : Chan} {m : OpenMsg} {b : Job} (hl : ReqLive s r q c) (ht : q.typ = 5)
    (hs : q.subop = 0) (ha : q.admitted = true) (hj : q.job = none) (hm : c.openMsg = some m) (hb : s.job m.job = some b)
    (hd : s.rangesDenied q q.outR 0 (s.sealBlob b c.handle 0 1 (s.msh.blobCtr + 1) c.seq true true).length true = false) :
    Answers (exec (.ctxSave r) s) fun t =>
      (∀ e, e ∈ (s.writeOut q 0 (s.sealBlob b c.handle 0 1 (s.msh.blobCtr + 1) c.seq true true)).out → e ∈ t.out) ∧
      (∃ x, t.chan q.fn q.ch = some x ∧ x.openMsg = none ∧ x.seq = c.seq + 1 ∧ x.lastSaved = some c.seq) ∧
      t.msh.saved.get none (chKey q.fn q.ch) = some b ∧ t.msh.blobCtr = s.msh.blobCtr + 1 ∧ t.job m.job = none ∧
      ReqEnds s t r q c { st := 0, r0 := c.seq % 4294967296 } ∧ Only (.freeCtr :: closeFields) s t := by
  have hq := Req.Unitless.of_ctx ht
  have hopen := openOf_chan hl.2.1
  rw [hm] at hopen
  have hjob : s.openJob q = some b := by
    unfold State.openJob
    rw [hopen]
    exact hb
  change Answers (execCtxSave r s) _
  unfold execCtxSave
  rw [ctxReq_live hl.1 ht hs ha]
  dsimp only
  rw [hl.2.1, hjob, hopen]
  dsimp only
  rw [if_neg (by simp [hd])]
  obtain ⟨hlu, hsaved, hctr, hout, ho⟩ := savedAs_effect hl b (s.sealBlob b c.handle 0 1 (s.msh.blobCtr + 1) c.seq true true)
  obtain ⟨h1, h2, h3, h4, h5, h6, h7⟩ := finish_closed (j := m.job) hlu ht hj { st := 0, r0 := c.seq % 4294967296 } rfl
  refine .next ⟨fun e he => h5 (hout ▸ he), h1, ?_, h4.trans hctr, h2, h6.of_withMessage hq, (ho.mono (by decide)).then h7⟩
  exact (congrArg (SMap.get none · _) h3).trans hsaved

/-! ### RESTORE -/

/-- Contexts that give way advance sequence numbers of channels and change nothing else of them (R151). -/
def SeqOnly (s t : State) : Prop := ∀ f i c, s.chan f i = some c → ∃ n, t.chan f i = some { c with seq := n }

namespace SeqOnly

variable {s t u : State}

theorem of_chans (h : t.chans = s.chans) : SeqOnly s t := fun f i c hc => ⟨c.seq, (chan_same h f i).trans hc⟩

theorem trans (h : SeqOnly s t) (k : SeqOnly t u) : SeqOnly s u := fun f i c hc => by
  obtain ⟨n, hn⟩ := h f i c hc
  obtain ⟨m, hm⟩ := k f i _ hn
  exact ⟨m, hm⟩

theorem foldl {α : Type} {g : State → α → State} (h : ∀ t x, SeqOnly t (g t x)) (l : List α) (s : State) : SeqOnly s (l.foldl g s) := by
  induction l generalizing s with
  | nil => exact of_chans rfl
  | cons x l ih => exact (h s x).trans (ih (g s x))

theorem nextSeq (s : State) (f i : Nat) : SeqOnly s (s.modChan f i fun c => { c with seq := c.seq + 1 }) := fun a b c hc => by
  have h := SMap.get_set none s.chans (chKey f i) (chKey a b) ((s.chan f i).map fun c => { c with seq := c.seq + 1 })
  unfold State.chan at hc ⊢
  by_cases e : chKey a b = chKey f i
  · rw [if_pos e] at h
    rw [e] at hc
    exact ⟨c.seq + 1, h.trans (by unfold State.chan; rw [hc]; rfl)⟩
  · rw [if_neg e] at h
    exact ⟨c.seq, h.trans hc⟩

theorem spillPart (s : State) (j : Nat) (b : Job) (c : Chan) (n seq part : Nat) : SeqOnly s (s.spillPart j b c n seq part) := by
  have h : Only [.jobs, .msh, .out] s (s.spillPart j b c n seq part) := by
    unfold State.spillPart
    split
    · exact Only.refl _ s
    · exact (((Only.refl _ s).onMsh (by decide) _).dmaWrite (by decide) _ _ _ _).modJob (by decide) _ _
  exact of_chans (h.same .chans)

theorem spill (s : State) (j : Nat) : SeqOnly s (s.spill j) := by
  unfold State.spill
  split
  · exact of_chans rfl
  · split
    · exact of_chans rfl
    · extract_lets s1 s2
      have h2 : SeqOnly s s2 := (foldl (fun t p => spillPart t _ _ _ _ _ p) _ s).trans (nextSeq _ _ _)
      split
      · exact h2
      · exact h2

theorem makeRoom (s : State) (j n : Nat) : SeqOnly s (s.makeRoom j n) := by
  induction n generalizing s with
  | zero => exact of_chans rfl
  | succ n ih =>
    unfold State.makeRoom
    split
    · exact of_chans rfl
    · split
      · exact (spill s _).trans (ih _)
      · exact of_chans rfl

theorem takeEntries (s : State) (j n : Nat) : SeqOnly s (s.takeEntries j n) := by
  unfold State.takeEntries
  extract_lets s1 s2
  have h2 : SeqOnly s s2 := of_chans rfl
  exact (h2.trans (of_chans ((only_giveEntries s2).same .chans))).trans (makeRoom _ _ _)

end SeqOnly

theorem saved_takeEntries (s : State) (j n : Nat) : (s.takeEntries j n).msh.saved = s.msh.saved := by
  unfold State.takeEntries
  extract_lets s1 s2
  obtain ⟨_, _, _, e⟩ := (RoomMade.makeRoom s2.giveEntries j 16).msh
  rw [e]
  exact (WorkDone.giveEntries s2).msh_saved.1

/-- The message of a saved context open again as a new job, before that job takes its cache entry (R151, R152). -/
def State.reopened (s : State) (r : Nat) (q : Req) (b : Job) : State :=
  (((s.onJobs (·.set none s.nextJob (some { s.restored b with req := r }))).onNextJob (· + 1)).modChan q.fn q.ch fun c =>
    { c with lastSaved := none, openMsg := some { job := s.nextJob, digest := b.kind == .quad } }).onMsh fun x =>
      { x with saved := x.saved.set none (chKey q.fn q.ch) none }

theorem reopened_effect {s : State} {q : Req} {c : Chan} (hc : s.chan q.fn q.ch = some c) (r : Nat) (b : Job) :
    (s.reopened r q b).job s.nextJob = some { s.restored b with req := r } ∧
      (s.reopened r q b).chan q.fn q.ch = some (c.withMessage (some { job := s.nextJob, digest := b.kind == .quad }) c.seq none) ∧
      (s.reopened r q b).msh.saved.get none (chKey q.fn q.ch) = none ∧ Only [.chans, .jobs, .msh, .nextJob] s (s.reopened r q b) := by
  refine ⟨SMap.get_set_same none s.jobs s.nextJob (some { s.restored b with req := r }), ?_,
    SMap.get_set_same none s.msh.saved (chKey q.fn q.ch) none,
    ((((Only.refl _ s).onJobs (by decide) _).onNextJob (by decide) _).modChan (by decide) _ _ _).onMsh (by decide) _⟩
  exact (chan_modChan_self ((s.onJobs _).onNextJob (· + 1)) q.fn q.ch _).trans (congrArg _ hc)

/-- A context that returns whole: its job, its channel, and the request's end (R151, R152). -/
theorem restored_ends {s : State} {r : Nat} {q : Req} {c : Chan} (hl : ReqLive s r q c) (ht : q.typ = 5) (hj : q.job = none) (b : Job)
    (n : Nat) : let t := ((s.reopened r q b).takeEntries s.nextJob 1).finish r { st := 0, r0 := n }
    (∃ x, t.job s.nextJob = some x ∧ x.kind = b.kind ∧ x.req = r ∧ x.ctx = b.ctx ∧ x.absorbed = b.absorbed ∧ x.done = b.done ∧
      x.version = b.version ∧ x.keySlot = b.keySlot ∧ x.running = false) ∧
    (∃ x, t.chan q.fn q.ch = some x ∧ x.openMsg = some { job := s.nextJob, digest := b.kind == .quad } ∧ x.lastSaved = none) ∧
    t.msh.saved.get none (chKey q.fn q.ch) = none ∧ ReqEnds s t r q c { st := 0, r0 := n } ∧ Only (.nextJob :: workFields) s t := by
  have hq := Req.Unitless.of_ctx ht
  obtain ⟨h1, h2, h3, ho⟩ := reopened_effect hl.2.1 r b
  generalize s.reopened r q b = u at h1 h2 h3 ho
  obtain ⟨⟨rs, hjob, -⟩, ho2, -, -, -⟩ := takeEntries_effect u s.nextJob 1 _ h1
  obtain ⟨k, hc⟩ := SeqOnly.takeEntries u s.nextJob 1 _ _ _ h2
  have hsaved := saved_takeEntries u s.nextJob 1
  generalize u.takeEntries s.nextJob 1 = v at hjob ho2 hc hsaved
  have hc : v.chan q.fn q.ch = some (c.withMessage (some { job := s.nextJob, digest := b.kind == .quad }) k none) := hc
  have hlv := hl.withMessage ((ho2.same .reqs).trans (ho.same .reqs)) ((ho2.same .fns).trans (ho.same .fns))
    ((ho2.same .pcie).trans (ho.same .pcie)) hc
  dsimp only
  rw [finish_of_ok v r _ (Nat.zero_le 1)]
  have hw := WorkDone.finish1 v r { st := 0, r0 := n }
  have hf := finish1_jobless hlv hq hj { st := 0, r0 := n }
  obtain ⟨y, hy, k1, -, k3⟩ := finish1_keepsMessage hlv hq { st := 0, r0 := n }
  have hends := finish1_ends_unitless hlv hq { st := 0, r0 := n }
  generalize v.finish1 r { st := 0, r0 := n } = t at hw hf hy hends
  unfold State.job at hjob
  rw [← show t.jobs = v.jobs from hf.same .jobs] at hjob
  refine ⟨⟨_, hjob, rfl, rfl, rfl, rfl, rfl, rfl, rfl, rfl⟩, ⟨y, hy, k1, k3⟩, ?_, hends.of_withMessage hq,
    ((ho.mono (by decide)).trans (ho2.mono (by decide))).trans (hf.mono (by decide))⟩
  rw [hw.msh_saved.1, hsaved]
  exact h3

theorem ctxRestore_effect {s : State} {r : Nat} {data : List Byte} {q : Req} {c : Chan} {b : Job} (hl : ReqLive s r q c)
    (ht : q.typ = 5) (hs : q.subop = 1) (ha : q.admitted = true) (hj : q.job = none)
    (hb : s.msh.saved.get none (chKey q.fn q.ch) = some b) (hv : b.kind = .eight → (s.versionSlot b).isSome = true)
    (hd : s.rangesDenied q q.inR 0 q.inLen false = false) : Answers (exec (.ctxRestore r data) s) fun t =>
      let st := s.checkBlob data true q.fn q.domain c.handle c.lastSaved none
      (if st = 0 then
        (∃ x, t.job s.nextJob = some x ∧ x.kind = b.kind ∧ x.req = r ∧ x.ctx = b.ctx ∧ x.absorbed = b.absorbed ∧ x.done = b.done ∧
          x.version = b.version ∧ x.keySlot = b.keySlot ∧ x.running = false) ∧
        (∃ x, t.chan q.fn q.ch = some x ∧ x.openMsg = some { job := s.nextJob, digest := b.kind == .quad } ∧ x.lastSaved = none) ∧
        t.msh.saved.get none (chKey q.fn q.ch) = none ∧ ReqEnds s t r q c { st := 0, r0 := leAt data 0x18 4 }
      else t.msh.saved = s.msh.saved ∧ t.nextJob = s.nextJob ∧
        ReqEnds s t r q c { st := st, detail := if st = 0x10 then 0x21 else 0 }) ∧ Only (.nextJob :: workFields) s t := by
  have hq := Req.Unitless.of_ctx ht
  change Answers (execCtxRestore r data s) _
  unfold execCtxRestore
  rw [ctxReq_live hl.1 ht hs ha]
  dsimp only
  rw [hl.2.1]
  dsimp only
  rw [if_neg (by simp [hd])]
  generalize s.checkBlob data true q.fn q.domain c.handle c.lastSaved none = st
  have hfail (x : Fin) : (s.finish r x).msh.saved = s.msh.saved ∧ (s.finish r x).nextJob = s.nextJob ∧ ReqEnds s (s.finish r x) r q c x ∧
      Only (.nextJob :: workFields) s (s.finish r x) :=
    have hw := WorkDone.finish s r x
    ⟨hw.msh_saved.1, hw.only.same .nextJob, finish_ends_unitless hl hq x, hw.only.mono (by decide)⟩
  by_cases h10 : st = 0x10
  · obtain ⟨h1, h2, h3, h4⟩ := hfail { st := st, detail := 0x21 }
    rw [if_pos h10]
    refine .next ⟨?_, h4⟩
    rw [if_neg (by omega), if_pos h10]
    exact ⟨h1, h2, h3⟩
  rw [if_neg h10, if_neg h10]
  by_cases h0 : st = 0
  · rw [if_neg (not_not_intro h0), hb]
    dsimp only
    rw [if_neg fun e => by simpa [Option.isNone_iff_eq_none.1 e.2] using hv e.1]
    obtain ⟨h1, h2, h3, h4, h5⟩ := restored_ends hl ht hj b (leAt data 0x18 4)
    refine .next ⟨?_, h5⟩
    rw [if_pos h0]
    exact ⟨h1, h2, h3, h4⟩
  · obtain ⟨h1, h2, h3, h4⟩ := hfail { st := st }
    rw [if_pos h0]
    refine .next ⟨?_, h4⟩
    rw [if_neg h0]
    exact ⟨h1, h2, h3⟩

/-- Settles O24: SAVE and DISCARD by what closing a message leaves (`finish_closed`), RESTORE by what opening it again does
(`restored_ends`). -/
theorem contextsAreSavedAndRestored : Obligations.ContextsAreSavedAndRestored := by
  unfold Obligations.ContextsAreSavedAndRestored
  refine ⟨fun s r q c m b hl ht hs ha hj hm hb hd => ?_, fun s r data q c b hl ht hs ha hj hb hv hd => ?_,
    fun s r q c m hl ht hs ha hj hm hlost => ?_, fun s r q c hl ht hs ha hb hm => ctxDiscard_nothing hl ht hs ha hb hm⟩
  · obtain ⟨t, he, h1, h2, h3, h4, h5, h6, h7⟩ := ctxSave_effect hl ht hs ha hj hm hb hd
    exact ⟨t, he, h1, h2, h3, h4, h5, h6, h7.mono (by decide)⟩
  · obtain ⟨t, he, h1, h2⟩ := ctxRestore_effect (data := data) hl ht hs ha hj hb hv hd
    exact ⟨t, he, h1, h2.mono (by decide)⟩
  · obtain ⟨t, he, h1, h2, h3, h4, h5, h6⟩ := ctxDiscard_effect hl ht hs ha hj hm hlost
    exact ⟨t, he, h1, h2, h3, h4, h5, h6.mono (by decide)⟩

end Sys2Proof.Machine

/-!
# ENC, DEC, GFMUL, TCMP, FENCE and END (R185, R195, R196, R198, R204)
-/

namespace Sys2Proof.Machine

-- One declaration after the other: elaborated side by side, the row as one text takes more threads than the check allows.
set_option Elab.async false

/-! ### An instruction that begins -/

/-- An instruction that nothing stops before it begins, and whose meaning leaves `d` and goes on in sequence. -/
theorem runBody_seq {s d u : State} {op : Nat} {r : OpInfo} {i : At} {f : Body} (he : s.early op r i = none)
    (hf : f i (s.count1 i.c) = .ok (d, .seq)) (hc : d.wdg.consec ≤ s.wdg.consec) (hg : d.goNext i = .ok u) :
    s.runBody op r i f = .ok u := by
  unfold State.runBody
  rw [he, hf]
  dsimp only
  rw [if_neg (Nat.not_lt.2 hc), hg]

/-- The same where the meaning has itself set where control goes. -/
theorem runBody_set {s d : State} {op : Nat} {r : OpInfo} {i : At} {f : Body} (he : s.early op r i = none)
    (hf : f i (s.count1 i.c) = .ok (d, .set)) : s.runBody op r i f = .ok d := by
  unfold State.runBody
  rw [he, hf]
  exact ite_self _

theorem exec_begun {op : Nat} {mk : Core → Enc → Instr} {f : Body} (hm : (op, mk) ∈ traernOps) (hf : bodyOf op = some f)
    {s s1 u : State} {c : Core} {x : Enc} {r : OpInfo} (hb : Begins s s1 c op r x) (hr : s1.runBody op r (s1.atNow c r x) f = .ok u) :
    exec (mk c x) s = .next (u.breakCheck c) := by
  obtain ⟨hl, ho, hd, -, hs⟩ := hb
  rw [exec_traern hm hf c x s (.inr hs)]
  unfold State.traern
  rw [if_neg (by rw [hl]; decide), ho]
  dsimp only
  rw [hd]
  dsimp only
  rw [hr]

/-- An opcode whose meaning does what `P` says, and goes on in sequence, completes. -/
theorem completes_of_body {op : Nat} {mk : Core → Enc → Instr} {f : Body} {P : At → State → State → Prop} (hm : (op, mk) ∈ traernOps)
    (hf : bodyOf op = some f) (h : ∀ i a d, P i a d → f i a = .ok (d, .seq)) : Completes op P mk := by
  rintro s s1 d t c x r hb hp ⟨hc, u, hg, rfl⟩
  exact exec_begun hm hf hb (runBody_seq hb.2.2.2.1 (h _ _ _ hp) hc hg)

/-! ### The elements of a source -/

/-- A fold over one more element is its step after the fold. -/
theorem foldlM_concat {α β : Type} {g : α → β → Except Trap α} {l : List β} {x : β} {a d t : α} (h : l.foldlM g a = .ok d)
    (hx : g d x = .ok t) : (l ++ [x]).foldlM g a = .ok t := by
  rw [List.foldlM_append, h]
  exact (bind_pure _).trans hx

theorem readAll_of_readsAll {c : Core} {l : Loc} {n : Nat} {a d : State} {b : Nat → Word} (h : ReadsAll c l n a b d) :
    a.readAll c l n = .ok ((List.range n).map b, d) := by
  obtain ⟨w, rfl, rfl, h⟩ := h
  unfold State.readAll
  induction n with
  | zero => rfl
  | succ n ih =>
    have hn : State.readNext c l ((List.range n).map b, w n) n = .ok ((List.range n).map b ++ [b n], w (n + 1)) := by
      unfold State.readNext
      rw [h n (Nat.lt_succ_self n)]
    rw [List.range_succ, List.map_append]
    exact foldlM_concat (ih fun k hk => h k (Nat.lt_succ_of_lt hk)) hn

/-- Results left pending: one for each element, for the destination words in turn. -/
theorem pendRes_map (s : State) (c : Core) (bank p n : Nat) (g : Nat → Word) : s.pendRes c bank p ((List.range n).map g) =
    s.modRegs c fun q => { q with res := q.res ++ (List.range n).map fun k => { bank := bank, addr := (p + k) % 262144, val := g k } } := by
  have h : ((List.range n).map g).zipIdx = (List.range n).map fun k => (g k, k) :=
    List.ext_getElem (by simp) fun k _ _ => by simp
  unfold State.pendRes
  rw [h, List.map_map]
  rfl

/-! ### The keys of a slot -/

/-- Every slot has the keys that it had. -/
def SameKeys (s t : State) : Prop := ∀ e k, (t.slot e k).k0 = (s.slot e k).k0 ∧ (t.slot e k).k1 = (s.slot e k).k1

theorem SameKeys.refl (s : State) : SameKeys s s := fun _ _ => ⟨rfl, rfl⟩

theorem SameKeys.trans {s t u : State} (h : SameKeys s t) (h' : SameKeys t u) : SameKeys s u := fun e k =>
  ⟨(h' e k).1.trans (h e k).1, (h' e k).2.trans (h e k).2⟩

theorem sameKeys_modRegs (s : State) (c : Core) (f : Regs → Regs) : SameKeys s (s.modRegs c f) := by
  intro e k
  unfold State.modRegs
  split
  · rw [slot_modSlot]
    split
    · next h => cases h; exact ⟨rfl, rfl⟩
    · exact ⟨rfl, rfl⟩
  · exact ⟨rfl, rfl⟩

theorem sameKeys_resolve1 {s t : State} {c : Core} {sp : BitVec 8} {f : BitVec 18} {n : Nat} {l : Loc}
    (h : s.resolve1 c sp f n = .ok (l, t)) : SameKeys s t := by
  unfold State.resolve1 at h
  extract_lets r m at_ d at h
  split at h
  · cases h
  split at h
  case h_3 => cases h; exact sameKeys_modRegs s c _
  case h_4 =>
    split at h
    · cases h
    · cases h; exact sameKeys_modRegs s c _
  case h_8 =>
    split at h
    · cases h
    · cases h; exact SameKeys.refl s
  all_goals
    cases h
    exact SameKeys.refl s

theorem sameKeys_operand {s t : State} {c : Core} {p : Pos} {sp : BitVec 8} {f : BitVec 18} {n : Nat} {l : Loc}
    (h : s.operand c p sp f n = .ok (l, t)) : SameKeys s t := by
  unfold State.operand at h
  split at h
  · cases h; exact SameKeys.refl s
  · exact sameKeys_resolve1 h

/-- Resolving operands steps pointers and binds no key (R189). -/
theorem sameKeys_abc {s : State} {op : Nat} {i : At} {o : Abc} (h : s.abc op i = .ok o) : SameKeys s o.s := by
  unfold State.abc at h
  extract_lets r at h
  split at h
  · cases h
  next ha =>
  split at h
  · cases h
  next hb =>
  split at h
  · cases h
  next hc =>
  cases h
  exact ((sameKeys_operand ha).trans (sameKeys_operand hb)).trans (sameKeys_operand hc)

/-! ### Seats and field units -/

theorem seatBody_bound {op : Nat} {f : List Byte → Word → Word} {i : At} {a u : State} {e k : Nat} {o : Abc} {key : List Byte}
    {bank p : Nat} {b : Nat → Word} (hc : i.c = .cox e k) (ho : a.abc op i = .ok o) (hd : o.a = .mem bank p)
    (hk : spIdx i.x.opc = 16 ∧ (a.slot e k).k0 = some key ∨ spIdx i.x.opc = 17 ∧ (a.slot e k).k1 = some key)
    (hr : ReadsAll i.c o.b i.vl o.s b u) : seatBody op f i a =
      .ok ((u.modRegs i.c fun q => { q with res := q.res ++ (List.range i.vl).map fun n =>
        { bank := bank, addr := (p + n) % 262144, val := f key (b n) } }).seatWork e k i.vl, .seq) := by
  have hkey : Slot.key (o.s.slot e k) (spIdx i.x.opc - 16) = some key := by
    obtain ⟨h0, h1⟩ := sameKeys_abc ho e k
    rcases hk with ⟨hi, hk⟩ | ⟨hi, hk⟩
    · rw [hi]; exact h0.trans hk
    · rw [hi]; exact h1.trans hk
  unfold seatBody
  rw [ho]
  dsimp only
  rw [hd, readAll_of_readsAll hr, hc]
  dsimp only
  rw [hkey]
  dsimp only
  rw [List.map_map, pendRes_map]
  rfl

theorem fieldBody_reads {op : Nat} {f : Word → Word → Word} {i : At} {a u v : State} {o : Abc} {bank p : Nat} {b c : Nat → Word}
    (ho : a.abc op i = .ok o) (hd : o.a = .mem bank p) (hb : ReadsAll i.c o.b i.vl o.s b u) (hc : ReadsAll i.c o.c i.vl u c v) :
    fieldBody op f i a = .ok (v.modRegs i.c fun q => { q with res := q.res ++ (List.range i.vl).map fun n =>
      { bank := bank, addr := (p + n) % 262144, val := f (b n) (c n) } }, .seq) := by
  have hz : List.zipWith f ((List.range i.vl).map b) ((List.range i.vl).map c) = (List.range i.vl).map fun n => f (b n) (c n) := by
    rw [List.zipWith_map, List.zipWith_self]
  unfold fieldBody
  rw [ho]
  dsimp only
  rw [hd]
  dsimp only
  rw [readAll_of_readsAll hb]
  dsimp only
  rw [readAll_of_readsAll hc]
  dsimp only
  rw [hz, pendRes_map]

/-- No draw of dummy round-steps is above the level's most (R158, R159). -/
theorem dummySum_le (n m c : Nat) :
    ((List.range n).map fun i => (Config.drbg 64 (c + i)).toNat % (m + 1)).sum ≤ n * m := by
  have h := List.sum_le_card_nsmul ((List.range n).map fun i => (Config.drbg 64 (c + i)).toNat % (m + 1)) m (by
    intro x hx
    obtain ⟨i, -, rfl⟩ := List.mem_map.1 hx
    exact Nat.lt_succ_iff.1 (Nat.mod_lt _ (Nat.succ_pos m)))
  simpa using h

theorem dummyMax_eq (v : BitVec 2) : dummyMax v.toNat = ([0, 2, 4, 8] : List Nat).getD v.toNat 0 := by
  revert v
  decide

theorem slot_modEight_slots (s : State) (e e' k : Nat) (g : Eight → Eight) (h : (g (s.eight e)).slots = (s.eight e).slots) :
    (s.modEight e g).slot e' k = s.slot e' k := by
  unfold State.slot
  rw [eight_modEight]
  split
  · next he => rw [h, he]
  · rfl

theorem blocks_modSlot (s : State) (e k : Nat) (g : Slot → Slot) : ((s.modSlot e k g).eight e).blocks = (s.eight e).blocks := by
  unfold State.modSlot
  rw [eight_modEight, if_pos rfl]

/-- A slot for which the seats have done `n` blocks, with `steps` dummy round-steps. -/
def Slot.worked (t : Slot) (n steps : Nat) (path : Bool) : Slot :=
  { t with seatOps := t.seatOps + n, dummySteps := t.dummySteps + steps, masked := path }

/-- An eight whose seats have done `n` blocks more. -/
def Eight.counted (x : Eight) (n : Nat) : Eight := { x with blocks := x.blocks + BitVec.ofNat 64 n }

/-- The seats' work is a change of the slot and of the eight's count, with dummy round-steps up to the level's most for each block. -/
theorem seatWork_eq (s : State) (e k n : Nat) : ∃ steps,
    steps ≤ n * ([0, 2, 4, 8] : List Nat).getD (s.slot e k).dummyLevel.toNat 0 ∧
    s.seatWork e k n = ((s.modSlot e k (·.worked n steps (s.maskedPath e k))).modEight e (·.counted n)).spend n :=
  ⟨_, dummyMax_eq _ ▸ dummySum_le n (dummyMax (s.slot e k).dummyLevel.toNat) s.freeCtr, rfl⟩

/-- What the seats' work counts and draws (R158, R159, R162, R178). -/
theorem seatWork_effect (s : State) (e k n : Nat) : let t := s.seatWork e k n
    Only [.eights, .freeCtr] s t ∧ (∀ e', e' ≠ e → t.eight e' = s.eight e') ∧ (∀ k', k' ≠ k → t.slot e k' = s.slot e k') ∧
    (t.eight e).blocks = (s.eight e).blocks + BitVec.ofNat 64 n ∧
    t.slot e k = { s.slot e k with
      seatOps := (s.slot e k).seatOps + n, dummySteps := (t.slot e k).dummySteps
      masked := decide ((s.slot e k).sca = 3) || (s.eight e).maskForce || s.chip.maskFallback } ∧
    (t.slot e k).dummySteps ≤ (s.slot e k).dummySteps + n * ([0, 2, 4, 8] : List Nat).getD (s.slot e k).dummyLevel.toNat 0 := by
  obtain ⟨steps, hsteps, ht⟩ := seatWork_eq s e k n
  rw [ht]
  extract_lets t
  have height (e' : Nat) := eight_modEight (s.modSlot e k (·.worked n steps (s.maskedPath e k))) e e' (·.counted n)
  have hslot (k' : Nat) : t.slot e k' = (s.modSlot e k (·.worked n steps (s.maskedPath e k))).slot e k' :=
    slot_modEight_slots _ e e k' (·.counted n) rfl
  have hself : t.slot e k = (s.slot e k).worked n steps (s.maskedPath e k) :=
    (hslot k).trans ((slot_modSlot s e k e k _).trans (if_pos rfl))
  refine ⟨(((Only.refl _ s).modSlot (by decide) e k _).modEight (by decide) e _).spend (by decide) n, fun e' he => ?_, fun k' hk => ?_, ?_,
    by rw [hself]; rfl, ?_⟩
  · exact ((height e').trans (if_neg he)).trans ((eight_modEight s e e' _).trans (if_neg he))
  · exact (hslot k').trans ((slot_modSlot s e k e k' _).trans (if_neg fun h => hk (congrArg Prod.snd h)))
  · exact (congrArg Eight.blocks ((height e).trans (if_pos rfl))).trans (congrArg (· + _) (blocks_modSlot s e k _))
  · rw [hself]
    exact Nat.add_le_add_left hsteps _

/-! ### TCMP -/

theorem leBytes_eq_map (k n : Nat) : leBytes k n = (List.range k).map fun j => byteOf (n / 256 ^ j) := by
  induction k generalizing n with
  | zero => rfl
  | succ k ih =>
    rw [leBytes, ih, List.range_succ_eq_map, List.map_cons, List.map_map, pow_zero, Nat.div_one]
    congr 1
    refine List.map_congr_left fun j _ => ?_
    rw [Function.comp_apply, pow_succ', Nat.div_div_eq_div_mul]

/-- Byte `j` of a word holds its bits `8 j` to `8 j + 7` (R180). -/
theorem wordBytes_eq_map (w : Word) : wordBytes w = (List.range 16).map fun j => w.extractLsb' (8 * j) 8 := by
  unfold wordBytes
  rw [leBytes_eq_map]
  refine List.map_congr_left fun j _ => ?_
  unfold byteOf BitVec.extractLsb'
  rw [Nat.shiftRight_eq_div_pow, pow_mul, show (2 ^ 8 : Nat) = 256 from rfl]

theorem take_wordBytes_beq (x y : Word) {n : Nat} (h : n ≤ 16) : ((wordBytes x).take n == (wordBytes y).take n) =
    decide (∀ j, j < n → x.extractLsb' (8 * j) 8 = y.extractLsb' (8 * j) 8) := by
  rw [wordBytes_eq_map, wordBytes_eq_map, ← List.map_take, ← List.map_take, List.take_range, Nat.min_eq_left h, Bool.eq_iff_iff, beq_iff_eq,
    decide_eq_true_iff, List.map_inj_left]
  simp only [List.mem_range]

theorem tcmpBody_compares {i : At} {a u v w : State} {e k : Nat} {o : Abc} {p q n : Word} (hc : i.c = .cox e k)
    (ho : a.abc 0x44 i = .ok o) (hp : o.s.readLoc i.c o.a 0 = .ok (p, u)) (hq : u.readLoc i.c o.b 0 = .ok (q, v))
    (hn : v.readLoc i.c o.c 0 = .ok (n, w)) (h0 : 0 < n.toNat % 32) (h1 : n.toNat % 32 ≤ 16) :
    tcmpBody i a = .ok (w.modSlot e k fun t => { t with
      tcmpSeen := true
      tcmpOk := t.tcmpOk && decide (∀ j, j < n.toNat % 32 → p.extractLsb' (8 * j) 8 = q.extractLsb' (8 * j) 8) }, .seq) := by
  unfold tcmpBody
  rw [ho]
  dsimp only
  rw [hp]
  dsimp only
  rw [hq]
  dsimp only
  rw [hn]
  dsimp only
  rw [if_neg (by omega), hc]
  dsimp only
  rw [take_wordBytes_beq p q h1]

/-! ### Pending results (R204) -/

theorem memWrite_window (s : State) (e k : Nat) {a : Nat} (h : a < 0x400) (v : Word) : s.memWrite (.cox e k) 0 a allLanes v =
    .ok (s.modSlot e k fun t => { t with win := t.win.set 0 a v }) := by
  have hm (old : Word) : (old &&& ~~~laneMask allLanes) ||| (v &&& laneMask allLanes) = v := by
    rw [laneMask_all, BitVec.not_allOnes, BitVec.and_zero, BitVec.zero_or, BitVec.and_allOnes]
  unfold State.memWrite
  dsimp only
  rw [if_pos ⟨rfl, h⟩]
  simp only [hm]

/-- Results for words of the window, written in issue order: of several for one word the last stays (R204). -/
theorem foldlM_memWrite_window (s : State) (e k : Nat) (l : List PendRes) (h : ∀ x ∈ l, x.bank = 0 ∧ x.addr < 0x400) :
    ∃ d, l.foldlM (fun s x => s.memWrite (.cox e k) x.bank x.addr allLanes x.val) s = .ok d ∧
      (d.slot e k).regs = (s.slot e k).regs ∧ ∀ w, (d.slot e k).win.get 0 w =
        (((l.filter fun x => x.addr == w).getLast?).map fun x => x.val).getD ((s.slot e k).win.get 0 w) := by
  induction l using List.reverseRecOn with
  | nil => exact ⟨s, rfl, rfl, fun _ => rfl⟩
  | append_singleton l x ih =>
    obtain ⟨d, hd, hr, hw⟩ := ih fun y hy => h y (List.mem_append_left _ hy)
    obtain ⟨hb, ha⟩ := h x (List.mem_append_right _ List.mem_cons_self)
    have hx := memWrite_window d e k ha x.val
    have hs := (slot_modSlot d e k e k fun t => { t with win := t.win.set 0 x.addr x.val }).trans (if_pos rfl)
    refine ⟨_, foldlM_concat hd (by rw [hb, hx]), (congrArg Slot.regs hs).trans hr, fun w => ?_⟩
    · rw [hs, SMap.get_set, hw, List.filter_append, List.getLast?_append]
      by_cases e : w = x.addr
      · simp [e]
      · simp [e, Ne.symm e]

theorem landAll_window (s : State) (e k : Nat) (hf : (s.slot e k).regs.fld = [])
    (h : ∀ x ∈ (s.slot e k).regs.res, x.bank = 0 ∧ x.addr < 0x400) : ∃ d, s.landAll (.cox e k) = .ok d ∧ (d.slot e k).regs.res = [] ∧
      ∀ w, (d.slot e k).win.get 0 w = ((((s.slot e k).regs.res.filter fun x => x.addr == w).getLast?).map fun x => x.val).getD
        ((s.slot e k).win.get 0 w) := by
  have hs := (slot_modSlot s e k e k fun t => { t with regs := { t.regs with fld := [], res := [] } }).trans (if_pos rfl)
  obtain ⟨d, hd, hr, hw⟩ := foldlM_memWrite_window (s.modSlot e k fun t => { t with regs := { t.regs with fld := [], res := [] } }) e k _ h
  rw [hs] at hr hw
  refine ⟨d, ?_, congrArg Regs.res hr, hw⟩
  unfold State.landAll State.coreRegs State.modRegs
  dsimp only
  rw [hd, hf]
  rfl

/-! ### END -/

theorem end_effect (s s1 u : State) (e k : Nat) (x : Enc) (r : OpInfo) (hb : Begins s s1 (.cox e k) 0x01 r x)
    (hl : (s1.count1 (.cox e k)).landAll (.cox e k) = .ok u) (h0 : (u.slot e k).outLeft = 0) :
    Answers (exec (.end_ (.cox e k) x) s) fun t => t.slot e k = (u.slot e k).handedOver ∧
      (∀ e' k', (e', k') ≠ (e, k) → t.slot e' k' = u.slot e' k') ∧ Only [.eights] u t := by
  have hf : endBody (s1.atNow (.cox e k) r x) (s1.count1 (.cox e k)) = .ok (u.modSlot e k Slot.handedOver, .set) := by
    unfold endBody
    rw [show (s1.atNow (.cox e k) r x).c = .cox e k from rfl, hl]
    exact if_neg (not_not_intro h0)
  rw [exec_begun (mk := .end_) (f := endBody) (by simp [traernOps]) rfl hb (runBody_set hb.2.2.2.1 hf)]
  unfold State.breakCheck
  rw [if_neg fun h => Core.noConfusion h.1]
  exact .next ⟨(slot_modSlot u e k e k _).trans (if_pos rfl), fun e' k' hn => (slot_modSlot u e k e' k' _).trans (if_neg hn),
    (Only.refl _ u).modSlot (by decide) e k _⟩

/-- Settles O37: the instructions by their meanings (`completes_of_body`), pending results by the list of them. That FENCE writes the
pending FLDs after the results is the model's reading of R204. -/
theorem seatsFieldUnitsComparisonFenceAndEnd : Obligations.SeatsFieldUnitsComparisonFenceAndEnd := by
  unfold Obligations.SeatsFieldUnitsComparisonFenceAndEnd
  refine ⟨?_, seatWork_effect, ?_, ?_, ?_, fun s e k => landAll_window s e k, end_effect⟩
  · simp only [List.forall_mem_cons, List.not_mem_nil, false_implies, implies_true, and_true]
    exact ⟨completes_of_body (f := encBody) (by simp [traernOps]) rfl fun i a d ⟨_, _, _, _, _, _, _, _, hc, ho, hd, hk, hr, e⟩ =>
        e ▸ seatBody_bound hc ho hd hk hr,
      completes_of_body (f := decBody) (by simp [traernOps]) rfl fun i a d ⟨_, _, _, _, _, _, _, _, hc, ho, hd, hk, hr, e⟩ =>
        e ▸ seatBody_bound hc ho hd hk hr⟩
  · simp only [List.forall_mem_cons, List.not_mem_nil, false_implies, implies_true, and_true]
    exact ⟨completes_of_body (f := gfmulGBody) (by simp [traernOps]) rfl fun i a d ⟨_, _, _, _, _, _, _, ho, hd, hb, hc, e⟩ =>
        e ▸ fieldBody_reads ho hd hb hc,
      completes_of_body (f := gfmulXBody) (by simp [traernOps]) rfl fun i a d ⟨_, _, _, _, _, _, _, ho, hd, hb, hc, e⟩ =>
        e ▸ fieldBody_reads ho hd hb hc⟩
  · exact completes_of_body (f := tcmpBody) (by simp [traernOps]) rfl
      fun i a d ⟨_, _, _, _, _, _, _, _, _, hc, ho, hp, hq, hn, h0, h1, e⟩ => e ▸ tcmpBody_compares hc ho hp hq hn h0 h1
  · exact completes_of_body (f := fenceBody) (by simp [traernOps]) rfl fun i a d h => by
      unfold fenceBody
      rw [h]
      rfl

end Sys2Proof.Machine

/-!
# What ends or tests the monitors' work (R163, R403, R406, R410, R414, R415, R477)

TAMPER_N's release, the end of conditions and of the masked fall-back, built-in stimulation, and TMP_CLASS.
-/

namespace Sys2Proof.Machine

-- One declaration after the other: elaborated side by side, the row as one text takes more threads than the check allows.
set_option Elab.async false

/-! ### TAMPER_N and conditions -/

theorem releaseTamper_done {s : State} (h1 : s.tmp.relWritten = true) (h2 : s.tmp.holdMin = false) : s.releaseTamper =
    (s.onTmp fun t => { t with tamperLow := false, relWritten := false }).onAod fun a => { a with pending := false } := if_pos ⟨h1, h2⟩

theorem releaseTamper_waits {s : State} (h : s.tmp.relWritten = false ∨ s.tmp.holdMin = true) : s.releaseTamper = s :=
  if_neg fun ⟨h1, h2⟩ => by simp [h1, h2] at h

theorem only_releaseTamper (s : State) : Only [.aod, .tmp] s s.releaseTamper := by
  unfold State.releaseTamper
  exact (((Only.refl _ s).onTmp (by decide) _).onAod (by decide) _).ite (Only.refl _ s)

theorem tamperRel_effect (s : State) (hl : s.tmp.tamperLow = true) (ha : s.tmp.respA = false) (hb : s.tmp.respB = false) :
    Answers (exec .tamperRel s) fun t =>
      (if s.tmp.holdMin = false then t.tmp = { s.tmp with tamperLow := false, relWritten := false } ∧ t.aod = { s.aod with pending := false }
       else t.tmp = { s.tmp with relWritten := true } ∧ t.aod = s.aod) ∧ Only [.aod, .tmp] s t := by
  change Answers (execTamperRel s) _
  unfold execTamperRel
  rw [if_pos ⟨hl, ha, hb⟩]
  refine .next ⟨?_, ((Only.refl _ s).onTmp (by decide) _).trans (only_releaseTamper _)⟩
  split
  · next h =>
    rw [releaseTamper_done (s := s.onTmp fun t => { t with relWritten := true }) rfl h]
    exact ⟨rfl, rfl⟩
  · next h =>
    rw [releaseTamper_waits (s := s.onTmp fun t => { t with relWritten := true }) (.inr (Bool.eq_true_of_not_eq_false h))]
    exact ⟨rfl, rfl⟩

theorem tamperHoldExpiry_effect (s : State) : Answers (exec .tamperHoldExpiry s) fun t =>
    (if s.tmp.relWritten = true then
      t.tmp = { s.tmp with tamperLow := false, holdMin := false, relWritten := false } ∧ t.aod = { s.aod with pending := false }
     else t.tmp = { s.tmp with holdMin := false } ∧ t.aod = s.aod) ∧ Only [.aod, .tmp] s t := by
  refine .next ⟨?_, ((Only.refl _ s).onTmp (by decide) _).trans (only_releaseTamper _)⟩
  split
  · next h =>
    rw [releaseTamper_done (s := s.onTmp fun t => { t with holdMin := false }) h rfl]
    exact ⟨rfl, rfl⟩
  · next h =>
    rw [releaseTamper_waits (s := s.onTmp fun t => { t with holdMin := false }) (.inl (Bool.eq_false_of_not_eq_true h))]
    exact ⟨rfl, rfl⟩

theorem only_railEvent (s : State) (rail mv : Nat) : Only [.out] s (s.railEvent rail mv) := by
  unfold State.railEvent
  exact (Only.refl _ s).ite ((Only.refl _ s).pldmEvent (by decide) _ _)

theorem tamperConditionClear_effect (s : State) (a b : Nat) : Answers (exec (.tamperConditionClear a b) s) fun t =>
    (∀ x, x ∈ t.tmp.persist ↔ x ∈ s.tmp.persist ∧ x ≠ (a, b)) ∧ t.tmp.cls = s.tmp.cls ∧ t.tmp.cntA = s.tmp.cntA ∧
    Only [.freeCtr, .out, .tmp] s t ∧ (a ≠ 1 → a ≠ 2 → Only [.tmp] s t) := by
  change Answers (execTamperConditionClear a b s) _
  unfold execTamperConditionClear
  extract_lets s1
  have h1 : Only [.freeCtr, .out] s s1 :=
    ((((Only.refl _ s).spend (by decide) 1).trans ((only_railEvent _ _ _).mono (by decide)))).ite (Only.refl _ s)
  have h2 (h1 : a ≠ 1) (h2 : a ≠ 2) : s1 = s := if_neg fun e => e.1.elim h1 h2
  clear_value s1
  refine .next ⟨fun x => ?_, (congrArg Tmp.cls (h1.same .tmp) :), (congrArg Tmp.cntA (h1.same .tmp) :), (h1.mono (by decide)).onTmp (by decide) _,
    fun e1 e2 => ?_⟩
  · rw [← show s1.tmp = s.tmp from h1.same .tmp]
    exact List.mem_filter.trans (and_congr_right fun _ => bne_iff_ne)
  · rw [h2 e1 e2]
    exact (Only.refl _ s).onTmp (by decide) _

/-! ### The end of the masked fall-back (R163) -/

/-- A status bit set in the pages of a list of eights. -/
theorem setBits_effect (s : State) (l : List Nat) {n : Nat} (hn : n < 32) {t : State} (ht : l.foldl (fun s e => s.setBit (.egt e) n) s = t) :
    t.chip.maskFallback = s.chip.maskFallback ∧ (∀ e ∈ l, (t.hdr (.egt e)).status.getLsbD n = true) ∧
      Only [.chip, .fns, .hdrs, .out] s t := by
  induction l using List.reverseRecOn generalizing t with
  | nil =>
    cases ht
    exact ⟨rfl, nofun, Only.refl _ s⟩
  | append_singleton l e ih =>
    rw [List.foldl_append] at ht
    obtain ⟨hm, hs, ho⟩ := ih rfl
    generalize l.foldl (fun s e => s.setBit (.egt e) n) s = u at hm hs ho ht
    have ht : u.setBit (.egt e) n = t := ht
    obtain ⟨x, hx⟩ : ∃ x, (u.setBit (.egt e) n).chip = { u.chip with intSrc := x } := chip_setStatus u (.egt e) (1#32 <<< n)
    have hr (k : Nat) := raised_setBit u (.egt e) (.egt k) n
    have hb := status_setBit u (.egt e) hn
    have hu := ho.setBit (by decide) (by decide) (by decide) (by decide) (.egt e) n
    rw [ht] at hx hb hu hr
    refine ⟨(congrArg Chip.maskFallback hx).trans hm, fun k hk => ?_, hu⟩
    rcases List.mem_append.1 hk with hk | hk
    · exact (hr k).2.2 n (hs k hk)
    · rw [List.mem_singleton.1 hk]
      exact hb

theorem maskFallbackEnd_effect (s : State) (hm : s.chip.maskFallback = true) (hu : s.chip.maskUntil ≤ s.now) :
    Answers (exec .maskFallbackEnd s) fun t =>
      t.chip.maskFallback = false ∧ (∀ e, e < s.variant.eights → (t.hdr (.egt e)).status.getLsbD 13 = true) ∧
      Only [.chip, .fns, .hdrs, .out] s t := by
  change Answers (execMaskFallbackEnd s) _
  unfold execMaskFallbackEnd State.maskChange
  rw [if_pos ⟨hm, hu⟩]
  have ho := only_modChip s fun c => { c with maskFallback := false }
  obtain ⟨x, hx⟩ := chip_modChip s fun c => { c with maskFallback := false }
  rw [show (s.modChip fun c => { c with maskFallback := false }).variant = s.variant from ho.2.1]
  generalize (s.modChip fun c => { c with maskFallback := false }) = u at ho hx
  obtain ⟨hf, hs, hk⟩ := setBits_effect u (List.range s.variant.eights) (n := 13) (by decide) rfl
  exact .next ⟨hf.trans (congrArg Chip.maskFallback hx), fun e he => hs e (List.mem_range.2 he), (ho.mono (by decide)).trans hk⟩

theorem crystalStart_effect (s : State) : Answers (exec .crystalStart s) fun t =>
    t.aod = { s.aod with xtalRunning := true } ∧ t.tmp = { s.tmp with timeApprox := false } ∧ t.wdg = { s.wdg with xtalOk := true } ∧
    Only [.aod, .tmp, .wdg] s t :=
  .next ⟨rfl, rfl, rfl, (((Only.refl _ s).onAod (by decide) _).onTmp (by decide) _).onWdg (by decide) _⟩

/-! ### The tamper log -/

theorem aod_setBit (s : State) (p : PageId) (n : Nat) : (s.setBit p n).aod = s.aod := (only_setBit s p n).same .aod

/-- The always-on domain with the tamper log of another state of it. -/
def Aod.withLogOf (a b : Aod) : Aod := { a with logLost := b.logLost, log := b.log, head := b.head, seqNext := b.seqNext }

/-- Logging a record changes nothing of the always-on domain but the log (R408, R410). -/
theorem aod_logTamper (s : State) (r : TRec) : (s.logTamper r).aod.withLogOf s.aod = s.aod := by
  unfold State.logTamper
  extract_lets lose
  have hl : (lose s).aod.withLogOf s.aod = s.aod := by
    dsimp only [lose]
    split
    · rfl
    · rw [aod_setBit]
      rfl
  clear_value lose
  split
  · exact hl
  · extract_lets unread s1
    show s1.aod.withLogOf s.aod = s.aod
    dsimp only [s1]
    split
    · exact hl
    · rfl

theorem srcClass_lt (s : State) (n : Nat) : s.srcClass n < 4 := by
  unfold State.srcClass
  split
  · omega
  · split <;> omega

/-- The class that an entry carries beside other flags is its source's (R408). -/
theorem strong_newRec (s : State) (src idx value ticks : Nat) {x : Nat} (m : BitVec 4) (hx : x % 4 = 0) :
    (s.newRec src (s.srcClass src + x) idx value ticks m).strong = (s.srcClass src == 1 || s.srcClass src == 2) := by
  have hc : (s.newRec src (s.srcClass src + x) idx value ticks m).cls = s.srcClass src := by
    have hlt := srcClass_lt s src
    have ha : s.approx = 0 ∨ s.approx = 16 := by
      unfold State.approx
      split
      · exact .inl rfl
      · exact .inr rfl
    show (BitVec.ofNat 8 (s.srcClass src + x + s.approx)).toNat % 4 = _
    rw [BitVec.toNat_ofNat]
    omega
  unfold TRec.strong
  rw [hc]

/-- A detection in the suppression window is an entry with SUPPRESSED set, and nothing more (R414). -/
theorem logSuppressed_effect (s : State) (src idx value : Nat) : Only [.aod, .out, .fns, .chip, .hdrs] s (s.logSuppressed src idx value) ∧
    (s.logSuppressed src idx value).aod.pending = s.aod.pending ∧
    ∀ i, s.entrySlot src = some i → ∃ r : TRec, (s.logSuppressed src idx value).aod.log.get none i = some r ∧ r.seq = s.aod.seqNext ∧
      r.source = byteOf src ∧ r.flags = byteOf (s.srcClass src + 4 + s.approx) := by
  unfold State.logSuppressed
  have hs := strong_newRec s src idx value s.now (x := 4) (s.srcRegions src idx) rfl
  have ha := aod_logTamper s (s.newRec src (s.srcClass src + 4) idx value s.now (s.srcRegions src idx))
  obtain ⟨ho, -, -, -, hr⟩ := logTamper_effect s (s.newRec src (s.srcClass src + 4) idx value s.now (s.srcRegions src idx))
  refine ⟨ho, (congrArg Aod.pending ha :), fun i hi => ⟨_, hr i ?_, rfl, rfl, rfl⟩⟩
  rw [hs]
  exact hi

/-! ### Frames of the ledger's operations -/

theorem only_freeRun (s : State) (i : Nat) : Only [.kslots, .kfrees, .klg] s (s.freeRun i) := by
  unfold State.freeRun
  exact Only.foldl (fun t j h => ((h.modKslot (by decide) _ _).onKfrees (by decide) _).onKlg (by decide) _) _ (Only.refl _ s)

theorem only_release (s : State) (i : Nat) : Only [.domains, .eights, .kslots, .kfrees, .klg] s (s.release i) := by
  have hf (t : State) (j : Nat) : Only [.domains, .eights, .kslots, .kfrees, .klg] t (t.freeRun j) := (only_freeRun t j).mono (by decide)
  have hu (p : Nat → Bool) : Only [.domains, .eights, .kslots, .kfrees, .klg] s (s.uncache p) := (Only.refl _ s).onEights (by decide) _
  unfold State.release
  extract_lets d ending
  split
  · exact ((Only.foldl (fun t j h => h.trans (hf t j)) _ (hu _)).trans (hf _ i)).onDomains (by decide) _
  · exact (Only.foldl (fun t j h => h.modKslot (by decide) j _) _ (hu _)).trans (hf _ i)

theorem only_deriveIdentity (s : State) : Only [.kslots] s s.deriveIdentity := by
  unfold State.deriveIdentity
  extract_lets cdi put s1 s2 s3 s4
  have hp (t : State) (i : Nat) (k : KSlot) (h : Only [.kslots] s t) : Only [.kslots] s (put t i k) := h.modKslot (by decide) i _
  clear_value put
  exact hp _ _ _ (hp _ _ _ (hp _ _ _ (hp _ _ _ (hp _ _ _ (Only.refl _ s)))))

theorem only_deriveRoots (s : State) : Only [.klg, .kslots] s s.deriveRoots := by
  unfold State.deriveRoots
  extract_lets s1 s2
  have h2 : Only [.klg, .kslots] s s2 :=
    Only.foldl (fun t d h => h.trans ((only_deriveRoot t d).mono (by decide))) _ ((Only.refl _ s).modKslot (by decide) 0 _)
  exact (h2.trans ((only_deriveIdentity s2).mono (by decide))).onKlg (by decide) _

/-! ### What a response leaves of a test's result -/

/-- From `s` to `t` BUSY and FAIL of the stimulation stay, and the tamper page's header has only grown. -/
structure TestStands (s t : State) : Prop where
  busy : t.tmp.testBusy = s.tmp.testBusy
  fail : t.tmp.testFail = s.tmp.testFail
  page : (s.hdr .tmp).Grown (t.hdr .tmp)

namespace TestStands

variable {l : List Field} {s t u : State}

theorem refl (s : State) : TestStands s s := ⟨rfl, rfl, Hdr.Grown.refl _⟩

theorem trans (h : TestStands s t) (k : TestStands t u) : TestStands s u :=
  ⟨k.busy.trans h.busy, k.fail.trans h.fail, h.page.trans k.page⟩

theorem foldl {α : Type} {g : State → α → State} (h : ∀ t x, TestStands t (g t x)) (xs : List α) (s : State) :
    TestStands s (xs.foldl g s) := by
  induction xs generalizing s with
  | nil => exact refl s
  | cons x r ih => exact (h s x).trans (ih (g s x))

/-- A change away from the tamper page. -/
theorem of_only (h : Only l s t) (ht : Field.tmp ∉ l := by decide) (hh : Field.hdrs ∉ l := by decide) : TestStands s t where
  busy := congrArg Tmp.testBusy (h.same .tmp ht)
  fail := congrArg Tmp.testFail (h.same .tmp ht)
  page := by rw [hdr_of_hdrs (h.same .hdrs hh)]; exact Hdr.Grown.refl _

theorem of_contained (h : Contained l s t) (ht : Field.tmp ∉ l := by decide) : TestStands s t :=
  ⟨congrArg Tmp.testBusy (h.only.same .tmp ht), congrArg Tmp.testFail (h.only.same .tmp ht), h.pages .tmp⟩

theorem of_work (h : WorkDone s t) : TestStands s t :=
  ⟨congrArg Tmp.testBusy (h.only.same .tmp), congrArg Tmp.testFail (h.only.same .tmp), (h.pages .tmp).grown⟩

theorem setBit (s : State) (p : PageId) (n : Nat) : TestStands s (s.setBit p n) := of_contained (Contained.setBit s p n)

theorem onAod (s : State) (f : Aod → Aod) : TestStands s (s.onAod f) := of_only ((Only.refl [.aod] s).onAod (by decide) f)

theorem onTmp (s : State) (f : Tmp → Tmp) (h : (f s.tmp).testBusy = s.tmp.testBusy ∧ (f s.tmp).testFail = s.tmp.testFail) :
    TestStands s (s.onTmp f) := ⟨h.1, h.2, Hdr.Grown.refl _⟩

/-! ### The tamper log -/

theorem logTamper (s : State) (r : TRec) : TestStands s (s.logTamper r) := by
  unfold State.logTamper
  extract_lets lose
  have hl : TestStands s (lose s) := by
    dsimp only [lose]
    split
    · exact onAod s _
    · exact (onAod s _).trans (setBit _ _ _)
  split
  · exact hl
  · extract_lets unread s1
    refine TestStands.trans (t := s1) ?_ (onAod s1 _)
    dsimp only [s1]
    split
    · exact hl
    · exact refl s

/-! ### The ledger's end (R298) -/

theorem failJob (s : State) (j : Nat) (x : Fin) : TestStands s (s.failJob j x) := of_contained (Contained.failJob s j x)

theorem closeOpen (s : State) : TestStands s s.closeOpen := by
  unfold State.closeOpen
  refine foldl (fun t kv => ?_) _ s
  split
  · exact refl t
  split
  · exact refl t
  split
  · split
    · exact failJob t _ _
    · exact refl t
  · exact refl t

theorem admFinish (s : State) (f sl : Nat) (c : BitVec 16) (x : AdmRes) : TestStands s (s.admFinish f sl c x) := by
  unfold State.admFinish
  extract_lets a addr dw tail s1
  split
  · exact (of_only ((Only.refl [.fns] s).modAdm (by decide) f _)).trans (setBit _ _ _)
  · have h1 : Only [.fns, .out] s s1 := (((Only.refl _ s).askXlat (by decide) _ _ _ _).emit (by decide) _).modAdm (by decide) f _
    exact of_only ((h1.msix (by decide) (by decide) f _).ite h1)

theorem endDrains (s : State) : TestStands s s.endDrains := by
  unfold State.endDrains
  refine foldl (fun t kv => ?_) _ s
  split
  · extract_lets t1
    refine TestStands.trans (t := t1) ?_ (of_only (only_release t1 _))
    dsimp only [t1]
    split
    · exact admFinish t _ _ _ _
    · exact refl t
  · exact refl t

theorem zeroLedger (s : State) : TestStands s s.zeroLedger := by
  have h1 : TestStands s s.closeOpen.failKeyed := (closeOpen s).trans (foldl (fun t r => of_work (WorkDone.finish t r _)) _ _)
  have h2 : TestStands s s.closeOpen.failKeyed.failDigests := h1.trans (foldl (fun t j => failJob t j _) _ _)
  have h3 := h2.trans (endDrains _)
  unfold State.zeroLedger
  generalize s.closeOpen.failKeyed.failDigests.endDrains = u at h3
  exact h3.trans (of_only (l := [.genBase, .jobs, .klg, .kslots, .msh])
    (((((Only.refl _ u).onKslots (by decide) _).onGenBase (by decide) _).onKlg (by decide) _).onJobs (by decide) _ |>.onMsh (by decide) _))

/-! ### The keys' renewal (R284, R298) -/

theorem renewRoot (s : State) : TestStands s s.renewRoot :=
  (of_only (((Only.refl [.aod, .freeCtr] s).onAod (by decide) _).spend (by decide) 1)).trans (setBit _ _ _)

/-! ### The responses (R403) -/

theorem classAlarm (s : State) (p : PageId) : TestStands s (s.classAlarm p) := by
  unfold State.classAlarm
  split
  · split
    · exact of_contained (Contained.alarm s _ _ _ _ _ _)
    · exact refl s
  · exact refl s

theorem classA (s : State) : TestStands s s.classA := by
  unfold State.classA State.renewKeys
  extract_lets s1 s2
  have h1 : TestStands s s1 := of_only (l := [.aod, .bst, .lcs])
    ((((Only.refl _ s).onAod (by decide) _).onLcs (by decide) _).trans ((only_bstEnd _ 3).mono (by decide)))
  have h2 : TestStands s s2 := (h1.trans (foldl classAlarm _ _)).trans (zeroLedger _)
  split
  · split
    · exact h2.trans (renewRoot s2)
    · exact (h2.trans (renewRoot s2)).trans (of_only (only_deriveRoots _))
  · exact h2

theorem classB (s : State) (m : BitVec 4) : TestStands s (s.classB m) := by
  unfold State.classB
  extract_lets s0 s1 s2
  have h0 : TestStands s s0 := of_only (((only_bstEnd s 3)).ite (Only.refl _ s))
  have h1 : TestStands s s1 := h0.trans (foldl (fun t r => foldl classAlarm _ t) _ _)
  have h2 : TestStands s s2 := h1.trans (foldl (fun t r => by
    split
    · exact refl t
    · exact of_contained (Contained.quarantineRegion t r)) _ _)
  exact h2.trans (onAod _ _)

theorem maskBegin (s : State) : TestStands s s.maskBegin := by
  unfold State.maskBegin
  extract_lets s1
  have h1 : TestStands s s1 := of_only ((Only.refl [.chip] s).onChip (by decide) _)
  split
  · exact h1
  · exact ((h1.trans (of_contained (Contained.modChip s1 _ rfl rfl))).trans (of_only ((Only.refl [.heat] _).onHeat (by decide) _))).trans
      (foldl (fun t e => setBit t _ _) _ _)

theorem driveTamper (s : State) : TestStands s s.driveTamper := (onTmp s _ ⟨rfl, rfl⟩).trans (onAod _ _)

theorem respond (s : State) (src cls : Nat) (m : BitVec 4) : TestStands s (s.respond src cls m) := by
  unfold State.respond
  extract_lets s1
  have h1 : TestStands s s1 := by
    dsimp only [s1]
    split
    · exact maskBegin s
    · exact refl s
  have ho (k : State → State) (h : TestStands s1 (k s1)) : TestStands s (s1.atOnce k) :=
    (h1.trans h).trans (of_only ((Only.refl [.out] (k s1)).onOut (by decide) _))
  clear_value s1
  split
  · exact ho _ ((driveTamper s1).trans (classA _))
  · exact ho _ ((driveTamper s1).trans (classB _ m))
  · exact h1

theorem countRec (s : State) (cls : Nat) (shown : Bool) : TestStands s (s.countRec cls shown) := by
  unfold State.countRec
  split
  · exact refl s
  dsimp only
  split
  · exact (onTmp s _ ⟨rfl, rfl⟩).trans (setBit _ _ _)
  · exact (onTmp s _ ⟨rfl, rfl⟩).trans (setBit _ _ _)
  · split
    · exact (onTmp s _ ⟨rfl, rfl⟩).trans (setBit _ _ _)
    · exact onTmp s _ ⟨rfl, rfl⟩
  · exact refl s

theorem record (s : State) (src idx value ticks extra : Nat) : TestStands s (s.record src idx value ticks extra) := by
  unfold State.record
  extract_lets cls m noteC d r s1
  have hn (t : State) : TestStands t (noteC t) := by
    dsimp only [noteC]
    split
    · exact onTmp t _ ⟨rfl, rfl⟩
    · exact refl t
  clear_value noteC
  split
  · exact countRec s 3 false
  split
  · have hd : TestStands s (s.defer cls m) := of_only (((Only.refl [.aod] s).onAod (by decide) _).ite (Only.refl _ s))
    exact (hd.trans (logTamper _ r)).trans (hn _)
  · exact (((logTamper s _).trans (countRec _ cls true)).trans (hn _)).trans (respond _ src cls m)

end TestStands

/-! ### Stimulation (R414, R415) -/

theorem tmpTestStart_effect (s : State) (h : s.aod.onCell = false) : Answers (exec .tmpTestStart s) fun t =>
    (if bit s.dbg.rights 8 = false then t.tmp = { s.tmp with testDenied := true }
     else if s.tmp.testBusy = true ∨ s.srcOff s.tmp.testSource.toNat = true ∨ s.tmp.testSource = 14 then t.tmp = s.tmp
     else t.tmp = { s.tmp with testBusy := true, testPass := false, testFail := false, testDenied := false }) ∧ Only [.tmp] s t := by
  change Answers (execTmpTestStart s) _
  unfold execTmpTestStart
  rw [powered_eq h]
  split
  · exact .next ⟨rfl, (Only.refl _ s).onTmp (by decide) _⟩
  split
  · exact .next ⟨rfl, Only.refl _ s⟩
  · exact .next ⟨rfl, (Only.refl _ s).onTmp (by decide) _⟩

theorem windowEnd_detected (s : State) (i : Nat) (hb : s.tmp.testBusy = true) (hp : s.tmp.testPass = false)
    (hi : s.entrySlot s.tmp.testSource.toNat = some i) : Answers (exec (.stimulationWindowEnd true) s) fun t =>
      t.tmp = { s.tmp with testBusy := false, testPass := true } ∧
      (∃ r : TRec, t.aod.log.get none i = some r ∧ r.seq = s.aod.seqNext ∧ r.source = byteOf s.tmp.testSource.toNat ∧
        r.flags = byteOf (s.srcClass s.tmp.testSource.toNat + 4 + if s.aod.xtalRunning then 0 else 16)) ∧
      t.aod.pending = s.aod.pending ∧ Only [.aod, .chip, .fns, .freeCtr, .hdrs, .out, .tmp] s t := by
  change Answers (execStimulationWindowEnd true s) _
  unfold execStimulationWindowEnd
  extract_lets src idx s1
  rw [if_neg (by simp [hb]), if_neg (by simp [hp]), if_pos rfl]
  obtain ⟨ho, ha, hr⟩ := logSuppressed_effect s1 src idx (s1.stimValue src)
  have h1 : Only [.aod, .chip, .fns, .freeCtr, .hdrs, .out, .tmp] s s1 := (Only.refl _ s).onTmp (by decide) _
  refine .next ⟨congrArg (fun t : Tmp => { t with testPass := true }) (ho.same .tmp), hr i hi, ha,
    ((h1.trans (ho.mono (by decide))).spend (by decide) 1).onTmp (by decide) _⟩

theorem windowEnd_undetected (s : State) (hb : s.tmp.testBusy = true) (hp : s.tmp.testPass = false) :
    Answers (exec (.stimulationWindowEnd false) s) fun t =>
      t.tmp.testBusy = false ∧ t.tmp.testFail = true ∧ (t.hdr .tmp).status.getLsbD 11 = true := by
  change Answers (execStimulationWindowEnd false s) _
  unfold execStimulationWindowEnd State.selftestFail
  extract_lets src idx s1
  rw [if_neg (by simp [hb]), if_neg (by simp [hp]), if_neg Bool.false_ne_true]
  have hu : (s1.onTmp fun t => { t with testFail := true }).tmp.testBusy = false ∧
      (s1.onTmp fun t => { t with testFail := true }).tmp.testFail = true := ⟨rfl, rfl⟩
  generalize s1.onTmp (fun t => { t with testFail := true }) = u at hu
  obtain ⟨hu1, hu2⟩ := hu
  have ht := (only_setBit u .tmp 11).same .tmp
  have h11 := status_setBit u .tmp (n := 11) (by decide)
  generalize u.setBit .tmp 11 = v at ht h11
  have h : TestStands v ((v.record src idx (u.stimValue src) u.now 32).spend 1) :=
    (TestStands.record v _ _ _ _ _).trans (.of_only ((Only.refl [.freeCtr] _).spend (by decide) 1))
  exact .next ⟨h.busy.trans ((congrArg Tmp.testBusy ht).trans hu1), h.fail.trans ((congrArg Tmp.testFail ht).trans hu2), h.page.2.2 11 h11⟩

/-! ### TMP_CLASS (R406) -/

/-- The word with the two-bit fields `f 0` to `f (m - 1)`. -/
def fieldWord (f : Nat → Nat) (m : Nat) : W32 := (List.range m).foldl (fun (acc : W32) n => acc ||| (BitVec.ofNat 32 (f n) <<< (2 * n))) 0

theorem getLsbD_fieldWord (f : Nat → Nat) (hf : ∀ n, f n < 4) (m i : Nat) (hi : i < 32) :
    (fieldWord f m).getLsbD i = (decide (i / 2 < m) && (f (i / 2)).testBit (i % 2)) := by
  induction m with
  | zero => simp [fieldWord]
  | succ m ih =>
    have hs : fieldWord f (m + 1) = fieldWord f m ||| (BitVec.ofNat 32 (f m) <<< (2 * m)) := by
      unfold fieldWord
      rw [List.range_succ, List.foldl_append]
      rfl
    rw [hs, BitVec.getLsbD_or, ih, BitVec.getLsbD_shiftLeft, BitVec.getLsbD_ofNat]
    rcases Nat.lt_trichotomy (i / 2) m with h | h | h
    · have h1 : i < 2 * m := by omega
      have h2 : i / 2 < m + 1 := by omega
      simp [h, h1, h2]
    · have h1 : i - 2 * m = i % 2 := by omega
      have h2 : ¬ i < 2 * m := by omega
      simp [h, h1, h2, hi, show i % 2 < 32 by omega]
    · have h1 : (f m).testBit (i - 2 * m) = false :=
        Nat.testBit_lt_two_pow (Nat.lt_of_lt_of_le (hf m) (Nat.pow_le_pow_right (n := 2) (by decide) (show 2 ≤ i - 2 * m by omega)))
      simp [h1, show ¬ i / 2 < m by omega, show ¬ i / 2 < m + 1 by omega]

/-- Each field reads what it was given. -/
theorem bits_fieldWord (f : Nat → Nat) (hf : ∀ n, f n < 4) {n : Nat} (hn : n < 16) : bits (fieldWord f 16) (2 * n + 1) (2 * n) = f n := by
  unfold bits
  rw [show 2 * n + 1 + 1 - 2 * n = 2 by omega]
  refine Nat.eq_of_testBit_eq fun j => ?_
  rw [Nat.testBit_mod_two_pow, Nat.testBit_div_two_pow, BitVec.testBit_toNat]
  by_cases h : j < 2
  · rw [Nat.add_comm, getLsbD_fieldWord f hf 16 _ (by omega), show (2 * n + j) / 2 = n by omega, show (2 * n + j) % 2 = j by omega]
    simp [h, hn]
  · have hj : (f n).testBit j = false :=
      Nat.testBit_lt_two_pow (Nat.lt_of_lt_of_le (hf n) (Nat.pow_le_pow_right (n := 2) (by decide) (show 2 ≤ j by omega)))
    simp [h, hj]

/-- Field `n` of TMP_CLASS as a write of `v` leaves it. -/
def classField (old v : W32) (n : Nat) : Nat :=
  if n = 14 then 0 else if n = 15 then 1
  else if bits v (2 * n + 1) (2 * n) = 0 then bits old (2 * n + 1) (2 * n) else bits v (2 * n + 1) (2 * n)

theorem mergeClass_eq (old v : W32) : mergeClass old v = fieldWord (classField old v) 16 := rfl

theorem classField_lt (old v : W32) (n : Nat) : classField old v n < 4 := by
  have hb (w : W32) : bits w (2 * n + 1) (2 * n) < 4 := by
    unfold bits
    rw [show 2 * n + 1 + 1 - 2 * n = 2 by omega]
    exact Nat.mod_lt _ (by decide)
  unfold classField
  split
  · decide
  split
  · decide
  split
  · exact hb old
  · exact hb v

theorem bits_mergeClass (old v : W32) {n : Nat} (hn : n < 16) : bits (mergeClass old v) (2 * n + 1) (2 * n) = classField old v n := by
  rw [mergeClass_eq]
  exact bits_fieldWord _ (classField_lt old v) hn

theorem tmpClassWrite_effect (s : State) (v : W32) (h : s.aod.onCell = false) (hl : bit (s.hdr .tmp).lock 0 = false) :
    Answers (exec (.tmpClassWrite v) s) fun t =>
      (∀ n, n < 14 → bits t.tmp.cls (2 * n + 1) (2 * n) =
        (if bits v (2 * n + 1) (2 * n) = 0 then bits s.tmp.cls (2 * n + 1) (2 * n) else bits v (2 * n + 1) (2 * n))) ∧
      bits t.tmp.cls 29 28 = 0 ∧ bits t.tmp.cls 31 30 = 1 ∧ t.tmp.region = s.tmp.region ∧ t.tmp.persist = s.tmp.persist ∧
      Only [.tmp] s t := by
  change Answers (execTmpClassWrite v s) _
  unfold execTmpClassWrite State.locked
  rw [powered_eq h, if_neg (by rw [hl]; decide)]
  refine .next ⟨fun n hn => ?_, bits_mergeClass s.tmp.cls v (n := 14) (by decide), bits_mergeClass s.tmp.cls v (n := 15) (by decide), rfl, rfl,
    (Only.refl _ s).onTmp (by decide) _⟩
  refine (bits_mergeClass s.tmp.cls v (by omega)).trans ?_
  unfold classField
  rw [if_neg (by omega), if_neg (by omega)]

/-- Settles O51: one lemma for each command. When PENDING falls, and the flag and class of a suppressed detection, are log entry 50's
choices. -/
theorem tamperReleaseFallBackAndStimulation : Obligations.TamperReleaseFallBackAndStimulation := by
  unfold Obligations.TamperReleaseFallBackAndStimulation
  exact ⟨tamperRel_effect, tamperHoldExpiry_effect, tamperConditionClear_effect, maskFallbackEnd_effect, crystalStart_effect,
    tmpTestStart_effect, windowEnd_detected, windowEnd_undetected, tmpClassWrite_effect⟩

end Sys2Proof.Machine

/-!
# Registers, words and operands of a Traern core (R181, R182, R187, R190)
-/

namespace Sys2Proof.Machine

-- One declaration after the other: elaborated side by side, the row as one text takes more threads than the check allows.
set_option Elab.async false

/-! ### Registers and words of a core -/

theorem slot_modSlot_self (s : State) (e k : Nat) (g : Slot → Slot) : (s.modSlot e k g).slot e k = g (s.slot e k) :=
  (slot_modSlot s e k e k g).trans (if_pos rfl)

@[simp] theorem coreRegs_modRegs (s : State) (c : Core) (f : Regs → Regs) : (s.modRegs c f).coreRegs c = f (s.coreRegs c) := by
  cases c with
  | cox e k => exact congrArg Slot.regs (slot_modSlot_self s e k _)
  | umpire => rfl

/-- A change of registers is told by the registers it leaves. -/
theorem modRegs_congr {s : State} {c : Core} {f g : Regs → Regs} (h : f (s.coreRegs c) = g (s.coreRegs c)) :
    s.modRegs c f = s.modRegs c g := by
  have hc (f : Regs → Regs) : s.modRegs c f = s.modRegs c fun _ => f (s.coreRegs c) := by cases c <;> rfl
  rw [hc f, hc g, h]

/-- A change of registers writes no word of bank 0. -/
@[simp] theorem coreWord_modRegs (s : State) (c : Core) (f : Regs → Regs) (a : Nat) :
    (s.modRegs c f).coreWord c a = s.coreWord c a := by
  cases c with
  | cox e k =>
    unfold State.coreWord State.modRegs
    dsimp only
    rw [slot_modSlot_self]
  | umpire => rfl

@[simp] theorem wdg_modRegs (s : State) (c : Core) (f : Regs → Regs) : (s.modRegs c f).wdg = s.wdg := by cases c <;> rfl

theorem ptr_setPtr (r : Regs) {n : Nat} (hn : n < 16) (p : Nat) (v : BitVec 18) :
    (r.setPtr n v).ptr p = if p = n then v else r.ptr p := by
  unfold Regs.ptr Regs.setPtr
  dsimp only
  rw [Vector.getElem?_setIfInBounds]
  by_cases h : p = n
  · subst h
    simp [hn]
  · simp [h, Ne.symm h]

theorem ptr_setPtr_ne (r : Regs) {n p : Nat} (h : p ≠ n) (v : BitVec 18) : (r.setPtr n v).ptr p = r.ptr p := by
  unfold Regs.ptr Regs.setPtr
  dsimp only
  rw [Vector.getElem?_setIfInBounds, if_neg (Ne.symm h)]

/-! ### What an instruction's beginning counts -/

/-- Pending FLDs, one instruction nearer. -/
def Regs.nearer (r : Regs) : Regs := { r with fld := r.fld.map fun x => { x with left := x.left - 1 } }

theorem slot_count1 (s : State) (e k : Nat) : (s.count1 (.cox e k)).slot e k =
    { s.slot e k with regs := (s.slot e k).regs.nearer, instrs := (s.slot e k).instrs + 1 } := by
  unfold State.count1
  extract_lets s1
  have h1 : s1.slot e k = { s.slot e k with regs := (s.slot e k).regs.nearer } := slot_modSlot_self s e k _
  rw [slot_modSlot_self, h1]

theorem coreRegs_count1 (s : State) (c : Core) : (s.count1 c).coreRegs c = (s.coreRegs c).nearer := by
  cases c with
  | cox e k => exact congrArg Slot.regs (slot_count1 s e k)
  | umpire => rfl

theorem coreWord_count1 (s : State) (c : Core) (a : Nat) : (s.count1 c).coreWord c a = s.coreWord c a := by
  cases c with
  | cox e k =>
    unfold State.coreWord
    dsimp only
    rw [slot_count1]
  | umpire => rfl

theorem wdg_count1 (s : State) (c : Core) : (s.count1 c).wdg = s.wdg := by cases c <;> rfl

/-! ### The operand modes (R187) -/

section

variable (s : State) (c : Core) {sp : BitVec 8} (f : BitVec 18) (n : Nat)

theorem resolve1_undefined (h : spDefined sp f = false) : s.resolve1 c sp f n = .error .operand := by
  unfold State.resolve1
  rw [if_pos h]

theorem resolve1_direct (h : spMode sp = 0) : s.resolve1 c sp f n =
    if spIdx sp = 0 then .ok (.mem (s.coreRegs c).dbk.toNat f.toNat, s) else .error .operand := by
  have hd : spDefined sp f = (spIdx sp == 0) := by unfold spDefined; rw [h]; rfl
  split
  · next hi =>
    unfold State.resolve1
    rw [if_neg (by simp [hd, hi]), h]
    rfl
  · next hi => exact resolve1_undefined s c f n (by simp [hd, hi])

theorem spDefined_pointer (hm : 1 ≤ spMode sp) (hm' : spMode sp ≤ 4) (hi : spIdx sp < 16) : spDefined sp f = true := by
  unfold spDefined
  split
  · omega
  · omega
  · omega
  · omega
  · exact decide_eq_true (by omega)

theorem resolve1_pointer (h : spMode sp = 1) (hi : spIdx sp < 16) : s.resolve1 c sp f n =
    .ok (.mem (s.coreRegs c).dbk.toNat ((s.coreRegs c).ptr (spIdx sp)).toNat, s) := by
  unfold State.resolve1
  rw [if_neg (by rw [spDefined_pointer f (by omega) (by omega) hi]; decide), h]
  rfl

theorem resolve1_postincrement (h : spMode sp = 2) (hi : spIdx sp < 16) : s.resolve1 c sp f n =
    .ok (.mem (s.coreRegs c).dbk.toNat ((s.coreRegs c).ptr (spIdx sp)).toNat,
      s.modRegs c fun r => r.setPtr (spIdx sp) ((s.coreRegs c).ptr (spIdx sp) + BitVec.ofNat 18 n)) := by
  unfold State.resolve1
  rw [if_neg (by rw [spDefined_pointer f (by omega) (by omega) hi]; decide), h]
  exact congrArg (fun t => Except.ok (_, t)) (modRegs_congr rfl)

theorem resolve1_predecrement (h : spMode sp = 3) (hi : spIdx sp < 16)
    (hl : spIdx sp = 15 → (s.coreRegs c).sl ≤ (s.coreRegs c).ptr 15 - BitVec.ofNat 18 n) : s.resolve1 c sp f n =
    .ok (.mem (s.coreRegs c).dbk.toNat ((s.coreRegs c).ptr (spIdx sp) - BitVec.ofNat 18 n).toNat,
      s.modRegs c fun r => r.setPtr (spIdx sp) ((s.coreRegs c).ptr (spIdx sp) - BitVec.ofNat 18 n)) := by
  unfold State.resolve1
  rw [if_neg (by rw [spDefined_pointer f (by omega) (by omega) hi]; decide), h]
  refine if_neg fun ⟨h15, hlt⟩ => ?_
  rw [h15] at hlt
  exact absurd hlt (BitVec.not_lt.2 (hl h15))

theorem resolve1_displacement (h : spMode sp = 4) (hi : spIdx sp < 16) : s.resolve1 c sp f n =
    .ok (.mem (s.coreRegs c).dbk.toNat (BitVec.ofInt 18 (((s.coreRegs c).ptr (spIdx sp)).toNat + f.toInt)).toNat, s) := by
  have ha (p : BitVec 18) : BitVec.ofInt 18 (p.toNat + f.toInt) = p + f := by
    rw [BitVec.ofInt_add, BitVec.ofInt_toInt, BitVec.ofInt_natCast, BitVec.ofNat_toNat, BitVec.setWidth_eq]
  unfold State.resolve1
  rw [if_neg (by rw [spDefined_pointer f (by omega) (by omega) hi]; decide), h, ha]
  rfl

/-- The scale that the field's bits [5:4] name. -/
theorem scaleOf_eq {f : BitVec 18} (h : f.toNat < 64) : scaleOf f = ([0, 1, 2, 4] : List Nat).getD (f.toNat / 16) 0 := by
  have hq : f.toNat / 16 % 4 = f.toNat / 16 := Nat.mod_eq_of_lt (by omega)
  unfold scaleOf
  rw [hq]
  have hlt : f.toNat / 16 < 4 := by omega
  interval_cases f.toNat / 16 <;> rfl

theorem resolve1_indexed (h : spMode sp = 5) (hi : spIdx sp < 16) : s.resolve1 c sp f n =
    if 64 ≤ f.toNat then .error .operand else
      .ok (.mem (s.coreRegs c).dbk.toNat ((s.coreRegs c).ptr (spIdx sp) +
        ((s.coreRegs c).ptr (f.toNat % 16) <<< ([0, 1, 2, 4] : List Nat).getD (f.toNat / 16) 0)).toNat, s) := by
  have hd : spDefined sp f = (decide (spIdx sp ≤ 15) && decide (f.toNat < 64)) := by unfold spDefined; rw [h]; rfl
  split
  · next hf => exact resolve1_undefined s c f n (by simp [hd, hf])
  · next hf =>
    rw [← scaleOf_eq (by omega)]
    unfold State.resolve1
    rw [if_neg (by simp [hd]; omega), h]
    rfl

theorem resolve1_immediate (h : spMode sp = 6) : s.resolve1 c sp f n = if spIdx sp = 0 then .ok (.imm (f.setWidth 128), s)
    else if spIdx sp = 1 then .ok (.imm (f.signExtend 128), s) else .error .operand := by
  have hd : spDefined sp f = decide (spIdx sp ≤ 1) := by unfold spDefined; rw [h]; rfl
  have hok (hi : spIdx sp ≤ 1) : s.resolve1 c sp f n = .ok (.imm (immOf (spIdx sp) f), s) := by
    unfold State.resolve1
    rw [if_neg (by simp [hd, hi]), h]
    rfl
  split
  · next h0 => rw [hok (by omega), h0]; rfl
  split
  · next h1 => rw [hok (by omega), h1]; rfl
  · exact resolve1_undefined s c f n (by rw [hd]; exact decide_eq_false (by omega))

theorem resolve1_special (h : spMode sp = 7) (hi : spIdx sp ≤ 28) (hu : c = .umpire → spIdx sp < 16) :
    s.resolve1 c sp f n = .ok (.special (spIdx sp), s) := by
  have hd : spDefined sp f = true := by unfold spDefined; rw [h]; exact decide_eq_true hi
  unfold State.resolve1
  rw [if_neg (by rw [hd]; decide), h]
  exact if_neg fun ⟨h16, hc⟩ => absurd (hu hc) (by omega)

end

/-- Settles O29, one lemma for each mode. -/
theorem operandModesFormAddresses : Obligations.OperandModesFormAddresses := by
  unfold Obligations.OperandModesFormAddresses
  intro s c sp f n r word point
  refine ⟨resolve1_direct s c f n, resolve1_pointer s c f n, resolve1_postincrement s c f n, resolve1_predecrement s c f n,
    resolve1_displacement s c f n, resolve1_indexed s c f n, resolve1_immediate s c f n, fun v i z => rfl, resolve1_special s c f n,
    fun v => ?_, fun p v h => ?_⟩
  · cases v <;> exact ⟨rfl, rfl⟩
  · exact (congrArg (Regs.ptr · p) (coreRegs_modRegs s c _)).trans (ptr_setPtr_ne _ h v)

end Sys2Proof.Machine

/-!
# Sources and destinations of a cox (R182, R188, R190, R199, R202)
-/

namespace Sys2Proof.Machine

-- One declaration after the other: elaborated side by side, the row as one text takes more threads than the check allows.
set_option Elab.async false

/-! ### The bytes of a word (R180) -/

theorem ofLe_mod (l : List Byte) : ofLe l % 256 = (l.getD 0 0).toNat := by
  cases l with
  | nil => rfl
  | cons b r =>
    have := b.isLt
    show (b.toNat + 256 * ofLe r) % 256 = b.toNat
    omega

theorem ofLe_div (l : List Byte) : ofLe l / 256 = ofLe (l.drop 1) := by
  cases l with
  | nil => rfl
  | cons b r =>
    have := b.isLt
    show (b.toNat + 256 * ofLe r) / 256 = ofLe r
    omega

theorem ofLe_div_pow (l : List Byte) (j : Nat) : ofLe l / 256 ^ j = ofLe (l.drop j) := by
  induction j with
  | zero => rw [pow_zero, Nat.div_one, List.drop_zero]
  | succ j ih => rw [pow_succ, ← Nat.div_div_eq_div_mul, ih, ofLe_div, List.drop_drop]

/-- Byte `j` of the word that bytes make (R180, R202). -/
theorem extractLsb'_wordOf (l : List Byte) {j : Nat} (h : j < 16) : (wordOf l).extractLsb' (8 * j) 8 = l.getD j 0 := by
  have hb : (2 : Nat) ^ (8 * j) = 256 ^ j := by rw [pow_mul]; norm_num
  have hd : (2 : Nat) ^ 128 = 256 ^ j * (256 * 256 ^ (15 - j)) := by
    rw [show (2 : Nat) ^ 128 = 256 ^ 16 by norm_num, ← pow_succ', ← pow_add]
    congr 1
    omega
  have hg : (l.take 16).getD j 0 = l.getD j 0 := by simp [List.getD_eq_getElem?_getD, h]
  apply BitVec.eq_of_toNat_eq
  rw [BitVec.extractLsb'_toNat, Nat.shiftRight_eq_div_pow, wordOf, BitVec.toNat_ofNat, hb, hd, Nat.mod_mul_right_div_self,
    show (2 : Nat) ^ 8 = 256 from rfl, Nat.mod_mul_right_mod, ofLe_div_pow, ofLe_mod, ← hg]
  simp [List.getD_eq_getElem?_getD]

theorem getD_wordBytes (w : Word) {j : Nat} (h : j < 16) : (wordBytes w).getD j 0 = w.extractLsb' (8 * j) 8 := by
  rw [wordBytes_eq_map]
  simp [List.getD_eq_getElem?_getD, h]

theorem length_wordBytes (w : Word) : (wordBytes w).length = 16 := length_leBytes 16 _

/-- Bytes 8 j to 8 j + 7 of a word, for j below 16, are the whole of it. -/
theorem word_eq_of_bytes {x y : Word} (h : ∀ j, j < 16 → x.extractLsb' (8 * j) 8 = y.extractLsb' (8 * j) 8) : x = y := by
  apply BitVec.eq_of_getLsbD_eq
  intro i hi
  have hb := congrArg (BitVec.getLsbD · (i % 8)) (h (i / 8) (by omega))
  have h8 : i % 8 < 8 := by omega
  have hi' : 8 * (i / 8) + i % 8 = i := by omega
  simpa [h8, hi'] using hb

theorem ofLe_leBytes (k n : Nat) : ofLe (leBytes k n) = n % 256 ^ k := by
  induction k generalizing n with
  | zero => rw [pow_zero, Nat.mod_one]; rfl
  | succ k ih =>
    have hm : (byteOf n).toNat = n % 256 := BitVec.toNat_ofNat n 8
    show (byteOf n).toNat + 256 * ofLe (leBytes k (n / 256)) = _
    rw [ih, hm, pow_succ', Nat.mod_mul]

theorem ofBe_beBytes (k n : Nat) : ofBe (beBytes k n) = n % 256 ^ k := by
  unfold ofBe beBytes
  rw [List.reverse_reverse, ofLe_leBytes]

theorem wordBytes_wordOf {l : List Byte} (h : l.length = 16) : wordBytes (wordOf l) = l := by
  refine List.ext_getElem (by rw [length_wordBytes, h]) fun j h1 h2 => ?_
  have hj : j < 16 := by omega
  have hg := (getD_wordBytes (wordOf l) hj).trans (extractLsb'_wordOf l hj)
  simpa [List.getD_eq_getElem?_getD, h1, h2] using hg

theorem length_beBytes (k n : Nat) : (beBytes k n).length = k := (List.length_reverse).trans (length_leBytes k n)

/-- The block whose bytes, byte 15 least significant, are the number `n`. -/
theorem ofBe_wordBytes_wordOf {n : Nat} (h : n < 2 ^ 128) : ofBe (wordBytes (wordOf (beBytes 16 n))) = n := by
  rw [wordBytes_wordOf (length_beBytes 16 n), ofBe_beBytes, show (256 : Nat) ^ 16 = 2 ^ 128 by norm_num, Nat.mod_eq_of_lt h]

theorem ofLe_lt (l : List Byte) : ofLe l < 256 ^ l.length := by
  induction l with
  | nil => exact Nat.one_pos
  | cons b r ih =>
    have := b.isLt
    show b.toNat + 256 * ofLe r < 256 ^ (r.length + 1)
    rw [pow_succ]
    omega

theorem ofBe_wordBytes_lt (w : Word) : ofBe (wordBytes w) < 2 ^ 128 := by
  have h := ofLe_lt (wordBytes w).reverse
  rwa [List.length_reverse, length_wordBytes, show (256 : Nat) ^ 16 = 2 ^ 128 by norm_num] at h

/-! ### Memory, immediates and pointers -/

section

variable (s : State) (e k : Nat)

theorem memRead_outside {b a : Nat} (h : 1 < b ∨ b = 0 ∧ 0x400 ≤ a ∨ b = 1 ∧ 0x100 ≤ a) :
    s.memRead (.cox e k) b a = .error (.address (farAddr b a)) := by
  unfold State.memRead
  dsimp only
  rw [if_neg (by omega), if_neg (by omega)]

theorem memRead_window {a : Nat} (h : a < 0x400) : s.memRead (.cox e k) 0 a = .ok ((s.slot e k).win.get 0 a, s) :=
  if_pos ⟨rfl, h⟩

theorem memRead_constants {a : Nat} (h : a < 0x100) : s.memRead (.cox e k) 1 a = .ok (s.constAt e k a, s) := by
  unfold State.memRead
  dsimp only
  rw [if_neg (by omega), if_pos ⟨rfl, h⟩]

theorem writeLoc_window {a i : Nat} (h : (a + i) % 262144 < 0x400) (v : Word) :
    ∃ u, s.writeLoc (.cox e k) (.mem 0 a) i allLanes v = .ok u ∧
      ∀ w, (u.slot e k).win.get 0 w = if w = (a + i) % 262144 then v else (s.slot e k).win.get 0 w := by
  refine ⟨_, memWrite_window s e k h v, fun w => ?_⟩
  rw [slot_modSlot_self]
  exact SMap.get_set _ _ _ _ _

theorem writeLoc_constants (a i : Nat) (v : Word) :
    s.writeLoc (.cox e k) (.mem 1 a) i allLanes v = .error (.address (farAddr 1 ((a + i) % 262144))) := by
  unfold State.writeLoc State.memWrite
  dsimp only
  rw [if_neg (by omega)]

theorem readLoc_pointer (c : Core) {n : Nat} (h : n < 16) (i : Nat) :
    s.readLoc c (.special n) i = .ok (((s.coreRegs c).ptr n).setWidth 128, s) := if_pos h

theorem writeLoc_pointer (c : Core) {n : Nat} (h : n < 16) (i : Nat) (v : Word) :
    s.writeLoc c (.special n) i allLanes v = .ok (s.modRegs c fun r => r.setPtr n (v.setWidth 18)) :=
  (if_pos h).trans rfl

theorem ptr_modRegs_setPtr (c : Core) {n : Nat} (h : n < 16) (v : BitVec 18) (p : Nat) :
    ((s.modRegs c fun r => r.setPtr n v).coreRegs c).ptr p = if p = n then v else (s.coreRegs c).ptr p := by
  rw [coreRegs_modRegs]
  exact ptr_setPtr _ h p v

/-! ### Streams, the tag and the counter block -/

/-- The bytes of a stream that are still unread, in message order, and zeros beyond them. -/
theorem extractLsb'_streamWord (data : List Byte) (left : Nat) {j : Nat} (h : j < 16) :
    (streamWord data left).extractLsb' (8 * j) 8 = if j < left then data.getD (data.length - left + j) 0 else 0 := by
  unfold streamWord
  rw [extractLsb'_wordOf _ h]
  by_cases hj : j < left
  · simp [hj, List.getD_eq_getElem?_getD]
  · rw [if_neg hj]
    exact List.getD_eq_default _ _ (by rw [List.length_drop]; omega)

theorem extractLsb'_tagWord (tag : Word) (n : Nat) {j : Nat} (h : j < 16) :
    (wordOf (padTo 16 ((wordBytes tag).take n))).extractLsb' (8 * j) 8 = if j < n then tag.extractLsb' (8 * j) 8 else 0 := by
  have hp : ∀ l : List Byte, l.length ≤ 16 → (padTo 16 l).getD j 0 = l.getD j 0 := by
    intro l hl
    unfold padTo
    rw [List.take_of_length_le hl]
    by_cases hj : j < l.length
    · rw [List.getD_append _ _ _ _ hj]
    · rw [List.getD_append_right _ _ _ _ (by omega), List.getD_eq_default l _ (by omega)]
      exact List.getD_replicate 0 (by omega)
  rw [extractLsb'_wordOf _ h, hp _ (by rw [List.length_take, length_wordBytes]; omega)]
  split
  · next hj =>
    rw [← getD_wordBytes tag h]
    simp [List.getD_eq_getElem?_getD, hj]
  · next hj => exact List.getD_eq_default _ _ (by rw [List.length_take]; omega)

theorem readLoc_special {n : Nat} (h : ¬ n < 16) (i : Nat) : s.readLoc (.cox e k) (.special n) i = s.readSpecial e k n := if_neg h

theorem writeLoc_special {n : Nat} (h : ¬ n < 16) (i : Nat) (sel : Nat → Bool) (v : Word) :
    s.writeLoc (.cox e k) (.special n) i sel v = s.writeSpecial e k n v := if_neg h

/-- A write to OUT passes on what is left of the output, and no byte more. -/
theorem writeLoc_out (i : Nat) (v : Word) : s.writeLoc (.cox e k) (.special 25) i allLanes v = .ok (s.modSlot e k fun t =>
    { t with outBuf := t.outBuf ++ (wordBytes v).take (min 16 t.outLeft), outLeft := t.outLeft - 16 }) := by
  have ht (n : Nat) : (wordBytes v).take (min 16 n) = (wordBytes v).take n := by
    rw [← length_wordBytes v, Nat.min_comm, ← List.take_eq_take_min]
  simp only [ht]
  exact writeLoc_special s e k (by decide) i allLanes v

/-- The counter bits and those above them after one step that does not wrap (R183, R199). -/
theorem cbg_step (cfg : BitVec 2) (w : Word) (h : cbgLow cfg w + 1 ≠ 2 ^ cbgWidth cfg) :
    let w' := wordOf (beBytes 16 (ofBe (wordBytes w) + 1))
    cbgLow cfg w' = cbgLow cfg w + 1 ∧ ofBe (wordBytes w') / 2 ^ cbgWidth cfg = ofBe (wordBytes w) / 2 ^ cbgWidth cfg := by
  have hw : cbgWidth cfg ≤ 128 := by unfold cbgWidth; split <;> decide
  unfold cbgLow at *
  generalize cbgWidth cfg = n at *
  have hv := ofBe_wordBytes_lt w
  generalize ofBe (wordBytes w) = v at *
  have hpos : 0 < 2 ^ n := Nat.two_pow_pos n
  have hlt : v % 2 ^ n + 1 < 2 ^ n := lt_of_le_of_ne (Nat.mod_lt v hpos) h
  have hdvd : (2 : Nat) ^ n ∣ 2 ^ 128 := Nat.pow_dvd_pow 2 hw
  have hmod : (v + 1) % 2 ^ n = v % 2 ^ n + 1 := by
    rw [Nat.add_mod, Nat.mod_eq_of_lt (show 1 < 2 ^ n by omega), Nat.mod_eq_of_lt hlt]
  have hdiv : (v + 1) / 2 ^ n = v / 2 ^ n := Nat.succ_div_of_not_dvd fun hd => by
    have := Nat.mod_eq_zero_of_dvd hd
    omega
  have hfit : v + 1 < 2 ^ 128 := by
    refine lt_of_le_of_ne hv fun he => ?_
    have := Nat.mod_eq_zero_of_dvd (he ▸ hdvd : (2 : Nat) ^ n ∣ v + 1)
    omega
  dsimp only
  rw [ofBe_wordBytes_wordOf hfit]
  exact ⟨hmod, hdiv⟩

/-- Slot `u` when the counter block of `t`, the same slot, has been delivered: the counter steps, or its last block has gone (R171,
R199). -/
def Slot.delivered (t u : Slot) : Slot :=
  if cbgLow t.cbgCfg t.cbg + 1 = 2 ^ cbgWidth u.cbgCfg then { u with cbgFull := true }
  else { u with cbg := wordOf (beBytes 16 (ofBe (wordBytes t.cbg) + 1)) }

theorem readSpecial_counter : s.readSpecial e k 28 =
    if (s.slot e k).cbgFull then .error .counter else .ok ((s.slot e k).cbg, s.modSlot e k (s.slot e k).delivered) := rfl

theorem readLoc_counter (i : Nat) (h : (s.slot e k).cbgFull = false) : let t := s.slot e k
    ∃ u, s.readLoc (.cox e k) (.special 28) i = .ok (t.cbg, u) ∧
      (cbgLow t.cbgCfg t.cbg + 1 = 2 ^ cbgWidth t.cbgCfg → u.slot e k = { t with cbgFull := true }) ∧
      (cbgLow t.cbgCfg t.cbg + 1 ≠ 2 ^ cbgWidth t.cbgCfg →
        cbgLow t.cbgCfg (u.slot e k).cbg = cbgLow t.cbgCfg t.cbg + 1 ∧
        ofBe (wordBytes (u.slot e k).cbg) / 2 ^ cbgWidth t.cbgCfg = ofBe (wordBytes t.cbg) / 2 ^ cbgWidth t.cbgCfg ∧
        (u.slot e k).cbgFull = false) := by
  intro t
  have hr := (readSpecial_counter s e k).trans (if_neg (by rw [h]; exact Bool.false_ne_true))
  refine ⟨_, (readLoc_special s e k (by decide) i).trans hr, fun hf => ?_, fun hn => ?_⟩
  · exact (slot_modSlot_self s e k _).trans (if_pos hf)
  · rw [slot_modSlot_self, Slot.delivered, if_neg hn]
    obtain ⟨h1, h2⟩ := cbg_step t.cbgCfg t.cbg hn
    exact ⟨h1, h2, h⟩

theorem writeLoc_counter (i : Nat) (v : Word) (h : s.gcmOver (s.slot e k) v = false) :
    s.writeLoc (.cox e k) (.special 28) i allLanes v = .ok (s.modSlot e k fun t => { t with cbg := v, cbgFull := false }) :=
  (writeLoc_special s e k (by decide) i allLanes v).trans (if_neg (by rw [h]; decide))

end

/-- Settles O30. That the block of all ones is delivered once, and that a write of CBG is where a GCM message too long is refused, are
log entry 44's reading of R171 and R199. -/
theorem sourcesAndDestinationsOfACox : Obligations.SourcesAndDestinationsOfACox := by
  unfold Obligations.SourcesAndDestinationsOfACox
  intro s e k c t
  refine ⟨fun a i h => memRead_window s e k h, fun a i h => memRead_constants s e k h, fun b a i h => memRead_outside s e k h,
    fun a i v h => writeLoc_window s e k h v, writeLoc_constants s e k, fun v i => rfl, fun n i h => readLoc_pointer s c h i,
    fun n i v h => ⟨_, writeLoc_pointer s c h i v, fun p _ => ptr_modRegs_setPtr s c h _ p⟩,
    fun i => ⟨_, _, readLoc_special s e k (by decide) i, slot_modSlot_self s e k _, fun j => extractLsb'_streamWord _ _⟩,
    fun i => ⟨_, _, readLoc_special s e k (by decide) i, slot_modSlot_self s e k _, fun j => extractLsb'_streamWord _ _⟩,
    fun i v => ⟨_, writeLoc_out s e k i v, slot_modSlot_self s e k _⟩,
    fun i => ⟨_, readLoc_special s e k (by decide) i, fun j => extractLsb'_tagWord _ _⟩,
    fun i v => ⟨_, writeLoc_special s e k (by decide) i allLanes v, slot_modSlot_self s e k _⟩,
    readLoc_counter s e k, fun i h => (readLoc_special s e k (by decide) i).trans (if_pos h),
    fun i v h => ⟨_, writeLoc_counter s e k i v h, slot_modSlot_self s e k _⟩⟩

end Sys2Proof.Machine

/-!
# Vector instructions, bit fields and bytes (R190 to R194)

A meaning that reads and writes element by element leaves what its elements' steps leave in turn (`vecBody_each`, `scalarBody_each`,
`unaryBody_each`); what is left to say is the value of one element.
-/

namespace Sys2Proof.Machine

-- One declaration after the other: elaborated side by side, the row as one text takes more threads than the check allows.
set_option Elab.async false

/-! ### Elements in turn (R190) -/

theorem eachElem_steps {f : State → Nat → Except Trap State} {w : Nat → State} (n : Nat)
    (h : ∀ k, k < n → f (w k) k = .ok (w (k + 1))) : eachElem n f (w 0) = .ok (w n) := by
  unfold eachElem
  induction n with
  | zero => rfl
  | succ n ih =>
    rw [List.range_succ]
    exact foldlM_concat (ih fun k hk => h k (Nat.lt_succ_of_lt hk)) (h n (Nat.lt_succ_self n))

section

variable {op : Nat} {i : At} {a d : State}

theorem vecBody_each {R : Word → Word → Word → Prop} {f : Word → Word → Word} (hR : ∀ b c z, R b c z → z = f b c)
    (h : EachVV op R i a d) : vecBody op f i a = .ok (d, .seq) := by
  obtain ⟨o, w, ho, h0, rfl, hw⟩ := h
  unfold vecBody
  rw [ho]
  dsimp only
  rw [← h0, eachElem_steps i.vl fun k hk => ?_]
  · rfl
  · obtain ⟨b, u, c, v, z, hb, hc, hz, hwr⟩ := hw k hk
    rw [hb]
    dsimp only
    rw [hc]
    dsimp only
    rw [← hR b c z hz, hwr]

theorem unaryBody_each {R : Word → Word → Prop} {f : Word → Word} (hR : ∀ b z, R b z → z = f b) (h : EachV op R i a d) :
    unaryBody op f i a = .ok (d, .seq) := by
  obtain ⟨o, w, ho, h0, rfl, hw⟩ := h
  unfold unaryBody
  rw [ho]
  dsimp only
  rw [← h0, eachElem_steps i.vl fun k hk => ?_]
  · rfl
  · obtain ⟨b, u, z, hb, hz, hwr⟩ := hw k hk
    rw [hb]
    dsimp only
    rw [← hR b z hz, hwr]

theorem scalarBody_each {R : Word → Word → Word → Prop} {f : Word → Word → Word} (hR : ∀ b c z, R b c z → z = f b c)
    (h : EachVS op R i a d) : scalarBody op false (fun _ b c => f b c) i a = .ok (d, .seq) := by
  obtain ⟨o, c, w, ho, hc, rfl, hw⟩ := h
  unfold scalarBody
  rw [ho]
  dsimp only
  rw [hc]
  dsimp only
  rw [eachElem_steps i.vl fun k hk => ?_]
  · rfl
  · obtain ⟨b, u, z, hb, hz, hwr⟩ := hw k hk
    rw [hb]
    dsimp only
    rw [if_neg Bool.false_ne_true]
    dsimp only
    rw [← hR b c z hz, hwr]

theorem scalarBody_keeping {R : Word → Word → Word → Word → Prop} {f : Word → Word → Word → Word}
    (hR : ∀ old b c z, R old b c z → z = f old b c) (h : EachKeeping op R i a d) : scalarBody op true f i a = .ok (d, .seq) := by
  obtain ⟨o, c, w, ho, hc, rfl, hw⟩ := h
  unfold scalarBody
  rw [ho]
  dsimp only
  rw [hc]
  dsimp only
  rw [eachElem_steps i.vl fun k hk => ?_]
  · rfl
  · obtain ⟨b, u, old, v, z, hb, hold, hz, hwr⟩ := hw k hk
    rw [hb]
    dsimp only
    rw [if_pos rfl, hold]
    dsimp only
    rw [← hR old b c z hz, hwr]

end

/-! ### The exclusive or of a list (XRED) -/

/-- A bit of the exclusive or of words is the parity of those that have it. -/
theorem getLsbD_foldl_xor (l : List Word) (x : Word) (j : Nat) : (l.foldl (· ^^^ ·) x).getLsbD j =
    (x.getLsbD j ^^ ((l.filter fun w => w.getLsbD j).length % 2 == 1)) := by
  induction l generalizing x with
  | nil => simp
  | cons w l ih =>
    rw [List.foldl_cons, ih, BitVec.getLsbD_xor]
    cases hw : w.getLsbD j with
    | false => simp [hw]
    | true =>
      rw [List.filter_cons_of_pos (by exact hw), List.length_cons, Bool.xor_assoc]
      rcases Nat.mod_two_eq_zero_or_one (l.filter fun w => w.getLsbD j).length with h | h <;> simp [h, Nat.add_mod]

theorem xredBody_reads {i : At} {a u d : State} {o : Abc} {b : Nat → Word} {z : Word} (ho : a.abc 0x14 i = .ok o)
    (hr : ReadsAll i.c o.b i.vl o.s b u)
    (hz : ∀ j, z.getLsbD j = (((List.range i.vl).filter fun k => (b k).getLsbD j).length % 2 == 1))
    (hw : u.writeLoc i.c o.a 0 allLanes z = .ok d) : xredBody i a = .ok (d, .seq) := by
  have hx : ((List.range i.vl).map b).foldl (· ^^^ ·) 0 = z := BitVec.eq_of_getLsbD_eq fun j _ => by
    rw [getLsbD_foldl_xor, hz, List.filter_map, List.length_map, BitVec.ofNat_eq_ofNat, BitVec.getLsbD_zero, Bool.false_xor]
    rfl
  unfold xredBody
  rw [ho]
  dsimp only
  rw [readAll_of_readsAll hr]
  dsimp only
  rw [hx, hw]
  rfl

/-! ### Lanes (R192) -/

/-- Words put together from their lanes of `w` bits. -/
def ofLanes (w : Nat) (g : Nat → BitVec w) (m : Nat) : Word :=
  (List.range m).foldl (fun (r : Word) n => r ||| ((g n).setWidth 128 <<< (w * n))) 0

theorem getLsbD_ofLanes {w : Nat} (hw : 0 < w) (g : Nat → BitVec w) (m : Nat) {i : Nat} (hi : i < 128) :
    (ofLanes w g m).getLsbD i = (decide (i / w < m) && (g (i / w)).getLsbD (i % w)) := by
  have hdm := Nat.div_add_mod i w
  have hlt := Nat.mod_lt i hw
  induction m with
  | zero => simp [ofLanes]
  | succ m ih =>
    have hs : ofLanes w g (m + 1) = ofLanes w g m ||| ((g m).setWidth 128 <<< (w * m)) := by
      unfold ofLanes
      rw [List.range_succ, List.foldl_append]
      rfl
    rw [hs, BitVec.getLsbD_or, ih, BitVec.getLsbD_shiftLeft, BitVec.getLsbD_setWidth]
    rcases Nat.lt_trichotomy (i / w) m with h | h | h
    · have h1 : i < w * m := by
        have := Nat.mul_le_mul_left w (Nat.succ_le_of_lt h)
        rw [Nat.mul_succ] at this
        omega
      simp [h, h1, Nat.lt_succ_of_lt h]
    · subst h
      have h1 : ¬ i < w * (i / w) := by omega
      have h2 : i - w * (i / w) = i % w := by omega
      simp [h1, h2, hi, show i % w < 128 by omega]
    · have h1 : w ≤ i - w * m := by
        have := Nat.mul_le_mul_left w (Nat.succ_le_of_lt h)
        rw [Nat.mul_succ] at this
        omega
      simp [show ¬ i / w < m by omega, show ¬ i / w < m + 1 by omega, BitVec.getLsbD_of_ge _ _ h1]

theorem setWidth_shiftRight_eq_extractLsb' (w n : Nat) (x : Word) : (x >>> n).setWidth w = x.extractLsb' n w :=
  BitVec.eq_of_getLsbD_eq fun i hi => by simp [hi]

theorem lanes2_eq_ofLanes (w : Nat) (f : BitVec w → BitVec w → BitVec w) (b c : Word) :
    lanes2 w f b c = ofLanes w (fun n => f (b.extractLsb' (w * n) w) (c.extractLsb' (w * n) w)) (128 / w) := by
  unfold lanes2 ofLanes
  simp only [setWidth_shiftRight_eq_extractLsb']

/-- What each lane of a word is tells the word, where lanes fill it. -/
theorem eq_lanes2_of_onLanes {w : Nat} (hw : 0 < w) (hd : w ∣ 128) {f : BitVec w → BitVec w → BitVec w} {b c z : Word}
    (h : OnLanes w f b c z) : z = lanes2 w f b c := by
  rw [lanes2_eq_ofLanes]
  apply BitVec.eq_of_getLsbD_eq
  intro i hi
  have hq : i / w < 128 / w := Nat.div_lt_div_of_lt_of_dvd hd hi
  have hn := h (i / w) (by
    have := Nat.mul_le_mul_left w (Nat.succ_le_of_lt hq)
    rwa [Nat.mul_div_cancel' hd, Nat.mul_succ] at this)
  rw [getLsbD_ofLanes hw _ _ hi, ← hn, decide_eq_true hq, Bool.true_and, BitVec.getLsbD_extractLsb',
    decide_eq_true (Nat.mod_lt i hw), Bool.true_and, Nat.div_add_mod]

/-- A shift of lanes by a count of their width or more leaves nothing (R192). -/
theorem onLanes_of_onLanesBy {w : Nat} {f : BitVec w → Nat → BitVec w} (hf : ∀ x n, w ≤ n → f x n = 0) {b c z : Word}
    (h : OnLanesBy w f b c z) : OnLanes w (fun x _ => f x (shiftCount c)) b 0 z := by
  intro n hn
  refine (h n hn).trans ?_
  split
  · next hc => exact (hf _ _ hc).symm
  · rfl

theorem eq_laneShl {w : Nat} (hw : 0 < w) (hd : w ∣ 128) {b c z : Word} (h : OnLanesBy w (· <<< ·) b c z) : z = laneShl w b c :=
  eq_lanes2_of_onLanes hw hd (onLanes_of_onLanesBy (fun _ _ hn => BitVec.shiftLeft_eq_zero hn) h)

theorem eq_laneShr {w : Nat} (hw : 0 < w) (hd : w ∣ 128) {b c z : Word} (h : OnLanesBy w (· >>> ·) b c z) : z = laneShr w b c :=
  eq_lanes2_of_onLanes hw hd (onLanes_of_onLanesBy (fun _ _ hn => BitVec.ushiftRight_eq_zero hn) h)

section

variable {op : Nat} {mk : Core → Enc → Instr} (hm : (op, mk) ∈ traernOps)
include hm

theorem completes_bitwise {g : Bool → Bool → Bool} {f : Word → Word → Word}
    (hg : ∀ b c i, (f b c).getLsbD i = g (b.getLsbD i) (c.getLsbD i))
    (hf : bodyOf op = some (vecBody op f)) : Completes op (EachVV op fun b c z => ∀ i, z.getLsbD i = g (b.getLsbD i) (c.getLsbD i)) mk :=
  completes_of_body hm hf fun _ _ _ =>
    vecBody_each fun b c _ hz => BitVec.eq_of_getLsbD_eq fun i _ => (hz i).trans (hg b c i).symm

theorem completes_lanes {w : Nat} (hw : 0 < w) (hd : w ∣ 128) {f : BitVec w → BitVec w → BitVec w}
    (hf : bodyOf op = some (vecBody op (lanes2 w f))) : Completes op (EachVV op (OnLanes w f)) mk :=
  completes_of_body hm hf fun _ _ _ => vecBody_each fun _ _ _ => eq_lanes2_of_onLanes hw hd

theorem completes_laneShl {w : Nat} (hw : 0 < w) (hd : w ∣ 128) (hf : bodyOf op = some (scalarBody op false fun _ b c => laneShl w b c)) :
    Completes op (EachVS op (OnLanesBy w (· <<< ·))) mk :=
  completes_of_body hm hf fun _ _ _ => scalarBody_each fun _ _ _ => eq_laneShl hw hd

theorem completes_laneShr {w : Nat} (hw : 0 < w) (hd : w ∣ 128) (hf : bodyOf op = some (scalarBody op false fun _ b c => laneShr w b c)) :
    Completes op (EachVS op (OnLanesBy w (· >>> ·))) mk :=
  completes_of_body hm hf fun _ _ _ => scalarBody_each fun _ _ _ => eq_laneShr hw hd

end

/-- Settles O32: the elements in turn, and the value of each. -/
theorem vectorLogicAndArithmetic : Obligations.VectorLogicAndArithmetic := by
  unfold Obligations.VectorLogicAndArithmetic
  refine ⟨completes_of_body (f := movBody) (by simp [traernOps]) rfl fun _ _ _ => unaryBody_each fun _ _ h => h,
    completes_bitwise (by simp [traernOps]) (fun b c i => BitVec.getLsbD_xor) rfl,
    completes_bitwise (by simp [traernOps]) (fun b c i => BitVec.getLsbD_and) rfl,
    completes_bitwise (by simp [traernOps]) (fun b c i => BitVec.getLsbD_or) rfl,
    completes_of_body (f := andnBody) (by simp [traernOps]) rfl fun _ _ _ => vecBody_each fun b c z hz =>
      BitVec.eq_of_getLsbD_eq fun i hi => (hz i).trans (by simp [hi]),
    completes_of_body (f := xredBody) (by simp [traernOps]) rfl fun i a d ⟨o, b, u, z, ho, hr, hz, hw⟩ => xredBody_reads ho hr hz hw,
    ?_⟩
  refine ⟨completes_lanes (by simp [traernOps]) ?_ ?_ rfl, completes_lanes (by simp [traernOps]) ?_ ?_ rfl,
    completes_lanes (by simp [traernOps]) ?_ ?_ rfl, completes_lanes (by simp [traernOps]) ?_ ?_ rfl,
    completes_lanes (by simp [traernOps]) ?_ ?_ rfl, completes_lanes (by simp [traernOps]) ?_ ?_ rfl,
    completes_laneShl (by simp [traernOps]) ?_ ?_ rfl, completes_laneShl (by simp [traernOps]) ?_ ?_ rfl,
    completes_laneShl (by simp [traernOps]) ?_ ?_ rfl, completes_laneShr (by simp [traernOps]) ?_ ?_ rfl,
    completes_laneShr (by simp [traernOps]) ?_ ?_ rfl, completes_laneShr (by simp [traernOps]) ?_ ?_ rfl⟩
  all_goals decide

/-! ### Bit fields (R193) -/

theorem getLsbD_lowBits (n i : Nat) : (lowBits n).getLsbD i = (decide (i < 128) && decide (i < n)) := by
  unfold lowBits
  rw [BitVec.getLsbD_ofNat, Nat.testBit_two_pow_sub_one]

theorem bfiOf_bit (old b c : Word) {i : Nat} (hi : i < 128) : (bfiOf old b c).getLsbD i =
    if c.toNat % 128 ≤ i ∧ i ≤ c.toNat % 128 + c.toNat / 128 % 128 then b.getLsbD (i - c.toNat % 128) else old.getLsbD i := by
  unfold bfiOf
  extract_lets m
  have hm : m.getLsbD i = decide (c.toNat % 128 ≤ i ∧ i ≤ c.toNat % 128 + c.toNat / 128 % 128) := by
    dsimp only [m]
    rw [BitVec.getLsbD_shiftLeft, getLsbD_lowBits, Bool.eq_iff_iff]
    unfold fieldPos fieldWidth
    simp only [Bool.and_eq_true, Bool.not_eq_true', decide_eq_true_eq, decide_eq_false_iff_not]
    omega
  rw [BitVec.getLsbD_or, BitVec.getLsbD_and, BitVec.getLsbD_and, BitVec.getLsbD_not, hm]
  split
  · next h =>
    rw [decide_eq_true h, BitVec.getLsbD_shiftLeft, decide_eq_true hi, fieldPos, decide_eq_false (Nat.not_lt.2 h.1)]
    simp
  · next h => simp [h, hi]

theorem bfxOf_bit (b c : Word) {i : Nat} (hi : i < 128) : (bfxOf b c).getLsbD i =
    (decide (i ≤ c.toNat / 128 % 128) && b.getLsbD (i + c.toNat % 128)) := by
  unfold bfxOf fieldWidth fieldPos
  rw [BitVec.getLsbD_and, getLsbD_lowBits, BitVec.getLsbD_ushiftRight, decide_eq_true hi, Bool.true_and, Bool.and_comm, Nat.add_comm i,
    decide_eq_decide.2 Nat.lt_succ_iff]

/-! ### BPERM (R194) and CLZ (R191) -/

theorem bpermOf_byte (b c : Word) {i : Nat} (hi : i < 16) : (bpermOf b c).extractLsb' (8 * i) 8 =
    if c.getLsbD (8 * i + 7) then 0 else b.extractLsb' (8 * (c.extractLsb' (8 * i) 4).toNat) 8 := by
  have hmsb : (c.extractLsb' (8 * i) 8).msb = c.getLsbD (8 * i + 7) := by
    rw [BitVec.msb_eq_getLsbD_last, BitVec.getLsbD_extractLsb']
    rfl
  have hlow : (c.extractLsb' (8 * i) 8).toNat % 16 = (c.extractLsb' (8 * i) 4).toNat := by
    rw [BitVec.extractLsb'_toNat, BitVec.extractLsb'_toNat]
    omega
  unfold bpermOf
  rw [extractLsb'_wordOf _ hi, wordBytes_eq_map c, List.map_map]
  simp only [List.getD_eq_getElem?_getD, List.getElem?_map, List.getElem?_range hi, Option.map_some, Option.getD_some, Function.comp_apply]
  rw [hmsb, hlow, ← List.getD_eq_getElem?_getD, getD_wordBytes b (BitVec.isLt _)]

/-- The number of leading zeros of a word is the one count with zeros above it and a one below it. -/
theorem eq_clzOf {b z : Word} (h0 : z.toNat ≤ 128) (h1 : ∀ i, 128 - z.toNat ≤ i → b.getLsbD i = false)
    (h2 : z.toNat < 128 → b.getLsbD (127 - z.toNat) = true) : z = clzOf b := by
  unfold clzOf
  split
  · next hb =>
    subst hb
    refine BitVec.eq_of_toNat_eq (le_antisymm h0 (not_lt.1 fun hlt => ?_))
    have := h2 hlt
    simp at this
  · next hb =>
    have hz : z.toNat < 128 := lt_of_le_of_ne h0 fun he => hb (BitVec.eq_of_getLsbD_eq fun i _ => by
      rw [h1 i (by omega)]
      simp)
    have hlog : b.toNat.log2 = 127 - z.toNat := by
      have hne : b.toNat ≠ 0 := fun h => hb (BitVec.eq_of_toNat_eq h)
      refine le_antisymm (not_lt.1 fun hlt => ?_) ((Nat.le_log2 hne).2 (Nat.ge_two_pow_of_testBit (h2 hz)))
      have ht : b.toNat.testBit b.toNat.log2 = true := Nat.testBit_log2 hne
      rw [BitVec.testBit_toNat, h1 _ (by omega)] at ht
      cases ht
    apply BitVec.eq_of_toNat_eq
    rw [hlog, BitVec.toNat_ofNat]
    omega

/-- Settles O33. -/
theorem bitFieldsAndBytesAreMoved : Obligations.BitFieldsAndBytesAreMoved := by
  unfold Obligations.BitFieldsAndBytesAreMoved
  refine ⟨completes_of_body (f := bfiBody) (by simp [traernOps]) rfl fun _ _ _ => scalarBody_keeping fun old b c z hz =>
      BitVec.eq_of_getLsbD_eq fun i hi => (hz i hi).trans (bfiOf_bit old b c hi).symm,
    completes_of_body (f := bfxBody) (by simp [traernOps]) rfl fun _ _ _ => scalarBody_each fun b c z hz =>
      BitVec.eq_of_getLsbD_eq fun i hi => (hz i hi).trans (bfxOf_bit b c hi).symm,
    completes_of_body (f := bpermBody) (by simp [traernOps]) rfl fun _ _ _ => scalarBody_each fun b c z hz =>
      word_eq_of_bytes fun i hi => (hz i hi).trans (bpermOf_byte b c hi).symm,
    completes_of_body (f := clzBody) (by simp [traernOps]) rfl fun _ _ _ => unaryBody_each fun b z ⟨h0, h1, h2⟩ => eq_clzOf h0 h1 h2⟩

end Sys2Proof.Machine

/-!
# Where control goes (R184, R197, R200, R201, R210, R212)
-/

namespace Sys2Proof.Machine

-- One declaration after the other: elaborated side by side, the row as one text takes more threads than the check allows.
set_option Elab.async false

/-! ### What is given back when nothing stops -/

/-- What `x` gives back, where it does not stop, satisfies `P`. -/
def Yields {α : Type} (P : α → Prop) (x : Except Trap α) : Prop := ∀ a, x = .ok a → P a

namespace Yields

variable {α β : Type} {P : α → Prop}

theorem ok {a : α} (h : P a) : Yields P (.ok a) := fun _ e => by cases e; exact h

theorem error (t : Trap) : Yields P (.error t) := nofun

theorem ite {c : Prop} [Decidable c] {x y : Except Trap α} (hx : Yields P x) (hy : Yields P y) : Yields P (if c then x else y) := by
  split
  · exact hx
  · exact hy

theorem map {Q : β → Prop} {f : β → α} {x : Except Trap β} (hx : Yields Q x) (h : ∀ b, Q b → P (f b)) : Yields P (x.map f) := by
  cases x with
  | error t => exact error t
  | ok b => exact ok (h b (hx b rfl))

theorem foldlM {γ : Type} {g : α → γ → Except Trap α} (hg : ∀ a x, P a → Yields P (g a x)) (l : List γ) {a : α} (h : P a) :
    Yields P (l.foldlM g a) := by
  induction l generalizing a with
  | nil => exact ok h
  | cons x r ih =>
    rw [List.foldlM_cons]
    have hx := hg a x h
    cases e : g a x with
    | error t => exact error t
    | ok b => exact ih (hx b e)

end Yields

/-! ### Reading leaves the watchdog alone -/

/-- The part of the state that holds a core's registers and its words of bank 0. -/
def coreField : Core → Field
  | .cox _ _ => .eights
  | .umpire => .ump

theorem only_modRegs (s : State) (c : Core) (f : Regs → Regs) : Only [coreField c] s (s.modRegs c f) := by
  cases c with
  | cox e k => exact (Only.refl _ s).modSlot List.mem_cons_self e k _
  | umpire => exact (Only.refl _ s).onUmp (by decide) _

/-- What a read can touch: an entry of the gate log, the early read of a digest, a stream, a free value (R199, R245, R341). -/
def readFields : List Field := [.chip, .eights, .fgt, .fns, .freeCtr, .hdrs, .out]

/-- From `s` a value is read, which touches no more than a read can. -/
def ReadsFrom {α : Type} (s : State) : Except Trap (α × State) → Prop := Yields fun p => Only readFields s p.2

theorem only_pageRead (s : State) (p : PageId) (off : Nat) : Only readFields s (s.pageRead p off).2 := by
  unfold State.pageRead
  extract_lets v s1
  dsimp only [s1]
  split
  · exact Only.ite ((Only.refl _ s).onFgt (by decide) _) (Only.refl _ s)
  · exact Only.ite ((only_setBit s _ _).mono (by decide)) (Only.refl _ s)
  · exact Only.refl _ s

theorem readsFrom_bankRead (s : State) (bank a : Nat) : ReadsFrom s (s.bankRead bank a) := by
  have hs : Only readFields s s := Only.refl _ s
  unfold State.bankRead
  split
  · exact .error _
  · exact .ite (.error _) (.ok hs)
  · exact .ok hs
  · exact .ite (.ok hs) (.ok (hs.spend (by decide) 1))
  · exact .ok hs
  · exact .ok (only_pageRead s _ _)
  · exact .ok hs
  · exact .ok hs

theorem readsFrom_memRead (s : State) (c : Core) (bank a : Nat) : ReadsFrom s (s.memRead c bank a) := by
  unfold State.memRead
  split
  · exact readsFrom_bankRead s bank a
  · exact .ite (.ok (Only.refl _ s)) (.ite (.ok (Only.refl _ s)) (.error _))

theorem readsFrom_readSpecial (s : State) (e k n : Nat) : ReadsFrom s (s.readSpecial e k n) := by
  have hm (g : Slot → Slot) : Only readFields s (s.modSlot e k g) := (Only.refl _ s).modSlot (by decide) e k g
  by_cases hn : n = 28
  · subst hn
    rw [readSpecial_counter]
    exact .ite (.error _) (.ok (hm _))
  unfold State.readSpecial
  extract_lets t
  split
  · exact .ok (hm _)
  · exact .ok (hm _)
  · exact .ok (Only.refl _ s)
  · exact absurd rfl hn
  · exact .error _

theorem readsFrom_readLoc (s : State) (c : Core) (l : Loc) (i : Nat) : ReadsFrom s (s.readLoc c l i) := by
  unfold State.readLoc
  split
  · exact readsFrom_memRead s c _ _
  · exact .ok (Only.refl _ s)
  · refine .ite (.ok (Only.refl _ s)) ?_
    split
    · exact readsFrom_readSpecial s _ _ _
    · exact .error _

/-- Resolving an operand steps a pointer at most. -/
theorem only_resolve1 (s : State) (c : Core) (sp : BitVec 8) (f : BitVec 18) (n : Nat) :
    Yields (fun p => Only [coreField c] s p.2) (s.resolve1 c sp f n) := by
  unfold State.resolve1
  extract_lets
  refine .ite (.error _) ?_
  split
  · exact .ok (Only.refl _ s)
  · exact .ok (Only.refl _ s)
  · exact .ok (only_modRegs s c _)
  · exact .ite (.error _) (.ok (only_modRegs s c _))
  · exact .ok (Only.refl _ s)
  · exact .ok (Only.refl _ s)
  · exact .ok (Only.refl _ s)
  · exact .ite (.error _) (.ok (Only.refl _ s))

theorem only_operand (s : State) (c : Core) (p : Pos) (sp : BitVec 8) (f : BitVec 18) (n : Nat) :
    Yields (fun p => Only [coreField c] s p.2) (s.operand c p sp f n) := by
  unfold State.operand
  split
  · exact .ok (Only.refl _ s)
  · exact only_resolve1 s c sp f _

theorem only_abc (s : State) (op : Nat) (i : At) : Yields (fun o => Only [coreField i.c] s o.s) (s.abc op i) := by
  unfold State.abc
  extract_lets r
  split
  · exact .error _
  next ha =>
  split
  · exact .error _
  next hb =>
  split
  · exact .error _
  next hc =>
  exact .ok (((only_operand _ _ _ _ _ _ _ ha).trans (only_operand _ _ _ _ _ _ _ hb)).trans (only_operand _ _ _ _ _ _ _ hc))

theorem wdg_of_field {s t : State} {c : Core} (h : Only [coreField c] s t) : t.wdg = s.wdg := h.same .wdg (by cases c <;> simp [coreField])

theorem wdg_readLoc {s u : State} {c : Core} {l : Loc} {i : Nat} {v : Word} (h : s.readLoc c l i = .ok (v, u)) : u.wdg = s.wdg :=
  (readsFrom_readLoc s c l i _ h).same .wdg

theorem wdg_abc {s : State} {op : Nat} {i : At} {o : Abc} (h : s.abc op i = .ok o) : o.s.wdg = s.wdg := wdg_of_field (only_abc s op i _ h)

theorem wdg_two {s u : State} {op : Nat} {i : At} {p q : Word} (h : s.two op i = .ok (p, q, u)) : u.wdg = s.wdg := by
  unfold State.two at h
  split at h
  · cases h
  next ho =>
  split at h
  · cases h
  next hp =>
  split at h
  · cases h
  next hq =>
  cases h
  exact ((wdg_readLoc hq).trans (wdg_readLoc hp)).trans (wdg_abc ho)

/-! ### A store to a word of bank 0 (R182) -/

theorem mergeLanes_all (old v : Word) : mergeLanes allLanes old v = v := by
  unfold mergeLanes
  rw [laneMask_all, BitVec.not_allOnes, BitVec.and_zero, BitVec.zero_or, BitVec.and_allOnes]

/-- A store to a word of bank 0 changes the selected lanes of that word alone. -/
theorem memWrite_word (s : State) (c : Core) {a : Nat} (h : WordOk c a) (sel : Nat → Bool) (v : Word) :
    ∃ t, s.memWrite c 0 a sel v = .ok t ∧ Only [coreField c] s t ∧ t.coreRegs c = s.coreRegs c ∧
      ∀ w, t.coreWord c w = if w = a then mergeLanes sel (s.coreWord c a) v else s.coreWord c w := by
  cases c with
  | cox e k =>
    have ha : a < 0x400 := h.elim (fun h => Core.noConfusion h.1) (·.2)
    refine ⟨_, if_pos ⟨rfl, ha⟩, (Only.refl _ s).modSlot List.mem_cons_self e k _, ?_, fun w => ?_⟩
    · unfold State.coreRegs
      dsimp only
      rw [slot_modSlot_self]
    unfold State.coreWord
    dsimp only
    rw [slot_modSlot_self]
    exact SMap.get_set _ _ _ _ _
  | umpire =>
    have ha : a < 262144 := h.elim (·.2) fun h => absurd rfl h.1
    have hw : s.memWrite .umpire 0 a sel v = .ok (s.sramStore a (laneMask sel) v) := by
      unfold State.memWrite State.barred
      dsimp only
      rw [bankAt_sram ha]
      rfl
    exact ⟨_, hw, (Only.refl _ s).onUmp (by decide) _, rfl, fun w => sram_sramStore s a w (laneMask sel) v⟩

/-! ### Control transfers -/

theorem insAddr_setWidth (b : BitVec 12) (p : BitVec 18) : (insAddr b p).setWidth 18 = p := by
  apply BitVec.eq_of_getLsbD_eq
  intro i hi
  rw [BitVec.getLsbD_setWidth, insAddr, BitVec.getLsbD_append]
  simp [hi]

theorem bank_eq_extractLsb' (a : BitVec 30) : (a >>> 18).setWidth 12 = a.extractLsb' 18 12 :=
  BitVec.eq_of_getLsbD_eq fun i hi => by simp [hi]

theorem breakCheck_cox (s : State) (e k : Nat) : s.breakCheck (.cox e k) = s := if_neg fun h => Core.noConfusion h.1

/-- A breakpoint's halt leaves every core's registers and words (R393). -/
theorem coreRegs_breakCheck (s : State) (c c' : Core) : (s.breakCheck c).coreRegs c' = s.coreRegs c' := by
  unfold State.breakCheck
  split <;> rfl

theorem coreWord_breakCheck (s : State) (c c' : Core) (a : Nat) : (s.breakCheck c).coreWord c' a = s.coreWord c' a := by
  unfold State.breakCheck
  split <;> rfl

theorem goTo_arrives (d : State) {c : Core} {a : BitVec 30} (h : MayArrive c a) :
    ∃ u, d.goTo c a = .ok u ∧ Arrives c a d (u.breakCheck c) := by
  cases c with
  | cox e k =>
    have ha : a.toNat % 262144 < 2048 := h.resolve_left fun h => Core.noConfusion h
    have hw : (a.setWidth 18 : BitVec 18).toNat = a.toNat % 262144 := BitVec.toNat_setWidth 18 a
    exact ⟨_, if_neg (by omega), breakCheck_cox _ e k⟩
  | umpire =>
    refine ⟨_, rfl, ?_⟩
    unfold State.goUmpire
    rw [bank_eq_extractLsb']
    rfl

/-- Arrival sets PC, and PBK on the Umpire, and keeps all other registers and words. -/
theorem Arrives.effect {c : Core} {a : BitVec 30} {d t : State} (h : Arrives c a d t) :
    (∃ b, t.coreRegs c = { d.coreRegs c with pc := a.setWidth 18, pbk := b }) ∧ (∀ w, t.coreWord c w = d.coreWord c w) ∧
      Only [coreField c, .dbg, .wdg] d t := by
  cases c with
  | cox e k =>
    cases h
    exact ⟨⟨_, coreRegs_modRegs d (.cox e k) _⟩, coreWord_modRegs d (.cox e k) _,
      (only_modRegs d (.cox e k) _).mono (List.cons_subset_cons _ (List.nil_subset _))⟩
  | umpire =>
    cases h
    exact ⟨⟨_, coreRegs_breakCheck _ _ .umpire⟩, coreWord_breakCheck _ _ .umpire,
      ((Only.refl _ d).onUmp (by decide) _).trans ((breakCheck_effect _ _).2.mono (by decide))⟩

theorem runBody_jump {s d u : State} {op : Nat} {r : OpInfo} {i : At} {f : Body} {a : BitVec 30} (he : s.early op r i = none)
    (hf : f i (s.count1 i.c) = .ok (d, .jump a)) (hc : d.wdg.consec ≤ s.wdg.consec) (hg : d.goTo i.c a = .ok u) :
    s.runBody op r i f = .ok u := by
  unfold State.runBody
  rw [he, hf]
  dsimp only
  rw [if_neg (Nat.not_lt.2 hc), hg]

section

variable {op : Nat} {mk : Core → Enc → Instr} {f : Body} {s s1 d : State} {c : Core} {x : Enc} {r : OpInfo}

/-- An instruction whose meaning transfers control to an address that its core may go to. -/
theorem exec_jump (hm : (op, mk) ∈ traernOps) (hf : bodyOf op = some f) (hb : Begins s s1 c op r x) {a : BitVec 30}
    (h : f (s1.atNow c r x) (s1.count1 c) = .ok (d, .jump a)) (hw : d.wdg = (s1.count1 c).wdg) (ha : MayArrive c a) :
    Answers (exec (mk c x) s) (Arrives c a d) := by
  obtain ⟨u, hg, hu⟩ := goTo_arrives d ha
  have hc : d.wdg.consec ≤ s1.wdg.consec := by rw [hw, wdg_count1]
  exact ⟨_, exec_begun hm hf hb (runBody_jump hb.2.2.2.1 h hc hg), hu⟩

/-- An instruction whose meaning goes on in sequence, where its state is followed as `InSequence` says. -/
theorem exec_inSequence (hm : (op, mk) ∈ traernOps) (hf : bodyOf op = some f) (hb : Begins s s1 c op r x)
    (h : f (s1.atNow c r x) (s1.count1 c) = .ok (d, .seq)) {t : State} (hs : InSequence s1 d t (s1.atNow c r x)) :
    exec (mk c x) s = .next t := by
  obtain ⟨hc, u, hg, rfl⟩ := hs
  exact exec_begun hm hf hb (runBody_seq hb.2.2.2.1 h hc hg)

end

/-! ### Branches and jumps (R197) -/

/-- A branch goes to its target exactly when its comparison holds. -/
theorem branch_effect {op : Nat} {mk : Core → Enc → Instr} {taken : Word → Word → Bool} {P : Word → Word → Prop}
    (hm : (op, mk) ∈ traernOps) (hf : bodyOf op = some (branchBody op taken)) (hP : ∀ p q, taken p q = true ↔ P p q)
    (s s1 s2 t : State) (c : Core) (x : Enc) (r : OpInfo) (p q : Word) (hb : Begins s s1 c op r x)
    (ht : (s1.count1 c).two op (s1.atNow c r x) = .ok (p, q, s2)) :
    (P p q → MayArrive c (s1.atNow c r x).target → Answers (exec (mk c x) s) (Arrives c (s1.atNow c r x).target s2)) ∧
      (¬ P p q → InSequence s1 s2 t (s1.atNow c r x) → exec (mk c x) s = .next t) := by
  have hbody : branchBody op taken (s1.atNow c r x) (s1.count1 c) =
      .ok (s2, if taken p q then .jump (s1.atNow c r x).target else .seq) := by
    unfold branchBody
    rw [ht]
  constructor
  · intro hp ha
    rw [if_pos ((hP p q).2 hp)] at hbody
    exact exec_jump hm hf hb hbody (wdg_two ht) ha
  · intro hp hs
    rw [if_neg (mt (hP p q).1 hp)] at hbody
    exact exec_inSequence hm hf hb hbody hs

theorem target_eq (i : At) : i.target = i.pbk ++ BitVec.ofInt 18 (i.next.toNat + (Enc.ft i.x).toInt) ∧
    (Enc.ft i.x = 0 → i.target = i.pbk ++ i.next) := by
  refine ⟨?_, fun h => ?_⟩
  · rw [BitVec.ofInt_add, BitVec.ofInt_toInt, BitVec.ofInt_natCast, BitVec.ofNat_toNat, BitVec.setWidth_eq]
    rfl
  · unfold At.target insAddr
    rw [h, BitVec.ofNat_eq_ofNat, BitVec.add_zero]

/-! ### Calls (R201) -/

/-- A call lowers SP and writes the return address there. -/
theorem callTo_effect (s : State) (i : At) (a : BitVec 30) (hsl : (s.coreRegs i.c).sl ≤ (s.coreRegs i.c).ptr 15 - 1)
    (hw : WordOk i.c ((s.coreRegs i.c).ptr 15 - 1).toNat) : ∃ d, s.callTo i a = .ok (d, .jump a) ∧ Only [coreField i.c] s d ∧
      d.coreRegs i.c = (s.coreRegs i.c).setPtr 15 ((s.coreRegs i.c).ptr 15 - 1) ∧
      ∀ w, d.coreWord i.c w = if w = ((s.coreRegs i.c).ptr 15 - 1).toNat then i.after.setWidth 128 else s.coreWord i.c w := by
  obtain ⟨d, hd, ho, hr, hwd⟩ := memWrite_word (s.modRegs i.c fun r => r.setPtr 15 ((s.coreRegs i.c).ptr 15 - 1)) i.c hw allLanes
    (i.after.setWidth 128)
  refine ⟨d, ?_, (only_modRegs s i.c _).trans ho, hr.trans (coreRegs_modRegs _ _ _), fun w => ?_⟩
  · unfold State.callTo
    extract_lets r sp
    rw [if_neg (BitVec.not_lt.2 hsl), hd]
    rfl
  · rw [hwd, mergeLanes_all, coreWord_modRegs]

theorem ptr_setPtr_15 (r : Regs) (v : BitVec 18) : (r.setPtr 15 v).ptr 15 = v ∧ ∀ n, n < 15 → (r.setPtr 15 v).ptr n = r.ptr n :=
  ⟨(ptr_setPtr r (by decide) 15 v).trans (if_pos rfl), fun _ h => ptr_setPtr_ne r (Nat.ne_of_lt h) v⟩

theorem call_effect (s s1 : State) (c : Core) (x : Enc) (r : OpInfo) (hb : Begins s s1 c 0x59 r x)
    (ha : MayArrive c (s1.atNow c r x).target) : let q := s1.coreRegs c
    q.sl ≤ q.ptr 15 - 1 → WordOk c (q.ptr 15 - 1).toNat → Answers (exec (.call c x) s) fun t =>
      t.coreWord c (q.ptr 15 - 1).toNat = ((s1.pbkOf c) ++ (s1.atNow c r x).next).setWidth 128 ∧
      (∀ w, w ≠ (q.ptr 15 - 1).toNat → t.coreWord c w = s1.coreWord c w) ∧
      (t.coreRegs c).ptr 15 = q.ptr 15 - 1 ∧ (∀ n, n < 15 → (t.coreRegs c).ptr n = q.ptr n) ∧
      (t.coreRegs c).pc = (s1.atNow c r x).next + Enc.ft x ∧ (t.coreRegs c).ldepth = q.ldepth ∧ (t.coreRegs c).ls = q.ls ∧
      (t.coreRegs c).le = q.le ∧ (t.coreRegs c).lc = q.lc ∧ (t.coreRegs c).dbk = q.dbk ∧ (t.coreRegs c).sl = q.sl := by
  intro q hsl hw
  have hq : (s1.count1 c).coreRegs c = q.nearer := coreRegs_count1 s1 c
  obtain ⟨d, hd, ho, hr, hwd⟩ := callTo_effect (s1.count1 c) (s1.atNow c r x) (s1.atNow c r x).target (by
    change ((s1.count1 c).coreRegs c).sl ≤ ((s1.count1 c).coreRegs c).ptr 15 - 1
    rw [hq]
    exact hsl) (by
    change WordOk c (((s1.count1 c).coreRegs c).ptr 15 - 1).toNat
    rw [hq]
    exact hw)
  change d.coreRegs c = _ at hr
  change ∀ w, d.coreWord c w = if w = (((s1.count1 c).coreRegs c).ptr 15 - 1).toNat then _ else (s1.count1 c).coreWord c w at hwd
  change d.coreRegs c = ((s1.count1 c).coreRegs c).setPtr 15 (((s1.count1 c).coreRegs c).ptr 15 - 1) at hr
  rw [hq] at hr hwd
  obtain ⟨t, he, harr⟩ := exec_jump (mk := .call) (f := callBody) (by simp [traernOps]) rfl hb hd (wdg_of_field ho) ha
  obtain ⟨⟨b, hregs⟩, hwords, -⟩ := harr.effect
  refine ⟨t, he, ?_, fun w h => ?_, ?_, fun n h => ?_, ?_, ?_⟩
  · rw [hwords, hwd]
    exact if_pos rfl
  · rw [hwords, hwd, coreWord_count1]
    exact if_neg h
  · rw [hregs, hr]
    exact (ptr_setPtr_15 q.nearer _).1
  · rw [hregs, hr]
    exact (ptr_setPtr_15 q.nearer _).2 n h
  · rw [hregs]
    exact insAddr_setWidth _ _
  · rw [hregs, hr]
    exact ⟨rfl, rfl, rfl, rfl, rfl, rfl⟩

/-! ### LOOP (R200) -/

theorem loop_opens (s s1 s2 t : State) (c : Core) (x : Enc) (r : OpInfo) (o : Abc) (w : Word) (hb : Begins s s1 c 0x5B r x)
    (ho : (s1.count1 c).abc 0x5B (s1.atNow c r x) = .ok o) (hr : o.s.readLoc c o.a 0 = .ok (w, s2)) :
    let d := (s2.coreRegs c).ldepth.toNat
    d < 3 → w.toNat % 4294967296 ≠ 0 →
    InSequence s1 (s2.modRegs c fun r' => { r' with
      lc := r'.lc.setIfInBounds d (w.setWidth 32), ls := r'.ls.setIfInBounds d (s1.atNow c r x).after
      le := r'.le.setIfInBounds d (s1.atNow c r x).target, ldepth := BitVec.ofNat 2 (d + 1) }) t (s1.atNow c r x) →
    exec (.loop c x) s = .next t := by
  intro d hd hw hs
  have hn : (w.setWidth 32 : W32) ≠ 0 := fun h => hw (by rw [← BitVec.toNat_setWidth 32 w, h]; rfl)
  refine exec_inSequence (mk := .loop) (f := loopBody) (by simp [traernOps]) rfl hb ?_ hs
  unfold loopBody
  rw [ho]
  dsimp only
  rw [show (s1.atNow c r x).c = c from rfl, hr]
  dsimp only
  rw [if_neg (Nat.ne_of_lt hd), if_neg hn]

/-- A LOOP with a zero count goes on after the instruction at its target. -/
theorem loopBody_zero {s s2 : State} {i : At} {o : Abc} {w : Word} (ho : s.abc 0x5B i = .ok o)
    (hr : o.s.readLoc i.c o.a 0 = .ok (w, s2)) (hd : (s2.coreRegs i.c).ldepth.toNat < 3) (hw : (w.setWidth 32 : W32) = 0) {g a : BitVec 18}
    (hg : i.next + Enc.ft i.x = g) (ha : g + BitVec.ofNat 18 (s2.fetchIns i.c i.pbk g.toNat).len = a) : loopBody i s = match i.c with
      | .umpire => .ok (s2.modRegs i.c fun r => { r with pc := (insAddr i.pbk a).setWidth 18 }, .set)
      | .cox _ _ => .ok (s2, .jump (insAddr i.pbk a)) := by
  have ht : i.target.setWidth 18 = g := (insAddr_setWidth _ _).trans hg
  unfold loopBody
  rw [ho]
  dsimp only
  rw [hr]
  dsimp only
  rw [if_neg (Nat.ne_of_lt hd), if_pos hw, ht, ha] <;> rfl

theorem loop_skips (s s1 s2 : State) (c : Core) (x : Enc) (r : OpInfo) (o : Abc) (w : Word) (hb : Begins s s1 c 0x5B r x)
    (ho : (s1.count1 c).abc 0x5B (s1.atNow c r x) = .ok o) (hr : o.s.readLoc c o.a 0 = .ok (w, s2))
    (hd : (s2.coreRegs c).ldepth.toNat < 3) (hw : w.toNat % 4294967296 = 0) :
    let g : BitVec 18 := (s1.atNow c r x).next + Enc.ft x
    let a : BitVec 18 := g + BitVec.ofNat 18 (s2.fetchIns c (s1.pbkOf c) g.toNat).len
    MayArrive c (s1.pbkOf c ++ a) → Answers (exec (.loop c x) s) fun t =>
      (t.coreRegs c).pc = a ∧ (t.coreRegs c).ldepth = (s2.coreRegs c).ldepth ∧ (t.coreRegs c).lc = (s2.coreRegs c).lc ∧
      (t.coreRegs c).ls = (s2.coreRegs c).ls ∧ (t.coreRegs c).le = (s2.coreRegs c).le ∧ (t.coreRegs c).p = (s2.coreRegs c).p ∧
      ∀ v, t.coreWord c v = s2.coreWord c v := by
  intro g a ha
  have hn : (w.setWidth 32 : W32) = 0 := BitVec.eq_of_toNat_eq (by rw [BitVec.toNat_setWidth]; exact hw)
  have hbody := loopBody_zero (i := s1.atNow c r x) ho hr hd hn (g := g) (a := a) rfl rfl
  clear_value a
  cases c with
  | cox e k =>
    change loopBody _ _ = .ok (s2, .jump (insAddr (s1.pbkOf (.cox e k)) a)) at hbody
    obtain ⟨t, he, harr⟩ := exec_jump (mk := .loop) (f := loopBody) (by simp [traernOps]) rfl hb hbody
      ((wdg_readLoc hr).trans (wdg_abc ho)) ha
    obtain ⟨⟨b, hregs⟩, hwords, -⟩ := harr.effect
    refine ⟨t, he, ?_⟩
    dsimp only
    rw [hregs]
    exact ⟨insAddr_setWidth _ _, rfl, rfl, rfl, rfl, rfl, hwords⟩
  | umpire =>
    change loopBody _ _ = .ok (s2.modRegs .umpire fun r => { r with pc := (insAddr (s1.pbkOf .umpire) a).setWidth 18 }, .set) at hbody
    refine ⟨_, exec_begun (mk := .loop) (f := loopBody) (by simp [traernOps]) rfl hb (runBody_set hb.2.2.2.1 hbody), ?_⟩
    dsimp only
    rw [coreRegs_breakCheck]
    exact ⟨insAddr_setWidth _ _, rfl, rfl, rfl, rfl, rfl, coreWord_breakCheck _ _ .umpire⟩

/-- Settles O34: the branches by the comparison each makes; CALL and LOOP besides (R200, R201). -/
theorem branchesJumpsCallsAndLoops : Obligations.BranchesJumpsCallsAndLoops := by
  unfold Obligations.BranchesJumpsCallsAndLoops
  refine ⟨?_, target_eq, fun s s1 c x r hb ha => ?_, call_effect, loop_opens, loop_skips⟩
  · simp only [List.forall_mem_cons, List.not_mem_nil, false_implies, implies_true, and_true]
    refine ⟨branch_effect (by simp [traernOps]) rfl fun p q => beq_iff_eq, branch_effect (by simp [traernOps]) rfl fun p q => bne_iff_ne,
      branch_effect (by simp [traernOps]) rfl fun p q => BitVec.slt_iff_toInt_lt,
      branch_effect (by simp [traernOps]) rfl fun p q => ?_,
      branch_effect (by simp [traernOps]) rfl fun p q => BitVec.ult_iff_toNat_lt,
      branch_effect (by simp [traernOps]) rfl fun p q => ?_,
      branch_effect (by simp [traernOps]) rfl fun p q => Iff.rfl, branch_effect (by simp [traernOps]) rfl fun p q => by
        rw [Bool.not_eq_true']
        rfl⟩
    · rw [Bool.not_eq_true', ← Bool.not_eq_true, sLess, BitVec.slt_iff_toInt_lt, not_lt]
    · rw [Bool.not_eq_true', ← Bool.not_eq_true, uLess, BitVec.ult_iff_toNat_lt, not_lt]
  · exact exec_jump (mk := .jmp) (f := jmpBody) (by simp [traernOps]) rfl hb rfl rfl ha

/-! ### Loop ends (R200) -/

section

variable {r : Regs} {here after : BitVec 30} {d : Nat}

theorem loopEnd_outside (h : d = 0 ∨ (r.le[d - 1]?).getD 0 ≠ here) : loopEnd r here after d = (r, after) := by
  cases d with
  | zero => rfl
  | succ d => exact if_neg (h.resolve_left (Nat.succ_ne_zero d))

theorem loopEnd_again (h : (r.le[d]?).getD 0 = here) (hc : (r.lc[d]?).getD 0 ≠ 1) : loopEnd r here after (d + 1) =
    ({ r with lc := r.lc.setIfInBounds d ((r.lc[d]?).getD 0 - 1) }, (r.ls[d]?).getD 0) := by
  unfold loopEnd
  rw [if_pos h]
  exact if_pos fun h0 => hc (sub_eq_zero.1 h0)

theorem loopEnd_closes (h : (r.le[d]?).getD 0 = here) (hc : (r.lc[d]?).getD 0 = 1) : loopEnd r here after (d + 1) =
    loopEnd { r with lc := r.lc.setIfInBounds d 0, ldepth := BitVec.ofNat 2 d } here after d := by
  rw [loopEnd, if_pos h, hc]
  rfl

end

/-- After an instruction in sequence: what the loop ends leave of the registers, and where they lead. -/
theorem goNext_effect (d : State) (i : At) {x : Regs × BitVec 30}
    (hx : loopEnd (d.coreRegs i.c) i.here i.after (d.coreRegs i.c).ldepth.toNat = x) (ha : MayArrive i.c x.2) :
    ∃ u, d.goNext i = .ok u ∧ ∃ b, (u.breakCheck i.c).coreRegs i.c = { x.1 with pc := x.2.setWidth 18, pbk := b } := by
  subst hx
  obtain ⟨c, enc, pbk, pc, next, vl⟩ := i
  cases c with
  | cox e k =>
    obtain ⟨u, hg, hu⟩ := goTo_arrives (d.modRegs (.cox e k) fun _ => (loopEnd (d.coreRegs (.cox e k)) _ _ _).1) ha
    obtain ⟨⟨b, hr⟩, -⟩ := hu.effect
    exact ⟨u, hg, b, hr.trans (by rw [coreRegs_modRegs])⟩
  | umpire =>
    refine ⟨_, rfl, ?_⟩
    exact ⟨_, coreRegs_breakCheck _ _ .umpire⟩

/-- NOP goes on in sequence: the loop ends decide where. -/
theorem nop_effect {s s1 : State} {c : Core} {enc : Enc} {r : OpInfo} (hb : Begins s s1 c 0x00 r enc) {n : Nat}
    (hn : (s1.coreRegs c).ldepth.toNat = n) {x : Regs × BitVec 30}
    (hx : loopEnd (s1.coreRegs c).nearer (s1.atNow c r enc).here (s1.atNow c r enc).after n = x)
    (ha : MayArrive c x.2) {P : State → Prop} (hP : ∀ t b, t.coreRegs c = { x.1 with pc := x.2.setWidth 18, pbk := b } → P t) :
    Answers (exec (.nop c enc) s) P := by
  have hq := coreRegs_count1 s1 c
  obtain ⟨u, hg, b, hu⟩ := goNext_effect (s1.count1 c) (s1.atNow c r enc) (x := x) (by
    change loopEnd ((s1.count1 c).coreRegs c) _ _ ((s1.count1 c).coreRegs c).ldepth.toNat = x
    rw [hq]
    exact hn ▸ hx) ha
  refine ⟨_, exec_begun (mk := .nop) (f := nopBody) (by simp [traernOps]) rfl hb (runBody_seq hb.2.2.2.1 rfl ?_ hg), hP _ b hu⟩
  rw [wdg_count1]

/-! ### RET (R201) -/

theorem codeLen_count1 (s : State) (c : Core) : (s.count1 c).codeLen c = s.codeLen c := by
  cases c with
  | cox e k =>
    unfold State.codeLen
    dsimp only
    rw [slot_count1]
    rfl
  | umpire => rfl

theorem ret_effect (s s1 s2 : State) (c : Core) (x : Enc) (r : OpInfo) (w : Word) (hb : Begins s s1 c 0x5A r x)
    (hr : (s1.count1 c).memRead c 0 ((s1.coreRegs c).ptr 15).toNat = .ok (w, s2))
    (hin : c ≠ .umpire → w.extractLsb' 18 12 = s1.pbkOf c ∧ (w.extractLsb' 0 18).toNat < s1.codeLen c) (ha : MayArrive c (w.setWidth 30)) :
    Answers (exec (.ret c x) s)
      (Arrives c (w.setWidth 30) (s2.modRegs c fun q => q.setPtr 15 ((s1.coreRegs c).ptr 15 + 1))) := by
  have hq : ((s1.count1 c).coreRegs c).ptr 15 = (s1.coreRegs c).ptr 15 := by rw [coreRegs_count1]; rfl
  have hbank : ((w.setWidth 30 : BitVec 30) >>> 18).setWidth 12 = w.extractLsb' 18 12 := BitVec.eq_of_getLsbD_eq fun i hi => by
    simp [hi, show 18 + i < 30 by omega]
  have haddr : ((w.setWidth 30 : BitVec 30).setWidth 18 : BitVec 18) = w.extractLsb' 0 18 := BitVec.eq_of_getLsbD_eq fun i hi => by
    simp [hi]
  have hbody : retBody (s1.atNow c r x) (s1.count1 c) =
      .ok (s2.modRegs c fun q => q.setPtr 15 ((s1.coreRegs c).ptr 15 + 1), .jump (w.setWidth 30)) := by
    unfold retBody
    rw [show (s1.atNow c r x).c = c from rfl, hq]
    dsimp only
    rw [hr]
    dsimp only
    refine if_neg ?_
    cases c with
    | umpire => exact Bool.false_ne_true
    | cox e k =>
      obtain ⟨hbk, hlen⟩ := hin nofun
      dsimp only
      rw [hbank, haddr, codeLen_count1, hbk, show (s1.atNow (.cox e k) r x).pbk = s1.pbkOf (.cox e k) from rfl,
        decide_eq_false (Nat.not_le.2 hlen)]
      simp
  refine exec_jump (mk := .ret) (f := retBody) (by simp [traernOps]) rfl hb hbody ?_ ha
  rw [wdg_modRegs]
  exact (readsFrom_memRead _ _ _ _ _ hr).same .wdg

/-! ### Control of the Umpire (R210, R212) -/

theorem indirect_eq {s s2 : State} {op : Nat} {i : At} {o : Abc} {w : Word} (ho : s.abc op i = .ok o)
    (hr : o.s.readLoc i.c o.a 0 = .ok (w, s2)) : s.indirect op i = .ok (w.setWidth 30, s2) := by
  unfold State.indirect
  rw [ho]
  dsimp only
  rw [hr]
  rfl

theorem calli_effect (s s1 s2 : State) (x : Enc) (r : OpInfo) (o : Abc) (w : Word) (hb : Begins s s1 .umpire 0x61 r x)
    (ho : (s1.count1 .umpire).abc 0x61 (s1.atNow .umpire r x) = .ok o) (hr : o.s.readLoc .umpire o.a 0 = .ok (w, s2)) :
    let sp := s2.ump.regs.ptr 15 - 1
    s2.ump.regs.sl ≤ sp → Answers (exec (.calli .umpire x) s) fun t =>
      t.ump.sram.get 0 sp.toNat = (s1.ump.regs.pbk ++ (s1.atNow .umpire r x).next).setWidth 128 ∧
      (∀ v, v ≠ sp.toNat → t.ump.sram.get 0 v = s2.ump.sram.get 0 v) ∧ t.ump.regs.ptr 15 = sp ∧
      t.ump.regs.pbk ++ t.ump.regs.pc = w.setWidth 30 ∧ Only [.dbg, .ump, .wdg] s2 t := by
  intro sp hsl
  obtain ⟨d, hd, hod, hrd, hwd⟩ := callTo_effect s2 (s1.atNow .umpire r x) (w.setWidth 30) hsl (.inl ⟨rfl, BitVec.isLt _⟩)
  have hbody : calliBody (s1.atNow .umpire r x) (s1.count1 .umpire) = .ok (d, .jump (w.setWidth 30)) := by
    unfold calliBody
    rw [indirect_eq ho hr]
    exact hd
  obtain ⟨t, he, harr⟩ := exec_jump (mk := .calli) (f := calliBody) (by simp [traernOps]) rfl hb hbody
    ((wdg_of_field hod).trans ((wdg_readLoc hr).trans (wdg_abc ho))) (.inl rfl)
  obtain ⟨-, hwords, honly⟩ := harr.effect
  cases harr
  obtain ⟨hu, -⟩ := breakCheck_effect (d.onUmp fun u => { u with
    stale := [], regs := { u.regs with pbk := (w.setWidth 30 : BitVec 30).extractLsb' 18 12, pc := (w.setWidth 30 : BitVec 30).setWidth 18 } })
    .umpire
  refine ⟨_, he, ?_, fun v hv => ?_, ?_, ?_, Only.trans (hod.mono (l := [coreField .umpire]) (by decide)) (honly.mono (by decide))⟩
  · exact (hwords _).trans ((hwd _).trans (if_pos rfl))
  · exact (hwords _).trans ((hwd _).trans (if_neg hv))
  · rw [hu]
    exact (congrArg (Regs.ptr · 15) hrd).trans (ptr_setPtr_15 _ _).1
  · rw [hu]
    exact (congrArg (· ++ _) (bank_eq_extractLsb' _).symm).trans (insAddr_parts (w.setWidth 30))

/-- Settles O35: sequence by the loop ends, the transfers by where each arrives. -/
theorem sequenceLoopEndsReturnsAndUmpireControl : Obligations.SequenceLoopEndsReturnsAndUmpireControl := by
  unfold Obligations.SequenceLoopEndsReturnsAndUmpireControl
  refine ⟨completes_of_body (f := nopBody) (by simp [traernOps]) rfl fun i a d h => h ▸ rfl, ?_, ret_effect, ?_, calli_effect, ?_,
    completes_of_body (f := wfiBody) (by simp [traernOps]) rfl fun i a d h => h ▸ rfl⟩
  · intro s s1 c enc r hb i q ends count start
    refine ⟨fun d hd h ha => ?_, fun d hd he hc ha => ?_, fun d hd he hc h ha => ?_, fun d hd he hc he' hc' ha => ?_⟩
    · refine nop_effect hb hd (loopEnd_outside h) ha fun t b ht => ?_
      rw [ht]
      exact ⟨insAddr_setWidth _ _, rfl, rfl, rfl⟩
    · refine nop_effect hb hd (loopEnd_again he hc) ha fun t b ht => ?_
      rw [ht]
      exact ⟨rfl, rfl, rfl, rfl⟩
    · refine nop_effect hb hd ((loopEnd_closes (r := q.nearer) he hc).trans (loopEnd_outside h)) ha fun t b ht => ?_
      rw [ht]
      exact ⟨insAddr_setWidth _ _, rfl, rfl⟩
    · have hlc : ((q.nearer.lc.setIfInBounds (d + 1) 0)[d]?).getD 0 = count d := by
        rw [Vector.getElem?_setIfInBounds, if_neg (Nat.succ_ne_self d)]
        rfl
      have h3 : d < 3 := by have := q.ldepth.isLt; omega
      refine nop_effect hb hd ((loopEnd_closes (r := q.nearer) he hc).trans (loopEnd_again he' (by rw [hlc]; exact hc'))) ha fun t b ht => ?_
      rw [ht]
      refine ⟨rfl, rfl, ?_, rfl⟩
      dsimp only
      rw [hlc]
      simp [h3]
  · intro s s1 s2 x r o w hb ho hr
    refine exec_jump (mk := .jmpi) (f := jmpiBody) (by simp [traernOps]) rfl hb ?_ ((wdg_readLoc hr).trans (wdg_abc ho)) (.inl rfl)
    unfold jmpiBody
    rw [indirect_eq ho hr]
    rfl
  · intro s s1 x r hb
    exact exec_jump (mk := .eret) (f := eretBody) (by simp [traernOps]) rfl hb rfl rfl (.inl rfl)

end Sys2Proof.Machine

/-!
# Far accesses and special registers (R182, R183, R203, R211, R213)
-/

namespace Sys2Proof.Machine

-- One declaration after the other: elaborated side by side, the row as one text takes more threads than the check allows.
set_option Elab.async false

/-! ### FLD and what it leaves pending (R203) -/

theorem fldLand_lands {s s1 : State} {c : Core} (hl : if c = .umpire then s.umpUp = true else s.coreLive c = true)
    (hd : s.landDue c = .ok s1) : exec (.fldLand c) s = .next s1 := by
  change execFldLand c s = _
  unfold execFldLand
  cases c with
  | cox e k =>
    have h : s.coreLive (.cox e k) = true := by simpa using hl
    dsimp only
    rw [h, if_neg (by decide), hd]
  | umpire =>
    have h : s.umpUp = true := by simpa using hl
    dsimp only
    rw [h, if_neg (by decide), hd]

/-- With one FLD due and none besides, what its write leaves. -/
theorem landDue_single {s t : State} {c : Core} {x : PendFld} (hf : (s.coreRegs c).fld = [x]) (hl : x.left = 0) (hr : x.refused = none)
    (hv : (s.modRegs c fun r => { r with fld := r.fld.filter fun x => x.left != 0 }).landValue c x = .ok t) : s.landDue c = .ok t := by
  have hdue : ([x] : List PendFld).filter (fun x => x.left == 0) = [x] := by simp [hl]
  unfold State.landDue
  rw [hf]
  dsimp only
  rw [hdue, List.foldlM_cons]
  unfold State.land
  rw [hv, hr]
  rfl

/-- The registers of a core whose one pending FLD is taken to land. -/
theorem coreRegs_landed {s : State} {c : Core} {x : PendFld} (hf : (s.coreRegs c).fld = [x]) (hl : x.left = 0) :
    (s.modRegs c fun r => { r with fld := r.fld.filter fun x => x.left != 0 }).coreRegs c = { s.coreRegs c with fld := [] } := by
  rw [coreRegs_modRegs, hf]
  simp [hl]

theorem landDue_word {s : State} {c : Core} {x : PendFld} (hf : (s.coreRegs c).fld = [x]) (hl : x.left = 0) (hr : x.refused = none)
    (hs : x.special = none) (hb : x.bank = 0) (ha : WordOk c x.addr) : ∃ t, s.landDue c = .ok t ∧ (t.coreRegs c).fld = [] ∧
      ∀ w, t.coreWord c w = if w = x.addr then x.val else s.coreWord c w := by
  have hreg := coreRegs_landed hf hl
  have hwd := coreWord_modRegs s c fun r => { r with fld := r.fld.filter fun x => x.left != 0 }
  have hdue := fun t => landDue_single (t := t) hf hl hr
  generalize (s.modRegs c fun r => { r with fld := r.fld.filter fun x => x.left != 0 }) = u at hreg hwd hdue
  obtain ⟨t, ht, -, hreg', hwd'⟩ := memWrite_word u c ha allLanes x.val
  refine ⟨t, hdue t ?_, by rw [hreg', hreg], fun w => ?_⟩
  · unfold State.landValue
    rw [hs, hb]
    exact ht
  · rw [hwd', mergeLanes_all, hwd]

theorem landDue_pointer {s : State} {c : Core} {x : PendFld} (hf : (s.coreRegs c).fld = [x]) (hl : x.left = 0) (hr : x.refused = none)
    {n : Nat} (hs : x.special = some n) (hn : n < 16) : ∃ t, s.landDue c = .ok t ∧ (t.coreRegs c).fld = [] ∧
      ∀ p, p < 16 → (t.coreRegs c).ptr p = if p = n then x.val.setWidth 18 else (s.coreRegs c).ptr p := by
  have hreg := coreRegs_landed hf hl
  have hdue := fun t => landDue_single (t := t) hf hl hr
  generalize (s.modRegs c fun r => { r with fld := r.fld.filter fun x => x.left != 0 }) = u at hreg hdue
  refine ⟨u.modRegs c fun r => r.setPtr n (x.val.setWidth 18), hdue _ ?_, ?_, fun p _ => ?_⟩
  · unfold State.landValue
    rw [hs]
    exact writeLoc_pointer u c hn 0 x.val
  · rw [coreRegs_modRegs, hreg]
    rfl
  · rw [ptr_modRegs_setPtr u c hn, hreg]
    rfl

/-! ### The lanes that a store selects (R213) -/

theorem laneMask_eq_ofLanes (sel : Nat → Bool) : laneMask sel = ofLanes 32 (fun n => if sel n then BitVec.allOnes 32 else 0) 4 := by
  have h (m : Word) (n : Nat) : (if sel n then m ||| (0xFFFFFFFF#128 <<< (32 * n)) else m) =
      m ||| (((if sel n then BitVec.allOnes 32 else 0 : W32).setWidth 128) <<< (32 * n)) := by
    cases sel n
    · simp
    · rfl
  unfold laneMask ofLanes
  simp only [h]

theorem getLsbD_laneMask (sel : Nat → Bool) {i : Nat} (hi : i < 128) : (laneMask sel).getLsbD i = sel (i / 32) := by
  rw [laneMask_eq_ofLanes, getLsbD_ofLanes (by decide) _ _ hi, decide_eq_true (show i / 32 < 4 by omega), Bool.true_and]
  cases sel (i / 32)
  · simp
  · rw [if_pos rfl, BitVec.getLsbD_allOnes, decide_eq_true (Nat.mod_lt i (by decide))]

/-- A masked store writes the selected lanes and keeps the others. -/
theorem extractLsb'_mergeLanes (sel : Nat → Bool) (old v : Word) {n : Nat} (hn : n < 4) :
    (mergeLanes sel old v).extractLsb' (32 * n) 32 = if sel n = true then v.extractLsb' (32 * n) 32 else old.extractLsb' (32 * n) 32 := by
  apply BitVec.eq_of_getLsbD_eq
  intro i hi
  have h128 : 32 * n + i < 128 := by omega
  have hm := getLsbD_laneMask sel h128
  rw [show (32 * n + i) / 32 = n by omega] at hm
  unfold mergeLanes
  rw [BitVec.getLsbD_extractLsb', BitVec.getLsbD_or, BitVec.getLsbD_and, BitVec.getLsbD_and, BitVec.getLsbD_not, hm]
  cases sel n <;> simp [hi, h128]

/-! ### Special registers (R183, R211) -/

section

variable {α : Type} {m : Nat} (v : Vector α m) (d x : α)

/-- An entry of a vector that has been written reads the value written. -/
theorem getD_setIfInBounds_self {i : Nat} (h : i < m) : ((v.setIfInBounds i x)[i]?).getD d = x := by
  rw [Vector.getElem?_setIfInBounds, if_pos rfl, if_pos h]
  rfl

theorem getD_setIfInBounds_ne {i j : Nat} (h : i ≠ j) : ((v.setIfInBounds i x)[j]?).getD d = (v[j]?).getD d := by
  rw [Vector.getElem?_setIfInBounds, if_neg h]

end

/-- From `s` to `t` special register `n` of core `c` has taken the value `x`, and no other special register has changed. -/
def SrSet (s t : State) (c : Core) (n : Nat) (x : Word) : Prop :=
  t.srValue c n = x ∧ ∀ m q, srOf c m = .ok q → m ≠ n → t.srValue c m = s.srValue c m

theorem pbkOf_modRegs (s : State) (c : Core) {f : Regs → Regs} (h : (f (s.coreRegs c)).pbk = (s.coreRegs c).pbk) :
    (s.modRegs c f).pbkOf c = s.pbkOf c := by
  cases c with
  | cox e k =>
    unfold State.pbkOf State.modRegs
    dsimp only
    rw [slot_modSlot_self]
    rfl
  | umpire => exact h

/-- A special register reads a register of the core, or else its slot's or the Umpire's own. -/
theorem srValue_congr {s t : State} {c : Core} {m : Nat} (hr : t.coreRegs c = s.coreRegs c) (hp : t.pbkOf c = s.pbkOf c)
    (hs : ∀ e k, c = .cox e k → Slot.sr (t.slot e k) m = Slot.sr (s.slot e k) m) (hu : c = .umpire → t.privSr m = s.privSr m) :
    t.srValue c m = s.srValue c m := by
  unfold State.srValue
  rw [hr, hp]
  split
  case h_14 =>
    cases c with
    | cox e k => exact hs e k rfl
    | umpire => exact hu rfl
  all_goals rfl

theorem sr_modRegs (s : State) (e k : Nat) (f : Regs → Regs) (m : Nat) :
    Slot.sr ((s.modRegs (.cox e k) f).slot e k) m = Slot.sr (s.slot e k) m := by
  unfold State.modRegs
  dsimp only
  rw [slot_modSlot_self]
  rfl

/-- A special register whose own part of the registers has not changed reads as before. -/
theorem srValue_modRegs {s : State} {c : Core} {f : Regs → Regs} {m : Nat} {r r' : Regs} (hr : s.coreRegs c = r) (hr' : f r = r')
    (hpbk : r'.pbk = r.pbk) (hdbk : m = 0 → r'.dbk = r.dbk) (hsl : m = 2 → r'.sl = r.sl) (hld : m = 3 → r'.ldepth = r.ldepth)
    (hls : ∀ i, m = 4 + i → (r'.ls[i]?).getD 0 = (r.ls[i]?).getD 0) (hle : ∀ i, m = 8 + i → (r'.le[i]?).getD 0 = (r.le[i]?).getD 0)
    (hlc : ∀ i, m = 12 + i → (r'.lc[i]?).getD 0 = (r.lc[i]?).getD 0) : (s.modRegs c f).srValue c m = s.srValue c m := by
  subst hr hr'
  unfold State.srValue
  rw [coreRegs_modRegs, pbkOf_modRegs s c hpbk]
  split
  · exact congrArg (BitVec.setWidth 128) (hdbk rfl)
  · rfl
  · exact congrArg (BitVec.setWidth 128) (hsl rfl)
  · exact congrArg (BitVec.setWidth 128) (hld rfl)
  · exact congrArg (BitVec.setWidth 128) (hls 0 rfl)
  · exact congrArg (BitVec.setWidth 128) (hls 1 rfl)
  · exact congrArg (BitVec.setWidth 128) (hls 2 rfl)
  · exact congrArg (BitVec.setWidth 128) (hle 0 rfl)
  · exact congrArg (BitVec.setWidth 128) (hle 1 rfl)
  · exact congrArg (BitVec.setWidth 128) (hle 2 rfl)
  · exact congrArg (BitVec.setWidth 128) (hlc 0 rfl)
  · exact congrArg (BitVec.setWidth 128) (hlc 1 rfl)
  · exact congrArg (BitVec.setWidth 128) (hlc 2 rfl)
  · cases c with
    | cox e k => exact sr_modRegs s e k f m
    | umpire => rfl

theorem setWidth_setWidth_word (v : Word) (w : Nat) : (v.setWidth w).setWidth 128 = BitVec.ofNat 128 (v.toNat % 2 ^ w) :=
  BitVec.eq_of_toNat_eq (by simp)

section

variable (s : State) (c : Core) (v : Word)

theorem srSet_dbk : SrSet s (s.modRegs c fun r => { r with dbk := v.setWidth 12 }) c 0x00 (BitVec.ofNat 128 (v.toNat % 2 ^ 12)) := by
  refine ⟨?_, fun m _ _ hm => srValue_modRegs rfl rfl rfl (absurd · hm) (fun _ => rfl) (fun _ => rfl) (fun _ _ => rfl) (fun _ _ => rfl)
    (fun _ _ => rfl)⟩
  rw [← setWidth_setWidth_word]
  exact congrArg (fun r : Regs => r.dbk.setWidth 128) (coreRegs_modRegs s c _)

theorem srSet_sl : SrSet s (s.modRegs c fun r => { r with sl := v.setWidth 18 }) c 0x02 (BitVec.ofNat 128 (v.toNat % 2 ^ 18)) := by
  refine ⟨?_, fun m _ _ hm => srValue_modRegs rfl rfl rfl (fun _ => rfl) (absurd · hm) (fun _ => rfl) (fun _ _ => rfl) (fun _ _ => rfl)
    (fun _ _ => rfl)⟩
  rw [← setWidth_setWidth_word]
  exact congrArg (fun r : Regs => r.sl.setWidth 128) (coreRegs_modRegs s c _)

theorem srSet_ldepth : SrSet s (s.modRegs c fun r => { r with ldepth := v.setWidth 2 }) c 0x03 (BitVec.ofNat 128 (v.toNat % 2 ^ 2)) := by
  refine ⟨?_, fun m _ _ hm => srValue_modRegs rfl rfl rfl (fun _ => rfl) (fun _ => rfl) (absurd · hm) (fun _ _ => rfl) (fun _ _ => rfl)
    (fun _ _ => rfl)⟩
  rw [← setWidth_setWidth_word]
  exact congrArg (fun r : Regs => r.ldepth.setWidth 128) (coreRegs_modRegs s c _)

variable {i : Nat} (hi : i < 3)
include hi

/-- The numbers of the loop registers: starts, ends and counts of the three levels. -/
theorem srValue_loop : s.srValue c (4 + i) = (((s.coreRegs c).ls[i]?).getD 0).setWidth 128 ∧
    s.srValue c (8 + i) = (((s.coreRegs c).le[i]?).getD 0).setWidth 128 ∧
    s.srValue c (12 + i) = (((s.coreRegs c).lc[i]?).getD 0).setWidth 128 := by
  interval_cases i <;> exact ⟨rfl, rfl, rfl⟩

theorem srSet_ls : SrSet s (s.modRegs c fun r => { r with ls := r.ls.setIfInBounds i (v.setWidth 30) }) c (4 + i)
    (BitVec.ofNat 128 (v.toNat % 2 ^ 30)) := by
  refine ⟨?_, fun m _ _ hm => srValue_modRegs rfl rfl rfl (fun _ => rfl) (fun _ => rfl) (fun _ => rfl)
    (fun j hj => getD_setIfInBounds_ne _ _ _ (by omega)) (fun _ _ => rfl) (fun _ _ => rfl)⟩
  rw [(srValue_loop _ c hi).1, coreRegs_modRegs, getD_setIfInBounds_self _ _ _ hi, setWidth_setWidth_word]

theorem srSet_le : SrSet s (s.modRegs c fun r => { r with le := r.le.setIfInBounds i (v.setWidth 30) }) c (8 + i)
    (BitVec.ofNat 128 (v.toNat % 2 ^ 30)) := by
  refine ⟨?_, fun m _ _ hm => srValue_modRegs rfl rfl rfl (fun _ => rfl) (fun _ => rfl) (fun _ => rfl)
    (fun _ _ => rfl) (fun j hj => getD_setIfInBounds_ne _ _ _ (by omega)) (fun _ _ => rfl)⟩
  rw [(srValue_loop _ c hi).2.1, coreRegs_modRegs, getD_setIfInBounds_self _ _ _ hi, setWidth_setWidth_word]

theorem srSet_lc : SrSet s (s.modRegs c fun r => { r with lc := r.lc.setIfInBounds i (v.setWidth 32) }) c (12 + i)
    (BitVec.ofNat 128 (v.toNat % 2 ^ 32)) := by
  refine ⟨?_, fun m _ _ hm => srValue_modRegs rfl rfl rfl (fun _ => rfl) (fun _ => rfl) (fun _ => rfl)
    (fun _ _ => rfl) (fun _ _ => rfl) (fun j hj => getD_setIfInBounds_ne _ _ _ (by omega))⟩
  rw [(srValue_loop _ c hi).2.2, coreRegs_modRegs, getD_setIfInBounds_self _ _ _ hi, setWidth_setWidth_word]

end

theorem srSet_cbgCfg (s : State) (e k : Nat) (v : Word) : SrSet s (s.modSlot e k fun t => { t with cbgCfg := v.setWidth 2 }) (.cox e k) 0x10
    (BitVec.ofNat 128 (v.toNat % 2 ^ 2)) := by
  have ht : (s.modSlot e k fun t => { t with cbgCfg := v.setWidth 2 }).slot e k = { s.slot e k with cbgCfg := v.setWidth 2 } :=
    slot_modSlot_self s e k _
  refine ⟨?_, fun m _ _ hm => srValue_congr ?_ ?_ (fun e' k' he => ?_) nofun⟩
  · rw [← setWidth_setWidth_word]
    exact congrArg (fun t : Slot => t.cbgCfg.setWidth 128) ht
  · unfold State.coreRegs
    dsimp only
    rw [ht]
  · unfold State.pbkOf
    dsimp only
    rw [ht]
    rfl
  · cases he
    rw [ht]
    unfold Slot.sr
    split
    · exact absurd rfl hm
    all_goals rfl

theorem srInfo_of_srOf {c : Core} {m : Nat} {q : SrInfo} (h : srOf c m = .ok q) :
    srInfo m = some q ∧ (c = .umpire → q.ump = true) ∧ (c ≠ .umpire → q.cox = true) := by
  unfold srOf at h
  split at h
  · cases h
  · next hi =>
    split at h
    · next hq => cases h; exact ⟨hi, nofun, fun _ => hq⟩
    · cases h
  · next hi =>
    split at h
    · next hq => cases h; exact ⟨hi, fun _ => hq, fun hc => absurd rfl hc⟩
    · cases h

/-- A special register of the Umpire is one of its core's or a privileged one (R183, R211). -/
theorem srOf_umpire {m : Nat} {q : SrInfo} (h : srOf .umpire m = .ok q) : m ≤ 14 ∧ m ≠ 7 ∧ m ≠ 11 ∨ 0x80 ≤ m ∧ m ≤ 0x87 := by
  obtain ⟨hi, hu, -⟩ := srInfo_of_srOf h
  have hu := hu rfl
  unfold srInfo at hi
  split at hi
  case h_31 => cases hi
  all_goals
    cases hi
    revert hu
    decide

/-- A privileged register is written (R211). -/
theorem srSet_priv {s : State} {f : Ump → Ump} {n : Nat} {x : Word} (hr : (f s.ump).regs = s.ump.regs)
    (hx : (s.onUmp f).srValue .umpire n = x) (hm : ∀ m, 0x80 ≤ m → m ≤ 0x87 → m ≠ n → (s.onUmp f).privSr m = s.privSr m) :
    SrSet s (s.onUmp f) .umpire n x := by
  refine ⟨hx, fun m q hq hne => ?_⟩
  rcases srOf_umpire hq with ⟨h14, h7, h11⟩ | ⟨hlo, hhi⟩
  · unfold State.srValue
    rw [show (s.onUmp f).coreRegs .umpire = s.coreRegs .umpire from hr,
      show (s.onUmp f).pbkOf .umpire = s.pbkOf .umpire from congrArg Regs.pbk hr]
    split
    case h_14 =>
      simp only [imp_false] at *
      omega
    all_goals rfl
  · exact srValue_congr hr (congrArg Regs.pbk hr) nofun fun _ => hm m hlo hhi hne

/-- The two low bits of a word as a number. -/
theorem b2n_low (v : Word) : b2n (v.getLsbD 0) + 2 * b2n (v.getLsbD 1) = v.toNat % 2 ^ 2 := by
  have hb (i : Nat) : b2n (v.getLsbD i) = v.toNat / 2 ^ i % 2 := by
    rw [← BitVec.testBit_toNat, Nat.testBit_eq_decide_div_mod_eq]
    rcases Nat.mod_two_eq_zero_or_one (v.toNat / 2 ^ i) with h | h <;> simp [h, b2n]
  rw [hb, hb]
  omega

section

variable (s : State) (v : Word)

theorem srSet_evb : SrSet s (s.onUmp fun u => { u with evb := v.setWidth 30 }) .umpire 0x80 (BitVec.ofNat 128 (v.toNat % 2 ^ 30)) := by
  refine srSet_priv rfl (setWidth_setWidth_word v 30) fun m _ _ hm => ?_
  unfold State.privSr
  split
  case h_1 => exact absurd rfl hm
  all_goals rfl

theorem srSet_epc : SrSet s (s.onUmp fun u => { u with epc := v.setWidth 30 }) .umpire 0x81 (BitVec.ofNat 128 (v.toNat % 2 ^ 30)) := by
  refine srSet_priv rfl (setWidth_setWidth_word v 30) fun m _ _ hm => ?_
  unfold State.privSr
  split
  case h_2 => exact absurd rfl hm
  all_goals rfl

theorem srSet_ien : SrSet s (s.onUmp fun u => { u with ien := v.setWidth 32 }) .umpire 0x84 (BitVec.ofNat 128 (v.toNat % 2 ^ 32)) := by
  refine srSet_priv rfl (setWidth_setWidth_word v 32) fun m _ _ hm => ?_
  unfold State.privSr
  split
  case h_5 => exact absurd rfl hm
  all_goals rfl

theorem srSet_ie : SrSet s (s.onUmp fun u => { u with ie := v.getLsbD 0, pie := v.getLsbD 1 }) .umpire 0x86
    (BitVec.ofNat 128 (v.toNat % 2 ^ 2)) := by
  refine srSet_priv rfl (congrArg (BitVec.ofNat 128) (b2n_low v)) fun m _ _ hm => ?_
  unfold State.privSr
  split
  case h_7 => exact absurd rfl hm
  all_goals rfl

theorem srSet_scratch : SrSet s (s.onUmp fun u => { u with scratch := v }) .umpire 0x87 (BitVec.ofNat 128 (v.toNat % 2 ^ 128)) := by
  refine srSet_priv rfl ((BitVec.setWidth_eq v).symm.trans (setWidth_setWidth_word v 128)) fun m _ _ hm => ?_
  unfold State.privSr
  split
  case h_8 =>
    simp only [imp_false] at *
    omega
  all_goals rfl

end

/-- A write of a special register that its core may write gives that register its low bits, and no other changes (R183, R211). -/
theorem setSr_srSet (s : State) (c : Core) (n : Nat) (v : Word) {r : SrInfo} (h : srOf c n = .ok r) (hw : r.rw = true) :
    SrSet s (s.setSr c n v) c n (BitVec.ofNat 128 (v.toNat % 2 ^ r.width)) := by
  obtain ⟨hi, hump, hcox⟩ := srInfo_of_srOf h
  unfold srInfo at hi
  split at hi
  all_goals cases hi <;> cases hw
  · exact srSet_dbk s c v
  · exact srSet_sl s c v
  · exact srSet_ldepth s c v
  · exact srSet_ls s c v (i := 0) (by decide)
  · exact srSet_ls s c v (i := 1) (by decide)
  · exact srSet_ls s c v (i := 2) (by decide)
  · exact srSet_le s c v (i := 0) (by decide)
  · exact srSet_le s c v (i := 1) (by decide)
  · exact srSet_le s c v (i := 2) (by decide)
  · exact srSet_lc s c v (i := 0) (by decide)
  · exact srSet_lc s c v (i := 1) (by decide)
  · exact srSet_lc s c v (i := 2) (by decide)
  · cases c with
    | cox e k => exact srSet_cbgCfg s e k v
    | umpire => cases hump rfl
  all_goals
    obtain rfl : c = .umpire := by
      cases c with
      | cox e k => cases hcox nofun
      | umpire => rfl
  · exact srSet_evb s v
  · exact srSet_epc s v
  · exact srSet_ien s v
  · exact srSet_ie s v
  · exact srSet_scratch s v

/-! ### The meanings that reach memory and special registers -/

theorem fst_stores {i : At} {a u v w d : State} {o : Abc} {p z b : Word} (ho : a.abc 0x05 i = .ok o)
    (hp : o.s.readLoc i.c o.a 0 = .ok (p, u)) (hz : u.readLoc i.c o.b 0 = .ok (z, v)) (hb : v.readLoc i.c o.c 0 = .ok (b, w))
    (hw : w.memWrite i.c (b.toNat % 4096) (p.toNat % 262144) allLanes z = .ok d) : fstBody i a = .ok (d, .seq) := by
  unfold fstBody
  rw [ho]
  dsimp only
  rw [hp]
  dsimp only
  rw [hz]
  dsimp only
  rw [hb]
  dsimp only
  rw [hw]
  rfl

/-- STM writes the selected lanes in place, or, where a place takes whole words only, merges them with what it held. -/
theorem stm_stores {i : At} {a u v d : State} {o : Abc} {z m : Word} (ho : a.abc 0x06 i = .ok o) (hz : o.s.readLoc i.c o.b 0 = .ok (z, u))
    (hm : u.readLoc i.c o.c 0 = .ok (m, v))
    (hw : (∀ n, o.a ≠ .special n ∨ n < 16) ∧ v.writeLoc i.c o.a 0 (fun n => m.getLsbD n) z = .ok d ∨
      (∃ n, o.a = .special n ∧ 16 ≤ n) ∧ ∃ old w, v.oldLoc i.c o.a 0 = .ok (old, w) ∧
        w.writeLoc i.c o.a 0 allLanes (mergeLanes (fun n => m.getLsbD n) old z) = .ok d) : stmBody i a = .ok (d, .seq) := by
  unfold stmBody
  rw [ho]
  dsimp only
  rw [hz]
  dsimp only
  rw [hm]
  dsimp only
  rcases hw with ⟨hplace, hd⟩ | ⟨⟨n, hn, h16⟩, old, w, hold, hd⟩
  · rw [hd]
    cases ha : o.a with
    | special n =>
      have hn : n < 16 := (hplace n).resolve_left (not_not_intro ha)
      dsimp only
      rw [if_pos hn]
      rfl
    | mem _ _ => rfl
    | imm _ => rfl
  · rw [hn] at hold hd ⊢
    dsimp only
    rw [if_neg (Nat.not_lt.2 h16), hold]
    dsimp only
    rw [hd]
    rfl

theorem mfsr_reads {i : At} {a u d : State} {o : Abc} {n : Word} {r : SrInfo} (ho : a.abc 0x07 i = .ok o)
    (hn : o.s.readLoc i.c o.c 0 = .ok (n, u)) (hu : srUse i = true) (hr : srOf i.c n.toNat = .ok r)
    (hd : u.writeLoc i.c o.a 0 allLanes (u.srValue i.c n.toNat) = .ok d) : mfsrBody i a = .ok (d, .seq) := by
  unfold mfsrBody
  rw [ho]
  dsimp only
  rw [hn]
  dsimp only
  rw [if_neg (by rw [hu]; decide), hr]
  dsimp only
  rw [hd]
  rfl

theorem mtsr_writes {i : At} {a u w d : State} {o : Abc} {v n : Word} {r : SrInfo} (ho : a.abc 0x08 i = .ok o)
    (hv : o.s.readLoc i.c o.b 0 = .ok (v, u)) (hn : u.readLoc i.c o.c 0 = .ok (n, w)) (hu : srUse i = true)
    (hr : srOf i.c n.toNat = .ok r)
    (hd : r.rw = true ∧ w.srStop i.c n.toNat v = none ∧ d = w.setSr i.c n.toNat v ∨ r.rw = false ∧ i.c = .umpire ∧ d = w) :
    mtsrBody i a = .ok (d, .seq) := by
  unfold mtsrBody
  rw [ho]
  dsimp only
  rw [hv]
  dsimp only
  rw [hn]
  dsimp only
  rw [if_neg (by rw [hu]; decide), hr]
  dsimp only
  rcases hd with ⟨hrw, hs, rfl⟩ | ⟨hrw, hc, rfl⟩
  · rw [if_neg (by rw [hrw]; decide), hs]
  · rw [if_pos hrw, hc]

theorem coreRegs_fld_count1 (s : State) (c : Core) :
    ((s.count1 c).coreRegs c).fld = (s.coreRegs c).fld.map fun x => { x with left := x.left - 1 } := by
  rw [coreRegs_count1]
  rfl

/-- Settles O36. That MTSR to a read-only register of the Umpire is ignored and that FLD and FST take the low bits of bank and address are
log entry 43's choices; that a refused FLD lands zero is log entry 70's. -/
theorem farAccessesAndSpecialRegisters : Obligations.FarAccessesAndSpecialRegisters := by
  unfold Obligations.FarAccessesAndSpecialRegisters
  refine ⟨completes_of_body (f := fldBody) (by simp [traernOps]) rfl fun i a d h => ?_, coreRegs_fld_count1,
    fun s s1 c hl hd => fldLand_lands hl hd,
    fun s c x hf hl hr => ⟨landDue_word hf hl hr, fun n => landDue_pointer hf hl hr⟩,
    completes_of_body (f := fstBody) (by simp [traernOps]) rfl
      fun i a d ⟨_, _, _, _, _, _, _, ho, hp, hz, hb, hw⟩ => fst_stores ho hp hz hb hw,
    completes_of_body (f := stmBody) (by simp [traernOps]) rfl fun i a d ⟨_, _, _, _, _, ho, hz, hm, hw⟩ => stm_stores ho hz hm hw,
    fun s c a sel v h => ?_,
    completes_of_body (f := mfsrBody) (by simp [traernOps]) rfl fun i a d ⟨_, _, _, _, ho, hn, hu, hr, hd⟩ => mfsr_reads ho hn hu hr hd,
    completes_of_body (f := mtsrBody) (by simp [traernOps]) rfl
      fun i a d ⟨_, _, _, _, _, _, ho, hv, hn, hu, hr, hd⟩ => mtsr_writes ho hv hn hu hr hd,
    fun s c n v r h hw => setSr_srSet s c n v h hw, ?_, ?_⟩
  · obtain ⟨o, p, b, u, v, z, val, ref, ho, hp, hb, hdest, hfar, rfl⟩ := h
    unfold fldBody
    rw [ho]
    dsimp only
    rw [hp]
    dsimp only
    rw [hb]
    dsimp only
    rw [if_neg (by rw [hdest]; decide), hfar] <;> rfl
  · obtain ⟨t, ht, -, -, hwd⟩ := memWrite_word s c h sel v
    refine ⟨t, ht, fun n hn => ?_, fun w hne => (hwd w).trans (if_neg hne)⟩
    rw [hwd, if_pos rfl, extractLsb'_mergeLanes sel _ v hn]
  · intro s e k
    exact ⟨rfl, rfl, rfl, rfl, rfl, rfl, rfl, rfl, rfl, rfl, rfl, rfl⟩
  · intro s
    exact ⟨rfl, rfl, rfl, rfl, rfl, rfl, rfl, rfl⟩

end Sys2Proof.Machine

/-!
# An instruction stays in its core (R181, R207)

What an instruction reads and writes lies in its own stroke slot, or, with DBK 0, in the Umpire: every operand, every delayed result and
every control transfer is followed with one relation, `Confined`, from the operand modes to the whole instruction.
-/

namespace Sys2Proof.Machine

-- One declaration after the other: elaborated side by side, the row as one text takes more threads than the check allows.
set_option Elab.async false

/-! ### What an instruction of a core may change -/

/-- From `s` to `t` nothing has changed but core `c`'s own: of a cox its stroke slot, less the slot's keys and job, the block count of its
eight and the free values; of the Umpire its own state. -/
def Confined : Core → State → State → Prop
  | .cox e k, s, t => Only [.eights, .freeCtr] s t ∧ (∀ e' k', (e', k') ≠ (e, k) → t.slot e' k' = s.slot e' k') ∧
      (t.slot e k).k0 = (s.slot e k).k0 ∧ (t.slot e k).k1 = (s.slot e k).k1 ∧ (t.slot e k).job = (s.slot e k).job
  | .umpire, s, t => Only [.ump] s t

namespace Confined

variable {c : Core} {s t u : State}

theorem refl (c : Core) (s : State) : Confined c s s := by
  cases c with
  | cox e k => exact ⟨Only.refl _ s, fun _ _ _ => rfl, rfl, rfl, rfl⟩
  | umpire => exact Only.refl _ s

theorem trans (h : Confined c s t) (h' : Confined c t u) : Confined c s u := by
  cases c with
  | cox e k =>
    obtain ⟨ho, hs, hk0, hk1, hj⟩ := h
    obtain ⟨ho', hs', hk0', hk1', hj'⟩ := h'
    exact ⟨ho.trans ho', fun e' k' hn => (hs' e' k' hn).trans (hs e' k' hn), hk0'.trans hk0, hk1'.trans hk1, hj'.trans hj⟩
  | umpire => exact Only.trans h h'

theorem modSlot {e k : Nat} (h : Confined (.cox e k) s t) {g : Slot → Slot}
    (hg : ∀ t, (g t).k0 = t.k0 ∧ (g t).k1 = t.k1 ∧ (g t).job = t.job) : Confined (.cox e k) s (t.modSlot e k g) :=
  h.trans (modSlot_effect t e k 0 g hg)

theorem spend {e k : Nat} (h : Confined (.cox e k) s t) (n : Nat) : Confined (.cox e k) s (t.spend n) :=
  h.trans ⟨(Only.refl _ t).spend (by decide) n, fun _ _ _ => rfl, rfl, rfl, rfl⟩

theorem onUmp (h : Confined .umpire s t) (f : Ump → Ump) : Confined .umpire s (t.onUmp f) := Only.onUmp (by decide) h f

theorem modRegs (h : Confined c s t) (f : Regs → Regs) : Confined c s (t.modRegs c f) := by
  cases c with
  | cox e k => exact h.modSlot fun _ => ⟨rfl, rfl, rfl⟩
  | umpire => exact h.onUmp _

theorem seatWork {e k : Nat} (h : Confined (.cox e k) s t) (n : Nat) : Confined (.cox e k) s (t.seatWork e k n) := by
  obtain ⟨ho, heights, hslots, -, hself, -⟩ := seatWork_effect t e k n
  refine h.trans ⟨ho, fun e' k' hn => ?_, by rw [hself], by rw [hself], by rw [hself]⟩
  by_cases he : e' = e
  · subst he
    exact hslots k' fun hk => hn (by rw [hk])
  · exact congrArg (fun x : Eight => x.slots.get {} k') (heights e' he)

/-- The result of an instruction's meaning, by the state it leaves. -/
theorem goes (h : Confined c s t) (f : Flow) : Yields (fun p => Confined c s p.1) (.ok (t, f)) := .ok h

theorem count1 (c : Core) (s : State) : Confined c s (s.count1 c) := by
  cases c with
  | cox e k => exact ((refl _ s).modRegs _).modSlot fun _ => ⟨rfl, rfl, rfl⟩
  | umpire => exact ((refl _ s).modRegs _).onUmp _

end Confined

/-- An operand that, on the Umpire, lies in bank 0 if it lies in memory. -/
def Near (c : Core) (l : Loc) : Prop := c = .umpire → ∀ b a, l = .mem b a → b = 0

/-! ### Memory and operands -/

section

variable {c : Core} {s t : State}

theorem confined_memRead (h : Confined c s t) {bank a : Nat} (hb : c = .umpire → bank = 0) :
    Yields (fun p => Confined c s p.2) (t.memRead c bank a) := by
  cases c with
  | cox e k =>
    unfold State.memRead
    exact .ite (.ok h) (.ite (.ok h) (.error _))
  | umpire =>
    obtain rfl := hb rfl
    unfold State.memRead State.bankRead
    by_cases ha : a < 262144
    · rw [bankAt_sram ha]
      exact .ite (.error _) (.ok h)
    · unfold bankAt
      dsimp only
      rw [if_pos (Nat.not_lt.1 ha)]
      exact .error _

theorem confined_memWrite (h : Confined c s t) {bank a : Nat} (hb : c = .umpire → bank = 0) (sel : Nat → Bool) (v : Word) :
    Yields (Confined c s) (t.memWrite c bank a sel v) := by
  cases c with
  | cox e k =>
    unfold State.memWrite
    exact .ite (.ok (h.modSlot fun _ => ⟨rfl, rfl, rfl⟩)) (.error _)
  | umpire =>
    obtain rfl := hb rfl
    by_cases ha : a < 262144
    · obtain ⟨u, hu, ho, -⟩ := memWrite_word t .umpire (.inl ⟨rfl, ha⟩) sel v
      rw [hu]
      exact .ok (Only.trans h ho)
    · unfold State.memWrite bankAt
      dsimp only
      rw [if_pos (Nat.not_lt.1 ha)]
      exact .error _

theorem confined_readSpecial {e k : Nat} (h : Confined (.cox e k) s t) (n : Nat) :
    Yields (fun p => Confined (.cox e k) s p.2) (t.readSpecial e k n) := by
  by_cases hn : n = 28
  · subst hn
    rw [readSpecial_counter]
    refine .ite (.error _) (.ok (h.modSlot fun u => ?_))
    unfold Slot.delivered
    split <;> exact ⟨rfl, rfl, rfl⟩
  unfold State.readSpecial
  extract_lets u
  split
  · exact .ok (h.modSlot fun _ => ⟨rfl, rfl, rfl⟩)
  · exact .ok (h.modSlot fun _ => ⟨rfl, rfl, rfl⟩)
  · exact .ok h
  · exact absurd rfl hn
  · exact .error _

theorem confined_writeSpecial {e k : Nat} (h : Confined (.cox e k) s t) (n : Nat) (v : Word) :
    Yields (Confined (.cox e k) s) (t.writeSpecial e k n v) := by
  unfold State.writeSpecial
  split
  · exact .ok (h.modSlot fun _ => ⟨rfl, rfl, rfl⟩)
  · exact .ok (h.modSlot fun _ => ⟨rfl, rfl, rfl⟩)
  · exact .ite (.error _) (.ok (h.modSlot fun _ => ⟨rfl, rfl, rfl⟩))
  · exact .error _

theorem confined_readLoc (h : Confined c s t) {l : Loc} (hl : Near c l) (i : Nat) :
    Yields (fun p => Confined c s p.2) (t.readLoc c l i) := by
  unfold State.readLoc
  split
  · exact confined_memRead h fun hc => hl hc _ _ rfl
  · exact .ok h
  · refine .ite (.ok h) ?_
    split
    · exact confined_readSpecial h _
    · exact .error _

theorem confined_writeLoc (h : Confined c s t) {l : Loc} (hl : Near c l) (i : Nat) (sel : Nat → Bool) (v : Word) :
    Yields (Confined c s) (t.writeLoc c l i sel v) := by
  unfold State.writeLoc
  split
  · exact confined_memWrite h (fun hc => hl hc _ _ rfl) sel v
  · exact .error _
  · refine .ite (.ok ?_) ?_
    · split
      · exact h.modRegs _
      · exact h
    split
    · exact confined_writeSpecial h _ v
    · exact .error _

theorem confined_oldLoc (h : Confined c s t) {l : Loc} (hl : Near c l) (i : Nat) :
    Yields (fun p => Confined c s p.2) (t.oldLoc c l i) := by
  unfold State.oldLoc
  split
  · exact .ok (h.spend 1)
  · exact .ok h
  · exact .ok h
  · exact confined_readLoc h hl i

theorem confined_readAll (h : Confined c s t) {l : Loc} (hl : Near c l) (n : Nat) :
    Yields (fun p => Confined c s p.2) (t.readAll c l n) := by
  unfold State.readAll
  refine .foldlM (fun p k hp => ?_) _ h
  unfold State.readNext
  split
  · exact .error _
  next hx => exact .ok (confined_readLoc hp hl k _ hx)

/-- Resolving steps a pointer at most, keeps DBK, and on the Umpire with DBK 0 gives an operand in bank 0 (R187). -/
theorem confined_resolve1 (h : Confined c s t) (hd : c = .umpire → t.ump.regs.dbk = 0) (sp : BitVec 8) (f : BitVec 18) (n : Nat) :
    Yields (fun p => Confined c s p.2 ∧ (c = .umpire → p.2.ump.regs.dbk = 0) ∧ Near c p.1) (t.resolve1 c sp f n) := by
  rintro ⟨l, u⟩ hr
  have hnear : Near c l := by
    rintro rfl b a rfl
    rw [resolve1_bank hr]
    exact congrArg BitVec.toNat (hd rfl)
  suffices Confined c s u ∧ (c = .umpire → u.ump.regs.dbk = 0) from ⟨this.1, this.2, hnear⟩
  have hp (g : Regs → Regs) (hg : ∀ r, (g r).dbk = r.dbk) :
      Confined c s (t.modRegs c g) ∧ (c = .umpire → (t.modRegs c g).ump.regs.dbk = 0) :=
    ⟨h.modRegs g, by rintro rfl; exact (hg _).trans (hd rfl)⟩
  unfold State.resolve1 at hr
  extract_lets r m at_ d at hr
  split at hr
  · cases hr
  split at hr
  case h_3 => cases hr; exact hp _ fun _ => rfl
  case h_4 =>
    split at hr
    · cases hr
    · cases hr; exact hp _ fun _ => rfl
  case h_8 =>
    split at hr
    · cases hr
    · cases hr; exact ⟨h, hd⟩
  all_goals
    cases hr
    exact ⟨h, hd⟩

theorem confined_operand (h : Confined c s t) (hd : c = .umpire → t.ump.regs.dbk = 0) (p : Pos) (sp : BitVec 8) (f : BitVec 18)
    (n : Nat) :
    Yields (fun p => Confined c s p.2 ∧ (c = .umpire → p.2.ump.regs.dbk = 0) ∧ Near c p.1) (t.operand c p sp f n) := by
  unfold State.operand
  split
  · exact .ok ⟨h, hd, nofun⟩
  · exact confined_resolve1 h hd sp f _

end

/-- The operands of an instruction, and what resolving them has changed. -/
structure NearAbc (c : Core) (s : State) (o : Abc) : Prop where
  state : Confined c s o.s
  a : Near c o.a
  b : Near c o.b
  c : Near c o.c

theorem nearAbc {s : State} {op : Nat} {i : At} (hd : i.c = .umpire → s.ump.regs.dbk = 0) : Yields (NearAbc i.c s) (s.abc op i) := by
  unfold State.abc
  extract_lets r
  split
  · exact .error _
  next ha =>
  obtain ⟨ha, hd, na⟩ := confined_operand (.refl _ s) hd _ _ _ _ _ ha
  split
  · exact .error _
  next hb =>
  obtain ⟨hb, hd, nb⟩ := confined_operand ha hd _ _ _ _ _ hb
  split
  · exact .error _
  next hc =>
  obtain ⟨hc, -, nc⟩ := confined_operand hb hd _ _ _ _ _ hc
  exact .ok ⟨hc, na, nb, nc⟩

/-! ### Delayed results (R203 to R205) -/

theorem confined_land {e k : Nat} {s t : State} (h : Confined (.cox e k) s t) (x : PendFld) :
    Yields (Confined (.cox e k) s) (t.land (.cox e k) x) := by
  have hv : Yields (Confined (.cox e k) s) (t.landValue (.cox e k) x) := by
    unfold State.landValue
    split
    · exact confined_writeLoc h nofun 0 _ _
    · exact confined_memWrite h nofun _ _
  unfold State.land
  split
  · exact .error _
  · exact .error _
  · next hu =>
    split
    · exact .error _
    · exact .ok (hv _ hu)

theorem confined_landDue_cox (s : State) (e k : Nat) : Yields (Confined (.cox e k) s) (s.landDue (.cox e k)) := by
  unfold State.landDue
  exact .foldlM (fun t x h => confined_land h x) _ ((Confined.refl _ s).modRegs _)

/-- FENCE and END land what is pending, of which a plain instruction of the Umpire has nothing. -/
theorem confined_landAll (s : State) (c : Core) (h : c = .umpire → s.ump.regs.fld = [] ∧ s.ump.regs.res = []) :
    Yields (Confined c s) (s.landAll c) := by
  unfold State.landAll
  extract_lets r s1
  have h1 : Confined c s s1 := (Confined.refl c s).modRegs _
  cases c with
  | cox e k =>
    split
    · exact .error _
    next t hr =>
    have hres : Confined (.cox e k) s t := Yields.foldlM (fun _ _ h => confined_memWrite (c := .cox e k) h nofun _ _) _ h1 _ hr
    exact .foldlM (fun t x h => confined_land h x) _ hres
  | umpire =>
    obtain ⟨hf, hr⟩ := h rfl
    rw [show r.res = [] from hr, show r.fld = [] from hf]
    exact .ok h1

/-! ### The meanings of the opcodes -/

/-- Opcode `op` may run on core `c` in state `s` as one of the plain instructions: on the Umpire neither FLD nor FST, with DBK 0 and no
delayed result pending; in a cox none of the Umpire's own (R207, R210). -/
structure Plain (op : Nat) (c : Core) (s : State) : Prop where
  near : c = .umpire → op ≠ 0x04 ∧ op ≠ 0x05
  dbk : c = .umpire → s.ump.regs.dbk = 0
  landed : c = .umpire → s.ump.regs.fld = [] ∧ s.ump.regs.res = []
  cox : c ≠ .umpire → op ≠ 0x62 ∧ op ≠ 0x63

/-- A meaning of opcode `op` that changes nothing but its core's own. -/
def Confines (op : Nat) (f : Body) : Prop := ∀ (i : At) (s : State), Plain op i.c s → Yields (fun p => Confined i.c s p.1) (f i s)

theorem confines_vec (op : Nat) (g : Word → Word → Word) : Confines op (vecBody op g) := fun i s h => by
  unfold vecBody
  split
  · exact .error _
  next ho =>
  obtain ⟨hs, na, nb, nc⟩ := nearAbc h.dbk _ ho
  refine .map (.foldlM (fun t n ht => ?_) _ hs) fun _ => id
  split
  · exact .error _
  next hx =>
  split
  · exact .error _
  next hy => exact confined_writeLoc (confined_readLoc (confined_readLoc ht nb n _ hx) nc n _ hy) na n _ _

theorem confines_scalar (op : Nat) (old : Bool) (g : Word → Word → Word → Word) : Confines op (scalarBody op old g) := fun i s h => by
  unfold scalarBody
  split
  · exact .error _
  next ho =>
  obtain ⟨hs, na, nb, nc⟩ := nearAbc h.dbk _ ho
  split
  · exact .error _
  next hy =>
  refine .map (.foldlM (fun t n ht => ?_) _ (confined_readLoc hs nc 0 _ hy)) fun _ => id
  split
  · exact .error _
  next x t hx =>
  have ht : Confined i.c s t := confined_readLoc ht nb n _ hx
  split
  · exact .error _
  next hw =>
  have hold : Yields (fun p => Confined i.c s p.2) (if old then t.oldLoc i.c _ n else .ok (0, t)) := .ite (confined_oldLoc ht na n) (.ok ht)
  exact confined_writeLoc (hold _ hw) na n _ _

theorem confines_unary (op : Nat) (g : Word → Word) : Confines op (unaryBody op g) := fun i s h => by
  unfold unaryBody
  split
  · exact .error _
  next ho =>
  obtain ⟨hs, na, nb, -⟩ := nearAbc h.dbk _ ho
  refine .map (.foldlM (fun t n ht => ?_) _ hs) fun _ => id
  split
  · exact .error _
  next hx => exact confined_writeLoc (confined_readLoc ht nb n _ hx) na n _ _

theorem confines_xred : Confines 0x14 xredBody := fun i s h => by
  unfold xredBody
  split
  · exact .error _
  next ho =>
  obtain ⟨hs, na, nb, -⟩ := nearAbc h.dbk _ ho
  split
  · exact .error _
  next hl => exact .map (confined_writeLoc (confined_readAll hs nb _ _ hl) na 0 _ _) fun _ => id

theorem confines_fence : Confines 0x02 fenceBody := fun i s h => .map (confined_landAll s i.c h.landed) fun _ => id

theorem confines_end : Confines 0x01 endBody := fun i s h => by
  unfold endBody
  split
  · exact .error _
  next hl =>
  have hl := confined_landAll s i.c h.landed _ hl
  split
  · exact .error _
  next hc =>
  rw [hc] at hl ⊢
  exact .ite (.error _) (.ok (hl.modSlot fun _ => ⟨rfl, rfl, rfl⟩))

theorem confined_farRead {e k : Nat} {s t : State} (h : Confined (.cox e k) s t) (bank a : Nat) :
    Yields (fun p => Confined (.cox e k) s p.2.2) (t.farRead (.cox e k) bank a) := by
  unfold State.farRead
  exact .ite (.error _) (.map (confined_memRead h nofun) fun _ => id)

theorem confines_fld : Confines 0x04 fldBody := fun i s h => by
  unfold fldBody
  split
  · exact .error _
  next ho =>
  obtain ⟨hs, -, nb, nc⟩ := nearAbc h.dbk _ ho
  split
  · exact .error _
  next hp =>
  split
  · exact .error _
  next hb =>
  refine .ite (.error _) ?_
  split
  · exact .error _
  next hf =>
  have hb := confined_readLoc (confined_readLoc hs nb 0 _ hp) nc 0 _ hb
  cases hc : i.c with
  | umpire => exact absurd rfl (h.near hc).1
  | cox e k =>
    rw [hc] at hb hf
    exact .ok ((confined_farRead hb _ _ _ hf).modRegs _)

theorem confines_fst : Confines 0x05 fstBody := fun i s h => by
  unfold fstBody
  split
  · exact .error _
  next ho =>
  obtain ⟨hs, na, nb, nc⟩ := nearAbc h.dbk _ ho
  split
  · exact .error _
  next hp =>
  split
  · exact .error _
  next hz =>
  split
  · exact .error _
  next hb =>
  have hb := confined_readLoc (confined_readLoc (confined_readLoc hs na 0 _ hp) nb 0 _ hz) nc 0 _ hb
  exact .map (confined_memWrite hb (fun hc => absurd rfl (h.near hc).2) _ _) fun _ => id

theorem confines_stm : Confines 0x06 stmBody := fun i s h => by
  unfold stmBody
  split
  · exact .error _
  next ho =>
  obtain ⟨hs, na, nb, nc⟩ := nearAbc h.dbk _ ho
  split
  · exact .error _
  next hz =>
  split
  · exact .error _
  next hm =>
  have hm := confined_readLoc (confined_readLoc hs nb 0 _ hz) nc 0 _ hm
  extract_lets sel
  split
  · refine .ite (.map (confined_writeLoc hm na 0 _ _) fun _ => id) ?_
    split
    · exact .error _
    next hw => exact .map (confined_writeLoc (confined_oldLoc hm na 0 _ hw) na 0 _ _) fun _ => id
  · exact .map (confined_writeLoc hm na 0 _ _) fun _ => id

theorem confines_mfsr : Confines 0x07 mfsrBody := fun i s h => by
  unfold mfsrBody
  split
  · exact .error _
  next ho =>
  obtain ⟨hs, na, -, nc⟩ := nearAbc h.dbk _ ho
  split
  · exact .error _
  next hn =>
  refine .ite (.error _) ?_
  split
  · exact .error _
  · exact .map (confined_writeLoc (confined_readLoc hs nc 0 _ hn) na 0 _ _) fun _ => id

/-- A cox has no privileged register (R183). -/
theorem srOf_cox_lt {e k n : Nat} {r : SrInfo} (h : srOf (.cox e k) n = .ok r) : n < 0x80 := by
  obtain ⟨hi, -, hx⟩ := srInfo_of_srOf h
  have hx := hx nofun
  unfold srInfo at hi
  split at hi
  case h_31 => cases hi
  all_goals
    cases hi
    revert hx
    decide

theorem confined_setSr {c : Core} {s t : State} (h : Confined c s t) {n : Nat} {r : SrInfo} (hr : srOf c n = .ok r) (v : Word) :
    Confined c s (t.setSr c n v) := by
  have hpriv (f : Ump → Ump) (hn : 0x80 ≤ n) : Confined c s (t.onUmp f) := by
    cases c with
    | cox e k => exact absurd (srOf_cox_lt hr) (Nat.not_lt.2 hn)
    | umpire => exact h.onUmp f
  unfold State.setSr
  split
  case h_13 =>
    split
    · exact h.modSlot fun _ => ⟨rfl, rfl, rfl⟩
    · exact h
  case h_14 => exact hpriv _ (by decide)
  case h_15 => exact hpriv _ (by decide)
  case h_16 => exact hpriv _ (by decide)
  case h_17 => exact hpriv _ (by decide)
  case h_18 => exact hpriv _ (by decide)
  case h_19 => exact h
  all_goals exact h.modRegs _

theorem confines_mtsr : Confines 0x08 mtsrBody := fun i s h => by
  unfold mtsrBody
  split
  · exact .error _
  next ho =>
  obtain ⟨hs, -, nb, nc⟩ := nearAbc h.dbk _ ho
  split
  · exact .error _
  next hv =>
  split
  · exact .error _
  next hn =>
  have hn := confined_readLoc (confined_readLoc hs nb 0 _ hv) nc 0 _ hn
  extract_lets n
  refine .ite (.error _) ?_
  split
  · exact .error _
  next hr =>
  refine .ite ?_ ?_
  · split
    · exact .error _
    · exact .ok hn
  · split
    · exact .error _
    · exact .ok (confined_setSr hn hr _)

theorem confines_seat (op : Nat) (g : List Byte → Word → Word) : Confines op (seatBody op g) := fun i s h => by
  unfold seatBody
  split
  · exact .error _
  next ho =>
  obtain ⟨hs, -, nb, -⟩ := nearAbc h.dbk _ ho
  split
  · next hc _ =>
    split
    · exact .error _
    split
    · exact .error _
    next hl =>
    have hl := (confined_readAll hs nb _ _ hl).modRegs
    rw [hc] at hl ⊢
    exact .ok ((hl _).seatWork _)
  · exact .error _

theorem confined_pendRes {c : Core} {s t : State} (h : Confined c s t) (bank a : Nat) (l : List Word) :
    Confined c s (t.pendRes c bank a l) := h.modRegs _

theorem confines_field (op : Nat) (g : Word → Word → Word) : Confines op (fieldBody op g) := fun i s h => by
  unfold fieldBody
  split
  · exact .error _
  next ho =>
  obtain ⟨hs, -, nb, nc⟩ := nearAbc h.dbk _ ho
  split
  · split
    · exact .error _
    next hl =>
    split
    · exact .error _
    next m t hm =>
    have ht : Confined i.c s t := confined_readAll (confined_readAll hs nb _ _ hl) nc _ _ hm
    exact .ok (confined_pendRes ht _ _ _)
  · exact .error _

theorem confines_tcmp : Confines 0x44 tcmpBody := fun i s h => by
  unfold tcmpBody
  split
  · exact .error _
  next ho =>
  obtain ⟨hs, na, nb, nc⟩ := nearAbc h.dbk _ ho
  split
  · exact .error _
  next hx =>
  split
  · exact .error _
  next hy =>
  split
  · exact .error _
  next hw =>
  have hw := confined_readLoc (confined_readLoc (confined_readLoc hs na 0 _ hx) nb 0 _ hy) nc 0 _ hw
  extract_lets n
  refine .ite (.error _) ?_
  split
  · exact .error _
  next hc =>
  rw [hc] at hw ⊢
  exact .ok (hw.modSlot fun _ => ⟨rfl, rfl, rfl⟩)

theorem confines_branch (op : Nat) (taken : Word → Word → Bool) : Confines op (branchBody op taken) := fun i s h => by
  unfold branchBody State.two
  split
  · exact .error _
  next htwo =>
  split at htwo
  · cases htwo
  next ho =>
  obtain ⟨hs, na, nb, -⟩ := nearAbc h.dbk _ ho
  split at htwo
  · cases htwo
  next hx =>
  split at htwo
  · cases htwo
  next hy =>
  cases htwo
  exact .ok (confined_readLoc (confined_readLoc hs na 0 _ hx) nb 0 _ hy)

theorem confined_callTo {s t : State} {i : At} (h : Confined i.c s t) (a : BitVec 30) :
    Yields (fun p => Confined i.c s p.1) (t.callTo i a) :=
  .ite (.error _) (.map (confined_memWrite (h.modRegs _) (fun _ => rfl) _ _) fun _ => id)

theorem confines_ret : Confines 0x5A retBody := fun i s h => by
  unfold retBody
  extract_lets sp
  split
  · exact .error _
  next w t hw =>
  have ht : Confined i.c s t := confined_memRead (.refl _ s) (fun _ => rfl) _ hw
  exact .ite (.error _) ((ht.modRegs _).goes _)

theorem confines_loop : Confines 0x5B loopBody := fun i s h => by
  unfold loopBody
  split
  · exact .error _
  next ho =>
  obtain ⟨hs, na, -, -⟩ := nearAbc h.dbk _ ho
  split
  · exact .error _
  next w t hw =>
  have ht : Confined i.c s t := confined_readLoc hs na 0 _ hw
  extract_lets r d n
  refine .ite (.error _) (.ite ?_ ((ht.modRegs _).goes _))
  split
  · next hc =>
    rw [hc] at ht ⊢
    exact (ht.modRegs _).goes _
  · exact .ok ht

theorem confined_indirect {op : Nat} {i : At} {s : State} (h : Plain op i.c s) :
    Yields (fun p => Confined i.c s p.2) (s.indirect op i) := by
  unfold State.indirect
  split
  · exact .error _
  next ho =>
  obtain ⟨hs, na, -, -⟩ := nearAbc h.dbk _ ho
  exact .map (confined_readLoc hs na 0) fun _ => id

theorem confines_calli : Confines 0x61 calliBody := fun i s h => by
  unfold calliBody
  split
  · exact .error _
  next ha => exact confined_callTo (confined_indirect h _ ha) _

/-- ERET and WFI change the Umpire, and run there alone. -/
theorem confined_onUmp {c : Core} {op : Nat} {s : State} (h : Plain op c s) (hop : op = 0x62 ∨ op = 0x63) (f : Ump → Ump) :
    Confined c s (s.onUmp f) := by
  cases c with
  | cox e k =>
    obtain ⟨h62, h63⟩ := h.cox nofun
    exact (hop.elim h62 h63).elim
  | umpire => exact (Confined.refl _ s).onUmp f

theorem confines_eret : Confines 0x62 fun _ s => .ok (s.onUmp fun u => { u with ie := u.pie }, .jump s.ump.epc) :=
  fun _ _ h => (confined_onUmp h (.inl rfl) _).goes _

theorem confines_wfi : Confines 0x63 wfiBody := fun i s h => by
  refine .ok ?_
  dsimp only
  split
  · exact .refl _ s
  · exact confined_onUmp h (.inr rfl) _

theorem confines_low : ∀ row ∈ bodiesLow, Confines row.1 row.2 := by
  unfold bodiesLow
  simp only [List.forall_mem_cons, List.not_mem_nil, false_implies, implies_true, and_true]
  exact ⟨fun _ s _ => .ok (.refl _ s), confines_end, confines_fence, confines_unary _ _, confines_fld, confines_fst, confines_stm,
    confines_mfsr, confines_mtsr, confines_vec _ _, confines_vec _ _, confines_vec _ _, confines_vec _ _, confines_xred, confines_vec _ _,
    confines_vec _ _, confines_vec _ _, confines_vec _ _, confines_vec _ _, confines_vec _ _, confines_scalar _ _ _,
    confines_scalar _ _ _, confines_scalar _ _ _, confines_scalar _ _ _, confines_scalar _ _ _, confines_scalar _ _ _,
    confines_scalar _ _ _, confines_scalar _ _ _, confines_unary _ _, confines_scalar _ _ _⟩

theorem confines_high : ∀ row ∈ bodiesHigh, Confines row.1 row.2 := by
  unfold bodiesHigh
  simp only [List.forall_mem_cons, List.not_mem_nil, false_implies, implies_true, and_true]
  exact ⟨confines_seat _ _, confines_seat _ _, confines_field _ _, confines_field _ _, confines_tcmp, confines_branch _ _,
    confines_branch _ _, confines_branch _ _, confines_branch _ _, confines_branch _ _, confines_branch _ _, confines_branch _ _,
    confines_branch _ _, fun _ s _ => .ok (.refl _ s), fun i s _ => confined_callTo (.refl _ s) _, confines_ret, confines_loop,
    fun i s h => .map (confined_indirect h) fun _ => id, confines_calli, confines_eret, confines_wfi⟩

theorem confines_of_bodyOf {op : Nat} {f : Body} (h : bodyOf op = some f) : Confines op f := by
  unfold bodyOf at h
  obtain ⟨row, hrow, rfl⟩ := Option.map_eq_some_iff.1 h
  have hop : (row.1 == op) = true := List.find?_some (p := fun r : Nat × Body => r.1 == op) hrow
  obtain rfl := beq_iff_eq.1 hop
  rcases List.mem_append.1 (List.mem_of_find?_eq_some hrow) with hm | hm
  · exact confines_low row hm
  · exact confines_high row hm

/-! ### Whole instructions -/

theorem confined_goTo {c : Core} {s t : State} (h : Confined c s t) (a : BitVec 30) : Yields (Confined c s) (t.goTo c a) := by
  unfold State.goTo
  split
  · exact .ok (h.onUmp _)
  · exact .ite (.error _) (.ok (h.modRegs _))

theorem confined_goNext {i : At} {s t : State} (h : Confined i.c s t) : Yields (Confined i.c s) (t.goNext i) := by
  unfold State.goNext
  extract_lets r x s1
  split
  · next hc =>
    have h1 := h.modRegs fun _ => x.1
    exact .ok (h1.modRegs _)
  · exact confined_goTo (h.modRegs _) _

/-- An instruction that begins as a plain one and runs whole has changed nothing but its core's own. -/
theorem confined_runBody {s : State} {op : Nat} {r : OpInfo} {i : At} {f : Body} (hf : Confines op f)
    (hp : s.early op r i = none → Plain op i.c (s.count1 i.c)) : Yields (Confined i.c s) (s.runBody op r i f) := by
  unfold State.runBody
  split
  · exact .error _
  next he =>
  split
  · exact .error _
  next hb =>
  have hb := (Confined.count1 i.c s).trans (hf i _ (hp he) _ hb)
  refine .ite (.ok hb) ?_
  split
  · exact confined_goNext hb
  · exact confined_goTo hb _
  · exact .ok hb

/-- An instruction that a cox begins is none of the Umpire's own (R210). -/
theorem plain_of_early_cox {s t : State} {op : Nat} {r : OpInfo} {i : At} {e k : Nat} (hc : i.c = .cox e k) (hr : opInfo op = some r)
    (he : s.early op r i = none) : Plain op i.c t := by
  have hcox : r.cox = true := by
    unfold State.early at he
    rw [hc] at he
    dsimp only at he
    split at he
    · cases he
    split at he
    · cases he
    split at he
    · cases he
    next hn => exact Bool.eq_true_of_not_eq_false hn
  rw [hc]
  refine ⟨nofun, nofun, nofun, fun _ => ⟨?_, ?_⟩⟩
  all_goals
    rintro rfl
    cases hr
    cases hcox

theorem coxInstruction_confined (s s1 s2 : State) (e k op : Nat) (x : Enc) (r : OpInfo) (f : Body) (mk : Core → Enc → Instr)
    (hm : (op, mk) ∈ traernOps) (hf : bodyOf op = some f) (hb : Begins s s1 (.cox e k) op r x)
    (hr : s1.runBody op r (s1.atNow (.cox e k) r x) f = .ok s2) :
    Answers (exec (mk (.cox e k) x) s) fun t => t = s2 ∧ Confined (.cox e k) s t := by
  obtain ⟨-, ho, hd, -, -⟩ := id hb
  have h1 := confined_landDue_cox s e k _ hd
  have h2 := confined_runBody (i := s1.atNow (.cox e k) r x) (confines_of_bodyOf hf) (fun he => plain_of_early_cox rfl ho he) _ hr
  refine ⟨_, exec_begun hm hf hb hr, breakCheck_cox s2 e k, ?_⟩
  rw [breakCheck_cox]
  exact h1.trans h2

theorem umpireInstruction_confined (s : State) (op : Nat) (x : Enc) (mk : Core → Enc → Instr) (hm : (op, mk) ∈ traernOps)
    (h4 : op ≠ 0x04) (h5 : op ≠ 0x05) (hdbk : s.ump.regs.dbk = 0) (hfld : s.ump.regs.fld = []) (hres : s.ump.regs.res = []) :
    Answers (exec (mk .umpire x) s) (Only [.dbg, .ump, .wdg] s) := by
  obtain ⟨f, hf, hrun⟩ := rowRuns _ hm
  refine ⟨_, hrun .umpire x s (.inl rfl), ?_⟩
  unfold State.traern
  split
  · exact Only.refl _ s
  split
  · exact Only.refl _ s
  next r ho =>
  rw [landDue_umpire_nil s hfld]
  dsimp only
  split
  · next u hu =>
    have hp : Plain op .umpire (s.count1 .umpire) :=
      ⟨fun _ => ⟨h4, h5⟩, fun _ => hdbk, fun _ => ⟨(congrArg (List.map _) hfld).trans rfl, hres⟩, fun h => absurd rfl h⟩
    have hc : Only [.ump] s u := confined_runBody (i := s.atNow .umpire r x) (confines_of_bodyOf hf) (fun _ => hp) _ hu
    exact (hc.mono (by decide)).then (breakCheck_effect u .umpire).2
  · next t _ =>
    unfold State.trap
    dsimp only
    rw [umpEntry_nil s _ _ _ hfld]
    exact ((entered_enter s _ _ _).2.mono (by decide)).then (breakCheck_effect _ .umpire).2

/-- Settles O31: `Confined` for each meaning of an opcode, and with it for the whole instruction. -/
theorem instructionsStayInTheirCore : Obligations.InstructionsStayInTheirCore := by
  unfold Obligations.InstructionsStayInTheirCore
  exact ⟨coxInstruction_confined, umpireInstruction_confined⟩

end Sys2Proof.Machine

/-!
# PLDM: firmware update (O59)

What the steps of a start and of a recovery leave of an update, then the phases of an update one by one.
-/

namespace Sys2Proof.Machine

-- One declaration after the other: elaborated side by side, the row as one text takes more threads than the check allows.
set_option Elab.async false

/-! ### What the steps of a start and of a recovery leave of an update -/

/-- From `s` to `t` the update, the choice of the firmware slot and the accelerator's reset stay, and every PLDM message stands. -/
structure Carries (s t : State) : Prop where
  update : t.pldm = s.pldm
  slot : t.aod.trial = s.aod.trial ∧ t.aod.prefSlotB = s.aod.prefSlotB
  acc : t.chip.accReset = s.chip.accReset ∧ t.chip.accReady = s.chip.accReady
  said : ∀ n c r d, PldmReply s n c r d → PldmReply t n c r d

/-- A PLDM message is no MSI-X message, so merging those keeps it (R73). -/
theorem pldm_mem_mergeMsgs {n : Nat} {c r : BitVec 8} {d : List Byte} {l : List OutEvent} (h : OutEvent.pldm n c r d ∈ l) :
    OutEvent.pldm n c r d ∈ mergeMsgs l := by
  induction l with
  | nil => cases h
  | cons e l ih =>
    rcases List.mem_cons.1 h with rfl | hl
    · exact List.mem_cons_self
    · unfold mergeMsgs
      split
      · split
        · exact ih hl
        · exact List.mem_cons_of_mem _ (ih hl)
      · exact List.mem_cons_of_mem _ (ih hl)

namespace Carries

variable {l : List Field} {s t u : State}

theorem refl (s : State) : Carries s s := ⟨rfl, ⟨rfl, rfl⟩, ⟨rfl, rfl⟩, fun _ _ _ _ => id⟩

theorem trans (h : Carries s t) (k : Carries t u) : Carries s u where
  update := k.update.trans h.update
  slot := ⟨k.slot.1.trans h.slot.1, k.slot.2.trans h.slot.2⟩
  acc := ⟨k.acc.1.trans h.acc.1, k.acc.2.trans h.acc.2⟩
  said n c r d := k.said n c r d ∘ h.said n c r d

/-- A change of parts none of which the relation speaks of. -/
theorem step (h : Carries s t) (k : Only l t u) (hl : ∀ f ∈ [Field.pldm, .aod, .chip, .out], f ∉ l := by decide) : Carries s u :=
  have ha := k.same .aod (hl _ (by decide))
  have hc := k.same .chip (hl _ (by decide))
  h.trans {
    update := k.same .pldm (hl _ (by decide))
    slot := ⟨congrArg Aod.trial ha, congrArg Aod.prefSlotB ha⟩
    acc := ⟨congrArg Chip.accReset hc, congrArg Chip.accReady hc⟩
    said := fun n c r d hm => by unfold PldmReply; rw [k.same .out (hl _ (by decide))]; exact hm }

/-- A containment whose events only add to those before. -/
theorem contained (h : Carries s t) (k : Contained l t u) (ho : t.out ⊆ u.out) (hl : ∀ f ∈ [Field.pldm, .aod], f ∉ l := by decide) :
    Carries s u :=
  have ha := k.only.same .aod (hl _ (by decide))
  h.trans {
    update := k.only.same .pldm (hl _ (by decide))
    slot := ⟨congrArg Aod.trial ha, congrArg Aod.prefSlotB ha⟩
    acc := ⟨k.accReset, k.accReady⟩
    said := fun _ _ _ _ hm => ho hm }

/-- The end of requests and jobs. -/
theorem work (h : Carries s t) (k : WorkDone t u) : Carries s u :=
  have ha := k.only.same .aod
  h.trans {
    update := k.only.same .pldm
    slot := ⟨congrArg Aod.trial ha, congrArg Aod.prefSlotB ha⟩
    acc := by obtain ⟨x, hx⟩ := k.chip; rw [hx]; exact ⟨rfl, rfl⟩
    said := fun _ _ _ _ hm => k.out hm }

theorem ite {c : Prop} [Decidable c] (h : Carries s t) (k : Carries s u) : Carries s (if c then t else u) := by
  split <;> assumption

theorem foldl {α : Type} {g : State → α → State} (hg : ∀ {u : State} (x : α), Carries s u → Carries s (g u x)) (xs : List α)
    (h : Carries s t) : Carries s (xs.foldl g t) := by
  induction xs generalizing t with
  | nil => exact h
  | cons x xs ih => exact ih (hg x h)

/-! ### Single updates -/

theorem onAod (h : Carries s t) (f : Aod → Aod) (hf : (f t.aod).trial = t.aod.trial ∧ (f t.aod).prefSlotB = t.aod.prefSlotB) :
    Carries s (t.onAod f) := h.trans { refl t with slot := hf }

theorem onChip (h : Carries s t) (f : Chip → Chip)
    (hf : (f t.chip).accReset = t.chip.accReset ∧ (f t.chip).accReady = t.chip.accReady) : Carries s (t.onChip f) :=
  h.trans { refl t with acc := hf }

theorem onPsq (h : Carries s t) (f : Psq → Psq) : Carries s (t.onPsq f) := h.step (l := [.psq]) ((Only.refl _ t).onPsq (by decide) f)

theorem onFgt (h : Carries s t) (f : Fgt → Fgt) : Carries s (t.onFgt f) := h.step (l := [.fgt]) ((Only.refl _ t).onFgt (by decide) f)

theorem onUmp (h : Carries s t) (f : Ump → Ump) : Carries s (t.onUmp f) := h.step (l := [.ump]) ((Only.refl _ t).onUmp (by decide) f)

theorem onTmp (h : Carries s t) (f : Tmp → Tmp) : Carries s (t.onTmp f) := h.step (l := [.tmp]) ((Only.refl _ t).onTmp (by decide) f)

theorem onStore (h : Carries s t) (f : Store → Store) : Carries s (t.onStore f) :=
  h.step (l := [.store]) ((Only.refl _ t).onStore (by decide) f)

theorem spend (h : Carries s t) (n : Nat) : Carries s (t.spend n) := h.step (l := [.freeCtr]) ((Only.refl _ t).spend (by decide) n)

theorem logEvent (h : Carries s t) (p c f d : Nat) : Carries s (t.logEvent p c f d) :=
  h.step (l := [.ump]) ((Only.refl _ t).logEvent (by decide) p c f d)

theorem setBit (h : Carries s t) (p : PageId) (n : Nat) : Carries s (t.setBit p n) :=
  h.contained (Contained.setBit t p n) (out_setBit t p n)

theorem recErr (h : Carries s t) (p : PageId) (c d : Nat) : Carries s (t.recErr p c d) := by
  unfold State.recErr
  exact (h.step (l := [.hdrs]) ((Only.refl _ t).modHdr (by decide) p _)).ite (h.setBit p 2)

theorem modChip (h : Carries s t) (f : Chip → Chip) (h1 : (f t.chip).accReset = t.chip.accReset)
    (h2 : (f t.chip).accReady = t.chip.accReady) : Carries s (t.modChip f) :=
  h.contained (Contained.modChip t f h1 h2) (out_modChip t f)

theorem extendReg (h : Carries s t) (n : Nat) (d : List Byte) : Carries s (t.extendReg n d) :=
  (h.step (l := [.meas]) ((Only.refl _ t).modMeas (by decide) n _)).setBit _ 8

theorem bstEnd (h : Carries s t) (c : Nat) : Carries s (t.bstEnd c) := h.step (only_bstEnd t c)

/-- Messages merged in one instant. -/
theorem atOnce {k : State → State} (h : Carries s (k t)) : Carries s (t.atOnce k) :=
  have merged (n : Nat) (c r : Nat) (d : List Byte) (hm : PldmReply (k t) n c r d) : PldmReply (t.atOnce k) n c r d := by
    unfold PldmReply at hm
    rw [← List.take_append_drop t.out.length (k t).out] at hm
    rcases List.mem_append.1 hm with e | e
    · exact List.mem_append_left _ e
    · exact List.mem_append_right _ (pldm_mem_mergeMsgs e)
  h.trans { refl (k t) with said := merged }

/-! ### Alarms and quarantine -/

theorem failJob (h : Carries s t) (j : Nat) (x : Fin) : Carries s (t.failJob j x) := h.work (WorkDone.failJob t j x)

theorem restartJob (h : Carries s t) (j : Nat) : Carries s (t.restartJob j) := by
  unfold State.restartJob
  split
  · exact h
  · exact ((h.step (only_unplace t j)).step (l := [.jobs]) ((Only.refl _ _).modJob (by decide) j _)).ite
      (h.step (Contained.restartStroke t j).only)

theorem unhome (h : Carries s t) (j : Nat) : Carries s (t.unhome j) := by
  unfold State.unhome
  split
  · exact h
  · refine Carries.step ?_ ((Only.refl [.jobs] _).modJob (by decide) j _)
    split
    · exact h.step (l := [.eights]) ((Only.refl _ t).modEight (by decide) _ _)
    · exact h.step (l := [.slices]) ((Only.refl _ t).onSlices (by decide) _)
    · exact h

theorem directFail (h : Carries s t) (r c : Nat) : Carries s (t.directFail r c) :=
  ((h.step (l := [.quads]) ((Only.refl _ t).modQuad (by decide) r _)).setBit (.qad r) 9).step (Contained.giveDirect _).only

theorem clearBlock (h : Carries s t) (k : BlockKind) (n : Nat) : Carries s (t.clearBlock k n) := by
  unfold State.clearBlock
  extract_lets s1 s2
  have h2 : Carries s s2 := foldl (fun j hu => (hu.restartJob j).unhome j) _ (foldl (fun j hu => hu.failJob j _) _ h)
  split
  · exact h2.step (l := [.eights]) ((Only.refl _ s2).modEight (by decide) _ _)
  · exact (h2.directFail _ _).ite h2
  · exact h2

theorem setQuar (h : Carries s t) (p : PageId) : Carries s (t.setQuar p) :=
  (h.step (l := [.hdrs]) ((Only.refl _ t).modHdr (by decide) p _)).setBit p 3

theorem sumCadence (h : Carries s t) : Carries s t.sumCadence := by
  unfold State.sumCadence
  exact h.onChip _ ⟨rfl, rfl⟩

theorem syncQuar (h : Carries s t) : Carries s t.syncQuar := by
  unfold State.syncQuar
  exact h.modChip _ rfl rfl

theorem quarantineRegion (h : Carries s t) (r : Nat) : Carries s (t.quarantineRegion r) := by
  unfold State.quarantineRegion
  split
  · exact h
  · extract_lets s1 s2
    have h2 : Carries s s2 := foldl (fun p hu => by
      split
      · exact ((hu.setQuar p).clearBlock _ _).ite hu
      · exact hu) _ ((h.setQuar _).recErr _ _ _)
    exact h2.sumCadence.syncQuar

theorem reportSlot (h : Carries s t) (k : BlockKind) (n : Nat) (slot : Option Nat) (counts : Bool) :
    Carries s (t.reportSlot k n slot counts) := by
  have report (i : Nat) : Carries s (t.alarmReport i).1 := by
    unfold State.alarmReport
    extract_lets recent m s1
    have h1 : Carries s s1 := h.step (l := [.klg]) ((Only.refl _ t).onKlg (by decide) _)
    have h2 := (h1.step (Contained.retire s1 (t.headOf i) none).only).setBit .klg 9
    clear_value s1
    split
    · exact h2
    · exact h1
  unfold State.reportSlot
  split
  · exact h
  · rename_i i
    extract_lets r s1
    have hr : Carries s r.1 := by
      dsimp only [r]
      split
      · exact report i
      · exact h
    split
    · have h1 : Carries s s1 := hr.step (l := [.eights]) ((Only.refl _ r.1).modEight (by decide) _ _)
      exact (h1.setBit _ _).ite h1
    · exact hr

theorem alarmNote (h : Carries s t) (k : BlockKind) (n : Nat) (named : Option Nat) (code detail : Nat) (counts : Bool) :
    Carries s (t.alarmNote k n named code detail counts) := by
  unfold State.alarmNote
  refine (recErr ?_ _ _ _).reportSlot _ _ _ _
  split
  · exact h.setBit _ _
  · exact h

theorem alarm (h : Carries s t) (k : BlockKind) (n : Nat) (who : List Nat) (code detail : Nat) (counts : Bool) :
    Carries s (t.alarm k n who code detail counts) := by
  by_cases hk : k = .pair
  · subst hk
    unfold State.alarm
    extract_lets named recd res s1 s2
    have h1 : Carries s s1 := (h.step (Contained.wipeSlice t _).only).step (Contained.wipeSlice _ _).only
    have h2 : Carries s s2 := (foldl (fun j hu => hu.failJob j _) _ h1).alarmNote .pair n named code detail counts
    exact foldl (fun j hu => hu.step ((Only.refl [.jobs] _).modJob (by decide) j _)) _ h2
  · rw [alarm_eq t k hk]
    extract_lets s1 s2
    have h1 : Carries s s1 := by
      dsimp only [s1]
      split
      · exact h.step (l := [.eights]) ((Only.refl _ t).modEight (by decide) _ _)
      · exact h
    exact foldl (fun j hu => hu.restartJob j) _ ((foldl (fun j hu => hu.failJob j _) _ h1).alarmNote _ _ _ _ _ _)

/-! ### Tamper records and their responses -/

theorem logTamper (h : Carries s t) (r : TRec) : Carries s (t.logTamper r) := by
  unfold State.logTamper
  extract_lets lose
  have hl : Carries s (lose t) := by
    dsimp only [lose]
    split
    · exact h.onAod _ ⟨rfl, rfl⟩
    · exact (h.onAod _ ⟨rfl, rfl⟩).setBit _ _
  clear_value lose
  split
  · exact hl
  · exact (hl.ite h).onAod _ ⟨rfl, rfl⟩

theorem logInfo (h : Carries s t) (src idx : Nat) : Carries s (t.logInfo src idx) := h.logTamper _

theorem admFinish (h : Carries s t) (f sl : Nat) (c : BitVec 16) (x : AdmRes) : Carries s (t.admFinish f sl c x) := by
  unfold State.admFinish
  extract_lets a addr dw tail s1
  split
  · exact (h.step (l := [.fns]) ((Only.refl _ t).modAdm (by decide) f _)).setBit _ _
  · have ho : Only [.fns, .out] t s1 := (((Only.refl _ t).askXlat (by decide) _ _ _ _).emit (by decide) _).modAdm (by decide) f _
    have hs : t.out ⊆ s1.out := List.Subset.trans (out_askXlat t f none addr 32) (out_emit _ _)
    split
    · exact h.contained (Contained.of_only (ho.msix (by decide) (by decide) f _)) (List.Subset.trans hs (out_msix s1 _ _))
    · exact h.contained (Contained.of_only ho) hs

theorem closeOpen (h : Carries s t) : Carries s t.closeOpen := by
  unfold State.closeOpen
  refine foldl (fun kv hu => ?_) _ h
  split
  · exact hu
  split
  · exact hu
  split
  · exact (hu.failJob _ _).ite hu
  · exact hu

theorem endDrains (h : Carries s t) : Carries s t.endDrains := by
  unfold State.endDrains
  refine foldl (fun {u} kv hu => ?_) _ h
  split
  · extract_lets u1
    refine Carries.step (t := u1) ?_ (only_release u1 _)
    dsimp only [u1]
    split
    · exact hu.admFinish _ _ _ _
    · exact hu
  · exact hu

theorem zeroLedger (h : Carries s t) : Carries s t.zeroLedger := by
  have h1 : Carries s t.closeOpen.failKeyed := foldl (fun r hu => hu.work (WorkDone.finish _ r _)) _ h.closeOpen
  have h2 : Carries s t.closeOpen.failKeyed.failDigests := foldl (fun j hu => hu.failJob j _) _ h1
  have h3 := h2.endDrains
  unfold State.zeroLedger
  generalize t.closeOpen.failKeyed.failDigests.endDrains = v at h3
  exact h3.step (l := [.genBase, .jobs, .klg, .kslots, .msh])
    (((((Only.refl _ v).onKslots (by decide) _).onGenBase (by decide) _).onKlg (by decide) _).onJobs (by decide) _ |>.onMsh (by decide) _)

theorem renewRoot (h : Carries s t) : Carries s t.renewRoot := ((h.onAod _ ⟨rfl, rfl⟩).spend 1).setBit .klg 10

theorem classAlarm (h : Carries s t) (p : PageId) : Carries s (t.classAlarm p) := by
  unfold State.classAlarm
  split
  · exact (h.alarm _ _ _ _ _ _).ite h
  · exact h

theorem classA (h : Carries s t) : Carries s t.classA := by
  unfold State.classA State.renewKeys
  extract_lets s1 s2
  have h1 : Carries s s1 := ((h.onAod _ ⟨rfl, rfl⟩).step (l := [.lcs]) ((Only.refl _ _).onLcs (by decide) _)).bstEnd 3
  have h2 : Carries s s2 := (foldl (fun p hu => hu.classAlarm p) _ h1).zeroLedger
  exact (h2.renewRoot.ite (h2.renewRoot.step (only_deriveRoots _))).ite h2

theorem classB (h : Carries s t) (m : BitVec 4) : Carries s (t.classB m) := by
  unfold State.classB
  extract_lets s0 s1 s2
  have h1 : Carries s s1 := foldl (fun r hu => foldl (fun p hv => hv.classAlarm p) _ hu) _ ((h.bstEnd 3).ite h)
  have h2 : Carries s s2 := foldl (fun r hu => hu.ite (hu.quarantineRegion r)) _ h1
  exact h2.onAod _ ⟨rfl, rfl⟩

theorem maskBegin (h : Carries s t) : Carries s t.maskBegin := by
  unfold State.maskBegin
  extract_lets s1
  have h1 : Carries s s1 := h.onChip _ ⟨rfl, rfl⟩
  have h2 := (h1.modChip (fun c => { c with maskFallback := true }) rfl rfl).step (l := [.heat]) ((Only.refl _ _).onHeat (by decide)
    fun t => { t with live := { t.live with maskFallback := true } })
  exact h1.ite (foldl (fun e hu => hu.setBit _ _) _ h2)

theorem driveTamper (h : Carries s t) : Carries s t.driveTamper := (h.onTmp _).onAod _ ⟨rfl, rfl⟩

theorem respond (h : Carries s t) (src cls : Nat) (m : BitVec 4) : Carries s (t.respond src cls m) := by
  unfold State.respond
  extract_lets s1
  have h1 : Carries s s1 := h.maskBegin.ite h
  clear_value s1
  split
  · exact atOnce (k := fun s => s.driveTamper.classA) h1.driveTamper.classA
  · exact atOnce (k := fun s => s.driveTamper.classB m) (h1.driveTamper.classB m)
  · exact h1

theorem countRec (h : Carries s t) (cls : Nat) (shown : Bool) : Carries s (t.countRec cls shown) := by
  unfold State.countRec
  split
  · exact h
  dsimp only
  split
  · exact (h.onTmp _).setBit _ _
  · exact (h.onTmp _).setBit _ _
  · exact ((h.onTmp _).setBit _ _).ite (h.onTmp _)
  · exact h

theorem record (h : Carries s t) (src idx value ticks extra : Nat) : Carries s (t.record src idx value ticks extra) := by
  unfold State.record
  extract_lets cls m noteC d r s1
  have note {u : State} (hu : Carries s u) : Carries s (noteC u) := (hu.onTmp _).ite hu
  clear_value noteC
  split
  · exact h.countRec 3 false
  split
  · have hd : Carries s (t.defer cls m) := (h.onAod _ ⟨rfl, rfl⟩).ite h
    exact note (hd.logTamper r)
  · exact (note ((h.logTamper _).countRec _ true)).respond _ cls m

theorem detect (h : Carries s t) (src idx value ticks : Nat) : Carries s (t.detect src idx value ticks) := by
  unfold State.detect
  exact h.ite (((h.logTamper _).onTmp _).ite ((h.onTmp _).record _ _ _ _ _))

theorem startStimulation (h : Carries s t) (fails : List Nat) : Carries s (t.startStimulation fails) := by
  unfold State.startStimulation
  exact foldl (fun n hu => (((hu.setBit _ _).record _ _ _ _ _).spend 1).ite ((hu.logTamper _).spend 1)) _ h

/-! ### The boot ROM and the Umpire's keys and programs -/

theorem decodeStart (h : Carries s t) : Carries s t.decodeStart := by
  unfold State.decodeStart
  extract_lets d s1 s2 s3
  have h1 : Carries s s1 := h.step (l := [.lcs]) ((Only.refl _ t).onLcs (by decide) _)
  have h2 : Carries s s2 := (h1.setBit _ _).ite h1
  have h3 : Carries s s3 := ((h2.recErr _ _ _).detect _ _ _ _).ite h2
  clear_value s3 d
  have root (f : Otp → Otp) : Carries s (s3.onOtp f) := h3.step (l := [.otp]) ((Only.refl _ s3).onOtp (by decide) f)
  exact (root _).ite ((root _).ite h3)

theorem grantStart (h : Carries s t) : Carries s t.grantStart := by
  have grant (f : Dbg → Dbg) : Carries s (t.onDbg f) := h.step (l := [.dbg]) ((Only.refl _ t).onDbg (by decide) f)
  unfold State.grantStart
  exact h.ite ((grant _).ite (h.ite ((grant _).ite ((grant _).setBit _ _))))

theorem lifeLocks (h : Carries s t) : Carries s t.lifeLocks :=
  h.ite (h.step (l := [.hdrs]) ((Only.refl _ t).modHdr (by decide) _ _))

theorem klgLock (h : Carries s t) : Carries s t.klgLock := h.step (l := [.hdrs]) (Only.klgLock (by decide) (Only.refl _ t))

theorem loadDomains (h : Carries s t) : Carries s t.loadDomains := by
  have table (f : SMap (Option Domain) → SMap (Option Domain)) : Carries s (t.onDomains f) :=
    h.step (l := [.domains]) ((Only.refl _ t).onDomains (by decide) f)
  unfold State.loadDomains
  extract_lets pick
  clear_value pick
  cases pick
  · exact (table _).logEvent _ _ _ _
  · exact table _

theorem deferredDone (h : Carries s t) : Carries s t.deferredDone := by
  unfold State.deferredDone
  split
  · exact h
  · exact (h.onAod _ ⟨rfl, rfl⟩).logInfo _ _

theorem loadProgram (h : Carries s t) (i : List Byte) : Carries s (t.loadProgram i).1 := by
  unfold State.loadProgram
  extract_lets r
  split
  · exact (((h.step (Rests.installProgram t i)).step (Rests.keepProgram _ i)).extendReg _ _).logEvent _ _ _ _
  · exact h.logEvent _ _ _ _

theorem loadPrograms (h : Carries s t) : Carries s t.loadPrograms := by
  have library {u : State} (r : LibRow) (hu : Carries s u) : Carries s (u.loadLibrary1 r) := by
    unfold State.loadLibrary1
    split
    · exact hu.logEvent _ _ _ _
    · exact (((hu.step (l := [.progs]) ((Only.refl _ u).onProgs (by decide) _)).extendReg _ _).logEvent _ _ _ _).ite
        (hu.logEvent _ _ _ _)
  unfold State.loadPrograms
  extract_lets s1
  have h1 : Carries s s1 := foldl library _ h
  clear_value s1
  have h2 := foldl (g := fun u i => (u.loadProgram i).1) (fun i hu => hu.loadProgram i) s1.store.programs h1
  exact h2.onChip _ ⟨rfl, rfl⟩

theorem umpireKeys (h : Carries s t) : Carries s t.umpireKeys := by
  unfold State.umpireKeys
  extract_lets s1 s2 s3 s4 s5
  have h2 : Carries s s2 := h.loadDomains.renewRoot.ite h.loadDomains
  have h3 : Carries s s3 := ((h2.step (l := [.klg]) ((Only.refl _ s2).onKlg (by decide) _)).spend 1).ite h2
  have h5 : Carries s s5 := h3.deferredDone.loadPrograms
  exact (h5.onStore _).ite h5

theorem startFirmware (h : Carries s t) (b : Bool) (img : List Byte) (key : Nat) : Carries s (t.startFirmware b img key) := by
  unfold State.startFirmware
  extract_lets s1 s2 s3 s4
  have h2 : Carries s s2 := ((h.extendReg _ _).extendReg _ _).extendReg _ _
  have h4 : Carries s s4 := (h2.ite (h2.onUmp _)).extendReg _ _
  exact ((h4.onUmp _).onUmp _).onPsq _

/-! ### Secure boot and recovery -/

theorem verdict (h : Carries s t) (c e : Nat) : Carries s (t.verdict c e) := (h.onPsq _).logEvent _ _ _ _

theorem modPort (h : Carries s t) (b : Bool) (g : UPort → UPort) : Carries s (t.modPort b g) := h.onFgt _

theorem setGrp (h : Carries s t) (g : Nat) (x : GroupState) : Carries s (t.setGrp g x) := h.onPsq _

theorem latchGate (h : Carries s t) : Carries s t.latchGate := h.ite ((h.onFgt _).setBit _ _)

theorem runSteps (h : Carries s t) (ph : Nat) (xs : List (Nat × PStep)) : Carries s (t.runSteps ph xs) := by
  induction xs generalizing t with
  | nil => exact h.onPsq _
  | cons x xs ih =>
    unfold State.runSteps
    extract_lets s1 pg s2
    have h1 : Carries s s1 := h.onPsq _
    have h2 : Carries s s2 := h1.ite (h1.onPsq _)
    exact (h1.onPsq _).ite ((ih h2).ite (h2.onPsq _))

theorem startPhase (h : Carries s t) (ph : Nat) : Carries s (t.startPhase ph) := by
  unfold State.startPhase
  split
  · exact h
  · exact h.runSteps _ _

theorem readCopy (h : Carries s t) (k : Nat) (e : Entry) (b : Bool) : Carries s (t.readCopy k e b) := h.step (only_readCopy t k e b)

theorem loadRules (h : Carries s t) (g : Nat) : Carries s (t.loadRules g) := by
  unfold State.loadRules
  extract_lets bank s1 s2
  have h2 : Carries s s2 := (h.onFgt _).modPort _ _
  exact h2.ite ((h2.onFgt _).setBit _ _)

theorem endRecovery (h : Carries s t) (g : Nat) : Carries s (t.endRecovery g) := by
  unfold State.endRecovery
  split
  · exact h
  · exact ((h.onPsq _).verdict _ _).ite ((((h.onPsq _).onStore _).onAod _ ⟨rfl, rfl⟩).verdict _ _)

theorem releaseGroup (h : Carries s t) (g : Nat) : Carries s (t.releaseGroup g) := by
  unfold State.releaseGroup State.noteFull
  extract_lets m s1 s2 s3
  have h3 : Carries s s3 := ((((h.endRecovery g).loadRules g).modPort _ _).setGrp _ _).onPsq _
  exact ((h3.setBit _ _).onPsq _).ite (h3.setBit _ _)

theorem tryRelease (h : Carries s t) (g : Nat) : Carries s (t.tryRelease g) := by
  unfold State.tryRelease
  exact h.ite ((h.releaseGroup g).ite ((h.setGrp g _).verdict _ _))

theorem tryPhase (h : Carries s t) (g : Nat) : Carries s (t.tryPhase g) := (h.startPhase _).ite h

theorem afterStep2Done (h : Carries s t) : Carries s t.afterStep2Done := by
  unfold State.afterStep2Done
  extract_lets gs ok s1
  have h1 : Carries s s1 := h.onPsq _
  clear_value s1 ok gs
  refine h.ite (Carries.ite ?_ (h1.setBit _ _))
  cases gs
  · exact h1
  · exact h1.loadRules _

/-- The Umpire goes on with the next entry, the power phases and the releases. -/
theorem progress (h : Carries s t) : Carries s t.progress := by
  unfold State.progress
  split
  · exact h
  · extract_lets s1 s2
    have h1 : Carries s s1 := by
      dsimp only [s1]
      split
      · exact h.readCopy _ _ _
      · exact h
    exact ((((h1.tryPhase 0).tryPhase 1).tryRelease 1).tryRelease 0).afterStep2Done

theorem waitSource (h : Carries s t) (g c : Nat) : Carries s (t.waitSource g c) := ((h.onPsq _).setBit _ _).verdict _ _

theorem startRecovery (h : Carries s t) (g src : Nat) : Carries s (t.startRecovery g src) := by
  have golden {u : State} (hu : Carries s u) : Carries s (u.tryGolden g) := by
    unfold State.tryGolden
    exact (((hu.onPsq _).onPsq _).extendReg _ _).ite (hu.waitSource g _)
  have hd : Carries s (t.dropGroup g) := by
    unfold State.dropGroup
    exact ((h.onPsq _).modPort _ _).ite (h.onPsq _)
  unfold State.startRecovery
  extract_lets s1
  have h1 : Carries s s1 := (hd.setGrp g _).onPsq _
  exact (golden h1).ite h1

theorem findManifest (h : Carries s t) (xs : List Bool) : Carries s (t.findManifest xs).1 := by
  induction xs generalizing t with
  | nil => exact h
  | cons b xs ih =>
    unfold State.findManifest
    extract_lets c
    split
    · exact h.verdict _ _
    · exact ih ((h.setBit _ _).verdict _ _)

theorem takePolicy (h : Carries s t) (m : Manifest) (gs : List Nat) : Carries s (t.takePolicy m gs) := by
  unfold State.takePolicy
  extract_lets pick a b set good code
  have take (raw : List Byte) (slot : Bool) : Carries s (good raw slot) := ((h.onPsq _).onFgt _).extendReg _ _
  have none : Carries s (set t none) := h.onPsq _
  clear_value good set a b
  exact (take _ _).ite ((take _ _).ite (((none.onFgt _).setBit _ _).extendReg _ _))

theorem takeManifest (h : Carries s t) (cold : Bool) : Carries s (t.takeManifest cold) := by
  unfold State.takeManifest
  extract_lets order
  have hf := h.findManifest order
  split
  · rename_i s1 b m he
    rw [he] at hf
    exact ((((hf.onPsq _).extendReg _ _).takePolicy _ _).startPhase 0).progress
  · rename_i s1 he
    rw [he] at hf
    have h2 : Carries s (if s1.psq.afterStep2 then (s1.onPsq fun p => { p with afterStep2 := false }).setBit .psq 12 else s1) :=
      ((hf.onPsq _).setBit _ _).ite hf
    exact (foldl (fun g hu => hu.ite (hu.startRecovery g 4)) _ h2).progress

/-! ### Events and the close of a heat -/

theorem emit (h : Carries s t) (e : OutEvent) : Carries s (t.emit e) :=
  h.contained (l := [.out]) (Contained.of_only ((Only.refl _ t).emit (by decide) e)) (out_emit t e)

theorem onHeat (h : Carries s t) (f : Heat → Heat) : Carries s (t.onHeat f) :=
  h.step (l := [.heat]) ((Only.refl _ t).onHeat (by decide) f)

theorem loseReports (h : Carries s t) (n : Nat) : Carries s (t.loseReports n) := by
  unfold State.loseReports
  extract_lets gone s1
  have h1 : Carries s s1 := h.onHeat _
  clear_value s1
  exact h.ite ((foldl (fun x hu => hu.logEvent _ _ _ _) gone h1).setBit _ _)

theorem closeNow (h : Carries s t) (c : BitVec 4) : Carries s (t.closeNow c) := by
  unfold State.closeNow
  extract_lets n s0 bank doms s1 s2
  have h1 : Carries s s1 := h.onHeat _
  have h2 : Carries s s2 := h1.onAod _ ⟨rfl, rfl⟩
  clear_value s2
  exact (h2.loseReports _).setBit _ _

theorem closeForReset (h : Carries s t) : Carries s t.closeForReset := by
  unfold State.closeForReset
  extract_lets s0 s1 closed s2
  have h0 : Carries s s0 := (h.emit _).ite h
  exact ((h0.closeNow _).loseReports _).onHeat _

end Carries

/-! ### A start ends the update -/

/-- The always-on domain at a start loses no message, and unless it is found lost keeps the choice of the firmware slot (R383, R413). -/
theorem aodStart_update (s : State) : (∀ n c r d, PldmReply s n c r d → PldmReply s.aodStart.1 n c r d) ∧
    (s.aod.lost = false → s.aodStart.1.aod.trial = s.aod.trial ∧ s.aodStart.1.aod.prefSlotB = s.aod.prefSlotB) := by
  unfold State.aodStart
  split
  · rename_i hl
    extract_lets s0 s1 s2
    have h2 : s2.out = s.out := rfl
    have hb := ((Carries.refl s2).logTamper { (s2.newRec 0x12 16 0 0 0 0) with flags := 16, index := Config.free 16 s2.freeCtr }).spend 1
    clear_value s2
    exact ⟨fun n c r d hm => hb.said n c r d (by unfold PldmReply; rw [h2]; exact hm), fun e => absurd hl (by rw [e]; decide)⟩
  · exact ⟨fun _ _ _ _ => id, fun _ => ⟨rfl, rfl⟩⟩

theorem only_latchGate (s : State) : Only [.chip, .fgt, .fns, .hdrs, .out] s s.latchGate := by
  unfold State.latchGate
  exact (Only.refl _ s).ite (((Only.refl _ s).onFgt (by decide) _).setBit (by decide) (by decide) (by decide) (by decide) _ _)

theorem out_latchGate (s : State) : s.out ⊆ s.latchGate.out := by
  unfold State.latchGate
  split
  · exact List.Subset.refl _
  · exact out_setBit (s.onFgt _) _ _

/-- The reset of the root-of-trust domain ends the update and loses no message (R20, R22). -/
theorem rootReset_update (s : State) (power keep : Bool) : (s.rootReset power keep).pldm = {} ∧ (s.rootReset power keep).aod = s.aod ∧
    s.out ⊆ (s.rootReset power keep).out := by
  cases keep
  · simp [State.rootReset]
  · have hp (u : State) : u.latchGate.pldm = u.pldm := (only_latchGate u).same .pldm
    have ha (u : State) : u.latchGate.aod = u.aod := (only_latchGate u).same .aod
    refine ⟨by simp [State.rootReset, hp], by simp [State.rootReset, ha], fun e he => ?_⟩
    simp only [State.rootReset, ↓reduceIte, State.onChip_out, State.onPsq_out, State.onFgt_out]
    exact out_latchGate _ (by simpa using he)

/-- The wipe of the accelerator domain loses no message (R21). -/
theorem accWipe_said (s : State) {n c r : Nat} {d : List Byte} (h : PldmReply s n c r d) : PldmReply (s.accWipe false) n c r d := by
  rw [accWipe_eq, if_neg Bool.false_ne_true]
  have hw : s.out ⊆ (s.wipedUnits false).out := by
    have hc : s.clearUnits.clearStaleProgs.out = s.out := by
      unfold State.clearStaleProgs State.clearUnits
      simp
    have h0 : (s.clearUnits.clearStaleProgs.bstEnd 4).out = s.out := ((only_bstEnd _ 4).same .out).trans hc
    unfold State.wipedUnits
    generalize s.clearUnits.clearStaleProgs.bstEnd 4 = u at h0
    extract_lets s1 epoch s2 s3 s4 s5 s6
    have h3 : Only [.aod, .domains, .freeCtr, .genBase, .hdrs, .klg] u s3 :=
      ((((Only.refl _ u).onAod (by decide) _).onGenBase (by decide) _).onKlg (by decide) _).spend (by decide) _
    have h5 : Only [.aod, .domains, .freeCtr, .genBase, .hdrs, .klg] u s5 :=
      (Only.klgLock (by decide) (h3.onHdrs (by decide) _)).onDomains (by decide) _
    have h6 : s5.out ⊆ s6.out := out_modChip s5 _
    rw [h5.same .out, h0] at h6
    exact h6
  generalize s.wipedUnits false = v at hw ⊢
  exact hw h

/-- From `s` to `t` a start has ended the update and reset the accelerator; every PLDM message stands, and so does the choice of the
firmware slot unless the always-on domain was found lost. -/
structure Restarted (s t : State) : Prop where
  ended : t.pldm = {}
  acc : t.chip.accReset = true ∧ t.chip.accReady = false
  said : ∀ n c r d, PldmReply s n c r d → PldmReply t n c r d
  slot : s.aod.lost = false → t.aod.trial = s.aod.trial ∧ t.aod.prefSlotB = s.aod.prefSlotB

theorem Restarted.carries {s t u : State} (h : Restarted s t) (k : Carries t u) : Restarted s u where
  ended := k.update.trans h.ended
  acc := ⟨k.acc.1.trans h.acc.1, k.acc.2.trans h.acc.2⟩
  said n c r d := k.said n c r d ∘ h.said n c r d
  slot e := ⟨k.slot.1.trans (h.slot e).1, k.slot.2.trans (h.slot e).2⟩

/-- Both domains reset (R20 to R22). -/
theorem restarted_reset {s u : State} (power keep : Bool) (h : Carries s.aodStart.1 u) :
    Restarted s ((u.rootReset power keep).accWipe false) := by
  obtain ⟨ha, hl⟩ := aodStart_update s
  obtain ⟨hp, hr, hs⟩ := rootReset_update u power keep
  obtain ⟨-, -, hw, h1, h2, -, ho⟩ := accWipe_effect (u.rootReset power keep)
  exact {
    ended := (ho.same .pldm).trans hp
    acc := ⟨h1, h2⟩
    said := fun n c r d hm => accWipe_said _ (hs (h.said n c r d (ha n c r d hm)))
    slot := fun e => by
      rw [hw, hr]
      exact ⟨h.slot.1.trans (hl e).1, h.slot.2.trans (hl e).2⟩ }

/-- Every start of the root-of-trust domain (R20, R22, R306). -/
theorem restarted_startRoot (s : State) (power life keep : Bool) (stim : List Nat) : Restarted s (s.startRoot power life keep stim) := by
  unfold State.startRoot
  extract_lets a s1 s2 s3 s4 s5 s6
  have h2 : Carries a.1 s2 := by
    have h1 : Carries a.1 s1 := (((Carries.refl a.1).logInfo _ _).spend 1).ite (Carries.refl a.1)
    exact ((h1.onHeat _).onAod _ ⟨rfl, rfl⟩).ite (h1.ite h1.closeForReset)
  have h3 : Restarted s s3 := restarted_reset power keep h2
  have cold : Carries s3 s3.coldEpoch :=
    ((Carries.refl s3).onAod _ ⟨rfl, rfl⟩).step (l := [.genBase]) ((Only.refl _ _).onGenBase (by decide) _)
  have h4 : Carries s3 s4 := (cold.ite (Carries.refl s3)).decodeStart
  have h5 : Carries s3 s5 := ((h4.onChip _ ⟨rfl, rfl⟩).setBit _ _).ite h4
  have h6 : Carries s3 s6 := h5.grantStart.lifeLocks.klgLock.startStimulation stim
  clear_value s6 s3 a
  refine h3.carries ?_
  split
  · exact (h6.onUmp _).onAod _ ⟨rfl, rfl⟩
  · rename_i x _
    have h7 := h6.startFirmware x.1 x.2.1 x.2.2
    exact h7.ite (h7.umpireKeys.takeManifest _)

/-! ### The phases of an update (R426, R427) -/

/-- A change of the update and its answer. -/
theorem onPldm_pldmAnswer_effect (s : State) (f : Pldm5 → Pldm5) (t cmd code : Nat) (d : List Byte) :
    Only [.out, .pldm] s ((s.onPldm f).pldmAnswer t cmd code d) ∧ ((s.onPldm f).pldmAnswer t cmd code d).pldm = f s.pldm ∧
      PldmReply ((s.onPldm f).pldmAnswer t cmd code d) t cmd code d :=
  ⟨((Only.refl _ s).onPldm (by decide) f).emit (by decide) _, rfl, pldmReply_pldmAnswer _ _ _ _ _⟩

/-- An answer and the change of the update after it. -/
theorem pldmAnswer_onPldm_effect (s : State) (f : Pldm5 → Pldm5) (t cmd code : Nat) (d : List Byte) :
    Only [.out, .pldm] s ((s.pldmAnswer t cmd code d).onPldm f) ∧ ((s.pldmAnswer t cmd code d).onPldm f).pldm = f s.pldm ∧
      PldmReply ((s.pldmAnswer t cmd code d).onPldm f) t cmd code d :=
  ⟨((Only.refl _ s).emit (by decide) _).onPldm (by decide) f, rfl, pldmReply_pldmAnswer s _ _ _ _⟩

/-- An answer alone, where the update could have changed too. -/
theorem pldmAnswer_update (s : State) (t cmd code : Nat) (d : List Byte) : Only [.out, .pldm] s (s.pldmAnswer t cmd code d) ∧
    (s.pldmAnswer t cmd code d).pldm = s.pldm ∧ PldmReply (s.pldmAnswer t cmd code d) t cmd code d :=
  ⟨(only_pldmAnswer _ _ _ _ _).mono (by decide), rfl, pldmReply_pldmAnswer _ _ _ _ _⟩

section Served
variable {s : State} {t : Transport}

theorem requestUpdate_effect (h : ServedOn s t) : Answers (exec (.requestUpdate t) s) fun u => Only [.out, .pldm] s u ∧
    if s.pldm.phase = 0 then u.pldm = { t := tIndex t, phase := 1 } ∧ PldmReply u (tIndex t) 0x10 0 [0, 0, 0]
    else u.pldm = s.pldm ∧ PldmReply u (tIndex t) 0x10 0x81 [] := by
  change Answers (execRequestUpdate t s) _
  refine answers_pldmServe h ?_
  split
  · exact onPldm_pldmAnswer_effect _ _ _ _ _ _
  · exact pldmAnswer_update _ _ _ _ _

theorem passComponentTable_effect (h : ServedOn s t) (c p : BitVec 16) (hp : s.pldm.phase = 1 ∨ s.pldm.phase = 2) :
    Answers (exec (.passComponentTable t c p) s) fun u => Only [.out, .pldm] s u ∧
      if s.mayUpdate c.toNat = true then
        u.pldm = { s.pldm with phase := 2, passed := s.pldm.passed ++ [c], param := p } ∧ PldmReply u (tIndex t) 0x13 0 [0, 0]
      else u.pldm = s.pldm ∧ PldmReply u (tIndex t) 0x13 0 [1, 6] := by
  change Answers (execPassComponentTable t c p s) _
  refine answers_pldmServe h ?_
  rw [if_neg (fun e => hp.elim e.1 e.2)]
  split
  · exact onPldm_pldmAnswer_effect _ _ _ _ _ _
  · exact pldmAnswer_update _ _ _ _ _

theorem updateComponent_effect (h : ServedOn s t) (c p : BitVec 16) (n : Nat) (hp : s.pldm.phase = 2)
    (hc : s.pldm.passed.contains c = true) : Answers (exec (.updateComponent t c p n) s) fun u => Only [.out, .pldm] s u ∧
      u.pldm = { s.pldm with phase := 3, comp := c, param := p, size := n, data := [], result := 0 } ∧
      PldmReply u (tIndex t) 0x14 0 [0, 0, 0, 0, 0, 0, 0] := by
  change Answers (execUpdateComponent t c p n s) _
  refine answers_pldmServe h ?_
  rw [if_neg (fun e => e.elim (· hp) (Bool.noConfusion <| hc.symm.trans ·))]
  exact onPldm_pldmAnswer_effect _ _ _ _ _ _

theorem cancelUpdateComponent_effect (h : ServedOn s t) : Answers (exec (.cancelUpdateComponent t) s) fun u => Only [.out, .pldm] s u ∧
    if 3 ≤ s.pldm.phase.toNat then u.pldm = { s.pldm with phase := 2, data := [] } ∧ PldmReply u (tIndex t) 0x1C 0 []
    else u.pldm = s.pldm := by
  have only (code : Nat) : Only [.out, .pldm] s (s.pldmAnswer (tIndex t) 0x1C code []) := (pldmAnswer_update _ _ _ _ _).1
  change Answers (execCancelUpdateComponent t s) _
  refine answers_pldmServe h ?_
  by_cases h0 : s.pldm.phase = 0
  · rw [if_pos h0, if_neg (by simp [h0])]
    exact ⟨only _, rfl⟩
  · rw [if_neg h0]
    split
    · exact onPldm_pldmAnswer_effect _ _ _ _ _ _
    · exact ⟨only _, rfl⟩

theorem cancelUpdate_effect (h : ServedOn s t) : Answers (exec (.cancelUpdate t) s) fun u => Only [.out, .pldm] s u ∧
    if s.pldm.phase = 0 then u.pldm = s.pldm ∧ PldmReply u (tIndex t) 0x1D 0x80 []
    else u.pldm = {} ∧ PldmReply u (tIndex t) 0x1D 0 [0] := by
  change Answers (execCancelUpdate t s) _
  refine answers_pldmServe h ?_
  split
  · exact pldmAnswer_update _ _ _ _ _
  · exact onPldm_pldmAnswer_effect _ _ _ _ _ _

/-! ### Activation (R427) -/

/-- New firmware is activated: the slot that does not run is preferred, on trial, and the chip starts anew without the update. -/
theorem activateFirmware_update (s : State) : s.activateFirmware.pldm = {} ∧
    (∀ n c r d, PldmReply s n c r d → PldmReply s.activateFirmware n c r d) ∧
    (s.aod.lost = false → s.activateFirmware.aod.trial = true ∧ s.activateFirmware.aod.prefSlotB = (!s.ump.fwSlotB) ∧
      s.activateFirmware.chip.accReset = true ∧ s.activateFirmware.chip.accReady = false) := by
  unfold State.activateFirmware State.step2
  extract_lets s1
  have h := restarted_startRoot (s1.onUmp fun u => { u with eventCopy := u.events }) false false true []
  exact ⟨h.ended, h.said, fun e => ⟨(h.slot e).1, (h.slot e).2, h.acc⟩⟩

theorem activateFirmware_effect (h : ServedOn s t) (hp : s.pldm.phase = 2) (ha : ∀ c ∈ s.pldm.passed, c ∈ s.pldm.applied) :
    Answers (exec (.activateFirmware t) s) fun u => PldmReply u (tIndex t) 0x1A 0 [0, 0] ∧ u.pldm = {} ∧
      (if 1 ∈ s.pldm.applied then s.aod.lost = false → u.aod.trial = true ∧ u.aod.prefSlotB = (!s.ump.fwSlotB) ∧ u.chip.accReset = true ∧
          u.chip.accReady = false
       else Only [.out, .pldm] s u) := by
  have hall : ¬ (s.pldm.passed.all fun c => s.pldm.applied.contains c) = false := by simpa using ha
  change Answers (execActivateFirmware t s) _
  refine answers_pldmServe h ?_
  rw [if_neg (not_not_intro hp), if_neg hall]
  extract_lets s1
  obtain ⟨ho, hu, hs⟩ : Only [.out, .pldm] s s1 ∧ s1.pldm = {} ∧ PldmReply s1 (tIndex t) 0x1A 0 [0, 0] :=
    onPldm_pldmAnswer_effect s (fun _ => {}) _ _ _ _
  simp only [List.contains_iff_mem]
  split
  · obtain ⟨h1, h2, h3⟩ := activateFirmware_update s1
    have hl : s1.aod = s.aod := ho.same .aod
    have hm : s1.ump = s.ump := ho.same .ump
    rw [hl, hm] at h3
    exact ⟨h2 _ _ _ _ hs, h1, h3⟩
  · exact ⟨hs, hu, ho⟩

end Served

/-! ### A component's transfer, verification and application (R220, R426) -/

section Download
variable {s : State}

theorem requestFirmwareData_effect (h : s.umpUp = true) (data : List Byte) (hp : s.pldm.phase = 3)
    (hl : s.pldm.data.length < s.pldm.size) (hd : data.length = min 4096 (s.pldm.size - s.pldm.data.length)) :
    Answers (exec (.requestFirmwareData s.pldm.data.length data) s) fun u =>
      u.pldm = { s.pldm with data := s.pldm.data ++ data } ∧ Only [.out, .pldm] s u ∧
      PldmReply u s.pldm.t 0x15 0 (leBytes 4 s.pldm.data.length ++ leBytes 4 data.length) := by
  change Answers (execRequestFirmwareData s.pldm.data.length data s) _
  unfold execRequestFirmwareData pldmTransfer
  extract_lets p want
  have hw : data.length = want := hd
  have h0 : want ≠ 0 := by
    show min 4096 (s.pldm.size - s.pldm.data.length) ≠ 0
    omega
  rw [if_neg (by simp [h, hp, hw, h0, p]), ← hw]
  obtain ⟨ho, hu, hs⟩ := pldmAnswer_onPldm_effect s (fun p => { p with data := p.data ++ data }) p.t 0x15 0
    (leBytes 4 s.pldm.data.length ++ leBytes 4 data.length)
  exact .next ⟨hu, ho, hs⟩

theorem transferComplete_effect (h : s.umpUp = true) (ok : Bool) (hp : s.pldm.phase = 3) :
    Answers (exec (.transferComplete ok) s) fun u => Only [.out, .pldm] s u ∧
      if ok = true ∧ s.pldm.data.length = s.pldm.size then
        u.pldm = { s.pldm with phase := 4 } ∧ PldmReply u s.pldm.t 0x16 0 [0]
      else u.pldm = { s.pldm with phase := 2, data := [] } ∧ PldmReply u s.pldm.t 0x16 0 [1] := by
  change Answers (execTransferComplete ok s) _
  unfold execTransferComplete
  rw [if_neg (by simp [h, hp])]
  split <;> exact .next (pldmAnswer_onPldm_effect s _ _ _ _ _)

/-- What a verification does before it answers: the firmware image written, or the report of a program that fails (R220). -/
def State.verifyStored (s : State) (staged : List Byte) : State :=
  if s.pldm.comp = 1 then (s.putFirmware s.pldm.data).1
  else if s.pldm.comp = 5 ∧ s.pldmVerify staged ≠ 0 then s.reportLoad s.pldm.data (s.checkProgram s.pldm.data)
  else s

theorem execVerifyComplete_eq (h : s.umpUp = true) (hp : s.pldm.phase = 4) (staged : List Byte) : execVerifyComplete staged s =
    .next ((((s.verifyStored staged).spend 1).pldmAnswer s.pldm.t 0x17 0 [byteOf (s.pldmVerify staged)]).onPldm fun p =>
      { p with phase := if s.pldmVerify staged = 0 then 5 else 2, result := byteOf (s.pldmVerify staged) }) := by
  unfold execVerifyComplete State.verifyStored
  exact if_neg (by simp [h, hp])

theorem putFirmware_fst (s : State) (img : List Byte) : (s.putFirmware img).1 =
    s.onStore fun x => if s.ump.fwSlotB then { x with fwA := img } else { x with fwB := img } := by
  unfold State.putFirmware
  extract_lets s1
  split <;> rfl

theorem verifyStored_effect (s : State) (staged : List Byte) : Only [.store, .ump] s (s.verifyStored staged) ∧
    (s.verifyStored staged).store = (if s.pldm.comp = 1 then
      (if s.ump.fwSlotB = true then { s.store with fwA := s.pldm.data } else { s.store with fwB := s.pldm.data }) else s.store) ∧
    (s.pldm.comp = 5 → s.pldmVerify staged ≠ 0 → ∃ e, (s.verifyStored staged).ump.events.getLast? = some e ∧ e.page = 0x0F ∧
      e.code = BitVec.ofNat 8 (s.checkProgram s.pldm.data).1) ∧
    (s.pldm.comp ≠ 5 → (s.verifyStored staged).ump = s.ump) := by
  unfold State.verifyStored
  by_cases h1 : s.pldm.comp = 1
  · rw [if_pos h1, if_pos h1, putFirmware_fst]
    exact ⟨(Only.refl _ s).onStore (by decide) _, rfl, fun e => absurd (h1.symm.trans e) (by decide), fun _ => rfl⟩
  · rw [if_neg h1, if_neg h1]
    by_cases h5 : s.pldm.comp = 5 ∧ s.pldmVerify staged ≠ 0
    · rw [if_pos h5]
      generalize s.checkProgram s.pldm.data = r
      have report : Only [.ump] s (s.reportLoad s.pldm.data r) := (Only.refl _ s).onUmp (by decide) _
      exact ⟨report.mono (by decide), report.same .store, fun _ _ => ⟨_, getLast_logEvent _ _ _ _ _, rfl, rfl⟩, fun e => absurd h5.1 e⟩
    · rw [if_neg h5]
      exact ⟨Only.refl _ s, rfl, fun e1 e2 => absurd ⟨e1, e2⟩ h5, fun _ => rfl⟩

theorem verifyComplete_effect (h : s.umpUp = true) (staged : List Byte) (hp : s.pldm.phase = 4) :
    Answers (exec (.verifyComplete staged) s) fun u =>
      PldmReply u s.pldm.t 0x17 0 [byteOf (s.pldmVerify staged)] ∧
      u.pldm = { s.pldm with phase := if s.pldmVerify staged = 0 then 5 else 2, result := byteOf (s.pldmVerify staged) } ∧
      (u.store = if s.pldm.comp = 1 then
        (if s.ump.fwSlotB = true then { s.store with fwA := s.pldm.data } else { s.store with fwB := s.pldm.data }) else s.store) ∧
      (s.pldm.comp = 5 → s.pldmVerify staged ≠ 0 → ∃ e, u.ump.events.getLast? = some e ∧ e.page = 0x0F ∧
        e.code = BitVec.ofNat 8 (s.checkProgram s.pldm.data).1) ∧
      (s.pldm.comp ≠ 5 → u.ump = s.ump) ∧ Only [.freeCtr, .out, .pldm, .store, .ump] s u := by
  change Answers (execVerifyComplete staged s) _
  rw [execVerifyComplete_eq h hp]
  obtain ⟨k1, k2, k3, k4⟩ := verifyStored_effect s staged
  generalize s.verifyStored staged = v at k1 k2 k3 k4
  obtain ⟨ho, hu, hs⟩ := pldmAnswer_onPldm_effect (v.spend 1)
    (fun p => { p with phase := if s.pldmVerify staged = 0 then 5 else 2, result := byteOf (s.pldmVerify staged) })
    s.pldm.t 0x17 0 [byteOf (s.pldmVerify staged)]
  have hv : v.pldm = s.pldm := k1.same .pldm
  refine .next ⟨hs, hu.trans ?_, k2, k3, k4, (((k1.mono (by decide)).spend (by decide) 1).then ho)⟩
  rw [State.spend, State.onFreeCtr_pldm, hv]

/-! ### Application (R337, R357, R426) -/

/-- Steps that carry a code beside the state. -/
theorem Carries.foldl_fst {α β : Type} {s : State} {g : State × β → α → State × β}
    (hg : ∀ (x : State × β) (a : α), Carries s x.1 → Carries s (g x a).1) (xs : List α) {x : State × β} (h : Carries s x.1) :
    Carries s (xs.foldl g x).1 := by
  induction xs generalizing x with
  | nil => exact h
  | cons a xs ih => exact ih (hg x a h)

theorem recManifest_carries (s : State) (src : Nat) (raw : List Byte) : Carries s (s.recManifest src raw).1 := by
  unfold State.recManifest
  extract_lets gs c
  split
  · exact Carries.foldl (fun g hu => (hu.onPsq _).onPsq _) _ (Carries.refl s)
  · exact Carries.foldl (fun g hu => hu.verdict _ _) _ (Carries.refl s)

theorem recPolicy_carries (s : State) (src : Nat) (raw : List Byte) : Carries s (s.recPolicy src raw).1 := by
  unfold State.recPolicy
  refine Carries.foldl_fst (fun x g hx => ?_) _ (Carries.refl s)
  split
  · exact hx
  · extract_lets c
    split
    · dsimp only
      exact hx.onPsq _
    · exact hx.waitSource _ _

theorem recImage_carries (s : State) (src i : Nat) (data : List Byte) : Carries s (s.recImage src i data) := by
  unfold State.recImage
  extract_lets one
  refine (Carries.foldl (fun {u} g hu => ?_) _ (Carries.refl s)).progress
  dsimp only [one]
  split
  · exact ((hu.modPort _ _).emit _).onPsq _
  · exact hu

theorem stagedUpdate_carries (s : State) (man pol : List Byte) (staged : Bool) : Carries s (s.stagedUpdate man pol staged).1 := by
  unfold State.stagedUpdate
  extract_lets c d b
  split
  · exact Carries.refl s
  split
  · exact Carries.refl s
  split
  · exact Carries.refl s
  · have put : Carries s (s.putManifest b man pol) := by
      unfold State.putManifest
      exact (Carries.refl s).onStore _
    dsimp only
    exact put.onAod _ ⟨rfl, rfl⟩

/-- The list of the components applied, and the one in hand, are as before. -/
def SameApplied (s t : State) : Prop := t.pldm.applied = s.pldm.applied ∧ t.pldm.comp = s.pldm.comp

theorem SameApplied.carries {s t u : State} (h : SameApplied s t) (k : Carries t u) : SameApplied s u := by
  unfold SameApplied
  rw [k.update]
  exact h

theorem pldmStage_sameApplied {s t : State} (h : SameApplied s t) : SameApplied s t.pldmStage := by
  unfold State.pldmStage
  extract_lets p
  split
  · exact h
  · obtain ⟨h1, h2⟩ := h.carries (stagedUpdate_carries t p.man p.pol true)
    exact ⟨h1, h2⟩

/-- A component put in its place, be it a recovery's or an update's, changes nothing of what has been applied. -/
theorem pldmPut_sameApplied (s : State) : SameApplied s s.pldmPut := by
  have same : SameApplied s s := ⟨rfl, rfl⟩
  have chain (slot : Nat) (d : List Byte) : SameApplied s (s.putChain slot d) := ⟨rfl, rfl⟩
  unfold State.pldmPut
  extract_lets d
  split
  · split
    · exact same.carries (recManifest_carries s 2 d)
    · exact pldmStage_sameApplied ⟨rfl, rfl⟩
  · split
    · exact same.carries (recPolicy_carries s 2 d)
    · exact pldmStage_sameApplied ⟨rfl, rfl⟩
  · exact same.carries (recImage_carries s 2 _ d)
  · exact chain 0 d
  · exact chain 1 d
  · exact chain 2 d
  · exact chain 3 d
  · exact same

/-- The result that APPLY_COMPLETE answers: of a program that of its load (R220). -/
def State.applyResult (s : State) : Nat :=
  if s.pldm.comp = 5 ∧ (s.loadProgram s.pldm.data).2 ≠ 0 then 0x90 + (s.loadProgram s.pldm.data).2 else 0

theorem pldmApply_effect (s : State) : s.pldmApply.2 = s.applyResult ∧ SameApplied s s.pldmApply.1 ∧
    (s.pldm.comp = 5 → s.pldmApply.1 = (s.loadProgram s.pldm.data).1) ∧ (s.pldm.comp = 1 → s.pldmApply.1 = s) := by
  unfold State.pldmApply State.applyResult
  by_cases h5 : s.pldm.comp = 5
  · rw [if_pos h5]
    have same : SameApplied s s := ⟨rfl, rfl⟩
    refine ⟨?_, same.carries ((Carries.refl s).loadProgram _), fun _ => rfl, fun e => absurd (h5.symm.trans e) (by decide)⟩
    by_cases h0 : (s.loadProgram s.pldm.data).2 = 0
    · rw [if_neg (fun e => e.2 h0)]
      exact if_pos h0
    · rw [if_pos ⟨h5, h0⟩]
      exact if_neg h0
  · rw [if_neg h5, if_neg (fun e => h5 e.1)]
    refine ⟨rfl, pldmPut_sameApplied s, fun e => absurd e h5, fun e => ?_⟩
    unfold State.pldmPut
    rw [e]
    rfl

theorem applyComplete_effect (h : s.umpUp = true) (hp : s.pldm.phase = 5) : Answers (exec .applyComplete s) fun u =>
    PldmReply u s.pldm.t 0x18 0 [byteOf s.applyResult] ∧ u.pldm.phase = 2 ∧ u.pldm.data = [] ∧ u.pldm.result = byteOf s.applyResult ∧
    u.pldm.applied = (if s.applyResult = 0 then s.pldm.applied ++ [s.pldm.comp] else s.pldm.applied) ∧
    (s.pldm.comp = 5 → u.progs = (s.loadProgram s.pldm.data).1.progs ∧ u.meas = (s.loadProgram s.pldm.data).1.meas) ∧
    (s.pldm.comp = 1 → Only [.out, .pldm] s u) := by
  obtain ⟨hr, ⟨ha, hc⟩, hl, hn⟩ := pldmApply_effect s
  change Answers (execApplyComplete s) _
  unfold execApplyComplete
  rw [if_neg (by simp [h, hp]), ← hr]
  generalize s.pldmApply = r at ha hc hl hn ⊢
  extract_lets
  obtain ⟨ho, hu, hs⟩ := pldmAnswer_onPldm_effect r.1
    (fun p => { p with phase := 2, applied := if r.2 = 0 then p.applied ++ [p.comp] else p.applied, result := byteOf r.2, data := [] })
    s.pldm.t 0x18 0 [byteOf r.2]
  refine .next ⟨hs, by rw [hu], by rw [hu], by rw [hu], by rw [hu, ha, hc], fun e => ?_, fun e => ?_⟩
  · rw [← hl e]
    exact ⟨ho.same .progs, ho.same .meas⟩
  · rw [hn e] at ho ⊢
    exact ho

end Download

/-- Settles O59, phase by phase: the new firmware's start by `restarted_startRoot`, an application by `pldmApply_effect`. -/
theorem pldmFirmwareUpdate : Obligations.PldmFirmwareUpdate := by
  unfold Obligations.PldmFirmwareUpdate
  refine ⟨fun s t h => ⟨requestUpdate_effect h, fun c p => passComponentTable_effect h c p, fun c p n => updateComponent_effect h c p n,
    activateFirmware_effect h, fun hp => ?_, ?_, cancelUpdateComponent_effect h, cancelUpdate_effect h⟩, fun s h =>
    ⟨fun data => requestFirmwareData_effect h data, fun ok => transferComplete_effect h ok, fun staged => verifyComplete_effect h staged,
      applyComplete_effect h⟩⟩
  · change Answers (execActivateFirmware t s) _
    refine answers_pldmServe h ?_
    rw [if_pos hp]
    exact (pldmAnswer_effect _ _ _ _ _).symm
  · change Answers (execPldmGetStatus t s) _
    exact answers_pldmServe h (pldmAnswer_effect _ _ _ _ _).symm

end Sys2Proof.Machine

/-!
# The Umpire's abort of a slice, the direct port and the access lists (O28)
-/

namespace Sys2Proof.Machine

-- One declaration after the other: elaborated side by side, the row as one text takes more threads than the check allows.
set_option Elab.async false

/-- A write of the Umpire to an open page acts on the page (R50, R53 to R55). -/
theorem gateWrite_umpire_open {s : State} {p : PageId} (h : WriteOpen s .umpire p) (b : Bool) (k : State → State) :
    s.gateWrite .umpire p b k = k s := by
  obtain ⟨-, -, hp, ha, hq⟩ := h
  simp [State.gateWrite, hp, ha, hq]

/-- A command that is one such write, on main power. -/
theorem answers_umpireWrite {s : State} {p : PageId} (h : WriteOpen s .umpire p) {b : Bool} {k : State → State} {P : State → Prop}
    (hk : P (k s)) : Answers (s.powered fun s => .next (s.gateWrite .umpire p b k)) P := by
  rw [powered_eq h.1, gateWrite_umpire_open h]
  exact .next hk

/-! ### The abort of a slice (R267) -/

theorem pkeAbort_running {s : State} {i j : Nat} {b : Job} {q : Req} (h : WriteOpen s .umpire (.pke (i / 2)))
    (hr : (s.slice i).running = some j) (hf : ∀ k ∈ (s.slice i).frames, k = j) (hj : s.job j = some b) (hq : s.req b.req = some q) :
    Answers (exec (.pkeAbort .umpire i) s) fun t =>
      t.req b.req = some { q with abort := true } ∧ (∀ r, r ≠ b.req → t.req r = s.req r) ∧ Only [.reqs] s t := by
  have hn : ((s.slice i).frames.filter fun k => some k != some j) = [] :=
    List.filter_eq_nil_iff.2 fun k hk => by simp [hf k hk]
  change Answers (execPkeAbort .umpire i s) _
  refine answers_umpireWrite h ?_
  dsimp only
  rw [hr, hn]
  simp only [List.foldl_nil, hj, Option.map_some]
  refine ⟨?_, fun r hne => ?_, (Only.refl _ s).modReq (by decide) _ _⟩
  · rw [req_modReq, if_pos rfl, hq]
    rfl
  · rw [req_modReq, if_neg hne]

theorem resultOf_pke {q : Req} (h : q.typ = 3) (s : State) (x : Fin) : s.resultOf q x = x := by
  unfold State.resultOf
  rw [h]
  rfl

theorem cqeDwords_pke {q : Req} (h : q.typ = 3) (s t : State) (x : Fin) : s.cqeDwords q x = t.cqeDwords q x := by
  unfold State.cqeDwords State.authPair State.comparison
  rw [h]
  rfl

/-- The end of a live PKE request, split at its completion entry: its job ends or goes on, then the request leaves. -/
theorem finish1_pke {s : State} {r : Nat} {q : Req} {c : Chan} (hl : ReqLive s r q c) (hq : q.typ = 3) (x : Fin) :
    ∃ u, WorkDone (s.reported q x) u ∧ s.finish1 r x = (u.onReqs (·.set none r none)).reapOwn q := by
  obtain ⟨hr, hc, he, -⟩ := hl
  refine ⟨_, endOwn_work s (s.reported q x) q x, ?_⟩
  unfold State.finish1
  rw [hr]
  dsimp only
  rw [resultOf_pke hq, hc]
  dsimp only
  rw [if_neg (by simp [he])]
  rfl

/-- A live PKE request ends as it is told to, whatever its job holds (R127). -/
theorem finish1_ends_pke {s : State} {r : Nat} {q : Req} {c : Chan} (hl : ReqLive s r q c) (hq : q.typ = 3) (x : Fin) :
    ReqEnds s (s.finish1 r x) r q c x := by
  obtain ⟨⟨y, hy, hin⟩, -⟩ := answered_live (s.zeroWritten q x.st) r q c x (hl.of_only (only_zeroWritten s q x.st))
  rw [cqeDwords_pke hq _ s] at hin
  obtain ⟨u, h4, he⟩ := finish1_pke hl hq x
  have h5 := reapOwn_work (u.onReqs (·.set none r none)) q
  rw [he]
  refine ⟨⟨y, hy, h5.out (h4.out hin)⟩, ?_⟩
  rcases h5.reqs r with h | h
  · exact h
  · exact h.trans ((req_remove u r r).trans (if_pos rfl))

/-- Job `j` of a live PKE request fails: the request ends with what the job is failed with (R267, R268). -/
theorem failJob_ends_pke {s : State} {j : Nat} {b : Job} {q : Req} {c : Chan} (hj : s.job j = some b) (hl : ReqLive s b.req q c)
    (hq : q.typ = 3) (x : Fin) : ReqEnds s (s.failJob j x) b.req q c x := by
  have h : s.failJob j x = s.finish b.req x := by
    unfold State.failJob
    rw [hj]
    dsimp only
    rw [hl.1]
  rw [h]
  exact (finish1_ends_pke hl hq x).work (finish_after_finish1 s b.req x)

/-- A wiped slice (R253). -/
theorem slice_wipeSlice (s : State) (i : Nat) : (s.wipeSlice i).slice i = { s.slice i with
    frames := [], running := none, busy := false, keyArea := [], w := [], wipes := (s.slice i).wipes + 1 } := by
  unfold State.wipeSlice
  extract_lets gone s1
  have h1 : Only [.jobs] s s1 := Only.foldl (fun t j h => h.modJob (by decide) j _) gone (Only.refl _ s)
  have hs : s1.slice i = s.slice i := by
    unfold State.slice
    rw [h1.same .slices]
  rw [slice_modSlice, if_pos rfl, hs]

theorem pkeAbort_resting {s : State} {i j : Nat} {b : Job} {q : Req} {c : Chan} (h : WriteOpen s .umpire (.pke (i / 2)))
    (hr : (s.slice i).running = none) (hf : (s.slice i).frames = [j]) (hj : s.job j = some b) (hl : ReqLive s b.req q c)
    (hq : q.typ = 3) : Answers (exec (.pkeAbort .umpire i) s) fun t =>
      ReqEnds s t b.req q c { st := 0x70 } ∧ (t.slice i).frames = [] ∧ (t.slice i).w = [] ∧
      (t.slice i).wipes = (s.slice i).wipes + 1 ∧ (t.hdr (.pke (i / 2))).status.getLsbD 13 = true ∧
      Only [.chans, .chip, .eights, .fns, .hdrs, .heat, .jobs, .msh, .out, .progs, .quads, .reqs, .slices] s t := by
  have hk : ([j].filter fun k => some k != none) = [j] := rfl
  change Answers (execPkeAbort .umpire i s) _
  refine answers_umpireWrite h ?_
  dsimp only
  rw [hr, hf, hk]
  simp only [List.foldl_cons, List.foldl_nil, List.isEmpty_cons, Bool.false_eq_true, if_false]
  have hw := WorkDone.failJob s j { st := 0x70 }
  have he := failJob_ends_pke hj hl hq { st := 0x70 }
  generalize s.failJob j { st := 0x70 } = u at hw he
  have hv := (Contained.wipeSlice u i).only
  have hs := slice_wipeSlice u i
  generalize u.wipeSlice i = v at hv hs
  have hb := only_setBit v (.pke (i / 2)) 13
  have hsl : (v.setBit (.pke (i / 2)) 13).slice i = v.slice i := by
    unfold State.slice
    rw [hb.same .slices]
  obtain ⟨x, y, z, w, hu⟩ := hw.slices i
  rw [hsl, hs, hu]
  refine ⟨⟨?_, ?_⟩, rfl, rfl, rfl, status_setBit v _ (by decide), (hw.only.then hv).then hb⟩
  · obtain ⟨⟨y, hy, hin⟩, -⟩ := he
    exact ⟨y, hy, out_setBit v _ _ ((hv.same .out).symm ▸ hin)⟩
  · unfold State.req
    rw [hb.same .reqs, hv.same .reqs]
    exact he.2

/-! ### The direct port (R245 to R247) -/

/-- With no direct job in a cell and none waiting in a lower quad, the waiting job of quad `r` takes its free cell (R142). -/
theorem giveDirect_takes {s : State} {r c : Nat} (hr : r < 4) (h0 : ∀ k, k < 4 → (s.quad k).direct = 0)
    (hl : ∀ k, k < r → (s.quad k).dirBusy = false) (hb : (s.quad r).dirBusy = true) (hc : s.freeCell r = some c) :
    s.giveDirect = s.modQuad r fun x => { x with direct := 1#4 <<< c } := by
  have hn : ((List.range 4).any fun k => (s.quad k).direct != 0) = false :=
    List.any_eq_false.2 fun k hk => by simp [h0 k (List.mem_range.1 hk)]
  have hf : ((List.range 4).find? fun k => (s.quad k).dirBusy && (s.freeCell k).isSome) = some r := by
    rw [List.find?_range_eq_some]
    exact ⟨by simp [hb, hc], List.mem_range.2 hr, fun k hk => by simp [hl k hk]⟩
  unfold State.giveDirect
  rw [hn, if_neg Bool.false_ne_true, hf]
  dsimp only
  rw [hc]

/-- With no direct job waiting no cell is given. -/
theorem giveDirect_idle {s : State} (h : ∀ k, (s.quad k).dirBusy = false) : s.giveDirect = s := by
  have hf : ((List.range 4).find? fun k => (s.quad k).dirBusy && (s.freeCell k).isSome) = none :=
    List.find?_eq_none.2 fun k _ => by simp [h k]
  unfold State.giveDirect
  rw [hf]
  exact ite_self s

/-- Which cell is free depends on the busy, isolated and direct cells alone. -/
theorem freeCell_same {s t : State} {r : Nat} (hb : (t.quad r).busy = (s.quad r).busy) (hi : (t.quad r).isolated = (s.quad r).isolated)
    (hd : (t.quad r).direct = (s.quad r).direct) : t.freeCell r = s.freeCell r := by
  unfold State.freeCell
  dsimp only
  rw [hb, hi, hd]

/-- A quad changed twice. -/
theorem quad_modQuad_modQuad (s : State) (r k : Nat) (f g : Quad → Quad) :
    ((s.modQuad r f).modQuad r g).quad k = if k = r then g (f (s.quad r)) else s.quad k := by
  simp only [quad_modQuad, if_true]
  split <;> rfl

theorem regions_le (s : State) : s.variant.regions ≤ 4 := by
  cases s.variant <;> decide

/-- A quad whose port has been asked for a job (R246). -/
def Quad.asked (x : Quad) : Quad := { x with dirBusy := true, dirDone := false, dirError := false, dirOut := [] }

/-- A quad whose port has been told to drop its job (R246). -/
def Quad.dropped (x : Quad) : Quad := { x with dirBusy := false, dirDone := false, dirOut := [], direct := 0, dirFault := false }

theorem directStart_effect {s : State} {r c : Nat} (h : WriteOpen s .umpire (.qad r)) (hb : (s.quad r).dirBusy = false)
    (hc : s.freeCell r = some c) (h0 : ∀ k, k < 4 → (s.quad k).direct = 0) (hl : ∀ k, k < r → (s.quad k).dirBusy = false) :
    Answers (exec (.directStart .umpire r) s) fun t =>
      t.quad r = { s.quad r with
        dirBusy := true, dirDone := false, dirError := false, dirOut := [], direct := 1#4 <<< c } ∧
      (∀ k, k ≠ r → t.quad k = s.quad k) ∧ Only [.quads] s t := by
  have hr : r < 4 := lt_of_lt_of_le (of_decide_eq_true h.2.2.1) (regions_le s)
  have hq (k : Nat) : (s.modQuad r Quad.asked).quad k = if k = r then (s.quad r).asked else s.quad k := quad_modQuad s r k _
  have hself : (s.modQuad r Quad.asked).quad r = (s.quad r).asked := (hq r).trans (if_pos rfl)
  have hg : (s.modQuad r Quad.asked).giveDirect = _ := giveDirect_takes (c := c) hr
    (fun k hk => by
      rw [hq]
      split
      · exact h0 r hr
      · exact h0 k hk)
    (fun k hk => by rw [hq, if_neg (Nat.ne_of_lt hk)]; exact hl k hk) (by rw [hself]; rfl)
    ((freeCell_same (by rw [hself]; rfl) (by rw [hself]; rfl) (by rw [hself]; rfl)).trans hc)
  have he : exec (.directStart .umpire r) s = .next (s.modQuad r Quad.asked).giveDirect := by
    change execDirectStart .umpire r s = _
    unfold execDirectStart
    rw [powered_eq h.1, gateWrite_umpire_open h, hb, if_neg Bool.false_ne_true]
    rfl
  rw [he, hg]
  refine .next ⟨?_, fun k hk => ?_, ((Only.refl _ s).modQuad (by decide) _ _).modQuad (by decide) _ _⟩
  · rw [quad_modQuad_modQuad, if_pos rfl]
    rfl
  · rw [quad_modQuad_modQuad, if_neg hk]

theorem directAbort_effect {s : State} {r : Nat} (h : WriteOpen s .umpire (.qad r)) (hi : ∀ k, k ≠ r → (s.quad k).dirBusy = false)
    (hn : s.NoneDue r) : Answers (exec (.directAbort .umpire r) s) fun t =>
      t.quad r = { s.quad r with dirBusy := false, dirDone := false, dirOut := [], direct := 0, dirFault := false } ∧
      (∀ k, k ≠ r → t.quad k = s.quad k) ∧ Only [.quads] s t := by
  have hq (k : Nat) : (s.modQuad r Quad.dropped).quad k = if k = r then (s.quad r).dropped else s.quad k := quad_modQuad s r k _
  have hself : (s.modQuad r Quad.dropped).quad r = (s.quad r).dropped := (hq r).trans (if_pos rfl)
  have hidle (k : Nat) : ((s.modQuad r Quad.dropped).quad k).dirBusy = false := by
    rw [hq]
    split
    · rfl
    · exact hi k ‹_›
  have hnone : (s.modQuad r Quad.dropped).NoneDue r := hn.of_same (by rw [hself]; rfl) fun _ => rfl
  have he : exec (.directAbort .umpire r) s = .next (s.modQuad r Quad.dropped) := by
    change execDirectAbort .umpire r s = _
    unfold execDirectAbort
    rw [powered_eq h.1, gateWrite_umpire_open h]
    change (.next ((s.modQuad r Quad.dropped).giveDirect.settle r) : Out) = _
    rw [giveDirect_idle hidle, settle_of_noneDue hnone]
  rw [he]
  exact .next ⟨hself, fun k hk => (hq k).trans (if_neg hk), (Only.refl _ s).modQuad (by decide) _ _⟩

/-- A whole read of result register `k` on main power, the page present and no reset in progress. -/
theorem execQadDirOutRead_eq {s : State} {who : Requester} {r k : Nat} (h : WriteOpen s who (.qad r)) (hk : k < 8) :
    exec (.qadDirOutRead who r ⟨8 * k, 8⟩) s =
      if (s.quad r).dirDone = false then .next ((s.setBit (.qad r) 8).emit (.register 0))
      else .next (s.emit (.register (if who = .umpire then BitVec.ofNat 64 (leAt (s.quad r).dirOut (8 * k) 8) else 0))) := by
  obtain ⟨hc, hw, hp, ha, -⟩ := h
  have hs : ¬ ((8 : Nat) ≠ 8 ∨ 8 * k % 8 ≠ 0 ∨ 64 ≤ 8 * k) := by omega
  change execQadDirOutRead who r ⟨8 * k, 8⟩ s = _
  unfold execQadDirOutRead
  rw [powered_eq hc]
  rcases hw with rfl | rfl <;> dsimp only <;> rw [if_neg (by simp [ha, hp]), if_neg hs] <;> rfl

theorem qadDirOutRead_done {s : State} {who : Requester} {r k : Nat} (h : WriteOpen s who (.qad r)) (hk : k < 8)
    (hd : (s.quad r).dirDone = true) : Answers (exec (.qadDirOutRead who r ⟨8 * k, 8⟩) s) fun t =>
      t.out = s.out ++ [.register (if who = .umpire then BitVec.ofNat 64 (leAt (s.quad r).dirOut (8 * k) 8) else 0)] ∧
      Only [.out] s t := by
  rw [execQadDirOutRead_eq h hk, if_neg (by simp [hd])]
  exact .next ⟨rfl, (Only.refl _ s).emit (by decide) _⟩

theorem qadDirOutRead_early {s : State} {who : Requester} {r k : Nat} (h : WriteOpen s who (.qad r)) (hk : k < 8)
    (hd : (s.quad r).dirDone = false) : Answers (exec (.qadDirOutRead who r ⟨8 * k, 8⟩) s) fun t =>
      t.out.getLast? = some (.register 0) ∧ t.hdr (.qad r) = (s.hdr (.qad r)).raise (1#32 <<< 8) ∧
      Only [.chip, .fns, .hdrs, .out] s t := by
  rw [execQadDirOutRead_eq h hk, if_pos hd]
  have hb := only_setBit s (.qad r) 8
  exact .next ⟨List.getLast?_concat, (hdr_setBit s (.qad r) (.qad r) 8).trans (if_pos rfl),
    (hb.mono (by decide)).emit (by decide) _⟩

/-! ### The access lists (R241, R244) -/

/-- The bits that an access list keeps: a domain ID in bits 11 to 0 of each 16-bit entry, and the valid bit 15 (R244). -/
theorem getLsbD_aclMask {k : Nat} (hk : k < 64) :
    (0x8FFF8FFF8FFF8FFF : W64).getLsbD k = (decide (k % 16 < 12) || decide (k % 16 = 15)) := by
  interval_cases k <;> rfl

theorem writeAcl_open {s : State} {n : Nat} (hl : bit (s.hdr (.meas 1)).lock 0 = false) (hc : (s.mreg n).cnt = 0) (v : W64) :
    s.writeAcl n v = s.modMeas n fun m => { m with acl := v &&& 0x8FFF8FFF8FFF8FFF } := by
  unfold State.writeAcl
  rw [hl, if_neg Bool.false_ne_true, if_neg (not_not.2 hc)]

theorem writeAcl_extended {s : State} {n : Nat} (hl : bit (s.hdr (.meas 1)).lock 0 = false) (hc : (s.mreg n).cnt ≠ 0) (v : W64) :
    s.writeAcl n v = s.setBit (.meas 1) 9 := by
  unfold State.writeAcl
  rw [hl, if_neg Bool.false_ne_true, if_pos hc]

theorem answers_measAclWrite {s : State} {n : Nat} {v : W64} (h : WriteOpen s .umpire (.meas 1)) (h1 : 32 ≤ n) (h2 : n < 64)
    {P : State → Prop} (hp : P (s.writeAcl n v)) : Answers (exec (.measAclWrite .umpire n v) s) P := by
  change Answers (execMeasAclWrite .umpire n v s) P
  refine answers_umpireWrite h ?_
  rw [if_pos ⟨h1, h2⟩]
  exact hp

theorem measAclWrite_open {s : State} {n : Nat} (v : W64) (h : WriteOpen s .umpire (.meas 1)) (h1 : 32 ≤ n) (h2 : n < 64)
    (hl : bit (s.hdr (.meas 1)).lock 0 = false) (hc : (s.mreg n).cnt = 0) : Answers (exec (.measAclWrite .umpire n v) s) fun t =>
      (∀ k, k < 64 → (t.mreg n).acl.getLsbD k = (v.getLsbD k && (decide (k % 16 < 12) || decide (k % 16 = 15)))) ∧
      (t.mreg n).val = (s.mreg n).val ∧ (t.mreg n).cnt = 0 ∧ (∀ k, k ≠ n → t.mreg k = s.mreg k) ∧ Only [.meas] s t := by
  refine answers_measAclWrite h h1 h2 ?_
  rw [writeAcl_open hl hc, mreg_modMeas, if_pos rfl]
  refine ⟨fun k hk => ?_, rfl, hc, fun k hk => ?_, (Only.refl _ s).modMeas (by decide) _ _⟩
  · exact (BitVec.getLsbD_and ..).trans (congrArg _ (getLsbD_aclMask hk))
  · rw [mreg_modMeas, if_neg hk]

theorem measAclWrite_extended {s : State} {n : Nat} (v : W64) (h : WriteOpen s .umpire (.meas 1)) (h1 : 32 ≤ n) (h2 : n < 64)
    (hl : bit (s.hdr (.meas 1)).lock 0 = false) (hc : (s.mreg n).cnt ≠ 0) : Answers (exec (.measAclWrite .umpire n v) s) fun t =>
      t.meas = s.meas ∧ t.hdr (.meas 1) = (s.hdr (.meas 1)).raise (1#32 <<< 9) ∧ Only [.chip, .fns, .hdrs, .out] s t := by
  refine answers_measAclWrite h h1 h2 ?_
  rw [writeAcl_extended hl hc]
  have hb := only_setBit s (.meas 1) 9
  exact ⟨hb.same .meas, (hdr_setBit s (.meas 1) (.meas 1) 9).trans (if_pos rfl), hb.mono (by decide)⟩

/-- Settles O28, one lemma for each command and state of its unit. That the result is read as eight 64-bit registers is log entry 69's
choice, EARLY_READ for the PF too and the mask on reserved list bits log entry 40's. -/
theorem pkeAbortDirectPortAndAccessLists : Obligations.PkeAbortDirectPortAndAccessLists := by
  unfold Obligations.PkeAbortDirectPortAndAccessLists
  exact ⟨fun _ _ _ _ _ => pkeAbort_running, fun _ _ _ _ _ _ => pkeAbort_resting, fun _ _ _ => directStart_effect,
    fun _ _ => directAbort_effect, fun _ _ _ _ => qadDirOutRead_done, fun _ _ _ _ => qadDirOutRead_early,
    fun _ _ v h h1 h2 => measAclWrite_open v h h1 h2, fun _ _ v h h1 h2 => measAclWrite_extended v h h1 h2⟩

end Sys2Proof.Machine

/-!
# Management requests that change settings (O57)
-/

namespace Sys2Proof.Machine

-- One declaration after the other: elaborated side by side, the row as one text takes more threads than the check allows.
set_option Elab.async false

/-! ### Serving and answering (R422) -/

/-- A served request with a good format, from a requester who may, in a life-cycle state of its list: it acts and answers. -/
theorem answers_mgmt {s : State} {t : Transport} (h : ServedOn s t) {code : Nat} {seq : BitVec 8} {fmt permitted : Bool}
    {states : List Nat} {k : State → State × MgmtRes} {P : State → Prop} (hf : fmt = true) (hp : permitted = true)
    (hs : s.inStates states = true) (hk : P ((k s).1.mgmtAnswer t code seq (k s).2)) :
    Answers (s.mgmt t code seq fmt permitted states k) P := by
  obtain ⟨hu, ht⟩ := h
  rw [State.mgmt, State.mgmtTo, if_neg (by simp [hu, ht]), if_neg (by simp [hf]), if_neg (by simp [hp]), if_neg (by simp [hs])]
  exact .next hk

theorem mgmtReply_mgmtAnswer (s : State) (t : Transport) (code : Nat) (seq : BitVec 8) (x : MgmtRes) :
    MgmtReply (s.mgmtAnswer t code seq x) t code seq x.st x.detail x.res := List.mem_append_right _ List.mem_cons_self

/-- A request whose action fails answers status 6, and nothing else changes. -/
theorem mgmtFailed_effect (s : State) (t : Transport) (code : Nat) (seq : BitVec 8) :
    (∃ d, MgmtReply (s.mgmtFailed.1.mgmtAnswer t code seq s.mgmtFailed.2) t code seq 6 d []) ∧
      Only [.freeCtr, .out] s (s.mgmtFailed.1.mgmtAnswer t code seq s.mgmtFailed.2) :=
  ⟨⟨_, mgmtReply_mgmtAnswer _ t code seq s.mgmtFailed.2⟩, ((Only.refl _ s).spend (by decide) 1).emit (by decide) _⟩

/-- A request that has only to be acknowledged. -/
theorem mgmtOk_effect (s : State) (t : Transport) (code : Nat) (seq : BitVec 8) :
    MgmtReply ((mgmtOk s).1.mgmtAnswer t code seq (mgmtOk s).2) t code seq 0 0 [] ∧
      Only [.out] s ((mgmtOk s).1.mgmtAnswer t code seq (mgmtOk s).2) :=
  ⟨mgmtReply_mgmtAnswer s t code seq {}, (Only.refl _ s).emit (by decide) _⟩

theorem inStates_any (s : State) : s.inStates [] = true := rfl

/-- The states in which fuses may be set: MAKER and INTEGRATOR (R380, R423). -/
theorem inStates_fuses {s : State} (h : s.lcs.state = 1 ∨ s.lcs.state = 2) : s.inStates [1, 2] = true := by
  unfold State.inStates
  rcases h with h | h <;> rw [h] <;> rfl

/-! ### APPLY_CARD (R377) -/

theorem answers_applyCard {s : State} {t : Transport} (h : ServedOn s t) {seq : BitVec 8} {objs : List CardObj} {P : State → Prop}
    (hp : P (s.applyCard t seq objs)) : Answers (exec (.applyCard t seq [] objs) s) P := by
  obtain ⟨hu, ht⟩ := h
  change Answers (execApplyCard t seq [] objs s) P
  rw [execApplyCard, if_neg (by simp [hu, ht]), if_neg (by simp)]
  exact .next hp

theorem applyCard_unread {s : State} (h : s.cci.card.hdr = []) (t : Transport) (seq : BitVec 8) (objs : List CardObj) :
    s.applyCard t seq objs = s.mgmtFailed.1.mgmtAnswer t 0x05 seq s.mgmtFailed.2 := by
  unfold State.applyCard
  rw [h]
  rfl

/-- Without a manifest among the objects no update is staged (R337). -/
theorem applyStaged_of_noManifest (s : State) {os : List CardObj} (h : ∀ o ∈ os, o.kind ≠ 2) : s.applyStaged os = (s, 0) := by
  unfold State.applyStaged
  exact if_pos (.inl (List.any_eq_false.2 fun o ho e => h o ho (eq_of_beq e)))

theorem applyCard_noneMine {s : State} (h : s.cci.card.hdr ≠ []) (t : Transport) (seq : BitVec 8) {objs : List CardObj}
    (hm : ∀ o ∈ objs, s.mine o.target = false) : s.applyCard t seq objs = s.mgmtAnswer t 0x05 seq {} := by
  have hf : (objs.filter fun o => s.mine o.target) = [] := List.filter_eq_nil_iff.2 fun o ho => by simp [hm o ho]
  unfold State.applyCard
  rw [if_neg (by simpa using h), hf]
  dsimp only
  rw [applyStaged_of_noManifest s (os := []) (by simp)]
  rfl

/-- A card whose one object for this device is neither a manifest nor a transition: the object is applied and its code answered. -/
theorem applyCard_single {s : State} (h : s.cci.card.hdr ≠ []) (t : Transport) (seq : BitVec 8) {o : CardObj}
    (hm : s.mine o.target = true) (h2 : o.kind ≠ 2) (h6 : o.kind ≠ 6) : s.applyCard t seq [o] =
      (s.applyObject o).1.mgmtAnswer t 0x05 seq
        { st := if (s.applyObject o).2 = 0 then 0 else 6, detail := (s.applyObject o).2 } := by
  have hf : ([o].filter fun o => s.mine o.target) = [o] := List.filter_cons_of_pos hm
  have hb : s.applyObjects [o] = ((s.applyObject o).1, if (s.applyObject o).2 = 0 then 0 else (s.applyObject o).2, false) := by
    rw [State.applyObjects, if_neg (fun e => h6 e.1)]
    rfl
  have hc : (if (s.applyObject o).2 = 0 then 0 else (s.applyObject o).2) = (s.applyObject o).2 := by
    split
    · exact Eq.symm ‹_›
    · rfl
  unfold State.applyCard
  rw [if_neg (by simpa using h), hf]
  dsimp only
  rw [applyStaged_of_noManifest s (by simpa using h2)]
  dsimp only
  rw [hb]
  dsimp only
  rw [if_pos rfl, hc]
  rfl

theorem applyObject_program (s : State) {o : CardObj} (h : o.kind = 5) : s.applyObject o = s.loadProgram o.data := by
  unfold State.applyObject
  rw [h]
  rfl

theorem applyObject_grant (s : State) {o : CardObj} (h : o.kind = 7) : s.applyObject o =
    (s.grantRequest o.data, if s.checkGrant o.data true = 0x10 then 0 else s.checkGrant o.data true) := by
  unfold State.applyObject
  rw [h]
  rfl

theorem applyObject_ownerKey (s : State) {o : CardObj} (h : o.kind = 8) :
    s.applyObject o = (s.ownerKeyRequest o.data, s.checkOwnerKey o.data) := by
  unfold State.applyObject
  rw [h]
  rfl

/-- One object for this device, of a kind that is applied as a request of its own. -/
theorem applyCard_one_effect {s : State} {t : Transport} {seq : BitVec 8} {o : CardObj} (hc : s.cci.card.hdr ≠ [])
    (hm : s.mine o.target = true) :
    (o.kind = 5 → (s.applyCard t seq [o]).progs = (s.loadProgram o.data).1.progs ∧
      (s.applyCard t seq [o]).meas = (s.loadProgram o.data).1.meas ∧
      MgmtReply (s.applyCard t seq [o]) t 0x05 seq (if (s.loadProgram o.data).2 = 0 then 0 else 6) (s.loadProgram o.data).2 []) ∧
    (o.kind = 7 → (s.applyCard t seq [o]).store = (s.grantRequest o.data).store ∧
      (s.applyCard t seq [o]).lcs = (s.grantRequest o.data).lcs ∧
      (s.checkGrant o.data true = 0x10 → MgmtReply (s.applyCard t seq [o]) t 0x05 seq 0 0 []) ∧
      (s.checkGrant o.data true ≠ 0x10 → s.checkGrant o.data true ≠ 0 →
        MgmtReply (s.applyCard t seq [o]) t 0x05 seq 6 (s.checkGrant o.data true) [])) ∧
    (o.kind = 8 → (s.applyCard t seq [o]).otp = (s.ownerKeyRequest o.data).otp ∧
      (s.applyCard t seq [o]).lcs = (s.ownerKeyRequest o.data).lcs ∧
      MgmtReply (s.applyCard t seq [o]) t 0x05 seq (if s.checkOwnerKey o.data = 0 then 0 else 6) (s.checkOwnerKey o.data) []) := by
  refine ⟨fun hk => ?_, fun hk => ?_, fun hk => ?_⟩ <;>
    rw [applyCard_single hc t seq hm (by rw [hk]; decide) (by rw [hk]; decide)]
  · rw [applyObject_program s hk]
    exact ⟨rfl, rfl, mgmtReply_mgmtAnswer ..⟩
  · rw [applyObject_grant s hk]
    refine ⟨rfl, rfl, fun he => ?_, fun hne h0 => ?_⟩
    · rw [if_pos he]
      exact mgmtReply_mgmtAnswer ..
    · rw [if_neg hne, if_neg h0]
      exact mgmtReply_mgmtAnswer ..
  · rw [applyObject_ownerKey s hk]
    exact ⟨rfl, rfl, mgmtReply_mgmtAnswer ..⟩

/-! ### QUAR_RELEASE (R17, R404, R462) -/

/-- From `s` to `t` the regions in `l` have come back to service, every block of theirs with them, and no other has (R404). -/
structure ComeBack (l : List Nat) (s t : State) : Prop where
  quar : ∀ k, k < 4 → t.aod.quar.getLsbD k = (s.aod.quar.getLsbD k && !l.contains k)
  pages : ∀ k, ∀ p ∈ regionPages k, (t.hdr p).quar = ((s.hdr p).quar && !l.contains k)

namespace ComeBack

variable {l l' : List Nat} {s t u : State}

theorem trans (h : ComeBack l s t) (h' : ComeBack l' t u) : ComeBack (l ++ l') s u where
  quar k hk := by rw [h'.quar k hk, h.quar k hk, List.contains_append, Bool.not_or, Bool.and_assoc]
  pages k p hp := by rw [h'.pages k p hp, h.pages k p hp, List.contains_append, Bool.not_or, Bool.and_assoc]

/-- Where no quarantine changes no region comes back. -/
theorem of_same (hq : t.aod.quar = s.aod.quar) (hp : ∀ p, (t.hdr p).quar = (s.hdr p).quar) : ComeBack [] s t where
  quar k _ := by rw [hq]; simp
  pages k p _ := by rw [hp]; simp

theorem of_only {f : List Field} (h : Only f s t) (ha : .aod ∉ f := by decide) (hh : .hdrs ∉ f := by decide) : ComeBack [] s t :=
  of_same (congrArg Aod.quar (h.same .aod ha)) fun p => congrArg Hdr.quar (hdr_of_hdrs (h.same .hdrs hh) p)

theorem foldl {α : Type} {g : State → α → State} {f : α → List Nat} {xs : List α}
    (h : ∀ x ∈ xs, ∀ t, ComeBack (f x) t (g t x)) (s : State) : ComeBack (xs.flatMap f) s (xs.foldl g s) := by
  induction xs generalizing s with
  | nil => exact of_same rfl fun _ => rfl
  | cons x xs ih => exact (h x List.mem_cons_self s).trans (ih (fun y hy => h y (List.mem_cons_of_mem x hy)) (g s x))

theorem setBit (s : State) (p : PageId) (n : Nat) : ComeBack [] s (s.setBit p n) :=
  of_same (congrArg Aod.quar ((only_setBit s p n).same .aod)) fun q => (raised_setBit s p q n).2.1

end ComeBack

theorem only_bstStart (s : State) : Only [.bst] s s.bstStart := by
  have ho (g : Bst → Bst) : Only [.bst] s (s.onBst g) := (Only.refl _ s).onBst (by decide) g
  unfold State.bstStart
  extract_lets refuse
  refine (Only.refl _ s).ite ?_
  split
  · exact ho _
  · exact (ho _).ite ((ho _).ite (ho _))

/-- A test returns nothing to service (R460). -/
theorem comeBack_bstFinish (s : State) (pass : Bool) (sig : W64) (a : BitVec 30) : ComeBack [] s (s.bstFinish pass sig a) := by
  unfold State.bstFinish
  split
  · exact .of_only (Only.refl [] s)
  · extract_lets logic ok s1 s2
    have h1 : Only [.bst, .eights, .jobs, .slices] s s1 := (only_zeroBlocks s _).mono (by decide)
    have h2 : ComeBack [] s s2 := .of_only (h1.onBst (by decide) _)
    exact h2.trans (.setBit s2 .bst _)

theorem comeBack_runTest (s : State) (ok : Bool) (x : Nat × Nat) : ComeBack [] s (s.runTest ok x) := by
  unfold State.runTest
  extract_lets s1
  have h1 : ComeBack [] s s1.bstStart := .of_only (((Only.refl _ s).onBst (by decide) _).trans (only_bstStart s1))
  exact h1.trans (comeBack_bstFinish _ _ _ _)

/-- A block page belongs to one region (R58). -/
theorem regionPages_disjoint {j k : Nat} {p : PageId} (hj : p ∈ regionPages j) (hk : p ∈ regionPages k) : j = k := by
  simp only [regionPages, List.mem_cons, List.not_mem_nil, or_false] at hj hk
  rcases hj with rfl | rfl | rfl | rfl | rfl | rfl <;> simp at hk <;> omega

/-- A block outside the list of those freed keeps its quarantine. -/
theorem quar_freeBlocks_other (s : State) {ps : List PageId} {p : PageId} (hp : p ∉ ps) :
    ((ps.foldl State.freeBlock s).hdr p).quar = (s.hdr p).quar := by
  induction ps generalizing s with
  | nil => rfl
  | cons q ps ih =>
    obtain ⟨h1, h2⟩ := not_or.1 (mt List.mem_cons.2 hp)
    rw [List.foldl_cons, ih _ h2, hdr_freeBlock, if_neg h1]

theorem comeBack_freeRegion (s : State) {r : Nat} (hr : r < 4) : ComeBack [r] s (s.freeRegion r) := by
  obtain ⟨hf, hq, -⟩ := freeRegion_effect s r
  refine ⟨fun k hk => ?_, fun k p hp => ?_⟩
  · rw [hq]
    rw [BitVec.getLsbD_and, BitVec.getLsbD_not, ← BitVec.twoPow_eq, BitVec.getLsbD_twoPow]
    simp [hr, hk, eq_comm]
  · by_cases h : k = r
    · subst h
      rw [(hf p hp).1]
      simp
    · have ho := quar_freeBlocks_other s (ps := regionPages r) fun c => h (regionPages_disjoint hp c)
      unfold State.freeRegion
      generalize (regionPages r).foldl State.freeBlock s = s1 at ho
      rw [quar_syncQuar, show [r].contains k = false by simp [h], Bool.not_false, Bool.and_true]
      exact ho

/-- A region that is tested comes back if its test passes, and no other does. -/
theorem comeBack_releaseRegion (s : State) (failed : BitVec 4) {r : Nat} (hr : r < 4) :
    ComeBack (if failed.getLsbD r then [] else [r]) s (s.releaseRegion failed r) := by
  unfold State.releaseRegion
  extract_lets s1
  have h1 : ComeBack [] s s1 := by
    have h : ComeBack ((s.releaseTests r).flatMap fun _ => []) s s1 :=
      ComeBack.foldl (fun x _ t => comeBack_runTest t (!failed.getLsbD r) x) s
    rwa [List.flatMap_eq_nil_iff.2 fun _ _ => rfl] at h
  split
  · exact h1
  · exact h1.trans (comeBack_freeRegion s1 hr)

/-- An entry of the tamper log returns nothing to service (R408). -/
theorem comeBack_logTamper (s : State) (r : TRec) : ComeBack [] s (s.logTamper r) := by
  have h0 (t : State) (f : Aod → Aod) (hf : (f t.aod).quar = t.aod.quar) : ComeBack [] t (t.onAod f) := .of_same hf fun _ => rfl
  unfold State.logTamper
  extract_lets lose
  have hl : ComeBack [] s (lose s) := by
    dsimp only [lose]
    split
    · exact h0 s _ rfl
    · exact (h0 s _ rfl).trans (.setBit _ _ _)
  split
  · exact hl
  · extract_lets unread s1
    have h1 : ComeBack [] s s1 := by
      dsimp only [s1]
      split
      · exact hl
      · exact .of_same rfl fun _ => rfl
    exact h1.trans (h0 s1 _ rfl)

/-- The regions of a mask whose test passes. -/
def passing (m failed : BitVec 4) : List Nat := (maskRegions m).flatMap fun r => if failed.getLsbD r then [] else [r]

theorem contains_passing (m failed : BitVec 4) {k : Nat} (hk : k < 4) :
    (passing m failed).contains k = (m.getLsbD k && !failed.getLsbD k) := by
  have hr (r : Nat) : k ∈ (if failed.getLsbD r then [] else [r]) ↔ k = r ∧ failed.getLsbD r = false := by
    split <;> simp [*]
  rw [Bool.eq_iff_iff, List.contains_iff_mem, passing, List.mem_flatMap]
  simp only [hr, maskRegions, List.mem_filter, List.mem_range, Bool.and_eq_true, Bool.not_eq_true']
  constructor
  · rintro ⟨r, ⟨-, hm⟩, rfl, hf⟩
    exact ⟨hm, hf⟩
  · exact fun ⟨hm, hf⟩ => ⟨k, ⟨hk, hm⟩, rfl, hf⟩

theorem comeBack_releaseRegions (s : State) (m failed : BitVec 4) :
    ComeBack (passing m failed) s ((maskRegions m).foldl (fun s r => s.releaseRegion failed r) s) :=
  ComeBack.foldl (fun _ hr t => comeBack_releaseRegion t failed (List.mem_range.1 (List.mem_filter.1 hr).1)) s

/-- Of the regions named, those released are the ones that are not answered as bad. -/
theorem contains_passing_named (b : BitVec 8) (failed there : BitVec 4) {r : Nat} (hr : r < 4) :
    (passing (b.setWidth 4 &&& there) failed).contains r =
      (b.getLsbD r && !(b.setWidth 4 &&& (failed ||| ~~~there)).getLsbD r) := by
  rw [contains_passing _ _ hr]
  simp only [BitVec.getLsbD_and, BitVec.getLsbD_or, BitVec.getLsbD_not, BitVec.getLsbD_setWidth, hr, decide_true, Bool.true_and]
  cases b.getLsbD r <;> cases failed.getLsbD r <;> simp

theorem leAt_byte (b : Byte) : leAt [b] 0 1 = b.toNat := by
  simp [leAt, cut, ofLe]

theorem quarRelease_effect {s : State} (h : ServedOn s .vdm) (seq b : BitVec 8) (failed : BitVec 4) (hb : b.toNat < 16) :
    let bad : BitVec 4 := b.setWidth 4 &&& (failed ||| ~~~(BitVec.ofNat 4 (2 ^ s.variant.regions - 1)))
    Answers (exec (.quarRelease .vdm seq [b] failed) s) fun u =>
      MgmtReply u .vdm 0x08 seq (if bad = 0 then 0 else 6) bad.toNat [] ∧ ∀ r, r < 4 →
        (b.getLsbD r = true → bad.getLsbD r = false →
          u.aod.quar.getLsbD r = false ∧ ∀ p ∈ regionPages r, (u.hdr p).quar = false) ∧
        (bad.getLsbD r = true ∨ b.getLsbD r = false → u.aod.quar.getLsbD r = s.aod.quar.getLsbD r ∧
          ∀ p ∈ regionPages r, (u.hdr p).quar = (s.hdr p).quar) := by
  have hm : BitVec.ofNat 4 (leAt [b] 0 1) = b.setWidth 4 := by rw [leAt_byte, BitVec.ofNat_toNat]
  have hn {r : Nat} (hr : r < 4) :=
    contains_passing_named b failed (BitVec.ofNat 4 (2 ^ s.variant.regions - 1)) hr
  intro bad
  change Answers (execQuarRelease .vdm seq [b] failed s) _
  unfold execQuarRelease
  rw [hm]
  refine answers_mgmt h (by simp [leAt_byte, hb]) rfl (inStates_any s) ?_
  extract_lets there bad' good s1 s2
  have h1 : ComeBack (passing (b.setWidth 4 &&& there) failed) s s1 := comeBack_releaseRegions s _ _
  have h2 : ComeBack [] s1 s2 := by
    dsimp only [s2]
    split
    · exact .of_same rfl fun _ => rfl
    · exact (comeBack_logTamper s1 _).trans (.of_same rfl fun _ => rfl)
  have h3 := h1.trans h2
  rw [List.append_nil] at h3
  refine ⟨mgmtReply_mgmtAnswer .., fun r hr => ⟨fun hb hbad => ?_, fun hkeep => ?_⟩⟩
  · have hc := (hn hr).trans (show _ = true by rw [hb, hbad]; rfl)
    exact ⟨(h3.quar r hr).trans (by rw [hc, Bool.not_true, Bool.and_false]),
      fun p hp => (h3.pages r p hp).trans (by rw [hc, Bool.not_true, Bool.and_false])⟩
  · have hc := (hn hr).trans (show _ = false by rcases hkeep with e | e <;> rw [e] <;> simp)
    exact ⟨(h3.quar r hr).trans (by rw [hc, Bool.not_false, Bool.and_true]),
      fun p hp => (h3.pages r p hp).trans (by rw [hc, Bool.not_false, Bool.and_true])⟩

/-! ### The other settings -/

/-- The write of a list that is locked or in use changes no register (R241). -/
theorem meas_writeAcl_frozen {s : State} {n : Nat} (h : bit (s.hdr (.meas 1)).lock 0 = true ∨ (s.mreg n).cnt ≠ 0) (v : W64) :
    (s.writeAcl n v).meas = s.meas := by
  unfold State.writeAcl
  split
  · exact ((only_setBit s _ 4).trans (only_setBit _ _ 9)).same .meas
  · rw [if_pos (h.resolve_left ‹_›)]
    exact (only_setBit s _ 9).same .meas

theorem setMeasAcl_effect {s : State} (h : ServedOn s .vdm) (seq : BitVec 8) {args : List Byte} (hl : args.length = 9)
    (h1 : 32 ≤ leAt args 0 1) (h2 : leAt args 0 1 < 64) : Answers (exec (.setMeasAcl .vdm seq args) s) fun u =>
      if s.chip.accReset = true ∨ bit (s.hdr (.meas 1)).lock 0 = true ∨ (s.mreg (leAt args 0 1)).cnt ≠ 0 then
        (∃ d, MgmtReply u .vdm 0x09 seq 6 d []) ∧ u.meas = s.meas
      else MgmtReply u .vdm 0x09 seq 0 0 [] ∧ Only [.meas, .out] s u ∧
        (∀ n, n = leAt args 0 1 → u.mreg n = { s.mreg n with acl := BitVec.ofNat 64 (leAt args 1 8) &&& 0x8FFF8FFF8FFF8FFF }) ∧
        ∀ n, n ≠ leAt args 0 1 → u.mreg n = s.mreg n := by
  change Answers (execSetMeasAcl .vdm seq args s) _
  unfold execSetMeasAcl
  extract_lets n
  refine answers_mgmt h (by simp [hl, h1, h2, n]) rfl (inStates_any s) ?_
  have fails (t : State) (ht : t.meas = s.meas) :
      (∃ d, MgmtReply (t.mgmtFailed.1.mgmtAnswer .vdm 0x09 seq t.mgmtFailed.2) .vdm 0x09 seq 6 d []) ∧
        (t.mgmtFailed.1.mgmtAnswer .vdm 0x09 seq t.mgmtFailed.2).meas = s.meas :=
    ⟨(mgmtFailed_effect t .vdm 0x09 seq).1, ((mgmtFailed_effect t .vdm 0x09 seq).2.same .meas).trans ht⟩
  by_cases hr : s.chip.accReset = true
  · rw [if_pos (.inl hr), if_pos hr]
    exact fails s rfl
  · rw [if_neg hr]
    extract_lets s1
    by_cases hf : bit (s.hdr (.meas 1)).lock 0 = true ∨ (s.mreg n).cnt ≠ 0
    · rw [if_pos (.inr hf), if_pos hf]
      exact fails s1 (meas_writeAcl_frozen hf _)
    · rw [if_neg (not_or.2 ⟨hr, hf⟩), if_neg hf]
      obtain ⟨hlock, hcnt⟩ := not_or.1 hf
      have hs1 : s1 = s.modMeas n _ := writeAcl_open (Bool.eq_false_iff.2 hlock) (not_not.1 hcnt) _
      have hreg (k : Nat) : s1.mreg k = if k = n then
          { s.mreg n with acl := BitVec.ofNat 64 (leAt args 1 8) &&& 0x8FFF8FFF8FFF8FFF } else s.mreg k := by
        rw [hs1]
        exact mreg_modMeas s n k _
      have hw : Only [.meas, .out] s s1 := hs1 ▸ (Only.refl _ s).modMeas (by decide) n _
      obtain ⟨ha, ho⟩ := mgmtOk_effect s1 .vdm 0x09 seq
      refine ⟨ha, hw.then ho, fun k hk => ?_, fun k hk => (hreg k).trans (if_neg hk)⟩
      subst hk
      exact (hreg n).trans (if_pos rfl)

theorem disableSource_effect {s : State} {t : Transport} (h : ServedOn s t) (hs : s.lcs.state = 1 ∨ s.lcs.state = 2) (seq : BitVec 8)
    {args : List Byte} (hl : args.length = 2) (ha : leAt args 0 2 < 16384) : Answers (exec (.disableSource t seq args) s) fun u =>
      MgmtReply u t 0x0A seq 0 0 [] ∧ u.otp = { s.otp with disable := s.otp.disable ||| BitVec.ofNat 14 (leAt args 0 2) } ∧
      Only [.otp, .out] s u := by
  change Answers (execDisableSource t seq args s) _
  refine answers_mgmt h (by simp [hl, ha]) rfl (inStates_fuses hs) ?_
  exact ⟨mgmtReply_mgmtAnswer .., rfl, ((Only.refl _ s).onOtp (by decide) _).emit (by decide) _⟩

theorem programMonConfig_effect {s : State} {t : Transport} (h : ServedOn s t) (hs : s.lcs.state = 1 ∨ s.lcs.state = 2)
    (seq : BitVec 8) {args : List Byte} (hl : args.length = 12) : Answers (exec (.programMonConfig t seq args) s) fun u =>
      if s.otp.mon.length < 4 then MgmtReply u t 0x0B seq 0 0 [] ∧ u.otp = { s.otp with mon := s.otp.mon ++
        [{ cls := mergeClass s.tmp.cls (BitVec.ofNat 32 (leAt args 0 4)), region := BitVec.ofNat 64 (leAt args 4 8), valid := true }] }
      else (∃ d, MgmtReply u t 0x0B seq 6 d []) ∧ u.otp = s.otp := by
  change Answers (execProgramMonConfig t seq args s) _
  refine answers_mgmt h (by simp [hl]) rfl (inStates_fuses hs) ?_
  by_cases hm : s.otp.mon.length < 4
  · rw [if_pos hm]
    simp only [Nat.not_le.2 hm, if_false]
    exact ⟨mgmtReply_mgmtAnswer .., (logPlain_effect (s.onOtp _) 0x15).1.same .otp⟩
  · rw [if_neg hm]
    simp only [Nat.not_lt.1 hm, if_true]
    obtain ⟨hr, ho⟩ := mgmtFailed_effect s t 0x0B seq
    exact ⟨hr, ho.same .otp⟩

theorem setWdgFuses_effect {s : State} {t : Transport} (h : ServedOn s t) (hs : s.lcs.state = 1 ∨ s.lcs.state = 2)
    (seq : BitVec 8) {args : List Byte} (hl : args.length = 2) (h1 : leAt args 0 1 < 4) (h2 : leAt args 1 1 < 8) :
    Answers (exec (.setWdgFuses t seq args) s) fun u =>
      if (leAt args 0 1 = 0 ∨ s.otp.wdgWin = none) ∧ (leAt args 1 1 = 0 ∨ s.otp.wdgRep = none) then
        MgmtReply u t 0x0C seq 0 0 [] ∧ Only [.otp, .out] s u ∧ u.otp = { s.otp with
          wdgWin := if leAt args 0 1 = 0 then s.otp.wdgWin else some (BitVec.ofNat 2 (leAt args 0 1))
          wdgRep := if leAt args 1 1 = 0 then s.otp.wdgRep else some (BitVec.ofNat 3 (leAt args 1 1)) }
      else (∃ d, MgmtReply u t 0x0C seq 6 d []) ∧ u.otp = s.otp := by
  have hc : (leAt args 0 1 ≠ 0 ∧ s.otp.wdgWin.isSome = true) ∨ (leAt args 1 1 ≠ 0 ∧ s.otp.wdgRep.isSome = true) ↔
      ¬ ((leAt args 0 1 = 0 ∨ s.otp.wdgWin = none) ∧ (leAt args 1 1 = 0 ∨ s.otp.wdgRep = none)) := by
    simp only [not_and_or, not_or, Option.isSome_iff_ne_none, ne_eq]
  change Answers (execSetWdgFuses t seq args s) _
  unfold execSetWdgFuses
  refine answers_mgmt h (by simp [hl, h1, h2]) rfl (inStates_fuses hs) ?_
  extract_lets win rep
  by_cases hb : (leAt args 0 1 = 0 ∨ s.otp.wdgWin = none) ∧ (leAt args 1 1 = 0 ∨ s.otp.wdgRep = none)
  · rw [if_pos hb, if_neg (fun e => hc.1 e hb)]
    exact ⟨mgmtReply_mgmtAnswer .., ((Only.refl _ s).onOtp (by decide) _).emit (by decide) _, rfl⟩
  · rw [if_neg hb, if_pos (hc.2 hb)]
    obtain ⟨hr, ho⟩ := mgmtFailed_effect s t 0x0C seq
    exact ⟨hr, ho.same .otp⟩

/-- Settles O57, one lemma for each request. The layouts of the arguments and the order of the checks are log entry 45's choice, an
absent region counted as failed and the merge with the class in force log entry 60's. -/
theorem managementRequestsThatChangeSettings : Obligations.ManagementRequestsThatChangeSettings := by
  unfold Obligations.ManagementRequestsThatChangeSettings
  refine fun s t seq h => ⟨fun objs hc => ?_, fun objs hc hm => ?_, fun o hc hm => ?_, ?_, ?_, fun hs =>
    ⟨fun args hl ha => disableSource_effect h hs seq hl ha, fun args hl => programMonConfig_effect h hs seq hl,
      fun args hl h1 h2 => setWdgFuses_effect h hs seq hl h1 h2⟩⟩
  · refine answers_applyCard h ?_
    rw [applyCard_unread hc]
    exact mgmtFailed_effect s t 0x05 seq
  · refine answers_applyCard h ?_
    rw [applyCard_noneMine hc t seq hm]
    exact mgmtOk_effect s t 0x05 seq
  · exact answers_applyCard h (applyCard_one_effect hc hm)
  · rintro b failed rfl hb
    exact quarRelease_effect h seq b failed hb
  · rintro args rfl hl h1 h2
    exact setMeasAcl_effect h seq hl h1 h2

end Sys2Proof.Machine
